-- ==== Sys2Proof/Word.lean ====
section
/-!
DEFINITION. The word types of the machine: lane values, scalar values, bytes and lane masks.
-/

namespace Sys2Proof

/-- A vector lane value (R105). -/
abbrev Word := BitVec 32

/-- A scalar register, an address or a program counter (R10, R13). -/
abbrev DWord := BitVec 64

/-- A byte of memory (R5). -/
abbrev Byte := BitVec 8

/-- A set of lanes of one group: bit i names lane i (R12, R48). -/
abbrev Mask := BitVec 64

end Sys2Proof
end

