-- ==== Sys2Proof/Config.lean ====
section
/-!
DEFINITION. What an implementation fixes and what the spec leaves open. An `opaque` constant here has no body:
nothing can evaluate it or prove a value of it (log 4), so a statement holds whatever it is.
-/

namespace Sys2Proof.Config

/-- A fresh free value: the n-th draw (log 4). -/
opaque freeValue : Nat → BitVec 64

/-- How far, in units of the last place, the returned value of a transcendental instruction lies from the correctly
rounded one: by function (0 exp2, 1 log2, 2 sin, 3 cos) and operand bits (R117, log 6).
It is used only while the result stays within the bound of 2 ulp. -/
opaque transcendentalOffset : Nat → BitVec 32 → Int

/-- The bytes that a measurement block hashes: the spec names what they are made of, not how they are laid out (R265, log 10). -/
opaque measuredLayout : Nat → List Byte → List Byte

/-- The SHA-512 of the Molsia key and the least security version, as they are fused; the device identity key's signature over a
message, and its certificate chain: neither the fuses nor the keys are in the spec (R265, R273, log 10). -/
opaque fusedKeyHash : BitVec 512
opaque fusedVersion : Nat
opaque identitySignature : List Byte → List Byte
opaque certificateChain : List Byte

/-- The package's n-th share of a key exchange, and the code that FINISH must carry for that share and the requester's: the
secrets are not in the spec (R265, log 10). -/
opaque exchangeShare : Nat → List Byte
opaque finishCode : Nat → List Byte → List Byte

/-- What `%vchip` and the VCN fields of records hold for a virtual-chip slot that no abutment entry names: the spec states
no value (R26, R255, log 4). -/
opaque unnamedVcn : Nat → BitVec 10

/-- The counter block of a sealed flit, and the starting value of the code over a run: R268 names what the block holds, not
how it is laid out, and gives the code no starting value (log 13). -/
opaque fabricCounter : Nat → Nat → BitVec 32 → BitVec 48 → List Byte
opaque fabricTagIv : Nat → Nat → BitVec 32 → BitVec 48 → List Byte

/-- The correcting code of a flit over its bytes 0 to 87, as a number of 64 bits: R225 gives its place and what it corrects, not the
code (log 13). -/
opaque flitFec : List Byte → BitVec 64

/-- Vector register file bytes of a bay (R14). -/
def bayRegisterBytes : Nat := 65536

/-- Group places of a bay (R14). -/
def bayPlaces : Nat := 16

/-- Scratchpad bytes of a core (R2). -/
def scratchBytes : Nat := 524288

/-- Cores of a package (R1). -/
def cores : Nat := 256

/-- HBM of a package: eight stacks of 64 GiB (R1, R3). -/
def hbmStacks : Nat := 8
def hbmStackBytes : Nat := 2 ^ 36
def hbmBytes : Nat := hbmStacks * hbmStackBytes

/-- Cores of a compute die (R1). -/
def dieCores : Nat := 64

/-- Entries of a core's L1 TLB and of a compute die's L2 TLB (R141). -/
def l1TlbEntries : Nat := 256
def l2TlbEntries : Nat := 65536

/-- Sets and ways of a core's L1 data cache (R142). Its instruction cache has the same size (R2), and the same shape (DESIGN
CHOICE, log 9). -/
def l1Sets : Nat := 128
def l1Ways : Nat := 8

/-- Outstanding memory requests of a core (R2). -/
def memoryRequests : Nat := 1024

/-- Flits that the trestle buffer holds: 32 MiB of 96-byte flits (R9, R225, R230). -/
def trestleFlits : Nat := 33554432 / 96

end Sys2Proof.Config
end

