-- ==== Sys2Proof/Syntax.lean ====
section
/-!
DEFINITION. The instructions and events of spec/opcode_table.json: one constructor for each row.
An encoded row's arguments are the fields of its word, from high bits to low, under the table's names.
A row without an encoding (an event) carries as arguments the data that the step brings with it.
-/

namespace Sys2Proof

/-- What a host access to a virtual chip's memory does (R161): a load of some bytes, a store of given bytes, or a flush of the line
(R155), at a paged address; the spec does not say how the host names frames that no page maps yet, so the model has the same two at a physical
address of HBM, or of host memory (log 15). -/
inductive HostAccess where
  | load (count : Nat)
  | store (bytes : List Byte)
  | flush
  | loadFrame (host : Bool) (count : Nat)
  | storeFrame (host : Bool) (bytes : List Byte)
  deriving DecidableEq, Repr

/-- The TDISP requests that move a device interface between its states (R265). -/
inductive TdispRequest where
  | lock
  | start
  deriving DecidableEq, Repr

/-- What the boot ROM finds at power good (R273, R302): the Olzer image, its security version and configuration, the key that it is
signed with, and the ECDSA P-521 signature. -/
structure BootImage where
  image : List Byte
  version : Nat
  config : List Byte
  keyX : Nat
  keyY : Nat
  sigR : Nat
  sigS : Nat
  deriving DecidableEq, Repr

/-- A request of an SPDM session that brings data of the requester: the interface, and its share of a key exchange or the code
over the exchange (R265). -/
structure SpdmMessage where
  v : Nat
  body : List Byte
  deriving DecidableEq, Repr

/-- What a flit's operation names at its target. The header of R226 has no field for an endpoint, an expected incarnation or a
span member, which the target needs (R135, R245): the model carries them beside the header (log 13). -/
inductive FlitDest where
  /-- exported memory (R236) -/
  | memory
  /-- exported memory, for an atomic at the home slice (R248, `SH` of R238) -/
  | home
  /-- the memory of a pool node (R250) -/
  | pool
  /-- a team endpoint, with the incarnation that the source expects, 0 for any (R237, R245) -/
  | endpoint (e : Nat) (inc : BitVec 64)
  /-- a queue (R245) -/
  | queue (e : Nat)
  /-- the scratchpad of a span member (R136): span ID, grid index, rank, and what a load does to its line (0 nothing,
  1 waits, 2 waits and consumes; a fill: 3 full, 4 empty) with the reader count of a fill, and, for a form that acts on lines, the
  offsets of its lanes -/
  | span (id : BitVec 64) (index rank form : Nat) (rc : BitVec 6) (offs : List Nat)
  deriving DecidableEq, Repr

/-- The flits of one operation that a tag flit covers: whether they are replies, and their offsets in the order of the run (R268). -/
structure TagRun where
  replies : Bool
  offs : List (BitVec 48)
  deriving DecidableEq, Repr

/-- A flit as a light die receives it after forward error correction (R225, R226); `seq` is its number within its port and slot
(R233). Whether it is sealed, the link key that opened it at its receiver, and the run of a tag flit stand beside its bytes (R257, R268;
log 13). -/
structure Flit where
  payload : List Byte
  tag : BitVec 32
  off : BitVec 48
  tg : Bool
  nb : BitVec 7
  reserved : BitVec 6
  last : Bool
  rly : Bool
  op : BitVec 4
  sslot : BitVec 4
  spkg : BitVec 10
  dslot : BitVec 4
  dpkg : BitVec 10
  seq : Nat
  crc : BitVec 32
  dest : FlitDest
  sealed : Bool
  opened : Option (List Byte)
  run : Option TagRun
  deriving DecidableEq, Repr

/-- One constructor per row of spec/opcode_table.json. -/
inductive Instr where
  /-- `ADD_COMPACT` (R307): Compact 16-bit register add vd <- vd + vs in every active lane. -/
  | addCompact (s : BitVec 5) (d : BitVec 5)
  /-- `ADD_COMPACT_IMM` (R307): Compact 16-bit add of a sign-extended 5-bit immediate. -/
  | addCompactImm (i : BitVec 5) (d : BitVec 5)
  /-- `SUB_COMPACT` (R307): Compact register subtract vd <- vd - vs. -/
  | subCompact (s : BitVec 5) (d : BitVec 5)
  /-- `SUB_COMPACT_IMM` (R307): Compact subtract of a sign-extended 5-bit immediate. -/
  | subCompactImm (i : BitVec 5) (d : BitVec 5)
  /-- `AND_COMPACT` (R307): Compact register bitwise AND. -/
  | andCompact (s : BitVec 5) (d : BitVec 5)
  /-- `AND_COMPACT_IMM` (R307): Compact bitwise AND with a sign-extended immediate. -/
  | andCompactImm (i : BitVec 5) (d : BitVec 5)
  /-- `OR_COMPACT` (R307): Compact register bitwise OR. -/
  | orCompact (s : BitVec 5) (d : BitVec 5)
  /-- `OR_COMPACT_IMM` (R307): Compact bitwise OR with a sign-extended immediate. -/
  | orCompactImm (i : BitVec 5) (d : BitVec 5)
  /-- `XOR_COMPACT` (R307): Compact register bitwise XOR. -/
  | xorCompact (s : BitVec 5) (d : BitVec 5)
  /-- `XOR_COMPACT_IMM` (R307): Compact bitwise XOR with a sign-extended immediate. -/
  | xorCompactImm (i : BitVec 5) (d : BitVec 5)
  /-- `SHL_COMPACT` (R307): Compact shift left by a register count mod 32. -/
  | shlCompact (s : BitVec 5) (d : BitVec 5)
  /-- `SHL_COMPACT_IMM` (R307): Compact shift left by an immediate count 0-31. -/
  | shlCompactImm (i : BitVec 5) (d : BitVec 5)
  /-- `SHR_COMPACT` (R307): Compact logical shift right by a register count. -/
  | shrCompact (s : BitVec 5) (d : BitVec 5)
  /-- `SHR_COMPACT_IMM` (R307): Compact logical shift right by an immediate count. -/
  | shrCompactImm (i : BitVec 5) (d : BitVec 5)
  /-- `MOV_COMPACT` (R410): Compact register move. -/
  | movCompact (s : BitVec 5) (d : BitVec 5)
  /-- `MOV_COMPACT_IMM` (R410): Compact move of a sign-extended 5-bit immediate. -/
  | movCompactImm (i : BitVec 5) (d : BitVec 5)
  /-- `FADD_COMPACT` (R307): Compact binary32 add vd <- vd + vs. -/
  | faddCompact (s : BitVec 5) (d : BitVec 5)
  /-- `FMUL_COMPACT` (R307): Compact binary32 multiply. -/
  | fmulCompact (s : BitVec 5) (d : BitVec 5)
  /-- `FSUB_COMPACT` (R307): Compact binary32 subtract. -/
  | fsubCompact (s : BitVec 5) (d : BitVec 5)
  /-- `FMAX_COMPACT` (R307): Compact binary32 maximum by R109. -/
  | fmaxCompact (s : BitVec 5) (d : BitVec 5)
  /-- `FMIN_COMPACT` (R307): Compact binary32 minimum by R109. -/
  | fminCompact (s : BitVec 5) (d : BitVec 5)
  /-- `MUL_COMPACT` (R307): Compact low 32-bit integer multiply. -/
  | mulCompact (s : BitVec 5) (d : BitVec 5)
  /-- `MIN_I32_COMPACT` (R307): Compact signed 32-bit minimum. -/
  | minI32Compact (s : BitVec 5) (d : BitVec 5)
  /-- `MAX_I32_COMPACT` (R307): Compact signed 32-bit maximum. -/
  | maxI32Compact (s : BitVec 5) (d : BitVec 5)
  /-- `SADD` (R444): Scalar 64-bit add. -/
  | sadd (b : BitVec 6) (a : BitVec 6) (d : BitVec 6)
  /-- `SSUB` (R444): Scalar 64-bit subtract. -/
  | ssub (b : BitVec 6) (a : BitVec 6) (d : BitVec 6)
  /-- `SMUL` (R444): Scalar multiply, low half or signed/unsigned high half selected by fn6. -/
  | smul (f : BitVec 6) (b : BitVec 6) (a : BitVec 6) (d : BitVec 6)
  /-- `SAND` (R444): Scalar bitwise AND. -/
  | sand (b : BitVec 6) (a : BitVec 6) (d : BitVec 6)
  /-- `SOR` (R444): Scalar bitwise OR. -/
  | sor (b : BitVec 6) (a : BitVec 6) (d : BitVec 6)
  /-- `SXOR` (R444): Scalar bitwise XOR. -/
  | sxor (b : BitVec 6) (a : BitVec 6) (d : BitVec 6)
  /-- `SANDN` (R444): Scalar sa AND NOT sb. -/
  | sandn (b : BitVec 6) (a : BitVec 6) (d : BitVec 6)
  /-- `SSHL` (R444): Scalar shift left by sb mod 64. -/
  | sshl (b : BitVec 6) (a : BitVec 6) (d : BitVec 6)
  /-- `SSHR` (R444): Scalar logical shift right. -/
  | sshr (b : BitVec 6) (a : BitVec 6) (d : BitVec 6)
  /-- `SSRA` (R444): Scalar arithmetic shift right. -/
  | ssra (b : BitVec 6) (a : BitVec 6) (d : BitVec 6)
  /-- `SMIN` (R444): Scalar signed or unsigned 64-bit minimum. -/
  | smin (s : BitVec 1) (b : BitVec 6) (a : BitVec 6) (d : BitVec 6)
  /-- `SMAX` (R444): Scalar signed or unsigned 64-bit maximum. -/
  | smax (s : BitVec 1) (b : BitVec 6) (a : BitVec 6) (d : BitVec 6)
  /-- `SADDI` (R444): Scalar add of a sign-extended 12-bit immediate. -/
  | saddi (i : BitVec 12) (a : BitVec 6) (d : BitVec 6)
  /-- `SMOVI` (R456): Writes a 16-bit immediate into one quarter of a scalar register. -/
  | smovi (i : BitVec 16) (c : BitVec 2) (d : BitVec 6)
  /-- `SCMP` (R448): Scalar compare writing 1 or 0 by the relation in fn6. -/
  | scmp (f : BitVec 6) (b : BitVec 6) (a : BitVec 6) (d : BitVec 6)
  /-- `SLD` (R454): Scalar 64-bit load with optional acquire order and scope. -/
  | sld (i : BitVec 4) (l : BitVec 4) (r : BitVec 2) (c : BitVec 2) (a : BitVec 6) (d : BitVec 6)
  /-- `SST` (R454): Scalar 64-bit store with optional release order and scope. -/
  | sst (i : BitVec 4) (l : BitVec 4) (r : BitVec 2) (c : BitVec 2) (a : BitVec 6) (d : BitVec 6)
  /-- `SRD` (R458): Reads a group-uniform special register into a scalar register. -/
  | srd (i : BitVec 12) (d : BitVec 6)
  /-- `SWR` (R458): Writes a group-uniform special register from a scalar register. -/
  | swr (i : BitVec 12) (a : BitVec 6)
  /-- `SLANE` (R453): Copies one lane's vector register into a scalar register. -/
  | slane (l : BitVec 6) (a : BitVec 6) (d : BitVec 6)
  /-- `SBRA` (R446): Group-uniform branch on a scalar register being zero or non-zero. -/
  | sbra (i : BitVec 12) (a : BitVec 6) (z : BitVec 1)
  /-- `SATOM` (R445): Scalar 64-bit atomic read-modify-write selected by imm4. -/
  | satom (o : BitVec 4) (l : BitVec 4) (r : BitVec 2) (c : BitVec 2) (a : BitVec 6) (d : BitVec 6)
  /-- `ADD` (R346): Vector 32-bit add, predicated. -/
  | add (n : BitVec 1) (g : BitVec 3) (b : BitVec 6) (a : BitVec 6) (d : BitVec 6)
  /-- `SUB` (R463): Vector 32-bit subtract, predicated. -/
  | sub (n : BitVec 1) (g : BitVec 3) (b : BitVec 6) (a : BitVec 6) (d : BitVec 6)
  /-- `MUL` (R414): Vector low 32-bit multiply. -/
  | mul (n : BitVec 1) (g : BitVec 3) (b : BitVec 6) (a : BitVec 6) (d : BitVec 6)
  /-- `MULHI` (R415): Vector high 32 bits of the signed or unsigned product. -/
  | mulhi (s : BitVec 1) (n : BitVec 1) (g : BitVec 3) (b : BitVec 6) (a : BitVec 6) (d : BitVec 6)
  /-- `MAD` (R405): Vector integer multiply-add into vd. -/
  | mad (n : BitVec 1) (g : BitVec 3) (b : BitVec 6) (a : BitVec 6) (d : BitVec 6)
  /-- `AND` (R347): Vector bitwise AND. -/
  | and (n : BitVec 1) (g : BitVec 3) (b : BitVec 6) (a : BitVec 6) (d : BitVec 6)
  /-- `OR` (R420): Vector bitwise OR. -/
  | or (n : BitVec 1) (g : BitVec 3) (b : BitVec 6) (a : BitVec 6) (d : BitVec 6)
  /-- `XOR` (R466): Vector bitwise XOR. -/
  | xor (n : BitVec 1) (g : BitVec 3) (b : BitVec 6) (a : BitVec 6) (d : BitVec 6)
  /-- `ANDN` (R347): Vector va AND NOT vb. -/
  | andn (n : BitVec 1) (g : BitVec 3) (b : BitVec 6) (a : BitVec 6) (d : BitVec 6)
  /-- `SHL` (R451): Vector shift left by a register count. -/
  | shl (n : BitVec 1) (g : BitVec 3) (b : BitVec 6) (a : BitVec 6) (d : BitVec 6)
  /-- `SHR` (R451): Vector logical shift right. -/
  | shr (n : BitVec 1) (g : BitVec 3) (b : BitVec 6) (a : BitVec 6) (d : BitVec 6)
  /-- `SRA` (R451): Vector arithmetic shift right. -/
  | sra (n : BitVec 1) (g : BitVec 3) (b : BitVec 6) (a : BitVec 6) (d : BitVec 6)
  /-- `MIN` (R407): Vector signed or unsigned minimum. -/
  | min (s : BitVec 1) (n : BitVec 1) (g : BitVec 3) (b : BitVec 6) (a : BitVec 6) (d : BitVec 6)
  /-- `MAX` (R407): Vector signed or unsigned maximum. -/
  | max (s : BitVec 1) (n : BitVec 1) (g : BitVec 3) (b : BitVec 6) (a : BitVec 6) (d : BitVec 6)
  /-- `ABS` (R344): Vector integer absolute value. -/
  | abs (n : BitVec 1) (g : BitVec 3) (a : BitVec 6) (d : BitVec 6)
  /-- `NEG` (R418): Vector integer negation. -/
  | neg (n : BitVec 1) (g : BitVec 3) (a : BitVec 6) (d : BitVec 6)
  /-- `CLZ` (R356): Vector count of leading zeros. -/
  | clz (n : BitVec 1) (g : BitVec 3) (a : BitVec 6) (d : BitVec 6)
  /-- `POPC` (R432): Vector population count. -/
  | popc (n : BitVec 1) (g : BitVec 3) (a : BitVec 6) (d : BitVec 6)
  /-- `BREV` (R356): Vector bit reversal. -/
  | brev (n : BitVec 1) (g : BitVec 3) (a : BitVec 6) (d : BitVec 6)
  /-- `ADDI` (R345): Vector add of a sign-extended 9-bit immediate. -/
  | addi (g : BitVec 3) (i : BitVec 9) (a : BitVec 6) (d : BitVec 6)
  /-- `SHLI` (R452): Vector shift left by an immediate 0-31. -/
  | shli (g : BitVec 3) (k : BitVec 5) (a : BitVec 6) (d : BitVec 6)
  /-- `SHRI` (R452): Vector logical shift right by an immediate 0-31. -/
  | shri (g : BitVec 3) (k : BitVec 5) (a : BitVec 6) (d : BitVec 6)
  /-- `MOVS` (R411): Broadcasts the low or high half of a scalar register to a vector register. -/
  | movs (h : BitVec 1) (b : BitVec 6) (d : BitVec 6)
  /-- `MOV` (R410): Vector 32-bit register move, predicated. -/
  | mov (n : BitVec 1) (g : BitVec 3) (a : BitVec 6) (d : BitVec 6)
  /-- `SEL` (R449): Per-lane select between two registers by a predicate. -/
  | sel (n : BitVec 1) (g : BitVec 3) (b : BitVec 6) (a : BitVec 6) (d : BitVec 6)
  /-- `CMP` (R362): Signed vector compare writing a predicate. -/
  | cmp (f : BitVec 2) (n : BitVec 1) (g : BitVec 3) (b : BitVec 6) (a : BitVec 6) (p : BitVec 3)
  /-- `CMPN` (R362): Unsigned vector compare writing a predicate. -/
  | cmpn (f : BitVec 2) (n : BitVec 1) (g : BitVec 3) (b : BitVec 6) (a : BitVec 6) (p : BitVec 3)
  /-- `CVT` (R367): Integer sign-extension or saturating narrowing conversion. -/
  | cvt (f : BitVec 2) (n : BitVec 1) (g : BitVec 3) (a : BitVec 6) (d : BitVec 6)
  /-- `PLANE` (R333): Gathers or scatters one bit-plane across a block of lanes. -/
  | plane (f : BitVec 1) (n : BitVec 1) (g : BitVec 3) (k : BitVec 5) (a : BitVec 6) (d : BitVec 6)
  /-- `LRD` (R404): Reads a per-lane special register into a vector register. -/
  | lrd (g : BitVec 3) (i : BitVec 9) (d : BitVec 6)
  /-- `PAND` (R421): Per-lane predicate AND. -/
  | pand (n : BitVec 1) (g : BitVec 3) (b : BitVec 3) (a : BitVec 3) (d : BitVec 3)
  /-- `POR` (R421): Per-lane predicate OR. -/
  | por (n : BitVec 1) (g : BitVec 3) (b : BitVec 3) (a : BitVec 3) (d : BitVec 3)
  /-- `PNOT` (R421): Per-lane predicate NOT. -/
  | pnot (n : BitVec 1) (g : BitVec 3) (a : BitVec 3) (d : BitVec 3)
  /-- `BFE` (R354): Bit-field extract, zero- or sign-extended. -/
  | bfe (s : BitVec 1) (n : BitVec 1) (g : BitVec 3) (b : BitVec 6) (a : BitVec 6) (d : BitVec 6)
  /-- `BFI` (R354): Bit-field insert into vd. -/
  | bfi (n : BitVec 1) (g : BitVec 3) (b : BitVec 6) (a : BitVec 6) (d : BitVec 6)
  /-- `DOT4` (R373): Four-way byte dot product accumulated into vd. -/
  | dot4 (f : BitVec 2) (n : BitVec 1) (g : BitVec 3) (b : BitVec 6) (a : BitVec 6) (d : BitVec 6)
  /-- `FADD` (R381): Vector binary32 add. -/
  | fadd (n : BitVec 1) (g : BitVec 3) (b : BitVec 6) (a : BitVec 6) (d : BitVec 6)
  /-- `FSUB` (R381): Vector binary32 subtract. -/
  | fsub (n : BitVec 1) (g : BitVec 3) (b : BitVec 6) (a : BitVec 6) (d : BitVec 6)
  /-- `FMUL` (R381): Vector binary32 multiply. -/
  | fmul (n : BitVec 1) (g : BitVec 3) (b : BitVec 6) (a : BitVec 6) (d : BitVec 6)
  /-- `FFMA` (R390): Vector fused multiply-add with one rounding. -/
  | ffma (n : BitVec 1) (g : BitVec 3) (b : BitVec 6) (a : BitVec 6) (d : BitVec 6)
  /-- `FMIN` (R391): Vector binary32 minimum. -/
  | fmin (n : BitVec 1) (g : BitVec 3) (b : BitVec 6) (a : BitVec 6) (d : BitVec 6)
  /-- `FMAX` (R391): Vector binary32 maximum. -/
  | fmax (n : BitVec 1) (g : BitVec 3) (b : BitVec 6) (a : BitVec 6) (d : BitVec 6)
  /-- `FCMP` (R383): Vector float compare writing a predicate. -/
  | fcmp (f : BitVec 2) (n : BitVec 1) (g : BitVec 3) (b : BitVec 6) (a : BitVec 6) (p : BitVec 3)
  /-- `FRCP` (R392): Correctly rounded reciprocal. -/
  | frcp (n : BitVec 1) (g : BitVec 3) (a : BitVec 6) (d : BitVec 6)
  /-- `FRSQ` (R392): Correctly rounded reciprocal square root. -/
  | frsq (n : BitVec 1) (g : BitVec 3) (a : BitVec 6) (d : BitVec 6)
  /-- `FSQRT` (R392): Correctly rounded square root. -/
  | fsqrt (n : BitVec 1) (g : BitVec 3) (a : BitVec 6) (d : BitVec 6)
  /-- `FDIV` (R386): Correctly rounded division. -/
  | fdiv (n : BitVec 1) (g : BitVec 3) (b : BitVec 6) (a : BitVec 6) (d : BitVec 6)
  /-- `FEXP2` (R389): Base-2 exponential within 2 ulp. -/
  | fexp2 (n : BitVec 1) (g : BitVec 3) (a : BitVec 6) (d : BitVec 6)
  /-- `FLOG2` (R389): Base-2 logarithm within 2 ulp. -/
  | flog2 (n : BitVec 1) (g : BitVec 3) (a : BitVec 6) (d : BitVec 6)
  /-- `FSIN` (R389): Sine within 2 ulp. -/
  | fsin (n : BitVec 1) (g : BitVec 3) (a : BitVec 6) (d : BitVec 6)
  /-- `FCOS` (R389): Cosine within 2 ulp. -/
  | fcos (n : BitVec 1) (g : BitVec 3) (a : BitVec 6) (d : BitVec 6)
  /-- `FCVT` (R385): Conversion between f32 and f16 or bf16. -/
  | fcvt (f : BitVec 2) (n : BitVec 1) (g : BitVec 3) (a : BitVec 6) (d : BitVec 6)
  /-- `NCVT` (R417): Packs or unpacks one narrow-float element. -/
  | ncvt (u : BitVec 1) (n : BitVec 1) (g : BitVec 3) (j : BitVec 4) (f : BitVec 2) (a : BitVec 6) (d : BitVec 6)
  /-- `ICVT_F32_TO_INT` (R397): Float to 32-bit integer conversion with a rounding mode and saturation. -/
  | icvtF32ToInt (s : BitVec 1) (n : BitVec 1) (g : BitVec 3) (m : BitVec 3) (a : BitVec 6) (d : BitVec 6)
  /-- `ICVT_INT_TO_F32` (R397): 32-bit integer to float conversion rounded by RM. -/
  | icvtIntToF32 (s : BitVec 1) (n : BitVec 1) (g : BitVec 3) (a : BitVec 6) (d : BitVec 6)
  /-- `FCLASS` (R382): Classifies a float into a one-hot class word. -/
  | fclass (n : BitVec 1) (g : BitVec 3) (a : BitVec 6) (d : BitVec 6)
  /-- `FSCL` (R394): Scales a float by a power of two. -/
  | fscl (n : BitVec 1) (g : BitVec 3) (b : BitVec 6) (a : BitVec 6) (d : BitVec 6)
  /-- `FABS` (R379): Clears the sign bit. -/
  | fabs (n : BitVec 1) (g : BitVec 3) (a : BitVec 6) (d : BitVec 6)
  /-- `FNEG` (R379): Inverts the sign bit. -/
  | fneg (n : BitVec 1) (g : BitVec 3) (a : BitVec 6) (d : BitVec 6)
  /-- `FCPYS` (R379): Copies the sign of vb onto the magnitude of va. -/
  | fcpys (n : BitVec 1) (g : BitVec 3) (b : BitVec 6) (a : BitVec 6) (d : BitVec 6)
  /-- `FRND` (R393): Rounds a float to an integral value by a mode. -/
  | frnd (n : BitVec 1) (g : BitVec 3) (m : BitVec 3) (a : BitVec 6) (d : BitVec 6)
  /-- `DADD` (R371): Emulated binary64 add. -/
  | dadd (n : BitVec 1) (g : BitVec 3) (b : BitVec 6) (a : BitVec 6) (d : BitVec 6)
  /-- `DSUB` (R371): Emulated binary64 subtract. -/
  | dsub (n : BitVec 1) (g : BitVec 3) (b : BitVec 6) (a : BitVec 6) (d : BitVec 6)
  /-- `DMUL` (R371): Emulated binary64 multiply. -/
  | dmul (n : BitVec 1) (g : BitVec 3) (b : BitVec 6) (a : BitVec 6) (d : BitVec 6)
  /-- `DFMA` (R371): Emulated binary64 fused multiply-add. -/
  | dfma (n : BitVec 1) (g : BitVec 3) (b : BitVec 6) (a : BitVec 6) (d : BitVec 6)
  /-- `DDIV` (R372): Emulated binary64 division. -/
  | ddiv (n : BitVec 1) (g : BitVec 3) (b : BitVec 6) (a : BitVec 6) (d : BitVec 6)
  /-- `DSQRT` (R372): Emulated binary64 square root. -/
  | dsqrt (n : BitVec 1) (g : BitVec 3) (a : BitVec 6) (d : BitVec 6)
  /-- `DCVT` (R372): Emulated conversion between f64 and f32. -/
  | dcvt (s : BitVec 1) (n : BitVec 1) (g : BitVec 3) (a : BitVec 6) (d : BitVec 6)
  /-- `SHFL` (R450): Convergent lane shuffle by index, up, down or xor. -/
  | shfl (f : BitVec 2) (b : BitVec 6) (a : BitVec 6) (d : BitVec 6)
  /-- `VOTE` (R465): Convergent all or any vote writing a predicate. -/
  | vote (f : BitVec 1) (a : BitVec 3) (d : BitVec 3)
  /-- `VOTE_BALLOT` (R465): Convergent ballot of a predicate into a scalar register. -/
  | voteBallot (a : BitVec 3) (d : BitVec 6)
  /-- `REDUX` (R440): Convergent reduction over live lanes in fixed tree order. -/
  | redux (f : BitVec 2) (t : BitVec 2) (a : BitVec 6) (d : BitVec 6)
  /-- `SCAN` (R447): Convergent inclusive or exclusive prefix scan. -/
  | scan (f : BitVec 2) (e : BitVec 1) (t : BitVec 2) (a : BitVec 6) (d : BitVec 6)
  /-- `MATCH` (R406): Convergent mask of lanes holding equal values. -/
  | matchLanes (h : BitVec 1) (a : BitVec 6) (d : BitVec 6)
  /-- `PERM` (R426): Per-lane byte permutation of a register pair. -/
  | perm (n : BitVec 1) (g : BitVec 3) (b : BitVec 6) (a : BitVec 6) (d : BitVec 6)
  /-- `ELECT` (R374): Convergent election of the lowest live lane. -/
  | elect (d : BitVec 3)
  /-- `GSYNC` (R395): Convergent acquire-release at group scope. -/
  | gsync
  /-- `BRA` (R355): Predicated relative branch. -/
  | bra (o : BitVec 20) (n : BitVec 1) (g : BitVec 3)
  /-- `JMP` (R398): Indirect jump of every active lane to a scalar address. -/
  | jmp (a : BitVec 6)
  /-- `CALL` (R63): Relative call pushing the return address on each lane's return stack. -/
  | call (o : BitVec 20) (n : BitVec 1) (g : BitVec 3)
  /-- `CALLV` (R63): Per-lane indirect call through base plus lane offset. -/
  | callv (a : BitVec 6) (b : BitVec 6)
  /-- `RET` (R442): Pops each acting lane's return stack and jumps there. -/
  | ret (n : BitVec 1) (g : BitVec 3)
  /-- `EXIT` (R378): Ends the acting lanes; retires the group when none is live. -/
  | exit (n : BitVec 1) (g : BitVec 3)
  /-- `REFILL` (R74): Hands each acting lane the team's next queue item or drains it. -/
  | refill (n : BitVec 1) (g : BitVec 3)
  /-- `NOP` (R419): Does nothing. -/
  | nop (n : BitVec 1) (g : BitVec 3)
  /-- `YIELD` (R467): Stops the bundle issuing until the next regroup. -/
  | yield (n : BitVec 1) (g : BitVec 3)
  /-- `SLEEP` (R455): Holds the acting lanes for at least 16 x n clocks. -/
  | sleep (k : BitVec 16) (n : BitVec 1) (g : BitVec 3)
  /-- `TRAP` (R464): Raises the trap-instruction fault. -/
  | trap (k : BitVec 16) (n : BitVec 1) (g : BitVec 3)
  /-- `BRK` (R357): Raises the breakpoint fault. -/
  | brk (k : BitVec 16) (n : BitVec 1) (g : BitVec 3)
  /-- `LD` (R400): Per-lane plain or invariant 32- or 64-bit load. -/
  | ld (f : BitVec 2) (l : BitVec 4) (a : BitVec 6) (b : BitVec 6) (d : BitVec 6)
  /-- `ST` (R460): Per-lane 8-, 16-, 32- or 64-bit store. -/
  | st (f : BitVec 2) (l : BitVec 4) (a : BitVec 6) (b : BitVec 6) (d : BitVec 6)
  /-- `LDW` (R403): Load that waits for the line's full bit without consuming. -/
  | ldw (l : BitVec 4) (a : BitVec 6) (b : BitVec 6) (d : BitVec 6)
  /-- `LDC` (R403): Consuming load that waits for full and lowers the reader count. -/
  | ldc (l : BitVec 4) (a : BitVec 6) (b : BitVec 6) (d : BitVec 6)
  /-- `LDQ` (R403): Consuming stage-ring load matching a sequence number. -/
  | ldq (l : BitVec 4) (a : BitVec 6) (b : BitVec 6) (d : BitVec 6)
  /-- `LDQW` (R403): Non-consuming stage-ring load matching a sequence number. -/
  | ldqw (l : BitVec 4) (a : BitVec 6) (b : BitVec 6) (d : BitVec 6)
  /-- `STF` (R462): Filling store setting full and reader count on the line. -/
  | stf (l : BitVec 4) (a : BitVec 6) (b : BitVec 6) (d : BitVec 6)
  /-- `STE` (R462): Store that empties the line's metadata. -/
  | ste (l : BitVec 4) (a : BitVec 6) (b : BitVec 6) (d : BitVec 6)
  /-- `STQ` (R462): Stage-ring fill setting SEQ from the sequence. -/
  | stq (l : BitVec 4) (a : BitVec 6) (b : BitVec 6) (d : BitVec 6)
  /-- `ATOM` (R349): Per-lane add or signed min/max atomic. -/
  | atom (f : BitVec 2) (l : BitVec 4) (a : BitVec 6) (b : BitVec 6) (d : BitVec 6)
  /-- `ATOMB` (R349): Per-lane bitwise or exchange atomic. -/
  | atomb (f : BitVec 2) (l : BitVec 4) (a : BitVec 6) (b : BitVec 6) (d : BitVec 6)
  /-- `ATOMC_CAS` (R349): Per-lane compare-and-swap. -/
  | atomcCas (l : BitVec 4) (a : BitVec 6) (b : BitVec 6) (d : BitVec 6)
  /-- `ATOMC_MIN_N32` (R349): Per-lane unsigned minimum atomic. -/
  | atomcMinN32 (l : BitVec 4) (a : BitVec 6) (b : BitVec 6) (d : BitVec 6)
  /-- `ATOMC_MAX_N32` (R349): Per-lane unsigned maximum atomic. -/
  | atomcMaxN32 (l : BitVec 4) (a : BitVec 6) (b : BitVec 6) (d : BitVec 6)
  /-- `STC` (R461): Counted 32-bit fill with reader count from %rcount. -/
  | stc (l : BitVec 4) (a : BitVec 6) (b : BitVec 6) (d : BitVec 6)
  /-- `FENCE` (R163): Acquire, release or full fence at a scope. -/
  | fence (c : BitVec 2) (k : BitVec 2)
  /-- `PREF` (R435): Prefetch hint that never faults. -/
  | pref (a : BitVec 6) (b : BitVec 6)
  /-- `CFLUSH` (R361): Writes back named lines and ends counted lines. -/
  | cflush (a : BitVec 6) (b : BitVec 6)
  /-- `CPY_IN` (R364): Issues a copy slice from paged memory to the scratchpad. -/
  | cpyIn (l : BitVec 4) (b : BitVec 6) (a : BitVec 6) (t : BitVec 6)
  /-- `CPY_OUT` (R364): Issues a copy slice from the scratchpad to paged memory. -/
  | cpyOut (l : BitVec 4) (b : BitVec 6) (a : BitVec 6) (t : BitVec 6)
  /-- `CPY_LOCAL` (R364): Issues a copy slice within the team window. -/
  | cpyLocal (l : BitVec 4) (b : BitVec 6) (a : BitVec 6) (t : BitVec 6)
  /-- `CSEAL` (R366): Seals the group's unsealed copies into a new batch. -/
  | cseal
  /-- `MMA` (R408): Issues a plane-serial matrix multiply into the result ring. -/
  | mma (l : BitVec 4) (a : BitVec 6)
  /-- `MRELS` (R412): Claims the oldest ring slot to free it without an epilogue. -/
  | mrels (l : BitVec 4)
  /-- `EPI` (R375): Claims the oldest ring slot for an epilogue job. -/
  | epi (l : BitVec 4) (a : BitVec 6)
  /-- `MSTAT` (R413): Reads matrix engine status and clears its error state. -/
  | mstat (l : BitVec 4) (t : BitVec 6)
  /-- `BAR` (R31): Arrives at a named barrier and waits for the phase. -/
  | bar (b : BitVec 4)
  /-- `BARA` (R31): Arrives at a named barrier without waiting. -/
  | bara (b : BitVec 4)
  /-- `BARW` (R31): Waits for the current barrier phase without arriving. -/
  | barw (b : BitVec 4)
  /-- `BARX` (R31): Withdraws the group from a named barrier. -/
  | barx (b : BitVec 4)
  /-- `SPANJ` (R38): Attaches the team to its span. -/
  | spanj
  /-- `SPANX` (R38): Begins the team's detachment from its span. -/
  | spanx
  /-- `SPANB` (R38): Barrier among non-detached span members. -/
  | spanb
  /-- `PSEND` (R438): Group-wide push or pull transfer over a channel. -/
  | psend (l : BitVec 4) (a : BitVec 6) (c : BitVec 5) (t : BitVec 6)
  /-- `PPUT` (R434): Per-lane 4-byte remote write. -/
  | pput (l : BitVec 4) (a : BitVec 6) (c : BitVec 5) (d : BitVec 6)
  /-- `PGET` (R428): Per-lane 4-byte remote read. -/
  | pget (l : BitVec 4) (a : BitVec 6) (c : BitVec 5) (d : BitVec 6)
  /-- `PMCAST` (R431): Group-wide multicast write to a multicast set. -/
  | pmcast (l : BitVec 4) (a : BitVec 6) (c : BitVec 5) (t : BitVec 6)
  /-- `PARRV` (R424): Arms an arrival counter of the team. -/
  | parrv (l : BitVec 4) (a : BitVec 6) (n : BitVec 4)
  /-- `PHINT` (R429): Sends a co-scheduling hint towards the channel's virtual chip. -/
  | phint (c : BitVec 5)
  /-- `PRECV` (R436): Binds an endpoint to a team region or a queue. -/
  | precv (l : BitVec 4) (a : BitVec 6)
  /-- `PFENCE` (R427): Full fence at pod scope over all the group's accesses. -/
  | pfence (l : BitVec 4)
  /-- `PATOM` (R425): Remote atomic handler at the target. -/
  | patom (l : BitVec 4) (a : BitVec 6) (c : BitVec 5) (t : BitVec 6)
  /-- `PPOOL` (R433): Group-wide near-memory pool operation. -/
  | ppool (l : BitVec 4) (a : BitVec 6) (c : BitVec 5) (t : BitVec 6)
  /-- `EVT` (R377): Writes one PC-sample event record at once. -/
  | evt
  /-- `CAPQ` (R359): Reads a capability entry's control or allowance state. -/
  | capq (f : BitVec 1) (c : BitVec 5) (t : BitVec 6)
  /-- `LAUNCH_RECORD_READ` (R90): The dispatcher reads a launch record and makes the read-stage checks. -/
  | launchRecordRead (v q : Nat)
  /-- `LAUNCH_ACCEPT` (R90): A read launch whose dependences are met is accepted and checked. -/
  | launchAccept (v : Nat) (id : BitVec 64)
  /-- `LAUNCH_COMPLETE` (R92): A launch whose teams have retired writes its completion record and advances LQDONE. -/
  | launchComplete (v : Nat) (id : BitVec 64)
  /-- `DISPATCH_TEAM` (R96): At a dispatch opportunity the dispatcher places a resume-list or new team. -/
  | dispatchTeam (v : Nat)
  /-- `TEAM_RETIREMENT` (R80): A team whose groups retired and whose copies and MMAs completed retires. -/
  | teamRetirement (team : Nat)
  /-- `SPAN_DETACHMENT` (R38): A member's detachment completes once peer accesses already arrived are performed. -/
  | spanDetachment (team : Nat)
  /-- `FORWARD_PROGRESS_INTERVAL` (R100): Expiry of the forward-progress interval chooses a stalled team to save or restart. -/
  | forwardProgressInterval (core : Nat)
  /-- `SAVE_COMPLETE` (R287): A team's save image is written after its operations drain, and it joins the resume list. -/
  | saveComplete (team : Nat)
  /-- `TEAM_RESTART` (R291): An idempotent team's state is discarded and it joins the resume list. -/
  | teamRestart (team : Nat)
  /-- `VACATE_COMPLETE` (R102): When every possible save has completed BUSY clears and the vacate interrupt is raised. -/
  | vacateComplete (v : Nat)
  /-- `TLB_INVALIDATE_COMPLETE` (R141): BUSY clears once no entry remains and translated accesses are performed. -/
  | tlbInvalidateComplete (v : Nat)
  /-- `REGROUP` (R48): Every fourth clock, loop-buffer bundles are re-formed and complementary pairs fused. -/
  | regroup (core bay : Nat)
  /-- `WAIT_COUNT_BOOST` (R51): A thread's wait count reaching 1,024 boosts its bundle to priority 31. -/
  | waitCountBoost (group lane : Nat)
  /-- `SLEEP_EXPIRY` (R455): A sleeping lane wakes after its clock count. -/
  | sleepExpiry (group lane : Nat)
  /-- `LOAD_DATA_LAND` (R400): Returned load data lands in the destination register and clears its scoreboard. -/
  | loadDataLand (group : Nat)
  /-- `EMULATION_COMPLETE` (R286): A tollhouse core finishes an FP64 instruction and returns the group to its bay. -/
  | emulationComplete (group : Nat)
  /-- `COPY_LINE_FILL` (R189): A copy fills a completed scratchpad line with its metadata or refuses it. -/
  | copyLineFill (core : Nat)
  /-- `COPY_OUT_LINE_WRITE` (R188): A copy out writes a line of the tensor, counted if requested. -/
  | copyOutLineWrite (core : Nat)
  /-- `BATCH_COMPLETE` (R193): A batch whose collectives are done and performed sets its token registers. -/
  | batchComplete (group : Nat)
  /-- `MMA_START` (R208): A queued MMA waits on full bits, fetches and consumes its operands. -/
  | mmaStart (core : Nat)
  /-- `MMA_COMPLETE` (R212): An MMA adds its product into the head slot and takes its ring-mode step. -/
  | mmaComplete (core : Nat)
  /-- `EPILOGUE_JOB_START` (R218): An epilogue job starts on a closed slot once earlier jobs freed theirs. -/
  | epilogueJobStart (core : Nat)
  /-- `EPILOGUE_JOB_COMPLETE` (R219): When all writes are performed or refused the slot is freed. -/
  | epilogueJobComplete (core : Nat)
  /-- `MRELS_FREE` (R214): An MRELS claim frees its slot once it is closed and ring loads returned. -/
  | mrelsFree (core : Nat)
  /-- `SLOT_START` (R230): At each slot start the light die sends direct and relayed flits per port. -/
  | slotStart
  /-- `SLOT_END` (R233): After a slot's data the receiver sends acknowledgements and guard marks are sent. -/
  | slotEnd
  /-- `ACK_TIMEOUT` (R234): No acknowledgement by slot t+T+1 requeues the slot's flits. -/
  | ackTimeout (port slot : Nat)
  /-- `DUPLICATE_SET_EXPIRY` (R234): A performed-piece set is dropped 2 ms after the operation's last piece. -/
  | duplicateSetExpiry (spkg sslot : Nat) (tag : BitVec 32)
  /-- `FLIT_DROP` (R251): A flit undelivered after 1 ms is dropped with KIND 6. -/
  | flitDrop (tag : BitVec 32)
  /-- `CREATE` (R254): Hypervisor op 1 creates a virtual chip. -/
  | create
  /-- `DESTROY` (R254): Hypervisor op 2 destroys a virtual chip. -/
  | destroy
  /-- `WAYS` (R254): Hypervisor op 3 changes way counts. -/
  | ways
  /-- `GUEST` (R254): Hypervisor op 4 sets the guest's VCN limit. -/
  | guest
  /-- `ABUTMENT_WRITE` (R259): Hypervisor op 5 pauses the guest's admission before a table rewrite. -/
  | abutmentWrite
  /-- `ABUTMENT_REWRITE` (R259): After drain or 1 ms both table copies are rewritten and admission resumes. -/
  | abutmentRewrite
  /-- `KEY_SLOT_GRANT` (R254): Hypervisor op 6 action 0 grants a key slot. -/
  | keySlotGrant
  /-- `KEY_SLOT_REVOKE_SEAL` (R270): Op 6 action 1 revokes a key slot, sealing dirty lines. -/
  | keySlotRevokeSeal
  /-- `KEY_SLOT_REVOKE_DISCARD` (R270): Op 6 action 2 revokes a key slot, dropping dirty lines. -/
  | keySlotRevokeDiscard
  /-- `ALLOW_LIST` (R272): Hypervisor op 7 writes a word of a guest's counter allow-list. -/
  | allowList
  /-- `FEATURES` (R274): Hypervisor op 8 sets a virtual chip's feature mask. -/
  | features
  /-- `LINK_KEY_SLOTS` (R254): Hypervisor op 9 grants link key slots to a guest. -/
  | linkKeySlots
  /-- `FRAME_RANGE` (R498): Hypervisor op 10 sets a frame range and invalidates TLBs. -/
  | frameRange
  /-- `HV_COMMAND_COMPLETE` (R253): A running hypervisor command finishes and clears BUSY. -/
  | hvCommandComplete
  /-- `INGRESS_WRITE` (R271): A DMA write of ciphertext into an ingress window. -/
  | ingressWrite (v off : Nat) (bytes : List Byte)
  /-- `INGRESS_RECORD_VERIFY` (R271): A complete ingress record is decrypted, verified and written, advancing DONE. -/
  | ingressRecordVerify (v stream : Nat)
  /-- `TRAP_RECORD_WRITE` (R281): After a halt drains, the trap window and record are written and the handler started. -/
  | trapRecordWrite (team : Nat)
  /-- `CMD_RESUME` (R284): A CMD of 1 restores the halted team from its window. -/
  | cmdResume (team : Nat)
  /-- `CMD_END` (R284): A CMD of 2 or another non-zero value ends the halted team. -/
  | cmdEnd (team : Nat)
  /-- `PC_SAMPLE` (R296): At its sampling clock a bay samples the next resident group. -/
  | pcSample (core bay : Nat)
  /-- `READBACK_READ` (R303): RBCMD 1 reads 8 bytes of a readback space. -/
  | readbackRead
  /-- `READBACK_WRITE` (R303): RBCMD 2 writes 8 bytes of an allowed readback space. -/
  | readbackWrite
  /-- `LASER_MODULE_REENABLE` (R303): RBCMD 3 re-enables a laser module. -/
  | laserModuleReenable
  /-- `ILLEGAL_INSTRUCTION` (R328): Issue of a unit or word that decodes to no instruction, such as MAJ 0x60-0x7F, an unlisted function value or a compact unit with I = 1 and cop 8-15, raising the illegal-instruction fault. -/
  | illegalInstruction
  /-- `REGISTER_WRITE` (R8): A write to a register that has no row of its own. -/
  | registerWrite (fn off : Nat) (value : BitVec 64)
  /-- `LQTAIL_WRITE` (R85): Host writes a queue tail, making records available to the dispatcher. -/
  | lqtailWrite (v q : Nat) (value : BitVec 64)
  /-- `QUEUE_ENABLE` (R85): Setting EN from 0 to 1 zeroes head and tail and starts reading. -/
  | queueEnable (v q : Nat) (ie : Bool)
  /-- `QUEUE_DISABLE` (R95): Clearing EN stops reading and cancels undispatched span launches. -/
  | queueDisable (v q : Nat) (ie : Bool)
  /-- `VACATE` (R102): VCMD 1 marks named piers vacated and saves or restarts their teams. -/
  | vacate (v : Nat)
  /-- `RETURN` (R102): VCMD 2 clears the vacated mark of the named piers. -/
  | returnPiers (v : Nat)
  /-- `TLBINV` (R141): A write of TLBINV starts invalidation of the named range. -/
  | tlbinv (v : Nat) (value : BitVec 64)
  /-- `HOST_ACCESS` (R161): A host load or store to a virtual chip's memory. -/
  | hostAccess (v : Nat) (addr : BitVec 64) (access : HostAccess)
  /-- `WRITE_FLIT` (R242): Receipt of a write flit, performed, logged or refused at the target. -/
  | writeFlit (port : Nat) (f : Flit)
  /-- `GET_REQUEST` (R243): Receipt of a get request, answered by a get response. -/
  | getRequest (port : Nat) (f : Flit)
  /-- `GET_RESPONSE` (R243): Receipt of get data landing in the destination. -/
  | getResponse (port : Nat) (f : Flit)
  /-- `ATOMIC_REQUEST` (R248): Receipt of a remote atomic, run by its handler at the target. -/
  | atomicRequest (port : Nat) (f : Flit)
  /-- `ATOMIC_RESPONSE` (R248): Receipt of an atomic's old value at the source. -/
  | atomicResponse (port : Nat) (f : Flit)
  /-- `POOL_REQUEST` (R250): Receipt of a pool request performed near pool memory. -/
  | poolRequest (port : Nat) (f : Flit)
  /-- `POOL_RESPONSE` (R250): Receipt of a pool operation's result at the source. -/
  | poolResponse (port : Nat) (f : Flit)
  /-- `ACKNOWLEDGEMENT` (R233): Receipt of a slot acknowledgement; unacknowledged flits are requeued. -/
  | acknowledgement (port : Nat) (f : Flit)
  /-- `HINT` (R261): Receipt of a co-scheduling hint at the target virtual chip. -/
  | hint (port : Nat) (f : Flit)
  /-- `COMPLETION` (R244): Receipt of a completion that finishes or fails a piece and updates the token. -/
  | completion (port : Nat) (f : Flit)
  /-- `TAG_FLIT` (R268): Receipt of a tag flit verifying and releasing a sealed run. -/
  | tagFlit (port : Nat) (f : Flit)
  /-- `RELAYED_FLIT` (R230): Receipt of a flit on its first hop, held in the trestle buffer. -/
  | relayedFlit (port : Nat) (f : Flit)
  /-- `FLIT_DISCARD` (R233): Receipt of a damaged or malformed flit, discarded with later flits of its slot. -/
  | flitDiscard (port : Nat) (f : Flit)
  /-- `LOSS_OF_LIGHT` (R235): Loss of light on a wavelength stops the port for the slot and is recorded. -/
  | lossOfLight (port wavelength : Nat)
  /-- `GET_VERSION` (R265): SPDM GET_VERSION request. -/
  | getVersion (v : Nat)
  /-- `GET_CAPABILITIES` (R265): SPDM GET_CAPABILITIES request. -/
  | getCapabilities (v : Nat)
  /-- `NEGOTIATE_ALGORITHMS` (R265): SPDM NEGOTIATE_ALGORITHMS request. -/
  | negotiateAlgorithms (v : Nat)
  /-- `GET_DIGESTS` (R265): SPDM GET_DIGESTS request. -/
  | getDigests (v : Nat)
  /-- `GET_CERTIFICATE` (R265): SPDM GET_CERTIFICATE request. -/
  | getCertificate (v : Nat)
  /-- `CHALLENGE` (R265): SPDM CHALLENGE request. -/
  | challenge (v : Nat)
  /-- `GET_MEASUREMENTS` (R265): SPDM GET_MEASUREMENTS request returning measurement blocks. -/
  | getMeasurements (v index : Nat)
  /-- `KEY_EXCHANGE` (R265): SPDM KEY_EXCHANGE request. -/
  | keyExchange (m : SpdmMessage)
  /-- `FINISH` (R265): SPDM FINISH request. -/
  | finish (m : SpdmMessage)
  /-- `END_SESSION` (R265): SPDM END_SESSION request. -/
  | endSession (v : Nat)
  /-- `SET_KEY_GROUP` (R266): SET_KEY installs the group key and refills link keys. -/
  | setKeyGroup (v : Nat) (key : BitVec 512)
  /-- `SET_KEY_CONTEXT` (R266): SET_KEY installs a context key in a granted slot and advances its version. -/
  | setKeyContext (v slot : Nat) (key : BitVec 512)
  /-- `SET_KEY_STREAM` (R266): SET_KEY installs an ingress stream key. -/
  | setKeyStream (v stream : Nat) (key : BitVec 512)
  /-- `HOST_COUNTER_READ` (R272): A host or hypervisor read of a guest counter filtered by the allow-list. -/
  | hostCounterRead (v : Nat) (id : BitVec 12)
  /-- `POWER_GOOD` (R302): Power good starts the boot ROM, which measures and checks Olzer. -/
  | powerGood (image : BootImage)
  /-- `TRAINING_COMPLETE` (R302): HBM training and optics calibration finish, entering full service or failed. -/
  | trainingComplete (hbm optics : Bool)
  /-- `EVENT_STREAM_ENABLE` (R292): Setting EVCTL EN from 0 to 1 zeroes head, tail and drop count. -/
  | eventStreamEnable (fn : Nat) (value : BitVec 64)
  /-- `CLOCK_STEP` (R304): Exceeding the power or junction limit steps the clock down, or back up. -/
  | clockStep (up : Bool)
  /-- `TDISP_INTERFACE_REQUEST` (R265): A TDISP request that moves a virtual chip's device interface from CONFIG_UNLOCKED to CONFIG_LOCKED, or from CONFIG_LOCKED to RUN. -/
  | tdispInterfaceRequest (v : Nat) (request : TdispRequest)
  deriving DecidableEq, Repr

end Sys2Proof
end

