-- ==== Sys2Proof/WellFormed.lean ====
section
/-!
DEFINITION. The operand limits of an instruction that do not depend on the machine's state: R328 steps 4
(predicate p7 negated) and 5 (operand limits of the rows, R312).
-/

namespace Sys2Proof

/-- pg = 7 with pn = 1 is illegal (R311). -/
def predOk (n : BitVec 1) (g : BitVec 3) : Bool := !(g == 7#3 && n == 1#1)

/-- The even register of an even-odd pair (R312, R370). -/
def evenReg (r : BitVec 6) : Bool := !r.getLsbD 0

/-- `SLD`: relaxed with scope 0, or acquire with any scope (R162). -/
def loadOrder (r c : BitVec 2) : Bool := (r == 0#2 && c == 0#2) || r == 1#2

/-- `SST`: relaxed with scope 0, or release with any scope (R162). -/
def storeOrder (r c : BitVec 2) : Bool := (r == 0#2 && c == 0#2) || r == 2#2

/-- `SATOM`: every order, with scope 0 if relaxed (R162). -/
def atomOrder (r c : BitVec 2) : Bool := r != 0#2 || c == 0#2

/-- Format and element of `NCVT`: j is 0 to 3 for nf8 and nf6, 0 to 7 for nf4 (R416). -/
def ncvtElement (f : BitVec 2) (j : BitVec 4) : Bool :=
  (f.toNat ≤ 1 && j.toNat ≤ 3) || (f == 2#2 && j.toNat ≤ 7)

/-- The first register of an eight-register block: 8, 16, ..., 56 (R202). -/
def blockBase (a : BitVec 6) : Bool := a != 0#6 && a.toNat % 8 == 0

/-- A pod block of n registers lies within s1 to s63 (R241, R423). -/
def podBlock (a : BitVec 6) (n : Nat) : Bool := a != 0#6 && a.toNat + n ≤ 64

/-- The group-uniform special registers that `SRD` reads (R26). -/
def readable (i : BitVec 12) : Bool :=
  [0x001, 0x002, 0x003, 0x004, 0x008, 0x009, 0x00A, 0x00C, 0x00D, 0x00E, 0x018, 0x019, 0x020, 0x021,
   0x022, 0x023, 0x030, 0x031, 0x040, 0x041, 0x042, 0x048, 0x049, 0x04B, 0x050].contains i.toNat

/-- The group-uniform special registers that `SWR` writes (R26). -/
def writable (i : BitVec 12) : Bool :=
  [0x040, 0x041, 0x042, 0x048, 0x049, 0x04B].contains i.toNat

/-- The operand limits of a row; an event has none. An instruction that breaks its limits raises the
illegal-instruction fault at issue (R328). -/
def Instr.wellFormed : Instr → Bool
  | .addCompact _ _ => true
  | .addCompactImm _ _ => true
  | .subCompact _ _ => true
  | .subCompactImm _ _ => true
  | .andCompact _ _ => true
  | .andCompactImm _ _ => true
  | .orCompact _ _ => true
  | .orCompactImm _ _ => true
  | .xorCompact _ _ => true
  | .xorCompactImm _ _ => true
  | .shlCompact _ _ => true
  | .shlCompactImm _ _ => true
  | .shrCompact _ _ => true
  | .shrCompactImm _ _ => true
  | .movCompact _ _ => true
  | .movCompactImm _ _ => true
  | .faddCompact _ _ => true
  | .fmulCompact _ _ => true
  | .fsubCompact _ _ => true
  | .fmaxCompact _ _ => true
  | .fminCompact _ _ => true
  | .mulCompact _ _ => true
  | .minI32Compact _ _ => true
  | .maxI32Compact _ _ => true
  | .sadd _ _ _ => true
  | .ssub _ _ _ => true
  | .smul f _ _ _ => f.toNat ≤ 2
  | .sand _ _ _ => true
  | .sor _ _ _ => true
  | .sxor _ _ _ => true
  | .sandn _ _ _ => true
  | .sshl _ _ _ => true
  | .sshr _ _ _ => true
  | .ssra _ _ _ => true
  | .smin _ _ _ _ => true
  | .smax _ _ _ _ => true
  | .saddi _ _ _ => true
  | .smovi _ _ _ => true
  | .scmp f _ _ _ => f.toNat ≤ 5
  | .sld _ _ r c _ _ => loadOrder r c
  | .sst _ _ r c _ _ => storeOrder r c
  | .srd i _ => readable i
  | .swr i _ => writable i
  | .slane _ _ _ => true
  | .sbra _ _ _ => true
  | .satom o _ r c _ d => o.toNat ≤ 9 && atomOrder r c && !(o == 9#4 && d == 63#6)
  | .add n g _ _ _ => predOk n g
  | .sub n g _ _ _ => predOk n g
  | .mul n g _ _ _ => predOk n g
  | .mulhi _ n g _ _ _ => predOk n g
  | .mad n g _ _ _ => predOk n g
  | .and n g _ _ _ => predOk n g
  | .or n g _ _ _ => predOk n g
  | .xor n g _ _ _ => predOk n g
  | .andn n g _ _ _ => predOk n g
  | .shl n g _ _ _ => predOk n g
  | .shr n g _ _ _ => predOk n g
  | .sra n g _ _ _ => predOk n g
  | .min _ n g _ _ _ => predOk n g
  | .max _ n g _ _ _ => predOk n g
  | .abs n g _ _ => predOk n g
  | .neg n g _ _ => predOk n g
  | .clz n g _ _ => predOk n g
  | .popc n g _ _ => predOk n g
  | .brev n g _ _ => predOk n g
  | .addi _ _ _ _ => true
  | .shli _ _ _ _ => true
  | .shri _ _ _ _ => true
  | .movs _ _ _ => true
  | .mov n g _ _ => predOk n g
  | .sel n g _ _ _ => predOk n g
  | .cmp _ n g _ _ _ => predOk n g
  | .cmpn _ n g _ _ _ => predOk n g
  | .cvt _ n g _ _ => predOk n g
  | .plane _ n g _ _ _ => predOk n g
  | .lrd _ i d => i == 0x000#9 || i == 0x010#9 || i == 0x011#9 || (i == 0x04A#9 && d != 63#6)
  | .pand n g _ _ _ => predOk n g
  | .por n g _ _ _ => predOk n g
  | .pnot n g _ _ => predOk n g
  | .bfe _ n g _ _ _ => predOk n g
  | .bfi n g _ _ _ => predOk n g
  | .dot4 f n g _ _ _ => predOk n g && f != 3#2
  | .fadd n g _ _ _ => predOk n g
  | .fsub n g _ _ _ => predOk n g
  | .fmul n g _ _ _ => predOk n g
  | .ffma n g _ _ _ => predOk n g
  | .fmin n g _ _ _ => predOk n g
  | .fmax n g _ _ _ => predOk n g
  | .fcmp _ n g _ _ _ => predOk n g
  | .frcp n g _ _ => predOk n g
  | .frsq n g _ _ => predOk n g
  | .fsqrt n g _ _ => predOk n g
  | .fdiv n g _ _ _ => predOk n g
  | .fexp2 n g _ _ => predOk n g
  | .flog2 n g _ _ => predOk n g
  | .fsin n g _ _ => predOk n g
  | .fcos n g _ _ => predOk n g
  | .fcvt _ n g _ _ => predOk n g
  | .ncvt _ n g j f _ _ => predOk n g && ncvtElement f j
  | .icvtF32ToInt _ n g m _ _ => predOk n g && m.toNat ≤ 4
  | .icvtIntToF32 _ n g _ _ => predOk n g
  | .fclass n g _ _ => predOk n g
  | .fscl n g _ _ _ => predOk n g
  | .fabs n g _ _ => predOk n g
  | .fneg n g _ _ => predOk n g
  | .fcpys n g _ _ _ => predOk n g
  | .frnd n g m _ _ => predOk n g && m.toNat ≤ 4
  | .dadd n g b a d => predOk n g && evenReg d && evenReg a && evenReg b
  | .dsub n g b a d => predOk n g && evenReg d && evenReg a && evenReg b
  | .dmul n g b a d => predOk n g && evenReg d && evenReg a && evenReg b
  | .dfma n g b a d => predOk n g && evenReg d && evenReg a && evenReg b
  | .ddiv n g b a d => predOk n g && evenReg d && evenReg a && evenReg b
  | .dsqrt n g a d => predOk n g && evenReg d && evenReg a
  | .dcvt s n g a d => predOk n g && (if s == 0#1 then evenReg a else evenReg d)
  | .shfl _ _ _ _ => true
  | .vote _ _ _ => true
  | .voteBallot _ _ => true
  | .redux f t _ _ => f != 3#2 && t != 3#2
  | .scan f _ t _ _ => f != 3#2 && t != 3#2
  | .matchLanes _ _ _ => true
  | .perm n g _ _ _ => predOk n g
  | .elect _ => true
  | .gsync => true
  | .bra _ n g => predOk n g
  | .jmp _ => true
  | .call _ n g => predOk n g
  | .callv _ _ => true
  | .ret n g => predOk n g
  | .exit n g => predOk n g
  | .refill n g => predOk n g
  | .nop n g => predOk n g
  | .yield n g => predOk n g
  | .sleep _ n g => predOk n g
  | .trap _ n g => predOk n g
  | .brk _ n g => predOk n g
  | .ld f _ _ _ d => !(f.getLsbD 0 && d == 63#6)
  | .st f _ _ _ d => !(f == 1#2 && d == 63#6)
  | .ldw _ _ _ _ => true
  | .ldc _ _ _ _ => true
  | .ldq _ _ _ _ => true
  | .ldqw _ _ _ _ => true
  | .stf _ _ _ _ => true
  | .ste _ _ _ _ => true
  | .stq _ _ _ _ => true
  | .atom _ _ _ _ _ => true
  | .atomb _ _ _ _ _ => true
  | .atomcCas _ _ _ d => d != 63#6
  | .atomcMinN32 _ _ _ _ => true
  | .atomcMaxN32 _ _ _ _ => true
  | .stc _ _ _ _ => true
  | .fence _ k => k != 0#2
  | .pref _ _ => true
  | .cflush _ _ => true
  | .cpyIn _ _ _ _ => true
  | .cpyOut _ _ _ _ => true
  | .cpyLocal _ _ _ _ => true
  | .cseal => true
  | .mma _ a => blockBase a
  | .mrels _ => true
  | .epi _ a => blockBase a
  | .mstat _ t => t != 0#6
  | .bar _ => true
  | .bara _ => true
  | .barw _ => true
  | .barx _ => true
  | .spanj => true
  | .spanx => true
  | .spanb => true
  | .psend _ a _ _ => podBlock a 3
  | .pput _ a _ _ => podBlock a 1
  | .pget _ a _ _ => podBlock a 1
  | .pmcast _ a _ _ => podBlock a 3
  | .parrv _ a _ => podBlock a 4
  | .phint _ => true
  | .precv _ a => podBlock a 3
  | .pfence _ => true
  | .patom _ a _ _ => podBlock a 4
  | .ppool _ a _ _ => podBlock a 4
  | .evt => true
  | .capq _ _ t => t != 0#6
  | .registerWrite _ _ _ => true
  | .lqtailWrite _ _ _ => true
  | .queueEnable _ _ _ => true
  | .queueDisable _ _ _ => true
  | .launchRecordRead _ _ => true
  | .launchAccept _ _ => true
  | .launchComplete _ _ => true
  | .dispatchTeam _ => true
  | .teamRetirement _ => true
  | .spanDetachment _ => true
  | .forwardProgressInterval _ => true
  | .saveComplete _ => true
  | .teamRestart _ => true
  | .vacate _ => true
  | .returnPiers _ => true
  | .vacateComplete _ => true
  | .tlbinv _ _ => true
  | .tlbInvalidateComplete _ => true
  | .hostAccess _ _ _ => true
  | .regroup _ _ => true
  | .waitCountBoost _ _ => true
  | .sleepExpiry _ _ => true
  | .loadDataLand _ => true
  | .emulationComplete _ => true
  | .copyLineFill _ => true
  | .copyOutLineWrite _ => true
  | .batchComplete _ => true
  | .mmaStart _ => true
  | .mmaComplete _ => true
  | .epilogueJobStart _ => true
  | .epilogueJobComplete _ => true
  | .mrelsFree _ => true
  | .slotStart => true
  | .slotEnd => true
  | .writeFlit _ _ => true
  | .getRequest _ _ => true
  | .getResponse _ _ => true
  | .atomicRequest _ _ => true
  | .atomicResponse _ _ => true
  | .poolRequest _ _ => true
  | .poolResponse _ _ => true
  | .acknowledgement _ _ => true
  | .hint _ _ => true
  | .completion _ _ => true
  | .tagFlit _ _ => true
  | .relayedFlit _ _ => true
  | .flitDiscard _ _ => true
  | .ackTimeout _ _ => true
  | .duplicateSetExpiry _ _ _ => true
  | .flitDrop _ => true
  | .lossOfLight _ _ => true
  | .create => true
  | .destroy => true
  | .ways => true
  | .guest => true
  | .abutmentWrite => true
  | .abutmentRewrite => true
  | .keySlotGrant => true
  | .keySlotRevokeSeal => true
  | .keySlotRevokeDiscard => true
  | .allowList => true
  | .features => true
  | .linkKeySlots => true
  | .frameRange => true
  | .hvCommandComplete => true
  | .getVersion _ => true
  | .getCapabilities _ => true
  | .negotiateAlgorithms _ => true
  | .getDigests _ => true
  | .getCertificate _ => true
  | .challenge _ => true
  | .getMeasurements _ _ => true
  | .keyExchange _ => true
  | .finish _ => true
  | .endSession _ => true
  | .setKeyGroup _ _ => true
  | .setKeyContext _ _ _ => true
  | .setKeyStream _ _ _ => true
  | .ingressWrite _ _ _ => true
  | .ingressRecordVerify _ _ => true
  | .hostCounterRead _ _ => true
  | .powerGood _ => true
  | .trainingComplete _ _ => true
  | .trapRecordWrite _ => true
  | .cmdResume _ => true
  | .cmdEnd _ => true
  | .eventStreamEnable _ _ => true
  | .pcSample _ _ => true
  | .clockStep _ => true
  | .readbackRead => true
  | .readbackWrite => true
  | .laserModuleReenable => true
  | .illegalInstruction => true
  | .tdispInterfaceRequest _ _ => true

end Sys2Proof
end

