-- ==== Sys2Proof/Decode.lean ====
section
/-!
DEFINITION. Decoding (R305, R306, R309, R328 steps 1 to 4) and encoding.
`decode` is total on any bytes: it answers the row of spec/opcode_table.json whose fixed bits the word has,
or a named rejection. Operand limits (R328 step 5) are `Instr.wellFormed`, checked at issue.
-/

namespace Sys2Proof

/-- Why a unit or word decodes to no instruction (R328). -/
inductive Reject where
  /-- step 1: a compact unit with I = 1 and cop 8 to 15 -/
  | compactImmediate (cop : Nat)
  /-- step 2: MAJ 0x60 to 0x7F -/
  | majorUnassigned (maj : Nat)
  /-- steps 3 and 4: no form of this MAJ has the word's function value and zero fields -/
  | noForm (maj : Nat)
  /-- fewer bytes than the instruction's length (R305) -/
  | truncated
  deriving DecidableEq, Repr

/-- Bits [lo + len - 1 : lo] of a word (R5). -/
def bits (w lo len : Nat) : BitVec len := BitVec.ofNat len (w >>> lo)

/-- A field placed below the fields `rest`. -/
def pk {n : Nat} (v : BitVec n) (rest : Nat) : Nat := v.toNat + 2 ^ n * rest

/-- The forms of MAJ 0x00. -/
def decodeMaj00 (w : Nat) : Except Reject Instr :=
  if bits w 26 6 = 0#6 then .ok (.sadd (bits w 20 6) (bits w 14 6) (bits w 8 6))
  else .error (.noForm 0x00)

/-- The forms of MAJ 0x01. -/
def decodeMaj01 (w : Nat) : Except Reject Instr :=
  if bits w 26 6 = 0#6 then .ok (.ssub (bits w 20 6) (bits w 14 6) (bits w 8 6))
  else .error (.noForm 0x01)

/-- The forms of MAJ 0x02. -/
def decodeMaj02 (w : Nat) : Except Reject Instr :=
  .ok (.smul (bits w 26 6) (bits w 20 6) (bits w 14 6) (bits w 8 6))

/-- The forms of MAJ 0x03. -/
def decodeMaj03 (w : Nat) : Except Reject Instr :=
  if bits w 26 6 = 0#6 then .ok (.sand (bits w 20 6) (bits w 14 6) (bits w 8 6))
  else if bits w 26 6 = 1#6 then .ok (.sor (bits w 20 6) (bits w 14 6) (bits w 8 6))
  else if bits w 26 6 = 2#6 then .ok (.sxor (bits w 20 6) (bits w 14 6) (bits w 8 6))
  else if bits w 26 6 = 3#6 then .ok (.sandn (bits w 20 6) (bits w 14 6) (bits w 8 6))
  else .error (.noForm 0x03)

/-- The forms of MAJ 0x04. -/
def decodeMaj04 (w : Nat) : Except Reject Instr :=
  if bits w 26 6 = 0#6 then .ok (.sshl (bits w 20 6) (bits w 14 6) (bits w 8 6))
  else if bits w 26 6 = 1#6 then .ok (.sshr (bits w 20 6) (bits w 14 6) (bits w 8 6))
  else if bits w 26 6 = 2#6 then .ok (.ssra (bits w 20 6) (bits w 14 6) (bits w 8 6))
  else .error (.noForm 0x04)

/-- The forms of MAJ 0x05. -/
def decodeMaj05 (w : Nat) : Except Reject Instr :=
  if bits w 28 4 = 0#4 ∧ bits w 26 1 = 0#1 then .ok (.smin (bits w 27 1) (bits w 20 6) (bits w 14 6) (bits w 8 6))
  else if bits w 28 4 = 0#4 ∧ bits w 26 1 = 1#1 then .ok (.smax (bits w 27 1) (bits w 20 6) (bits w 14 6) (bits w 8 6))
  else .error (.noForm 0x05)

/-- The forms of MAJ 0x06. -/
def decodeMaj06 (w : Nat) : Except Reject Instr :=
  .ok (.saddi (bits w 20 12) (bits w 14 6) (bits w 8 6))

/-- The forms of MAJ 0x07. -/
def decodeMaj07 (w : Nat) : Except Reject Instr :=
  .ok (.smovi (bits w 16 16) (bits w 14 2) (bits w 8 6))

/-- The forms of MAJ 0x08. -/
def decodeMaj08 (w : Nat) : Except Reject Instr :=
  .ok (.scmp (bits w 26 6) (bits w 20 6) (bits w 14 6) (bits w 8 6))

/-- The forms of MAJ 0x09. -/
def decodeMaj09 (w : Nat) : Except Reject Instr :=
  .ok (.sld (bits w 28 4) (bits w 24 4) (bits w 22 2) (bits w 20 2) (bits w 14 6) (bits w 8 6))

/-- The forms of MAJ 0x0A. -/
def decodeMaj0A (w : Nat) : Except Reject Instr :=
  .ok (.sst (bits w 28 4) (bits w 24 4) (bits w 22 2) (bits w 20 2) (bits w 14 6) (bits w 8 6))

/-- The forms of MAJ 0x0B. -/
def decodeMaj0B (w : Nat) : Except Reject Instr :=
  if bits w 14 6 = 0#6 then .ok (.srd (bits w 20 12) (bits w 8 6))
  else .error (.noForm 0x0B)

/-- The forms of MAJ 0x0C. -/
def decodeMaj0C (w : Nat) : Except Reject Instr :=
  if bits w 8 6 = 0#6 then .ok (.swr (bits w 20 12) (bits w 14 6))
  else .error (.noForm 0x0C)

/-- The forms of MAJ 0x0D. -/
def decodeMaj0D (w : Nat) : Except Reject Instr :=
  if bits w 26 6 = 0#6 then .ok (.slane (bits w 20 6) (bits w 14 6) (bits w 8 6))
  else .error (.noForm 0x0D)

/-- The forms of MAJ 0x0E. -/
def decodeMaj0E (w : Nat) : Except Reject Instr :=
  if bits w 9 5 = 0#5 then .ok (.sbra (bits w 20 12) (bits w 14 6) (bits w 8 1))
  else .error (.noForm 0x0E)

/-- The forms of MAJ 0x0F. -/
def decodeMaj0F (w : Nat) : Except Reject Instr :=
  .ok (.satom (bits w 28 4) (bits w 24 4) (bits w 22 2) (bits w 20 2) (bits w 14 6) (bits w 8 6))

/-- The forms of MAJ 0x10. -/
def decodeMaj10 (w : Nat) : Except Reject Instr :=
  if bits w 30 2 = 0#2 then .ok (.add (bits w 29 1) (bits w 26 3) (bits w 20 6) (bits w 14 6) (bits w 8 6))
  else .error (.noForm 0x10)

/-- The forms of MAJ 0x11. -/
def decodeMaj11 (w : Nat) : Except Reject Instr :=
  if bits w 30 2 = 0#2 then .ok (.sub (bits w 29 1) (bits w 26 3) (bits w 20 6) (bits w 14 6) (bits w 8 6))
  else .error (.noForm 0x11)

/-- The forms of MAJ 0x12. -/
def decodeMaj12 (w : Nat) : Except Reject Instr :=
  if bits w 30 2 = 0#2 then .ok (.mul (bits w 29 1) (bits w 26 3) (bits w 20 6) (bits w 14 6) (bits w 8 6))
  else .error (.noForm 0x12)

/-- The forms of MAJ 0x13. -/
def decodeMaj13 (w : Nat) : Except Reject Instr :=
  if bits w 31 1 = 0#1 then .ok (.mulhi (bits w 30 1) (bits w 29 1) (bits w 26 3) (bits w 20 6) (bits w 14 6) (bits w 8 6))
  else .error (.noForm 0x13)

/-- The forms of MAJ 0x14. -/
def decodeMaj14 (w : Nat) : Except Reject Instr :=
  if bits w 30 2 = 0#2 then .ok (.mad (bits w 29 1) (bits w 26 3) (bits w 20 6) (bits w 14 6) (bits w 8 6))
  else .error (.noForm 0x14)

/-- The forms of MAJ 0x15. -/
def decodeMaj15 (w : Nat) : Except Reject Instr :=
  if bits w 30 2 = 0#2 then .ok (.and (bits w 29 1) (bits w 26 3) (bits w 20 6) (bits w 14 6) (bits w 8 6))
  else if bits w 30 2 = 1#2 then .ok (.or (bits w 29 1) (bits w 26 3) (bits w 20 6) (bits w 14 6) (bits w 8 6))
  else if bits w 30 2 = 2#2 then .ok (.xor (bits w 29 1) (bits w 26 3) (bits w 20 6) (bits w 14 6) (bits w 8 6))
  else if bits w 30 2 = 3#2 then .ok (.andn (bits w 29 1) (bits w 26 3) (bits w 20 6) (bits w 14 6) (bits w 8 6))
  else .error (.noForm 0x15)

/-- The forms of MAJ 0x16. -/
def decodeMaj16 (w : Nat) : Except Reject Instr :=
  if bits w 30 2 = 0#2 then .ok (.shl (bits w 29 1) (bits w 26 3) (bits w 20 6) (bits w 14 6) (bits w 8 6))
  else if bits w 30 2 = 1#2 then .ok (.shr (bits w 29 1) (bits w 26 3) (bits w 20 6) (bits w 14 6) (bits w 8 6))
  else if bits w 30 2 = 2#2 then .ok (.sra (bits w 29 1) (bits w 26 3) (bits w 20 6) (bits w 14 6) (bits w 8 6))
  else .error (.noForm 0x16)

/-- The forms of MAJ 0x17. -/
def decodeMaj17 (w : Nat) : Except Reject Instr :=
  if bits w 30 1 = 0#1 then .ok (.min (bits w 31 1) (bits w 29 1) (bits w 26 3) (bits w 20 6) (bits w 14 6) (bits w 8 6))
  else if bits w 30 1 = 1#1 then .ok (.max (bits w 31 1) (bits w 29 1) (bits w 26 3) (bits w 20 6) (bits w 14 6) (bits w 8 6))
  else .error (.noForm 0x17)

/-- The forms of MAJ 0x18. -/
def decodeMaj18 (w : Nat) : Except Reject Instr :=
  if bits w 30 2 = 0#2 ∧ bits w 20 6 = 0#6 then .ok (.abs (bits w 29 1) (bits w 26 3) (bits w 14 6) (bits w 8 6))
  else if bits w 30 2 = 1#2 ∧ bits w 20 6 = 0#6 then .ok (.neg (bits w 29 1) (bits w 26 3) (bits w 14 6) (bits w 8 6))
  else .error (.noForm 0x18)

/-- The forms of MAJ 0x19. -/
def decodeMaj19 (w : Nat) : Except Reject Instr :=
  if bits w 30 2 = 0#2 ∧ bits w 20 6 = 0#6 then .ok (.clz (bits w 29 1) (bits w 26 3) (bits w 14 6) (bits w 8 6))
  else if bits w 30 2 = 1#2 ∧ bits w 20 6 = 0#6 then .ok (.popc (bits w 29 1) (bits w 26 3) (bits w 14 6) (bits w 8 6))
  else if bits w 30 2 = 2#2 ∧ bits w 20 6 = 0#6 then .ok (.brev (bits w 29 1) (bits w 26 3) (bits w 14 6) (bits w 8 6))
  else .error (.noForm 0x19)

/-- The forms of MAJ 0x1A. -/
def decodeMaj1A (w : Nat) : Except Reject Instr :=
  .ok (.addi (bits w 29 3) (bits w 20 9) (bits w 14 6) (bits w 8 6))

/-- The forms of MAJ 0x1B. -/
def decodeMaj1B (w : Nat) : Except Reject Instr :=
  if bits w 25 4 = 0#4 then .ok (.shli (bits w 29 3) (bits w 20 5) (bits w 14 6) (bits w 8 6))
  else .error (.noForm 0x1B)

/-- The forms of MAJ 0x1C. -/
def decodeMaj1C (w : Nat) : Except Reject Instr :=
  if bits w 25 4 = 0#4 then .ok (.shri (bits w 29 3) (bits w 20 5) (bits w 14 6) (bits w 8 6))
  else .error (.noForm 0x1C)

/-- The forms of MAJ 0x1D. -/
def decodeMaj1D (w : Nat) : Except Reject Instr :=
  if bits w 31 1 = 0#1 ∧ bits w 20 10 = 0#10 then .ok (.movs (bits w 30 1) (bits w 14 6) (bits w 8 6))
  else .error (.noForm 0x1D)

/-- The forms of MAJ 0x1E. -/
def decodeMaj1E (w : Nat) : Except Reject Instr :=
  if bits w 30 2 = 0#2 ∧ bits w 20 6 = 0#6 then .ok (.mov (bits w 29 1) (bits w 26 3) (bits w 14 6) (bits w 8 6))
  else .error (.noForm 0x1E)

/-- The forms of MAJ 0x1F. -/
def decodeMaj1F (w : Nat) : Except Reject Instr :=
  if bits w 30 2 = 0#2 then .ok (.sel (bits w 29 1) (bits w 26 3) (bits w 20 6) (bits w 14 6) (bits w 8 6))
  else .error (.noForm 0x1F)

/-- The forms of MAJ 0x20. -/
def decodeMaj20 (w : Nat) : Except Reject Instr :=
  if bits w 11 3 = 0#3 then .ok (.cmp (bits w 30 2) (bits w 29 1) (bits w 26 3) (bits w 20 6) (bits w 14 6) (bits w 8 3))
  else .error (.noForm 0x20)

/-- The forms of MAJ 0x21. -/
def decodeMaj21 (w : Nat) : Except Reject Instr :=
  if bits w 11 3 = 0#3 then .ok (.cmpn (bits w 30 2) (bits w 29 1) (bits w 26 3) (bits w 20 6) (bits w 14 6) (bits w 8 3))
  else .error (.noForm 0x21)

/-- The forms of MAJ 0x22. -/
def decodeMaj22 (w : Nat) : Except Reject Instr :=
  if bits w 20 6 = 0#6 then .ok (.cvt (bits w 30 2) (bits w 29 1) (bits w 26 3) (bits w 14 6) (bits w 8 6))
  else .error (.noForm 0x22)

/-- The forms of MAJ 0x23. -/
def decodeMaj23 (w : Nat) : Except Reject Instr :=
  if bits w 31 1 = 0#1 ∧ bits w 25 1 = 0#1 then .ok (.plane (bits w 30 1) (bits w 29 1) (bits w 26 3) (bits w 20 5) (bits w 14 6) (bits w 8 6))
  else .error (.noForm 0x23)

/-- The forms of MAJ 0x24. -/
def decodeMaj24 (w : Nat) : Except Reject Instr :=
  if bits w 14 6 = 0#6 then .ok (.lrd (bits w 29 3) (bits w 20 9) (bits w 8 6))
  else .error (.noForm 0x24)

/-- The forms of MAJ 0x25. -/
def decodeMaj25 (w : Nat) : Except Reject Instr :=
  if bits w 30 2 = 0#2 ∧ bits w 23 3 = 0#3 ∧ bits w 17 3 = 0#3 ∧ bits w 11 3 = 0#3 then .ok (.pand (bits w 29 1) (bits w 26 3) (bits w 20 3) (bits w 14 3) (bits w 8 3))
  else if bits w 30 2 = 1#2 ∧ bits w 23 3 = 0#3 ∧ bits w 17 3 = 0#3 ∧ bits w 11 3 = 0#3 then .ok (.por (bits w 29 1) (bits w 26 3) (bits w 20 3) (bits w 14 3) (bits w 8 3))
  else if bits w 30 2 = 2#2 ∧ bits w 17 9 = 0#9 ∧ bits w 11 3 = 0#3 then .ok (.pnot (bits w 29 1) (bits w 26 3) (bits w 14 3) (bits w 8 3))
  else .error (.noForm 0x25)

/-- The forms of MAJ 0x26. -/
def decodeMaj26 (w : Nat) : Except Reject Instr :=
  if bits w 31 1 = 0#1 then .ok (.bfe (bits w 30 1) (bits w 29 1) (bits w 26 3) (bits w 20 6) (bits w 14 6) (bits w 8 6))
  else if bits w 30 2 = 2#2 then .ok (.bfi (bits w 29 1) (bits w 26 3) (bits w 20 6) (bits w 14 6) (bits w 8 6))
  else .error (.noForm 0x26)

/-- The forms of MAJ 0x27. -/
def decodeMaj27 (w : Nat) : Except Reject Instr :=
  .ok (.dot4 (bits w 30 2) (bits w 29 1) (bits w 26 3) (bits w 20 6) (bits w 14 6) (bits w 8 6))

/-- The forms of MAJ 0x28. -/
def decodeMaj28 (w : Nat) : Except Reject Instr :=
  if bits w 30 2 = 0#2 then .ok (.fadd (bits w 29 1) (bits w 26 3) (bits w 20 6) (bits w 14 6) (bits w 8 6))
  else .error (.noForm 0x28)

/-- The forms of MAJ 0x29. -/
def decodeMaj29 (w : Nat) : Except Reject Instr :=
  if bits w 30 2 = 0#2 then .ok (.fsub (bits w 29 1) (bits w 26 3) (bits w 20 6) (bits w 14 6) (bits w 8 6))
  else .error (.noForm 0x29)

/-- The forms of MAJ 0x2A. -/
def decodeMaj2A (w : Nat) : Except Reject Instr :=
  if bits w 30 2 = 0#2 then .ok (.fmul (bits w 29 1) (bits w 26 3) (bits w 20 6) (bits w 14 6) (bits w 8 6))
  else .error (.noForm 0x2A)

/-- The forms of MAJ 0x2B. -/
def decodeMaj2B (w : Nat) : Except Reject Instr :=
  if bits w 30 2 = 0#2 then .ok (.ffma (bits w 29 1) (bits w 26 3) (bits w 20 6) (bits w 14 6) (bits w 8 6))
  else .error (.noForm 0x2B)

/-- The forms of MAJ 0x2C. -/
def decodeMaj2C (w : Nat) : Except Reject Instr :=
  if bits w 30 2 = 0#2 then .ok (.fmin (bits w 29 1) (bits w 26 3) (bits w 20 6) (bits w 14 6) (bits w 8 6))
  else if bits w 30 2 = 1#2 then .ok (.fmax (bits w 29 1) (bits w 26 3) (bits w 20 6) (bits w 14 6) (bits w 8 6))
  else .error (.noForm 0x2C)

/-- The forms of MAJ 0x2D. -/
def decodeMaj2D (w : Nat) : Except Reject Instr :=
  if bits w 11 3 = 0#3 then .ok (.fcmp (bits w 30 2) (bits w 29 1) (bits w 26 3) (bits w 20 6) (bits w 14 6) (bits w 8 3))
  else .error (.noForm 0x2D)

/-- The forms of MAJ 0x2E. -/
def decodeMaj2E (w : Nat) : Except Reject Instr :=
  if bits w 30 2 = 0#2 ∧ bits w 20 6 = 0#6 then .ok (.frcp (bits w 29 1) (bits w 26 3) (bits w 14 6) (bits w 8 6))
  else .error (.noForm 0x2E)

/-- The forms of MAJ 0x2F. -/
def decodeMaj2F (w : Nat) : Except Reject Instr :=
  if bits w 30 2 = 0#2 ∧ bits w 20 6 = 0#6 then .ok (.frsq (bits w 29 1) (bits w 26 3) (bits w 14 6) (bits w 8 6))
  else .error (.noForm 0x2F)

/-- The forms of MAJ 0x30. -/
def decodeMaj30 (w : Nat) : Except Reject Instr :=
  if bits w 30 2 = 0#2 ∧ bits w 20 6 = 0#6 then .ok (.fsqrt (bits w 29 1) (bits w 26 3) (bits w 14 6) (bits w 8 6))
  else .error (.noForm 0x30)

/-- The forms of MAJ 0x31. -/
def decodeMaj31 (w : Nat) : Except Reject Instr :=
  if bits w 30 2 = 0#2 then .ok (.fdiv (bits w 29 1) (bits w 26 3) (bits w 20 6) (bits w 14 6) (bits w 8 6))
  else .error (.noForm 0x31)

/-- The forms of MAJ 0x32. -/
def decodeMaj32 (w : Nat) : Except Reject Instr :=
  if bits w 30 2 = 0#2 ∧ bits w 20 6 = 0#6 then .ok (.fexp2 (bits w 29 1) (bits w 26 3) (bits w 14 6) (bits w 8 6))
  else .error (.noForm 0x32)

/-- The forms of MAJ 0x33. -/
def decodeMaj33 (w : Nat) : Except Reject Instr :=
  if bits w 30 2 = 0#2 ∧ bits w 20 6 = 0#6 then .ok (.flog2 (bits w 29 1) (bits w 26 3) (bits w 14 6) (bits w 8 6))
  else .error (.noForm 0x33)

/-- The forms of MAJ 0x34. -/
def decodeMaj34 (w : Nat) : Except Reject Instr :=
  if bits w 30 2 = 0#2 ∧ bits w 20 6 = 0#6 then .ok (.fsin (bits w 29 1) (bits w 26 3) (bits w 14 6) (bits w 8 6))
  else if bits w 30 2 = 1#2 ∧ bits w 20 6 = 0#6 then .ok (.fcos (bits w 29 1) (bits w 26 3) (bits w 14 6) (bits w 8 6))
  else .error (.noForm 0x34)

/-- The forms of MAJ 0x35. -/
def decodeMaj35 (w : Nat) : Except Reject Instr :=
  if bits w 20 6 = 0#6 then .ok (.fcvt (bits w 30 2) (bits w 29 1) (bits w 26 3) (bits w 14 6) (bits w 8 6))
  else .error (.noForm 0x35)

/-- The forms of MAJ 0x36. -/
def decodeMaj36 (w : Nat) : Except Reject Instr :=
  if bits w 31 1 = 0#1 then .ok (.ncvt (bits w 30 1) (bits w 29 1) (bits w 26 3) (bits w 22 4) (bits w 20 2) (bits w 14 6) (bits w 8 6))
  else .error (.noForm 0x36)

/-- The forms of MAJ 0x37. -/
def decodeMaj37 (w : Nat) : Except Reject Instr :=
  if bits w 31 1 = 0#1 ∧ bits w 23 3 = 0#3 then .ok (.icvtF32ToInt (bits w 30 1) (bits w 29 1) (bits w 26 3) (bits w 20 3) (bits w 14 6) (bits w 8 6))
  else if bits w 31 1 = 1#1 ∧ bits w 20 6 = 0#6 then .ok (.icvtIntToF32 (bits w 30 1) (bits w 29 1) (bits w 26 3) (bits w 14 6) (bits w 8 6))
  else .error (.noForm 0x37)

/-- The forms of MAJ 0x38. -/
def decodeMaj38 (w : Nat) : Except Reject Instr :=
  if bits w 30 2 = 0#2 ∧ bits w 20 6 = 0#6 then .ok (.fclass (bits w 29 1) (bits w 26 3) (bits w 14 6) (bits w 8 6))
  else .error (.noForm 0x38)

/-- The forms of MAJ 0x39. -/
def decodeMaj39 (w : Nat) : Except Reject Instr :=
  if bits w 30 2 = 0#2 then .ok (.fscl (bits w 29 1) (bits w 26 3) (bits w 20 6) (bits w 14 6) (bits w 8 6))
  else .error (.noForm 0x39)

/-- The forms of MAJ 0x3A. -/
def decodeMaj3A (w : Nat) : Except Reject Instr :=
  if bits w 30 2 = 0#2 ∧ bits w 20 6 = 0#6 then .ok (.fabs (bits w 29 1) (bits w 26 3) (bits w 14 6) (bits w 8 6))
  else if bits w 30 2 = 1#2 ∧ bits w 20 6 = 0#6 then .ok (.fneg (bits w 29 1) (bits w 26 3) (bits w 14 6) (bits w 8 6))
  else if bits w 30 2 = 2#2 then .ok (.fcpys (bits w 29 1) (bits w 26 3) (bits w 20 6) (bits w 14 6) (bits w 8 6))
  else .error (.noForm 0x3A)

/-- The forms of MAJ 0x3B. -/
def decodeMaj3B (w : Nat) : Except Reject Instr :=
  if bits w 30 2 = 0#2 ∧ bits w 23 3 = 0#3 then .ok (.frnd (bits w 29 1) (bits w 26 3) (bits w 20 3) (bits w 14 6) (bits w 8 6))
  else .error (.noForm 0x3B)

/-- The forms of MAJ 0x3C. -/
def decodeMaj3C (w : Nat) : Except Reject Instr :=
  if bits w 30 2 = 0#2 then .ok (.dadd (bits w 29 1) (bits w 26 3) (bits w 20 6) (bits w 14 6) (bits w 8 6))
  else if bits w 30 2 = 1#2 then .ok (.dsub (bits w 29 1) (bits w 26 3) (bits w 20 6) (bits w 14 6) (bits w 8 6))
  else .error (.noForm 0x3C)

/-- The forms of MAJ 0x3D. -/
def decodeMaj3D (w : Nat) : Except Reject Instr :=
  if bits w 30 2 = 0#2 then .ok (.dmul (bits w 29 1) (bits w 26 3) (bits w 20 6) (bits w 14 6) (bits w 8 6))
  else .error (.noForm 0x3D)

/-- The forms of MAJ 0x3E. -/
def decodeMaj3E (w : Nat) : Except Reject Instr :=
  if bits w 30 2 = 0#2 then .ok (.dfma (bits w 29 1) (bits w 26 3) (bits w 20 6) (bits w 14 6) (bits w 8 6))
  else .error (.noForm 0x3E)

/-- The forms of MAJ 0x3F. -/
def decodeMaj3F (w : Nat) : Except Reject Instr :=
  if bits w 30 2 = 0#2 then .ok (.ddiv (bits w 29 1) (bits w 26 3) (bits w 20 6) (bits w 14 6) (bits w 8 6))
  else if bits w 30 2 = 1#2 ∧ bits w 20 6 = 0#6 then .ok (.dsqrt (bits w 29 1) (bits w 26 3) (bits w 14 6) (bits w 8 6))
  else if bits w 31 1 = 1#1 ∧ bits w 20 6 = 0#6 then .ok (.dcvt (bits w 30 1) (bits w 29 1) (bits w 26 3) (bits w 14 6) (bits w 8 6))
  else .error (.noForm 0x3F)

/-- The forms of MAJ 0x40. -/
def decodeMaj40 (w : Nat) : Except Reject Instr :=
  if bits w 26 4 = 7#4 then .ok (.shfl (bits w 30 2) (bits w 20 6) (bits w 14 6) (bits w 8 6))
  else .error (.noForm 0x40)

/-- The forms of MAJ 0x41. -/
def decodeMaj41 (w : Nat) : Except Reject Instr :=
  if bits w 31 1 = 0#1 ∧ bits w 17 13 = 3584#13 ∧ bits w 11 3 = 0#3 then .ok (.vote (bits w 30 1) (bits w 14 3) (bits w 8 3))
  else if bits w 17 15 = 19968#15 then .ok (.voteBallot (bits w 14 3) (bits w 8 6))
  else .error (.noForm 0x41)

/-- The forms of MAJ 0x42. -/
def decodeMaj42 (w : Nat) : Except Reject Instr :=
  if bits w 22 8 = 112#8 then .ok (.redux (bits w 30 2) (bits w 20 2) (bits w 14 6) (bits w 8 6))
  else .error (.noForm 0x42)

/-- The forms of MAJ 0x43. -/
def decodeMaj43 (w : Nat) : Except Reject Instr :=
  if bits w 23 7 = 56#7 then .ok (.scan (bits w 30 2) (bits w 22 1) (bits w 20 2) (bits w 14 6) (bits w 8 6))
  else .error (.noForm 0x43)

/-- The forms of MAJ 0x44. -/
def decodeMaj44 (w : Nat) : Except Reject Instr :=
  if bits w 31 1 = 0#1 ∧ bits w 20 10 = 448#10 then .ok (.matchLanes (bits w 30 1) (bits w 14 6) (bits w 8 6))
  else .error (.noForm 0x44)

/-- The forms of MAJ 0x45. -/
def decodeMaj45 (w : Nat) : Except Reject Instr :=
  if bits w 30 2 = 0#2 then .ok (.perm (bits w 29 1) (bits w 26 3) (bits w 20 6) (bits w 14 6) (bits w 8 6))
  else .error (.noForm 0x45)

/-- The forms of MAJ 0x46. -/
def decodeMaj46 (w : Nat) : Except Reject Instr :=
  if bits w 11 21 = 229376#21 then .ok (.elect (bits w 8 3))
  else .error (.noForm 0x46)

/-- The forms of MAJ 0x47. -/
def decodeMaj47 (w : Nat) : Except Reject Instr :=
  if bits w 8 24 = 1835008#24 then .ok (.gsync)
  else .error (.noForm 0x47)

/-- The forms of MAJ 0x48. -/
def decodeMaj48 (w : Nat) : Except Reject Instr :=
  .ok (.bra (bits w 12 20) (bits w 11 1) (bits w 8 3))

/-- The forms of MAJ 0x49. -/
def decodeMaj49 (w : Nat) : Except Reject Instr :=
  if bits w 20 12 = 0#12 ∧ bits w 8 6 = 0#6 then .ok (.jmp (bits w 14 6))
  else .error (.noForm 0x49)

/-- The forms of MAJ 0x4A. -/
def decodeMaj4A (w : Nat) : Except Reject Instr :=
  .ok (.call (bits w 12 20) (bits w 11 1) (bits w 8 3))

/-- The forms of MAJ 0x4B. -/
def decodeMaj4B (w : Nat) : Except Reject Instr :=
  if bits w 26 6 = 0#6 ∧ bits w 8 6 = 0#6 then .ok (.callv (bits w 20 6) (bits w 14 6))
  else .error (.noForm 0x4B)

/-- The forms of MAJ 0x4C. -/
def decodeMaj4C (w : Nat) : Except Reject Instr :=
  if bits w 12 20 = 0#20 then .ok (.ret (bits w 11 1) (bits w 8 3))
  else .error (.noForm 0x4C)

/-- The forms of MAJ 0x4D. -/
def decodeMaj4D (w : Nat) : Except Reject Instr :=
  if bits w 12 20 = 0#20 then .ok (.exit (bits w 11 1) (bits w 8 3))
  else if bits w 12 20 = 1#20 then .ok (.refill (bits w 11 1) (bits w 8 3))
  else .error (.noForm 0x4D)

/-- The forms of MAJ 0x4E. -/
def decodeMaj4E (w : Nat) : Except Reject Instr :=
  if bits w 12 20 = 0#20 then .ok (.nop (bits w 11 1) (bits w 8 3))
  else if bits w 12 20 = 262144#20 then .ok (.yield (bits w 11 1) (bits w 8 3))
  else if bits w 28 4 = 8#4 then .ok (.sleep (bits w 12 16) (bits w 11 1) (bits w 8 3))
  else .error (.noForm 0x4E)

/-- The forms of MAJ 0x4F. -/
def decodeMaj4F (w : Nat) : Except Reject Instr :=
  if bits w 28 4 = 0#4 then .ok (.trap (bits w 12 16) (bits w 11 1) (bits w 8 3))
  else if bits w 28 4 = 1#4 then .ok (.brk (bits w 12 16) (bits w 11 1) (bits w 8 3))
  else .error (.noForm 0x4F)

/-- The forms of MAJ 0x50. -/
def decodeMaj50 (w : Nat) : Except Reject Instr :=
  .ok (.ld (bits w 30 2) (bits w 26 4) (bits w 20 6) (bits w 14 6) (bits w 8 6))

/-- The forms of MAJ 0x51. -/
def decodeMaj51 (w : Nat) : Except Reject Instr :=
  .ok (.st (bits w 30 2) (bits w 26 4) (bits w 20 6) (bits w 14 6) (bits w 8 6))

/-- The forms of MAJ 0x52. -/
def decodeMaj52 (w : Nat) : Except Reject Instr :=
  if bits w 30 2 = 0#2 then .ok (.ldw (bits w 26 4) (bits w 20 6) (bits w 14 6) (bits w 8 6))
  else if bits w 30 2 = 1#2 then .ok (.ldc (bits w 26 4) (bits w 20 6) (bits w 14 6) (bits w 8 6))
  else if bits w 30 2 = 2#2 then .ok (.ldq (bits w 26 4) (bits w 20 6) (bits w 14 6) (bits w 8 6))
  else if bits w 30 2 = 3#2 then .ok (.ldqw (bits w 26 4) (bits w 20 6) (bits w 14 6) (bits w 8 6))
  else .error (.noForm 0x52)

/-- The forms of MAJ 0x53. -/
def decodeMaj53 (w : Nat) : Except Reject Instr :=
  if bits w 30 2 = 0#2 then .ok (.stf (bits w 26 4) (bits w 20 6) (bits w 14 6) (bits w 8 6))
  else if bits w 30 2 = 1#2 then .ok (.ste (bits w 26 4) (bits w 20 6) (bits w 14 6) (bits w 8 6))
  else if bits w 30 2 = 2#2 then .ok (.stq (bits w 26 4) (bits w 20 6) (bits w 14 6) (bits w 8 6))
  else .error (.noForm 0x53)

/-- The forms of MAJ 0x54. -/
def decodeMaj54 (w : Nat) : Except Reject Instr :=
  .ok (.atom (bits w 30 2) (bits w 26 4) (bits w 20 6) (bits w 14 6) (bits w 8 6))

/-- The forms of MAJ 0x55. -/
def decodeMaj55 (w : Nat) : Except Reject Instr :=
  .ok (.atomb (bits w 30 2) (bits w 26 4) (bits w 20 6) (bits w 14 6) (bits w 8 6))

/-- The forms of MAJ 0x56. -/
def decodeMaj56 (w : Nat) : Except Reject Instr :=
  if bits w 30 2 = 0#2 then .ok (.atomcCas (bits w 26 4) (bits w 20 6) (bits w 14 6) (bits w 8 6))
  else if bits w 30 2 = 1#2 then .ok (.atomcMinN32 (bits w 26 4) (bits w 20 6) (bits w 14 6) (bits w 8 6))
  else if bits w 30 2 = 2#2 then .ok (.atomcMaxN32 (bits w 26 4) (bits w 20 6) (bits w 14 6) (bits w 8 6))
  else if bits w 30 2 = 3#2 then .ok (.stc (bits w 26 4) (bits w 20 6) (bits w 14 6) (bits w 8 6))
  else .error (.noForm 0x56)

/-- The forms of MAJ 0x57. -/
def decodeMaj57 (w : Nat) : Except Reject Instr :=
  if bits w 12 20 = 0#20 then .ok (.fence (bits w 10 2) (bits w 8 2))
  else if bits w 26 6 = 16#6 ∧ bits w 8 6 = 0#6 then .ok (.pref (bits w 20 6) (bits w 14 6))
  else if bits w 26 6 = 32#6 ∧ bits w 8 6 = 0#6 then .ok (.cflush (bits w 20 6) (bits w 14 6))
  else .error (.noForm 0x57)

/-- The forms of MAJ 0x58. -/
def decodeMaj58 (w : Nat) : Except Reject Instr :=
  if bits w 30 2 = 0#2 then .ok (.cpyIn (bits w 26 4) (bits w 20 6) (bits w 14 6) (bits w 8 6))
  else if bits w 30 2 = 1#2 then .ok (.cpyOut (bits w 26 4) (bits w 20 6) (bits w 14 6) (bits w 8 6))
  else if bits w 30 2 = 2#2 then .ok (.cpyLocal (bits w 26 4) (bits w 20 6) (bits w 14 6) (bits w 8 6))
  else if bits w 8 24 = 12582912#24 then .ok (.cseal)
  else .error (.noForm 0x58)

/-- The forms of MAJ 0x59. -/
def decodeMaj59 (w : Nat) : Except Reject Instr :=
  if bits w 30 2 = 0#2 ∧ bits w 20 6 = 0#6 ∧ bits w 8 6 = 0#6 then .ok (.mma (bits w 26 4) (bits w 14 6))
  else if bits w 30 2 = 1#2 ∧ bits w 8 18 = 0#18 then .ok (.mrels (bits w 26 4))
  else if bits w 30 2 = 2#2 ∧ bits w 20 6 = 0#6 ∧ bits w 8 6 = 0#6 then .ok (.epi (bits w 26 4) (bits w 14 6))
  else if bits w 30 2 = 3#2 ∧ bits w 14 12 = 0#12 then .ok (.mstat (bits w 26 4) (bits w 8 6))
  else .error (.noForm 0x59)

/-- The forms of MAJ 0x5A. -/
def decodeMaj5A (w : Nat) : Except Reject Instr :=
  if bits w 12 20 = 0#20 then .ok (.bar (bits w 8 4))
  else if bits w 12 20 = 262144#20 then .ok (.bara (bits w 8 4))
  else if bits w 12 20 = 524288#20 then .ok (.barw (bits w 8 4))
  else if bits w 12 20 = 786432#20 then .ok (.barx (bits w 8 4))
  else .error (.noForm 0x5A)

/-- The forms of MAJ 0x5B. -/
def decodeMaj5B (w : Nat) : Except Reject Instr :=
  if bits w 8 24 = 0#24 then .ok (.spanj)
  else if bits w 8 24 = 4194304#24 then .ok (.spanx)
  else if bits w 8 24 = 8388608#24 then .ok (.spanb)
  else .error (.noForm 0x5B)

/-- The forms of MAJ 0x5C. -/
def decodeMaj5C (w : Nat) : Except Reject Instr :=
  if bits w 29 3 = 0#3 then .ok (.psend (bits w 25 4) (bits w 19 6) (bits w 14 5) (bits w 8 6))
  else if bits w 29 3 = 1#3 then .ok (.pput (bits w 25 4) (bits w 19 6) (bits w 14 5) (bits w 8 6))
  else if bits w 29 3 = 2#3 then .ok (.pget (bits w 25 4) (bits w 19 6) (bits w 14 5) (bits w 8 6))
  else if bits w 29 3 = 3#3 then .ok (.pmcast (bits w 25 4) (bits w 19 6) (bits w 14 5) (bits w 8 6))
  else if bits w 29 3 = 4#3 ∧ bits w 12 7 = 0#7 then .ok (.parrv (bits w 25 4) (bits w 19 6) (bits w 8 4))
  else if bits w 19 13 = 5120#13 ∧ bits w 8 6 = 0#6 then .ok (.phint (bits w 14 5))
  else if bits w 29 3 = 6#3 ∧ bits w 8 11 = 0#11 then .ok (.precv (bits w 25 4) (bits w 19 6))
  else if bits w 29 3 = 7#3 ∧ bits w 8 17 = 0#17 then .ok (.pfence (bits w 25 4))
  else .error (.noForm 0x5C)

/-- The forms of MAJ 0x5D. -/
def decodeMaj5D (w : Nat) : Except Reject Instr :=
  if bits w 29 3 = 0#3 then .ok (.patom (bits w 25 4) (bits w 19 6) (bits w 14 5) (bits w 8 6))
  else if bits w 29 3 = 1#3 then .ok (.ppool (bits w 25 4) (bits w 19 6) (bits w 14 5) (bits w 8 6))
  else .error (.noForm 0x5D)

/-- The forms of MAJ 0x5E. -/
def decodeMaj5E (w : Nat) : Except Reject Instr :=
  if bits w 8 24 = 0#24 then .ok (.evt)
  else .error (.noForm 0x5E)

/-- The forms of MAJ 0x5F. -/
def decodeMaj5F (w : Nat) : Except Reject Instr :=
  if bits w 30 2 = 0#2 ∧ bits w 19 10 = 0#10 then .ok (.capq (bits w 29 1) (bits w 14 5) (bits w 8 6))
  else .error (.noForm 0x5F)

/-- A 32-bit word, by its major opcode (R309). -/
def decode32 (w : Nat) : Except Reject Instr :=
  match (bits w 1 7).toNat with
  | 0x00 => decodeMaj00 w
  | 0x01 => decodeMaj01 w
  | 0x02 => decodeMaj02 w
  | 0x03 => decodeMaj03 w
  | 0x04 => decodeMaj04 w
  | 0x05 => decodeMaj05 w
  | 0x06 => decodeMaj06 w
  | 0x07 => decodeMaj07 w
  | 0x08 => decodeMaj08 w
  | 0x09 => decodeMaj09 w
  | 0x0A => decodeMaj0A w
  | 0x0B => decodeMaj0B w
  | 0x0C => decodeMaj0C w
  | 0x0D => decodeMaj0D w
  | 0x0E => decodeMaj0E w
  | 0x0F => decodeMaj0F w
  | 0x10 => decodeMaj10 w
  | 0x11 => decodeMaj11 w
  | 0x12 => decodeMaj12 w
  | 0x13 => decodeMaj13 w
  | 0x14 => decodeMaj14 w
  | 0x15 => decodeMaj15 w
  | 0x16 => decodeMaj16 w
  | 0x17 => decodeMaj17 w
  | 0x18 => decodeMaj18 w
  | 0x19 => decodeMaj19 w
  | 0x1A => decodeMaj1A w
  | 0x1B => decodeMaj1B w
  | 0x1C => decodeMaj1C w
  | 0x1D => decodeMaj1D w
  | 0x1E => decodeMaj1E w
  | 0x1F => decodeMaj1F w
  | 0x20 => decodeMaj20 w
  | 0x21 => decodeMaj21 w
  | 0x22 => decodeMaj22 w
  | 0x23 => decodeMaj23 w
  | 0x24 => decodeMaj24 w
  | 0x25 => decodeMaj25 w
  | 0x26 => decodeMaj26 w
  | 0x27 => decodeMaj27 w
  | 0x28 => decodeMaj28 w
  | 0x29 => decodeMaj29 w
  | 0x2A => decodeMaj2A w
  | 0x2B => decodeMaj2B w
  | 0x2C => decodeMaj2C w
  | 0x2D => decodeMaj2D w
  | 0x2E => decodeMaj2E w
  | 0x2F => decodeMaj2F w
  | 0x30 => decodeMaj30 w
  | 0x31 => decodeMaj31 w
  | 0x32 => decodeMaj32 w
  | 0x33 => decodeMaj33 w
  | 0x34 => decodeMaj34 w
  | 0x35 => decodeMaj35 w
  | 0x36 => decodeMaj36 w
  | 0x37 => decodeMaj37 w
  | 0x38 => decodeMaj38 w
  | 0x39 => decodeMaj39 w
  | 0x3A => decodeMaj3A w
  | 0x3B => decodeMaj3B w
  | 0x3C => decodeMaj3C w
  | 0x3D => decodeMaj3D w
  | 0x3E => decodeMaj3E w
  | 0x3F => decodeMaj3F w
  | 0x40 => decodeMaj40 w
  | 0x41 => decodeMaj41 w
  | 0x42 => decodeMaj42 w
  | 0x43 => decodeMaj43 w
  | 0x44 => decodeMaj44 w
  | 0x45 => decodeMaj45 w
  | 0x46 => decodeMaj46 w
  | 0x47 => decodeMaj47 w
  | 0x48 => decodeMaj48 w
  | 0x49 => decodeMaj49 w
  | 0x4A => decodeMaj4A w
  | 0x4B => decodeMaj4B w
  | 0x4C => decodeMaj4C w
  | 0x4D => decodeMaj4D w
  | 0x4E => decodeMaj4E w
  | 0x4F => decodeMaj4F w
  | 0x50 => decodeMaj50 w
  | 0x51 => decodeMaj51 w
  | 0x52 => decodeMaj52 w
  | 0x53 => decodeMaj53 w
  | 0x54 => decodeMaj54 w
  | 0x55 => decodeMaj55 w
  | 0x56 => decodeMaj56 w
  | 0x57 => decodeMaj57 w
  | 0x58 => decodeMaj58 w
  | 0x59 => decodeMaj59 w
  | 0x5A => decodeMaj5A w
  | 0x5B => decodeMaj5B w
  | 0x5C => decodeMaj5C w
  | 0x5D => decodeMaj5D w
  | 0x5E => decodeMaj5E w
  | 0x5F => decodeMaj5F w
  | maj => .error (.majorUnassigned maj)

/-- A compact unit (R306). -/
def decode16 (w : Nat) : Except Reject Instr :=
  match (bits w 1 4).toNat, bits w 15 1 with
  | 0, 0#1 => .ok (.addCompact (bits w 10 5) (bits w 5 5))
  | 0, 1#1 => .ok (.addCompactImm (bits w 10 5) (bits w 5 5))
  | 1, 0#1 => .ok (.subCompact (bits w 10 5) (bits w 5 5))
  | 1, 1#1 => .ok (.subCompactImm (bits w 10 5) (bits w 5 5))
  | 2, 0#1 => .ok (.andCompact (bits w 10 5) (bits w 5 5))
  | 2, 1#1 => .ok (.andCompactImm (bits w 10 5) (bits w 5 5))
  | 3, 0#1 => .ok (.orCompact (bits w 10 5) (bits w 5 5))
  | 3, 1#1 => .ok (.orCompactImm (bits w 10 5) (bits w 5 5))
  | 4, 0#1 => .ok (.xorCompact (bits w 10 5) (bits w 5 5))
  | 4, 1#1 => .ok (.xorCompactImm (bits w 10 5) (bits w 5 5))
  | 5, 0#1 => .ok (.shlCompact (bits w 10 5) (bits w 5 5))
  | 5, 1#1 => .ok (.shlCompactImm (bits w 10 5) (bits w 5 5))
  | 6, 0#1 => .ok (.shrCompact (bits w 10 5) (bits w 5 5))
  | 6, 1#1 => .ok (.shrCompactImm (bits w 10 5) (bits w 5 5))
  | 7, 0#1 => .ok (.movCompact (bits w 10 5) (bits w 5 5))
  | 7, 1#1 => .ok (.movCompactImm (bits w 10 5) (bits w 5 5))
  | 8, 0#1 => .ok (.faddCompact (bits w 10 5) (bits w 5 5))
  | 9, 0#1 => .ok (.fmulCompact (bits w 10 5) (bits w 5 5))
  | 10, 0#1 => .ok (.fsubCompact (bits w 10 5) (bits w 5 5))
  | 11, 0#1 => .ok (.fmaxCompact (bits w 10 5) (bits w 5 5))
  | 12, 0#1 => .ok (.fminCompact (bits w 10 5) (bits w 5 5))
  | 13, 0#1 => .ok (.mulCompact (bits w 10 5) (bits w 5 5))
  | 14, 0#1 => .ok (.minI32Compact (bits w 10 5) (bits w 5 5))
  | 15, 0#1 => .ok (.maxI32Compact (bits w 10 5) (bits w 5 5))
  | cop, _ => .error (.compactImmediate cop)

/-- Bytes as a little-endian number (R5). -/
def leBytes : List Byte → Nat
  | [] => 0
  | b :: bs => b.toNat + 256 * leBytes bs

/-- The low `n` bytes of a number, little-endian (R5). -/
def toLeBytes : Nat → Nat → List Byte
  | 0, _ => []
  | n + 1, w => BitVec.ofNat 8 w :: toLeBytes n (w / 256)

/-- The instruction at the head of a byte string, with its length in bytes: bit 0 of the first unit gives the length (R305). -/
def decode (bs : List Byte) : Except Reject (Instr × Nat) :=
  match bs with
  | b0 :: b1 :: rest =>
    if b0.getLsbD 0 then
      match rest with
      | b2 :: b3 :: _ => (decode32 (leBytes [b0, b1, b2, b3])).map (·, 4)
      | _ => .error .truncated
    else (decode16 (leBytes [b0, b1])).map (·, 2)
  | _ => .error .truncated

/-- The word of an encoded instruction: its length in bytes and its bits. An event has none. -/
def encodeWord : Instr → Option (Nat × Nat)
  | .addCompact s d => some (2, pk 0#1 <| pk 0#4 <| pk d <| pk s <| pk 0#1 0)
  | .addCompactImm i d => some (2, pk 0#1 <| pk 0#4 <| pk d <| pk i <| pk 1#1 0)
  | .subCompact s d => some (2, pk 0#1 <| pk 1#4 <| pk d <| pk s <| pk 0#1 0)
  | .subCompactImm i d => some (2, pk 0#1 <| pk 1#4 <| pk d <| pk i <| pk 1#1 0)
  | .andCompact s d => some (2, pk 0#1 <| pk 2#4 <| pk d <| pk s <| pk 0#1 0)
  | .andCompactImm i d => some (2, pk 0#1 <| pk 2#4 <| pk d <| pk i <| pk 1#1 0)
  | .orCompact s d => some (2, pk 0#1 <| pk 3#4 <| pk d <| pk s <| pk 0#1 0)
  | .orCompactImm i d => some (2, pk 0#1 <| pk 3#4 <| pk d <| pk i <| pk 1#1 0)
  | .xorCompact s d => some (2, pk 0#1 <| pk 4#4 <| pk d <| pk s <| pk 0#1 0)
  | .xorCompactImm i d => some (2, pk 0#1 <| pk 4#4 <| pk d <| pk i <| pk 1#1 0)
  | .shlCompact s d => some (2, pk 0#1 <| pk 5#4 <| pk d <| pk s <| pk 0#1 0)
  | .shlCompactImm i d => some (2, pk 0#1 <| pk 5#4 <| pk d <| pk i <| pk 1#1 0)
  | .shrCompact s d => some (2, pk 0#1 <| pk 6#4 <| pk d <| pk s <| pk 0#1 0)
  | .shrCompactImm i d => some (2, pk 0#1 <| pk 6#4 <| pk d <| pk i <| pk 1#1 0)
  | .movCompact s d => some (2, pk 0#1 <| pk 7#4 <| pk d <| pk s <| pk 0#1 0)
  | .movCompactImm i d => some (2, pk 0#1 <| pk 7#4 <| pk d <| pk i <| pk 1#1 0)
  | .faddCompact s d => some (2, pk 0#1 <| pk 8#4 <| pk d <| pk s <| pk 0#1 0)
  | .fmulCompact s d => some (2, pk 0#1 <| pk 9#4 <| pk d <| pk s <| pk 0#1 0)
  | .fsubCompact s d => some (2, pk 0#1 <| pk 10#4 <| pk d <| pk s <| pk 0#1 0)
  | .fmaxCompact s d => some (2, pk 0#1 <| pk 11#4 <| pk d <| pk s <| pk 0#1 0)
  | .fminCompact s d => some (2, pk 0#1 <| pk 12#4 <| pk d <| pk s <| pk 0#1 0)
  | .mulCompact s d => some (2, pk 0#1 <| pk 13#4 <| pk d <| pk s <| pk 0#1 0)
  | .minI32Compact s d => some (2, pk 0#1 <| pk 14#4 <| pk d <| pk s <| pk 0#1 0)
  | .maxI32Compact s d => some (2, pk 0#1 <| pk 15#4 <| pk d <| pk s <| pk 0#1 0)
  | .sadd b a d => some (4, pk 1#1 <| pk 0#7 <| pk d <| pk a <| pk b <| pk 0#6 0)
  | .ssub b a d => some (4, pk 1#1 <| pk 1#7 <| pk d <| pk a <| pk b <| pk 0#6 0)
  | .smul f b a d => some (4, pk 1#1 <| pk 2#7 <| pk d <| pk a <| pk b <| pk f 0)
  | .sand b a d => some (4, pk 1#1 <| pk 3#7 <| pk d <| pk a <| pk b <| pk 0#6 0)
  | .sor b a d => some (4, pk 1#1 <| pk 3#7 <| pk d <| pk a <| pk b <| pk 1#6 0)
  | .sxor b a d => some (4, pk 1#1 <| pk 3#7 <| pk d <| pk a <| pk b <| pk 2#6 0)
  | .sandn b a d => some (4, pk 1#1 <| pk 3#7 <| pk d <| pk a <| pk b <| pk 3#6 0)
  | .sshl b a d => some (4, pk 1#1 <| pk 4#7 <| pk d <| pk a <| pk b <| pk 0#6 0)
  | .sshr b a d => some (4, pk 1#1 <| pk 4#7 <| pk d <| pk a <| pk b <| pk 1#6 0)
  | .ssra b a d => some (4, pk 1#1 <| pk 4#7 <| pk d <| pk a <| pk b <| pk 2#6 0)
  | .smin s b a d => some (4, pk 1#1 <| pk 5#7 <| pk d <| pk a <| pk b <| pk 0#1 <| pk s <| pk 0#4 0)
  | .smax s b a d => some (4, pk 1#1 <| pk 5#7 <| pk d <| pk a <| pk b <| pk 1#1 <| pk s <| pk 0#4 0)
  | .saddi i a d => some (4, pk 1#1 <| pk 6#7 <| pk d <| pk a <| pk i 0)
  | .smovi i c d => some (4, pk 1#1 <| pk 7#7 <| pk d <| pk c <| pk i 0)
  | .scmp f b a d => some (4, pk 1#1 <| pk 8#7 <| pk d <| pk a <| pk b <| pk f 0)
  | .sld i l r c a d => some (4, pk 1#1 <| pk 9#7 <| pk d <| pk a <| pk c <| pk r <| pk l <| pk i 0)
  | .sst i l r c a d => some (4, pk 1#1 <| pk 10#7 <| pk d <| pk a <| pk c <| pk r <| pk l <| pk i 0)
  | .srd i d => some (4, pk 1#1 <| pk 11#7 <| pk d <| pk 0#6 <| pk i 0)
  | .swr i a => some (4, pk 1#1 <| pk 12#7 <| pk 0#6 <| pk a <| pk i 0)
  | .slane l a d => some (4, pk 1#1 <| pk 13#7 <| pk d <| pk a <| pk l <| pk 0#6 0)
  | .sbra i a z => some (4, pk 1#1 <| pk 14#7 <| pk z <| pk 0#5 <| pk a <| pk i 0)
  | .satom o l r c a d => some (4, pk 1#1 <| pk 15#7 <| pk d <| pk a <| pk c <| pk r <| pk l <| pk o 0)
  | .add n g b a d => some (4, pk 1#1 <| pk 16#7 <| pk d <| pk a <| pk b <| pk g <| pk n <| pk 0#2 0)
  | .sub n g b a d => some (4, pk 1#1 <| pk 17#7 <| pk d <| pk a <| pk b <| pk g <| pk n <| pk 0#2 0)
  | .mul n g b a d => some (4, pk 1#1 <| pk 18#7 <| pk d <| pk a <| pk b <| pk g <| pk n <| pk 0#2 0)
  | .mulhi s n g b a d => some (4, pk 1#1 <| pk 19#7 <| pk d <| pk a <| pk b <| pk g <| pk n <| pk s <| pk 0#1 0)
  | .mad n g b a d => some (4, pk 1#1 <| pk 20#7 <| pk d <| pk a <| pk b <| pk g <| pk n <| pk 0#2 0)
  | .and n g b a d => some (4, pk 1#1 <| pk 21#7 <| pk d <| pk a <| pk b <| pk g <| pk n <| pk 0#2 0)
  | .or n g b a d => some (4, pk 1#1 <| pk 21#7 <| pk d <| pk a <| pk b <| pk g <| pk n <| pk 1#2 0)
  | .xor n g b a d => some (4, pk 1#1 <| pk 21#7 <| pk d <| pk a <| pk b <| pk g <| pk n <| pk 2#2 0)
  | .andn n g b a d => some (4, pk 1#1 <| pk 21#7 <| pk d <| pk a <| pk b <| pk g <| pk n <| pk 3#2 0)
  | .shl n g b a d => some (4, pk 1#1 <| pk 22#7 <| pk d <| pk a <| pk b <| pk g <| pk n <| pk 0#2 0)
  | .shr n g b a d => some (4, pk 1#1 <| pk 22#7 <| pk d <| pk a <| pk b <| pk g <| pk n <| pk 1#2 0)
  | .sra n g b a d => some (4, pk 1#1 <| pk 22#7 <| pk d <| pk a <| pk b <| pk g <| pk n <| pk 2#2 0)
  | .min s n g b a d => some (4, pk 1#1 <| pk 23#7 <| pk d <| pk a <| pk b <| pk g <| pk n <| pk 0#1 <| pk s 0)
  | .max s n g b a d => some (4, pk 1#1 <| pk 23#7 <| pk d <| pk a <| pk b <| pk g <| pk n <| pk 1#1 <| pk s 0)
  | .abs n g a d => some (4, pk 1#1 <| pk 24#7 <| pk d <| pk a <| pk 0#6 <| pk g <| pk n <| pk 0#2 0)
  | .neg n g a d => some (4, pk 1#1 <| pk 24#7 <| pk d <| pk a <| pk 0#6 <| pk g <| pk n <| pk 1#2 0)
  | .clz n g a d => some (4, pk 1#1 <| pk 25#7 <| pk d <| pk a <| pk 0#6 <| pk g <| pk n <| pk 0#2 0)
  | .popc n g a d => some (4, pk 1#1 <| pk 25#7 <| pk d <| pk a <| pk 0#6 <| pk g <| pk n <| pk 1#2 0)
  | .brev n g a d => some (4, pk 1#1 <| pk 25#7 <| pk d <| pk a <| pk 0#6 <| pk g <| pk n <| pk 2#2 0)
  | .addi g i a d => some (4, pk 1#1 <| pk 26#7 <| pk d <| pk a <| pk i <| pk g 0)
  | .shli g k a d => some (4, pk 1#1 <| pk 27#7 <| pk d <| pk a <| pk k <| pk 0#4 <| pk g 0)
  | .shri g k a d => some (4, pk 1#1 <| pk 28#7 <| pk d <| pk a <| pk k <| pk 0#4 <| pk g 0)
  | .movs h b d => some (4, pk 1#1 <| pk 29#7 <| pk d <| pk b <| pk 0#10 <| pk h <| pk 0#1 0)
  | .mov n g a d => some (4, pk 1#1 <| pk 30#7 <| pk d <| pk a <| pk 0#6 <| pk g <| pk n <| pk 0#2 0)
  | .sel n g b a d => some (4, pk 1#1 <| pk 31#7 <| pk d <| pk a <| pk b <| pk g <| pk n <| pk 0#2 0)
  | .cmp f n g b a p => some (4, pk 1#1 <| pk 32#7 <| pk p <| pk 0#3 <| pk a <| pk b <| pk g <| pk n <| pk f 0)
  | .cmpn f n g b a p => some (4, pk 1#1 <| pk 33#7 <| pk p <| pk 0#3 <| pk a <| pk b <| pk g <| pk n <| pk f 0)
  | .cvt f n g a d => some (4, pk 1#1 <| pk 34#7 <| pk d <| pk a <| pk 0#6 <| pk g <| pk n <| pk f 0)
  | .plane f n g k a d => some (4, pk 1#1 <| pk 35#7 <| pk d <| pk a <| pk k <| pk 0#1 <| pk g <| pk n <| pk f <| pk 0#1 0)
  | .lrd g i d => some (4, pk 1#1 <| pk 36#7 <| pk d <| pk 0#6 <| pk i <| pk g 0)
  | .pand n g b a d => some (4, pk 1#1 <| pk 37#7 <| pk d <| pk 0#3 <| pk a <| pk 0#3 <| pk b <| pk 0#3 <| pk g <| pk n <| pk 0#2 0)
  | .por n g b a d => some (4, pk 1#1 <| pk 37#7 <| pk d <| pk 0#3 <| pk a <| pk 0#3 <| pk b <| pk 0#3 <| pk g <| pk n <| pk 1#2 0)
  | .pnot n g a d => some (4, pk 1#1 <| pk 37#7 <| pk d <| pk 0#3 <| pk a <| pk 0#9 <| pk g <| pk n <| pk 2#2 0)
  | .bfe s n g b a d => some (4, pk 1#1 <| pk 38#7 <| pk d <| pk a <| pk b <| pk g <| pk n <| pk s <| pk 0#1 0)
  | .bfi n g b a d => some (4, pk 1#1 <| pk 38#7 <| pk d <| pk a <| pk b <| pk g <| pk n <| pk 2#2 0)
  | .dot4 f n g b a d => some (4, pk 1#1 <| pk 39#7 <| pk d <| pk a <| pk b <| pk g <| pk n <| pk f 0)
  | .fadd n g b a d => some (4, pk 1#1 <| pk 40#7 <| pk d <| pk a <| pk b <| pk g <| pk n <| pk 0#2 0)
  | .fsub n g b a d => some (4, pk 1#1 <| pk 41#7 <| pk d <| pk a <| pk b <| pk g <| pk n <| pk 0#2 0)
  | .fmul n g b a d => some (4, pk 1#1 <| pk 42#7 <| pk d <| pk a <| pk b <| pk g <| pk n <| pk 0#2 0)
  | .ffma n g b a d => some (4, pk 1#1 <| pk 43#7 <| pk d <| pk a <| pk b <| pk g <| pk n <| pk 0#2 0)
  | .fmin n g b a d => some (4, pk 1#1 <| pk 44#7 <| pk d <| pk a <| pk b <| pk g <| pk n <| pk 0#2 0)
  | .fmax n g b a d => some (4, pk 1#1 <| pk 44#7 <| pk d <| pk a <| pk b <| pk g <| pk n <| pk 1#2 0)
  | .fcmp f n g b a p => some (4, pk 1#1 <| pk 45#7 <| pk p <| pk 0#3 <| pk a <| pk b <| pk g <| pk n <| pk f 0)
  | .frcp n g a d => some (4, pk 1#1 <| pk 46#7 <| pk d <| pk a <| pk 0#6 <| pk g <| pk n <| pk 0#2 0)
  | .frsq n g a d => some (4, pk 1#1 <| pk 47#7 <| pk d <| pk a <| pk 0#6 <| pk g <| pk n <| pk 0#2 0)
  | .fsqrt n g a d => some (4, pk 1#1 <| pk 48#7 <| pk d <| pk a <| pk 0#6 <| pk g <| pk n <| pk 0#2 0)
  | .fdiv n g b a d => some (4, pk 1#1 <| pk 49#7 <| pk d <| pk a <| pk b <| pk g <| pk n <| pk 0#2 0)
  | .fexp2 n g a d => some (4, pk 1#1 <| pk 50#7 <| pk d <| pk a <| pk 0#6 <| pk g <| pk n <| pk 0#2 0)
  | .flog2 n g a d => some (4, pk 1#1 <| pk 51#7 <| pk d <| pk a <| pk 0#6 <| pk g <| pk n <| pk 0#2 0)
  | .fsin n g a d => some (4, pk 1#1 <| pk 52#7 <| pk d <| pk a <| pk 0#6 <| pk g <| pk n <| pk 0#2 0)
  | .fcos n g a d => some (4, pk 1#1 <| pk 52#7 <| pk d <| pk a <| pk 0#6 <| pk g <| pk n <| pk 1#2 0)
  | .fcvt f n g a d => some (4, pk 1#1 <| pk 53#7 <| pk d <| pk a <| pk 0#6 <| pk g <| pk n <| pk f 0)
  | .ncvt u n g j f a d => some (4, pk 1#1 <| pk 54#7 <| pk d <| pk a <| pk f <| pk j <| pk g <| pk n <| pk u <| pk 0#1 0)
  | .icvtF32ToInt s n g m a d => some (4, pk 1#1 <| pk 55#7 <| pk d <| pk a <| pk m <| pk 0#3 <| pk g <| pk n <| pk s <| pk 0#1 0)
  | .icvtIntToF32 s n g a d => some (4, pk 1#1 <| pk 55#7 <| pk d <| pk a <| pk 0#6 <| pk g <| pk n <| pk s <| pk 1#1 0)
  | .fclass n g a d => some (4, pk 1#1 <| pk 56#7 <| pk d <| pk a <| pk 0#6 <| pk g <| pk n <| pk 0#2 0)
  | .fscl n g b a d => some (4, pk 1#1 <| pk 57#7 <| pk d <| pk a <| pk b <| pk g <| pk n <| pk 0#2 0)
  | .fabs n g a d => some (4, pk 1#1 <| pk 58#7 <| pk d <| pk a <| pk 0#6 <| pk g <| pk n <| pk 0#2 0)
  | .fneg n g a d => some (4, pk 1#1 <| pk 58#7 <| pk d <| pk a <| pk 0#6 <| pk g <| pk n <| pk 1#2 0)
  | .fcpys n g b a d => some (4, pk 1#1 <| pk 58#7 <| pk d <| pk a <| pk b <| pk g <| pk n <| pk 2#2 0)
  | .frnd n g m a d => some (4, pk 1#1 <| pk 59#7 <| pk d <| pk a <| pk m <| pk 0#3 <| pk g <| pk n <| pk 0#2 0)
  | .dadd n g b a d => some (4, pk 1#1 <| pk 60#7 <| pk d <| pk a <| pk b <| pk g <| pk n <| pk 0#2 0)
  | .dsub n g b a d => some (4, pk 1#1 <| pk 60#7 <| pk d <| pk a <| pk b <| pk g <| pk n <| pk 1#2 0)
  | .dmul n g b a d => some (4, pk 1#1 <| pk 61#7 <| pk d <| pk a <| pk b <| pk g <| pk n <| pk 0#2 0)
  | .dfma n g b a d => some (4, pk 1#1 <| pk 62#7 <| pk d <| pk a <| pk b <| pk g <| pk n <| pk 0#2 0)
  | .ddiv n g b a d => some (4, pk 1#1 <| pk 63#7 <| pk d <| pk a <| pk b <| pk g <| pk n <| pk 0#2 0)
  | .dsqrt n g a d => some (4, pk 1#1 <| pk 63#7 <| pk d <| pk a <| pk 0#6 <| pk g <| pk n <| pk 1#2 0)
  | .dcvt s n g a d => some (4, pk 1#1 <| pk 63#7 <| pk d <| pk a <| pk 0#6 <| pk g <| pk n <| pk s <| pk 1#1 0)
  | .shfl f b a d => some (4, pk 1#1 <| pk 64#7 <| pk d <| pk a <| pk b <| pk 7#4 <| pk f 0)
  | .vote f a d => some (4, pk 1#1 <| pk 65#7 <| pk d <| pk 0#3 <| pk a <| pk 3584#13 <| pk f <| pk 0#1 0)
  | .voteBallot a d => some (4, pk 1#1 <| pk 65#7 <| pk d <| pk a <| pk 19968#15 0)
  | .redux f t a d => some (4, pk 1#1 <| pk 66#7 <| pk d <| pk a <| pk t <| pk 112#8 <| pk f 0)
  | .scan f e t a d => some (4, pk 1#1 <| pk 67#7 <| pk d <| pk a <| pk t <| pk e <| pk 56#7 <| pk f 0)
  | .matchLanes h a d => some (4, pk 1#1 <| pk 68#7 <| pk d <| pk a <| pk 448#10 <| pk h <| pk 0#1 0)
  | .perm n g b a d => some (4, pk 1#1 <| pk 69#7 <| pk d <| pk a <| pk b <| pk g <| pk n <| pk 0#2 0)
  | .elect d => some (4, pk 1#1 <| pk 70#7 <| pk d <| pk 229376#21 0)
  | .gsync => some (4, pk 1#1 <| pk 71#7 <| pk 1835008#24 0)
  | .bra o n g => some (4, pk 1#1 <| pk 72#7 <| pk g <| pk n <| pk o 0)
  | .jmp a => some (4, pk 1#1 <| pk 73#7 <| pk 0#6 <| pk a <| pk 0#12 0)
  | .call o n g => some (4, pk 1#1 <| pk 74#7 <| pk g <| pk n <| pk o 0)
  | .callv a b => some (4, pk 1#1 <| pk 75#7 <| pk 0#6 <| pk b <| pk a <| pk 0#6 0)
  | .ret n g => some (4, pk 1#1 <| pk 76#7 <| pk g <| pk n <| pk 0#20 0)
  | .exit n g => some (4, pk 1#1 <| pk 77#7 <| pk g <| pk n <| pk 0#20 0)
  | .refill n g => some (4, pk 1#1 <| pk 77#7 <| pk g <| pk n <| pk 1#20 0)
  | .nop n g => some (4, pk 1#1 <| pk 78#7 <| pk g <| pk n <| pk 0#20 0)
  | .yield n g => some (4, pk 1#1 <| pk 78#7 <| pk g <| pk n <| pk 262144#20 0)
  | .sleep k n g => some (4, pk 1#1 <| pk 78#7 <| pk g <| pk n <| pk k <| pk 8#4 0)
  | .trap k n g => some (4, pk 1#1 <| pk 79#7 <| pk g <| pk n <| pk k <| pk 0#4 0)
  | .brk k n g => some (4, pk 1#1 <| pk 79#7 <| pk g <| pk n <| pk k <| pk 1#4 0)
  | .ld f l a b d => some (4, pk 1#1 <| pk 80#7 <| pk d <| pk b <| pk a <| pk l <| pk f 0)
  | .st f l a b d => some (4, pk 1#1 <| pk 81#7 <| pk d <| pk b <| pk a <| pk l <| pk f 0)
  | .ldw l a b d => some (4, pk 1#1 <| pk 82#7 <| pk d <| pk b <| pk a <| pk l <| pk 0#2 0)
  | .ldc l a b d => some (4, pk 1#1 <| pk 82#7 <| pk d <| pk b <| pk a <| pk l <| pk 1#2 0)
  | .ldq l a b d => some (4, pk 1#1 <| pk 82#7 <| pk d <| pk b <| pk a <| pk l <| pk 2#2 0)
  | .ldqw l a b d => some (4, pk 1#1 <| pk 82#7 <| pk d <| pk b <| pk a <| pk l <| pk 3#2 0)
  | .stf l a b d => some (4, pk 1#1 <| pk 83#7 <| pk d <| pk b <| pk a <| pk l <| pk 0#2 0)
  | .ste l a b d => some (4, pk 1#1 <| pk 83#7 <| pk d <| pk b <| pk a <| pk l <| pk 1#2 0)
  | .stq l a b d => some (4, pk 1#1 <| pk 83#7 <| pk d <| pk b <| pk a <| pk l <| pk 2#2 0)
  | .atom f l a b d => some (4, pk 1#1 <| pk 84#7 <| pk d <| pk b <| pk a <| pk l <| pk f 0)
  | .atomb f l a b d => some (4, pk 1#1 <| pk 85#7 <| pk d <| pk b <| pk a <| pk l <| pk f 0)
  | .atomcCas l a b d => some (4, pk 1#1 <| pk 86#7 <| pk d <| pk b <| pk a <| pk l <| pk 0#2 0)
  | .atomcMinN32 l a b d => some (4, pk 1#1 <| pk 86#7 <| pk d <| pk b <| pk a <| pk l <| pk 1#2 0)
  | .atomcMaxN32 l a b d => some (4, pk 1#1 <| pk 86#7 <| pk d <| pk b <| pk a <| pk l <| pk 2#2 0)
  | .stc l a b d => some (4, pk 1#1 <| pk 86#7 <| pk d <| pk b <| pk a <| pk l <| pk 3#2 0)
  | .fence c k => some (4, pk 1#1 <| pk 87#7 <| pk k <| pk c <| pk 0#20 0)
  | .pref a b => some (4, pk 1#1 <| pk 87#7 <| pk 0#6 <| pk b <| pk a <| pk 16#6 0)
  | .cflush a b => some (4, pk 1#1 <| pk 87#7 <| pk 0#6 <| pk b <| pk a <| pk 32#6 0)
  | .cpyIn l b a t => some (4, pk 1#1 <| pk 88#7 <| pk t <| pk a <| pk b <| pk l <| pk 0#2 0)
  | .cpyOut l b a t => some (4, pk 1#1 <| pk 88#7 <| pk t <| pk a <| pk b <| pk l <| pk 1#2 0)
  | .cpyLocal l b a t => some (4, pk 1#1 <| pk 88#7 <| pk t <| pk a <| pk b <| pk l <| pk 2#2 0)
  | .cseal => some (4, pk 1#1 <| pk 88#7 <| pk 12582912#24 0)
  | .mma l a => some (4, pk 1#1 <| pk 89#7 <| pk 0#6 <| pk a <| pk 0#6 <| pk l <| pk 0#2 0)
  | .mrels l => some (4, pk 1#1 <| pk 89#7 <| pk 0#18 <| pk l <| pk 1#2 0)
  | .epi l a => some (4, pk 1#1 <| pk 89#7 <| pk 0#6 <| pk a <| pk 0#6 <| pk l <| pk 2#2 0)
  | .mstat l t => some (4, pk 1#1 <| pk 89#7 <| pk t <| pk 0#12 <| pk l <| pk 3#2 0)
  | .bar b => some (4, pk 1#1 <| pk 90#7 <| pk b <| pk 0#20 0)
  | .bara b => some (4, pk 1#1 <| pk 90#7 <| pk b <| pk 262144#20 0)
  | .barw b => some (4, pk 1#1 <| pk 90#7 <| pk b <| pk 524288#20 0)
  | .barx b => some (4, pk 1#1 <| pk 90#7 <| pk b <| pk 786432#20 0)
  | .spanj => some (4, pk 1#1 <| pk 91#7 <| pk 0#24 0)
  | .spanx => some (4, pk 1#1 <| pk 91#7 <| pk 4194304#24 0)
  | .spanb => some (4, pk 1#1 <| pk 91#7 <| pk 8388608#24 0)
  | .psend l a c t => some (4, pk 1#1 <| pk 92#7 <| pk t <| pk c <| pk a <| pk l <| pk 0#3 0)
  | .pput l a c d => some (4, pk 1#1 <| pk 92#7 <| pk d <| pk c <| pk a <| pk l <| pk 1#3 0)
  | .pget l a c d => some (4, pk 1#1 <| pk 92#7 <| pk d <| pk c <| pk a <| pk l <| pk 2#3 0)
  | .pmcast l a c t => some (4, pk 1#1 <| pk 92#7 <| pk t <| pk c <| pk a <| pk l <| pk 3#3 0)
  | .parrv l a n => some (4, pk 1#1 <| pk 92#7 <| pk n <| pk 0#7 <| pk a <| pk l <| pk 4#3 0)
  | .phint c => some (4, pk 1#1 <| pk 92#7 <| pk 0#6 <| pk c <| pk 5120#13 0)
  | .precv l a => some (4, pk 1#1 <| pk 92#7 <| pk 0#11 <| pk a <| pk l <| pk 6#3 0)
  | .pfence l => some (4, pk 1#1 <| pk 92#7 <| pk 0#17 <| pk l <| pk 7#3 0)
  | .patom l a c t => some (4, pk 1#1 <| pk 93#7 <| pk t <| pk c <| pk a <| pk l <| pk 0#3 0)
  | .ppool l a c t => some (4, pk 1#1 <| pk 93#7 <| pk t <| pk c <| pk a <| pk l <| pk 1#3 0)
  | .evt => some (4, pk 1#1 <| pk 94#7 <| pk 0#24 0)
  | .capq f c t => some (4, pk 1#1 <| pk 95#7 <| pk t <| pk c <| pk 0#10 <| pk f <| pk 0#2 0)
  | .registerWrite _ _ _ => none
  | .lqtailWrite _ _ _ => none
  | .queueEnable _ _ _ => none
  | .queueDisable _ _ _ => none
  | .launchRecordRead _ _ => none
  | .launchAccept _ _ => none
  | .launchComplete _ _ => none
  | .dispatchTeam _ => none
  | .teamRetirement _ => none
  | .spanDetachment _ => none
  | .forwardProgressInterval _ => none
  | .saveComplete _ => none
  | .teamRestart _ => none
  | .vacate _ => none
  | .returnPiers _ => none
  | .vacateComplete _ => none
  | .tlbinv _ _ => none
  | .tlbInvalidateComplete _ => none
  | .hostAccess _ _ _ => none
  | .regroup _ _ => none
  | .waitCountBoost _ _ => none
  | .sleepExpiry _ _ => none
  | .loadDataLand _ => none
  | .emulationComplete _ => none
  | .copyLineFill _ => none
  | .copyOutLineWrite _ => none
  | .batchComplete _ => none
  | .mmaStart _ => none
  | .mmaComplete _ => none
  | .epilogueJobStart _ => none
  | .epilogueJobComplete _ => none
  | .mrelsFree _ => none
  | .slotStart => none
  | .slotEnd => none
  | .writeFlit _ _ => none
  | .getRequest _ _ => none
  | .getResponse _ _ => none
  | .atomicRequest _ _ => none
  | .atomicResponse _ _ => none
  | .poolRequest _ _ => none
  | .poolResponse _ _ => none
  | .acknowledgement _ _ => none
  | .hint _ _ => none
  | .completion _ _ => none
  | .tagFlit _ _ => none
  | .relayedFlit _ _ => none
  | .flitDiscard _ _ => none
  | .ackTimeout _ _ => none
  | .duplicateSetExpiry _ _ _ => none
  | .flitDrop _ => none
  | .lossOfLight _ _ => none
  | .create => none
  | .destroy => none
  | .ways => none
  | .guest => none
  | .abutmentWrite => none
  | .abutmentRewrite => none
  | .keySlotGrant => none
  | .keySlotRevokeSeal => none
  | .keySlotRevokeDiscard => none
  | .allowList => none
  | .features => none
  | .linkKeySlots => none
  | .frameRange => none
  | .hvCommandComplete => none
  | .getVersion _ => none
  | .getCapabilities _ => none
  | .negotiateAlgorithms _ => none
  | .getDigests _ => none
  | .getCertificate _ => none
  | .challenge _ => none
  | .getMeasurements _ _ => none
  | .keyExchange _ => none
  | .finish _ => none
  | .endSession _ => none
  | .setKeyGroup _ _ => none
  | .setKeyContext _ _ _ => none
  | .setKeyStream _ _ _ => none
  | .ingressWrite _ _ _ => none
  | .ingressRecordVerify _ _ => none
  | .hostCounterRead _ _ => none
  | .powerGood _ => none
  | .trainingComplete _ _ => none
  | .trapRecordWrite _ => none
  | .cmdResume _ => none
  | .cmdEnd _ => none
  | .eventStreamEnable _ _ => none
  | .pcSample _ _ => none
  | .clockStep _ => none
  | .readbackRead => none
  | .readbackWrite => none
  | .laserModuleReenable => none
  | .illegalInstruction => none
  | .tdispInterfaceRequest _ _ => none

/-- The bytes of an encoded instruction as they stand in memory (R305). -/
def encode (i : Instr) : Option (List Byte) :=
  (encodeWord i).map fun p => toLeBytes p.1 p.2

/-- The instruction that the decoder reads from a word of the opcode table with `nbits` bits `w`. -/
def decodeTableWord (nbits w : Nat) : Option Instr :=
  match decode (toLeBytes (nbits / 8) w) with
  | .ok (i, _) => some i
  | .error _ => none

end Sys2Proof
end

