-- ==== Sys2Proof/Machine/State.lean ====
section
/-!
DEFINITION. The state of one AQP-1 package, as plain data: everything the spec gives the machine (INVENTORY.md, ## State),
the reasons a step can stop, and the state after reset.
-/

namespace Sys2Proof.Machine

/-- Why the machine stops with a fault of the model (a fault of the spec is taken as a trap, R277: a next state). -/
inductive Fault where
  /-- Raised by every encoded instruction and by `ILLEGAL_INSTRUCTION` when `State.bundle` names no resident group:
  an instruction is issued by a bundle (R48), so nothing can issue. Safe: a run issues only bundles. -/
  | noIssuingBundle
  deriving DecidableEq, Repr

/-- Why an instruction has no meaning in the model. -/
inductive Refusal where
  /-- Raised by an arm of the dispatcher for a row that has no meaning yet. Safe. -/
  | notModelled (mnemonic : String)
  deriving DecidableEq, Repr

/-- Memory: (key, byte) pairs with strictly rising keys and no byte equal to what an unlisted key reads as.
A key is a space and an offset in it (`Machine/Mem.lean`). -/
abbrev Memory := List Host.Cell

/-- A table kept in strictly rising key order. -/
abbrev Table (α : Type) := List (Nat × α)

/-- Thread states (R41). -/
inductive LaneState where
  | running
  | parked
  | held
  | drained
  | exited
  deriving DecidableEq, Repr

/-- Group roles (R20). -/
inductive Role where
  | general
  | copy
  | matrix
  | vector
  deriving DecidableEq, Repr

/-- Stall reasons: the sample reason codes of R297. -/
inductive Stall where
  | issued
  | scoreboard
  | fullBit
  | token
  | barrier
  | wrongEngine
  | ringFull
  | fetch
  | loopPark
  | priorityLoss
  | memoryQueue
  | allowance
  | emulation
  | trapHalt
  | drained
  | pairing
  deriving DecidableEq, Repr

/-- A thread (R10). -/
structure Lane where
  pc : DWord
  v : Vector Word 64
  p : BitVec 7
  vpois : BitVec 64
  ppois : BitVec 7
  rs : Vector DWord 4
  d : Nat
  c : DWord
  stack : DWord
  item : Word
  gen : Word
  st : LaneState
  /-- the loop buffer: address and content of a unit, most recent first (R45) -/
  loop : List (DWord × BitVec 16)
  waits : Nat
  /-- its wait count has reached 1,024 and it has not issued since (R51) -/
  boosted : Bool
  /-- the clock at which a sleeping lane wakes (R455) -/
  wake : Option DWord
  deriving DecidableEq, Repr

/-- A copy that a group has issued (R193, R194). -/
structure CopyEntry where
  number : BitVec 32
  record : List Byte
  sb : DWord
  st : BitVec 6
  fn : BitVec 2
  sealed : Bool
  batch : BitVec 32
  done : Bool
  deriving DecidableEq, Repr

/-- What a pending token register waits for (R194, R244). -/
inductive TokenOf where
  | unsealed
  | batch (b : BitVec 32)
  | pod (tag : BitVec 32)
  /-- the result of a scalar span-window access that waits (R36) -/
  | span
  /-- the same, of an access with acquire order: later instructions wait for it (R454) -/
  | spanAcq
  deriving DecidableEq, Repr

/-- A load or atomic whose result has not landed (R57, R349, R400); `ready` is false while its data is on the way (R243). -/
structure Load where
  lane : Nat
  reg : BitVec 6
  data : Word
  pois : Bool
  ready : Bool
  /-- of a waiting load: later accesses of its lane wait for it (R165) -/
  acq : Bool
  /-- a further word of the same request (R2) -/
  more : Bool
  deriving DecidableEq, Repr

/-- A lane's part of a span-window access: where in the member's allocation, and the data of a store or the data and the
comparison value of an atomic. Lane 64 stands for a scalar register, lane 65 + i for the return stack of lane i. -/
structure SpanLane where
  lane : Nat
  off : Nat
  data : List Byte
  deriving DecidableEq, Repr

/-- An access to a span member that goes by request: it waits for a joining or saved member, or is sent to another package
(R36, R136). One that acts on line metadata has all its instruction's lanes in that member, and acts on them as one (R149). -/
structure SpanReq where
  reg : BitVec 6
  rank : Nat
  bytes : Nat
  lanes : List SpanLane
  store : Bool
  atom : Option Instr
  /-- what it does to its lines: 0 nothing, 1 waits, 2 waits and consumes, 3 fills, 4 empties, 5 nothing, but its lanes act as one -/
  form : Nat
  rc : BitVec 6
  /-- of a team that has been saved since (R178) -/
  old : Bool
  deriving DecidableEq, Repr

/-- A return-stack entry read for a lane of a `RET` from a span member, once its data has come: the data, and whether it is
poisoned (R36, R64). -/
structure StackFill where
  lane : Nat
  addr : DWord
  data : Option (DWord × Bool)
  deriving DecidableEq, Repr

/-- What a group waits for besides its operands. -/
inductive Wait where
  | none
  /-- a `BAR` of barrier b has arrived for the lanes of m, held until the phase completes (R353) -/
  | arrived (b : Nat) (m : Mask)
  /-- a waiting instruction of barrier b that has not arrived; `released` once the phase has completed -/
  | phase (b : Nat) (released : Bool)
  /-- a span instruction executed for the lanes of m before the team has taken the step (R457): 0 `SPANJ`, 1 `SPANX`, 2 `SPANB` -/
  | spanStep (k : Nat) (m : Mask)
  /-- the FP64 instruction is being emulated (R286) -/
  | emulation
  deriving DecidableEq, Repr

/-- A group's own fault (R279). -/
structure FaultMark where
  cause : BitVec 8
  lanes : Mask
  addr : DWord
  pc : DWord
  underflow : Bool
  /-- the arithmetic exceptions of each lane, for an arithmetic fault (R115, R287) -/
  exc : List (BitVec 5)
  deriving DecidableEq, Repr

/-- What is left of the lookahead that a long-latency instruction gave a lane: the instructions it declares independent (R56). -/
structure Window where
  lane : Nat
  left : Nat
  instr : Instr
  deriving DecidableEq, Repr

/-- A bundle of a group fused with a bundle of another group until the next regroup (R53): the lanes of both. -/
structure Fusion where
  own : Mask
  partner : Nat
  other : Mask
  deriving DecidableEq, Repr

/-- A group (R12, R13). -/
structure Group where
  team : Nat
  num : Nat
  width : Nat
  vregs : Nat
  role : Role
  s : Vector DWord 64
  spois : BitVec 64
  prio : BitVec 5
  prioNext : Option (BitVec 5)
  fpctl : BitVec 13
  fpflags : BitVec 5
  mflags : BitVec 3
  rcount : BitVec 6
  stacklim : DWord
  core : Nat
  bay : Nat
  place : Nat
  age : DWord
  /-- the lanes of each loop-buffer bundle, formed at the last regroup and split since (R48) -/
  loops : List Mask
  fused : List Fusion
  /-- lanes whose bundle yielded until the next regroup (R467) -/
  yielded : Mask
  batch : BitVec 32
  cpys : BitVec 32
  copies : List CopyEntry
  /-- errors of copies whose batch is not complete, in completion order: copy number and kind (R195) -/
  copyErrs : List (BitVec 32 × Nat)
  tokens : List (BitVec 6 × TokenOf)
  /-- bit n: sn holds a token or MSTAT value with ERR = 1 (R196, R221, R244) -/
  errTok : BitVec 64
  loads : List Load
  reqs : List SpanReq
  fills : List StackFill
  /-- lookahead windows that are still open (R56) -/
  look : List Window
  /-- the clock of its core at which the group last issued (R100, R297), and whether inside a fused bundle -/
  issuedAt : DWord
  paired : Bool
  wait : Wait
  stall : Stall
  fault : Option FaultMark
  skid : Nat
  /-- a `PFENCE` of the group is waiting (R427) -/
  pfence : Bool
  didJ : Bool
  didX : Bool
  didB : Bool
  retired : Bool
  emul : Option Instr
  /-- the mask the emulated instruction acts on -/
  emulMask : Mask
  lanes : List Lane
  deriving DecidableEq, Repr

/-- A kernel descriptor with absolute entry addresses (R321). -/
structure Kernel where
  entry : DWord
  refill : Option DWord
  qcnt : Nat
  qbase : Nat
  qper : Nat
  scratch : Nat
  width : Nat
  vregs : Nat
  ngroup : Nat
  roles : Bool
  pier : Bool
  idem : Bool
  ncopy : Nat
  nmat : Nat
  nvec : Nat
  nb : Nat
  bset : List Nat
  needs : BitVec 5
  pins : List (Nat × Nat)
  index : Nat
  /-- the descriptor's own bytes (R94) -/
  desc : List Byte
  deriving DecidableEq, Repr

/-- A named barrier of a team (R29). -/
structure Barrier where
  e : Nat
  a : Nat
  p : Bool
  arr : BitVec 32
  wd : BitVec 32
  deriving DecidableEq, Repr

/-- Member states of a span (R36). -/
inductive MemberState where
  | joining
  | attached
  | detached
  | released
  deriving DecidableEq, Repr

/-- Where a team stands. -/
inductive TeamStatus where
  | resident
  | halted
  /-- chosen for saving or vacating, its save not complete; `halted` if it has been halted (R102) -/
  | saving (halted : Bool)
  /-- on the resume list, with its image; `halted` if it was halted when saved -/
  | saved (halted : Bool)
  /-- on the resume list after an idempotent restart -/
  | restarted
  | ended
  deriving DecidableEq, Repr

/-- An arrival counter (R247). -/
structure Arrival where
  armed : Bool
  word : Nat
  base : DWord
  len : Nat
  target : Nat
  deriving DecidableEq, Repr

/-- An issued matrix multiply (R203, R206). `gather` holds the rows and scale bytes collected in index mode, `poisoned` the
line of a poisoned word among them. -/
structure MmaJob where
  group : Nat
  block : List Byte
  gather : Option (List Int × List Nat)
  poisoned : Option Nat
  deriving DecidableEq, Repr

/-- A team (R15). -/
structure Team where
  vc : Nat
  launch : DWord
  kernel : Kernel
  args : DWord
  item0 : DWord
  x : Word
  y : Word
  z : Word
  nx : Word
  ny : Word
  nz : Word
  index : Nat
  sbase : DWord
  sdepth : Nat
  prio : BitVec 5
  incarn : BitVec 48
  coreA : Nat
  coreB : Option Nat
  /-- scratchpad offset of the allocation (or of core A's half) and of core B's half -/
  baseA : Nat
  baseB : Nat
  alloc : Nat
  /-- it holds its places and its allocation: it has not been saved or restarted since it was placed (R39) -/
  placed : Bool
  barriers : List Barrier
  span : Option Nat
  rank : Nat
  first : Nat
  end_ : Nat
  next : Nat
  idem : Bool
  protKey : Option (BitVec 6)
  status : TeamStatus
  /-- the group that raised the primary fault (R279) -/
  primary : Nat
  recordAddr : DWord
  windowAddr : DWord
  windowBytes : Nat
  recordWritten : Bool
  /-- the event record of the halt is written, and the trap record waits to be tried again (R281) -/
  haltNoted : Bool
  recordHeld : Bool
  /-- the first non-zero CMD that has been performed (R284) -/
  cmd : Word
  counters : List Arrival
  saveCtr : DWord
  /-- where its save image stands or will stand -/
  imageAddr : Option DWord
  /-- LEN of its save image -/
  imageLen : Nat
  /-- the trap window as it stood when CMD was performed (R285); empty if it has none or it could not be read -/
  taken : List Byte
  /-- the queued multiplies of its engines when it was saved, with the rows that they had gathered (R207, R224) -/
  mmas : List (List MmaJob)
  holdsA : Bool
  holdsB : Bool
  deriving DecidableEq, Repr

/-- Scratchpad line metadata (R147, R158). -/
structure LineMeta where
  f : Bool
  rc : BitVec 6
  seq : BitVec 4
  err : Bool
  deriving DecidableEq, Repr

/-- A span (R34): what the members of this package know of all its members. -/
structure Span where
  id : DWord
  /-- the span launch that it is of (`Launch.matched`) -/
  key : Option (Nat × DWord)
  /-- grid index of the teams that form it -/
  index : Nat
  vcns : List Nat
  members : List MemberState
  /-- members that have arrived in the current SPANB phase -/
  arrived : List Bool
  phase : Bool
  reserved : List Bool
  /-- members known to be saved (R36: their peers' accesses wait) -/
  saved : List Bool
  /-- bytes of each member's allocation (R135) -/
  allocs : List Nat
  /-- the line metadata of members on other packages as this package knows it, by rank × 2^17 + line (R135; log 28) -/
  far : Table LineMeta
  deriving DecidableEq, Repr

/-- A running slice of a collective copy: its bytes, each with its destination and the error found at its source (R190, R195). -/
structure CopyJob where
  team : Nat
  group : Nat
  number : BitVec 32
  fn : BitVec 2
  started : Bool
  dm : Nat
  rc : BitVec 6
  seq : BitVec 4
  /-- destination address, byte, error kind at the source (0 none) -/
  todo : List (DWord × Byte × Nat)
  deriving DecidableEq, Repr

/-- A started matrix multiply: operand values and group scale bytes, 133 for an operand without a scale tile (R125, R209). -/
structure MmaRun where
  group : Nat
  rm : BitVec 2
  poisoned : Bool
  a : List Int
  sa : List Nat
  b : List Int
  sb : List Nat
  deriving DecidableEq, Repr

/-- The B latch (R210). -/
structure Latch where
  planes : List Byte
  scales : List Byte
  bw : Bool
  bf : Bool
  deriving DecidableEq, Repr

/-- A claim on a ring slot (R214): an epilogue with its block and the values read at issue, or an MRELS. -/
structure Claim where
  group : Nat
  epi : Bool
  block : List Byte
  scl : List Word
  bias : List Word
  deriving DecidableEq, Repr

/-- A matrix engine (R210, R211, R220); its ring elements lie in memory space `ring`. -/
structure Engine where
  holder : Option Nat
  head : Nat
  tail : Nat
  opened : Bool
  closed : Nat
  freed : BitVec 16
  latch : Option Latch
  queue : List MmaJob
  running : Option MmaRun
  claims : List Claim
  jobRunning : Bool
  err : Nat
  deriving DecidableEq, Repr

/-- A leaf that a core's L1 TLB holds (R141), by virtual chip, first page and pages as a power of two. -/
structure TlbTag where
  vc : Nat
  page : Nat
  log : Nat
  deriving DecidableEq, Repr

/-- A core (R2). -/
structure Core where
  clock : DWord
  jobs : List CopyJob
  engine : Engine
  /-- clock at which the forward-progress interval began, and whether a group has issued since (R100) -/
  fwdStart : DWord
  /-- a hint holds off the core's saves until the interval's end (R261) -/
  heldOff : Bool
  /-- last group place sampled in each bay, and the clock of that sample (R296) -/
  sampled : List Nat
  sampledAt : List DWord
  /-- the clock of each bay's last regroup (R48) -/
  regrouped : List DWord
  /-- pinned code lines by launch (R323) -/
  pins : List (DWord × Nat × Nat)
  /-- lines of the L1 data cache and of the instruction cache, most recent first, by key / 128 (R142) -/
  l1 : List Nat
  icache : List Nat
  /-- the L1 TLB, most recent first (R141) -/
  tlb1 : List TlbTag
  deriving DecidableEq, Repr

/-- A launch queue (R84). -/
structure Queue where
  base : DWord
  size : BitVec 5
  head : DWord
  tail : DWord
  done : DWord
  ie : Bool
  en : Bool
  lastcode : BitVec 8
  rderr : Bool
  seq : BitVec 60
  everEnabled : Bool
  /-- sequences above `done` that have completed or been refused (R87) -/
  finished : List Nat
  /-- sequences refused (R91) -/
  refused : List Nat
  deriving DecidableEq, Repr

/-- A launch that has been read and is not complete (R85, R88). -/
structure Launch where
  id : DWord
  record : List Byte
  kernel : Kernel
  accepted : Bool
  order : Nat
  n : Nat
  base : DWord
  /-- grid index of the next team to dispatch, and teams retired -/
  nextTeam : Nat
  retiredTeams : Nat
  status : Word
  /-- span descriptor: span ID and member VCNs -/
  spanDesc : Option (DWord × List Nat)
  /-- the descriptor is not valid in itself (R94) -/
  spanBad : Bool
  /-- the span launch it belongs to, named by its first member: slot and launch ID; none while its members are not all read -/
  matched : Option (Nat × DWord)
  deriving DecidableEq, Repr

/-- A physical frame range (R498). -/
structure FrameRange where
  base : Nat
  size : Nat
  valid : Bool
  h : Bool
  deriving DecidableEq, Repr

/-- A capability-table entry (R237). -/
structure Cap where
  ctl : DWord
  wbase : DWord
  wsize : DWord
  allow : DWord
  inFlight : Nat
  deriving DecidableEq, Repr

/-- An endpoint binding (R245). -/
inductive Binding where
  | team (team : Nat) (incarn : BitVec 48) (base size : Nat)
  | queue (base : DWord) (size : Nat) (tail : DWord)
  deriving DecidableEq, Repr

/-- An event stream (R292). -/
structure Stream where
  base : DWord
  size : BitVec 5
  head : DWord
  tail : DWord
  drop : DWord
  ctl : DWord
  sinceSummary : Nat
  deriving DecidableEq, Repr

/-- An ingress stream (R271): its descriptor and what has arrived in its window. -/
structure Ingress where
  dest : DWord
  len : DWord
  iv : BitVec 96
  en : Bool
  err : Bool
  done : DWord
  /-- bytes of records that are not done, by stream offset -/
  window : Table Byte
  deriving DecidableEq, Repr

/-- TDISP interface states (R265). -/
inductive Tdisp where
  | configUnlocked
  | configLocked
  | run
  | error
  deriving DecidableEq, Repr

/-- How far an SPDM session of an interface has come (R265). -/
inductive Spdm where
  | idle
  | versioned
  | capable
  | negotiated
  | exchanged
  | secured
  deriving DecidableEq, Repr

/-- A TLB invalidation that is running (R141). -/
structure TlbInv where
  page : Nat
  all : Bool
  size : Nat
  deriving DecidableEq, Repr

/-- A record of a receive log that has not been applied by every team it belongs to: the address that its payload goes to, those
teams, and whether the payload has been written (R264). -/
structure LogOwner where
  addr : DWord
  teams : List Nat
  written : Bool
  deriving DecidableEq, Repr

/-- Room that a virtual chip reserves for its pending member of a span, on a core or on the pier of that core and the next (R99). -/
structure Reserve where
  span : Nat
  core : Nat
  deriving DecidableEq, Repr

/-- A virtual chip (R4, R254). -/
structure VChip where
  used : Bool
  guest : Nat
  piers : BitVec 128
  cacheWays : Nat
  bankWays : Nat
  protWays : Nat
  features : BitVec 4
  incarn : BitVec 48
  queues : List Queue
  launches : List Launch
  acceptCount : Nat
  /-- team indexes on the resume list (R96) -/
  resume : List Nat
  reserve : Option Reserve
  fwdctl : BitVec 5
  vmask0 : DWord
  vmask1 : DWord
  vbusy : Bool
  verr : Bool
  vacated : BitVec 128
  ptroot : DWord
  tlbinv : Option TlbInv
  frames : List FrameRange
  memUe : Bool
  memCe : Bool
  memUr : Bool
  expbase : DWord
  expsize : DWord
  caps : List Cap
  endpoints : Table Binding
  rlbase : DWord
  rlsize : BitVec 5
  rlhead : DWord
  rltail : DWord
  /-- the records not yet applied (R264) -/
  rlowner : Table LogOwner
  trbase : DWord
  trsize : BitVec 5
  trhead : DWord
  trtail : DWord
  trctl : DWord
  trhrec : DWord
  /-- handler launches not yet read: the queue and the trap record (R283) -/
  handlers : List (Nat × DWord)
  twbase : DWord
  twsize : DWord
  twpbase : DWord
  twpsize : DWord
  csabase : DWord
  csasize : DWord
  savectr : DWord
  stream : Stream
  smpN : BitVec 5
  smpEn : Bool
  counters : List DWord
  /-- (core, bay, counter) as one number, with CSEL and CVAL (R298) -/
  bayCounters : Table (DWord × DWord)
  raised : List Nat
  tdisp : Tdisp
  spdm : Spdm
  /-- the key exchange of the session: which of the package's shares, and the requester's share (R265) -/
  exchange : Option (Nat × List Byte)
  groupKey : Option (BitVec 512)
  streamKeys : Table (BitVec 512)
  ingress : List Ingress
  /-- posted writes to the interface that wait behind a held ingress write (R271) -/
  posted : List Instr
  /-- the virtual chip of reduced service (R302) -/
  reduced : Bool
  deriving DecidableEq, Repr

/-- A guest's tables (R254, R255, R272). -/
structure Guest where
  vlim : Nat
  vcns : Table DWord
  mcast : Table DWord
  labels : Table Byte
  linkFirst : Nat
  linkCount : Nat
  allow : Table DWord
  paused : Bool
  deriving DecidableEq, Repr

/-- A key slot of the package (R254, R266). -/
structure KeySlot where
  granted : Option Nat
  key : Option (BitVec 512)
  version : BitVec 8
  deriving DecidableEq, Repr

/-- A remote atomic of a memory controller between its recall of the line and its write (R171): its flit, its virtual chip, its
address, the place of the word, the word that it recalled, and whether the recall was made at this clock. -/
structure Recall where
  flit : Flit
  vc : Nat
  va : DWord
  place : Nat
  bytes : Nat
  old : Nat
  fresh : Bool
  deriving DecidableEq, Repr

/-- The state of an L2 line that is not clean (R152, R153, R269). -/
structure L2Line where
  dirty : Bool
  /-- readers left of a counted line -/
  counted : Option (BitVec 6)
  /-- virtual chip and launch whose load last lowered the count -/
  lowered : Option (Nat × DWord)
  tomb : Bool
  /-- key slot of a plaintext line in a protected way -/
  prot : Option (BitVec 6)
  vc : Nat
  deriving DecidableEq, Repr

/-- A page-table entry held in a die's L2 TLB (R141): the die, the virtual chip, the first page it maps in 4 KiB units, the
pages as a power of two, the entry, and, for a pointer entry, the table that it was read from. -/
structure TlbEntry where
  die : Nat
  vc : Nat
  page : Nat
  log : Nat
  entry : DWord
  table : Option Nat
  deriving DecidableEq, Repr

/-- An event record of a virtual chip that is owed: its time, type and fields. It is written before the next clock. -/
structure Owed where
  time : DWord
  vc : Nat
  type : Nat
  fields : List (Nat × Nat)
  deriving DecidableEq, Repr

/-- The kind of a pod operation at its source (R241). -/
inductive PodKind where
  | push
  | pull
  | put
  | get
  | mcast
  | atomic
  | pool
  | spanLoad
  | spanStore
  | spanAtomic
  deriving DecidableEq, Repr

/-- An issued pod operation that is not complete (R240 to R244). -/
structure PodOp where
  tag : BitVec 32
  vc : Nat
  group : Nat
  kind : PodKind
  cap : Nat
  bytes : Nat
  st : BitVec 6
  peer : Nat
  /-- the address of offset 0, for the records of failed pieces (R295) -/
  origin : DWord
  /-- offsets of pieces not yet performed or refused, with the local destination of a pull -/
  left : List (Nat × DWord)
  total : Nat
  err : Nat
  eq : Bool
  startNs : Nat
  /-- the access to a span member that it carries (R136) -/
  req : Option SpanReq
  deriving DecidableEq, Repr

/-- A flit waiting for, or in, transit (R230, R233). -/
structure Egress where
  flit : Flit
  relayable : Bool
  queuedNs : Nat
  /-- the link key that it is still to be sealed under (R268) -/
  key : Option (List Byte)
  /-- the port and the slot that brought a flit which this package relays (R230) -/
  came : Option (Nat × Nat)
  deriving DecidableEq, Repr

/-- A flit sent and not acknowledged (R233). -/
structure Sent where
  port : Nat
  slot : Nat
  seq : Nat
  item : Egress
  deriving DecidableEq, Repr

/-- A flit held in the trestle buffer: relayed, to be sent in a slot; or a piece of a sealed run (R230, R268). -/
structure Held where
  flit : Flit
  /-- slot in which a relayed flit is sent on; none for one that stays -/
  slot : Option Nat
  /-- the flit has been verified and waits to be performed: a piece of a transfer to a queue, or a span access (R245, R36) -/
  verified : Bool
  /-- the port and the slot that a flit came by: a relayed one, or one of an unverified run (R230, R233) -/
  came : Option (Nat × Nat)
  deriving DecidableEq, Repr

/-- Pieces performed of one operation (R234). -/
structure DupSet where
  spkg : Nat
  sslot : Nat
  tag : BitVec 32
  offs : List Nat
  tags : List Nat
  lastNs : Nat
  deriving DecidableEq, Repr

/-- What a port's receiver has accepted in the current slot (R233). -/
structure Accepted where
  port : Nat
  slot : Nat
  spkg : Nat
  next : Nat
  broken : Bool
  /-- something other than acknowledgements has come, so that an acknowledgement is owed (R233, R234) -/
  owed : Bool
  deriving DecidableEq, Repr

/-- A hypervisor command that is running (R253, R259). -/
inductive HvRun where
  | done
  | abutment (guest : Nat) (arg0 value : DWord) (startNs : Nat)
  | frames (vc range : Nat) (entry : FrameRange)
  deriving DecidableEq, Repr

/-- The bundle now issuing (R48). A half of a fused bundle knows the other half's lanes, and whether it is the second (R53). -/
structure Bundle where
  group : Nat
  pc : DWord
  mask : Mask
  broadcast : Bool
  other : Mask
  second : Bool
  deriving DecidableEq, Repr

/-- What another package's member of a span does (log 12). -/
inductive PeerStep where
  | attach
  | detach
  | arrive
  | reserve
  | save
  | resume
  /-- the metadata of one of its lines changes (log 28) -/
  | line (n : Nat) (l : LineMeta)
  deriving DecidableEq, Repr

/-- Where a storage error is found (R158): a 64-bit unit, a scratchpad line's metadata, or a register. -/
inductive StorageSpot where
  | unit (key : Nat)
  | lineMeta (key : Nat)
  /-- a clean line of a core's caches, by key / 128 -/
  | clean (core line : Nat)
  /-- a clean line of the L2, which holds no copy of its own in the model, by physical address -/
  | cleanL2 (pa : Nat)
  /-- the TLB entries of a virtual chip that cover a page, in one die -/
  | held (die vc page : Nat)
  | vector (group lane : Nat) (r : BitVec 6)
  | scalar (group : Nat) (r : BitVec 6)
  | predicate (group lane : Nat) (p : BitVec 3)
  deriving DecidableEq, Repr

/-- What happens next from outside the issuing groups: an event row, the choice of a bundle, a peer member's step, or an error in
a virtual chip's storage (R160). -/
inductive Input where
  | event (i : Instr)
  | issue (group : Nat) (loop : Option Nat)
  | peer (span rank : Nat) (step : PeerStep)
  | storage (v : Nat) (uncorrectable : Bool) (spot : StorageSpot)
  /-- other lines displace the line of a physical address from its way (R144, R155) -/
  | evict (pa : Nat)
  /-- the marks that a port receives in the guard (R232) -/
  | marks (port : Nat) (set : BitVec 16)
  /-- loss of light that the receiver of a port detects (R235) -/
  | dark (port wavelength : Nat)
  deriving DecidableEq, Repr

/-- The machine. -/
structure State where
  mem : Memory
  /-- poisoned 64-bit units, by key / 8, rising (R158) -/
  poison : List Nat
  /-- line metadata by key / 128; an unlisted line is F 0, RC 0, SEQ 0 (R147) -/
  lines : Table LineMeta
  l2 : Table L2Line
  tlb : List TlbEntry
  tags : Table DWord
  groups : List Group
  teams : List Team
  spans : List Span
  cores : List Core
  vchips : List VChip
  guests : List Guest
  keys : List KeySlot
  /-- link keys: slot × 2^10 + own VCN (R267) -/
  linkKeys : Table (BitVec 256)
  hvarg : Vector DWord 4
  hvbusy : Bool
  hverr : BitVec 8
  hvrun : Option HvRun
  pkg : Nat
  order : Nat
  slot : Nat
  /-- whether the first slot of the schedule has begun (R227) -/
  begun : Bool
  time : DWord
  /-- the part of a nanosecond that has passed since, in clocks × 1000 / mhz (R304) -/
  subNs : Nat
  /-- live laser modules of each port, and ports stopped for the slot (R232, R235) -/
  lasers : List (BitVec 4)
  stopped : List Nat
  /-- the wavelengths that each port's partner has marked for the slot (R232) -/
  stripes : List (BitVec 16)
  egress : List Egress
  trestle : List Held
  sent : List Sent
  accepted : List Accepted
  dups : List DupSet
  ops : List PodOp
  nextTag : BitVec 32
  pkgStream : Stream
  pkgStat : BitVec 3
  hbmTrained : Bool
  opticsOk : Bool
  rbaddr : DWord
  rbdata : DWord
  rbbusy : Bool
  rberr : BitVec 8
  raised0 : List Nat
  mhz : Nat
  /-- the Olzer image that the boot ROM has measured (R273) -/
  olzer : Option BootImage
  /-- what the last host load, counter read or SPDM answer returned -/
  hostRead : List Byte
  inputs : List Input
  /-- event records to be written before the next clock -/
  owed : List Owed
  /-- remote atomics between their recall and their write (R171) -/
  recalls : List Recall
  bundle : Option Bundle
  /-- the half of a fused bundle that has still to issue (R53) -/
  second : Option Bundle
  /-- this clock's bundle or input has been taken (log 7) -/
  acted : Bool
  /-- what keeps each group's bundles from issuing at this clock (R297) -/
  waiting : List (Nat × Stall)
  /-- free values are drawn with this counter (log 4) -/
  draws : Nat
  /-- steps taken without an input, by which the scheduler takes its turns (log 2) -/
  turn : Nat
  deriving DecidableEq, Repr

/-- A matrix engine that no team has held (R211). -/
def Engine.init : Engine :=
  { holder := none, head := 0, tail := 0, opened := false, closed := 0, freed := 0, latch := none, queue := [],
    running := none, claims := [], jobRunning := false, err := 0 }

/-- A core after reset. -/
def Core.init : Core :=
  { clock := 0, jobs := [], engine := Engine.init, fwdStart := 0, heldOff := false, sampled := List.replicate 8 15,
    sampledAt := List.replicate 8 1, regrouped := List.replicate 8 1, pins := [],
    l1 := [], icache := [], tlb1 := [] }

/-- A launch queue after the creation of its virtual chip (R84). -/
def Queue.init : Queue :=
  { base := 0, size := 4, head := 0, tail := 0, done := 0, ie := false, en := false, lastcode := 0, rderr := false,
    seq := 0, everEnabled := false, finished := [], refused := [] }

/-- An event stream after reset (R292). -/
def Stream.init : Stream :=
  { base := 0, size := 8, head := 0, tail := 0, drop := 0, ctl := 0, sinceSummary := 0 }

/-- An ingress stream after reset (R271). -/
def Ingress.init : Ingress :=
  { dest := 0, len := 0, iv := 0, en := false, err := false, done := 0, window := [] }

/-- A virtual-chip slot not in use, every register at its reset value. -/
def VChip.init : VChip :=
  { used := false, guest := 0, piers := 0, cacheWays := 0, bankWays := 0, protWays := 0, features := 0, incarn := 0,
    queues := List.replicate 16 Queue.init, launches := [], acceptCount := 0, resume := [], reserve := none, fwdctl := 16,
    vmask0 := 0, vmask1 := 0, vbusy := false, verr := false, vacated := 0, ptroot := 0, tlbinv := none,
    frames := List.replicate 16 { base := 0, size := 0, valid := false, h := false }, memUe := false, memCe := false,
    memUr := false, expbase := 0, expsize := 0,
    caps := List.replicate 32 { ctl := 0, wbase := 0, wsize := 0, allow := 0, inFlight := 0 }, endpoints := [],
    rlbase := 0, rlsize := 0, rlhead := 0, rltail := 0, rlowner := [], trbase := 0, trsize := 4, trhead := 0, trtail := 0, trctl := 0,
    trhrec := 0, handlers := [], twbase := 0, twsize := 0, twpbase := 0, twpsize := 0, csabase := 0, csasize := 0, savectr := 0,
    stream := Stream.init, smpN := 16, smpEn := false, counters := List.replicate 8 0, bayCounters := [], raised := [],
    tdisp := .configUnlocked, spdm := .idle, exchange := none, groupKey := none, streamKeys := [], ingress := List.replicate 8 Ingress.init, posted := [],
    reduced := false }

/-- A guest whose tables have never been written (R254, R255). -/
def Guest.init : Guest :=
  { vlim := 0, vcns := [], mcast := [], labels := [], linkFirst := 0, linkCount := 0, allow := [], paused := false }

/-- The package right after reset: PKGSTAT STATE 0, nothing resident, every register at its reset value (INVENTORY.md, ## State). -/
def State.reset : State :=
  { mem := [], poison := [], lines := [], l2 := [], tlb := [], tags := [], groups := [], teams := [], spans := [],
    cores := List.replicate 256 Core.init, vchips := List.replicate 16 VChip.init,
    guests := List.replicate 16 Guest.init,
    keys := List.replicate 64 { granted := none, key := none, version := 0 }, linkKeys := [],
    hvarg := Vector.replicate 4 0, hvbusy := false, hverr := 0, hvrun := none, pkg := 0, order := 64, slot := 0, begun := false, time := 0, subNs := 0,
    lasers := List.replicate 48 15, stopped := [], stripes := List.replicate 48 0xFFFF, egress := [], trestle := [], sent := [], accepted := [], dups := [],
    ops := [], nextTag := 0, pkgStream := Stream.init, pkgStat := 0, hbmTrained := false, opticsOk := false, rbaddr := 0,
    rbdata := 0, rbbusy := false, rberr := 0, raised0 := [], mhz := 1200, olzer := none, hostRead := [], inputs := [],
    owed := [], recalls := [], bundle := none, second := none, acted := false, waiting := [], draws := 0, turn := 0 }

end Sys2Proof.Machine
end

