-- ==== Sys2Proof/Machine/Mem.lean ====
section
/-!
DEFINITION. Memory as bytes under keys: the spaces, reading and writing bytes, poison, line metadata, L2 line states.
-/

namespace Sys2Proof.Machine

/-- The entry of a table under a key. -/
def tget {α : Type} : Table α → Nat → Option α
  | [], _ => none
  | (a, x) :: t, k => if a = k then some x else tget t k

/-- A table without a key. -/
def tdel {α : Type} (t : Table α) (k : Nat) : Table α := t.filter fun e => e.1 != k

/-- An entry placed before the first greater key. -/
def tins {α : Type} : Table α → Nat → α → Table α
  | [], k, x => [(k, x)]
  | (a, y) :: t, k, x => if k < a then (k, x) :: (a, y) :: t else (a, y) :: tins t k x

/-- A table with one entry replaced or added; rising keys stay rising. -/
def tput {α : Type} (t : Table α) (k : Nat) (x : α) : Table α := tins (tdel t k) k x

/-- Strictly rising keys. -/
def rising {α : Type} : Table α → Bool
  | [] => true
  | [_] => true
  | a :: b :: t => a.1 < b.1 && rising (b :: t)

/-- The kinds of storage (R132, R145, R147, R152, R211, R250, R269). -/
inductive Space where
  | hbm
  | host
  | bank
  | scratch
  | ring
  | counted
  | prot
  | pool
  | unbacked
  deriving DecidableEq, Repr

/-- A number for each space. -/
def spaceCode : Space → Nat
  | .hbm => 0
  | .host => 1
  | .bank => 2
  | .scratch => 3
  | .ring => 4
  | .counted => 5
  | .prot => 6
  | .pool => 7
  | .unbacked => 8

/-- The key of an offset in a space. HBM and host memory are addressed by physical address, counted and protected line data
by the physical address of the byte they stand for. -/
def key (sp : Space) (off : Nat) : Nat := spaceCode sp * 2 ^ 60 + off

/-- The key of an HBM physical address: the eight stacks hold 512 GiB (R1, R3). A range may grant frames above them (R498), and
the spec does not say what those hold: the model gives them storage of their own (DESIGN CHOICE, log 25). A frame of host memory
stands at 2^52 and above. -/
def hbmAt (pa : Nat) : Nat :=
  if 2 ^ 52 ≤ pa then key .host (pa - 2 ^ 52) else key (if pa < Config.hbmBytes then .hbm else .unbacked) pa

/-- The space of a key. -/
def keySpace (k : Nat) : Nat := k / 2 ^ 60

/-- The offset of a key in its space. -/
def keyOff (k : Nat) : Nat := k % 2 ^ 60

/-- Scratchpad byte of a package core. Each allocation stands in a room of its own, 2^20 apart: a core's free bytes serve any team
that they cover, wherever other teams' allocations lie (R16, R18; log 2). -/
def scratchKey (core off : Nat) : Nat := key .scratch (core * 2 ^ 40 + off)

/-- Ring-window byte of a package core's engine (R213). -/
def ringKey (core off : Nat) : Nat := key .ring (core * 2 ^ 24 + off)

/-- Bank-memory byte of a virtual-chip slot (R145). -/
def bankKey (vc off : Nat) : Nat := key .bank (vc * 2 ^ 40 + off)

/-- A byte of memory; an unlisted byte reads 0 (R145, R147; log 3). -/
def memRead (m : Memory) (k : Nat) : Byte := (tget m k).getD 0

/-- Memory with one byte written, in canonical form. -/
def memWrite (m : Memory) (k : Nat) (b : Byte) : Memory := if b = 0 then tdel m k else tput m k b

/-- The canonical form: strictly rising keys, and no byte listed that an unlisted key reads as. -/
def memWf (m : Memory) : Bool := rising m && m.all fun e => e.2 != 0

/-- `n` bytes from a key on. -/
def memReadN (m : Memory) (k : Nat) : Nat → List Byte
  | 0 => []
  | n + 1 => memRead m k :: memReadN m (k + 1) n

/-- Bytes written from a key on. -/
def memWriteN (m : Memory) (k : Nat) : List Byte → Memory
  | [] => m
  | b :: bs => memWriteN (memWrite m k b) (k + 1) bs

/-- Whether any 64-bit unit touched by `n` bytes at a key is poisoned (R158). -/
def poisonedAt (s : State) (k n : Nat) : Bool :=
  (List.range ((k + n + 7) / 8 - k / 8)).any fun i => s.poison.contains (k / 8 + i)

/-- The 64-bit units that `n` bytes at a key cover wholly (R158). -/
def wholeUnits (k n : Nat) : List Nat :=
  (List.range ((k + n) / 8 - (k + 7) / 8)).map fun i => (k + 7) / 8 + i

/-- Poison set on a unit. -/
def addPoison (u : Nat) : List Nat → List Nat
  | [] => [u]
  | x :: xs => if u < x then u :: x :: xs else if u = x then x :: xs else x :: addPoison u xs

/-- `n` bytes at a key. -/
def readN (s : State) (k n : Nat) : List Byte := memReadN s.mem k n

/-- `n` bytes at a key as a little-endian number (R5). -/
def readLe (s : State) (k n : Nat) : Nat := leBytes (readN s k n)

/-- Bytes written at a key; a unit that they cover wholly loses its poison (R158). -/
def writeN (s : State) (k : Nat) (bs : List Byte) : State :=
  { s with
    mem := memWriteN s.mem k bs
    poison := s.poison.filter fun u => !(wholeUnits k bs.length).contains u }

/-- n bytes from a key on set to zero, unpoisoned. -/
def clearN (s : State) (k n : Nat) : State :=
  { s with
    mem := s.mem.filter fun e => decide (e.1 < k) || decide (k + n ≤ e.1)
    poison := s.poison.filter fun u => decide (u < k / 8) || decide ((k + n + 7) / 8 ≤ u) }

/-- A little-endian number written at a key (R5). -/
def writeLe (s : State) (k n v : Nat) : State := writeN s k (toLeBytes n v)

/-- The unit at a key poisoned (R158). -/
def poisonUnit (s : State) (k : Nat) : State := { s with poison := addPoison (k / 8) s.poison }

/-- Metadata of a line that nothing has filled (R147). -/
def freshLine : LineMeta := { f := false, rc := 0, seq := 0, err := false }

/-- Metadata of the scratchpad line that holds a key (R147). -/
def lineAt (s : State) (k : Nat) : LineMeta := (tget s.lines (k / 128)).getD freshLine

/-- Metadata as a reader finds it: a line in metadata error reads F = 1 and RC = 0 (R158). -/
def lineSeen (s : State) (k : Nat) : LineMeta :=
  let l := lineAt s k
  if l.err then { l with f := true, rc := 0 } else l

/-- Metadata of a line written. -/
def setLine (s : State) (k : Nat) (l : LineMeta) : State :=
  { s with lines := if l = freshLine then tdel s.lines (k / 128) else tput s.lines (k / 128) l }

/-- A live line: F = 1 and RC > 0 (R151, R189). -/
def lineLive (s : State) (k : Nat) : Bool :=
  let l := lineSeen s k
  l.f && l.rc != 0

/-- A filling action's metadata (R151, R189, R219). -/
def filled (rc : BitVec 6) (seq : BitVec 4) : LineMeta := { f := true, rc := rc, seq := seq, err := false }

/-- An emptying action's metadata (R151): SEQ stays, but becomes 0 on a line in metadata error. -/
def emptied (l : LineMeta) : LineMeta := { f := false, rc := 0, seq := if l.err then 0 else l.seq, err := false }

/-- A consumption (R150): RC falls by one if it is not 0, and F clears when it reaches 0. -/
def consumed (l : LineMeta) : LineMeta := if l.err || l.rc == 0 then l else { l with rc := l.rc - 1, f := l.rc != 1 }

/-- A line filled. -/
def fillLine (s : State) (k : Nat) (rc : BitVec 6) (seq : BitVec 4) : State := setLine s k (filled rc seq)

/-- A line emptied. -/
def emptyLine (s : State) (k : Nat) : State := setLine s k (emptied (lineAt s k))

/-- A line consumed. -/
def consumeLine (s : State) (k : Nat) : State :=
  if (lineAt s k).err || (lineAt s k).rc == 0 then s else setLine s k (consumed (lineAt s k))

/-- The state of an L2 line with nothing to tell. -/
def cleanL2 : L2Line := { dirty := false, counted := none, lowered := none, tomb := false, prot := none, vc := 0 }

/-- State of the L2 line that holds a physical address. -/
def l2At (s : State) (pa : Nat) : L2Line := (tget s.l2 (pa / 128)).getD cleanL2

/-- A line with nothing to tell, wherever it lies: its data is its memory's, and it is not listed. -/
def plainL2 (l : L2Line) : Bool := !l.dirty && l.counted.isNone && !l.tomb && l.prot.isNone

/-- State of an L2 line written. -/
def setL2 (s : State) (pa : Nat) (l : L2Line) : State :=
  { s with l2 := if plainL2 l then tdel s.l2 (pa / 128) else tput s.l2 (pa / 128) l }

/-- The home slice of a physical line (R143). -/
def homeSlice (pa : Nat) : Nat :=
  ((List.range 6).foldl (fun x i => x ^^^ (pa / 2 ^ (7 + 7 * i) % 128)) 0) ^^^ (pa / 2 ^ 49 % 8)

/-- The set of a physical line within its slice (R143). -/
def homeSet (pa : Nat) : Nat := pa / 2 ^ 14 % 1024

/-- A fresh free value (log 4). -/
def draw (s : State) : BitVec 64 × State := (Config.freeValue s.draws, { s with draws := s.draws + 1 })

/-- Bytes that the spec leaves open, such as those of a register that a failed access poisons (log 4). -/
def drawBytes (s : State) (n : Nat) : List Byte × State :=
  let k := (n + 7) / 8
  (((List.range k).flatMap fun j => toLeBytes 8 (Config.freeValue (s.draws + j)).toNat).take n, { s with draws := s.draws + k })

end Sys2Proof.Machine
end

