-- ==== Sys2Proof/Machine/SoftFloat.lean ====
section
/-!
DEFINITION. Floating point: exact values, one rounding, and the flags (R106 to R122, R369).
A finite value is (-1)^neg * m * 2^e with m a natural number; a result is a code and its flags.
-/

namespace Sys2Proof.Machine

/-- The flags of `%fpflags` (R112). -/
def fNV : BitVec 5 := 1#5
def fDZ : BitVec 5 := 2#5
def fOF : BitVec 5 := 4#5
def fUF : BitVec 5 := 8#5
def fNX : BitVec 5 := 16#5

/-- An IEEE format: exponent and mantissa widths (R106). -/
structure Fmt where
  ebits : Nat
  mbits : Nat
  deriving DecidableEq, Repr

def f32 : Fmt := { ebits := 8, mbits := 23 }
def f16 : Fmt := { ebits := 5, mbits := 10 }
def bf16 : Fmt := { ebits := 8, mbits := 7 }
def f64 : Fmt := { ebits := 11, mbits := 52 }

/-- Rounding modes (R111). -/
inductive Rm where
  | nearest
  | zero
  | up
  | down
  deriving DecidableEq, Repr

/-- The mode of `%fpctl`.RM (R111). -/
def rmOf (c : BitVec 2) : Rm :=
  if c = 0#2 then .nearest else if c = 1#2 then .zero else if c = 2#2 then .up else .down

/-- A value read from a code. -/
inductive FVal where
  | nan (signalling : Bool)
  | inf (neg : Bool)
  | fin (neg : Bool) (m : Nat) (e : Int)
  deriving DecidableEq, Repr

/-- A code and the exceptions that arose. -/
structure FRes where
  code : Nat
  flags : BitVec 5
  deriving DecidableEq, Repr

/-- What governs an operation: mode and the DAZ and FTZ bits (R111). -/
structure FpEnv where
  rm : Rm
  daz : Bool
  ftz : Bool
  deriving DecidableEq, Repr

/-- Nearest-even, subnormals kept: atomics and the engines (R130, R218, R349). -/
def plainEnv : FpEnv := { rm := .nearest, daz := false, ftz := false }

def fmtBias (f : Fmt) : Nat := 2 ^ (f.ebits - 1) - 1
def expMax (f : Fmt) : Nat := 2 ^ f.ebits - 1
def signBit (f : Fmt) (neg : Bool) : Nat := if neg then 2 ^ (f.ebits + f.mbits) else 0
def infCode (f : Fmt) (neg : Bool) : Nat := signBit f neg + expMax f * 2 ^ f.mbits
def maxCode (f : Fmt) (neg : Bool) : Nat := infCode f neg - 1

/-- The canonical quiet NaN (R108). -/
def nanCode (f : Fmt) : Nat := expMax f * 2 ^ f.mbits + 2 ^ (f.mbits - 1)

/-- Bits of a number: 0 for 0. -/
def bitLen (n : Nat) : Nat := if n = 0 then 0 else n.log2 + 1

/-- m * 2^k for an integer k, rounded down. -/
def shiftBy (m : Nat) (k : Int) : Nat := if k ≥ 0 then m * 2 ^ k.toNat else m / 2 ^ (-k).toNat

/-- The value of a code; with DAZ a subnormal reads as zero of its sign (R106, R114). -/
def unpack (f : Fmt) (daz : Bool) (x : Nat) : FVal :=
  let neg := x / 2 ^ (f.ebits + f.mbits) % 2 = 1
  let ex := x / 2 ^ f.mbits % 2 ^ f.ebits
  let ma := x % 2 ^ f.mbits
  if ex = expMax f then
    if ma = 0 then .inf neg else .nan (ma < 2 ^ (f.mbits - 1))
  else if ex = 0 then
    .fin neg (if daz then 0 else ma) (1 - (fmtBias f : Int) - f.mbits)
  else .fin neg (2 ^ f.mbits + ma) ((ex : Int) - fmtBias f - f.mbits)

/-- Whether a magnitude with a remainder is rounded up: `rest` compares the dropped part with a half (R111). -/
def roundsUp (rm : Rm) (neg odd : Bool) (rest : Ordering) (inexact : Bool) : Bool :=
  match rm with
  | .nearest => rest = .gt || (rest = .eq && odd)
  | .zero => false
  | .up => inexact && !neg
  | .down => inexact && neg

/-- (m + s) * 2^e, with 0 < s < 1 if `sticky` and s = 0 otherwise, rounded to a multiple of 2^q: the multiple, and inexactness. -/
def roundAt (rm : Rm) (neg : Bool) (m : Nat) (e : Int) (sticky : Bool) (q : Int) : Nat × Bool :=
  if q ≤ e then (shiftBy m (e - q), sticky)
  else
    let s := (q - e).toNat
    let n := m / 2 ^ s
    let r := m % 2 ^ s
    let half := 2 ^ (s - 1)
    let rest : Ordering := if r < half then .lt else if r = half && !sticky then .eq else .gt
    let inexact := r != 0 || sticky
    (if roundsUp rm neg (n % 2 = 1) rest inexact then n + 1 else n, inexact)

/-- One rounding of a finite value into a format, with overflow, underflow and inexact (R114, R118, R369). -/
def roundPack (f : Fmt) (env : FpEnv) (neg : Bool) (m : Nat) (e : Int) (sticky : Bool) : FRes :=
  if m = 0 && !sticky then { code := signBit f neg, flags := 0 }
  else
    let p : Int := f.mbits + 1
    let emin : Int := 1 - (fmtBias f : Int)
    let qmin : Int := emin - f.mbits
    let qu : Int := e + bitLen m - p
    let q := max qu qmin
    let u := roundAt env.rm neg m e sticky qu
    let r := roundAt env.rm neg m e sticky q
    let tiny := (bitLen u.1 : Int) + qu ≤ emin
    if (bitLen r.1 : Int) + q > fmtBias f + 1 then
      let toInf := match env.rm with
        | .nearest => true
        | .zero => false
        | .up => !neg
        | .down => neg
      { code := if toInf then infCode f neg else maxCode f neg, flags := fOF ||| fNX }
    else if tiny && env.ftz then { code := signBit f neg, flags := fUF ||| fNX }
    else
      let code :=
        if r.1 < 2 ^ f.mbits then r.1
        else
          let n := if r.1 = 2 ^ (f.mbits + 1) then 2 ^ f.mbits else r.1
          let q' := if r.1 = 2 ^ (f.mbits + 1) then q + 1 else q
          (q' + f.mbits + fmtBias f).toNat * 2 ^ f.mbits + (n - 2 ^ f.mbits)
      { code := signBit f neg + code
        flags := (if r.2 then fNX else 0) ||| (if tiny && r.2 then fUF else 0) }

/-- NaN result: canonical, with NV if an operand is signalling (R108). -/
def nanRes (f : Fmt) (nv : Bool) : FRes := { code := nanCode f, flags := if nv then fNV else 0 }

def isSnan : FVal → Bool
  | .nan s => s
  | _ => false

def isNan : FVal → Bool
  | .nan _ => true
  | _ => false

/-- Sign of an exact zero sum (R369). -/
def zeroSum (rm : Rm) (a b : Bool) : Bool := if a = b then a else rm = .down

/-- The sum of two finite values as sign, magnitude and exponent. -/
def addFin (rm : Rm) (an : Bool) (am : Nat) (ae : Int) (bn : Bool) (bm : Nat) (be : Int) : Bool × Nat × Int :=
  let e := min ae be
  let a : Int := if an then -(shiftBy am (ae - e) : Int) else shiftBy am (ae - e)
  let b : Int := if bn then -(shiftBy bm (be - e) : Int) else shiftBy bm (be - e)
  let s := a + b
  if s = 0 then (zeroSum rm an bn, 0, e) else (s < 0, s.natAbs, e)

/-- Addition of values (R369, R381). -/
def fAddV (f : Fmt) (env : FpEnv) (a b : FVal) : FRes :=
  match a, b with
  | .nan _, _ => nanRes f (isSnan a || isSnan b)
  | _, .nan _ => nanRes f (isSnan a || isSnan b)
  | .inf x, .inf y => if x = y then { code := infCode f x, flags := 0 } else nanRes f true
  | .inf x, .fin _ _ _ => { code := infCode f x, flags := 0 }
  | .fin _ _ _, .inf y => { code := infCode f y, flags := 0 }
  | .fin an am ae, .fin bn bm be =>
    let r := addFin env.rm an am ae bn bm be
    roundPack f env r.1 r.2.1 r.2.2 false

/-- A value with its sign inverted; a NaN stays. -/
def negV : FVal → FVal
  | .nan s => .nan s
  | .inf n => .inf (!n)
  | .fin n m e => .fin (!n) m e

def isZeroV : FVal → Bool
  | .fin _ 0 _ => true
  | _ => false

def signV : FVal → Bool
  | .nan _ => false
  | .inf n => n
  | .fin n _ _ => n

/-- a × b + c with one rounding (R110, R390). -/
def fFmaV (f : Fmt) (env : FpEnv) (a b c : FVal) : FRes :=
  let nv := isSnan a || isSnan b || isSnan c
  match a, b with
  | .nan _, _ => nanRes f nv
  | _, .nan _ => nanRes f nv
  | .inf x, y =>
    if isZeroV y then nanRes f true else fmaInf (x != signV y) nv c
  | x, .inf y =>
    if isZeroV x then nanRes f true else fmaInf (signV x != y) nv c
  | .fin an am ae, .fin bn bm be =>
    let pn := an != bn
    match c with
    | .nan _ => nanRes f nv
    | .inf z => { code := infCode f z, flags := 0 }
    | .fin cn cm ce =>
      let r := addFin env.rm pn (am * bm) (ae + be) cn cm ce
      roundPack f env r.1 r.2.1 r.2.2 false
where
  /-- An infinite product and an addend. -/
  fmaInf (pn nv : Bool) (c : FVal) : FRes :=
    match c with
    | .nan _ => nanRes f nv
    | .inf z => if z = pn then { code := infCode f z, flags := 0 } else nanRes f true
    | .fin _ _ _ => { code := infCode f pn, flags := 0 }

/-- Multiplication (R381). -/
def fMulV (f : Fmt) (env : FpEnv) (a b : FVal) : FRes :=
  let nv := isSnan a || isSnan b
  let s := signV a != signV b
  match a, b with
  | .nan _, _ => nanRes f nv
  | _, .nan _ => nanRes f nv
  | .inf _, y => if isZeroV y then nanRes f true else { code := infCode f s, flags := 0 }
  | x, .inf _ => if isZeroV x then nanRes f true else { code := infCode f s, flags := 0 }
  | .fin _ am ae, .fin _ bm be => roundPack f env s (am * bm) (ae + be) false

/-- Division (R116, R386). -/
def fDivV (f : Fmt) (env : FpEnv) (a b : FVal) : FRes :=
  let nv := isSnan a || isSnan b
  let s := signV a != signV b
  match a, b with
  | .nan _, _ => nanRes f nv
  | _, .nan _ => nanRes f nv
  | .inf _, .inf _ => nanRes f true
  | .inf _, .fin _ _ _ => { code := infCode f s, flags := 0 }
  | .fin _ _ _, .inf _ => { code := signBit f s, flags := 0 }
  | .fin _ am ae, .fin _ bm be =>
    if bm = 0 then if am = 0 then nanRes f true else { code := infCode f s, flags := fDZ }
    else if am = 0 then { code := signBit f s, flags := 0 }
    else
      let k := bitLen bm + f.mbits + 4
      let n := am * 2 ^ k
      roundPack f env s (n / bm) (ae - be - k) (n % bm != 0)

/-- Integer square root, rounded down, from bit `k` down. -/
def isqrtFrom (n : Nat) : Nat → Nat → Nat
  | 0, acc => if (acc + 1) * (acc + 1) ≤ n then acc + 1 else acc
  | k + 1, acc =>
    let t := acc + 2 ^ (k + 1)
    isqrtFrom n k (if t * t ≤ n then t else acc)

/-- Integer square root, rounded down. -/
def isqrt (n : Nat) : Nat := isqrtFrom n (bitLen n / 2 + 1) 0

/-- Square root (R116). -/
def fSqrtV (f : Fmt) (env : FpEnv) (a : FVal) : FRes :=
  match a with
  | .nan s => nanRes f s
  | .inf n => if n then nanRes f true else { code := infCode f false, flags := 0 }
  | .fin n m e =>
    if m = 0 then { code := signBit f n, flags := 0 }
    else if n then nanRes f true
    else
      let k := 2 * (f.mbits + 4) + (if (e - 2 * (f.mbits + 4 : Int)) % 2 = 0 then 0 else 1)
      let v := m * 2 ^ k
      let r := isqrt v
      roundPack f env false r ((e - k) / 2) (r * r != v)

/-- Reciprocal (R116, R392). -/
def fRcpV (f : Fmt) (env : FpEnv) (a : FVal) : FRes := fDivV f env (.fin false 1 0) a

/-- Reciprocal square root, rounded once (R116). -/
def fRsqV (f : Fmt) (env : FpEnv) (a : FVal) : FRes :=
  match a with
  | .nan s => nanRes f s
  | .inf n => if n then nanRes f true else { code := signBit f false, flags := 0 }
  | .fin n m e =>
    if m = 0 then { code := infCode f n, flags := fDZ }
    else if n then nanRes f true
    else
      let m' := if e % 2 = 0 then m else m * 2
      let e' := if e % 2 = 0 then e else e - 1
      let k := bitLen m' + f.mbits + 6
      let v := 2 ^ (2 * k) / m'
      let r := isqrt v
      roundPack f env false r (-(e' / 2) - k) (r * r * m' != 2 ^ (2 * k))

/-- a < b for values that are not NaN. -/
def ltV (a b : FVal) : Bool :=
  match a, b with
  | .inf x, .inf y => x && !y
  | .inf x, .fin _ _ _ => x
  | .fin _ _ _, .inf y => !y
  | .fin an am ae, .fin bn bm be =>
    let e := min ae be
    let x : Int := if an then -(shiftBy am (ae - e) : Int) else shiftBy am (ae - e)
    let y : Int := if bn then -(shiftBy bm (be - e) : Int) else shiftBy bm (be - e)
    x < y
  | _, _ => false

/-- a = b for values that are not NaN (-0 = +0). -/
def eqV (a b : FVal) : Bool := !isNan a && !isNan b && !ltV a b && !ltV b a

/-- The code of a value already representable in a format. -/
def codeV (f : Fmt) (env : FpEnv) (a : FVal) : FRes :=
  match a with
  | .nan _ => { code := nanCode f, flags := 0 }
  | .inf n => { code := infCode f n, flags := 0 }
  | .fin n m e => roundPack f env n m e false

/-- Minimum or maximum (R109, R391). -/
def fMinMaxV (f : Fmt) (env : FpEnv) (wantMax : Bool) (a b : FVal) : FRes :=
  let nv : BitVec 5 := if isSnan a || isSnan b then fNV else 0
  let pick : FVal :=
    if isNan a then b
    else if isNan b then a
    else
      let aLess := ltV a b || (eqV a b && signV a && !signV b)
      if wantMax then (if aLess then b else a) else (if aLess then a else b)
  let r := codeV f env pick
  { r with flags := r.flags ||| nv }

/-- Comparison relations of `FCMP` (R383): the truth value and NV. -/
def fCmp (rel : BitVec 2) (a b : FVal) : Bool × BitVec 5 :=
  let anyNan := isNan a || isNan b
  let anySnan := isSnan a || isSnan b
  let nvIf (c : Bool) : BitVec 5 := if c then fNV else 0
  if rel = 0#2 then (eqV a b, nvIf anySnan)
  else if rel = 1#2 then (!anyNan && ltV a b, nvIf anyNan)
  else if rel = 2#2 then (!anyNan && !ltV b a, nvIf anyNan)
  else (anyNan, nvIf anySnan)

/-- Conversion between IEEE formats (R118, R385). -/
def fConv (src dst : Fmt) (env : FpEnv) (x : Nat) : FRes :=
  match unpack src env.daz x with
  | .nan s => nanRes dst s
  | .inf n => { code := infCode dst n, flags := 0 }
  | .fin n m e => roundPack dst env n m e false

/-- The rounding mode that a conversion names (R334, R393): 0 is RM. -/
def modeRm (m : BitVec 3) (rm : Rm) : Rm :=
  if m = 1#3 then .nearest else if m = 2#3 then .zero else if m = 3#3 then .up else if m = 4#3 then .down else rm

/-- Float to a 32-bit integer, saturating (R119, R397). -/
def fToInt (unsigned : Bool) (rm : Rm) (a : FVal) : Word × BitVec 5 :=
  let lo : Int := if unsigned then 0 else -2147483648
  let hi : Int := if unsigned then 4294967295 else 2147483647
  match a with
  | .nan _ => (0, fNV)
  | .inf n => (BitVec.ofInt 32 (if n then lo else hi), fNV)
  | .fin n m e =>
    let r := roundAt rm n m e false 0
    let v : Int := if n then -(r.1 : Int) else r.1
    if v < lo then (BitVec.ofInt 32 lo, fNV)
    else if v > hi then (BitVec.ofInt 32 hi, fNV)
    else (BitVec.ofInt 32 v, if r.2 then fNX else 0)

/-- An integer to binary32 (R119, R397). -/
def fFromInt (env : FpEnv) (v : Int) : FRes := roundPack f32 env (v < 0) v.natAbs 0 false

/-- Rounding to an integral value (R393). -/
def fRound (rm : Rm) (env : FpEnv) (a : FVal) : FRes :=
  match a with
  | .nan s => nanRes f32 s
  | .inf n => { code := infCode f32 n, flags := 0 }
  | .fin n m e =>
    if e ≥ 0 then roundPack f32 env n m e false
    else
      let r := roundAt rm n m e false 0
      { roundPack f32 plainEnv n r.1 0 false with flags := if r.2 then fNX else 0 }

/-- Scaling by a power of two (R394). A scale beyond ±1000 acts as ±1000: the result is out of range either way. -/
def fScale (env : FpEnv) (a : FVal) (n : Int) : FRes :=
  match a with
  | .nan s => nanRes f32 s
  | .inf x => { code := infCode f32 x, flags := 0 }
  | .fin x m e => roundPack f32 env x m (e + max (-1000) (min 1000 n)) false

/-- Class of a binary32 code: one bit (R334, R382). -/
def fClass (x : Word) : Word :=
  let neg := x.getLsbD 31
  let bit : Nat :=
    match unpack f32 false x.toNat with
    | .nan s => if s then 8 else 9
    | .inf n => if n then 0 else 7
    | .fin _ m _ =>
      if m = 0 then (if neg then 3 else 4)
      else if m < 2 ^ 23 then (if neg then 2 else 5)
      else (if neg then 1 else 6)
  BitVec.ofNat 32 (2 ^ bit)

/-- A narrow format: bits, exponent bias, mantissa bits, largest code of a positive value (R120). -/
structure Narrow where
  width : Nat
  mbits : Nat
  bias : Nat
  maxCode : Nat
  hasNan : Bool
  deriving DecidableEq, Repr

def nf8 : Narrow := { width := 8, mbits := 3, bias := 7, maxCode := 0x7E, hasNan := true }
def nf6 : Narrow := { width := 6, mbits := 2, bias := 3, maxCode := 0x1F, hasNan := false }
def nf4 : Narrow := { width := 4, mbits := 1, bias := 1, maxCode := 0x7, hasNan := false }

/-- The format of an `NCVT` format field (R416). -/
def narrowOf (f : BitVec 2) : Narrow := if f = 0#2 then nf8 else if f = 1#2 then nf6 else nf4

/-- The value of a narrow code (R120). -/
def unpackNarrow (f : Narrow) (x : Nat) : FVal :=
  let neg := x / 2 ^ (f.width - 1) % 2 = 1
  let rest := x % 2 ^ (f.width - 1)
  if x = 0 then .fin false 0 0
  else if f.hasNan && rest = 2 ^ (f.width - 1) - 1 then .nan false
  else .fin neg (2 ^ f.mbits + rest % 2 ^ f.mbits) ((rest / 2 ^ f.mbits : Nat) - (f.bias : Int) - f.mbits)

/-- Conversion into a narrow format (R121). -/
def packNarrow (f : Narrow) (rm : Rm) (a : FVal) (signOfNan : Bool) : FRes :=
  let signed (neg : Bool) (c : Nat) : Nat := (if neg then 2 ^ (f.width - 1) else 0) + c
  match a with
  | .nan _ => { code := if f.hasNan then signed signOfNan (2 ^ (f.width - 1) - 1) else 0, flags := fNV }
  | .inf n => { code := signed n f.maxCode, flags := fOF ||| fNX }
  | .fin n m e =>
    if m = 0 then { code := 0, flags := 0 }
    else
      -- the smallest magnitude of this sign, in units of 2^(-bias - mbits)
      let least : Nat := if n then 2 ^ f.mbits else 2 ^ f.mbits + 1
      let unit : Int := -(f.bias : Int) - f.mbits
      let below := shiftBy m (e - min e unit) < least * 2 ^ (unit - min e unit).toNat
      if below then
        let x := 2 * shiftBy m (e - min e unit)
        let y := least * 2 ^ (unit - min e unit).toNat
        let rest : Ordering := if x < y then .lt else if x = y then .eq else .gt
        if roundsUp rm n false rest true then
          { code := signed n (if n then 0 else 1), flags := fNX }
        else { code := 0, flags := fUF ||| fNX }
      else
        let q : Int := e + bitLen m - (f.mbits + 1 : Int)
        let r := roundAt rm n m e false q
        let n' := if r.1 = 2 ^ (f.mbits + 1) then 2 ^ f.mbits else r.1
        let q' := if r.1 = 2 ^ (f.mbits + 1) then q + 1 else q
        let c : Int := (q' + f.mbits + f.bias) * 2 ^ f.mbits + (n' - 2 ^ f.mbits : Nat)
        if c > f.maxCode then { code := signed n f.maxCode, flags := fOF ||| fNX }
        else { code := signed n c.toNat, flags := if r.2 then fNX else 0 }

/-- Fixed-point constants: ln 2 and log2 e with 192 fraction bits, π with 320. -/
def ln2F : Nat := 4350955369971217654477563090224794165364344896676135745069
def log2eF : Nat := 9055943544797870567083544809312461607371518589544137143473
def piF : Nat := 6710401180212168915155840974220003240804194089427148950727106424351713218671805380099500388914039

/-- The sum of term × y / n, term × y² / (n (n + 1)), ... with `fr` fraction bits, for `fuel` terms. -/
def expSum (y fr : Nat) : Nat → Nat → Nat → Nat
  | 0, _, _ => 0
  | fuel + 1, n, term => term + expSum y fr fuel (n + 1) (term * y / 2 ^ fr / (n + 1))

/-- Alternating odd series of the sine at y, with 320 fraction bits. -/
def sinSum (y2 : Nat) : Nat → Nat → Nat → Int
  | 0, _, _ => 0
  | fuel + 1, n, term => (term : Int) - sinSum y2 fuel (n + 2) (term * y2 / 2 ^ 320 / ((n + 1) * (n + 2)))

/-- The series of the inverse hyperbolic tangent at z (z² given), with 192 fraction bits. -/
def atanhSum (z2 : Int) : Nat → Nat → Int → Int
  | 0, _, _ => 0
  | fuel + 1, n, pw => pw / n + atanhSum z2 fuel (n + 2) (pw * z2 / 2 ^ 192)

/-- A close approximation of the exact result: sign, m, e with value ± m × 2^e. -/
abbrev Approx := Bool × Nat × Int

/-- 2^x for x = ± m × 2^e. -/
def exp2Approx (neg : Bool) (m : Nat) (e : Int) : Approx :=
  let x : Int := if neg then -(shiftBy m (e + 192) : Int) else shiftBy m (e + 192)
  let k := x / 2 ^ 192
  let fr := (x % 2 ^ 192).toNat
  (false, expSum (fr * ln2F / 2 ^ 192) 192 50 0 (2 ^ 192), k - 192)

/-- log2 of m × 2^e, m not 0. -/
def log2Approx (m : Nat) (e : Int) : Approx :=
  let l := bitLen m
  -- m = y × 2^(l - 1) with y in [1, 2); taken to [3/4, 3/2)
  let big := 2 * m ≥ 3 * 2 ^ (l - 1)
  let ex : Int := e + l - (if big then 0 else 1)
  let d : Int := 2 ^ (if big then l else l - 1)
  let z : Int := ((m : Int) - d) * 2 ^ 192 / ((m : Int) + d)
  let ln : Int := 2 * atanhSum (z * z / 2 ^ 192) 60 1 z
  let r : Int := ex * 2 ^ 192 + ln * log2eF / 2 ^ 192
  (r < 0, r.natAbs, -192)

/-- Sine of an angle y in [0, 2π) with 320 fraction bits. -/
def sinAngle (y : Nat) : Approx :=
  let neg := y ≥ piF
  let y1 := if neg then y - piF else y
  let y2 := if 2 * y1 > piF then piF - y1 else y1
  let r := sinSum (y2 * y2 / 2 ^ 320) 60 1 y2
  (neg, r.toNat, -320)

/-- An angle ± m × 2^e taken into [0, 2π), with 320 fraction bits. -/
def reduceAngle (neg : Bool) (m : Nat) (e : Int) : Nat :=
  let r := shiftBy m (e + 320) % (2 * piF)
  if neg && r != 0 then 2 * piF - r else r

/-- sin of ± m × 2^e. -/
def sinApprox (neg : Bool) (m : Nat) (e : Int) : Approx :=
  let r := sinAngle (shiftBy m (e + 320) % (2 * piF))
  (neg != r.1, r.2.1, r.2.2)

/-- cos of ± m × 2^e. -/
def cosApprox (neg : Bool) (m : Nat) (e : Int) : Approx :=
  sinAngle ((reduceAngle neg m e + piF / 2) % (2 * piF))

/-- The value of a binary32 magnitude code, infinity as 2^128, in units of 2^-149. -/
def codeUnits (c : Nat) : Nat :=
  let ex := c / 2 ^ 23
  if ex = 0 then c else (2 ^ 23 + c % 2 ^ 23) * 2 ^ (ex - 1)

/-- Whether a magnitude code lies within 2 ulp of a magnitude m × 2^e; an ulp is the spacing at the exact magnitude (R117). -/
def within2ulp (c : Nat) (m : Nat) (e : Int) : Bool :=
  let ulp : Int := max (-149) (e + bitLen m - 24)
  let base := min e (-149)
  let x : Int := shiftBy (codeUnits c) (-149 - base)
  let y : Int := shiftBy m (e - base)
  (x - y).natAbs ≤ 2 * 2 ^ (ulp - base).toNat

/-- The returned value of a transcendental: the nearest code moved by the free offset while that stays within 2 ulp (R117, log 6).
The result that is tiny, and that FTZ flushes, is the returned value (R111, R114). -/
def transcendental (env : FpEnv) (fn : Nat) (x : Word) (a : Approx) : FRes :=
  let near := (roundPack f32 plainEnv false a.2.1 a.2.2 true).code
  let moved := ((near : Int) + Config.transcendentalOffset fn x).toNat
  let c := if moved ≤ infCode f32 false && within2ulp moved a.2.1 a.2.2 then moved else near
  let tiny := decide (c < 2 ^ 23)
  if c = infCode f32 false then { code := infCode f32 a.1, flags := fOF ||| fNX }
  else if tiny && env.ftz then { code := signBit f32 a.1, flags := fUF ||| fNX }
  else { code := signBit f32 a.1 + c, flags := fNX ||| (if tiny then fUF else 0) }

/-- `FEXP2` (R117). -/
def fExp2 (env : FpEnv) (x : Word) : FRes :=
  match unpack f32 env.daz x.toNat with
  | .nan s => nanRes f32 s
  | .inf n => { code := if n then 0 else infCode f32 false, flags := 0 }
  | .fin n m e =>
    if m = 0 then { code := 0x3F800000, flags := 0 }
    else if !n && shiftBy m (max e (-30)) ≥ 128 && e ≥ -30 then { code := infCode f32 false, flags := fOF ||| fNX }
    else
      let whole := (roundAt .zero n m e false 0)
      if !whole.2 && whole.1 ≤ 149 && (n || whole.1 < 128) then
        let k : Int := if n then -(whole.1 : Int) else whole.1
        let r := roundPack f32 plainEnv false 1 k false
        if env.ftz && k < -126 then { code := 0, flags := fUF ||| fNX } else { code := r.code, flags := 0 }
      else if n && shiftBy m e ≥ 1000 then
        -- far below the subnormal range: the exact result is below 2^-1000
        transcendental env 0 x (false, 1, -1000)
      else transcendental env 0 x (exp2Approx n m e)

/-- `FLOG2` (R117). -/
def fLog2 (env : FpEnv) (x : Word) : FRes :=
  match unpack f32 env.daz x.toNat with
  | .nan s => nanRes f32 s
  | .inf n => if n then nanRes f32 true else { code := infCode f32 false, flags := 0 }
  | .fin n m e =>
    if m = 0 then { code := infCode f32 true, flags := fDZ }
    else if n then nanRes f32 true
    else if m = 2 ^ (bitLen m - 1) then
      { fFromInt plainEnv (e + bitLen m - 1) with flags := 0 }
    else transcendental env 1 x (log2Approx m e)

/-- `FSIN` and `FCOS` (R117). -/
def fSinCos (cos : Bool) (env : FpEnv) (x : Word) : FRes :=
  match unpack f32 env.daz x.toNat with
  | .nan s => nanRes f32 s
  | .inf _ => nanRes f32 true
  | .fin n m e =>
    if m = 0 then { code := if cos then 0x3F800000 else signBit f32 n, flags := 0 }
    else transcendental env (if cos then 3 else 2) x (if cos then cosApprox n m e else sinApprox n m e)

end Sys2Proof.Machine
end

