-- ==== Sys2Proof/Machine/Crypto.lean ====
section
/-!
DEFINITION. The ciphers, hashes and codes that the spec names: AES-256 in counter, GCM and XTS mode, SHA-512 and HMAC-SHA-512
(R266, R268, R269, R271, R289), CRC-32 (R225) and ECDSA on P-521 (R273). The spec gives their names and uses; their inside is the published standards' (PRESUMED, log 10).
-/

namespace Sys2Proof.Machine

/-- Exclusive OR of two byte strings, as long as the shorter. -/
def xorBytes (a b : List Byte) : List Byte := List.zipWith (fun x y => x ^^^ y) a b

/-- A byte string as a big-endian number. -/
def beNat (l : List Byte) : Nat := l.foldl (fun n b => n * 256 + b.toNat) 0

/-- `n` bytes of a number, big-endian. -/
def beBytes (n v : Nat) : List Byte := (toLeBytes n v).reverse

/-- Multiplication in the AES field: `fuel` bits of y from bit 0. -/
def gfMul : Nat → Byte → Byte → Byte
  | 0, _, _ => 0
  | k + 1, x, y =>
    (if y.getLsbD 0 then x else 0) ^^^
      gfMul k ((x <<< 1) ^^^ (if x.getLsbD 7 then 0x1B else 0)) (y >>> 1)

/-- x to the power 254: the inverse, and 0 for 0. -/
def gfInv (x : Byte) : Byte :=
  let x2 := gfMul 8 x x
  let x3 := gfMul 8 x2 x
  let x6 := gfMul 8 x3 x3
  let x7 := gfMul 8 x6 x
  let x14 := gfMul 8 x7 x7
  let x15 := gfMul 8 x14 x
  let x30 := gfMul 8 x15 x15
  let x31 := gfMul 8 x30 x
  let x62 := gfMul 8 x31 x31
  let x63 := gfMul 8 x62 x
  let x126 := gfMul 8 x63 x63
  let x127 := gfMul 8 x126 x
  gfMul 8 x127 x127

/-- The AES substitution. -/
def subByte (x : Byte) : Byte :=
  let b := gfInv x
  b ^^^ b.rotateLeft 1 ^^^ b.rotateLeft 2 ^^^ b.rotateLeft 3 ^^^ b.rotateLeft 4 ^^^ 0x63

/-- Its inverse. -/
def invSubByte (x : Byte) : Byte :=
  gfInv (x.rotateLeft 1 ^^^ x.rotateLeft 3 ^^^ x.rotateLeft 6 ^^^ 0x05)

/-- AES-256 key schedule: words w[0..], newest first; `i` counts the words made. -/
def aesExpand : Nat → Nat → List (List Byte) → Byte → List (List Byte)
  | 0, _, ws, _ => ws
  | fuel + 1, i, ws, rcon =>
    let t := ws.headD []
    let back := (ws[7]?).getD []
    if i % 8 = 0 then
      let r := (t.drop 1 ++ t.take 1).map subByte
      aesExpand fuel (i + 1) (xorBytes back (xorBytes r [rcon, 0, 0, 0]) :: ws) (gfMul 8 rcon 2)
    else if i % 8 = 4 then aesExpand fuel (i + 1) (xorBytes back (t.map subByte) :: ws) rcon
    else aesExpand fuel (i + 1) (xorBytes back t :: ws) rcon

/-- Pieces of n bytes. -/
def chunks (n : Nat) : Nat → List Byte → List (List Byte)
  | 0, _ => []
  | k + 1, l => l.take n :: chunks n k (l.drop n)

/-- The fifteen round keys of a 32-byte key. -/
def aesKeys (k : List Byte) : List (List Byte) :=
  chunks 16 15 (aesExpand 52 8 (chunks 4 8 k).reverse 1).reverse.flatten

/-- Byte r + 4c goes to column c - r. -/
def shiftRows (b : List Byte) : List Byte := (List.range 16).map fun i => (b[(i + 4 * (i % 4)) % 16]?).getD 0

def invShiftRows (b : List Byte) : List Byte := (List.range 16).map fun i => (b[(i + 12 * (i % 4)) % 16]?).getD 0

/-- Each column multiplied by a circulant matrix. -/
def mixWith (m : List Byte) (b : List Byte) : List Byte :=
  (List.range 16).map fun i =>
    (List.range 4).foldl (fun x j =>
      x ^^^ gfMul 8 ((b[i / 4 * 4 + j]?).getD 0) ((m[(j + 4 - i % 4) % 4]?).getD 0)) 0

def aesRounds : List (List Byte) → List Byte → List Byte
  | [], b => b
  | [k], b => xorBytes (shiftRows (b.map subByte)) k
  | k :: ks, b => aesRounds ks (xorBytes (mixWith [2, 3, 1, 1] (shiftRows (b.map subByte))) k)

/-- AES-256 of one 16-byte block. -/
def aesEncrypt (key b : List Byte) : List Byte :=
  match aesKeys key with
  | [] => []
  | k :: ks => aesRounds ks (xorBytes b k)

def aesInvRounds : List (List Byte) → List Byte → List Byte
  | [], b => b
  | [k], b => xorBytes ((invShiftRows b).map invSubByte) k
  | k :: ks, b => aesInvRounds ks (mixWith [14, 11, 13, 9] (xorBytes ((invShiftRows b).map invSubByte) k))

/-- Its inverse. -/
def aesDecrypt (key b : List Byte) : List Byte :=
  match (aesKeys key).reverse with
  | [] => []
  | k :: ks => aesInvRounds ks (xorBytes b k)

/-- Counter mode from a 16-byte counter block, whose last four bytes count big-endian. -/
def aesCtr (key ctr : List Byte) (data : List Byte) : List Byte :=
  let n := (data.length + 15) / 16
  let ks := (List.range n).map fun i => aesEncrypt key (ctr.take 12 ++ beBytes 4 ((beNat (ctr.drop 12) + i) % 2 ^ 32))
  xorBytes data ks.flatten

/-- Multiplication in the GCM field: bit 127 of the number is the first bit of the block. -/
def ghashMul : Nat → Nat → Nat → Nat
  | 0, _, _ => 0
  | k + 1, x, v =>
    (if x / 2 ^ k % 2 = 1 then v else 0) ^^^
      ghashMul k x (if v % 2 = 1 then v / 2 ^^^ 0xE1000000000000000000000000000000 else v / 2)

/-- Zero bytes up to a multiple of 16. -/
def pad16 (l : List Byte) : List Byte := l ++ List.replicate ((16 - l.length % 16) % 16) 0

/-- GHASH under h. -/
def ghash (h : Nat) (l : List Byte) : Nat :=
  (chunks 16 (l.length / 16) l).foldl (fun y b => ghashMul 128 (y ^^^ beNat b) h) 0

/-- The GCM tag over associated data and ciphertext, 96-bit IV. With no ciphertext it is GMAC. -/
def gcmTag (key iv aad ct : List Byte) : List Byte :=
  let h := beNat (aesEncrypt key (List.replicate 16 0))
  let s := ghash h (pad16 aad ++ pad16 ct ++ beBytes 8 (aad.length * 8) ++ beBytes 8 (ct.length * 8))
  xorBytes (beBytes 16 s) (aesEncrypt key (iv ++ [0, 0, 0, 1]))

/-- GCM encryption or decryption of the data. -/
def gcmCrypt (key iv data : List Byte) : List Byte := aesCtr key (iv ++ [0, 0, 0, 2]) data

/-- The XTS tweak times α. -/
def xtsDouble (t : List Byte) : List Byte :=
  let v := leBytes t
  toLeBytes 16 (if v / 2 ^ 127 % 2 = 1 then v * 2 % 2 ^ 128 ^^^ 0x87 else v * 2)

/-- XTS over whole blocks with a running tweak. -/
def xtsBlocks (f : List Byte → List Byte) : Nat → List Byte → List Byte → List Byte
  | 0, _, _ => []
  | n + 1, t, l => xorBytes t (f (xorBytes t (l.take 16))) ++ xtsBlocks f n (xtsDouble t) (l.drop 16)

/-- AES-256-XTS over a 128-byte data unit (R269). -/
def xtsEncrypt (k1 k2 tweak unit : List Byte) : List Byte := xtsBlocks (aesEncrypt k1) 8 (aesEncrypt k2 tweak) unit

def xtsDecrypt (k1 k2 tweak unit : List Byte) : List Byte := xtsBlocks (aesDecrypt k1) 8 (aesEncrypt k2 tweak) unit

/-- The first eighty primes. -/
def primes80 : List Nat :=
  [2, 3, 5, 7, 11, 13, 17, 19, 23, 29, 31, 37, 41, 43, 47, 53, 59, 61, 67, 71, 73, 79, 83, 89, 97, 101, 103, 107, 109, 113] ++
  [127, 131, 137, 139, 149, 151, 157, 163, 167, 173, 179, 181, 191, 193, 197, 199, 211, 223, 227, 229, 233, 239, 241] ++
  [251, 257, 263, 269, 271, 277, 281, 283, 293, 307, 311, 313, 317, 331, 337, 347, 349, 353, 359, 367, 373, 379, 383] ++
  [389, 397, 401, 409]

/-- Integer cube root, rounded down, from bit `k` down. -/
def icbrtFrom (n : Nat) : Nat → Nat → Nat
  | 0, acc => if (acc + 1) ^ 3 ≤ n then acc + 1 else acc
  | k + 1, acc => icbrtFrom n k (if (acc + 2 ^ (k + 1)) ^ 3 ≤ n then acc + 2 ^ (k + 1) else acc)

/-- Round constants of SHA-512: fractions of the cube roots of the first eighty primes. -/
def shaK : List DWord := primes80.map fun p => BitVec.ofNat 64 (icbrtFrom (p * 2 ^ 192) 67 0)

/-- Its initial value: fractions of the square roots of the first eight primes. -/
def shaH : List DWord := (primes80.take 8).map fun p => BitVec.ofNat 64 (isqrt (p * 2 ^ 128))

/-- Message schedule, newest first. -/
def shaExpand : Nat → List DWord → List DWord
  | 0, w => w
  | k + 1, w =>
    let g (i : Nat) : DWord := (w[i]?).getD 0
    let s0 := (g 14).rotateRight 1 ^^^ (g 14).rotateRight 8 ^^^ (g 14) >>> 7
    let s1 := (g 1).rotateRight 19 ^^^ (g 1).rotateRight 61 ^^^ (g 1) >>> 6
    shaExpand k ((g 15 + s0 + g 6 + s1) :: w)

/-- One round on a..h. -/
def shaRound (v : List DWord) (kw : DWord) : List DWord :=
  match v with
  | [a, b, c, d, e, f, g, h] =>
    let t1 := h + (e.rotateRight 14 ^^^ e.rotateRight 18 ^^^ e.rotateRight 41) + ((e &&& f) ^^^ (~~~e &&& g)) + kw
    let t2 := (a.rotateRight 28 ^^^ a.rotateRight 34 ^^^ a.rotateRight 39) + ((a &&& b) ^^^ (a &&& c) ^^^ (b &&& c))
    [t1 + t2, a, b, c, d + t1, e, f, g]
  | _ => v

/-- One 128-byte block. -/
def shaBlock (h : List DWord) (b : List Byte) : List DWord :=
  let w := (shaExpand 64 ((chunks 8 16 b).map fun x => BitVec.ofNat 64 (beNat x)).reverse).reverse
  List.zipWith (· + ·) h ((List.zipWith (· + ·) shaK w).foldl shaRound h)

/-- SHA-512, 64 bytes. -/
def sha512 (m : List Byte) : List Byte :=
  let z := (128 - (m.length + 17) % 128) % 128
  let p := m ++ [0x80] ++ List.replicate z 0 ++ beBytes 16 (m.length * 8)
  ((chunks 128 (p.length / 128) p).foldl shaBlock shaH).flatMap fun x => beBytes 8 x.toNat

/-- HMAC-SHA-512 under a key of at most 128 bytes (R266). -/
def hmac512 (k m : List Byte) : List Byte :=
  let k' := k ++ List.replicate (128 - k.length) 0
  sha512 (k'.map (· ^^^ 0x5C) ++ sha512 (k'.map (· ^^^ 0x36) ++ m))

/-- Bytes of an ASCII label. -/
def asciiBytes (s : String) : List Byte := s.toList.map fun c => BitVec.ofNat 8 c.toNat

/-- A sub-key: the first 32 bytes of HMAC-SHA-512(key, label, 0, 4-byte context) (R266). -/
def subKey (key : BitVec 512) (label : String) (context : Nat) : List Byte :=
  (hmac512 (toLeBytes 64 key.toNat) (asciiBytes label ++ [0] ++ toLeBytes 4 context)).take 32

/-! ## CRC-32 (R225) -/

/-- One bit of the reflected IEEE 802.3 polynomial. -/
def crcBit (c : Nat) : Nat := if c % 2 = 1 then c / 2 ^^^ 0xEDB88320 else c / 2

def crcByte (c : Nat) (b : Byte) : Nat := (List.range 8).foldl (fun c _ => crcBit c) (c ^^^ b.toNat)

/-- The CRC-32 of some bytes. -/
def crc32 (bs : List Byte) : BitVec 32 := BitVec.ofNat 32 (bs.foldl crcByte 0xFFFFFFFF ^^^ 0xFFFFFFFF)

/-! ## ECDSA on P-521 (R265, R273) -/

/-- The field of P-521, the order of its base point, its constant, and the base point. -/
def p521 : Nat := 0x01FFFFFFFFFFFFFFFFFFFFFFFFFFFFFFFFFFFFFFFFFFFFFFFFFFFFFFFFFFFFFFFFFFFFFFFFFFFFFFFFFFFFFFFFFFFFFFFFFFFFFFFFFFFFFFFFFFFFFFFFFFFFFFFFFF
def p521Order : Nat :=
  0x1FFFFFFFFFFFFFFFFFFFFFFFFFFFFFFFFFFFFFFFFFFFFFFFFFFFFFFFFFFFFFFFFFA51868783BF2F966B7FCC0148F709A5D03BB5C9B8899C47AEBB6FB71E91386409
def p521B : Nat :=
  0x0051953EB9618E1C9A1F929A21A0B68540EEA2DA725B99B315F3B8B489918EF109E156193951EC7E937B1652C0BD3BB1BF073573DF883D2C34F1EF451FD46B503F00
def p521X : Nat :=
  0x00C6858E06B70404E9CD9E3ECB662395B4429C648139053FB521F828AF606B4D3DBAA14B5E77EFE75928FE1DC127A2FFA8DE3348B3C1856A429BF97E7E31C2E5BD66
def p521Y : Nat :=
  0x011839296A789A3BC0045C8A5FB42C7D1BD998F54449579B446817AFBD17273E662C97EE72995EF42640C550B9013FAD0761353C7086A272C24088BE94769FD16650

/-- A point of the curve in Jacobian coordinates; z = 0 is the point at infinity. -/
structure Jac where
  x : Nat
  y : Nat
  z : Nat
  deriving DecidableEq, Repr

/-- A difference in the field. -/
def subP (a b : Nat) : Nat := (a + p521 - b % p521) % p521

/-- A point doubled. -/
def jacDouble (a : Jac) : Jac :=
  let d := a.z * a.z % p521
  let g := a.y * a.y % p521
  let b := a.x * g % p521
  let al := 3 * subP a.x d * (a.x + d) % p521
  let x := subP (al * al) (8 * b)
  { x := x, y := subP (al * subP (4 * b) x) (8 * g * g), z := 2 * a.y * a.z % p521 }

/-- Two points added. -/
def jacAdd (a b : Jac) : Jac :=
  if a.z = 0 then b
  else if b.z = 0 then a
  else
    let za := a.z * a.z % p521
    let zb := b.z * b.z % p521
    let ua := a.x * zb % p521
    let sa := a.y * b.z * zb % p521
    let h := subP (b.x * za) ua
    let r := subP (b.y * a.z * za) sa
    if h = 0 then (if r = 0 then jacDouble a else { x := 1, y := 1, z := 0 })
    else
      let hh := h * h % p521
      let v := ua * hh % p521
      let x := subP (r * r) (hh * h + 2 * v)
      { x := x, y := subP (r * subP v x) (sa * hh * h), z := h * a.z * b.z % p521 }

/-- A power modulo n, by the bits of the exponent from its `fuel`-th down. -/
def powMod (n b : Nat) : Nat → Nat → Nat
  | 0, _ => 1
  | fuel + 1, e =>
    let r := powMod n b fuel (e / 2)
    r * r % n * (if e % 2 = 1 then b else 1) % n

/-- u times one point and w times another, with their sum at hand, over `fuel` bits of each. -/
def jacTwo (a b ab : Jac) (u w : Nat) : Nat → Jac
  | 0 => { x := 1, y := 1, z := 0 }
  | fuel + 1 =>
    let r := jacDouble (jacTwo a b ab (u / 2) (w / 2) fuel)
    if u % 2 = 1 then jacAdd r (if w % 2 = 1 then ab else a) else if w % 2 = 1 then jacAdd r b else r

/-- Whether (r, s) is a signature of a 512-bit hash under the public key (x, y). -/
def ecdsaVerify (x y r s hash : Nat) : Bool :=
  if r = 0 || p521Order ≤ r || s = 0 || p521Order ≤ s || p521 ≤ x || p521 ≤ y
      || y * y % p521 != (x * x * x + 3 * (p521 - x) + p521B) % p521 then false
  else
    let i := powMod p521Order s 521 (p521Order - 2)
    let g : Jac := { x := p521X, y := p521Y, z := 1 }
    let q : Jac := { x := x, y := y, z := 1 }
    let a := jacTwo g q (jacAdd g q) (hash * i % p521Order) (r * i % p521Order) 521
    a.z != 0 && (r * a.z * a.z % p521 == a.x || (decide (r + p521Order < p521) && (r + p521Order) * a.z * a.z % p521 == a.x))

end Sys2Proof.Machine
end

