-- ==== Sys2Proof/Machine/Paged.lean ====
section
/-!
DEFINITION. Lists of machine parts, page tables and translation (R137 to R141, R498), the L2 lines behind paged memory
(R144, R152 to R155), protected lines (R269), a core's caches (R142), and reading and writing paged memory by virtual address.
-/

namespace Sys2Proof.Machine

/-- A list with each element changed by its place, counted from `i`. -/
def mapFrom {α β : Type} (f : Nat → α → β) : Nat → List α → List β
  | _, [] => []
  | i, x :: xs => f i x :: mapFrom f (i + 1) xs

/-- A list with its n-th element changed. -/
def listMod {α : Type} (f : α → α) : Nat → List α → List α
  | _, [] => []
  | 0, x :: xs => f x :: xs
  | n + 1, x :: xs => x :: listMod f n xs

def modGroup (s : State) (n : Nat) (f : Group → Group) : State := { s with groups := listMod f n s.groups }

def modTeam (s : State) (n : Nat) (f : Team → Team) : State := { s with teams := listMod f n s.teams }

def modVc (s : State) (n : Nat) (f : VChip → VChip) : State := { s with vchips := listMod f n s.vchips }

def modCore (s : State) (n : Nat) (f : Core → Core) : State := { s with cores := listMod f n s.cores }

def modSpan (s : State) (n : Nat) (f : Span → Span) : State := { s with spans := listMod f n s.spans }

def modEngine (s : State) (n : Nat) (f : Engine → Engine) : State := modCore s n fun c => { c with engine := f c.engine }

/-- Virtual chip slot v; a slot that does not exist reads as one not in use. -/
def vchip (s : State) (v : Nat) : VChip := (s.vchips[v]?).getD VChip.init

/-- Core n; a core that does not exist reads as one after reset. -/
def coreAt (s : State) (n : Nat) : Core := (s.cores[n]?).getD Core.init

/-- A virtual-chip counter advanced (R299): 0 under-reads, 1 corrected errors, 2 uncorrectable errors, 3 records dropped,
4 payload bytes sent, 5 received, 6 teams saved, 7 teams restarted. -/
def countVc (s : State) (v k n : Nat) : State :=
  modVc s v fun c => { c with counters := listMod (fun x => x + BitVec.ofNat 64 n) k c.counters }

/-- An interrupt vector of a virtual chip raised (R300). -/
def raise (s : State) (v n : Nat) : State := modVc s v fun c => { c with raised := c.raised ++ [n] }

/-- An event record to be written before the next clock. -/
def owe (s : State) (v type : Nat) (fs : List (Nat × Nat)) : State :=
  { s with owed := s.owed ++ [{ time := s.time, vc := v, type := type, fields := fs }] }

/-- Bits [hi:lo] of a register as a number. -/
def field (x : DWord) (hi lo : Nat) : Nat := x.toNat / 2 ^ lo % 2 ^ (hi + 1 - lo)

/-! ## Page-table entries (R138) -/

def leafP (e : DWord) : Bool := e.getLsbD 0
def leafW (e : DWord) : Bool := e.getLsbD 1
def leafX (e : DWord) : Bool := e.getLsbD 2
def leafMt (e : DWord) : Nat := field e 4 3
def leafH (e : DWord) : Bool := e.getLsbD 5
def leafBk (e : DWord) : Bool := e.getLsbD 6
def leafCa (e : DWord) : Bool := e.getLsbD 7
def leafPr (e : DWord) : Bool := e.getLsbD 8
def leafL (e : DWord) : Bool := e.getLsbD 9
def leafC64 (e : DWord) : Bool := e.getLsbD 10
def leafKey (e : DWord) : Nat := field e 17 12
def leafFrame (e : DWord) : Nat := field e 57 18 * 4096

/-- Whether bytes base .. base + size - 1 lie wholly within one valid range with the given H (R498). -/
def granted (c : VChip) (base size : Nat) (h : Bool) : Bool :=
  c.frames.any fun r => r.valid && r.h == h && decide (r.base ≤ base) && decide (base + size ≤ r.base + r.size)

/-- A pointer entry uses only P and FRAME (R138). The spec gives no consequence of another bit that is set in one: the walk then
finds no leaf, and the access takes the translation fault (DESIGN CHOICE, log 26). -/
def pointerOk (e : DWord) : Bool := e &&& 0xFC0000000003FFFE#64 == 0

/-- Where the bytes of a physical address lie now: a counted line's data, or memory with its dirty lines (R153). -/
def hbmKey (s : State) (pa : Nat) : Nat :=
  if (l2At s pa).counted.isSome then key .counted pa else hbmAt pa

/-- A page-table entry as the walker reads it (R137). What a poisoned entry does is not in the spec: the walker uses its bits as
they stand (DESIGN CHOICE, log 26). -/
def readEntry (s : State) (pa : Nat) : DWord := BitVec.ofNat 64 (readLe s (hbmKey s pa) 8)

/-- A leaf that a walk has found: the entry, the physical (or bank) address of its page, and the page size as a power of
two of 4 KiB. -/
structure Leaf where
  entry : DWord
  base : Nat
  log : Nat
  deriving DecidableEq, Repr

/-- The checks of a leaf at level 4 - n (R139, R498). Where the sixteen entries of a 64 KiB page differ, an access may take any of
them (R138): it takes the entry of the 4 KiB page that it names (DESIGN CHOICE, log 26). -/
def leafAt (s : State) (v : Nat) (va : Nat) (n : Nat) (e : DWord) : Option Leaf :=
  let c := vchip s v
  let size := 2 ^ (12 + 9 * n)
  let wide := n == 0 && leafC64 e
  let base := if wide then leafFrame e - va / 4096 % 16 * 4096 else leafFrame e
  let bytes := if wide then 65536 else size
  if n == 3 || (n != 0 && leafC64 e) || leafFrame e % size != 0 || (leafH e && leafBk e)
      || (leafKey e != 0 && !leafPr e) || (s.pkgStat == 2 && !leafH e) then none
  else if leafBk e then
    if base + bytes ≤ c.bankWays * 2 ^ 24 then some { entry := e, base := leafFrame e, log := 9 * n } else none
  else if granted c base bytes (leafH e) then some { entry := e, base := leafFrame e, log := 9 * n } else none

/-- The compute die of a core (R1). -/
def dieOf (core : Nat) : Nat := core / Config.dieCores

/-- The die whose L2 TLB and walkers serve accesses that no core makes, those of the host, the fabric and the device itself: that
of the virtual chip's first pier (DESIGN CHOICE, log 26). -/
def homeDie (s : State) (v : Nat) : Nat :=
  dieOf (2 * ((List.range 128).find? fun i => (vchip s v).piers.getLsbD i).getD 0)

/-- The held leaf that covers a page in a die, if any (R141). -/
def tlbFind (s : State) (v die page : Nat) : Option TlbEntry :=
  s.tlb.find? fun t => t.vc == v && t.die == die && t.table.isNone && t.page / 2 ^ t.log == page / 2 ^ t.log

/-- The held pointer entry of a table for a page, which maps 2^log pages (R141). -/
def tlbPointer (s : State) (v die page log table : Nat) : Option TlbEntry :=
  s.tlb.find? fun t => t.vc == v && t.die == die && t.table == some table && t.log == log && t.page / 2 ^ log == page / 2 ^ log

/-- The walk from a table at level 3 - n + 1 down, n from 3 to 0: the pointer entries on its way, and the leaf (R137, R139). A
pointer entry that is held is not read again (R141). -/
def walkFrom (s : State) (v die : Nat) (va : Nat) : Nat → Nat → List TlbEntry × Option Leaf
  | n, table =>
    if !granted (vchip s v) table 4096 false then ([], none)
    else
      let e := ((tlbPointer s v die (va / 4096) (9 * n) table).map fun t => t.entry).getD
        (readEntry s (table + va / 2 ^ (12 + 9 * n) % 512 * 8))
      if !leafP e || field e 63 58 != 0 || e.getLsbD 11 then ([], none)
      else if leafL e then ([], leafAt s v va n e)
      else
        match n with
        | 0 => ([], none)
        | m + 1 =>
          if pointerOk e then
            let r := walkFrom s v die va m (leafFrame e)
            ({ die := die, vc := v, page := va / 4096 / 2 ^ (9 * n) * 2 ^ (9 * n), log := 9 * n, entry := e, table := some table } :: r.1,
             r.2)
          else ([], none)

/-- The walk of an address from the level-1 table. -/
def walk (s : State) (v die a : Nat) : List TlbEntry × Option Leaf :=
  walkFrom s v die a 3 (field (vchip s v).ptroot 51 12 * 4096)

/-- The leaf of a virtual address: a held one, or the one that a walk finds. -/
def translate (s : State) (v : Nat) (va : DWord) (die : Nat := homeDie s v) : Option Leaf :=
  let a := va.toNat % 2 ^ 48
  match tlbFind s v die (a / 4096) with
  | some t => some { entry := t.entry, base := leafFrame t.entry, log := t.log }
  | none => (walk s v die a).2

/-- The physical (or bank) address of a virtual address under a leaf. -/
def leafAddr (l : Leaf) (va : DWord) : Nat := l.base + va.toNat % 2 ^ (12 + l.log)

/-- TLB entries that a test picks dropped, from the dies and from the L1 TLBs of their cores. -/
def dropTlb (s : State) (bad : TlbEntry → Bool) : State :=
  let gone (d : Nat) (k : TlbTag) : Bool :=
    s.tlb.any fun t => bad t && t.table.isNone && t.die == d && t.vc == k.vc && t.page == k.page && t.log == k.log
  { s with
    tlb := s.tlb.filter fun t => !bad t
    cores := mapFrom (fun n c => { c with tlb1 := c.tlb1.filter fun k => !gone (dieOf n) k }) 0 s.cores }

/-- The entry of a die that gives way when its TLB is full: the one held longest (DESIGN CHOICE, log 26). -/
def oldestOf (die : Nat) (ts : List TlbEntry) : Option TlbEntry := ts.reverse.find? fun t => t.die == die

/-- An entry held from now on in its die's TLB of 65,536 entries (R141). -/
def holdEntry (s : State) (e : TlbEntry) : State :=
  if s.tlb.contains e then s
  else
    let s1 :=
      if (s.tlb.countP fun t => t.die == e.die) < Config.l2TlbEntries then s
      else
        match oldestOf e.die s.tlb with
        | some o => dropTlb s fun t => t == o
        | none => s
    { s1 with tlb := e :: s1.tlb }

/-- The leaf of an access, and the pointer entries on the way to it, held from now on (R141). The spec says that they may be: the
model holds each until it is invalidated or gives way to another (DESIGN CHOICE, log 26). -/
def holdLeaf (s : State) (v : Nat) (va : DWord) (l : Leaf) (die : Nat := homeDie s v) : State :=
  let a := va.toNat % 2 ^ 48
  if (tlbFind s v die (a / 4096)).isSome then s
  else
    holdEntry ((walk s v die a).1.foldl holdEntry s)
      { die := die, vc := v, page := a / 4096 / 2 ^ l.log * 2 ^ l.log, log := l.log, entry := l.entry, table := none }

/-- What an access does, as its checks need it. -/
structure Acc where
  bytes : Nat
  write : Bool := false
  atomic : Bool := false
  /-- a waiting, consuming or filling form (R134) -/
  special : Bool := false
  /-- a counted fill with a count above 0 (R152) -/
  counted : Bool := false
  fetch : Bool := false
  deriving DecidableEq, Repr

/-- A key slot granted to a virtual chip and loaded (R269). -/
def slotUsable (s : State) (v slot : Nat) : Bool :=
  match s.keys[slot]? with
  | some k => k.granted == some v && k.key.isSome
  | none => false

/-- Whether a present leaf refuses an access (R139, R269). -/
def protectionFails (s : State) (v : Nat) (e : DWord) (a : Acc) : Bool :=
  (a.write && !leafW e) || (a.fetch && !leafX e)
  || (a.atomic && (leafH e || decide (2 ≤ leafMt e)))
  || (a.counted && leafMt e == 0 && !leafBk e && (!leafCa e || leafH e))
  || (leafPr e && ((vchip s v).protWays == 0 || !slotUsable s v (leafKey e)))

/-! ## Protected lines (R269) -/

/-- The context key of a slot; a slot without a key reads as zero and is never used (R269). -/
def contextKey (s : State) (slot : Nat) : BitVec 512 := ((s.keys[slot]?).bind fun k => k.key).getD 0

def slotVersion (s : State) (slot : Nat) : Nat := ((s.keys[slot]?).map fun k => k.version.toNat).getD 0

/-- The XTS tweak: physical address bits [51:7] joined with the slot version (R269). -/
def xtsTweak (pa ver : Nat) : List Byte := toLeBytes 16 (pa / 128 % 2 ^ 45 + ver * 2 ^ 45)

/-- The integrity tag: the low 64 bits of a GMAC over the ciphertext, the address and the version (R269). -/
def lineTag (s : State) (slot pa : Nat) (ct : List Byte) : DWord :=
  let ver := slotVersion s slot
  let t := gcmTag (subKey (contextKey s slot) "Eberi tag" ver) (List.replicate 12 0)
    (ct ++ toLeBytes 8 pa ++ toLeBytes 1 ver) []
  BitVec.ofNat 64 (leBytes (t.take 8))

/-- Bytes of a line with their poison copied from one place to another. -/
def copyLine (s : State) (src dst : Nat) : State :=
  let s1 := writeN s dst (readN s src 128)
  (List.range 16).foldl (fun t i => if s.poison.contains (src / 8 + i) then poisonUnit t (dst + 8 * i) else t) s1

/-- The poison of one line's units set on those of another as well. -/
def copyPoison (s : State) (src dst : Nat) : State :=
  (List.range 16).foldl (fun t i => if s.poison.contains (src / 8 + i) then poisonUnit t (dst + 8 * i) else t) s

/-- A protected line's plaintext sealed into memory, under the slot's current version (R269), where poisoned data stays poisoned
(R158); it stays in its way. -/
def sealLine (s : State) (pa slot : Nat) : State :=
  let base := pa / 128 * 128
  let ver := slotVersion s slot
  let ct := xtsEncrypt (subKey (contextKey s slot) "Eberi xts1" ver) (subKey (contextKey s slot) "Eberi xts2" ver)
    (xtsTweak base ver) (readN s (key .prot base) 128)
  let s1 := copyPoison (writeN s (hbmAt base) ct) (key .prot base) (hbmAt base)
  { s1 with tags := tput s1.tags (base / 128) (lineTag s1 slot base ct) }

/-- The plaintext of a protected line that has left its way. -/
def dropProt (s : State) (pa : Nat) : State :=
  let base := pa / 128 * 128
  setL2 (writeN s (key .prot base) (List.replicate 128 0)) pa { l2At s pa with prot := none, dirty := false }

/-! ## Counted lines (R152 to R155) -/

/-- A counted line's data taken to memory, with its poison; the line is ordinary from then on (R154, R155). -/
def settleCounted (s : State) (pa : Nat) : State :=
  let base := pa / 128 * 128
  let l := l2At s pa
  match l.counted with
  | none => s
  | some _ =>
    let s1 := copyLine s (key .counted base) (if l.prot.isSome then key .prot base else hbmAt base)
    let s2 := writeN s1 (key .counted base) (List.replicate 128 0)
    setL2 s2 pa { l2At s2 pa with counted := none, lowered := none, dirty := l.prot.isSome }

/-- A counted line written back with readers left: an under-read of the virtual chip in whose way it lay (R155). -/
def underRead (s : State) (pa : Nat) : State :=
  let l := l2At s pa
  match l.counted with
  | none => s
  | some rc =>
    let s1 := modVc (settleCounted s pa) l.vc fun c => { c with memUr := true }
    owe (countVc s1 l.vc 0 1) l.vc 5 [(9, rc.toNat), (16, pa / 128 * 128)]

/-- A tombstone that has ended (R153, R154). -/
def endTomb (s : State) (pa : Nat) : State :=
  if (l2At s pa).tomb then setL2 s pa { l2At s pa with tomb := false } else s

/-- A plain store or atomic ends a counted line or a tombstone; neither is recorded (R154). -/
def endCounting (s : State) (pa : Nat) : State := endTomb (settleCounted s pa) pa

/-! ## The ways of a slice (R143, R144) -/

/-- A line leaves its protected way: its count ends as an under-read, and its plaintext is sealed (R155, R269). -/
def leaveProt (s : State) (pa : Nat) : State :=
  match (l2At s pa).prot with
  | none => s
  | some slot =>
    let s1 := underRead s pa
    dropProt (if (l2At s1 pa).dirty then sealLine s1 pa slot.toNat else s1) pa

/-- A line displaced from its way: a counted line is written back, a tombstone's tag is reused, a protected line is sealed
(R153, R155, R269). -/
def evictLine (s : State) (pa : Nat) : State := leaveProt (endTomb (underRead s pa) pa) pa

/-- The lines that the ways of a virtual chip hold in the set of a line: protected ways hold the lines of PR pages, cache ways
counted lines and tombstones of others, and ordinary lines, of which the model keeps no list. -/
def waysUsed (s : State) (v pa : Nat) (prot : Bool) : List Nat :=
  (s.l2.filter fun e => e.2.vc == v && e.2.prot.isSome == prot && homeSlice (e.1 * 128) == homeSlice pa
    && homeSet (e.1 * 128) == homeSet pa).map fun e => e.1 * 128

/-- The ways of a virtual chip in every set, of either kind (R144). -/
def waysOf (s : State) (v : Nat) (prot : Bool) : Nat := if prot then (vchip s v).protWays else (vchip s v).cacheWays

/-- Lines of a set displaced, a free value says which, until no more than `room` are left (R144; log 9). -/
def displace (used : State → List Nat) (room : Nat) : Nat → State → State
  | 0, s => s
  | n + 1, s =>
    if (used s).length ≤ room then s
    else
      let x := draw s
      match (used s)[x.1.toNat % (used s).length]? with
      | some q => displace used room n (evictLine x.2 q)
      | none => s

/-- Room made for a line in the ways of a virtual chip: where they are full, lines of theirs give way (R144). -/
def makeRoom (s : State) (v pa : Nat) (prot : Bool) : State :=
  displace (fun s => (waysUsed s v pa prot).filter fun q => q != pa / 128 * 128) (waysOf s v prot - 1) s.l2.length s

/-- The ways of a virtual chip have changed: in every set, the lines that they have no room for leave them (R144). -/
def fitWays (s : State) (v : Nat) : State :=
  s.l2.foldl (fun s e =>
    [false, true].foldl (fun s prot =>
      displace (fun s => waysUsed s v (e.1 * 128) prot) (waysOf s v prot) s.l2.length s) s) s

/-- A line that a virtual chip reaches lies in one of its ways from then on, with its state (R144). -/
def moveLine (s : State) (v pa : Nat) : State :=
  let l := l2At s pa
  if plainL2 l || l.vc == v then s
  else
    let s1 := makeRoom s v pa l.prot.isSome
    setL2 s1 pa { l2At s1 pa with vc := v }

/-- A line's tag has failed (R269): UE is set, which raises its vector, and the error is counted and recorded (R160, R300). -/
def tagFailed (s : State) (v pa : Nat) : State :=
  let s1 := if (vchip s v).memUe then s else raise (modVc s v fun c => { c with memUe := true }) v 19
  owe (countVc s1 v 2 1) v 4 [(9, 1), (10, 5), (16, pa / 128 * 128 % 2 ^ 52)]

/-- A line decrypted from memory into a protected way, its poison with it (R158). A line whose tag fails is delivered poisoned
(R269). -/
def openLine (s : State) (v pa slot : Nat) : State :=
  let base := pa / 128 * 128
  let ver := slotVersion s slot
  let ct := readN s (hbmAt base) 128
  let pt := xtsDecrypt (subKey (contextKey s slot) "Eberi xts1" ver) (subKey (contextKey s slot) "Eberi xts2" ver)
    (xtsTweak base ver) ct
  let s1 := setL2 (copyPoison (writeN s (key .prot base) pt) (hbmAt base) (key .prot base)) pa
    { l2At s pa with prot := some (BitVec.ofNat 6 slot), vc := v }
  if tget s.tags (base / 128) == some (lineTag s slot base ct) then s1
  else tagFailed ((List.range 16).foldl (fun s i => poisonUnit s (key .prot (base + 8 * i))) s1) v pa

/-- A line of a PR page brought into a protected way under the page's slot (R146, R269). A counted line or a tombstone of a page
that is not PR leaves its cache way first, and a line that stands under another slot is sealed under that one and opened again
under the page's (DESIGN CHOICE, log 26: the spec does not say what a line reached under two slots holds). -/
def fillProt (s : State) (v pa slot : Nat) : State :=
  if (l2At s pa).prot == some (BitVec.ofNat 6 slot) then moveLine s v pa
  else openLine (makeRoom (evictLine s pa) v pa true) v pa slot

/-- Where a physical address of a leaf stands among the lines: host frames from 2^52 on. -/
def lineAddr (e : DWord) (pa : Nat) : Nat := if leafH e then 2 ^ 52 + pa else pa

/-- A leaf whose lines stand in no way that the model keeps: bank memory, and host memory that is not protected. -/
def looseLeaf (e : DWord) : Bool := leafBk e || (leafH e && !leafPr e)

/-- The key of a byte of paged memory under a leaf. -/
def pagedKey (s : State) (v : Nat) (e : DWord) (pa : Nat) : Nat :=
  if leafBk e then bankKey v pa
  else if leafH e && !leafPr e then key .host pa
  else if (l2At s (lineAddr e pa)).counted.isSome then key .counted (lineAddr e pa)
  else if leafPr e then key .prot (lineAddr e pa)
  else hbmAt pa

/-- The line of a paged access made ready: its leaf held, and the line in the ways that its page needs. A line of a PR page that is
reached through a page that is not PR leaves its protected way, sealed (R144, R269). -/
def readyLine (s : State) (v : Nat) (va : DWord) (l : Leaf) (die : Nat := homeDie s v) : State :=
  let pa := lineAddr l.entry (leafAddr l va)
  let s1 := holdLeaf s v va l die
  if leafBk l.entry then s1
  else if leafH l.entry && !leafPr l.entry then leaveProt s1 pa
  else if leafPr l.entry then fillProt s1 v pa (leafKey l.entry)
  else moveLine (leaveProt s1 pa) v pa

/-- A paged access's line made ready, if its address maps. -/
def ready (s : State) (v : Nat) (va : DWord) (die : Nat := homeDie s v) : State :=
  match translate s v va die with
  | none => s
  | some l => readyLine s v va l die

/-- A plain store of bytes within one line through a leaf (R154, R158). -/
def pagedStore (s : State) (v : Nat) (l : Leaf) (pa : Nat) (bs : List Byte) : State :=
  if looseLeaf l.entry then writeN s (pagedKey s v l.entry pa) bs
  else
    let a := lineAddr l.entry pa
    let s1 := endCounting s a
    let s2 := writeN s1 (pagedKey s1 v l.entry pa) bs
    if leafPr l.entry then setL2 s2 a { l2At s2 a with dirty := true } else s2

/-- A line of a page flushed: written back, counted or tombstone no longer, a dirty protected line sealed; nothing on bank, device
and strongly ordered pages (R155, R361). -/
def flushAt (s : State) (e : DWord) (pa : Nat) : State :=
  if 2 ≤ leafMt e || looseLeaf e then s
  else
    let s2 := endTomb (underRead s pa) pa
    match (l2At s2 pa).prot with
    | some slot =>
      if (l2At s2 pa).dirty then
        let s3 := sealLine s2 pa slot.toNat
        setL2 s3 pa { l2At s3 pa with dirty := false }
      else s2
    | none => s2

/-! ## A core's caches (R141, R142) -/

/-- A list of lines in sets, most recent first, once a line has been used: a line beyond the ways of its set gives way to it, of
those not kept the one used longest ago. Where every way is kept, the line is not brought in. The second part says that the line was
not there. -/
def useLine (keep : Nat → Bool) (n : Nat) (ls : List Nat) : List Nat × Bool :=
  let rest := ls.filter fun m => m != n
  let mine := rest.filter fun m => m % Config.l1Sets == n % Config.l1Sets
  let held := if mine.length < Config.l1Ways then n :: rest
    else match (mine.filter fun m => !keep m).getLast? with
      | some o => n :: rest.filter fun m => m != o
      | none => rest
  (held, !ls.contains n)

/-- A leaf used by a core's L1 TLB of 256 entries. -/
def useTlb (k : TlbTag) (ts : List TlbTag) : List TlbTag × Bool :=
  ((k :: ts.filter fun m => m != k).take Config.l1TlbEntries, !ts.contains k)

/-- A load that the L1 data cache serves: a normal page, whose lines it may hold, and not a protected one, whose plaintext lies in
protected ways alone (R140, R142, R269). -/
def cachedLoad (e : DWord) : Bool := leafMt e == 0 && !leafPr e

/-- The TLB tag of a leaf. -/
def tlbTag (v : Nat) (va : DWord) (l : Leaf) : TlbTag :=
  { vc := v, page := va.toNat % 2 ^ 48 / 4096 / 2 ^ l.log * 2 ^ l.log, log := l.log }

/-- The line, as its caches know it, of a physical or bank address under a leaf. -/
def cacheLine (v : Nat) (e : DWord) (pa : Nat) : Nat :=
  (if leafBk e then bankKey v pa else if leafH e then key .host pa else hbmAt pa) / 128

/-- The pieces of a range within 128-byte lines: address and length. -/
def linePieces : Nat → Nat → Nat → List (Nat × Nat)
  | 0, _, _ => []
  | fuel + 1, a, n =>
    if n = 0 then []
    else
      let k := min n (128 - a % 128)
      (a, k) :: linePieces fuel (a + k) (n - k)

/-- Whether a range of paged addresses passes translation and protection: 0, or the cause of the first failure. -/
def pagedCause (s : State) (v : Nat) (a n : Nat) (acc : Acc) : BitVec 8 :=
  (linePieces (n + 1) a n).foldl (fun c p =>
    if c != 0 then c
    else if p.1 ≥ 2 ^ 48 then 0x04
    else
      match translate s v (BitVec.ofNat 64 p.1) with
      | none => 0x05
      | some l => if protectionFails s v l.entry acc then 0x06 else 0) 0

/-- Bytes read at a paged address: the bytes and whether any is poisoned. -/
def readPiece (s : State) (v : Nat) (a n : Nat) : State × List Byte × Bool :=
  match translate s v (BitVec.ofNat 64 a) with
  | none => (s, List.replicate n 0, true)
  | some l =>
    let s1 := readyLine s v (BitVec.ofNat 64 a) l
    let k := pagedKey s1 v l.entry (leafAddr l (BitVec.ofNat 64 a))
    (s1, readN s1 k n, poisonedAt s1 k n)

/-- A range read that has passed its checks. -/
def pagedRead (s : State) (v a n : Nat) : State × List Byte × Bool :=
  (linePieces (n + 1) a n).foldl (fun r p =>
    let q := readPiece r.1 v p.1 p.2
    (q.1, r.2.1 ++ q.2.1, r.2.2 || q.2.2)) (s, [], false)

/-- Bytes of a range written that has passed its checks. -/
def pagedWrite : Nat → State → Nat → Nat → List Byte → State
  | 0, s, _, _, _ => s
  | fuel + 1, s, v, a, bs =>
    if bs.isEmpty then s
    else
      let k := min bs.length (128 - a % 128)
      let s1 :=
        match translate s v (BitVec.ofNat 64 a) with
        | none => s
        | some l =>
          pagedStore (readyLine s v (BitVec.ofNat 64 a) l) v l (leafAddr l (BitVec.ofNat 64 a)) (bs.take k)
      pagedWrite fuel s1 v (a + k) (bs.drop k)

/-- A range read by the device itself, with whether any of it is poisoned: none if it fails a check. -/
def deviceLoad (s : State) (v a n : Nat) : Option (State × List Byte × Bool) :=
  if pagedCause s v a n { bytes := n } != 0 then none else some (pagedRead s v a n)

/-- A range read by the device itself: none if it fails a check or is poisoned (R159, R281). -/
def deviceRead (s : State) (v a n : Nat) : Option (State × List Byte) :=
  match deviceLoad s v a n with
  | some r => if r.2.2 then none else some (r.1, r.2.1)
  | none => none

/-- A range written by the device itself: none if it fails a check, and then nothing is written. -/
def deviceWrite (s : State) (v a : Nat) (bs : List Byte) : Option State :=
  if pagedCause s v a bs.length { bytes := bs.length, write := true } != 0 then none
  else some (pagedWrite (bs.length + 1) s v a bs)

end Sys2Proof.Machine
end

