-- ==== Sys2Proof/Machine/Events.lean ====
section
/-!
DEFINITION. Names of places within a virtual chip, per-bay counters (R298, R299), event records and their streams
(R292 to R295), and the records of R155, R158 and R269.
-/

namespace Sys2Proof.Machine

/-- Set bits of a pier mask below pier n. -/
def piersBelow (m : BitVec 128) (n : Nat) : Nat := ((List.range n).filter fun i => m.getLsbD i).length

/-- `%core` of a package core: cores 2k and 2k + 1 form the virtual chip's pier k (R26). -/
def vcCore (c : VChip) (core : Nat) : Nat := 2 * piersBelow c.piers (core / 2) + core % 2

/-- Piers of a virtual chip, as package piers in order. -/
def vcPiers (c : VChip) : List Nat := (List.range 128).filter fun i => c.piers.getLsbD i

/-- Package core of the virtual chip's core n. -/
def pkgCore (c : VChip) (n : Nat) : Option Nat := ((vcPiers c)[n / 2]?).map fun p => 2 * p + n % 2

/-- The guest of a virtual chip. -/
def guestOf (s : State) (v : Nat) : Guest := (s.guests[(vchip s v).guest]?).getD Guest.init

/-- Fields of a VCN entry (R255). -/
def vcnV (e : DWord) : Bool := e.getLsbD 63
def vcnEn (e : DWord) : Bool := e.getLsbD 62
def vcnKs (e : DWord) : Nat := field e 61 54
def vcnSlot (e : DWord) : Nat := field e 53 50
def vcnPkg (e : DWord) : Nat := field e 49 40

/-- The entry of a guest for a VCN. -/
def vcnEntry (g : Guest) (n : Nat) : DWord := (tget g.vcns n).getD 0

/-- A virtual chip's own VCN: the one whose entry names this package and the virtual chip's slot (R267). -/
def ownVcn (s : State) (v : Nat) : Nat :=
  match (guestOf s v).vcns.find? fun e => vcnV e.2 && vcnPkg e.2 == s.pkg && vcnSlot e.2 == v with
  | some e => e.1
  | none => (Config.unnamedVcn v).toNat

/-- Virtual chips of a guest on this package. -/
def guestChips (s : State) (g : Nat) : List Nat :=
  (List.range s.vchips.length).filter fun v => (vchip s v).used && (vchip s v).guest == g

/-- The virtual chips that a guest holds, by package and slot: those in use on this package, and those on other packages that its
VCN table names (R26; log 27). -/
def podChips (s : State) (g : Nat) : List (Nat × Nat) :=
  let named := (((s.guests[g]?).getD Guest.init).vcns.filterMap fun e =>
    if vcnV e.2 && vcnPkg e.2 != s.pkg then some (vcnPkg e.2, vcnSlot e.2) else none).eraseDups
  (guestChips s g).map (fun v => (s.pkg, v)) ++ named

/-- Grid linear index of a team (R19). -/
def linearIndex (t : Team) : Nat := t.x.toNat + t.nx.toNat * (t.y.toNat + t.ny.toNat * t.z.toNat)

/-! ## Per-bay counters (R298) -/

/-- Key of counter j of a bay of a virtual chip's core. -/
def bayKey (core bay j : Nat) : Nat := core * 64 + bay * 8 + j

/-- A counter advanced if it is enabled for the event: OVF is set when it wraps. -/
def bumpCounter (id n : Nat) (x : DWord × DWord) : DWord × DWord :=
  if x.1.getLsbD 12 && field x.1 11 0 == id then
    (if x.2.toNat + n ≥ 2 ^ 64 then x.1 ||| 0x2000 else x.1, x.2 + BitVec.ofNat 64 n)
  else x

/-- An event counted in a bay of a package core (R298, R299). -/
def countBay (s : State) (v core bay id n : Nat) : State :=
  modVc s v fun c =>
    let k := bayKey (vcCore c core) bay 0
    { c with bayCounters := c.bayCounters.map fun e => if e.1 / 8 == k / 8 then (e.1, bumpCounter id n e.2) else e }

/-! ## Event records -/

/-- A 32-byte record: TIME, TYPE and further fields by byte offset (R295). -/
def recordBytes (time : DWord) (type : Nat) (fs : List (Nat × Nat)) : List Byte :=
  toLeBytes 32 (fs.foldl (fun n f => n + f.2 * 2 ^ (8 * f.1)) (time.toNat + type * 2 ^ 64))

def streamCount (t : Stream) : Nat := 2 ^ t.size.toNat

/-- No room for a record: `EVTAIL` - `EVHEAD` equals the count (R294). -/
def streamFull (t : Stream) : Bool := (t.tail - t.head).toNat == streamCount t

/-- A ring that has become half full with IE set, from one state of it to the next (R292). -/
def halfFull (t u : Stream) : Bool :=
  t.ctl.getLsbD 1 && decide ((t.tail - t.head).toNat < streamCount t / 2) && decide (streamCount t / 2 ≤ (u.tail - u.head).toNat)

/-- Type bit t of `EVCTL` (R292). The mask of 16 bits has none for type 16, the clock step, which the package stream receives
(R295): it is never masked (DEDUCED, log 22). -/
def typeOn (t : Stream) (type : Nat) : Bool := type == 16 || (decide (1 ≤ type) && decide (type ≤ 15) && t.ctl.getLsbD (32 + type))

/-- Where the next record goes (R293). -/
def streamSlot (t : Stream) : Nat := field t.base 47 5 * 32 + t.tail.toNat % streamCount t * 32

def streamDrop (t : Stream) : Stream := { t with drop := t.drop + 1, sinceSummary := t.sinceSummary + 1 }

/-- A record put into a stream through a writer of its memory; none if it cannot be written. -/
def streamPut (t : Stream) (w : Nat → List Byte → Option State) (r : List Byte) : Option (State × Stream) :=
  if streamFull t then none else (w (streamSlot t) r).map fun s => (s, { t with tail := t.tail + 1 })

/-- A record with the drop summary that comes before it (R294); the last part says whether the record itself was written. -/
def streamWrite (s : State) (time : DWord) (t : Stream) (w : State → Nat → List Byte → Option State) (r : List Byte) : State × Stream × Bool :=
  let a :=
    if t.sinceSummary == 0 || !typeOn t 15 then (s, t)
    else
      match streamPut t (w s) (recordBytes time 15 [(12, t.sinceSummary % 2 ^ 32)]) with
      | some q => (q.1, { q.2 with sinceSummary := 0 })
      | none => (s, t)
  match streamPut a.2 (w a.1) r with
  | some q => (q.1, q.2, true)
  | none => (a.1, streamDrop a.2, false)

/-- A record to the package stream, whose ring lies at an HBM physical address (R295; log 3); a ring that becomes half full raises
vector 1 of function 0 (R301). -/
def pkgRecord (s : State) (time : DWord) (type : Nat) (r : List Byte) : State :=
  if !s.pkgStream.ctl.getLsbD 0 || !typeOn s.pkgStream type then s
  else
    let q := streamWrite s time s.pkgStream (fun s a bs => some (writeN s (hbmAt a) bs)) r
    { q.1 with
      pkgStream := q.2.1
      raised0 := if halfFull s.pkgStream q.2.1 then q.1.raised0 ++ [1] else q.1.raised0 }

/-- An event record of a virtual chip with its time (R293 to R295). -/
def eventAt (s : State) (time : DWord) (v type : Nat) (fs : List (Nat × Nat)) : State :=
  let t := (vchip s v).stream
  if !typeOn t type then s
  else if !t.ctl.getLsbD 0 then pkgRecord s time type (recordBytes time type fs)
  else
    let q := streamWrite s time t (fun s a bs => deviceWrite s v a bs) (recordBytes time type fs)
    let s1 := modVc q.1 v fun c => { c with stream := q.2.1 }
    let s2 := if q.2.2 then s1 else countVc s1 v 3 1
    if halfFull t q.2.1 then raise s2 v 18 else s2

/-- An event record of a virtual chip. -/
def event (s : State) (v type : Nat) (fs : List (Nat × Nat)) : State := eventAt s s.time v type fs

/-- An event record of the package itself: types 14 and 16 (R295). -/
def pkgEvent (s : State) (type : Nat) (fs : List (Nat × Nat)) : State := pkgRecord s s.time type (recordBytes s.time type fs)

/-- Fields of a PC sample record (R296). -/
def sampleFields (s : State) (g : Group) (t : Team) (reason : Nat) (pc : DWord) : List (Nat × Nat) :=
  [(9, reason % 16 + g.bay % 8 * 16), (10, ownVcn s t.vc), (12, vcCore (vchip s t.vc) g.core % 256), (13, g.num % 256),
   (14, t.kernel.index % 65536), (16, pc.toNat), (24, linearIndex t % 2 ^ 48),
   (30, field t.launch 63 60 * 4096 + field t.launch 11 0)]

/-- The records that are owed written, in their order. What writing them owes is written at the next clock. -/
def payOwed (s : State) : State :=
  s.owed.foldl (fun s o => eventAt s o.time o.vc o.type o.fields) { s with owed := [] }

end Sys2Proof.Machine
end

