-- ==== Sys2Proof/Machine/Operands.lean ====
section
/-!
DEFINITION. The operand forms: which registers each instruction reads and writes, its predicate, and its major opcode
(R306, R309 to R312, R330 to R341). An event names none; its major opcode is given as 0x80, as that of the compact forms.
-/

namespace Sys2Proof.Machine

/-- Registers that an instruction reads (sr, vr, pr) and writes (sw, vw, pw): scalar, vector and predicate. -/
structure Uses where
  sr : List Nat := []
  sw : List Nat := []
  vr : List Nat := []
  vw : List Nat := []
  pr : List Nat := []
  pw : List Nat := []
  deriving DecidableEq, Repr

/-- The registers of a block of n (R203, R241). -/
def block (a : BitVec 6) (n : Nat) : List Nat := (List.range n).map fun i => a.toNat + i

/-- The registers of an instruction. The token register of a `CPY` is left out: naming it waits for nothing (R194). -/
def uses : Instr → Uses
  | .addCompact s d => { vr := [s.toNat, d.toNat], vw := [d.toNat] }
  | .addCompactImm _ d => { vr := [d.toNat], vw := [d.toNat] }
  | .subCompact s d => { vr := [s.toNat, d.toNat], vw := [d.toNat] }
  | .subCompactImm _ d => { vr := [d.toNat], vw := [d.toNat] }
  | .andCompact s d => { vr := [s.toNat, d.toNat], vw := [d.toNat] }
  | .andCompactImm _ d => { vr := [d.toNat], vw := [d.toNat] }
  | .orCompact s d => { vr := [s.toNat, d.toNat], vw := [d.toNat] }
  | .orCompactImm _ d => { vr := [d.toNat], vw := [d.toNat] }
  | .xorCompact s d => { vr := [s.toNat, d.toNat], vw := [d.toNat] }
  | .xorCompactImm _ d => { vr := [d.toNat], vw := [d.toNat] }
  | .shlCompact s d => { vr := [s.toNat, d.toNat], vw := [d.toNat] }
  | .shlCompactImm _ d => { vr := [d.toNat], vw := [d.toNat] }
  | .shrCompact s d => { vr := [s.toNat, d.toNat], vw := [d.toNat] }
  | .shrCompactImm _ d => { vr := [d.toNat], vw := [d.toNat] }
  | .movCompact s d => { vr := [s.toNat], vw := [d.toNat] }
  | .movCompactImm _ d => { vw := [d.toNat] }
  | .faddCompact s d => { vr := [s.toNat, d.toNat], vw := [d.toNat] }
  | .fmulCompact s d => { vr := [s.toNat, d.toNat], vw := [d.toNat] }
  | .fsubCompact s d => { vr := [s.toNat, d.toNat], vw := [d.toNat] }
  | .fmaxCompact s d => { vr := [s.toNat, d.toNat], vw := [d.toNat] }
  | .fminCompact s d => { vr := [s.toNat, d.toNat], vw := [d.toNat] }
  | .mulCompact s d => { vr := [s.toNat, d.toNat], vw := [d.toNat] }
  | .minI32Compact s d => { vr := [s.toNat, d.toNat], vw := [d.toNat] }
  | .maxI32Compact s d => { vr := [s.toNat, d.toNat], vw := [d.toNat] }
  | .sadd b a d => { sr := [a.toNat, b.toNat], sw := [d.toNat] }
  | .ssub b a d => { sr := [a.toNat, b.toNat], sw := [d.toNat] }
  | .smul _ b a d => { sr := [a.toNat, b.toNat], sw := [d.toNat] }
  | .sand b a d => { sr := [a.toNat, b.toNat], sw := [d.toNat] }
  | .sor b a d => { sr := [a.toNat, b.toNat], sw := [d.toNat] }
  | .sxor b a d => { sr := [a.toNat, b.toNat], sw := [d.toNat] }
  | .sandn b a d => { sr := [a.toNat, b.toNat], sw := [d.toNat] }
  | .sshl b a d => { sr := [a.toNat, b.toNat], sw := [d.toNat] }
  | .sshr b a d => { sr := [a.toNat, b.toNat], sw := [d.toNat] }
  | .ssra b a d => { sr := [a.toNat, b.toNat], sw := [d.toNat] }
  | .smin _ b a d => { sr := [a.toNat, b.toNat], sw := [d.toNat] }
  | .smax _ b a d => { sr := [a.toNat, b.toNat], sw := [d.toNat] }
  | .saddi _ a d => { sr := [a.toNat], sw := [d.toNat] }
  | .smovi _ _ d => { sr := [d.toNat], sw := [d.toNat] }
  | .scmp _ b a d => { sr := [a.toNat, b.toNat], sw := [d.toNat] }
  | .sld _ _ _ _ a d => { sr := [a.toNat], sw := [d.toNat] }
  | .sst _ _ _ _ a d => { sr := [a.toNat, d.toNat] }
  | .srd _ d => { sw := [d.toNat] }
  | .swr _ a => { sr := [a.toNat] }
  | .slane _ a d => { sw := [d.toNat], vr := [a.toNat] }
  | .sbra _ a _ => { sr := [a.toNat] }
  | .satom o _ _ _ a d => { sr := if o = 9#4 then [a.toNat, d.toNat, d.toNat + 1] else [a.toNat, d.toNat], sw := [d.toNat] }
  | .add _ _ b a d => { vr := [a.toNat, b.toNat], vw := [d.toNat] }
  | .sub _ _ b a d => { vr := [a.toNat, b.toNat], vw := [d.toNat] }
  | .mul _ _ b a d => { vr := [a.toNat, b.toNat], vw := [d.toNat] }
  | .mulhi _ _ _ b a d => { vr := [a.toNat, b.toNat], vw := [d.toNat] }
  | .mad _ _ b a d => { vr := [a.toNat, b.toNat, d.toNat], vw := [d.toNat] }
  | .and _ _ b a d => { vr := [a.toNat, b.toNat], vw := [d.toNat] }
  | .or _ _ b a d => { vr := [a.toNat, b.toNat], vw := [d.toNat] }
  | .xor _ _ b a d => { vr := [a.toNat, b.toNat], vw := [d.toNat] }
  | .andn _ _ b a d => { vr := [a.toNat, b.toNat], vw := [d.toNat] }
  | .shl _ _ b a d => { vr := [a.toNat, b.toNat], vw := [d.toNat] }
  | .shr _ _ b a d => { vr := [a.toNat, b.toNat], vw := [d.toNat] }
  | .sra _ _ b a d => { vr := [a.toNat, b.toNat], vw := [d.toNat] }
  | .min _ _ _ b a d => { vr := [a.toNat, b.toNat], vw := [d.toNat] }
  | .max _ _ _ b a d => { vr := [a.toNat, b.toNat], vw := [d.toNat] }
  | .abs _ _ a d => { vr := [a.toNat], vw := [d.toNat] }
  | .neg _ _ a d => { vr := [a.toNat], vw := [d.toNat] }
  | .clz _ _ a d => { vr := [a.toNat], vw := [d.toNat] }
  | .popc _ _ a d => { vr := [a.toNat], vw := [d.toNat] }
  | .brev _ _ a d => { vr := [a.toNat], vw := [d.toNat] }
  | .addi _ _ a d => { vr := [a.toNat], vw := [d.toNat] }
  | .shli _ _ a d => { vr := [a.toNat], vw := [d.toNat] }
  | .shri _ _ a d => { vr := [a.toNat], vw := [d.toNat] }
  | .movs _ b d => { sr := [b.toNat], vw := [d.toNat] }
  | .mov _ _ a d => { vr := [a.toNat], vw := [d.toNat] }
  | .sel _ _ b a d => { vr := [a.toNat, b.toNat], vw := [d.toNat] }
  | .cmp _ _ _ b a p => { vr := [a.toNat, b.toNat], pw := [p.toNat] }
  | .cmpn _ _ _ b a p => { vr := [a.toNat, b.toNat], pw := [p.toNat] }
  | .cvt _ _ _ a d => { vr := [a.toNat], vw := [d.toNat] }
  | .plane f _ _ _ a d => { vr := if f = 0#1 then [a.toNat] else [a.toNat, d.toNat], vw := [d.toNat] }
  | .lrd _ i d => { vw := if i = 0x04A#9 then [d.toNat, d.toNat + 1] else [d.toNat] }
  | .pand _ _ b a d => { pr := [a.toNat, b.toNat], pw := [d.toNat] }
  | .por _ _ b a d => { pr := [a.toNat, b.toNat], pw := [d.toNat] }
  | .pnot _ _ a d => { pr := [a.toNat], pw := [d.toNat] }
  | .bfe _ _ _ b a d => { vr := [a.toNat, b.toNat], vw := [d.toNat] }
  | .bfi _ _ b a d => { vr := [a.toNat, b.toNat, d.toNat], vw := [d.toNat] }
  | .dot4 _ _ _ b a d => { vr := [a.toNat, b.toNat, d.toNat], vw := [d.toNat] }
  | .fadd _ _ b a d => { vr := [a.toNat, b.toNat], vw := [d.toNat] }
  | .fsub _ _ b a d => { vr := [a.toNat, b.toNat], vw := [d.toNat] }
  | .fmul _ _ b a d => { vr := [a.toNat, b.toNat], vw := [d.toNat] }
  | .ffma _ _ b a d => { vr := [a.toNat, b.toNat, d.toNat], vw := [d.toNat] }
  | .fmin _ _ b a d => { vr := [a.toNat, b.toNat], vw := [d.toNat] }
  | .fmax _ _ b a d => { vr := [a.toNat, b.toNat], vw := [d.toNat] }
  | .fcmp _ _ _ b a p => { vr := [a.toNat, b.toNat], pw := [p.toNat] }
  | .frcp _ _ a d => { vr := [a.toNat], vw := [d.toNat] }
  | .frsq _ _ a d => { vr := [a.toNat], vw := [d.toNat] }
  | .fsqrt _ _ a d => { vr := [a.toNat], vw := [d.toNat] }
  | .fdiv _ _ b a d => { vr := [a.toNat, b.toNat], vw := [d.toNat] }
  | .fexp2 _ _ a d => { vr := [a.toNat], vw := [d.toNat] }
  | .flog2 _ _ a d => { vr := [a.toNat], vw := [d.toNat] }
  | .fsin _ _ a d => { vr := [a.toNat], vw := [d.toNat] }
  | .fcos _ _ a d => { vr := [a.toNat], vw := [d.toNat] }
  | .fcvt _ _ _ a d => { vr := [a.toNat], vw := [d.toNat] }
  | .ncvt u _ _ _ _ a d => { vr := if u = 0#1 then [a.toNat, d.toNat] else [a.toNat], vw := [d.toNat] }
  | .icvtF32ToInt _ _ _ _ a d => { vr := [a.toNat], vw := [d.toNat] }
  | .icvtIntToF32 _ _ _ a d => { vr := [a.toNat], vw := [d.toNat] }
  | .fclass _ _ a d => { vr := [a.toNat], vw := [d.toNat] }
  | .fscl _ _ b a d => { vr := [a.toNat, b.toNat], vw := [d.toNat] }
  | .fabs _ _ a d => { vr := [a.toNat], vw := [d.toNat] }
  | .fneg _ _ a d => { vr := [a.toNat], vw := [d.toNat] }
  | .fcpys _ _ b a d => { vr := [a.toNat, b.toNat], vw := [d.toNat] }
  | .frnd _ _ _ a d => { vr := [a.toNat], vw := [d.toNat] }
  | .dadd _ _ b a d => { vr := [a.toNat, a.toNat + 1, b.toNat, b.toNat + 1], vw := [d.toNat, d.toNat + 1] }
  | .dsub _ _ b a d => { vr := [a.toNat, a.toNat + 1, b.toNat, b.toNat + 1], vw := [d.toNat, d.toNat + 1] }
  | .dmul _ _ b a d => { vr := [a.toNat, a.toNat + 1, b.toNat, b.toNat + 1], vw := [d.toNat, d.toNat + 1] }
  | .dfma _ _ b a d => { vr := [a.toNat, a.toNat + 1, b.toNat, b.toNat + 1, d.toNat, d.toNat + 1], vw := [d.toNat, d.toNat + 1] }
  | .ddiv _ _ b a d => { vr := [a.toNat, a.toNat + 1, b.toNat, b.toNat + 1], vw := [d.toNat, d.toNat + 1] }
  | .dsqrt _ _ a d => { vr := [a.toNat, a.toNat + 1], vw := [d.toNat, d.toNat + 1] }
  | .dcvt s _ _ a d => if s = 0#1 then { vr := [a.toNat, a.toNat + 1], vw := [d.toNat] } else { vr := [a.toNat], vw := [d.toNat, d.toNat + 1] }
  | .shfl _ b a d => { vr := [a.toNat, b.toNat], vw := [d.toNat] }
  | .vote _ a d => { pr := [a.toNat], pw := [d.toNat] }
  | .voteBallot a d => { sw := [d.toNat], pr := [a.toNat] }
  | .redux _ _ a d => { vr := [a.toNat], vw := [d.toNat] }
  | .scan _ _ _ a d => { vr := [a.toNat], vw := [d.toNat] }
  | .matchLanes _ a d => { vr := [a.toNat], vw := [d.toNat] }
  | .perm _ _ b a d => { vr := [a.toNat, b.toNat, d.toNat], vw := [d.toNat] }
  | .elect d => { pw := [d.toNat] }
  | .gsync => {}
  | .bra _ _ _ => {}
  | .jmp a => { sr := [a.toNat] }
  | .call _ _ _ => {}
  | .callv a b => { sr := [b.toNat], vr := [a.toNat] }
  | .ret _ _ => {}
  | .exit _ _ => {}
  | .refill _ _ => {}
  | .nop _ _ => {}
  | .yield _ _ => {}
  | .sleep _ _ _ => {}
  | .trap _ _ _ => {}
  | .brk _ _ _ => {}
  | .ld f _ a b d => { sr := [b.toNat], vr := [a.toNat], vw := if f.getLsbD 0 then [d.toNat, d.toNat + 1] else [d.toNat] }
  | .st f _ a b d => { sr := [b.toNat], vr := if f = 1#2 then [a.toNat, d.toNat, d.toNat + 1] else [a.toNat, d.toNat] }
  | .ldw _ a b d => { sr := [b.toNat], vr := [a.toNat], vw := [d.toNat] }
  | .ldc _ a b d => { sr := [b.toNat], vr := [a.toNat], vw := [d.toNat] }
  | .ldq _ a b d => { sr := [b.toNat], vr := [a.toNat], vw := [d.toNat] }
  | .ldqw _ a b d => { sr := [b.toNat], vr := [a.toNat], vw := [d.toNat] }
  | .stf _ a b d => { sr := [b.toNat], vr := [a.toNat, d.toNat] }
  | .ste _ a b d => { sr := [b.toNat], vr := [a.toNat, d.toNat] }
  | .stq _ a b d => { sr := [b.toNat], vr := [a.toNat, d.toNat] }
  | .atom _ _ a b d => { sr := [b.toNat], vr := [a.toNat, d.toNat], vw := [d.toNat] }
  | .atomb _ _ a b d => { sr := [b.toNat], vr := [a.toNat, d.toNat], vw := [d.toNat] }
  | .atomcCas _ a b d => { sr := [b.toNat], vr := [a.toNat, d.toNat, d.toNat + 1], vw := [d.toNat] }
  | .atomcMinN32 _ a b d => { sr := [b.toNat], vr := [a.toNat, d.toNat], vw := [d.toNat] }
  | .atomcMaxN32 _ a b d => { sr := [b.toNat], vr := [a.toNat, d.toNat], vw := [d.toNat] }
  | .stc _ a b d => { sr := [b.toNat], vr := [a.toNat, d.toNat] }
  | .fence _ _ => {}
  | .pref a b => { sr := [b.toNat], vr := [a.toNat] }
  | .cflush a b => { sr := [b.toNat], vr := [a.toNat] }
  | .cpyIn _ b a _ => { sr := [a.toNat, b.toNat] }
  | .cpyOut _ b a _ => { sr := [a.toNat, b.toNat] }
  | .cpyLocal _ b a _ => { sr := [a.toNat, b.toNat] }
  | .cseal => {}
  | .mma _ a => { sr := block a 8 }
  | .mrels _ => {}
  | .epi _ a => { sr := block a 8 }
  | .mstat _ t => { sw := [t.toNat] }
  | .bar _ => {}
  | .bara _ => {}
  | .barw _ => {}
  | .barx _ => {}
  | .spanj => {}
  | .spanx => {}
  | .spanb => {}
  | .psend _ a _ t => { sr := block a 3, sw := [t.toNat] }
  | .pput _ a _ d => { sr := [a.toNat], vr := [d.toNat] }
  | .pget _ a _ d => { sr := [a.toNat], vw := [d.toNat] }
  | .pmcast _ a _ t => { sr := block a 3, sw := [t.toNat] }
  | .parrv _ a _ => { sr := block a 4 }
  | .phint _ => {}
  | .precv _ a => { sr := block a 3 }
  | .pfence _ => {}
  | .patom _ a _ t => { sr := block a 4, sw := [t.toNat] }
  | .ppool _ a _ t => { sr := block a 4, sw := [t.toNat] }
  | .evt => {}
  | .capq _ _ t => { sw := [t.toNat] }
  | .registerWrite _ _ _ => {}
  | .lqtailWrite _ _ _ => {}
  | .queueEnable _ _ _ => {}
  | .queueDisable _ _ _ => {}
  | .launchRecordRead _ _ => {}
  | .launchAccept _ _ => {}
  | .launchComplete _ _ => {}
  | .dispatchTeam _ => {}
  | .teamRetirement _ => {}
  | .spanDetachment _ => {}
  | .forwardProgressInterval _ => {}
  | .saveComplete _ => {}
  | .teamRestart _ => {}
  | .vacate _ => {}
  | .returnPiers _ => {}
  | .vacateComplete _ => {}
  | .tlbinv _ _ => {}
  | .tlbInvalidateComplete _ => {}
  | .hostAccess _ _ _ => {}
  | .regroup _ _ => {}
  | .waitCountBoost _ _ => {}
  | .sleepExpiry _ _ => {}
  | .loadDataLand _ => {}
  | .emulationComplete _ => {}
  | .copyLineFill _ => {}
  | .copyOutLineWrite _ => {}
  | .batchComplete _ => {}
  | .mmaStart _ => {}
  | .mmaComplete _ => {}
  | .epilogueJobStart _ => {}
  | .epilogueJobComplete _ => {}
  | .mrelsFree _ => {}
  | .slotStart => {}
  | .slotEnd => {}
  | .writeFlit _ _ => {}
  | .getRequest _ _ => {}
  | .getResponse _ _ => {}
  | .atomicRequest _ _ => {}
  | .atomicResponse _ _ => {}
  | .poolRequest _ _ => {}
  | .poolResponse _ _ => {}
  | .acknowledgement _ _ => {}
  | .hint _ _ => {}
  | .completion _ _ => {}
  | .tagFlit _ _ => {}
  | .relayedFlit _ _ => {}
  | .flitDiscard _ _ => {}
  | .ackTimeout _ _ => {}
  | .duplicateSetExpiry _ _ _ => {}
  | .flitDrop _ => {}
  | .lossOfLight _ _ => {}
  | .create => {}
  | .destroy => {}
  | .ways => {}
  | .guest => {}
  | .abutmentWrite => {}
  | .abutmentRewrite => {}
  | .keySlotGrant => {}
  | .keySlotRevokeSeal => {}
  | .keySlotRevokeDiscard => {}
  | .allowList => {}
  | .features => {}
  | .linkKeySlots => {}
  | .frameRange => {}
  | .hvCommandComplete => {}
  | .getVersion _ => {}
  | .getCapabilities _ => {}
  | .negotiateAlgorithms _ => {}
  | .getDigests _ => {}
  | .getCertificate _ => {}
  | .challenge _ => {}
  | .getMeasurements _ _ => {}
  | .keyExchange _ => {}
  | .finish _ => {}
  | .endSession _ => {}
  | .setKeyGroup _ _ => {}
  | .setKeyContext _ _ _ => {}
  | .setKeyStream _ _ _ => {}
  | .ingressWrite _ _ _ => {}
  | .ingressRecordVerify _ _ => {}
  | .hostCounterRead _ _ => {}
  | .powerGood _ => {}
  | .trainingComplete _ _ => {}
  | .trapRecordWrite _ => {}
  | .cmdResume _ => {}
  | .cmdEnd _ => {}
  | .eventStreamEnable _ _ => {}
  | .pcSample _ _ => {}
  | .clockStep _ => {}
  | .readbackRead => {}
  | .readbackWrite => {}
  | .laserModuleReenable => {}
  | .illegalInstruction => {}
  | .tdispInterfaceRequest _ _ => {}

/-- The predicate that gates an instruction's lanes: its negation and its register (R311). `SEL` selects and gates nothing (R449). -/
def guard? : Instr → Option (BitVec 1 × BitVec 3)
  | .addCompact _ _ => none
  | .addCompactImm _ _ => none
  | .subCompact _ _ => none
  | .subCompactImm _ _ => none
  | .andCompact _ _ => none
  | .andCompactImm _ _ => none
  | .orCompact _ _ => none
  | .orCompactImm _ _ => none
  | .xorCompact _ _ => none
  | .xorCompactImm _ _ => none
  | .shlCompact _ _ => none
  | .shlCompactImm _ _ => none
  | .shrCompact _ _ => none
  | .shrCompactImm _ _ => none
  | .movCompact _ _ => none
  | .movCompactImm _ _ => none
  | .faddCompact _ _ => none
  | .fmulCompact _ _ => none
  | .fsubCompact _ _ => none
  | .fmaxCompact _ _ => none
  | .fminCompact _ _ => none
  | .mulCompact _ _ => none
  | .minI32Compact _ _ => none
  | .maxI32Compact _ _ => none
  | .sadd _ _ _ => none
  | .ssub _ _ _ => none
  | .smul _ _ _ _ => none
  | .sand _ _ _ => none
  | .sor _ _ _ => none
  | .sxor _ _ _ => none
  | .sandn _ _ _ => none
  | .sshl _ _ _ => none
  | .sshr _ _ _ => none
  | .ssra _ _ _ => none
  | .smin _ _ _ _ => none
  | .smax _ _ _ _ => none
  | .saddi _ _ _ => none
  | .smovi _ _ _ => none
  | .scmp _ _ _ _ => none
  | .sld _ _ _ _ _ _ => none
  | .sst _ _ _ _ _ _ => none
  | .srd _ _ => none
  | .swr _ _ => none
  | .slane _ _ _ => none
  | .sbra _ _ _ => none
  | .satom _ _ _ _ _ _ => none
  | .add n g _ _ _ => some (n, g)
  | .sub n g _ _ _ => some (n, g)
  | .mul n g _ _ _ => some (n, g)
  | .mulhi _ n g _ _ _ => some (n, g)
  | .mad n g _ _ _ => some (n, g)
  | .and n g _ _ _ => some (n, g)
  | .or n g _ _ _ => some (n, g)
  | .xor n g _ _ _ => some (n, g)
  | .andn n g _ _ _ => some (n, g)
  | .shl n g _ _ _ => some (n, g)
  | .shr n g _ _ _ => some (n, g)
  | .sra n g _ _ _ => some (n, g)
  | .min _ n g _ _ _ => some (n, g)
  | .max _ n g _ _ _ => some (n, g)
  | .abs n g _ _ => some (n, g)
  | .neg n g _ _ => some (n, g)
  | .clz n g _ _ => some (n, g)
  | .popc n g _ _ => some (n, g)
  | .brev n g _ _ => some (n, g)
  | .addi g _ _ _ => some (0#1, g)
  | .shli g _ _ _ => some (0#1, g)
  | .shri g _ _ _ => some (0#1, g)
  | .movs _ _ _ => none
  | .mov n g _ _ => some (n, g)
  | .sel _ _ _ _ _ => none
  | .cmp _ n g _ _ _ => some (n, g)
  | .cmpn _ n g _ _ _ => some (n, g)
  | .cvt _ n g _ _ => some (n, g)
  | .plane _ n g _ _ _ => some (n, g)
  | .lrd g _ _ => some (0#1, g)
  | .pand n g _ _ _ => some (n, g)
  | .por n g _ _ _ => some (n, g)
  | .pnot n g _ _ => some (n, g)
  | .bfe _ n g _ _ _ => some (n, g)
  | .bfi n g _ _ _ => some (n, g)
  | .dot4 _ n g _ _ _ => some (n, g)
  | .fadd n g _ _ _ => some (n, g)
  | .fsub n g _ _ _ => some (n, g)
  | .fmul n g _ _ _ => some (n, g)
  | .ffma n g _ _ _ => some (n, g)
  | .fmin n g _ _ _ => some (n, g)
  | .fmax n g _ _ _ => some (n, g)
  | .fcmp _ n g _ _ _ => some (n, g)
  | .frcp n g _ _ => some (n, g)
  | .frsq n g _ _ => some (n, g)
  | .fsqrt n g _ _ => some (n, g)
  | .fdiv n g _ _ _ => some (n, g)
  | .fexp2 n g _ _ => some (n, g)
  | .flog2 n g _ _ => some (n, g)
  | .fsin n g _ _ => some (n, g)
  | .fcos n g _ _ => some (n, g)
  | .fcvt _ n g _ _ => some (n, g)
  | .ncvt _ n g _ _ _ _ => some (n, g)
  | .icvtF32ToInt _ n g _ _ _ => some (n, g)
  | .icvtIntToF32 _ n g _ _ => some (n, g)
  | .fclass n g _ _ => some (n, g)
  | .fscl n g _ _ _ => some (n, g)
  | .fabs n g _ _ => some (n, g)
  | .fneg n g _ _ => some (n, g)
  | .fcpys n g _ _ _ => some (n, g)
  | .frnd n g _ _ _ => some (n, g)
  | .dadd n g _ _ _ => some (n, g)
  | .dsub n g _ _ _ => some (n, g)
  | .dmul n g _ _ _ => some (n, g)
  | .dfma n g _ _ _ => some (n, g)
  | .ddiv n g _ _ _ => some (n, g)
  | .dsqrt n g _ _ => some (n, g)
  | .dcvt _ n g _ _ => some (n, g)
  | .shfl _ _ _ _ => none
  | .vote _ _ _ => none
  | .voteBallot _ _ => none
  | .redux _ _ _ _ => none
  | .scan _ _ _ _ _ => none
  | .matchLanes _ _ _ => none
  | .perm n g _ _ _ => some (n, g)
  | .elect _ => none
  | .gsync => none
  | .bra _ n g => some (n, g)
  | .jmp _ => none
  | .call _ n g => some (n, g)
  | .callv _ _ => none
  | .ret n g => some (n, g)
  | .exit n g => some (n, g)
  | .refill n g => some (n, g)
  | .nop n g => some (n, g)
  | .yield n g => some (n, g)
  | .sleep _ n g => some (n, g)
  | .trap _ n g => some (n, g)
  | .brk _ n g => some (n, g)
  | .ld _ _ _ _ _ => none
  | .st _ _ _ _ _ => none
  | .ldw _ _ _ _ => none
  | .ldc _ _ _ _ => none
  | .ldq _ _ _ _ => none
  | .ldqw _ _ _ _ => none
  | .stf _ _ _ _ => none
  | .ste _ _ _ _ => none
  | .stq _ _ _ _ => none
  | .atom _ _ _ _ _ => none
  | .atomb _ _ _ _ _ => none
  | .atomcCas _ _ _ _ => none
  | .atomcMinN32 _ _ _ _ => none
  | .atomcMaxN32 _ _ _ _ => none
  | .stc _ _ _ _ => none
  | .fence _ _ => none
  | .pref _ _ => none
  | .cflush _ _ => none
  | .cpyIn _ _ _ _ => none
  | .cpyOut _ _ _ _ => none
  | .cpyLocal _ _ _ _ => none
  | .cseal => none
  | .mma _ _ => none
  | .mrels _ => none
  | .epi _ _ => none
  | .mstat _ _ => none
  | .bar _ => none
  | .bara _ => none
  | .barw _ => none
  | .barx _ => none
  | .spanj => none
  | .spanx => none
  | .spanb => none
  | .psend _ _ _ _ => none
  | .pput _ _ _ _ => none
  | .pget _ _ _ _ => none
  | .pmcast _ _ _ _ => none
  | .parrv _ _ _ => none
  | .phint _ => none
  | .precv _ _ => none
  | .pfence _ => none
  | .patom _ _ _ _ => none
  | .ppool _ _ _ _ => none
  | .evt => none
  | .capq _ _ _ => none
  | .registerWrite _ _ _ => none
  | .lqtailWrite _ _ _ => none
  | .queueEnable _ _ _ => none
  | .queueDisable _ _ _ => none
  | .launchRecordRead _ _ => none
  | .launchAccept _ _ => none
  | .launchComplete _ _ => none
  | .dispatchTeam _ => none
  | .teamRetirement _ => none
  | .spanDetachment _ => none
  | .forwardProgressInterval _ => none
  | .saveComplete _ => none
  | .teamRestart _ => none
  | .vacate _ => none
  | .returnPiers _ => none
  | .vacateComplete _ => none
  | .tlbinv _ _ => none
  | .tlbInvalidateComplete _ => none
  | .hostAccess _ _ _ => none
  | .regroup _ _ => none
  | .waitCountBoost _ _ => none
  | .sleepExpiry _ _ => none
  | .loadDataLand _ => none
  | .emulationComplete _ => none
  | .copyLineFill _ => none
  | .copyOutLineWrite _ => none
  | .batchComplete _ => none
  | .mmaStart _ => none
  | .mmaComplete _ => none
  | .epilogueJobStart _ => none
  | .epilogueJobComplete _ => none
  | .mrelsFree _ => none
  | .slotStart => none
  | .slotEnd => none
  | .writeFlit _ _ => none
  | .getRequest _ _ => none
  | .getResponse _ _ => none
  | .atomicRequest _ _ => none
  | .atomicResponse _ _ => none
  | .poolRequest _ _ => none
  | .poolResponse _ _ => none
  | .acknowledgement _ _ => none
  | .hint _ _ => none
  | .completion _ _ => none
  | .tagFlit _ _ => none
  | .relayedFlit _ _ => none
  | .flitDiscard _ _ => none
  | .ackTimeout _ _ => none
  | .duplicateSetExpiry _ _ _ => none
  | .flitDrop _ => none
  | .lossOfLight _ _ => none
  | .create => none
  | .destroy => none
  | .ways => none
  | .guest => none
  | .abutmentWrite => none
  | .abutmentRewrite => none
  | .keySlotGrant => none
  | .keySlotRevokeSeal => none
  | .keySlotRevokeDiscard => none
  | .allowList => none
  | .features => none
  | .linkKeySlots => none
  | .frameRange => none
  | .hvCommandComplete => none
  | .getVersion _ => none
  | .getCapabilities _ => none
  | .negotiateAlgorithms _ => none
  | .getDigests _ => none
  | .getCertificate _ => none
  | .challenge _ => none
  | .getMeasurements _ _ => none
  | .keyExchange _ => none
  | .finish _ => none
  | .endSession _ => none
  | .setKeyGroup _ _ => none
  | .setKeyContext _ _ _ => none
  | .setKeyStream _ _ _ => none
  | .ingressWrite _ _ _ => none
  | .ingressRecordVerify _ _ => none
  | .hostCounterRead _ _ => none
  | .powerGood _ => none
  | .trainingComplete _ _ => none
  | .trapRecordWrite _ => none
  | .cmdResume _ => none
  | .cmdEnd _ => none
  | .eventStreamEnable _ _ => none
  | .pcSample _ _ => none
  | .clockStep _ => none
  | .readbackRead => none
  | .readbackWrite => none
  | .laserModuleReenable => none
  | .illegalInstruction => none
  | .tdispInterfaceRequest _ _ => none

/-- The major opcode (R309); 0x80 for the compact forms. -/
def major : Instr → Nat
  | .addCompact _ _ => 0x80
  | .addCompactImm _ _ => 0x80
  | .subCompact _ _ => 0x80
  | .subCompactImm _ _ => 0x80
  | .andCompact _ _ => 0x80
  | .andCompactImm _ _ => 0x80
  | .orCompact _ _ => 0x80
  | .orCompactImm _ _ => 0x80
  | .xorCompact _ _ => 0x80
  | .xorCompactImm _ _ => 0x80
  | .shlCompact _ _ => 0x80
  | .shlCompactImm _ _ => 0x80
  | .shrCompact _ _ => 0x80
  | .shrCompactImm _ _ => 0x80
  | .movCompact _ _ => 0x80
  | .movCompactImm _ _ => 0x80
  | .faddCompact _ _ => 0x80
  | .fmulCompact _ _ => 0x80
  | .fsubCompact _ _ => 0x80
  | .fmaxCompact _ _ => 0x80
  | .fminCompact _ _ => 0x80
  | .mulCompact _ _ => 0x80
  | .minI32Compact _ _ => 0x80
  | .maxI32Compact _ _ => 0x80
  | .sadd _ _ _ => 0x0
  | .ssub _ _ _ => 0x1
  | .smul _ _ _ _ => 0x2
  | .sand _ _ _ => 0x3
  | .sor _ _ _ => 0x3
  | .sxor _ _ _ => 0x3
  | .sandn _ _ _ => 0x3
  | .sshl _ _ _ => 0x4
  | .sshr _ _ _ => 0x4
  | .ssra _ _ _ => 0x4
  | .smin _ _ _ _ => 0x5
  | .smax _ _ _ _ => 0x5
  | .saddi _ _ _ => 0x6
  | .smovi _ _ _ => 0x7
  | .scmp _ _ _ _ => 0x8
  | .sld _ _ _ _ _ _ => 0x9
  | .sst _ _ _ _ _ _ => 0xa
  | .srd _ _ => 0xb
  | .swr _ _ => 0xc
  | .slane _ _ _ => 0xd
  | .sbra _ _ _ => 0xe
  | .satom _ _ _ _ _ _ => 0xf
  | .add _ _ _ _ _ => 0x10
  | .sub _ _ _ _ _ => 0x11
  | .mul _ _ _ _ _ => 0x12
  | .mulhi _ _ _ _ _ _ => 0x13
  | .mad _ _ _ _ _ => 0x14
  | .and _ _ _ _ _ => 0x15
  | .or _ _ _ _ _ => 0x15
  | .xor _ _ _ _ _ => 0x15
  | .andn _ _ _ _ _ => 0x15
  | .shl _ _ _ _ _ => 0x16
  | .shr _ _ _ _ _ => 0x16
  | .sra _ _ _ _ _ => 0x16
  | .min _ _ _ _ _ _ => 0x17
  | .max _ _ _ _ _ _ => 0x17
  | .abs _ _ _ _ => 0x18
  | .neg _ _ _ _ => 0x18
  | .clz _ _ _ _ => 0x19
  | .popc _ _ _ _ => 0x19
  | .brev _ _ _ _ => 0x19
  | .addi _ _ _ _ => 0x1a
  | .shli _ _ _ _ => 0x1b
  | .shri _ _ _ _ => 0x1c
  | .movs _ _ _ => 0x1d
  | .mov _ _ _ _ => 0x1e
  | .sel _ _ _ _ _ => 0x1f
  | .cmp _ _ _ _ _ _ => 0x20
  | .cmpn _ _ _ _ _ _ => 0x21
  | .cvt _ _ _ _ _ => 0x22
  | .plane _ _ _ _ _ _ => 0x23
  | .lrd _ _ _ => 0x24
  | .pand _ _ _ _ _ => 0x25
  | .por _ _ _ _ _ => 0x25
  | .pnot _ _ _ _ => 0x25
  | .bfe _ _ _ _ _ _ => 0x26
  | .bfi _ _ _ _ _ => 0x26
  | .dot4 _ _ _ _ _ _ => 0x27
  | .fadd _ _ _ _ _ => 0x28
  | .fsub _ _ _ _ _ => 0x29
  | .fmul _ _ _ _ _ => 0x2a
  | .ffma _ _ _ _ _ => 0x2b
  | .fmin _ _ _ _ _ => 0x2c
  | .fmax _ _ _ _ _ => 0x2c
  | .fcmp _ _ _ _ _ _ => 0x2d
  | .frcp _ _ _ _ => 0x2e
  | .frsq _ _ _ _ => 0x2f
  | .fsqrt _ _ _ _ => 0x30
  | .fdiv _ _ _ _ _ => 0x31
  | .fexp2 _ _ _ _ => 0x32
  | .flog2 _ _ _ _ => 0x33
  | .fsin _ _ _ _ => 0x34
  | .fcos _ _ _ _ => 0x34
  | .fcvt _ _ _ _ _ => 0x35
  | .ncvt _ _ _ _ _ _ _ => 0x36
  | .icvtF32ToInt _ _ _ _ _ _ => 0x37
  | .icvtIntToF32 _ _ _ _ _ => 0x37
  | .fclass _ _ _ _ => 0x38
  | .fscl _ _ _ _ _ => 0x39
  | .fabs _ _ _ _ => 0x3a
  | .fneg _ _ _ _ => 0x3a
  | .fcpys _ _ _ _ _ => 0x3a
  | .frnd _ _ _ _ _ => 0x3b
  | .dadd _ _ _ _ _ => 0x3c
  | .dsub _ _ _ _ _ => 0x3c
  | .dmul _ _ _ _ _ => 0x3d
  | .dfma _ _ _ _ _ => 0x3e
  | .ddiv _ _ _ _ _ => 0x3f
  | .dsqrt _ _ _ _ => 0x3f
  | .dcvt _ _ _ _ _ => 0x3f
  | .shfl _ _ _ _ => 0x40
  | .vote _ _ _ => 0x41
  | .voteBallot _ _ => 0x41
  | .redux _ _ _ _ => 0x42
  | .scan _ _ _ _ _ => 0x43
  | .matchLanes _ _ _ => 0x44
  | .perm _ _ _ _ _ => 0x45
  | .elect _ => 0x46
  | .gsync => 0x47
  | .bra _ _ _ => 0x48
  | .jmp _ => 0x49
  | .call _ _ _ => 0x4a
  | .callv _ _ => 0x4b
  | .ret _ _ => 0x4c
  | .exit _ _ => 0x4d
  | .refill _ _ => 0x4d
  | .nop _ _ => 0x4e
  | .yield _ _ => 0x4e
  | .sleep _ _ _ => 0x4e
  | .trap _ _ _ => 0x4f
  | .brk _ _ _ => 0x4f
  | .ld _ _ _ _ _ => 0x50
  | .st _ _ _ _ _ => 0x51
  | .ldw _ _ _ _ => 0x52
  | .ldc _ _ _ _ => 0x52
  | .ldq _ _ _ _ => 0x52
  | .ldqw _ _ _ _ => 0x52
  | .stf _ _ _ _ => 0x53
  | .ste _ _ _ _ => 0x53
  | .stq _ _ _ _ => 0x53
  | .atom _ _ _ _ _ => 0x54
  | .atomb _ _ _ _ _ => 0x55
  | .atomcCas _ _ _ _ => 0x56
  | .atomcMinN32 _ _ _ _ => 0x56
  | .atomcMaxN32 _ _ _ _ => 0x56
  | .stc _ _ _ _ => 0x56
  | .fence _ _ => 0x57
  | .pref _ _ => 0x57
  | .cflush _ _ => 0x57
  | .cpyIn _ _ _ _ => 0x58
  | .cpyOut _ _ _ _ => 0x58
  | .cpyLocal _ _ _ _ => 0x58
  | .cseal => 0x58
  | .mma _ _ => 0x59
  | .mrels _ => 0x59
  | .epi _ _ => 0x59
  | .mstat _ _ => 0x59
  | .bar _ => 0x5a
  | .bara _ => 0x5a
  | .barw _ => 0x5a
  | .barx _ => 0x5a
  | .spanj => 0x5b
  | .spanx => 0x5b
  | .spanb => 0x5b
  | .psend _ _ _ _ => 0x5c
  | .pput _ _ _ _ => 0x5c
  | .pget _ _ _ _ => 0x5c
  | .pmcast _ _ _ _ => 0x5c
  | .parrv _ _ _ => 0x5c
  | .phint _ => 0x5c
  | .precv _ _ => 0x5c
  | .pfence _ => 0x5c
  | .patom _ _ _ _ => 0x5d
  | .ppool _ _ _ _ => 0x5d
  | .evt => 0x5e
  | .capq _ _ _ => 0x5f
  | .registerWrite _ _ _ => 0x80
  | .lqtailWrite _ _ _ => 0x80
  | .queueEnable _ _ _ => 0x80
  | .queueDisable _ _ _ => 0x80
  | .launchRecordRead _ _ => 0x80
  | .launchAccept _ _ => 0x80
  | .launchComplete _ _ => 0x80
  | .dispatchTeam _ => 0x80
  | .teamRetirement _ => 0x80
  | .spanDetachment _ => 0x80
  | .forwardProgressInterval _ => 0x80
  | .saveComplete _ => 0x80
  | .teamRestart _ => 0x80
  | .vacate _ => 0x80
  | .returnPiers _ => 0x80
  | .vacateComplete _ => 0x80
  | .tlbinv _ _ => 0x80
  | .tlbInvalidateComplete _ => 0x80
  | .hostAccess _ _ _ => 0x80
  | .regroup _ _ => 0x80
  | .waitCountBoost _ _ => 0x80
  | .sleepExpiry _ _ => 0x80
  | .loadDataLand _ => 0x80
  | .emulationComplete _ => 0x80
  | .copyLineFill _ => 0x80
  | .copyOutLineWrite _ => 0x80
  | .batchComplete _ => 0x80
  | .mmaStart _ => 0x80
  | .mmaComplete _ => 0x80
  | .epilogueJobStart _ => 0x80
  | .epilogueJobComplete _ => 0x80
  | .mrelsFree _ => 0x80
  | .slotStart => 0x80
  | .slotEnd => 0x80
  | .writeFlit _ _ => 0x80
  | .getRequest _ _ => 0x80
  | .getResponse _ _ => 0x80
  | .atomicRequest _ _ => 0x80
  | .atomicResponse _ _ => 0x80
  | .poolRequest _ _ => 0x80
  | .poolResponse _ _ => 0x80
  | .acknowledgement _ _ => 0x80
  | .hint _ _ => 0x80
  | .completion _ _ => 0x80
  | .tagFlit _ _ => 0x80
  | .relayedFlit _ _ => 0x80
  | .flitDiscard _ _ => 0x80
  | .ackTimeout _ _ => 0x80
  | .duplicateSetExpiry _ _ _ => 0x80
  | .flitDrop _ => 0x80
  | .lossOfLight _ _ => 0x80
  | .create => 0x80
  | .destroy => 0x80
  | .ways => 0x80
  | .guest => 0x80
  | .abutmentWrite => 0x80
  | .abutmentRewrite => 0x80
  | .keySlotGrant => 0x80
  | .keySlotRevokeSeal => 0x80
  | .keySlotRevokeDiscard => 0x80
  | .allowList => 0x80
  | .features => 0x80
  | .linkKeySlots => 0x80
  | .frameRange => 0x80
  | .hvCommandComplete => 0x80
  | .getVersion _ => 0x80
  | .getCapabilities _ => 0x80
  | .negotiateAlgorithms _ => 0x80
  | .getDigests _ => 0x80
  | .getCertificate _ => 0x80
  | .challenge _ => 0x80
  | .getMeasurements _ _ => 0x80
  | .keyExchange _ => 0x80
  | .finish _ => 0x80
  | .endSession _ => 0x80
  | .setKeyGroup _ _ => 0x80
  | .setKeyContext _ _ _ => 0x80
  | .setKeyStream _ _ _ => 0x80
  | .ingressWrite _ _ _ => 0x80
  | .ingressRecordVerify _ _ => 0x80
  | .hostCounterRead _ _ => 0x80
  | .powerGood _ => 0x80
  | .trainingComplete _ _ => 0x80
  | .trapRecordWrite _ => 0x80
  | .cmdResume _ => 0x80
  | .cmdEnd _ => 0x80
  | .eventStreamEnable _ _ => 0x80
  | .pcSample _ _ => 0x80
  | .clockStep _ => 0x80
  | .readbackRead => 0x80
  | .readbackWrite => 0x80
  | .laserModuleReenable => 0x80
  | .illegalInstruction => 0x80
  | .tdispInterfaceRequest _ _ => 0x80

/-- Convergent instructions (R58). -/
def convergent (i : Instr) : Bool :=
  (0x40 ≤ major i && major i ≤ 0x47 && major i != 0x45) || major i == 0x5A || major i == 0x5B

/-- Group-wide instructions (R24, R241): the engine instructions, `PSEND`, `PMCAST` and `PPOOL`. -/
def groupWide : Instr → Bool
  | .psend _ _ _ _ => true
  | .pmcast _ _ _ _ => true
  | .ppool _ _ _ _ => true
  | i => major i == 0x58 || major i == 0x59

/-- Bytes of an encoded instruction (R305). -/
def instrBytes (i : Instr) : Nat := if major i == 0x80 then 2 else 4

/-- The lookahead value of a long-latency instruction (R56). -/
def lookahead : Instr → Option Nat
  | .sld _ l _ _ _ _ => some l.toNat
  | .sst _ l _ _ _ _ => some l.toNat
  | .satom _ l _ _ _ _ => some l.toNat
  | .ld _ l _ _ _ => some l.toNat
  | .st _ l _ _ _ => some l.toNat
  | .ldw l _ _ _ => some l.toNat
  | .ldc l _ _ _ => some l.toNat
  | .ldq l _ _ _ => some l.toNat
  | .ldqw l _ _ _ => some l.toNat
  | .stf l _ _ _ => some l.toNat
  | .ste l _ _ _ => some l.toNat
  | .stq l _ _ _ => some l.toNat
  | .atom _ l _ _ _ => some l.toNat
  | .atomb _ l _ _ _ => some l.toNat
  | .atomcCas l _ _ _ => some l.toNat
  | .atomcMinN32 l _ _ _ => some l.toNat
  | .atomcMaxN32 l _ _ _ => some l.toNat
  | .stc l _ _ _ => some l.toNat
  | .cpyIn l _ _ _ => some l.toNat
  | .cpyOut l _ _ _ => some l.toNat
  | .cpyLocal l _ _ _ => some l.toNat
  | .mma l _ => some l.toNat
  | .mrels l => some l.toNat
  | .epi l _ => some l.toNat
  | .mstat l _ => some l.toNat
  | .psend l _ _ _ => some l.toNat
  | .pput l _ _ _ => some l.toNat
  | .pget l _ _ _ => some l.toNat
  | .pmcast l _ _ _ => some l.toNat
  | .parrv l _ _ => some l.toNat
  | .precv l _ => some l.toNat
  | .pfence l => some l.toNat
  | .patom l _ _ _ => some l.toNat
  | .ppool l _ _ _ => some l.toNat
  | _ => none

end Sys2Proof.Machine
end

