-- ==== Sys2Proof/Machine/Ops.lean ====
section
/-!
DEFINITION. The shared operations of every issued instruction: lanes and registers, the issuing context, faults and halts
(R277 to R281), barriers and retirement, convergence (R58, R59), hazards and tokens (R56, R194), and the issue checks in the
order of R25, R328, R342 and R443.
-/

namespace Sys2Proof.Machine

/-- What executing an instruction answers. -/
abbrev Out := Host.Outcome State Fault Refusal

/-! ## Cause codes (R276) -/

def cIllegal : BitVec 8 := 0x01
def cRole : BitVec 8 := 0x02
def cPartial : BitVec 8 := 0x03
def cNonCanonical : BitVec 8 := 0x04
def cTranslation : BitVec 8 := 0x05
def cProtection : BitVec 8 := 0x06
def cMisaligned : BitVec 8 := 0x07
def cBounds : BitVec 8 := 0x08
def cLiveLine : BitVec 8 := 0x09
def cOverRead : BitVec 8 := 0x0A
def cPeerAbsent : BitVec 8 := 0x0B
def cChannelInvalid : BitVec 8 := 0x0C
def cChannelPermission : BitVec 8 := 0x0D
def cDeparted : BitVec 8 := 0x0E
def cStack : BitVec 8 := 0x0F
def cArithmetic : BitVec 8 := 0x10
def cPoison : BitVec 8 := 0x11
def cBreakpoint : BitVec 8 := 0x12
def cTrap : BitVec 8 := 0x13
def cPodAddress : BitVec 8 := 0x14
def cEngine : BitVec 8 := 0x15

/-! ## Masks, lanes and registers -/

/-- A one-lane mask; lanes past 63 do not exist. -/
def bit64 (n : Nat) : Mask := BitVec.twoPow 64 n

def has (m : Mask) (i : Nat) : Bool := m.getLsbD i

/-- A bit of a 64-bit set written. -/
def putBit (m : BitVec 64) (n : Nat) (b : Bool) : BitVec 64 := if b then m ||| bit64 n else m &&& ~~~bit64 n

/-- The places of a list for which a test holds, counted from `i`. -/
def maskFrom {α : Type} (f : Nat → α → Bool) : Nat → List α → Mask
  | _, [] => 0
  | i, l :: ls => (if f i l then bit64 i else 0) ||| maskFrom f (i + 1) ls

def laneMask (g : Group) (f : Nat → Lane → Bool) : Mask := maskFrom f 0 g.lanes

/-- A thread is live while running, parked or held (R41). -/
def live (l : Lane) : Bool := l.st == .running || l.st == .parked || l.st == .held

/-- The live mask of a group (R24). -/
def liveMask (g : Group) : Mask := laneMask g fun _ l => live l

/-- The lanes of a mask changed. -/
def onLanes (m : Mask) (f : Nat → Lane → Lane) (g : Group) : Group :=
  { g with lanes := mapFrom (fun i l => if has m i then f i l else l) 0 g.lanes }

/-- A lane of a group; a lane past the width does not exist and reads as a fresh one. -/
def freshLane : Lane :=
  { pc := 0, v := Vector.replicate 64 0, p := 0, vpois := 0, ppois := 0, rs := Vector.replicate 4 0, d := 0, c := 0,
    stack := 0, item := 0, gen := 0, st := .running, loop := [], waits := 0, boosted := false, wake := none }

def laneAt (g : Group) (i : Nat) : Lane := (g.lanes[i]?).getD freshLane

/-- `%prio` as written last; it applies from the next regroup on (R52, R458). -/
def nextPrio (g : Group) : BitVec 5 := g.prioNext.getD g.prio

/-- A predicate register: p7 reads true (R10). -/
def readP (l : Lane) (p : BitVec 3) : Bool := p == 7#3 || l.p.getLsbD p.toNat

/-- A predicate register written: a write of p7 is ignored; a fresh value clears the poison (R10, R159). -/
def writeP (l : Lane) (p : BitVec 3) (b : Bool) : Lane :=
  if p == 7#3 then l
  else
    let m : BitVec 7 := BitVec.twoPow 7 p.toNat
    { l with p := if b then l.p ||| m else l.p &&& ~~~m, ppois := l.ppois &&& ~~~m }

/-- A vector register of a lane. -/
def readV (l : Lane) (r : BitVec 6) : Word := l.v[r.toNat]'r.isLt

/-- A vector register written with a fresh value, which clears its poison (R159). -/
def writeV (l : Lane) (r : BitVec 6) (x : Word) : Lane :=
  { l with v := l.v.set r.toNat x r.isLt, vpois := putBit l.vpois r.toNat false }

/-- The register after r; r is below 63 wherever a pair is used (R312). -/
def succReg (r : BitVec 6) : BitVec 6 := r + 1

/-- A 64-bit value of a register pair, low word first (R107, R338). -/
def readPair (l : Lane) (r : BitVec 6) : DWord := readV l (succReg r) ++ readV l r

def writePair (l : Lane) (r : BitVec 6) (x : DWord) : Lane :=
  writeV (writeV l r (x.truncate 32)) (succReg r) ((x >>> 32).truncate 32)

/-- A scalar register: s0 reads zero (R13). -/
def readS (g : Group) (r : BitVec 6) : DWord := if r == 0#6 then 0 else g.s[r.toNat]'r.isLt

/-- A scalar register written with a fresh value: s0 ignores it; poison and a token's error are cleared (R13, R159, R196). -/
def writeS (g : Group) (r : BitVec 6) (x : DWord) : Group :=
  if r == 0#6 then g
  else
    { g with
      s := g.s.set r.toNat x r.isLt
      spois := putBit g.spois r.toNat false
      errTok := putBit g.errTok r.toNat false }

/-- A scalar register poisoned (R159); s0 never is (R443). -/
def poisonS (g : Group) (r : BitVec 6) : Group :=
  if r == 0#6 then g else { g with spois := putBit g.spois r.toNat true }

/-! ## The issuing context -/

/-- A bundle with its group, team and virtual chip. -/
structure Ctx where
  b : Bundle
  g : Group
  t : Team
  vc : VChip
  deriving DecidableEq, Repr

/-- What a group waits for at an instruction that it has executed, or that has not issued: a barrier or the step of its team. -/
def waitsAtBarrier (g : Group) : Bool :=
  match g.wait with
  | .arrived _ _ => true
  | .spanStep _ _ => true
  | .phase _ released => !released
  | _ => false

/-- A group that a halt stops at once: it waits at a barrier, a span instruction, a full bit, a token, an allowance or a convergent
instruction (R277). -/
def stopsAtOnce (g : Group) : Bool :=
  g.stall == .barrier || g.stall == .fullBit || g.stall == .token || g.stall == .allowance || g.stall == .trapHalt
    || waitsAtBarrier g || g.lanes.any fun l => l.st == .held && l.wake.isNone

/-- The stall reason of a group that has tried nothing since it was stopped (R352, R457). -/
def restStall (g : Group) : Stall := if g.retired then .drained else if waitsAtBarrier g then .barrier else .issued

/-- A group that may issue: its team is resident, or is halted and the halt has not stopped this group yet (R277). -/
def mayIssue (g : Group) (t : Team) : Bool :=
  !g.retired && (t.status == .resident
    || (t.status == .halted && !t.recordWritten && g.fault.isNone && decide (g.skid < 16) && !stopsAtOnce g))

/-- A team whose groups stand in their places. -/
def inPlace (t : Team) : Bool :=
  match t.status with
  | .resident => true
  | .halted => true
  | .saving _ => true
  | _ => false

/-- A team that has been chosen for saving or restarting, which is not complete. -/
def isSaving (t : Team) : Bool :=
  match t.status with
  | .saving _ => true
  | _ => false

/-- A team that is halted, whatever else is being done with it (R102, R279). -/
def isHalted (t : Team) : Bool :=
  match t.status with
  | .halted => true
  | .saving h => h
  | .saved h => h
  | _ => false

/-- The context of the bundle now issuing, if it names a group that may issue. -/
def ctx? (s : State) : Option Ctx := do
  let b ← s.bundle
  let g ← s.groups[b.group]?
  let t ← s.teams[g.team]?
  let vc ← s.vchips[t.vc]?
  if mayIssue g t then some { b := b, g := g, t := t, vc := vc } else none

/-- The issuing group changed. -/
def onGroup (s : State) (c : Ctx) (f : Group → Group) : State := modGroup s c.b.group f

/-- The acting lanes: active lanes whose predicate holds (R311). -/
def acting (c : Ctx) (i : Instr) : Mask :=
  match guard? i with
  | none => c.b.mask
  | some (n, g) => c.b.mask &&& laneMask c.g fun _ l => readP l g != (n == 1#1)

/-! ## Barriers of a team (R29 to R32) -/

/-- Role bits of a participant set (R321): general groups take part in every set (R28). -/
def roleIn (set : Nat) : Role → Bool
  | .general => true
  | .copy => set % 2 == 1
  | .matrix => set / 2 % 2 == 1
  | .vector => set / 4 % 2 == 1

/-- Whether a group takes part in barrier b (R29). -/
def takesPart (t : Team) (g : Group) (b : Nat) : Bool :=
  roleIn ((t.kernel.bset[b]?).getD 7) g.role
    && match t.barriers[b]? with
       | some x => !x.wd.getLsbD g.num
       | none => false

/-- `check(b)` (R31): the completed phase, or nothing. -/
def checkBarrier (x : Barrier) : Barrier × Bool :=
  if x.e ≤ x.a then ({ x with p := !x.p, a := 0, arr := 0 }, true) else (x, false)

/-- A group's arrival (R31). -/
def arriveBarrier (x : Barrier) (num : Nat) : Barrier × Bool :=
  checkBarrier { x with arr := x.arr ||| BitVec.twoPow 32 num, a := x.a + 1 }

/-- A group's withdrawal (R31, R32). -/
def leaveBarrier (x : Barrier) (num : Nat) : Barrier × Bool :=
  let bit : BitVec 32 := BitVec.twoPow 32 num
  checkBarrier { x with
    wd := x.wd ||| bit
    e := x.e - 1
    a := if x.arr.getLsbD num then x.a - 1 else x.a
    arr := x.arr &&& ~~~bit }

/-- The held lanes of a mask run again. -/
def runHeld (m : Mask) (g : Group) : Group :=
  onLanes m (fun _ l => if l.st == .held then { l with st := .running } else l) g

/-- A group released from a phase it waits on: the lanes of its `BAR` go on, lanes held elsewhere stay held (R31, R59, R353). -/
def releaseGroup (b : Nat) (g : Group) : Group :=
  match g.wait with
  | .arrived k m => if k == b then runHeld m { g with wait := .none } else g
  | .phase k _ => if k == b then { g with wait := .phase b true } else g
  | _ => g

/-- A barrier of a team replaced; a completed phase releases every group that waits on it. -/
def putBarrier (s : State) (team b : Nat) (r : Barrier × Bool) : State :=
  let s1 := modTeam s team fun t => { t with barriers := listMod (fun _ => r.1) b t.barriers }
  if r.2 then { s1 with groups := s1.groups.map fun g => if g.team == team && !g.retired then releaseGroup b g else g } else s1

/-- A group leaves one barrier it takes part in (R32). -/
def leaveOne (team : Nat) (g : Group) (s : State) (b : Nat) : State :=
  match s.teams[team]? with
  | none => s
  | some t =>
    if takesPart t g b then
      match t.barriers[b]? with
      | some x => putBarrier s team b (leaveBarrier x g.num)
      | none => s
    else s

/-- The groups of a team, with their numbers in the machine. -/
def teamGroups (s : State) (team : Nat) : List (Nat × Group) :=
  (mapFrom (fun i g => (i, g)) 0 s.groups).filter fun p => p.2.team == team

/-- Groups of a team that have not retired. -/
def liveGroups (s : State) (team : Nat) : List (Nat × Group) := (teamGroups s team).filter fun p => !p.2.retired

/-- A group retires: it leaves every barrier it takes part in, and counts as having executed any span step (R32, R38, R80). Its
loads go on (R76). -/
def retireGroup (s : State) (n : Nat) : State :=
  match s.groups[n]? with
  | none => s
  | some g =>
    let s1 := modGroup s n fun g => { g with retired := true, stall := .drained, wait := .none }
    (List.range 16).foldl (leaveOne g.team g) s1

/-! ## Halts (R277 to R279) -/

/-- A team that a fault of its group n halts: the first fault is the primary one, and a team that is being saved is saved halted
(R102, R279). Among faults of one clock the first is that of the lowest group, since groups issue in their order. -/
def haltedBy (n : Nat) (t : Team) : Team :=
  if isHalted t then t
  else
    { t with
      status := match t.status with
        | .saving _ => .saving true
        | _ => .halted
      primary := n, recordWritten := false, cmd := 0 }

/-- A group's fault: it stops at the faulting instruction and the team halts. -/
def takeTrap (s : State) (n : Nat) (f : FaultMark) : State :=
  match s.groups[n]? with
  | none => s
  | some g =>
    let s1 := modGroup s n fun g => { g with fault := some f, stall := .trapHalt }
    modTeam s1 g.team (haltedBy n)

/-- A fault of the issuing bundle (R281: lanes and address). -/
def fault (s : State) (c : Ctx) (cause : BitVec 8) (lanes : Mask) (addr : DWord) : State :=
  takeTrap s c.b.group { cause := cause, lanes := lanes, addr := addr, pc := c.b.pc, underflow := false, exc := [] }

/-- The issuing group waits, unissued (R297). -/
def stallFor (s : State) (c : Ctx) (r : Stall) : State := onGroup s c fun g => { g with stall := r }

/-! ## Issue bookkeeping -/

/-- Occupied 16-lane quarters of a mask (R49). -/
def quarters (m : Mask) : Nat := ((List.range 4).filter fun q => (m >>> (16 * q)).truncate 16 != (0 : BitVec 16)).length

/-- The issue slot of an instruction as its busy counter, and the clocks it takes there (R49, R299). -/
def slotOf (i : Instr) (width : Nat) (m : Mask) : Option (Nat × Nat) :=
  let k := major i
  if (0x10 ≤ k && k ≤ 0x3B) || k == 0x80 then some (2, quarters m)
  else if k == 0x09 || k == 0x0A || k == 0x0F then some (4, 1)
  else if k ≤ 0x0E || (0x48 ≤ k && k ≤ 0x4F) then some (3, 1)
  else if 0x50 ≤ k && k ≤ 0x56 then some (4, quarters m)
  else if k == 0x57 then some (4, 1)
  else if 0x40 ≤ k && k ≤ 0x47 then some (5, (width + 15) / 16)
  else if 0x58 ≤ k && k ≤ 0x5F then some (5, 1)
  else none

/-- Lookahead windows after an issue (R56): those of the bundle's lanes have one instruction less to go, and a long-latency
instruction opens one for each lane that executes it. -/
def lookOn (i : Instr) (c : Ctx) (ws : List Window) : List Window :=
  (ws.map fun w => if has c.b.mask w.lane then { w with left := w.left - 1 } else w).filter (fun w => w.left != 0)
    ++ match lookahead i with
       | none => []
       | some n => if n = 0 then [] else ((List.range c.g.width).filter (has c.b.mask)).map fun k => { lane := k, left := n, instr := i }

/-- The lanes of the issued bundle go to the next instruction; their wait counts restart (R51); the group has issued at the
present clock of its core. What a group of a halted or leaving team still issues, an emulated instruction among it, counts in its
skid (R277, R287). -/
def advance (i : Instr) (c : Ctx) (clock : DWord) (g : Group) : Group :=
  onLanes c.b.mask
    (fun _ l => { l with pc := c.b.pc + BitVec.ofNat 64 (instrBytes i), waits := 0, boosted := false, st := .running })
    { g with stall := .issued, skid := if c.t.status == .resident then g.skid else g.skid + 1, wait := .none,
             look := lookOn i c g.look, issuedAt := clock, paired := c.b.other != 0 }

/-- An instruction that a fused bundle issues (R54); what decodes to no instruction is none. -/
def fusable (i : Instr) : Bool :=
  let k := major i
  i != .illegalInstruction && ((0x10 ≤ k && k ≤ 0x3B) || k == 0x80 || (0x50 ≤ k && k ≤ 0x56))

/-- The events that an issue counts, with how often (R299): the instruction, the busy clocks of its slot, a fused bundle, and a
convergence that leaves live lanes out (R59). A fused bundle is one instruction and occupies its slot once, for the quarters of
both halves (R49, R53): its first half counts. -/
def issueCounts (i : Instr) (c : Ctx) : List (Nat × Nat) :=
  if c.b.second then []
  else
    [(0x001, 1)] ++ (slotOf i c.g.width (c.b.mask ||| c.b.other)).toList
      ++ (if c.b.other != 0 then [(0x008, 1)] else [])
      ++ (if convergent i && c.b.mask != liveMask c.g then [(0x007, 1)] else [])

/-- Counters of an issue (R299). -/
def countIssue (i : Instr) (c : Ctx) (s : State) : State :=
  (issueCounts i c).foldl (fun s e => countBay s c.t.vc c.g.core c.g.bay e.1 e.2) s

/-- An instruction issues: its counters (R299), and the bundle's lanes move on. -/
def issued (i : Instr) (c : Ctx) (s : State) : State :=
  onGroup (countIssue i c s) c (advance i c (coreAt s c.g.core).clock)

/-! ## Legality (R21, R24, R274, R302, R328) -/

/-- A team that holds the engine of a group's core (R22). -/
def holdsEngine (t : Team) (core : Nat) : Bool := if core == t.coreA then t.holdsA else t.holdsB

/-- Whether the guest's feature mask or reduced service covers an instruction (R274, R302). -/
def covered (s : State) (vc : VChip) (i : Instr) : Bool :=
  let k := major i
  ((k == 0x5C || k == 0x5D) && vc.features.getLsbD 0)
  || (0x3C ≤ k && k ≤ 0x3F && vc.features.getLsbD 1)
  || (s.pkgStat == 2 && ((0x3C ≤ k && k ≤ 0x3F) || (0x58 ≤ k && k ≤ 0x5F)))
  || match i with
     | .refill _ _ => vc.features.getLsbD 3
     | _ => false

/-- Limits that depend on the group or the kernel: lane numbers, barrier numbers, refill kernels (R28, R330, R441). -/
def kernelOk (c : Ctx) : Instr → Bool
  | .slane l _ _ => decide (l.toNat < c.g.width)
  | .bar b => decide (b.toNat < c.t.kernel.nb)
  | .bara b => decide (b.toNat < c.t.kernel.nb)
  | .barw b => decide (b.toNat < c.t.kernel.nb)
  | .barx b => decide (b.toNat < c.t.kernel.nb)
  | .refill _ _ => c.t.kernel.refill.isSome
  | .illegalInstruction => false
  | _ => true

/-- Every vector register that an instruction names exists (R11). -/
def vregsOk (g : Group) (i : Instr) : Bool := ((uses i).vr ++ (uses i).vw).all fun r => decide (r < g.vregs)

/-- An `MMA` whose block names two planes where the guest's feature mask covers them (R206, R274): its fault comes before an
illegal role (R25). A block register that is poisoned or not available shows no plane count yet. -/
def maskedPlanes (c : Ctx) (i : Instr) : Bool :=
  match i with
  | .mma _ a =>
    c.vc.features.getLsbD 2 && field (readS c.g a) 51 48 == 2 && !c.g.spois.getLsbD a.toNat
      && !c.g.tokens.any fun e => e.1 == a
  | _ => false

/-- An instruction that R328 makes legal for the issuing group. -/
def legal (s : State) (c : Ctx) (i : Instr) : Bool :=
  i.wellFormed && kernelOk c i && !covered s c.vc i && vregsOk c.g i && !maskedPlanes c i

/-- Issue rights of the engine instructions (R21, R376). -/
def roleOk (c : Ctx) (i : Instr) : Bool :=
  if major i == 0x58 then c.g.role == .general || c.g.role == .copy
  else if major i == 0x59 then c.g.role == .matrix || (c.g.role == .general && holdsEngine c.t c.g.core)
  else true

/-! ## Hazards (R56, R57, R194, R365) -/

/-- The lanes of a bundle whose vector operands count: the named lane for `SLANE` (R453). -/
def operandLanes (c : Ctx) (i : Instr) : Mask :=
  match i with
  | .slane l _ _ => bit64 l.toNat
  | _ => acting c i

/-- A load or atomic of the group that has not landed touches a register that the instruction reads or writes (R57). -/
def loadHazard (c : Ctx) (i : Instr) : Bool :=
  c.g.loads.any fun l => has (operandLanes c i) l.lane && ((uses i).vr ++ (uses i).vw).contains l.reg.toNat

/-- Scalar registers that an instruction reads or writes. -/
def scalarUses (i : Instr) : List Nat := ((uses i).sr ++ (uses i).sw).filter fun r => r != 0

/-- What the scalar registers that an instruction touches are pending for (R36, R194, R244). -/
def pendingUses (c : Ctx) (i : Instr) : List TokenOf :=
  (c.g.tokens.filter fun e => (scalarUses i).contains e.1.toNat).map fun e => e.2

/-- A result of a span-window access, which is scoreboarded, and no token (R36). -/
def spanResult (t : TokenOf) : Bool := t == .span || t == .spanAcq

/-- A token register pending, or named by an unsealed copy, among those an instruction touches (R194, R244). -/
def tokenHazard (c : Ctx) (i : Instr) : Bool := (pendingUses c i).any fun t => !spanResult t

/-- An unsealed copy names a register that an instruction touches (R194). -/
def touchesUnsealed (c : Ctx) (i : Instr) : Bool := (pendingUses c i).contains .unsealed

/-- Scalar registers that a long-latency instruction writes, the token of a copy among them (R56). -/
def lateWrites : Instr → List Nat
  | .cpyIn _ _ _ t => [t.toNat]
  | .cpyOut _ _ _ t => [t.toNat]
  | .cpyLocal _ _ _ t => [t.toNat]
  | i => (uses i).sw

/-- Whether an instruction depends on a long-latency one: it reads a register that the other writes, or writes one that the other
reads or writes (R56). -/
def depends (i w : Instr) : Bool :=
  let a := uses i
  let b := uses w
  let p : List Nat := match guard? i with
    | some (_, g) => g.toNat :: a.pr
    | none => a.pr
  let q : List Nat := match guard? w with
    | some (_, g) => g.toNat :: b.pr
    | none => b.pr
  let hits (reads writes otherReads otherWrites : List Nat) : Bool :=
    reads.any (fun r => otherWrites.contains r) || writes.any fun r => (otherReads ++ otherWrites).contains r
  hits a.vr a.vw b.vr b.vw || hits (a.sr.filter fun r => r != 0) (lateWrites i |>.filter fun r => r != 0) b.sr (lateWrites w)
    || hits (p.filter fun r => r != 7) (a.pw.filter fun r => r != 7) q b.pw

/-- A window of the bundle's lanes whose instruction this one depends on, though declared independent of it (R57). -/
def lookMiss (c : Ctx) (i : Instr) : Bool := c.g.look.any fun w => has c.b.mask w.lane && depends i w.instr

/-- `CSEAL` (R193, R366): every unsealed copy joins the next batch, and the registers they name become pending for it. -/
def sealBatch (g : Group) : Group :=
  let b := if g.batch == 0xFFFFFFFF#32 then 1#32 else g.batch + 1
  { g with
    batch := b
    copies := g.copies.map fun e => if e.sealed then e else { e with sealed := true, batch := b }
    tokens := g.tokens.map fun e => if e.2 == .unsealed then (e.1, .batch b) else e }

/-- Which earlier span-window accesses an ordering instruction waits for: those of its threads or of the whole group, and whether
stores count or only what returns a value (R36, R163 to R165, R388). -/
structure SpanOrder where
  whole : Bool
  stores : Bool
  deriving DecidableEq, Repr

def spanOrder (i : Instr) : Option SpanOrder :=
  match i with
  | .fence _ k => some { whole := false, stores := k != 1#2 }
  | .sst _ _ r _ _ _ => if r == 0#2 then none else some { whole := false, stores := true }
  | .satom _ _ r _ _ _ => if r == 2#2 || r == 3#2 then some { whole := false, stores := true } else none
  | .gsync => some { whole := true, stores := true }
  | .bar _ => some { whole := true, stores := true }
  | .bara _ => some { whole := true, stores := true }
  | .barx _ => some { whole := true, stores := true }
  | .spanx => some { whole := true, stores := true }
  | .spanb => some { whole := true, stores := true }
  | .pfence _ => some { whole := true, stores := true }
  | _ => none

/-- Stores and atomics of a group in span members that have not been performed (R36, R80, R136). -/
def storesOut (s : State) (n : Nat) (g : Group) : Bool :=
  (g.reqs.any fun r => r.store || r.atom.isSome)
    || s.ops.any fun o => o.group == n && (o.kind == .spanStore || o.kind == .spanAtomic)

/-- A lane of a span-window access that belongs to a thread of a mask: its own, that of its return stack, or that of a scalar access,
which counts for every thread of its bundle (R166). -/
def laneOf (m : Mask) (k : Nat) : Bool := k == 64 || has m (if k < 64 then k else k - 65)

/-- Span-window accesses that have not been performed and for which an ordering instruction waits (R36, R136). -/
def spanBusy (s : State) (c : Ctx) (o : SpanOrder) : Bool :=
  let counts (k : Nat) : Bool := o.whole || laneOf c.b.mask k
  (c.g.reqs.any fun q => (o.stores || !q.store) && q.lanes.any fun l => counts l.lane)
    || s.ops.any fun p =>
      p.group == c.b.group && (p.kind == .spanLoad || p.kind == .spanAtomic || (p.kind == .spanStore && o.stores))
        && p.left.any fun x => counts x.2.toNat

/-- Instructions that a waiting `PFENCE` of another bundle holds back: accesses of the group (R427). A fence is none (R388). -/
def accesses (i : Instr) : Bool :=
  let k := major i
  k == 0x09 || k == 0x0A || k == 0x0F || (0x50 ≤ k && k ≤ 0x56) || k == 0x5D
    || (k == 0x57 && match i with
        | .fence _ _ => false
        | _ => true)
    || (k == 0x5C && match i with
        | .pfence _ => false
        | _ => true)
    || match i with
       | .call _ _ _ => true
       | .callv _ _ => true
       | .ret _ _ => true
       | _ => false

/-- Instructions whose engine reads or writes memory for the group (R165). -/
def engineWork : Instr → Bool
  | .cpyIn _ _ _ _ => true
  | .cpyOut _ _ _ _ => true
  | .cpyLocal _ _ _ _ => true
  | .mma _ _ => true
  | .epi _ _ => true
  | _ => false

/-- An acquire that has been sent to a span member has not come back: a waiting load of one of the bundle's lanes, or a scalar acquire.
The accesses and the engine work that come after it wait, and nothing else does (R36, R165, R177). -/
def acquireHolds (c : Ctx) (i : Instr) : Bool :=
  (accesses i || engineWork i)
    && ((c.g.loads.any fun l => l.acq && !l.ready && has c.b.mask l.lane) || c.g.tokens.any fun e => e.2 == .spanAcq)

/-- An ordering instruction waits for span-window accesses that have not been performed (R36, R165). -/
def orderWaits (s : State) (c : Ctx) (i : Instr) : Bool := ((spanOrder i).map (spanBusy s c)).getD false

/-- What holds an instruction back before it can read its operands: the highest code that applies (R297). -/
def hazard (s : State) (c : Ctx) (i : Instr) : Option Stall :=
  if c.g.emul.isSome then some .emulation
  else if tokenHazard c i then some .token
  else if lookMiss c i || loadHazard c i || (c.g.pfence && accesses i) || (pendingUses c i).any spanResult || orderWaits s c i
      || acquireHolds c i then some .scoreboard
  else none

/-! ## Poison and token errors (R159, R196, R221, R244) -/

/-- The acting lanes that read a poisoned register; every active lane if a scalar operand is poisoned (R342, R343, R443). -/
def poisonLanes (c : Ctx) (i : Instr) : Mask :=
  let u := uses i
  if u.sr.any fun r => c.g.spois.getLsbD r && r != 0 then (if guard? i == none then c.b.mask else acting c i)
  else
    let gp : Mask :=
      match guard? i with
      | some (_, p) => c.b.mask &&& laneMask c.g fun _ l => l.ppois.getLsbD p.toNat
      | none =>
        match i with
        | .sel _ p _ _ _ => c.b.mask &&& laneMask c.g fun _ l => l.ppois.getLsbD p.toNat
        | _ => 0
    gp ||| (operandLanes c i &&& laneMask c.g fun _ l =>
      (u.vr.any fun r => l.vpois.getLsbD r) || (u.pr.any fun r => l.ppois.getLsbD r))

/-- Whether what its operands hold can make an instruction fault: `PREF` drops the lane instead (R338, R435). -/
def operandFaults : Instr → Bool
  | .pref _ _ => false
  | _ => true

/-- Whether that is checked before anything of the instruction's own: `STQ` checks its ring first (R462). -/
def operandsFirst (i : Instr) : Bool :=
  operandFaults i && match i with
    | .stq _ _ _ _ => false
    | _ => true

/-- LANES of a poison fault: a scalar instruction reports every active lane (R443). -/
def poisonReport (c : Ctx) (i : Instr) : Mask := if major i ≤ 0x0F then c.b.mask else poisonLanes c i

/-- An operand register holds a token or `MSTAT` value with ERR = 1. -/
def errOperand (c : Ctx) (i : Instr) : Bool := (uses i).sr.any fun r => c.g.errTok.getLsbD r && r != 0

/-! ## The addresses of accesses (R310, R401) -/

/-- A stage-ring descriptor with the sequence named beside it. -/
structure Ring where
  ok : Bool
  slots : Nat
  slotl : Nat
  base : Nat
  seq : Nat
  deriving DecidableEq, Repr

/-- The ring operand of `LDQ`, `LDQW` and `STQ` (R401), and of a copy (R189). -/
def ringOf (x : DWord) : Ring :=
  { ok := field x 31 25 == 0 && field x 24 21 != 0 && field x 20 13 != 0
    slots := field x 24 21 + 1, slotl := field x 20 13, base := field x 12 0, seq := field x 63 32 }

/-- Team-window offset of the slot of a ring's sequence. -/
def Ring.offset (r : Ring) : Nat := (r.base + r.seq % r.slots * r.slotl) * 128

/-- The ring lies within the allocation (R198). -/
def Ring.fits (r : Ring) (alloc : Nat) : Bool := decide ((r.base + r.slots * r.slotl) * 128 ≤ alloc)

/-- Address of a lane in format VM (R310). -/
def laneAddr (c : Ctx) (sb va : BitVec 6) (i : Nat) : DWord := readS c.g sb + (readV (laneAt c.g i) va).setWidth 64

/-- Address of a scalar access (R310). -/
def scalarAddr (c : Ctx) (sa : BitVec 6) (imm4 : BitVec 4) : DWord := readS c.g sa + BitVec.ofNat 64 (8 * imm4.toNat)

/-- Address of a lane through a ring (R401). -/
def ringAddr (c : Ctx) (r : Ring) (va : BitVec 6) (i : Nat) : DWord :=
  0xFF00000000000000#64 + BitVec.ofNat 64 r.offset + (readV (laneAt c.g i) va).setWidth 64

/-- The address of each lane of a vector access. -/
def laneAccess (c : Ctx) : Instr → Option (Nat → DWord)
  | .ld _ _ a b _ => some (laneAddr c b a)
  | .st _ _ a b _ => some (laneAddr c b a)
  | .atom _ _ a b _ => some (laneAddr c b a)
  | .atomb _ _ a b _ => some (laneAddr c b a)
  | .atomcCas _ a b _ => some (laneAddr c b a)
  | .atomcMinN32 _ a b _ => some (laneAddr c b a)
  | .atomcMaxN32 _ a b _ => some (laneAddr c b a)
  | .stc _ a b _ => some (laneAddr c b a)
  | .ldw _ a b _ => some (laneAddr c b a)
  | .ldc _ a b _ => some (laneAddr c b a)
  | .ldq _ a b _ => some (ringAddr c (ringOf (readS c.g b)) a)
  | .ldqw _ a b _ => some (ringAddr c (ringOf (readS c.g b)) a)
  | .stf _ a b _ => some (laneAddr c b a)
  | .ste _ a b _ => some (laneAddr c b a)
  | .stq _ a b _ => some (ringAddr c (ringOf (readS c.g b)) a)
  | .cflush a b => some (laneAddr c b a)
  | _ => none

/-- The address of a scalar access. -/
def scalarAccessAddr (c : Ctx) : Instr → Option DWord
  | .sld k _ _ _ a _ => some (scalarAddr c a k)
  | .sst k _ _ _ a _ => some (scalarAddr c a k)
  | .satom _ _ _ _ a _ => some (readS c.g a)
  | _ => none

/-- ADDR of a poison fault in some lanes: of a vector access the address of the lowest of them (R343, R402), of a scalar access its
address (R443), and zero otherwise (R281). -/
def poisonAddr (c : Ctx) (i : Instr) (lanes : Mask) : DWord :=
  match scalarAccessAddr c i with
  | some a => a
  | none =>
    match laneAccess c i, (List.range 64).find? (has lanes) with
    | some f, some k => f k
    | _, _ => 0

/-! ## The issue checks -/

/-- Why an instruction does not perform at this issue. -/
inductive Block where
  | fault (cause : BitVec 8) (lanes : Mask) (addr : DWord)
  | stall (r : Stall)
  | park
  deriving DecidableEq, Repr

/-- Poison and token errors in what an instruction reads, in that order (R159, R196). -/
def operandBlock (i : Instr) (c : Ctx) : Option Block :=
  if poisonLanes c i != 0 then some (.fault cPoison (poisonReport c i) (poisonAddr c i (poisonReport c i)))
  else if errOperand c i then some (.fault cEngine c.b.mask ((scalarAccessAddr c i).getD 0))
  else none

/-- The checks that come before an entry's own, in order: a group-wide instruction issues from the broadcast fetch alone, so
that away from it nothing is checked (R24); then R328, R21, R24, operands available, poison, token errors. -/
def blocked (i : Instr) (c : Ctx) (s : State) : Option Block :=
  if groupWide i && !c.b.broadcast then some .park
  else if !legal s c i then some (.fault cIllegal c.b.mask 0)
  else if !roleOk c i then some (.fault cRole c.b.mask 0)
  else if groupWide i && c.b.mask != liveMask c.g then some (.fault cPartial c.b.mask 0)
  else
    match hazard s c i with
    | some r => some (.stall r)
    | none => if operandsFirst i then operandBlock i c else none

/-- An instruction that depends on an earlier one of which it was declared independent is withdrawn and counted as a miss, once:
it issues again once its operands are ready (R57). -/
def missLookahead (i : Instr) (c : Ctx) (s : State) : State :=
  if lookMiss c i then
    countBay (onGroup s c fun g => { g with look := g.look.filter fun w => !(has c.b.mask w.lane && depends i w.instr) })
      c.t.vc c.g.core c.g.bay 0x006 1
  else s

/-- The state that a block leads to. A read of a register named by an unsealed copy seals first (R194), and so does an instruction that
only writes it, since it waits for the batch (DEDUCED, log 23). -/
def applyBlock (i : Instr) (c : Ctx) (s : State) : Block → State
  | .fault cause lanes addr => fault s c cause lanes addr
  | .park => onGroup s c (onLanes c.b.mask fun _ l => { l with st := .parked })
  | .stall r =>
    let s1 := if r == .token && touchesUnsealed c i then onGroup s c sealBatch else s
    stallFor (missLookahead i c s1) c r

/-- An instruction issues from the bundle now issuing: its checks, then its own effect. -/
def issue (i : Instr) (s : State) (k : Ctx → State) : Out :=
  match ctx? s with
  | none => .fault .noIssuingBundle
  | some c =>
    match blocked i c s with
    | some b => .next (applyBlock i c s b)
    | none => .next (k c)

/-! ## Convergence (R58, R59) -/

/-- The held lanes at one address. -/
def heldAt (g : Group) (pc : DWord) : Mask := laneMask g fun _ l => l.st == .held && l.wake.isNone && l.pc == pc

/-- Every live lane is held at a convergent instruction, and none at a lower address than `pc`. -/
def converged (g : Group) (pc : DWord) : Bool :=
  g.lanes.all fun l => !live l || (l.st == .held && l.wake.isNone && decide (pc.toNat ≤ l.pc.toNat))

/-- A convergent instruction: its lanes are held; it executes for the lanes held here once every live lane is held and none
stands lower (R58, R59). -/
def issueConv (i : Instr) (s : State) (k : Ctx → State → State) : Out :=
  match ctx? s with
  | none => .fault .noIssuingBundle
  | some c =>
    if !legal s c i then .next (fault s c cIllegal c.b.mask 0)
    else
      let g := onLanes c.b.mask (fun _ l => { l with st := .held }) c.g
      if converged g c.b.pc then
        let c1 : Ctx := { c with b := { c.b with mask := heldAt g c.b.pc }, g := g }
        let s1 := onGroup s c fun _ => g
        match blocked i c1 s1 with
        | some b => .next (applyBlock i c1 s1 b)
        | none => .next (k c1 s1)
      else .next (onGroup s c fun _ => { g with stall := .scoreboard })

/-! ## Addresses (R132 to R136, R343) -/

/-- The compute die of a team's cores, which lie on one pier. -/
def teamDie (t : Team) : Nat := dieOf t.coreA

/-- The allocation half of a pier team's core, or the whole of a single core's (R17). -/
def teamKey (t : Team) (off : Nat) : Nat :=
  match t.coreB with
  | none => scratchKey t.coreA (t.baseA + off)
  | some cb => if off < t.alloc / 2 then scratchKey t.coreA (t.baseA + off) else scratchKey cb (t.baseB + off - t.alloc / 2)

/-- A ring-window offset of a team that holds the engine: its core and ring offset (R134). -/
def ringPlace (t : Team) (off : Nat) : Option (Nat × Nat) :=
  if 0x800000 ≤ off && off < 0x840000 && t.holdsA then some (t.coreA, off - 0x800000)
  else if 0x840000 ≤ off && off < 0x880000 && t.holdsB then t.coreB.map fun c => (c, off - 0x840000)
  else none

/-- The team of this package that is a span's member of a rank. -/
def memberTeam (s : State) (span rank : Nat) : Option (Nat × Team) :=
  (mapFrom (fun i t => (i, t)) 0 s.teams).find? fun p => p.2.span == some span && p.2.rank == rank && p.2.status != .ended

/-- Where an address that has passed its checks leads. -/
inductive Place where
  /-- scratchpad bytes under a key -/
  | scratch (k : Nat)
  /-- result-ring bytes under a key -/
  | ring (k : Nat)
  | paged (va : DWord) (l : Leaf)
  /-- a span member that is joining or saved, or lies on another package (R36, R136) -/
  | peer (rank off : Nat)
  deriving DecidableEq, Repr

def topByte (a : DWord) : Nat := field a 63 56

/-- Canonical form (R132). -/
def canonical (a : DWord) : Bool :=
  (topByte a == 0x00 && field a 55 48 == 0) || (topByte a == 0x01 && field a 55 50 == 0)
  || (topByte a == 0xFE && field a 55 30 == 0) || (topByte a == 0xFF && field a 55 24 == 0)

/-- The window checks of R134 for an access of some bytes at a team-window offset. -/
def teamWindowCause (t : Team) (off : Nat) (a : Acc) : BitVec 8 :=
  if off + a.bytes ≤ t.alloc then 0
  else if (ringPlace t off).isSome then (if a.write || a.atomic || a.special then cProtection else 0)
  else cBounds

/-- The window checks of R135. -/
def spanWindowCause (s : State) (t : Team) (rank off : Nat) (a : Acc) : BitVec 8 :=
  match t.span.bind fun k => s.spans[k]? with
  | none => cBounds
  | some sp =>
    match sp.members[rank]? with
    | none => cBounds
    | some .detached => cDeparted
    | some .released => cDeparted
    | some _ => if off + a.bytes ≤ (sp.allocs[rank]?).getD 0 then 0 else cBounds

/-- The first check of R343 that an address fails, 2 to 7, with its cause; none if it passes. -/
def addrCheck (s : State) (t : Team) (va : DWord) (a : Acc) : Option (Nat × BitVec 8) :=
  if !canonical va then some (2, cNonCanonical)
  else if topByte va == 0x01 then some (3, cPodAddress)
  else if va.toNat % a.bytes != 0 then some (4, cMisaligned)
  else if topByte va == 0xFF then
    let c := teamWindowCause t (field va 23 0) a
    if c == 0 then none else some (5, c)
  else if topByte va == 0xFE then
    let c := spanWindowCause s t (field va 29 24) (field va 23 0) a
    if c == 0 then none else some (5, c)
  else
    match translate s t.vc va (teamDie t) with
    | none => some (6, cTranslation)
    | some l => if protectionFails s t.vc l.entry a then some (7, cProtection) else none

/-- The fault of an instruction's lanes: the first check that any lane fails, the cause of the lowest lane failing it, the
lanes that fail it with that cause, and the address of the lowest (R343). Lanes come with their number and address. -/
def lanesFault (s : State) (t : Team) (a : Acc) (ls : List (Nat × DWord)) : Option (BitVec 8 × Mask × DWord) :=
  let rs := ls.filterMap fun p => (addrCheck s t p.2 a).map fun r => (p.1, p.2, r)
  match rs with
  | [] => none
  | r0 :: _ =>
    let st := rs.foldl (fun m r => Nat.min m r.2.2.1) r0.2.2.1
    match rs.find? fun r => r.2.2.1 == st with
    | none => none
    | some r =>
      let same := rs.filter fun q => q.2.2 == r.2.2
      some (r.2.2.2, same.foldl (fun m q => m ||| bit64 q.1) 0, r.2.1)

/-- Where an address that passed its checks leads. -/
def placeOf (s : State) (t : Team) (va : DWord) : Place :=
  if topByte va == 0xFF then
    let off := field va 23 0
    if off < t.alloc then .scratch (teamKey t off)
    else
      match ringPlace t off with
      | some (c, o) => .ring (ringKey c o)
      | none => .scratch (teamKey t off)
  else if topByte va == 0xFE then
    let rank := field va 29 24
    let off := field va 23 0
    match t.span with
    | none => .peer rank off
    | some k =>
      match memberTeam s k rank, (s.spans[k]?).bind fun sp => sp.members[rank]? with
      | some (_, m), some st =>
        if (st == .attached || rank == t.rank) && (m.status == .resident || m.status == .halted) then .scratch (teamKey m off)
        else .peer rank off
      | _, _ => .peer rank off
  else
    match translate s t.vc va (teamDie t) with
    | some l => .paged va l
    | none => .peer 0 0

/-- The key of a place's bytes after its line has been made ready. -/
def placeKey (s : State) (t : Team) : Place → Nat
  | .scratch k => k
  | .ring k => k
  | .paged va l => pagedKey s t.vc l.entry (leafAddr l va)
  | .peer _ _ => 0

/-- A place made ready for an access. -/
def readyPlace (s : State) (t : Team) : Place → State
  | .paged va _ => ready s t.vc va (teamDie t)
  | _ => s

/-- What an access of a core to a place does to the core's L1 TLB and, for a load, to its L1 data cache: a leaf or a line that was
not there is a miss, and is brought in; a store goes through to the home slice and allocates nothing (R141, R142, R299). -/
def usePlace (s : State) (v core bay : Nat) (load : Bool) (p : Place) : State :=
  match p with
  | .paged va l =>
    let x := useTlb (tlbTag v va l) (coreAt s core).tlb1
    let y := if load && cachedLoad l.entry then useLine (fun _ => false) (cacheLine v l.entry (leafAddr l va)) (coreAt s core).l1
      else ((coreAt s core).l1, false)
    let s1 := modCore s core fun c => { c with tlb1 := x.1, l1 := y.1 }
    let s2 := if x.2 then countBay s1 v core bay 0x024 1 else s1
    if y.2 then countBay s2 v core bay 0x023 1 else s2
  | _ => s

/-- A place made ready for an access of the issuing group. -/
def corePlace (s : State) (c : Ctx) (load : Bool) (p : Place) : State :=
  usePlace (readyPlace s c.t p) c.t.vc c.g.core c.g.bay load p

/-- Bytes of a ready place, and whether they are poisoned: a line in metadata error reads poisoned (R158). -/
def readPlace (s : State) (t : Team) (p : Place) (n : Nat) : List Byte × Bool :=
  let k := placeKey s t p
  let lineErr := match p with
    | .scratch q => (lineAt s q).err
    | _ => false
  (readN s k n, poisonedAt s k n || lineErr)

/-- A plain store to a ready place. -/
def writePlace (s : State) (t : Team) (p : Place) (bs : List Byte) : State :=
  match p with
  | .scratch k => writeN s k bs
  | .paged va l => pagedStore s t.vc l (leafAddr l va) bs
  | _ => s

/-- Paged memory or the span window: an access that withdraws the idempotent flag (R291). -/
def beyondTeam (va : DWord) : Bool := topByte va != 0xFF

/-- The idempotent flag withdrawn (R291). -/
def withdrawIdem (s : State) (c : Ctx) (yes : Bool) : State :=
  if yes then modTeam s c.g.team fun t => { t with idem := false } else s

end Sys2Proof.Machine
end

