-- ==== Sys2Proof/Machine/Fabric.lean ====
section
/-!
DEFINITION. Operations on the fabric at their source: flits and their sealing (R225, R226, R268), legs (R257), and how an
operation's pieces end (R242 to R244, R136).
-/

namespace Sys2Proof.Machine

/-! ## Flits -/

/-- Operation codes of R226. -/
def opWrite : BitVec 4 := 0
def opGet : BitVec 4 := 1
def opGetResponse : BitVec 4 := 2
def opAtomic : BitVec 4 := 3
def opAtomicResponse : BitVec 4 := 4
def opPool : BitVec 4 := 5
def opPoolResponse : BitVec 4 := 6
def opAck : BitVec 4 := 7
def opHint : BitVec 4 := 8
def opCompletion : BitVec 4 := 9

/-- The header as 16 bytes (R226). -/
def headerBytes (f : Flit) : List Byte :=
  toLeBytes 16 (f.dpkg.toNat + f.dslot.toNat * 2 ^ 10 + f.spkg.toNat * 2 ^ 14 + f.sslot.toNat * 2 ^ 24 + f.op.toNat * 2 ^ 28
    + (if f.rly then 2 ^ 32 else 0) + (if f.last then 2 ^ 33 else 0) + f.reserved.toNat * 2 ^ 34 + f.nb.toNat * 2 ^ 40
    + (if f.tg then 2 ^ 47 else 0) + f.off.toNat * 2 ^ 48 + f.tag.toNat * 2 ^ 96)

/-- Payload cut or filled with zeros to 64 bytes. -/
def payload64 (bs : List Byte) : List Byte := (bs ++ List.replicate 64 0).take 64

/-- Bytes 0 to 83 of a flit, which its CRC covers (R225). -/
def checkedBytes (f : Flit) : List Byte := payload64 f.payload ++ headerBytes f ++ toLeBytes 4 f.seq

/-- The CRC that a flit must carry (R225). -/
def flitCrc (f : Flit) : BitVec 32 := crc32 (checkedBytes f)

/-- The 96 bytes of a flit on the fibre (R225). -/
def wireBytes (f : Flit) : List Byte :=
  let b := checkedBytes f ++ toLeBytes 4 f.crc.toNat
  b ++ toLeBytes 8 (Config.flitFec b).toNat

/-- A flit a light die discards whatever it says (R226). -/
def malformed (f : Flit) : Bool := decide (10 ≤ f.op.toNat) || f.reserved != 0 || (f.tg && f.op != opWrite) || f.crc != flitCrc f

/-- Whether an operation code is a reply, which ends a piece at its source (R257). -/
def isReply (op : BitVec 4) : Bool := op == opGetResponse || op == opAtomicResponse || op == opPoolResponse || op == opCompletion

/-- The payload bytes that a flit uses. -/
def usedBytes (f : Flit) : List Byte := f.payload.take (f.nb.toNat + 1)

/-! ## The schedule (R227 to R230) -/

/-- Nanoseconds from one slot to the next, and of the data in a slot (R227). -/
def slotNs : Nat := 2040
def slotDataNs : Nat := 2000

/-- The offset between the packages that a port joins in a slot (R228). -/
def swingOffset (order t k : Nat) : Nat := 1 + (48 * t + k) % (order - 1)

/-- Whether port k of package i meets package j in slot t (R228). -/
def meets (order i j t k : Nat) : Bool := (i + swingOffset order t k) % order == j

/-- Slots of a round (R229). -/
def roundSlots (order : Nat) : Nat := (order - 1 + 47) / 48

/-- The first slot at or after t in which some port of i meets j (R230). -/
def firstMeeting (order i j t : Nat) : Option Nat :=
  ((List.range (roundSlots order)).find? fun d => (List.range 48).any fun k => meets order i j (t + d) k).map fun d => t + d

/-! ## Sealing (R268) -/

/-- A flit's payload enciphered, or deciphered, under a link key (R268). -/
def crypt (k : List Byte) (f : Flit) : Flit :=
  { f with payload := aesCtr k (Config.fabricCounter f.spkg.toNat f.sslot.toNat f.tag f.off) (payload64 f.payload) }

/-- The code over a run of flits; RLY, which changes on the way, is taken as 0 (R268). -/
def runTag (k : List Byte) (fs : List Flit) : List Byte :=
  match fs with
  | [] => []
  | f :: _ =>
    gcmTag k (Config.fabricTagIv f.spkg.toNat f.sslot.toNat f.tag f.off)
      ((fs.map fun x => headerBytes { x with rly := false } ++ payload64 x.payload).flatten) []

/-- The tag flit of a run: LAST if the run ends with the operation's last flit. -/
def tagFlitOf (k : List Byte) (fs : List Flit) : List Flit :=
  ((fs.getLast?).map fun f =>
    { f with payload := payload64 (runTag k fs), tg := true, op := opWrite, nb := 15, rly := false
             run := some { replies := isReply f.op, offs := fs.map fun x => x.off } }).toList

/-- Two flits of one operation in one direction: a run is made of such flits (R268). -/
def sameStream (a b : Flit) : Bool :=
  a.tag == b.tag && a.spkg == b.spkg && a.sslot == b.sslot && a.dpkg == b.dpkg && a.dslot == b.dslot && isReply a.op == isReply b.op

/-- The egress queue with what is to be sealed sealed in its place: a tag flit follows every 64 flits of an operation, and the last
of them that waits (R268). `runs` holds the sealed flits of each operation that no tag flit has followed yet. -/
def sealQueue : List Egress → List (List Flit) → List Egress
  | [], _ => []
  | e :: es, runs =>
    match e.key with
    | none => e :: sealQueue es runs
    | some k =>
      let f := { crypt k e.flit with sealed := true }
      let mine (r : List Flit) : Bool := r.any (sameStream f)
      let run := (runs.find? mine).getD [] ++ [f]
      let rest := runs.filter fun r => !mine r
      let out := { e with flit := f, key := none }
      if run.length == 64 || !(es.any fun x => x.key.isSome && sameStream f x.flit) then
        out :: (tagFlitOf k run).map (fun t => { out with flit := t }) ++ sealQueue es rest
      else out :: sealQueue es (run :: rest)

/-- A way from one virtual chip to another: addresses, relay and link key. -/
structure Leg where
  dpkg : Nat
  dslot : Nat
  relay : Bool
  key : Option (List Byte)
  deriving DecidableEq, Repr

/-- Flits put on their way, in queue order, to be sealed when the next slot begins. A flit for this package is looped back: it waits
in the same queue, unsealed (R260). -/
def sendLeg (s : State) (v : Nat) (l : Leg) (fs : List Flit) : State :=
  let addressed := fs.map fun f =>
    { f with dpkg := BitVec.ofNat 10 l.dpkg, dslot := BitVec.ofNat 4 l.dslot, spkg := BitVec.ofNat 10 s.pkg, sslot := BitVec.ofNat 4 v }
  { s with egress := s.egress ++ addressed.map fun f =>
      { flit := f, relayable := l.relay, queuedNs := s.time.toNat, key := if l.dpkg == s.pkg then none else l.key, came := none } }

/-- A plain flit before it is addressed. -/
def bareFlit (op : BitVec 4) (tag : BitVec 32) (off : Nat) (payload : List Byte) (nb : Nat) (last : Bool) (dest : FlitDest) : Flit :=
  { payload := payload64 payload, tag := tag, off := BitVec.ofNat 48 off, tg := false, nb := BitVec.ofNat 7 nb, reserved := 0,
    last := last, rly := false, op := op, sslot := 0, spkg := 0, dslot := 0, dpkg := 0, seq := 0, crc := 0, dest := dest,
    sealed := false, opened := none, run := none }

/-- The link key of a pair as a key slot holds it (R267). -/
def linkKey (s : State) (slot own : Nat) : Option (List Byte) :=
  (tget s.linkKeys (slot * 1024 + own)).map fun k => toLeBytes 32 k.toNat

/-- The leg to a VCN of the guest, and whether flits may take it: a fabric leg needs its link key (R267, R268). -/
def legTo (s : State) (v vcn label : Nat) : Leg × Bool :=
  let g := guestOf s v
  let e := vcnEntry g vcn
  let k := linkKey s (vcnKs e) (ownVcn s v)
  ({ dpkg := vcnPkg e, dslot := vcnSlot e, relay := ((tget g.labels label).getD 0).getLsbD 6, key := k },
   vcnPkg e == s.pkg || k.isSome)

/-! ## How pieces end -/

def opAt (s : State) (tag : BitVec 32) : Option PodOp := s.ops.find? fun o => o.tag == tag

def modOp (s : State) (tag : BitVec 32) (f : PodOp → PodOp) : State :=
  { s with ops := s.ops.map fun o => if o.tag == tag then f o else o }

/-- The completion value of a token (R244). -/
def podToken (err : Nat) (eq : Bool) : DWord :=
  (if err != 0 then BitVec.twoPow 64 63 ||| BitVec.ofNat 64 (err * 2 ^ 48) else 0) ||| (if eq then 1 else 0)

/-- A pending scalar result set free and written; with an error it must not be read (R244, R159). -/
def landScalar (t : TokenOf) (r : BitVec 6) (x : DWord) (err pois : Bool) (g : Group) : Group :=
  if !g.tokens.any (fun e => e == (r, t)) then g
  else
    let g1 := writeS { g with tokens := g.tokens.filter fun e => e != (r, t) } r x
    let g2 := if err && r != 0#6 then { g1 with errTok := putBit g1.errTok r.toNat true } else g1
    if pois then poisonS g2 r else g2

/-- Data of a waiting lane arrived: the words of its registers from `r` on are ready to land (R243). -/
def readyLoads (lane : Nat) (r : BitVec 6) (ws : List Word) (pois : Bool) (g : Group) : Group :=
  { g with loads := g.loads.map fun l =>
      let k := (l.reg - r).toNat
      if l.lane == lane && !l.ready && decide (k < ws.length) then
        { l with data := (ws[k]?).getD 0, pois := pois, ready := true }
      else l }

/-- Bytes as 32-bit words, lowest first. -/
def wordsOf (bs : List Byte) : List Word :=
  (List.range (bs.length / 4)).map fun i => BitVec.ofNat 32 (leBytes ((bs.drop (4 * i)).take 4))

/-- A return-stack entry that has come for a lane (R64). -/
def landFill (lane : Nat) (x : DWord) (pois : Bool) (g : Group) : Group :=
  { g with fills := g.fills.map fun f => if f.lane == lane && f.data.isNone then { f with data := some (x, pois) } else f }

/-- What a span-window access brings back: to a lane's registers, to a scalar register (lane 64), or to the return stack of a lane
(65 and up). -/
def landSpan (lane : Nat) (r : BitVec 6) (bs : List Byte) (pois : Bool) (g : Group) : Group :=
  if lane < 64 then readyLoads lane r (wordsOf bs) pois g
  else if lane == 64 then
    let t : TokenOf := if g.tokens.any (fun e => e == (r, .spanAcq)) then .spanAcq else .span
    landScalar t r (BitVec.ofNat 64 (leBytes bs)) false pois g
  else landFill (lane - 65) (BitVec.ofNat 64 (leBytes bs)) pois g

/-- A result that an operation brings back to its group: a lane's registers, or a scalar register (lane 64). -/
def landResult (o : PodOp) (lane : Nat) (bs : List Byte) (pois : Bool) (g : Group) : Group :=
  match o.kind with
  | .get => readyLoads lane o.st (wordsOf bs) pois g
  | .spanLoad => landSpan lane o.st bs pois g
  | .spanAtomic => landSpan lane o.st bs pois g
  | .atomic => landScalar (.pod o.tag) o.st (BitVec.ofNat 64 (leBytes bs)) false pois g
  | _ => g

/-- Bytes that a piece of an operation brings back to a register. -/
def resultBytes (o : PodOp) : Nat :=
  match o.kind with
  | .get => 4
  | .atomic => 8
  | .spanLoad => o.total
  | .spanAtomic => o.total
  | _ => 0

/-- The name of a piece among those that its operation has left: its offset and, of a multicast, the member it goes to, by package
and slot. -/
def pieceKey (o : PodOp) (pkg slot off : Nat) : Nat := if o.kind == .mcast then (pkg * 16 + slot) * 2 ^ 64 + off else off

/-- The offset that a piece of an operation stands for: its own, or that of its lane. -/
def pieceOff (o : PodOp) (key : Nat) : Nat :=
  match o.req with
  | some q => if q.form == 0 then key else ((q.lanes[key]?).map fun l => l.off).getD 0
  | none => key % 2 ^ 64

/-- The event record of a failed piece (R243, R244, R295). A lane of a span-window access that only brings poisoned data back has
not failed (R136, R159). -/
def pieceFailed (s : State) (o : PodOp) (kind : Nat) (p : Nat × DWord) : State :=
  let a := BitVec.ofNat 64 (pieceOff o p.1)
  if o.req.isSome && kind == 4 then s
  else if o.kind == .mcast then
    event s o.vc 3 [(9, kind), (10, p.2.toNat), (16, (0x0100000000000000 + BitVec.ofNat 64 (p.2.toNat * 2 ^ 40) + a).toNat)]
  else event s o.vc 3 [(9, kind), (10, o.peer), (16, (o.origin + a).toNat)]

/-- An operation whose pieces have all ended: its allowance is given back and its token completes (R240, R244). -/
def finishOp (s : State) (o : PodOp) : State :=
  let s1 := { s with ops := s.ops.filter fun x => x.tag != o.tag }
  let s2 := modVc s1 o.vc fun c => { c with caps := listMod (fun e => { e with inFlight := e.inFlight - o.bytes }) o.cap c.caps }
  match o.kind with
  | .push => modGroup s2 o.group (landScalar (.pod o.tag) o.st (podToken o.err o.eq) (o.err != 0) false)
  | .pull => modGroup s2 o.group (landScalar (.pod o.tag) o.st (podToken o.err o.eq) (o.err != 0) false)
  | .mcast => modGroup s2 o.group (landScalar (.pod o.tag) o.st (podToken o.err o.eq) (o.err != 0) false)
  | .pool => modGroup s2 o.group (landScalar (.pod o.tag) o.st (podToken o.err o.eq) (o.err != 0) false)
  | _ => s2

/-- A piece of an operation performed (kind 0) or failed, with what it brings back. A piece that has ended already changes
nothing. -/
def endPiece (s : State) (tag : BitVec 32) (key kind : Nat) (bs : List Byte) (pois : Bool) : State :=
  match opAt s tag with
  | none => s
  | some o =>
    match o.left.find? fun p => p.1 == key with
    | none => s
    | some p =>
      let r := if kind != 0 && bs.isEmpty then drawBytes s (resultBytes o) else (bs, s)
      let s1 := modGroup r.2 o.group (landResult o p.2.toNat r.1 (pois || kind != 0))
      let s2 := if kind == 0 then s1 else pieceFailed s1 o kind p
      let o2 := { o with left := o.left.erase p, err := if o.err == 0 then kind else o.err }
      if o2.left.isEmpty then finishOp s2 o2 else modOp s2 tag fun _ => o2

/-- Every piece of an operation that has not ended fails. -/
def failOp (s : State) (tag : BitVec 32) (kind : Nat) : State :=
  match opAt s tag with
  | none => s
  | some o => o.left.foldl (fun s p => endPiece s tag p.1 kind [] true) s

/-- An operation whose lanes act as one at their member (R149). -/
def wholeOp (s : State) (tag : BitVec 32) : Bool := ((opAt s tag).bind fun o => o.req.map fun q => q.form != 0) == some true

/-- A flit of an operation fails: its piece, or, where the lanes act as one, all of them. -/
def failPiece (s : State) (tag : BitVec 32) (key kind : Nat) : State :=
  if wholeOp s tag then failOp s tag kind else endPiece s tag key kind [] true

/-- The piece that a flit of this package carries, and the piece that a flit from its target answers. -/
def sentPiece (s : State) (f : Flit) : Nat :=
  ((opAt s f.tag).map fun o => pieceKey o f.dpkg.toNat f.dslot.toNat f.off.toNat).getD f.off.toNat
def answeredPiece (s : State) (f : Flit) : Nat :=
  ((opAt s f.tag).map fun o => pieceKey o f.spkg.toNat f.sslot.toNat f.off.toNat).getD f.off.toNat

/-- An operation begun: its tag taken, its allowance occupied. -/
def beginOp (s : State) (mk : BitVec 32 → PodOp) : State × BitVec 32 :=
  let tag := s.nextTag
  let o := mk tag
  let s1 := { s with nextTag := tag + 1, ops := s.ops ++ [o] }
  (if o.bytes == 0 then s1
   else modVc s1 o.vc fun c => { c with caps := listMod (fun e => { e with inFlight := e.inFlight + o.bytes }) o.cap c.caps },
   tag)

/-- The flits of an operation sent to a VCN, each a piece; without a link key each piece fails with KIND 3 (R267). -/
def sendTo (s : State) (v vcn label : Nat) (tag : BitVec 32) (fs : List Flit) : State :=
  let l := legTo s v vcn label
  if l.2 then sendLeg s v l.1 fs
  else
    fs.foldl (fun s f =>
      failPiece s tag (sentPiece s { f with dpkg := BitVec.ofNat 10 l.1.dpkg, dslot := BitVec.ofNat 4 l.1.dslot }) 3) s

/-- A range cut into pieces of at most 64 bytes, each within one 64-byte-aligned piece of the target (R242). -/
def pieces64 : Nat → Nat → Nat → List (Nat × Nat)
  | 0, _, _ => []
  | fuel + 1, a, n =>
    if n = 0 then []
    else
      let k := Nat.min n (64 - a % 64)
      (a, k) :: pieces64 fuel (a + k) (n - k)

/-- Write flits for bytes at a target offset. -/
def writeFlits (tag : BitVec 32) (dest : FlitDest) (off : Nat) (bs : List Byte) : List Flit :=
  let ps := pieces64 (bs.length + 1) off bs.length
  ps.map fun p =>
    bareFlit opWrite tag p.1 ((bs.drop (p.1 - off)).take p.2) (p.2 - 1) (p.1 + p.2 == off + bs.length) dest

end Sys2Proof.Machine
end

