-- ==== Sys2Proof/Machine/Flags.lean ====
section
/-!
DEFINITION. How instructions act on lanes: plain vector results (R342), and float results with the flags and the arithmetic
fault (R111 to R115, R369).
-/

namespace Sys2Proof.Machine

/-- Rounding mode, DAZ and FTZ of a group (R111). -/
def envOf (g : Group) : FpEnv :=
  { rm := rmOf (g.fpctl.extractLsb' 0 2), daz := g.fpctl.getLsbD 3, ftz := g.fpctl.getLsbD 2 }

/-- Trap enables of a group, in the order of the flags (R111). -/
def fpEnables (g : Group) : BitVec 5 := g.fpctl.extractLsb' 8 5

/-- The lanes of a mask each given a change of their own, and the instruction issued (R342). -/
def laneOp (i : Instr) (f : Nat → Lane → Lane) (c : Ctx) (s : State) : State :=
  issued i c (onGroup s c (onLanes (acting c i) f))

/-- A vector register written in each acting lane with a value of the lane (R342). -/
def vecOp (i : Instr) (d : BitVec 6) (f : Lane → Word) (s : State) : Out :=
  issue i s fun c => laneOp i (fun _ l => writeV l d (f l)) c s

/-- A predicate register written in each acting lane. -/
def predOp (i : Instr) (d : BitVec 3) (f : Lane → Bool) (s : State) : Out :=
  issue i s fun c => laneOp i (fun _ l => writeP l d (f l)) c s

/-- Two vector registers combined into a third (R342). -/
def vec3 (i : Instr) (d a b : BitVec 6) (f : Word → Word → Word) (s : State) : Out :=
  vecOp i d (fun l => f (readV l a) (readV l b)) s

/-- A vector register of one operand. -/
def vec2 (i : Instr) (d a : BitVec 6) (f : Word → Word) (s : State) : Out := vecOp i d (fun l => f (readV l a)) s

/-- The exceptions of the lanes that act, by lane; none in the others (R112). -/
def laneExc (m : Mask) (f : Lane → Lane × BitVec 5) (g : Group) : List (BitVec 5) :=
  mapFrom (fun i l => if has m i then (f l).2 else 0) 0 g.lanes

/-- The lanes whose exceptions include an enabled one (R115), counted from `i`. -/
def trapLanes (en : BitVec 5) : Nat → List (BitVec 5) → Mask := maskFrom fun _ x => x &&& en != 0

/-- Flags gathered. -/
def orFlags (xs : List (BitVec 5)) : BitVec 5 := xs.foldl (fun a x => a ||| x) 0

/-- The arithmetic fault: the offending lanes, and each lane's exceptions (R115). -/
def arithFault (s : State) (c : Ctx) (lanes : Mask) (exc : List (BitVec 5)) : State :=
  takeTrap s c.b.group { cause := cArithmetic, lanes := lanes, addr := 0, pc := c.b.pc, underflow := false, exc := exc }

/-- Float lanes written, flags gathered, or the arithmetic fault with no effect (R115, R369). -/
def floatLanes (m : Mask) (f : Lane → Lane × BitVec 5) (g : Group) : Group :=
  { onLanes m (fun _ l => (f l).1) g with fpflags := g.fpflags ||| orFlags (laneExc m f g) }

/-- A float instruction: each acting lane's change with its exceptions (R369). -/
def floatOp (i : Instr) (f : FpEnv → Lane → Lane × BitVec 5) (s : State) : Out :=
  issue i s fun c =>
    let exc := laneExc (acting c i) (f (envOf c.g)) c.g
    let bad := trapLanes (fpEnables c.g) 0 exc
    if bad != 0 then arithFault s c bad exc
    else issued i c (onGroup s c (floatLanes (acting c i) (f (envOf c.g))))

/-- A binary32 result with its exceptions, written to a register. -/
def putF (d : BitVec 6) (l : Lane) (r : FRes) : Lane × BitVec 5 := (writeV l d (BitVec.ofNat 32 r.code), r.flags)

/-- A binary32 operand (R369: DAZ applies). -/
def f32Of (env : FpEnv) (x : Word) : FVal := unpack f32 env.daz x.toNat

/-- A two-operand float instruction. -/
def float3 (i : Instr) (d a b : BitVec 6) (f : FpEnv → FVal → FVal → FRes) (s : State) : Out :=
  floatOp i (fun env l => putF d l (f env (f32Of env (readV l a)) (f32Of env (readV l b)))) s

/-- A one-operand float instruction. -/
def float2 (i : Instr) (d a : BitVec 6) (f : FpEnv → FVal → FRes) (s : State) : Out :=
  floatOp i (fun env l => putF d l (f env (f32Of env (readV l a)))) s

/-- Addition, subtraction, multiplication (R381). -/
def addF (env : FpEnv) (a b : FVal) : FRes := fAddV f32 env a b
def subF (env : FpEnv) (a b : FVal) : FRes := fAddV f32 env a (negV b)
def mulF (env : FpEnv) (a b : FVal) : FRes := fMulV f32 env a b

/-- Minimum and maximum (R109, R391). -/
def minF (env : FpEnv) (a b : FVal) : FRes := fMinMaxV f32 env false a b
def maxF (env : FpEnv) (a b : FVal) : FRes := fMinMaxV f32 env true a b

end Sys2Proof.Machine
end

