-- ==== Sys2Proof/Machine/Shape.lean ====
section
/-!
DEFINITION. Shape records: their fields, boxes and checks (R180 to R192), and the bytes of a
slice's source.
-/

namespace Sys2Proof.Machine

/-! ## The record -/

/-- The fields of a shape record (R182, R183). -/
structure Shape where
  base : DWord
  size : List Nat
  stride : List Nat
  org : List Int
  ext : List Nat
  fmt : Nat
  pl : Nat
  dm : Nat
  pm : Bool
  rc : Nat
  ring : Nat
  scale : Nat
  /-- every reserved bit is zero -/
  clean : Bool
  deriving DecidableEq, Repr

/-- A field of a record: n bytes at an offset. -/
def recField (r : List Byte) (off n : Nat) : Nat := leBytes ((r.drop off).take n)

/-- A signed field. -/
def recSigned (r : List Byte) (off n : Nat) : Int := (BitVec.ofNat (8 * n) (recField r off n)).toInt

/-- Element size in bytes (R184). -/
def fmtBytes (fmt : Nat) : Nat :=
  if fmt = 1 || fmt = 4 || fmt = 5 then 2 else if fmt = 2 || fmt = 6 then 4 else if fmt = 3 then 8 else 1

/-- A record read (R182, R183). -/
def shapeOf (r : List Byte) : Shape :=
  let ctl := recField r 0x34 4
  let fmt := ctl % 16
  { base := BitVec.ofNat 64 (recField r 0 8)
    size := [recField r 0x08 4, recField r 0x0C 4, recField r 0x10 2, recField r 0x12 2]
    stride := [fmtBytes fmt, recField r 0x14 4, recField r 0x18 4, recField r 0x1C 4]
    org := [recSigned r 0x20 4, recSigned r 0x24 4, recSigned r 0x28 2, recSigned r 0x2A 2]
    ext := [recField r 0x2C 2, recField r 0x2E 2, recField r 0x30 2, recField r 0x32 2]
    fmt := fmt, pl := ctl / 16 % 16, dm := ctl / 256 % 4, pm := ctl / 1024 % 2 == 1, rc := ctl / 4096 % 64
    ring := recField r 0x38 4, scale := recField r 0x3C 2
    clean := ctl / 2048 % 2 == 0 && ctl / 262144 == 0 && recField r 0x3E 2 == 0 }

/-- Rows of the box. -/
def Shape.rows (h : Shape) : Nat := (h.ext.drop 1).foldl (fun n e => n * e) 1

/-- Elements of the box. -/
def Shape.count (h : Shape) : Nat := h.ext.foldl (fun n e => n * e) 1

/-- A plane mode (R184). -/
def Shape.plane (h : Shape) : Bool := decide (2 ≤ h.dm)

/-- A plane mode that quantises (R184). -/
def Shape.quantises (h : Shape) : Bool := h.plane && decide (5 ≤ h.fmt)

/-- Coordinates of the n-th box element, i0 fastest (R185), from the origin on. -/
def coordsFrom : List Int → List Nat → Nat → List Int
  | o :: os, e :: es, n => (o + (n % e : Nat)) :: coordsFrom os es (n / e)
  | _, _, _ => []

/-- Every coordinate is inside the tensor (R185). -/
def insideAll : List Int → List Nat → Bool
  | c :: cs, n :: ns => decide (0 ≤ c) && decide (c < n) && insideAll cs ns
  | _, _ => true

/-- Sum of coordinates times strides. -/
def strideSum : List Int → List Nat → Int
  | c :: cs, n :: ns => c * n + strideSum cs ns
  | _, _ => 0

/-- Address of a box element (R185), in bounds or not. -/
def Shape.addr (h : Shape) (n : Nat) : DWord := h.base + BitVec.ofInt 64 (strideSum (coordsFrom h.org h.ext n) h.stride)

/-- Whether a box element is in bounds (R185). -/
def Shape.inside (h : Shape) (n : Nat) : Bool := insideAll (coordsFrom h.org h.ext n) h.size

/-- Origin and extent lie within the size, in every dimension. -/
def boxInside : List Int → List Nat → List Nat → Bool
  | o :: os, e :: es, n :: ns => decide (0 ≤ o) && decide (o + e ≤ n) && boxInside os es ns
  | _, _, _ => true

/-- Every box element is in bounds (R187). -/
def Shape.allInside (h : Shape) : Bool := boxInside h.org h.ext h.size

/-- The ring of a record with the sequence that sb gives (R181). -/
def Shape.ringOf (h : Shape) (sb : DWord) : Ring := Machine.ringOf (BitVec.ofNat 64 (h.ring + field sb 31 0 * 2 ^ 32))

/-- A record whose fields are valid (R183, R184, R186, R187 check 3). -/
def Shape.valid (h : Shape) (fn : BitVec 2) (sb : DWord) : Bool :=
  h.clean && decide (h.fmt < 8) && h.ext.all (fun e => e != 0)
    && (if h.dm % 2 == 1 then (h.ringOf sb).ok else h.ring == 0)
    && (if h.plane then
          fn != 1#2 && (h.fmt == 0 || decide (5 ≤ h.fmt)) && decide (2 ≤ h.pl) && decide (h.pl ≤ 8)
            && h.ext.head? == some 64 && h.rows % 16 == 0 && decide (16 ≤ h.rows) && decide (h.rows ≤ 128)
        else h.pl == 0)

/-- Team-window offset at which the scratchpad side begins: an address, or a ring slot (R181); none if sb is no team-window
address. -/
def Shape.start (h : Shape) (sb : DWord) : Option Nat :=
  if h.dm % 2 == 1 then some (h.ringOf sb).offset
  else if canonical sb && topByte sb == 0xFF then some (field sb 23 0) else none

/-- Bytes of the scratchpad side (R186, R187 check 8). -/
def Shape.bytes (h : Shape) : Nat := if h.plane then h.pl * h.rows * 8 else h.count * fmtBytes h.fmt

/-- Team-window offset of the scale tile (R186). -/
def Shape.scaleStart (h : Shape) (start : Nat) : Nat := if h.dm == 3 then start + h.scale * 256 else h.scale * 256

/-- The scratchpad side lies within the allocation, and the box in its slot (R187 check 8); a slot's scale tile may end past it. -/
def Shape.fits (h : Shape) (sb : DWord) (alloc : Nat) : Bool :=
  match h.start sb with
  | none => false
  | some a =>
    let r := h.ringOf sb
    let limit := if h.dm % 2 == 1 then a + r.slotl * 128 else alloc
    (h.dm % 2 == 0 || r.fits alloc) && decide (a + h.bytes ≤ limit)
      && (!h.quantises || decide (h.scaleStart a + 2 * h.rows ≤ alloc))

/-- The lowest and highest in-bounds coordinates of each dimension: none if there are none. -/
def spanOfBox : List Int → List Nat → List Nat → Option (List Int)
  | o :: os, e :: es, n :: ns =>
    let hi : Int := min (o + e) n - 1
    if hi < max 0 o then none else (spanOfBox os es ns).map fun r => hi :: r
  | _, _, _ => some []

/-- Some in-bounds element of a local source lies at or beyond the allocation (R187 check 8). -/
def Shape.beyond (h : Shape) (alloc : Nat) : Bool :=
  match spanOfBox h.org h.ext h.size with
  | none => false
  | some hi => decide ((alloc : Int) < field h.base 23 0 + strideSum hi h.stride + fmtBytes h.fmt)

/-- The first box element out of bounds, for its address. -/
def Shape.firstOutside (h : Shape) : Nat := ((List.range h.count).find? fun n => !h.inside n).getD 0

/-- Checks 3 to 9 of R187: the first that fails, with its cause and address (log 14). A BASE that is not canonical and lies outside the
region that check 5 needs takes 0x04 (log 23). -/
def Shape.check (h : Shape) (fn : BitVec 2) (sb : DWord) (alloc : Nat) : Option (BitVec 8 × DWord) :=
  let n := fmtBytes h.fmt
  let local_ := fn == 2#2
  if !h.valid fn sb then some (cIllegal, 0)
  else if topByte h.base == 0x01 then some (cPodAddress, h.base)
  else if !canonical h.base then some (cNonCanonical, h.base)
  else if topByte h.base != (if local_ then 0xFF else 0x00) then some (cBounds, h.base)
  else if h.base.toNat % n != 0 || (h.stride.any fun k => k % n != 0) then some (cMisaligned, h.base)
  else if !h.pm && !h.allInside then some (cBounds, h.addr h.firstOutside)
  else if !h.fits sb alloc || (local_ && h.beyond alloc) then some (cBounds, if h.dm % 2 == 1 then 0 else sb)
  else if h.dm % 2 == 0 && ((h.start sb).getD 0) % (if h.dm == 0 then n else 128) != 0 then some (cMisaligned, sb)
  else none

/-- Check 2 of R187: the record's address (R180). -/
def recordCause (s : State) (t : Team) (a : DWord) : BitVec 8 :=
  if !canonical a then cNonCanonical
  else if topByte a == 0x01 then cPodAddress
  else if a.toNat % 64 != 0 then cMisaligned
  else if topByte a == 0xFE then cBounds
  else if topByte a == 0xFF then (if field a 23 0 + 64 ≤ t.alloc then 0 else cBounds)
  else
    match translate s t.vc a (teamDie t) with
    | none => cTranslation
    | some l => if protectionFails s t.vc l.entry { bytes := 64 } then cProtection else 0

/-! ## The source of a slice -/

/-- A byte as a key that says where it lies, whichever address names it. -/
def byteKey (s : State) (t : Team) (va : DWord) : Nat :=
  match placeOf s t va with
  | .scratch k => k
  | .ring k => k
  | .paged va l =>
    let pa := leafAddr l va
    if leafBk l.entry then bankKey t.vc pa else if leafH l.entry then key .host pa else hbmAt pa
  | .peer _ _ => 0

/-- Addresses and sizes of the source of a slice: box elements, or the packed bytes of a copy out (R188). -/
def sourceParts (fn : BitVec 2) (sb : DWord) (h : Shape) : List (DWord × Nat) :=
  if fn == 1#2 then
    (linePieces (h.bytes + 1) ((h.start sb).getD 0) h.bytes).map fun p => (0xFF00000000000000#64 + BitVec.ofNat 64 p.1, p.2)
  else (List.range h.count).filterMap fun n => if h.inside n then some (h.addr n, fmtBytes h.fmt) else none

/-- Whether two byte ranges meet. -/
def rangesMeet (a n b m : Nat) : Bool := decide (a < b + m) && decide (b < a + n)

/-- Slices of a group whose collective has not started (R191). -/
def unstarted (s : State) (n : Nat) (g : Group) : List CopyEntry :=
  g.copies.filter fun e =>
    (coreAt s g.core).jobs.any fun j => j.team == g.team && j.group == n && j.number == e.number && !j.started

/-- A store or atomic of the issuing group touches the source of its own slice before the slice has read it (R191). -/
def copyHeld (s : State) (c : Ctx) (stores : List (DWord × Nat)) : Bool :=
  (unstarted s c.b.group c.g).any fun e =>
    (sourceParts e.fn e.sb (shapeOf e.record)).any fun p =>
      stores.any fun q => rangesMeet (byteKey s c.t p.1) p.2 (byteKey s c.t q.1) q.2

/-! ## Quantisation (R192) -/

/-- The value of an element as read (R184, R192). -/
def elementValue (fmt : Nat) (x : Nat) : FVal :=
  if fmt == 5 then unpack bf16 false x else if fmt == 6 then unpack f32 false x else unpackNarrow nf8 x

/-- floor(log2) of a value's magnitude; none for zero. -/
def log2V : FVal → Option Int
  | .fin _ m e => if m = 0 then none else some ((m.log2 : Int) + e)
  | _ => none

/-- The scale byte of a group of values (R192). -/
def groupScale (xs : List FVal) : Nat :=
  if xs.any fun x => match x with
    | .fin _ _ _ => false
    | _ => true
  then 255
  else
    match (xs.filterMap log2V) with
    | [] => 0
    | e :: es => (max 1 (es.foldl max e + 127)).toNat

/-- A value quantised under its group's scale byte (R192). -/
def quantise (e : Nat) (x : FVal) : Int :=
  match x with
  | .fin neg m k =>
    if e == 0 || e == 255 then 0
    else
      let q : Int := (roundAt .nearest neg m k false ((e : Int) - 133)).1
      if neg then max (-128) (-q) else min 127 q
  | _ => 0

end Sys2Proof.Machine
end

