-- ==== Sys2Proof/Machine/Access.lean ====
section
/-!
DEFINITION. Accesses by address: what atomics compute (R331, R349), lane addresses (R310), loads that land later (R57), and
the span window (R36, R135, R136).
-/

namespace Sys2Proof.Machine

/-! ## Lanes and addresses -/

/-- Lanes of a mask, lowest first. -/
def lanesIn (g : Group) (m : Mask) : List Nat := (List.range g.lanes.length).filter fun i => has m i

/-! ## What atomics compute -/

/-- A binary32 sum rounded to nearest-even, without a flag (R349). -/
def addF32 (x y : Word) : Word := BitVec.ofNat 32 (addF plainEnv (f32Of plainEnv x) (f32Of plainEnv y)).code

/-- New value of a 32-bit atomic: old, data, comparison value (R349). -/
def newAtom32 (i : Instr) (old d c : Word) : Word :=
  match i with
  | .atom f _ _ _ _ =>
    if f = 0#2 then old + d else if f = 1#2 then addF32 old d
    else if f = 2#2 then (if d.slt old then d else old) else (if old.slt d then d else old)
  | .atomb f _ _ _ _ => if f = 0#2 then old &&& d else if f = 1#2 then old ||| d else if f = 2#2 then old ^^^ d else d
  | .atomcCas _ _ _ _ => if old = c then d else old
  | .atomcMinN32 _ _ _ _ => if d.ult old then d else old
  | .atomcMaxN32 _ _ _ _ => if old.ult d then d else old
  | _ => old

/-- New value of `SATOM` (R331). -/
def newAtom64 (op : BitVec 4) (old d c : DWord) : DWord :=
  if op = 0#4 then old + d
  else if op = 1#4 then old &&& d
  else if op = 2#4 then old ||| d
  else if op = 3#4 then old ^^^ d
  else if op = 4#4 then d
  else if op = 5#4 then (if d.slt old then d else old)
  else if op = 6#4 then (if old.slt d then d else old)
  else if op = 7#4 then (if d.ult old then d else old)
  else if op = 8#4 then (if old.ult d then d else old)
  else if op = 9#4 then (if old = c then d else old)
  else old

/-- Bytes that an atomic reads and writes. -/
def atomBytes (i : Instr) : Nat :=
  match i with
  | .satom _ _ _ _ _ _ => 8
  | _ => 4

/-- New value of an atomic, as a number of its width. -/
def newAtom (i : Instr) (old d c : DWord) : DWord :=
  match i with
  | .satom op _ _ _ _ _ => newAtom64 op old d c
  | _ => (newAtom32 i (old.truncate 32) (d.truncate 32) (c.truncate 32)).setWidth 64

/-! ## Loads -/

/-- Words to be landed in a lane's registers from `r` on (R57, R400). -/
def addLoads (lane : Nat) (r : BitVec 6) (ws : List Word) (pois ready : Bool) (g : Group) : Group :=
  { g with loads := g.loads ++ mapFrom (fun k w =>
      { lane := lane, reg := r + BitVec.ofNat 6 k, data := w, pois := pois, ready := ready, acq := false, more := k != 0 }) 0 ws }

/-- The word of a waiting load that is on its way: an acquire (R165). -/
def addWaiting (lane : Nat) (r : BitVec 6) (g : Group) : Group :=
  { g with loads := g.loads ++ [{ lane := lane, reg := r, data := 0, pois := false, ready := false, acq := true, more := false }] }

/-- A place read by a lane: its words will land. -/
def loadLane (s : State) (c : Ctx) (p : Place) (lane : Nat) (r : BitVec 6) (n : Nat) : State :=
  let s1 := corePlace s c true p
  let x := readPlace s1 c.t p n
  onGroup s1 c (addLoads lane r (wordsOf x.1) x.2 true)

/-! ## Atomics -/

/-- An atomic on a ready place: the old value, and whether it is poisoned. A poisoned word is left as it is; the counting of
its line ends all the same (R154, R349). -/
def atomicPlace (s : State) (t : Team) (p : Place) (i : Instr) (d c : DWord) : State × DWord × Bool :=
  let n := atomBytes i
  let x := readPlace s t p n
  let old : DWord := BitVec.ofNat 64 (leBytes x.1)
  if x.2 then
    (match p with
     | .paged va l => if looseLeaf l.entry then s else endCounting s (lineAddr l.entry (leafAddr l va))
     | _ => s, old, true)
  else (writePlace s t p (toLeBytes n (newAtom i old d c).toNat), old, false)

/-! ## The span window -/

/-- A team's span with its number. -/
def spanOf (s : State) (t : Team) : Option (Nat × Span) := t.span.bind fun k => (s.spans[k]?).map fun x => (k, x)

/-- Whether a member's virtual chip lies on another package (R136). -/
def memberRemote (s : State) (t : Team) (sp : Span) (rank : Nat) : Bool :=
  vcnPkg (vcnEntry (guestOf s t.vc) ((sp.vcns[rank]?).getD 0)) != s.pkg

/-- The number of a member's line among those of its span. -/
def farKey (rank n : Nat) : Nat := rank * 2 ^ 17 + n

/-- The metadata of a line of a member on another package, as this package knows it. The spec does not say how a package learns of it:
the model keeps it with the span, where an input changes it and this package's own accesses change it as they issue (DESIGN CHOICE,
log 28). -/
def farLine (sp : Span) (rank n : Nat) : LineMeta := (tget sp.far (farKey rank n)).getD freshLine

/-- The metadata of a line of a member on another package changed. -/
def setFar (s : State) (k rank n : Nat) (l : LineMeta) : State :=
  modSpan s k fun sp =>
    { sp with far := if l = freshLine then tdel sp.far (farKey rank n) else tput sp.far (farKey rank n) l }

/-- An access of a team changes the metadata of a line of a member on another package; a member of this package changes its own. -/
def onFar (s : State) (t : Team) (rank n : Nat) (f : LineMeta → LineMeta) : State :=
  match spanOf s t with
  | some (k, sp) => if memberRemote s t sp rank then setFar s k rank n (f (farLine sp rank n)) else s
  | none => s

/-- The metadata that an access by request finds at its line: of a member on another package as this package knows it, of a member
here where it lies; none while that member is saved. -/
def memberLine (s : State) (t : Team) (rank n : Nat) : Option LineMeta :=
  match spanOf s t with
  | none => none
  | some (k, sp) =>
    if memberRemote s t sp rank then some (farLine sp rank n)
    else
      match memberTeam s k rank with
      | some (_, m) => if m.status == .resident || m.status == .halted then some (lineSeen s (teamKey m (n * 128))) else none
      | none => none

/-- An access that writes. -/
def reqWrites (q : SpanReq) : Bool := q.store || q.atom.isSome

/-- The pieces of a request: each with its lane, named by offset, or by place among lanes that act as one. -/
def reqPieces (q : SpanReq) : List (Nat × DWord) :=
  if q.form == 0 then q.lanes.map fun l => (l.off, BitVec.ofNat 64 l.lane)
  else mapFrom (fun k l => (k, BitVec.ofNat 64 l.lane)) 0 q.lanes

/-- The flits of a request: an atomic with its instruction's word, a store's data, or a load. Lanes that act as one share flits. -/
def reqFlits (tag : BitVec 32) (dest : FlitDest) (q : SpanReq) : List Flit :=
  let off := if q.form == 0 then ((q.lanes.head?).map fun l => l.off).getD 0 else 0
  let data := (q.lanes.map fun l => l.data).flatten
  match q.atom with
  | some i =>
    let word := toLeBytes 4 (((encodeWord i).getD (0, 0)).2)
    if q.form == 0 then [bareFlit opAtomic tag off (data ++ word) 19 true dest]
    else (writeFlits tag dest 0 (word ++ data)).map fun f => { f with op := opAtomic }
  | none => if q.store then writeFlits tag dest off data else [bareFlit opGet tag off [] (q.bytes - 1) true dest]

/-- A request sent to another package as pod traffic of the guest, under route label 0 (R136); without a link key all of it fails
(R267). -/
def sendReq (s : State) (n : Nat) (t : Team) (sp : Span) (q : SpanReq) : State :=
  let vcn := (sp.vcns[q.rank]?).getD 0
  let dest : FlitDest := .span sp.id sp.index q.rank q.form q.rc (if q.form == 0 then [] else q.lanes.map fun l => l.off)
  let kind : PodKind := if q.atom.isSome then .spanAtomic else if q.store then .spanStore else .spanLoad
  let b := beginOp s fun tag =>
    { tag := tag, vc := t.vc, group := n, kind := kind, cap := 0, bytes := 0, st := q.reg, peer := vcn,
      origin := 0xFE00000000000000 + BitVec.ofNat 64 (q.rank * 2 ^ 24), left := reqPieces q, total := q.bytes, err := 0, eq := false,
      startNs := s.time.toNat, req := some q }
  sendTo b.1 t.vc vcn 0 b.2 (reqFlits b.2 dest q)

/-- What performing a request leads to: it waits, its fill finds a live line, or it is done, with what each lane brings back. -/
inductive ReqResult where
  | waits
  | live
  | did (s : State) (outs : List (List Byte × Bool))
  deriving DecidableEq, Repr

/-- The keys of each line once, by the first byte that some keys name in it. -/
def lineKeys (ks : List Nat) : List Nat := (ks.map fun k => k / 128 * 128).eraseDups

/-- A write of some lanes is one action: a 64-bit unit that they cover together loses its poison (R149, R158). -/
def unpoison (ks : List Nat) (s : State) : State :=
  { s with poison := s.poison.filter fun u => !(List.range 8).all fun i => ks.contains (8 * u + i) }

/-- One lane of a request at its scratchpad bytes. -/
def reqLane (t : Team) (q : SpanReq) (s : State) (k : Nat) (l : SpanLane) : State × List Byte × Bool :=
  match q.atom with
  | some i =>
    let x := atomicPlace s t (.scratch k) i (BitVec.ofNat 64 (recField l.data 0 8)) (BitVec.ofNat 64 (recField l.data 8 8))
    (x.1, toLeBytes q.bytes x.2.1.toNat, x.2.2)
  | none => if q.store then (writeN s k l.data, [], false) else (s, readPlace s t (.scratch k) q.bytes)

/-- The lanes of a request one after another. -/
def reqLanes (t : Team) (q : SpanReq) : List (Nat × SpanLane) → State → State × List (List Byte × Bool)
  | [], s => (s, [])
  | p :: ps, s =>
    let x := reqLane t q s p.1 p.2
    let r := reqLanes t q ps x.1
    (r.1, x.2 :: r.2)

/-- What a form does to one of its lines (R150, R151). -/
def reqLine (q : SpanReq) (s : State) (k : Nat) : State :=
  if q.form == 2 then consumeLine s k
  else if q.form == 3 then fillLine s k q.rc 0
  else if q.form == 4 then emptyLine s k
  else s

/-- A request at the scratchpad of a member of this package (R148 to R151): a waiting form waits until every line is full, a fill
tests every line before it writes any byte, and the lanes act on their lines as one. -/
def atLines (s : State) (t : Team) (q : SpanReq) : ReqResult :=
  let ps := q.lanes.map fun l => (teamKey t l.off, l)
  let lines := lineKeys (ps.map fun p => p.1)
  if (q.form == 1 || q.form == 2) && lines.any fun k => !(lineSeen s k).f then .waits
  else if q.form == 3 && lines.any (lineLive s) then .live
  else
    let r := reqLanes t q ps s
    let s1 := if q.store then unpoison (ps.map fun p => (List.range q.bytes).map fun i => p.1 + i).flatten r.1 else r.1
    .did (lines.foldl (reqLine q) s1) r.2

/-- What a performed request brings back to its group. -/
def landReq (q : SpanReq) (outs : List (List Byte × Bool)) (g : Group) : Group :=
  if q.store then g else (q.lanes.zip outs).foldl (fun g p => landSpan p.1.lane q.reg p.2.1 p.2.2 g) g

/-- The members of a span that admit an access: attached and not saved; a member's own access while it joins too (R36). -/
def memberAdmits (sp : Span) (own rank : Nat) : Bool :=
  (sp.members[rank]? == some .attached || (own == rank && sp.members[rank]? == some .joining)) && !(sp.saved[rank]?).getD false

/-- The event records of a request that failed, one for each lane (R136). -/
def reqFailed (s : State) (t : Team) (sp : Span) (q : SpanReq) (kind : Nat) : State :=
  q.lanes.foldl (fun s l =>
    event s t.vc 3 [(9, kind), (10, (sp.vcns[q.rank]?).getD 0), (16, 0xFE00000000000000 + q.rank * 2 ^ 24 + l.off)]) s

/-- Bytes that the spec leaves open for each lane of a failed request, poisoned. -/
def openOuts (q : SpanReq) : List SpanLane → State → State × List (List Byte × Bool)
  | [], s => (s, [])
  | _ :: ls, s =>
    let r := drawBytes s q.bytes
    let x := openOuts q ls r.2
    (x.1, (r.1, true) :: x.2)

/-- A request whose member has left (R38, R136): its lanes get poisoned registers, or their bytes are not written. -/
def failReq (s : State) (n : Nat) (t : Team) (sp : Span) (q : SpanReq) : State :=
  let r := if q.store then (s, []) else openOuts q q.lanes s
  reqFailed (modGroup r.1 n (landReq q r.2)) t sp q 3

/-- Two accesses to a line of one member, one of which writes: they are performed in their order (R168, R169). A waiting or
consuming load holds back no access of other threads. -/
def orderedReqs (first later : SpanReq) : Bool :=
  first.rank == later.rank && (reqWrites first || reqWrites later) && !(first.form == 1 || first.form == 2)
    && first.lanes.any fun x => later.lanes.any fun y => x.off / 128 == y.off / 128

/-- Requests that come before a new one of a group: its own that wait or are on their way, and those of its team from before the
team was saved (R178). -/
def earlierReqs (s : State) (n : Nat) (g : Group) : List SpanReq :=
  let mine : List Nat := (teamGroups s g.team).map fun p => p.1
  g.reqs ++ ((teamGroups s g.team).flatMap fun p => if p.1 == n then [] else p.2.reqs.filter fun q => q.old)
    ++ (s.ops.filterMap fun o => if o.group == n then o.req else if mine.contains o.group then o.req.filter fun q => q.old else none)

/-- Whether a request of a group must wait for an earlier one. -/
def reqBehind (s : State) (n : Nat) (g : Group) (q : SpanReq) : Bool := (earlierReqs s n g).any fun e => orderedReqs e q

/-- A request performed, sent, or failed because the member has left; nothing while it still waits (R36, R38, R259).
A fill that comes late to a live line writes nothing and is recorded with kind 1 (log 13). -/
def performReq (s : State) (n : Nat) (q : SpanReq) : Option State :=
  match s.groups[n]? with
  | none => some s
  | some g =>
    match s.teams[g.team]? with
    | none => some s
    | some t =>
      match spanOf s t with
      | none => some s
      | some (k, sp) =>
        if reqBehind s n g q then none
        else if sp.members[q.rank]? == some .detached || sp.members[q.rank]? == some .released then some (failReq s n t sp q)
        else if !memberAdmits sp t.rank q.rank then none
        else if memberRemote s t sp q.rank then (if (guestOf s t.vc).paused then none else some (sendReq s n t sp q))
        else
          match memberTeam s k q.rank with
          | none => none
          | some (_, mt) =>
            if !(mt.status == .resident || mt.status == .halted) then none
            else
              match atLines s mt q with
              | .waits => none
              | .live => some (reqFailed s t sp q 1)
              | .did s1 outs => some (modGroup s1 n (landReq q outs))

/-- A span-window access made: performed, sent or put among the group's waiting requests (R36). -/
def submitReq (s : State) (n : Nat) (q : SpanReq) : State :=
  match performReq s n q with
  | some s1 => s1
  | none => modGroup s n fun g => { g with reqs := g.reqs ++ [q] }

/-- The waiting requests of a group that a test picks tried again, oldest first; those that still wait stay in order, before the
others. -/
def retryReqs (pick : SpanReq → Bool) (s : State) (n : Nat) : State :=
  match s.groups[n]? with
  | none => s
  | some g =>
    if !g.reqs.any pick then s
    else
      let s0 := modGroup s n fun g => { g with reqs := [] }
      let s1 := (g.reqs.filter pick).foldl (fun s q => submitReq s n q) s0
      modGroup s1 n fun x => { x with reqs := x.reqs ++ g.reqs.filter fun q => !pick q }

/-- The waiting requests of every group tried again, those from before a save first (R178). -/
def retryAll (s : State) : State :=
  let all := List.range s.groups.length
  all.foldl (retryReqs fun _ => true) (all.foldl (retryReqs fun q => q.old) s)

/-- The accesses of a saved team to span members that have not been performed come before every access after it resumes (R178). -/
def ageReqs (s : State) (team : Nat) : State :=
  let mine : List Nat := (teamGroups s team).map fun p => p.1
  { s with
    groups := s.groups.map fun g => if g.team == team then { g with reqs := g.reqs.map fun q => { q with old := true } } else g
    ops := s.ops.map fun o => if mine.contains o.group then { o with req := o.req.map fun q => { q with old := true } } else o }

/-- Lanes of a request that no waiting load counts for. -/
def reqCount (q : SpanReq) (ls : List Nat) : Nat := if q.store then ls.length else ls.countP fun l => decide (64 ≤ l)

/-- Outstanding requests of a core (R2, R36): loads and atomics whose data has not landed, and the other accesses that wait for a
span member or are on their way to one. -/
def coreRequests (s : State) (core : Nat) : Nat :=
  (mapFrom (fun n g => (n, g)) 0 s.groups).foldl (fun k p =>
    if p.2.core != core then k
    else
      k + (p.2.loads.countP fun l => !l.more)
        + (p.2.reqs.foldl (fun m q => m + reqCount q (q.lanes.map fun l => l.lane)) 0)
        + (s.ops.foldl (fun m o => match o.req with
            | some q => if o.group == p.1 then m + reqCount q (o.left.map fun x => x.2.toNat) else m
            | none => m) 0)) 0

/-- The memory queue has no room for more requests (R36, R297). -/
def queueFull (s : State) (c : Ctx) (n : Nat) : Bool := n != 0 && decide (Config.memoryRequests < coreRequests s c.g.core + n)

/-- A place that is reached by request. -/
def isPeer : Place → Bool
  | .peer _ _ => true
  | _ => false

/-- The lanes of an instruction that go by request. -/
def peerCount (s : State) (t : Team) (ls : List (Nat × DWord)) : Nat := ls.countP fun p => isPeer (placeOf s t p.2)

/-- A request of one lane that leaves line metadata alone. -/
def laneReq (lane : Nat) (r : BitVec 6) (rank off bytes : Nat) : SpanReq :=
  { reg := r, rank := rank, bytes := bytes, lanes := [{ lane := lane, off := off, data := [] }], store := false, atom := none,
    form := 0, rc := 0, old := false }

/-- The same with data: of a store, or of an atomic. -/
def dataReq (q : SpanReq) (store : Bool) (atom : Option Instr) (data : List Byte) : SpanReq :=
  { q with store := store, atom := atom, lanes := q.lanes.map fun l => { l with data := data } }

/-- The requests of an instruction whose lanes act as one: one for each member that they reach by request (R36, R149, R350). -/
def memberReqs (s : State) (t : Team) (form : Nat) (r rc : BitVec 6) (atom : Option Instr) (data : Nat → List Byte)
    (ls : List (Nat × DWord)) : List SpanReq :=
  let ps := ls.filterMap fun p => match placeOf s t p.2 with
    | .peer rank off => some (rank, ({ lane := p.1, off := off, data := data p.1 } : SpanLane))
    | _ => none
  ((ps.map fun p => p.1).eraseDups).map fun k =>
    { reg := r, rank := k, bytes := 4, lanes := (ps.filter fun p => p.1 == k).map fun p => p.2, store := form == 3 || form == 4,
      atom := atom, form := form, rc := rc, old := false }

/-! ## Vector memory instructions -/

/-- A per-lane memory instruction: its checks over every active lane (R343), its issue, then its effect lane by lane in
ascending order, and the requests of lanes that act as one. -/
def memLanes (i : Instr) (a : Acc) (addr : Ctx → Nat → DWord) (eff : Ctx → State → Nat → DWord → State) (s : State)
    (reqs : Ctx → List (Nat × DWord) → List SpanReq := fun _ _ => []) : Out :=
  issue i s fun c =>
    let ls := (lanesIn c.g c.b.mask).map fun k => (k, addr c k)
    match lanesFault s c.t a ls with
    | some (cause, lanes, va) => fault s c cause lanes va
    | none =>
      if queueFull s c (if a.write && !a.atomic then peerCount s c.t ls else ls.length) then stallFor s c .memoryQueue
      else if (a.write || a.atomic) && copyHeld s c (ls.map fun p => (p.2, a.bytes)) then stallFor s c .scoreboard
      else
        let s1 := withdrawIdem (issued i c s) c ((a.write || a.atomic) && ls.any fun p => beyondTeam p.2)
        (reqs c ls).foldl (fun s q => submitReq s c.b.group q) (ls.foldl (fun s p => eff c s p.1 p.2) s1)

/-- A load of a lane, wherever its address leads. -/
def loadAt (c : Ctx) (r : BitVec 6) (n : Nat) (s : State) (lane : Nat) (va : DWord) : State :=
  match placeOf s c.t va with
  | .peer rank off =>
    submitReq (onGroup s c (addLoads lane r (List.replicate (n / 4) 0) false false)) c.b.group (laneReq lane r rank off n)
  | p => loadLane s c p lane r n

/-- A store of a lane, wherever its address leads. -/
def storeAt (c : Ctx) (bs : List Byte) (s : State) (lane : Nat) (va : DWord) : State :=
  match placeOf s c.t va with
  | .peer rank off => submitReq s c.b.group (dataReq (laneReq lane 0 rank off bs.length) true none bs)
  | p => writePlace (corePlace s c false p) c.t p bs

/-- The data and the comparison value of an atomic, as a request carries them. -/
def atomData (d cmp : DWord) : List Byte := toLeBytes 8 d.toNat ++ toLeBytes 8 cmp.toNat

/-- An atomic of a lane; the old value will land in vd (R349, R350). That of a lane which goes by request is on its way. -/
def atomAt (c : Ctx) (i : Instr) (r : BitVec 6) (d cmp : Word) (s : State) (lane : Nat) (va : DWord) : State :=
  match placeOf s c.t va with
  | .peer _ _ => onGroup s c (addLoads lane r [0] false false)
  | p =>
    let x := atomicPlace (corePlace s c false p) c.t p i (d.setWidth 64) (cmp.setWidth 64)
    onGroup x.1 c (addLoads lane r [x.2.1.truncate 32] x.2.2 true)

end Sys2Proof.Machine
end

