-- ==== Sys2Proof/Machine/Span.lean ====
section
/-!
DEFINITION. Spans: the steps that a team takes and what they do to its members (R34 to R40, R457).
-/

namespace Sys2Proof.Machine

/-- Every live group of a team, and at least one, satisfies a test. -/
def allLive (s : State) (team : Nat) (f : Group → Bool) : Bool :=
  !(liveGroups s team).isEmpty && (liveGroups s team).all fun p => f p.2

/-- A group that waits for a span step goes on. -/
def releaseStep (k : Nat) (g : Group) : Group :=
  match g.wait with
  | .spanStep j m => if j == k then runHeld m { g with wait := .none } else g
  | _ => g

/-- A group whose team has taken a step: it counts as executed no more (R38, R287). -/
def stepTaken (k : Nat) (g : Group) : Group :=
  if k == 0 then { g with didJ := false } else if k == 1 then { g with didX := false } else { g with didB := false }

/-- The groups of a team go on after a step. -/
def releaseTeam (s : State) (team k : Nat) : State :=
  { s with groups := s.groups.map fun g =>
      if g.team == team then (if g.retired then stepTaken k g else releaseStep k (stepTaken k g)) else g }

/-- A member of a span. -/
def setMember (sp : Span) (rank : Nat) (m : MemberState) : Span := { sp with members := listMod (fun _ => m) rank sp.members }

/-- A member that is not detached (R38). -/
def notDetached (sp : Span) (rank : Nat) : Bool :=
  sp.members[rank]? == some .joining || sp.members[rank]? == some .attached

/-- Every member that is not detached has arrived at `SPANB`, and one has (R38). -/
def spanbFull (sp : Span) : Bool :=
  (List.range sp.members.length).all (fun r => !notDetached sp r || (sp.arrived[r]?).getD false)
    && sp.arrived.any fun a => a

/-- Teams of this package that are members of a span. -/
def spanTeams (s : State) (k : Nat) : List Nat :=
  (List.range s.teams.length).filter fun i => ((s.teams[i]?).bind fun t => t.span) == some k

/-- The `SPANB` phase completes if every member has arrived (R38). -/
def checkSpanb (s : State) (k : Nat) : State :=
  match s.spans[k]? with
  | none => s
  | some sp =>
    if spanbFull sp then
      (spanTeams s k).foldl (fun s t => releaseTeam s t 2)
        (modSpan s k fun sp => { sp with phase := !sp.phase, arrived := sp.arrived.map fun _ => false })
    else s

/-- A member arrives at `SPANB`. -/
def arriveMember (s : State) (k rank : Nat) : State :=
  checkSpanb (modSpan s k fun sp => { sp with arrived := listMod (fun _ => true) rank sp.arrived }) k

/-- A member is attached: accesses that wait for it are tried again (R36, R38). -/
def attachMember (s : State) (k rank : Nat) : State :=
  retryAll (modSpan s k fun sp => if sp.members[rank]? == some .joining then setMember sp rank .attached else sp)

/-- Once every member is detached, those whose teams have retired are released (R36, R39). -/
def releaseSpan (s : State) (k : Nat) : State :=
  match s.spans[k]? with
  | none => s
  | some sp =>
    if sp.members.all fun m => m == .detached || m == .released then
      modSpan s k fun sp => { sp with members := mapFrom (fun r m =>
        if s.teams.any fun t => t.span == some k && t.rank == r && t.status == .ended then .released else m) 0 sp.members }
    else s

/-- A member is detached (R38): its arrival is removed, and its peers' waiting accesses fail. -/
def detachMember (s : State) (k rank : Nat) : State :=
  match s.spans[k]? with
  | none => s
  | some sp =>
    if !notDetached sp rank then s
    else
      releaseSpan (checkSpanb (retryAll (modSpan s k fun sp =>
        { setMember sp rank .detached with arrived := listMod (fun _ => false) rank sp.arrived })) k) k

/-- The steps that a team may now take: `SPANJ` and `SPANB` (R38). `SPANX` completes with `SPAN_DETACHMENT`. -/
def settleSpan (s : State) (team : Nat) : State :=
  match s.teams[team]? with
  | none => s
  | some t =>
    match t.span with
    | none => s
    | some k =>
      let s1 :=
        if ((s.spans[k]?).bind fun sp => sp.members[t.rank]?) == some .joining && allLive s team (fun g => g.didJ) then
          releaseTeam (attachMember s k t.rank) team 0
        else s
      if ((s1.spans[k]?).bind fun sp => sp.arrived[t.rank]?) == some false
          && ((s1.spans[k]?).map fun sp => notDetached sp t.rank) == some true && allLive s1 team (fun g => g.didB) then
        arriveMember s1 k t.rank
      else s1

/-- Whether a team's detachment is under way: every live group has executed `SPANX` (R38). -/
def detaching (s : State) (team : Nat) (t : Team) : Bool :=
  match t.span.bind fun k => s.spans[k]? with
  | none => false
  | some sp => notDetached sp t.rank && allLive s team (fun g => g.didX)

/-- A peer's access that has reached a member and waits there (R38): a verified flit that is held for it (R150). -/
def heldAtMember (s : State) (t : Team) : Bool :=
  match t.span.bind fun k => s.spans[k]? with
  | none => false
  | some sp => s.trestle.any fun h => h.verified && match h.flit.dest with
    | .span id index rank _ _ _ => id == sp.id && index == sp.index && rank == t.rank && h.flit.dslot.toNat == t.vc
    | _ => false

/-- `SPAN_DETACHMENT` (R38): every access that reached the member before has been performed. -/
def execSpanDetachment (team : Nat) (s : State) : Out :=
  match s.teams[team]? with
  | none => .next s
  | some t =>
    if !detaching s team t || heldAtMember s t then .next s
    else
      match t.span with
      | none => .next s
      | some k => .next (releaseTeam (detachMember s k t.rank) team 1)

/-- What a span member on another package does (log 12). -/
def peerStep (s : State) (k rank : Nat) (p : PeerStep) : State :=
  if (memberTeam s k rank).isSome then s
  else
    match p with
    | .attach => attachMember s k rank
    | .detach => detachMember s k rank
    | .arrive => arriveMember s k rank
    | .reserve => modSpan s k fun sp => { sp with reserved := listMod (fun _ => true) rank sp.reserved }
    | .save => modSpan s k fun sp => { sp with saved := listMod (fun _ => true) rank sp.saved }
    | .line n l =>
      match s.spans[k]? with
      | some sp => if (sp.members[rank]?).isSome && decide (n < 2 ^ 17) then setFar s k rank n l else s
      | none => s
    | .resume => retryAll (modSpan s k fun sp => { sp with saved := listMod (fun _ => false) rank sp.saved })

end Sys2Proof.Machine
end

