-- ==== Sys2Proof/Machine/Control.lean ====
section
/-!
DEFINITION. The control instructions, MAJ 0x48 to 0x4F (R62 to R66, R73 to R77, R337), and `SBRA` (R446).
-/

namespace Sys2Proof.Machine

/-- The address after a 32-bit instruction. -/
def nextPc (c : Ctx) : DWord := c.b.pc + 4

/-- A target as a signed count of halfwords from the next instruction (R310). -/
def relTarget (c : Ctx) {w : Nat} (off : BitVec w) : DWord := nextPc c + (off.signExtend 64 <<< 1)

/-- Lanes sent to addresses of their own. -/
def jumpLanes (m : Mask) (f : Nat → Lane → DWord) (g : Group) : Group := onLanes m (fun i l => { l with pc := f i l }) g

/-- `BRA` (R355). -/
def execBra (o : BitVec 20) (n : BitVec 1) (g : BitVec 3) (s : State) : Out :=
  let i : Instr := .bra o n g
  issue i s fun c => onGroup (issued i c s) c (jumpLanes (acting c i) fun _ _ => relTarget c o)

/-- `SBRA` (R446): every active lane goes the same way. -/
def execSbra (k : BitVec 12) (a : BitVec 6) (z : BitVec 1) (s : State) : Out :=
  let i : Instr := .sbra k a z
  issue i s fun c =>
    if (readS c.g a == 0) == (z == 0#1) then onGroup (issued i c s) c (jumpLanes c.b.mask fun _ _ => relTarget c k)
    else issued i c s

/-- `JMP` (R398): an odd target faults at the jump. -/
def execJmp (a : BitVec 6) (s : State) : Out :=
  issue (.jmp a) s fun c =>
    let x := readS c.g a
    if x.getLsbD 0 then fault s c cMisaligned c.b.mask x
    else onGroup (issued (.jmp a) c s) c (jumpLanes c.b.mask fun _ _ => x)

/-! ## The return stack (R61 to R66) -/

/-- The access of a spill or a fill. -/
def stackAcc (write : Bool) : Acc := { bytes := 8, write := write }

/-- The lowest failing lane's fault: the lanes that fail the same way, and its address. -/
def firstFault (ls : List (Nat × BitVec 8 × DWord)) : Option (BitVec 8 × Mask × DWord) :=
  match ls with
  | [] => none
  | f :: _ => some (f.2.1, (ls.filter fun q => q.2.1 == f.2.1).foldl (fun m q => m ||| bit64 q.1) 0, f.2.2)

/-- `check_push` of a lane (R63): stack overflow, then the checks of the spill. -/
def pushFails (s : State) (c : Ctx) (i : Nat) : Option (Nat × BitVec 8 × DWord) :=
  let l := laneAt c.g i
  if l.d < 4 then none
  else
    let a := l.stack - 8
    if a.toNat < c.g.stacklim.toNat then some (i, cStack, a)
    else (addrCheck s c.t a (stackAcc true)).map fun r => (i, r.2, a)

/-- The on-chip part of a push: with four entries the oldest has been spilled (R63). -/
def pushLane (x : DWord) (l : Lane) : Lane :=
  if l.d < 4 then { l with rs := l.rs.setIfInBounds l.d x, d := l.d + 1 }
  else { l with rs := #v[l.rs[1], l.rs[2], l.rs[3], x], d := 4, stack := l.stack - 8, c := l.c + 1 }

/-- The spill of a lane whose four entries are in use (R64). -/
def spillLane (c : Ctx) (s : State) (i : Nat) : State :=
  let l := laneAt c.g i
  if l.d < 4 then s else storeAt c (toLeBytes 8 (l.rs[0]).toNat) s i (l.stack - 8)

/-- A call of the acting lanes: every push is checked before any effect (R63). -/
def callLanes (i : Instr) (c : Ctx) (target : Nat → Lane → DWord) (s : State) : State :=
  let ls := lanesIn c.g (acting c i)
  match firstFault (ls.filterMap (pushFails s c)) with
  | some (cause, m, a) => fault s c cause m a
  | none =>
    let spills := (ls.filter fun k => (laneAt c.g k).d == 4).map fun k => (laneAt c.g k).stack - 8
    if queueFull s c (spills.countP fun a => isPeer (placeOf s c.t a)) then stallFor s c .memoryQueue
    else if copyHeld s c (spills.map fun a => (a, 8)) then stallFor s c .scoreboard
    else
      let s1 := withdrawIdem (issued i c s) c (spills.any beyondTeam)
      let s2 := ls.foldl (spillLane c) s1
      onGroup s2 c (onLanes (acting c i) fun k l => { pushLane (nextPc c) l with pc := target k (laneAt c.g k) })

/-- `CALL` (R63, R358). -/
def execCall (o : BitVec 20) (n : BitVec 1) (g : BitVec 3) (s : State) : Out :=
  issue (.call o n g) s fun c => callLanes (.call o n g) c (fun _ _ => relTarget c o) s

/-- `CALLV` (R63, R65): odd targets fault before any push is checked. -/
def execCallv (a b : BitVec 6) (s : State) : Out :=
  issue (.callv a b) s fun c =>
    let odd := (lanesIn c.g c.b.mask).filterMap fun k =>
      if (laneAddr c b a k).getLsbD 0 then some (k, cMisaligned, laneAddr c b a k) else none
    match firstFault odd with
    | some (cause, m, x) => fault s c cause m x
    | none => callLanes (.callv a b) c (fun k _ => laneAddr c b a k) s

/-- What a lane's pop answers: an address, a fault with its address, or nothing until its entry has come from a span member. -/
inductive Popped where
  | value (x : DWord)
  | fails (cause : BitVec 8) (a : DWord)
  | waits
  deriving DecidableEq, Repr

/-- An entry read from memory (R442): poisoned data faults. -/
def poppedData (a x : DWord) (pois : Bool) : Popped := if pois then .fails cPoison a else .value x

/-- A lane's pop (R63, R64): from its on-chip entries, or a load of its own memory type from `%stack`. -/
def popLane (s : State) (c : Ctx) (i : Nat) : State × Popped :=
  let l := laneAt c.g i
  if l.d != 0 then (s, .value ((l.rs[l.d - 1]?).getD 0))
  else
    match addrCheck s c.t l.stack (stackAcc false) with
    | some r => (s, .fails r.2 l.stack)
    | none =>
      match placeOf s c.t l.stack with
      | .peer _ _ =>
        (s, match (c.g.fills.find? fun f => f.lane == i && f.addr == l.stack).bind fun f => f.data with
            | some x => poppedData l.stack x.1 x.2
            | none => .waits)
      | p =>
        let s1 := corePlace s c true p
        let x := readPlace s1 c.t p 8
        (s1, poppedData l.stack (BitVec.ofNat 64 (leBytes x.1)) x.2)

/-- An odd address faults at the `RET` (R63). -/
def popChecked : Popped → Popped
  | .value x => if x.getLsbD 0 then .fails cMisaligned x else .value x
  | p => p

/-- The stack of a lane after a pop. -/
def popped (l : Lane) : Lane := if l.d != 0 then { l with d := l.d - 1 } else { l with stack := l.stack + 8, c := l.c - 1 }

/-- The pops of some lanes, with the state that holds their lines. -/
def popAll (c : Ctx) : List Nat → State → State × List (Nat × Popped)
  | [], s => (s, [])
  | i :: is, s =>
    let r := popLane s c i
    let q := popAll c is r.1
    (q.1, (i, popChecked r.2) :: q.2)

/-- A lane's entry asked for at the span member that holds it, once (R36, R64). -/
def askFill (c : Ctx) (s : State) (i : Nat) : State :=
  let a := (laneAt c.g i).stack
  if c.g.fills.any fun f => f.lane == i && f.addr == a then s
  else
    match placeOf s c.t a with
    | .peer rank off =>
      submitReq (onGroup s c fun g => { g with fills := g.fills ++ [{ lane := i, addr := a, data := none }] }) c.b.group
        (laneReq (65 + i) 0 rank off 8)
    | _ => s

/-- `RET` (R63, R64, R442): underflow, then what the pops answer, lane by lane, before any effect. An entry that lies in a span
member reached by request is asked for, and the instruction waits for it. -/
def execRet (n : BitVec 1) (g : BitVec 3) (s : State) : Out :=
  let i : Instr := .ret n g
  issue i s fun c =>
    let ls := lanesIn c.g (acting c i)
    let under := ls.filter fun k => (laneAt c.g k).d == 0 && (laneAt c.g k).c == 0
    if !under.isEmpty then
      takeTrap s c.b.group
        { cause := cStack, lanes := under.foldl (fun m k => m ||| bit64 k) 0, addr := 0, pc := c.b.pc, underflow := true, exc := [] }
    else
      let r := popAll c ls s
      let late := (r.2.filter fun q => q.2 == .waits).map fun q => q.1
      let need := late.countP fun k => !c.g.fills.any fun f => f.lane == k && f.addr == (laneAt c.g k).stack
      if queueFull s c need then stallFor s c .memoryQueue
      else if !late.isEmpty then late.foldl (askFill c) (stallFor s c .scoreboard)
      else
        match firstFault (r.2.filterMap fun q => match q.2 with
            | .fails cause a => some (q.1, cause, a)
            | _ => none) with
        | some (cause, m, a) => fault s c cause m a
        | none =>
          onGroup (issued i c r.1) c fun g =>
            { onLanes (acting c i) (fun k l =>
                { popped l with pc := match r.2.find? fun q => q.1 == k with
                    | some (_, .value x) => x
                    | _ => l.pc }) g with
              fills := g.fills.filter fun f => !ls.contains f.lane }

/-! ## The end of an item (R73 to R80) -/

/-- The launch value of a lane's `%stack` (R89). -/
def launchStack (t : Team) (num width lane : Nat) : DWord :=
  if t.sdepth = 0 then 8
  else t.sbase + BitVec.ofNat 64 (((t.index * t.kernel.ngroup + num) * width + lane + 1) * t.sdepth)

/-- A span member whose groups have all retired is detached (R36, R378). -/
def leaveSpan (s : State) (team : Nat) : State :=
  match s.teams[team]? with
  | none => s
  | some t =>
    match t.span with
    | some k => if (liveGroups s team).isEmpty then detachMember s k t.rank else s
    | none => s

/-- A group none of whose lanes is live retires (R74, R80), once its stores and atomics have been performed; it counts as having
executed any span step (R38). Its loads, copies and multiplies go on (R76, R80). -/
def retireIfDone (s : State) (n : Nat) : State :=
  match s.groups[n]? with
  | some g => if !g.retired && liveMask g == 0 && !storesOut s n g then leaveSpan (settleSpan (retireGroup s n) g.team) g.team else s
  | none => s

/-- `EXIT` (R74, R77). -/
def execExit (n : BitVec 1) (g : BitVec 3) (s : State) : Out :=
  let i : Instr := .exit n g
  issue i s fun c =>
    retireIfDone (onGroup (issued i c s) c (onLanes (acting c i) fun _ l => { l with st := .exited, pc := c.b.pc })) c.b.group

/-- The lanes of a mask, lowest first, each given the next item or drained (R74). -/
def handOut (t : Team) (entry : DWord) (pc : DWord) (num width : Nat) (m : Mask) : Nat → Nat → List Lane → List Lane × Nat
  | _, next, [] => ([], next)
  | i, next, l :: ls =>
    if !has m i then
      let r := handOut t entry pc num width m (i + 1) next ls
      (l :: r.1, r.2)
    else if next < t.end_ then
      let r := handOut t entry pc num width m (i + 1) (next + 1) ls
      ({ l with item := BitVec.ofNat 32 next, gen := l.gen + 1, d := 0, c := 0, stack := launchStack t num width i, pc := entry } :: r.1, r.2)
    else
      let r := handOut t entry pc num width m (i + 1) next ls
      ({ l with st := .drained, pc := pc } :: r.1, r.2)

/-- `REFILL` (R74 to R77, R441): its hand-outs advance counter 0x025. -/
def execRefill (n : BitVec 1) (g : BitVec 3) (s : State) : Out :=
  let i : Instr := .refill n g
  issue i s fun c =>
    let m := acting c i
    let given := Nat.min (lanesIn c.g m).length (c.t.end_ - c.t.next)
    let s1 := countBay (issued i c s) c.t.vc c.g.core c.g.bay 0x025 given
    let s2 := onGroup s1 c fun x =>
      { x with lanes := (handOut c.t (c.t.kernel.refill.getD 0) c.b.pc x.num x.width m 0 c.t.next x.lanes).1 }
    let s3 := modTeam s2 c.g.team fun t => { t with next := t.next + given }
    retireIfDone s3 c.b.group

/-! ## The rest -/

/-- `NOP` (R419). -/
def execNop (n : BitVec 1) (g : BitVec 3) (s : State) : Out := issue (.nop n g) s fun c => issued (.nop n g) c s

/-- `YIELD` (R467): the bundle's lanes issue nothing before the next regroup. -/
def execYield (n : BitVec 1) (g : BitVec 3) (s : State) : Out :=
  let i : Instr := .yield n g
  issue i s fun c =>
    if acting c i == 0 then issued i c s
    else onGroup (issued i c s) c fun x => { x with yielded := x.yielded ||| c.b.mask }

/-- `SLEEP` (R455): the acting lanes wake 16 × n clocks later, at the earliest. -/
def execSleep (k : BitVec 16) (n : BitVec 1) (g : BitVec 3) (s : State) : Out :=
  let i : Instr := .sleep k n g
  issue i s fun c =>
    if k = 0#16 then issued i c s
    else
      let wake := (coreAt s c.g.core).clock + BitVec.ofNat 64 (16 * k.toNat)
      onGroup (issued i c s) c (onLanes (acting c i) fun _ l => { l with wake := some wake })

/-- `TRAP` (R464). -/
def execTrap (k : BitVec 16) (n : BitVec 1) (g : BitVec 3) (s : State) : Out :=
  let i : Instr := .trap k n g
  issue i s fun c => if acting c i == 0 then issued i c s else fault s c cTrap (acting c i) 0

/-- `BRK` (R357). -/
def execBrk (k : BitVec 16) (n : BitVec 1) (g : BitVec 3) (s : State) : Out :=
  let i : Instr := .brk k n g
  issue i s fun c => if acting c i == 0 then issued i c s else fault s c cBreakpoint (acting c i) 0

/-- `SLEEP_EXPIRY` (R455): a lane whose clocks have passed wakes, and with it every lane of its group that sleeps to
the same clock (the lanes of one SLEEP wake together). -/
def execSleepExpiry (n lane : Nat) (s : State) : Out :=
  match s.groups[n]? with
  | none => .next s
  | some g =>
    match (laneAt g lane).wake with
    | none => .next s
    | some w =>
      if (coreAt s g.core).clock.toNat < w.toNat then .next s
      else .next (modGroup s n (onLanes (laneMask g fun _ l => l.wake == some w) fun _ l => { l with wake := none }))

/-- `ILLEGAL_INSTRUCTION` (R328): a unit or word that decodes to no instruction faults precisely. -/
def execIllegalInstruction (s : State) : Out := issue .illegalInstruction s fun _ => s

end Sys2Proof.Machine
end

