-- ==== Sys2Proof/Machine/Barrier.lean ====
section
/-!
DEFINITION. The barrier instructions, MAJ 0x5A (R28 to R33, R352, R353), and the span instructions, MAJ 0x5B (R36 to R40, R457).
-/

namespace Sys2Proof.Machine

/-- The issuing group's barrier b. -/
def barrierAt (s : State) (c : Ctx) (b : Nat) : Barrier :=
  ((s.teams[c.g.team]?).bind fun t => t.barriers[b]?).getD { e := 0, a := 0, p := false, arr := 0, wd := 0 }

/-- The issuing group takes part in barrier b (R29). -/
def partIn (c : Ctx) (b : Nat) : Bool := takesPart c.t c.g b

/-- Waiting for the current phase of a barrier, unissued (R353). -/
def waitPhase (c : Ctx) (b : Nat) (s : State) : State :=
  onGroup (stallFor s c .barrier) c fun g => { g with wait := .phase b false }

/-- The live threads held at the instruction after a `BAR` that has arrived (R353). -/
def holdArrived (c : Ctx) (w : Wait) (s : State) : State :=
  onGroup s c fun g =>
    { onLanes c.b.mask (fun _ l => if live l then { l with st := .held } else l) g with wait := w, stall := .barrier }

/-- `BAR` (R31, R352, R353). -/
def execBar (b : BitVec 4) (s : State) : Out :=
  issueConv (.bar b) s fun c s =>
    let n := b.toNat
    let x := barrierAt s c n
    if partIn c n then
      if x.arr.getLsbD c.g.num then waitPhase c n s
      else
        let r := arriveBarrier x c.g.num
        let s1 := putBarrier (issued (.bar b) c s) c.g.team n r
        if r.2 then s1 else holdArrived c (.arrived n c.b.mask) s1
    else if x.e == 0 || c.g.wait == .phase n true then issued (.bar b) c s
    else waitPhase c n s

/-- `BARA` (R31): a non-participant's does nothing. -/
def execBara (b : BitVec 4) (s : State) : Out :=
  issueConv (.bara b) s fun c s =>
    let n := b.toNat
    let x := barrierAt s c n
    if !partIn c n then issued (.bara b) c s
    else if x.arr.getLsbD c.g.num then waitPhase c n s
    else putBarrier (issued (.bara b) c s) c.g.team n (arriveBarrier x c.g.num)

/-- `BARW` (R31): waits for the current phase without arriving. -/
def execBarw (b : BitVec 4) (s : State) : Out :=
  issueConv (.barw b) s fun c s =>
    let n := b.toNat
    if (barrierAt s c n).e == 0 || c.g.wait == .phase n true then issued (.barw b) c s else waitPhase c n s

/-- `BARX` (R31, R32). -/
def execBarx (b : BitVec 4) (s : State) : Out :=
  issueConv (.barx b) s fun c s =>
    let n := b.toNat
    let s1 := issued (.barx b) c s
    if partIn c n then putBarrier s1 c.g.team n (leaveBarrier (barrierAt s c n) c.g.num) else s1

/-- The state of the issuing team as a member of its span. -/
def ownMember (s : State) (c : Ctx) : Option MemberState :=
  (c.t.span.bind fun k => s.spans[k]?).bind fun sp => sp.members[c.t.rank]?

/-- A team outside a span, or a member that has left it, raises the span-member-departed fault (R38). -/
def departed (s : State) (c : Ctx) : Bool := !(ownMember s c == some .joining || ownMember s c == some .attached)

/-- A span instruction (R38, R457): its execution is counted and the group is held at the following instruction until the
team has taken the step; it withdraws the idempotent flag (R291). -/
def spanStep (i : Instr) (k : Nat) (mark : Group → Group) (c : Ctx) (s : State) : State :=
  if departed s c then fault s c cDeparted c.b.mask 0
  else
    let s1 := withdrawIdem (issued i c s) c true
    settleSpan (onGroup (holdArrived c (.spanStep k c.b.mask) s1) c mark) c.g.team

/-- `SPANJ` (R38): after attachment it has no effect. -/
def execSpanj (s : State) : Out :=
  issueConv .spanj s fun c s =>
    if ownMember s c == some .attached then withdrawIdem (issued .spanj c s) c true
    else spanStep .spanj 0 (fun g => { g with didJ := true }) c s

/-- `SPANX` (R38). -/
def execSpanx (s : State) : Out := issueConv .spanx s fun c s => spanStep .spanx 1 (fun g => { g with didX := true }) c s

/-- `SPANB` (R38). -/
def execSpanb (s : State) : Out := issueConv .spanb s fun c s => spanStep .spanb 2 (fun g => { g with didB := true }) c s

end Sys2Proof.Machine
end

