-- ==== Sys2Proof/Machine/Schedule.lean ====
section
/-!
DEFINITION. Fetching (R42 to R46, R305), bundles and their order (R48, R51 to R54), and the clock.
-/

namespace Sys2Proof.Machine

/-! ## Fetch -/

/-- Why a 16-bit unit at an address cannot be fetched, by either path (R44). -/
def fetchCause (s : State) (v die : Nat) (a : DWord) : Option (BitVec 8) :=
  if !canonical a || topByte a != 0 then some cNonCanonical
  else
    match translate s v a die with
    | none => some cTranslation
    | some l => if protectionFails s v l.entry { bytes := 2, fetch := true } then some cProtection else none

/-- One 16-bit unit fetched from memory at an address: the cause of a failure, or its bytes with the state that holds the leaf. -/
def fetchUnit (s : State) (v die : Nat) (a : DWord) : State × Except (BitVec 8) (List Byte) :=
  match fetchCause s v die a, translate s v a die with
  | some e, _ => (s, .error e)
  | none, none => (s, .error cTranslation)
  | none, some l =>
    let s1 := ready s v a die
    (s1, .ok (readN s1 (pagedKey s1 v l.entry (leafAddr l a)) 2))

/-- The bytes of the instruction at an address: one unit or two (R305). -/
def fetchBytes (s : State) (v die : Nat) (a : DWord) : State × Except (BitVec 8) (List Byte) :=
  if a.getLsbD 0 then (s, .error cMisaligned)
  else
    match fetchUnit s v die a with
    | (s1, .error e) => (s1, .error e)
    | (s1, .ok u) =>
      if leBytes u % 2 == 0 then (s1, .ok u)
      else
        match fetchUnit s1 v die (a + 2) with
        | (s2, .error e) => (s2, .error e)
        | (s2, .ok w) => (s2, .ok (u ++ w))

/-- The unit of a loop buffer at an address (R45). -/
def loopUnit (l : Lane) (a : DWord) : Option (BitVec 16) := (l.loop.find? fun e => e.1 == a).map fun e => e.2

/-- The bytes of the instruction at an address in a lane's loop buffer: a hit only if every unit is there (R46). -/
def loopBytes (l : Lane) (a : DWord) : Option (List Byte) :=
  match loopUnit l a with
  | none => none
  | some u =>
    if u.getLsbD 0 then (loopUnit l (a + 2)).map fun w => toLeBytes 2 u.toNat ++ toLeBytes 2 w.toNat
    else some (toLeBytes 2 u.toNat)

/-- The instruction at an address taken from a lane's loop buffer: every unit of it passes the checks of a fetch (R44, R46). -/
def loopFetch (s : State) (v die : Nat) (l : Lane) (a : DWord) : Option (Except (BitVec 8) (List Byte)) :=
  (loopBytes l a).map fun bs =>
    match fetchCause s v die a, (if bs.length > 2 then fetchCause s v die (a + 2) else none) with
    | some e, _ => .error e
    | none, some e => .error e
    | none, none => .ok bs

/-- Fetched units made most recent; the buffer keeps 48 (R45). Of the two units of one fetch the second counts as the more recent
(DESIGN CHOICE, log 24: R45 does not say). -/
def keepUnits (a : DWord) (bs : List Byte) (l : Lane) : Lane :=
  let u1 : DWord × BitVec 16 := (a, BitVec.ofNat 16 (leBytes (bs.take 2)))
  let u2 : DWord × BitVec 16 := (a + 2, BitVec.ofNat 16 (leBytes (bs.drop 2)))
  let us := if bs.length > 2 then [u2, u1] else [u1]
  { l with loop := (us ++ l.loop.filter fun e => !us.any fun u => u.1 == e.1).take 48 }

/-- The instruction that some fetched bytes encode; any others are the illegal instruction (R328). -/
def decodeOr (bs : List Byte) : Instr :=
  match decode bs with
  | .ok (i, _) => i
  | .error _ => .illegalInstruction

/-! ## Bundles -/

/-- A thread that can be fetched for: live, not held and not asleep (R42, R455). -/
def fetchable (l : Lane) : Bool := (l.st == .running || l.st == .parked) && l.wake.isNone

/-- The lowest PC of the lanes for which a test holds. -/
def lowestPc (f : Lane → Bool) (g : Group) : Option DWord :=
  g.lanes.foldl (fun m l =>
    if f l then
      match m with
      | none => some l.pc
      | some p => if l.pc.toNat < p.toNat then some l.pc else m
    else m) none

/-- A group whose bundles may issue now. -/
def groupReady (s : State) (g : Group) : Bool :=
  match s.teams[g.team]? with
  | none => false
  | some t =>
    mayIssue g t && g.fault.isNone && g.emul.isNone
      && match g.wait with
         | .none => true
         | .phase _ r => r
         | _ => false

/-- A running thread away from the broadcast address (R46). -/
def strays (g : Group) (l : Lane) : Bool := l.st == .running && l.wake.isNone && lowestPc fetchable g != some l.pc

/-- The instruction that a thread's loop buffer holds at its PC (R46). -/
def loopInstr (l : Lane) : Option Instr := (loopBytes l l.pc).map decodeOr

/-- The PCs of the threads that a test picks, each once. -/
def pcsOf (f : Nat → Lane → Bool) (g : Group) : List DWord :=
  (((g.lanes.zipIdx.filter fun p => f p.2 p.1)).map fun p => p.1.pc).eraseDups

/-- The threads that a test picks, as one bundle for each PC (R48). -/
def bundlesBy (f : Nat → Lane → Bool) (g : Group) : List Mask :=
  (pcsOf f g).map fun pc => laneMask g fun i l => f i l && l.pc == pc

/-- The broadcast bundle of a group (R42), or, once every live lane is held, the lanes held lowest (R58, R59). -/
def broadcastBundle (n : Nat) (g : Group) : Option Bundle :=
  match lowestPc fetchable g with
  | some pc =>
    let m := laneMask g fun i l => fetchable l && l.pc == pc && !has g.yielded i
    if m == 0 then none else some { group := n, pc := pc, mask := m, broadcast := true, other := 0, second := false }
  | none =>
    if g.lanes.any fun l => live l && l.wake.isSome then none
    else
      match lowestPc (fun l => l.st == .held) g with
      | some pc => some { group := n, pc := pc, mask := heldAt g pc, broadcast := true, other := 0, second := false }
      | none => none

/-- A loop-buffer bundle of a group (R48): its threads that run away from the broadcast address and hit in their loop buffers
(R46). They stand at one PC (`settleGroup`). -/
def loopBundle (n : Nat) (g : Group) (k : Nat) : Option Bundle :=
  match g.loops[k]? with
  | none => none
  | some m =>
    let runs (i : Nat) (l : Lane) : Bool := has m i && strays g l && !has g.yielded i && (loopInstr l).isSome
    match pcsOf runs g with
    | [] => none
    | pc :: _ =>
      some { group := n, pc := pc, mask := laneMask g fun i l => runs i l && l.pc == pc, broadcast := false, other := 0, second := false }

/-- The bundles of a group: its broadcast bundle and its loop-buffer bundles (R48). -/
def bundlesOf (n : Nat) (g : Group) : List Bundle :=
  (broadcastBundle n g).toList ++ (List.range g.loops.length).filterMap (loopBundle n g)

/-- The bundles of every group that may issue. -/
def candidates (s : State) : List Bundle :=
  (mapFrom (fun i g => (i, g)) 0 s.groups).flatMap fun p => if groupReady s p.2 then bundlesOf p.1 p.2 else []

/-- The bytes of a bundle's next instruction, by its own path: the broadcast fetch, or the loop buffer of its threads (R42, R46). -/
def fetchFor (s : State) (g : Group) (v die : Nat) (b : Bundle) : State × Except (BitVec 8) (List Byte) :=
  if b.broadcast then fetchBytes s v die b.pc
  else
    match (g.lanes.find? fun l => l.pc == b.pc && (loopInstr l).isSome).bind fun l => loopFetch s v die l b.pc with
    | some r => (s, r)
    | none => fetchBytes s v die b.pc

/-- The next instruction of a bundle, if its fetch succeeds. -/
def peek (s : State) (b : Bundle) : Option Instr :=
  match s.groups[b.group]? with
  | none => none
  | some g =>
    match s.teams[g.team]? with
    | none => none
    | some t =>
      match (fetchFor s g t.vc (teamDie t) b).2 with
      | .ok bs => some (decodeOr bs)
      | .error _ => none

/-! ## Fused bundles (R53, R54) -/

/-- The bundle of a group with some lanes. -/
def bundleWith (s : State) (n : Nat) (m : Mask) : Option Bundle :=
  match s.groups[n]? with
  | none => none
  | some g => if groupReady s g then (bundlesOf n g).find? fun b => b.mask == m else none

/-- The bundle with which a bundle is fused: the two still have the lanes with which they were fused, stand at one PC, and their
next instruction is one that a fused bundle issues (R54). -/
def fusedWith (s : State) (b : Bundle) : Option Bundle :=
  match s.groups[b.group]? with
  | none => none
  | some g =>
    match g.fused.find? fun f => f.own == b.mask with
    | none => none
    | some f =>
      (bundleWith s f.partner f.other).filter fun p =>
        p.pc == b.pc && ((peek s b).map fusable).getD false
          && ((s.groups[f.partner]?).map fun h => h.fused.any fun k => k.own == f.other && k.partner == b.group && k.other == f.own) == some true

/-! ## The order of R51 -/

/-- Effective priority of a group's bundle (R51). -/
def ownPrio (g : Group) (b : Bundle) : Nat :=
  if g.lanes.zipIdx.any fun p => has b.mask p.2 && (p.1.boosted || decide (1024 ≤ p.1.waits)) then 31 else g.prio.toNat

/-- What a bundle's group, and that of the bundle it is fused with, give. -/
def halves (s : State) (b : Bundle) : List (Group × Bundle) :=
  (b :: (fusedWith s b).toList).filterMap fun x => (s.groups[x.group]?).map fun g => (g, x)

/-- Effective priority of a bundle: a fused bundle has the higher of its halves' (R51, R52). -/
def effectivePrio (s : State) (b : Bundle) : Nat := (halves s b).foldl (fun m p => max m (ownPrio p.1 p.2)) 0

/-- The clock of admission that gives a bundle its age: a fused bundle has the older of its halves' (R51, R52). -/
def effectiveAge (s : State) (b : Bundle) : Nat :=
  match (halves s b).map fun p => p.1.age.toNat with
  | [] => 0
  | a :: as => as.foldl Nat.min a

/-- Whether one candidate comes before another: priority, then age, then group number (R51). -/
def before (s : State) (a b : Bundle) : Bool :=
  match s.groups[a.group]?, s.groups[b.group]? with
  | some g, some h =>
    let p := effectivePrio s a
    let q := effectivePrio s b
    if p != q then decide (q < p)
    else if effectiveAge s a != effectiveAge s b then decide (effectiveAge s a < effectiveAge s b)
    else decide (g.num < h.num)
  | _, _ => false

/-- The first of some bundles in the order of R51. Of two bundles of one group that tie, the one listed first, which is the
broadcast bundle before a loop-buffer bundle, comes first (DESIGN CHOICE, log 24: R51 does not say). -/
def firstBundle (s : State) : List Bundle → Option Bundle
  | [] => none
  | b :: bs =>
    match firstBundle s bs with
    | none => some b
    | some c => if before s c b then some c else some b

/-! ## Time -/

/-- The line of the instruction cache that holds an address, with its TLB tag, if it can be fetched. -/
def codeLine (s : State) (v die : Nat) (a : DWord) : Option (TlbTag × Nat) :=
  (translate s v a die).map fun l => (tlbTag v a l, cacheLine v l.entry (leafAddr l a))

/-- Whether a line of the instruction cache is pinned on a core by a launch that has pins there (R323). -/
def pinned (s : State) (v die core n : Nat) : Bool :=
  (coreAt s core).pins.any fun p => (List.range p.2.2).any fun i =>
    match codeLine s v die (BitVec.ofNat 64 (p.2.1 + 128 * i)) with
    | some (_, m) => m == n
    | none => false

/-- A unit fetched by broadcast goes through the core's L1 TLB and its instruction cache; what was not there is a miss, and is
brought in, but never at the cost of a pinned line (R141, R142, R299, R323). -/
def useCode (v die core bay : Nat) (s : State) (a : DWord) : State :=
  match codeLine s v die a with
  | none => s
  | some (k, n) =>
    let x := useTlb k (coreAt s core).tlb1
    let y := useLine (pinned s v die core) n (coreAt s core).icache
    let s1 := modCore s core fun c => { c with tlb1 := x.1, icache := y.1 }
    let s2 := if x.2 then countBay s1 v core bay 0x024 1 else s1
    if y.2 then countBay s2 v core bay 0x022 1 else s2

/-- Whether a group's broadcast fetch waits for its line: the instruction cache does not hold it (R42, R297). -/
def fetchWaits (s : State) (g : Group) (t : Team) : Bool :=
  match lowestPc fetchable g with
  | none => false
  | some a =>
    match codeLine s t.vc (teamDie t) a with
    | some (_, n) => !(coreAt s g.core).icache.contains n
    | none => false

/-- The code of a stall reason (R297). -/
def stallCode : Stall → Nat
  | .issued => 0
  | .scoreboard => 1
  | .fullBit => 2
  | .token => 3
  | .barrier => 4
  | .wrongEngine => 5
  | .ringFull => 6
  | .fetch => 7
  | .loopPark => 8
  | .priorityLoss => 9
  | .memoryQueue => 10
  | .allowance => 11
  | .emulation => 12
  | .trapHalt => 13
  | .drained => 14
  | .pairing => 15

/-- Whether the `MMA` at the head of its engine's queue is one of this group and waits for a ring slot (R212). -/
def ringWaits (s : State) (n : Nat) (g : Group) : Bool :=
  let e := (coreAt s g.core).engine
  e.running.isNone && !e.opened && e.closed == 4 && ((e.queue.head?).map fun j => j.group == n) == some true

/-- Threads of a group wait at a convergent instruction (R58, R395), or its live threads all sleep (R455). -/
def waitsIdle (g : Group) : Bool :=
  (g.lanes.any fun l => l.st == .held && l.wake.isNone)
    || ((g.lanes.any fun l => live l) && g.lanes.all fun l => !live l || l.wake.isSome)

/-- Stall reasons of a group on the present clock (R297): why each of its bundles does not issue, what the group itself waits for,
and, of a group that may not issue, the reason with which it stopped. -/
def sampleStalls (s : State) (n : Nat) (g : Group) (t : Team) : List Stall :=
  ((s.waiting.filter fun w => w.1 == n).map fun w => w.2)
    ++ (if mayIssue g t then [] else [g.stall])
    ++ (if !g.retired && waitsAtBarrier g then [.barrier] else []) ++ (if !g.retired && waitsIdle g then [.scoreboard] else [])
    ++ (if ringWaits s n g then [.ringFull] else [])
    ++ (if g.lanes.any (fun l => l.st == .parked) then [.loopPark] else []) ++ (if g.emul.isSome then [.emulation] else [])
    ++ (if t.status == .halted && !mayIssue g t then [.trapHalt] else []) ++ (if g.retired then [.drained] else [])

/-- The codes that apply to a group on the present clock (R297). A group with no instruction to wait for has code 0. -/
def sampleCodes (s : State) (n : Nat) (g : Group) (t : Team) : List Nat :=
  let issued : Bool := g.issuedAt == (coreAt s g.core).clock && g.stall == .issued
  (sampleStalls s n g t).map stallCode
    ++ (if !g.retired && !issued && fetchWaits s g t then [7] else []) ++ (if issued && g.paired then [15] else [])

/-- The sample reason of a group: the highest code that applies (R297). -/
def sampleReason (s : State) (n : Nat) (g : Group) (t : Team) : Nat := (sampleCodes s n g t).foldl max 0

/-- The clocks counter, and the clocks of each group by reason (R299). -/
def countClocks (s : State) : State :=
  let s1 := { s with vchips := s.vchips.map fun c =>
    { c with bayCounters := c.bayCounters.map fun e => (e.1, bumpCounter 0x000 1 e.2) } }
  (mapFrom (fun n g => (n, g)) 0 s.groups).foldl (fun u p =>
    match s.teams[p.2.team]? with
    | none => u
    | some t =>
      if inPlace t && (!p.2.retired || t.span.isSome) then countBay u t.vc p.2.core p.2.bay (0x010 + sampleReason s p.1 p.2 t) 1 else u) s1

/-- Whether a thread's loop buffer misses at its PC (R46). -/
def loopMiss (g : Group) (l : Lane) : Bool := strays g l && (loopInstr l).isNone

/-- The threads of a group at a new clock: one that misses in its loop buffer, or stands away from the broadcast address at an
instruction that does not issue from a loop buffer, parks; one that the broadcast address has reached runs (R41, R43, R46); and
bundles whose threads a branch has sent apart are one for each PC, the broadcast bundle `sent` that has issued among them (R48). -/
def settleGroup (sent : Mask) (g : Group) : Group :=
  let low := lowestPc fetchable g
  let settled (l : Lane) : Lane :=
    if loopMiss g l || (strays g l && ((loopInstr l).map groupWide).getD false) then { l with st := .parked }
    else if l.st == .parked && l.wake.isNone && low == some l.pc then { l with st := .running }
    else l
  let g1 := { g with lanes := g.lanes.map settled }
  let apart := if 1 < (pcsOf (fun i l => has sent i && live l) g1).length then [sent] else []
  { g1 with loops := (g1.loops ++ apart).flatMap fun m => bundlesBy (fun i l => has m i && l.st == .running && low != some l.pc) g1 }

/-- The lanes of the broadcast bundle of a group that has issued at the present clock. -/
def sentLanes (s : State) (n : Nat) : Mask :=
  match s.bundle, s.groups[n]? with
  | some b, some g => if b.group == n && b.broadcast && g.issuedAt == (coreAt s g.core).clock then b.mask else 0
  | _, _ => 0

/-- A new clock for one group; its misses are counted (R299). A group that a halt has stopped stays as it is. -/
def settleOne (sent : Nat → Mask) (s : State) (n : Nat) : State :=
  match s.groups[n]? with
  | none => s
  | some g =>
    match s.teams[g.team]? with
    | none => s
    | some t =>
      if mayIssue g t && g.emul.isNone then
        modGroup (countBay s t.vc g.core g.bay 0x020 (g.lanes.countP (loopMiss g))) n (settleGroup (sent n))
      else s

/-- Fusions that have ended: a half has changed, or stands at an instruction that a fused bundle does not issue (R54). A half whose
lanes change in another way than by a branch, as a broadcast bundle that gains a thread, ends the fusion as well (DESIGN CHOICE,
log 24: R54 does not name that case). -/
def splitFusions (s : State) : State :=
  { s with groups := mapFrom (fun n g =>
      { g with fused := g.fused.filter fun f => ((bundleWith s n f.own).bind fun b => fusedWith s b).isSome }) 0 s.groups }

/-- One clock passes: it is counted, every live thread's wait count grows (R51), and each group is settled for its new clock.
`%clock` counts the clocks that run, and `%time` nanoseconds at whatever rate they run (R304). -/
def tick (s : State) : State :=
  let s1 := countClocks s
  let past := s1.subNs + 1000
  let s2 : State := { s1 with
    acted := false
    waiting := []
    time := s1.time + BitVec.ofNat 64 (past / s1.mhz)
    subNs := past % s1.mhz
    cores := s1.cores.map fun c => { c with clock := c.clock + 1 }
    groups := s1.groups.map fun g =>
      if g.retired then g else { g with lanes := g.lanes.map fun l => if live l then { l with waits := l.waits + 1 } else l } }
  splitFusions ((List.range s2.groups.length).foldl (settleOne (sentLanes s)) s2)

/-! ## Issue of a bundle -/

/-- A bundle issues: its bytes are fetched by its own path, its lanes keep the units, and its instruction is executed.
A fetch that fails faults in every live thread that stands there (R44, R46). Its ADDR is the PC of the instruction, also where its
second unit failed (R305). -/
def issueBundle (s : State) (b : Bundle) : State × Option Instr :=
  match s.groups[b.group]? with
  | none => (s, none)
  | some g =>
    match s.teams[g.team]? with
    | none => (s, none)
    | some t =>
      let r := fetchFor s g t.vc (teamDie t) b
      match r.2 with
      | .error e =>
        (takeTrap r.1 b.group
          { cause := e, lanes := laneMask g fun _ l => live l && l.pc == b.pc, addr := b.pc, pc := b.pc, underflow := false, exc := [] },
         none)
      | .ok bs =>
        let units := if !b.broadcast then [] else if bs.length > 2 then [b.pc, b.pc + 2] else [b.pc]
        let s1 := units.foldl (useCode t.vc (teamDie t) g.core g.bay) r.1
        (modGroup { s1 with bundle := some b } b.group
            (onLanes b.mask fun _ l => keepUnits b.pc bs { l with st := if l.st == .parked then .running else l.st }),
          some (decodeOr bs))

end Sys2Proof.Machine
end

