-- ==== Sys2Proof/Machine/Arrival.lean ====
section
/-!
DEFINITION. Arrival counters: how arriving bytes are counted (R247).
-/

namespace Sys2Proof.Machine

/-- The counter of a team that counts a byte: the lowest-numbered armed one whose range holds it. -/
def counterOf (t : Team) (x : Nat) : Option Nat :=
  t.counters.findIdx? fun k => k.armed && decide (k.base.toNat ≤ x) && decide (x < k.base.toNat + k.len)

/-- Bytes of a range that counter j of a team counts. -/
def countedBytes (t : Team) (j va n : Nat) : Nat := ((List.range n).filter fun i => counterOf t (va + i) == some j).length

/-- k bytes added to a counter's word; F is set when the word first reaches the target (R247). -/
def addArrived (s : State) (t : Team) (c : Arrival) (k : Nat) : State :=
  if k = 0 then s
  else
    let a := teamKey t c.word
    let old := readLe s a 8
    let new := (old + k) % 2 ^ 64
    let s1 := writeLe s a 8 new
    if old < c.target && c.target ≤ new then setLine s1 a { lineAt s1 a with f := true } else s1

/-- Bytes that arrive at an address, counted for one team. A team-window address counts only for the team that holds it. -/
def arriveTeam (va : DWord) (n : Nat) (owner : Option Nat) (s : State) (i : Nat) : State :=
  match s.teams[i]? with
  | none => s
  | some t =>
    if !inPlace t || (topByte va == 0xFF && owner != some i) then s
    else
      (List.range t.counters.length).foldl (fun s j =>
        match t.counters[j]? with
        | some c => addArrived s t c (countedBytes t j va.toNat n)
        | none => s) s

/-- Bytes that arrive at an address of a virtual chip (R247). -/
def arrive (s : State) (v : Nat) (owner : Option Nat) (va : DWord) (n : Nat) : State :=
  ((List.range s.teams.length).filter fun i => (s.teams[i]?.map fun t => t.vc) == some v).foldl (arriveTeam va n owner) s

end Sys2Proof.Machine
end

