-- ==== Sys2Proof/Machine/Lines.lean ====
section
/-!
DEFINITION. Actions on whole lines: counted L2 lines (R152, R153), stage rings (R197, R198), and the distinct lines that the
lanes of an instruction touch (R149).
-/

namespace Sys2Proof.Machine

/-! ## Counted lines -/

/-- A page whose lines a counted fill counts (R152): normal, neither bank nor host memory. -/
def countable (e : DWord) : Bool := leafMt e == 0 && !leafBk e && !leafH e

/-- The line that a leaf leads to, as it holds data without its count. -/
def plainKey (e : DWord) (pa : Nat) : Nat := if leafPr e then key .prot pa else hbmAt pa

/-- A ready line becomes counted with `rc` readers (R152): what the fill does not write is first read from memory. On a page that
is not PR it takes a cache way (R144). -/
def startCounted (s : State) (v : Nat) (e : DWord) (pa : Nat) (rc : BitVec 6) : State :=
  let base := pa / 128 * 128
  let s0 := if leafPr e || (l2At s pa).tomb then s else makeRoom s v pa false
  let s1 := copyLine s0 (plainKey e base) (key .counted base)
  setL2 s1 pa { l2At s1 pa with counted := some rc, lowered := none, tomb := false, vc := v }

/-- A consuming load of a counted line by a team of a launch (R153): the last reader drops it and leaves a tombstone. -/
def lowerCounted (s : State) (v : Nat) (launch : DWord) (pa : Nat) : State :=
  let l := l2At s pa
  match l.counted with
  | none => s
  | some rc =>
    if rc.toNat ≤ 1 then
      setL2 (writeN s (key .counted (pa / 128 * 128)) (List.replicate 128 0)) pa
        { l with counted := none, lowered := none, tomb := true }
    else setL2 s pa { l with counted := some (rc - 1), lowered := some (v, launch), vc := v }

/-! ## Distinct lines -/

/-- A line that a lane touches. -/
inductive LineId where
  /-- a scratchpad line of this package, by key / 128 -/
  | scratch (n : Nat)
  /-- an L2 line by its number (`lineAddr` / 128), with its leaf entry -/
  | l2 (n : Nat) (e : DWord)
  /-- a line of a span member that is reached by request -/
  | peer (rank n : Nat)
  | other
  deriving DecidableEq, Repr

/-- The line of an address that passed its checks. -/
def lineOf (s : State) (t : Team) (va : DWord) : LineId :=
  match placeOf s t va with
  | .scratch k => .scratch (k / 128)
  | .ring _ => .other
  | .paged va l => if looseLeaf l.entry then .other else .l2 (lineAddr l.entry (leafAddr l va) / 128) l.entry
  | .peer rank off => .peer rank (off / 128)

/-- Each line of the lanes once, in the order of their lowest lanes (R149). -/
def linesOf (s : State) (t : Team) (ls : List (Nat × DWord)) : List LineId := (ls.map fun p => lineOf s t p.2).eraseDups

/-- The fault of the lanes whose line fails a test: those lanes, and the address of the lowest (R343, R402). -/
def linesFault (s : State) (t : Team) (bad : LineId → Bool) (ls : List (Nat × DWord)) : Option (Mask × DWord) :=
  match ls.filter fun p => bad (lineOf s t p.2) with
  | [] => none
  | p :: ps => some ((p :: ps).foldl (fun m q => m ||| bit64 q.1) 0, p.2)

/-! ## Stage rings (R197, R198) -/

/-- Checks 2 and 3 of R402, with LANES and ADDR as R343 gives them. -/
def ringFault (c : Ctx) (r : Ring) (va : BitVec 6) (ls : List (Nat × DWord)) : Option (BitVec 8 × Mask × DWord) :=
  if !r.ok then some (cIllegal, c.b.mask, ((ls.head?).map fun p => p.2).getD 0)
  else
    let bad := ls.filter fun p => !r.fits c.t.alloc || decide (r.slotl * 128 ≤ (readV (laneAt c.g p.1) va).toNat)
    match bad with
    | [] => none
    | p :: ps => some (cBounds, (p :: ps).foldl (fun m q => m ||| bit64 q.1) 0, p.2)

end Sys2Proof.Machine
end

