-- ==== Sys2Proof/Machine/CopyEng.lean ====
section
/-!
DEFINITION. The copy engine: issue (R179 to R187, R364, R365), collectives (R190, R191), reading a slice's source and
quantising it (R188, R192), line fills and copies out (R189, R152), batches and tokens (R193 to R196, R366).
-/

namespace Sys2Proof.Machine

/-! ## Reading a slice's source -/

/-- Bytes of a source with the kind of error met there, 0 for none (R195). -/
def readSource (fn : BitVec 2) (t : Team) (s : State) (va : DWord) (n : Nat) : State × List Byte × Nat :=
  if fn != 0#2 then
    let x := readPlace s t (.scratch (teamKey t (field va 23 0))) n
    (s, x.1, if x.2 then 4 else 0)
  else if !canonical va || topByte va != 0 then (s, List.replicate n 0, 2)
  else
    match translate s t.vc va (teamDie t) with
    | none => (s, List.replicate n 0, 2)
    | some l =>
      if protectionFails s t.vc l.entry { bytes := n } then (s, List.replicate n 0, 3)
      else
        let p := Place.paged va l
        let s1 := readyPlace s t p
        let x := readPlace s1 t p n
        (s1, x.1, if x.2 then 4 else 0)

/-- Box element n of a slice: out of bounds it is zero (R183 PM). -/
def readElement (fn : BitVec 2) (t : Team) (sb : DWord) (h : Shape) (s : State) (n : Nat) : State × List Byte × Nat :=
  let k := fmtBytes h.fmt
  if fn == 1#2 then readSource fn t s (0xFF00000000000000#64 + BitVec.ofNat 64 ((h.start sb).getD 0 + n * k)) k
  else if h.inside n then readSource fn t s (h.addr n) k
  else (s, List.replicate k 0, 0)

/-- Every box element from n on, in box order. -/
def readElements (fn : BitVec 2) (t : Team) (sb : DWord) (h : Shape) : Nat → Nat → State → State × List (List Byte × Nat)
  | 0, _, s => (s, [])
  | k + 1, n, s =>
    let x := readElement fn t sb h s n
    let r := readElements fn t sb h k (n + 1) x.1
    (r.1, x.2 :: r.2)

/-- Bytes at an address, each with its address and the kind of error of their source. -/
def itemsAt (a : DWord) (bs : List Byte) (kind : Nat) : List (DWord × Byte × Nat) :=
  mapFrom (fun i b => (a + BitVec.ofNat 64 i, b, kind)) 0 bs

/-- A dense or stage-slot slice: the elements packed in box order (R188). -/
def denseItems (start : Nat) (k : Nat) (es : List (List Byte × Nat)) : List (DWord × Byte × Nat) :=
  (mapFrom (fun n e => itemsAt (0xFF00000000000000#64 + BitVec.ofNat 64 (start + n * k)) e.1 e.2) 0 es).flatten

/-- A copy out: each in-bounds element to its address in the tensor (R188). -/
def outItems (h : Shape) (es : List (List Byte × Nat)) : List (DWord × Byte × Nat) :=
  (mapFrom (fun n e => if h.inside n then itemsAt (h.addr n) e.1 e.2 else []) 0 es).flatten

/-- The eight-bit integers and scale bytes of a row's 64 elements (R192); format 0 keeps its bytes and writes no scale. -/
def rowPlanes (h : Shape) (row : List (List Byte × Nat)) : List Int × List Nat :=
  let codes := row.map fun e => leBytes e.1
  if h.fmt == 0 then (codes.map fun c => (BitVec.ofNat 8 c).toInt, [])
  else
    let xs := codes.map (elementValue h.fmt)
    let e0 := groupScale (xs.take 32)
    let e1 := groupScale (xs.drop 32)
    ((xs.take 32).map (quantise e0) ++ (xs.drop 32).map (quantise e1), [e0, e1])

/-- Plane p of a row: bit 7 - p of its integers, element j at bit j (R124). -/
def planeBytes (p : Nat) (q : List Int) : List Byte :=
  toLeBytes 8 ((mapFrom (fun j x => if (BitVec.ofInt 8 x).getLsbD (7 - p) then 2 ^ j else 0) 0 q).foldl (fun a b => a + b) 0)

/-- The first error kind of a row's elements. -/
def rowKind (row : List (List Byte × Nat)) : Nat := ((row.find? fun e => e.2 != 0).map fun e => e.2).getD 0

/-- Elements in rows of 64. -/
def rowsOf : Nat → List (List Byte × Nat) → List (List (List Byte × Nat))
  | 0, _ => []
  | n + 1, es => es.take 64 :: rowsOf n (es.drop 64)

/-- A plane tile and its scale tile (R124, R126, R186). -/
def planeItems (h : Shape) (start : Nat) (es : List (List Byte × Nat)) : List (DWord × Byte × Nat) :=
  let rows := (rowsOf h.rows es).map fun r => (rowPlanes h r, rowKind r)
  let at_ (off : Nat) : DWord := 0xFF00000000000000#64 + BitVec.ofNat 64 off
  let tile := ((List.range h.pl).map fun p =>
    (mapFrom (fun r x => itemsAt (at_ (start + p * h.rows * 8 + r * 8)) (planeBytes p x.1.1) x.2) 0 rows).flatten).flatten
  let scales := (mapFrom (fun r x =>
    itemsAt (at_ (h.scaleStart start + 2 * r)) (x.1.2.map fun e => BitVec.ofNat 8 e) x.2) 0 rows).flatten
  tile ++ scales

/-- What a slice has to write, read from its source (R188, R192). -/
def sliceItems (s : State) (t : Team) (e : CopyEntry) : State × List (DWord × Byte × Nat) :=
  let h := shapeOf e.record
  let r := readElements e.fn t e.sb h h.count 0 s
  let start := (h.start e.sb).getD 0
  (r.1, if e.fn == 1#2 then outItems h r.2 else if h.plane then planeItems h start r.2 else denseItems start (fmtBytes h.fmt) r.2)

/-! ## Collectives -/

/-- Every copy-role group of a team's core that has not retired has issued its k-th copy (R190, R191). -/
def collectiveFull (s : State) (team core k : Nat) : Bool :=
  s.groups.all fun g => g.team != team || g.core != core || g.role != .copy || g.retired || decide (k < g.cpys.toNat)

/-- Whether a slice's collective may start (R191): without roles every copy is a collective of one. -/
def mayStart (s : State) (core : Nat) (j : CopyJob) : Bool :=
  match s.teams[j.team]? with
  | none => false
  | some t => !j.started && (!t.kernel.roles || collectiveFull s j.team core j.number.toNat)

/-- A slice started: its source is read (R174, R191; log 5). -/
def startSlice (core : Nat) (s : State) (j : CopyJob) : State :=
  match s.teams[j.team]?, (s.groups[j.group]?).bind fun g => g.copies.find? fun e => e.number == j.number with
  | some t, some e =>
    let r := sliceItems s t e
    modCore r.1 core fun c =>
      { c with jobs := c.jobs.map fun x => if x.team == j.team && x.group == j.group && x.number == j.number then
          { x with started := true, todo := r.2 } else x }
  | _, _ => s

/-- A slice that has nothing left to write is done (R193). -/
def finishSlices (s : State) (core : Nat) : State :=
  let done := (coreAt s core).jobs.filter fun j => j.started && j.todo.isEmpty
  let s1 := done.foldl (fun s j => modGroup s j.group fun g =>
    { g with copies := g.copies.map fun e => if e.number == j.number then { e with done := true } else e }) s
  modCore s1 core fun c => { c with jobs := c.jobs.filter fun j => !(j.started && j.todo.isEmpty) }

/-- Collectives that may start are started, and slices with nothing left are finished. -/
def settleJobs (s : State) (core : Nat) : State :=
  finishSlices (((coreAt s core).jobs.filter (mayStart s core)).foldl (startSlice core) s) core

/-! ## Issue -/

/-- A copy takes over a token register that is pending for a copy or for a pod operation, and does not wait (R194, R244); for the
scoreboarded result of a span-window access it waits (R36). -/
def otherToken (g : Group) (t : BitVec 6) : Bool := g.tokens.any fun e => e.1 == t && spanResult e.2

/-- A copy joins its group's copies and its core's jobs (R364). -/
def addCopy (c : Ctx) (fn : BitVec 2) (rec : List Byte) (sb : DWord) (st : BitVec 6) (s : State) : State :=
  let h := shapeOf rec
  let k := c.g.cpys
  let e : CopyEntry := { number := k, record := rec, sb := sb, st := st, fn := fn, sealed := false, batch := 0, done := false }
  let j : CopyJob :=
    { team := c.g.team, group := c.b.group, number := k, fn := fn, started := false, dm := h.dm, rc := BitVec.ofNat 6 h.rc,
      seq := if h.dm % 2 == 1 then BitVec.ofNat 4 (field sb 31 0) else 0, todo := [] }
  let s1 := onGroup s c fun g =>
    { g with
      cpys := k + 1
      copies := g.copies ++ [e]
      tokens := if st == 0#6 then g.tokens else (g.tokens.filter fun x => x.1 != st) ++ [(st, .unsealed)] }
  modCore s1 c.g.core fun x => { x with jobs := x.jobs ++ [j] }

/-- `CPY` (R364, R365). A copy counts towards the 16 that are not complete until its batch completes (R194; log 23). -/
def issueCopy (i : Instr) (fn : BitVec 2) (b a t : BitVec 6) (s : State) : Out :=
  issue i s fun c =>
    let sa := readS c.g a
    let sb := readS c.g b
    let cause := recordCause s c.t sa
    if cause != 0 then fault s c cause c.b.mask sa
    else
      let p := placeOf s c.t sa
      let s1 := readyPlace s c.t p
      let x := readPlace s1 c.t p 64
      if x.2 then fault s1 c cPoison c.b.mask sa
      else
        match (shapeOf x.1).check fn sb c.t.alloc with
        | some (k, va) => fault s1 c k c.b.mask va
        | none =>
          if decide (16 ≤ c.g.copies.length) then
            stallFor (if c.g.copies.all fun e => !e.sealed then onGroup s1 c sealBatch else s1) c .token
          else if otherToken c.g t then stallFor s1 c .scoreboard
          else
            let s2 := withdrawIdem (issued i c s1) c (fn == 1#2)
            settleJobs (addCopy c fn x.1 sb t s2) c.g.core

def execCpyIn (l : BitVec 4) (b a t : BitVec 6) (s : State) : Out := issueCopy (.cpyIn l b a t) 0 b a t s

def execCpyOut (l : BitVec 4) (b a t : BitVec 6) (s : State) : Out := issueCopy (.cpyOut l b a t) 1 b a t s

def execCpyLocal (l : BitVec 4) (b a t : BitVec 6) (s : State) : Out := issueCopy (.cpyLocal l b a t) 2 b a t s

/-- `CSEAL` (R366). -/
def execCseal (s : State) : Out := issue .cseal s fun c => onGroup (issued .cseal c s) c sealBatch

/-! ## Lines -/

/-- Runs of bytes at consecutive addresses, in the order they are written. -/
def bytesRuns : List (DWord × Byte × Nat) → List (DWord × List Byte)
  | [] => []
  | (a, b, _) :: rest =>
    match bytesRuns rest with
    | (a', bs) :: rs => if a' == a + 1 then (a, b :: bs) :: rs else (a, [b]) :: (a', bs) :: rs
    | [] => [(a, [b])]

/-- The items of the first line that a job still has to write. -/
def firstLine (j : CopyJob) : List (DWord × Byte × Nat) :=
  match j.todo with
  | [] => []
  | x :: _ => j.todo.filter fun y => y.1.toNat / 128 == x.1.toNat / 128

/-- A job without its first line. -/
def dropLine (j : CopyJob) : CopyJob :=
  match j.todo with
  | [] => j
  | x :: _ => { j with todo := j.todo.filter fun y => y.1.toNat / 128 != x.1.toNat / 128 }

/-- The first error kind among a line's bytes. -/
def lineKind (xs : List (DWord × Byte × Nat)) : Nat := ((xs.find? fun x => x.2.2 != 0).map fun x => x.2.2).getD 0

/-- Whether a copy of a group names a token register (R194). -/
def tracked (g : Group) (n : BitVec 32) : Bool := g.copies.any fun e => e.number == n && e.st != 0#6

/-- A line refused or failed: recorded, and kept for the token of a tracked copy (R195, R196). -/
def copyError (s : State) (core v : Nat) (j : CopyJob) (kind : Nat) (line : Nat) : State :=
  event (modGroup s j.group fun g =>
      if tracked g j.number then { g with copyErrs := g.copyErrs ++ [(j.number, kind)] } else g) v 2
    [(9, kind), (10, 0), (11, vcCore (vchip s v) core % 256), (16, line)]

/-- The address of a line. -/
def lineBase (xs : List (DWord × Byte × Nat)) : DWord :=
  match xs with
  | [] => 0
  | x :: _ => BitVec.ofNat 64 (x.1.toNat / 128 * 128)

/-- One filling action of a copy into the scratchpad (R189, R196). Where the line is live and the source failed too, the source's kind is
reported (log 23). -/
def fillOne (s : State) (core : Nat) (t : Team) (j : CopyJob) : State :=
  let xs := firstLine j
  let a := lineBase xs
  let k := teamKey t (field a 23 0)
  let kind := if lineKind xs != 0 then lineKind xs else if lineLive s k then 1 else 0
  if kind != 0 then copyError s core t.vc j kind a.toNat
  else
    let s1 := (bytesRuns xs).foldl (fun s r => writeN s (teamKey t (field r.1 23 0)) r.2) s
    fillLine s1 k j.rc j.seq

/-- What a copy out finds at a line of its tensor: an error kind, 0 for none (R152, R196). -/
def outKind (s : State) (t : Team) (rc : BitVec 6) (xs : List (DWord × Byte × Nat)) : Nat :=
  let a := lineBase xs
  if lineKind xs != 0 then lineKind xs
  else if !canonical a || topByte a != 0 then 2
  else
    match translate s t.vc a (teamDie t) with
    | none => 2
    | some l =>
      if protectionFails s t.vc l.entry { bytes := 128, write := true } then 3
      else if rc == 0 || leafMt l.entry != 0 || leafBk l.entry then 0
      else if !leafCa l.entry || leafH l.entry then 5
      else if (l2At s (leafAddr l a)).counted.isSome then 1
      else 0

/-- One line of a copy out written (R188, R152). -/
def outOne (s : State) (core : Nat) (t : Team) (j : CopyJob) : State :=
  let xs := firstLine j
  let a := lineBase xs
  let kind := outKind s t j.rc xs
  if kind != 0 then copyError s core t.vc j kind a.toNat
  else
    match translate s t.vc a (teamDie t) with
    | none => s
    | some l =>
      let s1 := ready s t.vc a (teamDie t)
      let counts := j.rc != 0 && countable l.entry
      let s2 := if counts then startCounted s1 t.vc l.entry (leafAddr l a) j.rc else s1
      let s3 := (bytesRuns xs).foldl (fun s r =>
        if counts then writeN s (key .counted (leafAddr l r.1)) r.2 else pagedStore s t.vc l (leafAddr l r.1) r.2) s2
      (bytesRuns xs).foldl (fun s r => arrive s t.vc none r.1 r.2.length) s3

/-- A job of a core changed. -/
def modJob (s : State) (core : Nat) (j : CopyJob) (f : CopyJob → CopyJob) : State :=
  modCore s core fun c =>
    { c with jobs := c.jobs.map fun x => if x.team == j.team && x.group == j.group && x.number == j.number then f x else x }

/-- The next line of the core's first started job of a direction: out, or into the scratchpad. -/
def nextLine (core : Nat) (out : Bool) (one : State → Nat → Team → CopyJob → State) (s : State) : State :=
  let s0 := settleJobs s core
  match (coreAt s0 core).jobs.find? fun j => j.started && (j.fn == 1#2) == out with
  | none => s0
  | some j =>
    match s0.teams[j.team]? with
    | none => s0
    | some t => settleJobs (modJob (one s0 core t j) core j dropLine) core

/-- `COPY_LINE_FILL` (R189). -/
def execCopyLineFill (core : Nat) (s : State) : Out := .next (nextLine core false fillOne s)

/-- `COPY_OUT_LINE_WRITE` (R188). -/
def execCopyOutLineWrite (core : Nat) (s : State) : Out := .next (nextLine core true outOne s)

/-! ## Batches -/

/-- The copies of a group's oldest batch that is not complete. -/
def oldestBatch (g : Group) : List CopyEntry :=
  match g.copies.find? fun e => e.sealed with
  | none => []
  | some e => g.copies.filter fun x => x.sealed && x.batch == e.batch

/-- Every slice of every collective of some copies is done (R193). -/
def batchDone (s : State) (g : Group) (es : List CopyEntry) : Bool :=
  !es.isEmpty && es.all (fun e => e.done)
    && match s.teams[g.team]? with
       | some t => !t.kernel.roles || !((coreAt s g.core).jobs.any fun j => j.team == g.team && es.any fun e => e.number == j.number)
       | none => true

/-- The token value of a batch (R195). -/
def batchToken (b : BitVec 32) (kind : Nat) : DWord :=
  b.setWidth 64 ||| (if kind != 0 then BitVec.twoPow 64 63 ||| BitVec.ofNat 64 (kind * 2 ^ 48) else 0)

/-- A complete batch leaves its group: its token registers receive its value (R193, R195). -/
def completeBatch (es : List CopyEntry) (b : BitVec 32) (g : Group) : Group :=
  let mine (n : BitVec 32) : Bool := es.any fun e => e.number == n
  let kind := ((g.copyErrs.find? fun x => mine x.1).map fun x => x.2).getD 0
  let regs := g.tokens.filter fun e => e.2 == .batch b
  let g1 := regs.foldl (fun g e => landScalar (.batch b) e.1 (batchToken b kind) (kind != 0) false g) g
  { g1 with
    copies := g1.copies.filter fun e => !mine e.number
    copyErrs := g1.copyErrs.filter fun x => !mine x.1 }

/-- `BATCH_COMPLETE` (R193): a group's batches complete in batch order. -/
def execBatchComplete (n : Nat) (s : State) : Out :=
  match s.groups[n]? with
  | none => .next s
  | some g0 =>
    let s0 := settleJobs s g0.core
    match s0.groups[n]? with
    | none => .next s0
    | some g =>
      let es := oldestBatch g
      if !batchDone s0 g es then .next s0
      else
        let b := ((es.head?).map fun e => e.batch).getD 0
        match s0.teams[g.team]? with
        | none => .next s0
        | some t =>
          .next (event (modGroup s0 n (completeBatch es b)) t.vc 12
            [(9, 0), (11, vcCore (vchip s0 t.vc) g.core % 256), (12, b.toNat), (16, t.launch.toNat)])

end Sys2Proof.Machine
end

