-- ==== Sys2Proof/Machine/Matrix.lean ====
section
/-!
DEFINITION. The matrix engine: issue (R202 to R207, R408), fetch and product (R208 to R212, R130), claims and the epilogue
engine (R214 to R220, R375, R376, R412), status and flags (R221, R222, R413).
-/

namespace Sys2Proof.Machine

/-! ## Blocks -/

/-- The 64-byte block in eight scalar registers (R203). -/
def blockBytes (g : Group) (a : BitVec 6) : List Byte :=
  ((List.range 8).map fun k => toLeBytes 8 (readS g (a + BitVec.ofNat 6 k)).toNat).flatten

/-- The `MMA` parameter block (R203, R204). -/
structure MmaBlock where
  aline : Nat
  apool : Nat
  ascl : Nat
  ix : Bool
  af : Bool
  pa : Nat
  bline : Nat
  bscl : Nat
  bf : Bool
  bw : Bool
  idx : Nat
  pm : Bool
  cnb : Bool
  cna : Bool
  br : Bool
  rm : Nat
  /-- reserved bits that are checked are zero -/
  clean : Bool
  deriving DecidableEq, Repr

def mmaBlock (b : List Byte) : MmaBlock :=
  let a := recField b 6 1
  let f := recField b 12 1
  let m := recField b 16 1
  { aline := recField b 0 2, apool := recField b 2 2, ascl := recField b 4 2, ix := a / 32 % 2 == 1, af := a / 16 % 2 == 1,
    pa := a % 16, bline := recField b 8 2, bscl := recField b 10 2, bf := f / 2 % 2 == 1, bw := f % 2 == 1,
    idx := recField b 14 2, pm := m / 32 % 2 == 1, cnb := m / 16 % 2 == 1, cna := m / 8 % 2 == 1, br := m / 4 % 2 == 1,
    rm := m % 4
    clean := recField b 7 1 == 0 && recField b 13 1 == 0 && recField b 0x11 47 == 0 && a / 64 == 0 && m / 64 == 0
      && (m / 4 % 2 == 1 || f / 4 == 0) }

/-- Planes of B (R205). -/
def MmaBlock.pb (p : MmaBlock) : Nat := if p.bw then 4 else 8

/-- Whether a block is illegal (R206 checks 3 to 5). -/
def MmaBlock.illegal (p : MmaBlock) (masked latched : Bool) : Bool :=
  !p.clean || decide (p.pa < 2) || decide (8 < p.pa)
    || (if p.ix then p.apool % 16 != 0 else p.apool != 0 || p.idx != 0)
    || (!p.af && p.ascl != 0) || (!p.br && !p.bf && p.bscl != 0)
    || (p.pa == 2 && masked) || (p.br && !latched)

/-- A line number that R206 wants even is odd (check 6). -/
def MmaBlock.odd (p : MmaBlock) : Bool := p.ascl % 2 == 1 || p.idx % 2 == 1 || (!p.br && p.bscl % 2 == 1)

/-- Some line of R205 lies at or beyond the allocation (R206 check 7). -/
def MmaBlock.beyond (p : MmaBlock) (alloc : Nat) : Bool :=
  let past (line bytes : Nat) : Bool := decide (alloc < line * 128 + bytes)
  (if p.ix then past p.aline (p.pa * p.apool * 8) || past p.idx 256 || (p.af && past p.ascl (2 * p.apool))
   else past p.aline (p.pa * 1024) || (p.af && past p.ascl 256))
    || (!p.br && (past p.bline (p.pb * 1024) || (p.bf && past p.bscl 256)))

/-! ## Operands -/

/-- Scratchpad key of a line that a block names. -/
def lineKey (t : Team) (line : Nat) : Nat := teamKey t (line * 128)

/-- Bytes of the team's allocation, line by line. -/
def readAlloc (s : State) (t : Team) (off n : Nat) : List Byte :=
  ((linePieces (n + 1) off n).map fun p => readN s (teamKey t p.1) p.2).flatten

/-- Lines from one on. -/
def linesFrom (line n : Nat) : List Nat := (List.range n).map fun k => line + k

/-- Weight of plane p's bit (R123). -/
def planeWeight (p : Nat) : Int := if p = 0 then -128 else 2 ^ (7 - p)

/-- The value of element k of a row from its plane words, sign plane first (R123). -/
def planeValue (ws : List DWord) (k : Nat) : Int :=
  (mapFrom (fun p (w : DWord) => if w.getLsbD k then planeWeight p else 0) 0 ws).foldl (fun a b => a + b) 0

/-- The 64 values of a row. -/
def rowValues (ws : List DWord) : List Int := (List.range 64).map (planeValue ws)

/-- The values of a plane tile of 128 rows, row by row (R124). -/
def tileValues (bs : List Byte) (planes : Nat) : List Int :=
  ((List.range 128).map fun r => rowValues ((List.range planes).map fun p => BitVec.ofNat 64 (recField bs (p * 1024 + r * 8) 8))).flatten

/-- Scale bytes of a tile, or those of an operand without one (R125, R209). -/
def scaleBytes (on : Bool) (bs : List Byte) : List Nat := if on then bs.map fun b => b.toNat else List.replicate 256 133

/-- Lines that the engine waits for and reads when an `MMA` starts (R205, R208). -/
def MmaBlock.aLines (p : MmaBlock) : List Nat :=
  if p.ix then [] else linesFrom p.aline (8 * p.pa) ++ (if p.af then linesFrom p.ascl 2 else [])

def MmaBlock.bLines (p : MmaBlock) : List Nat :=
  if p.br then [] else linesFrom p.bline (8 * p.pb) ++ (if p.bf then linesFrom p.bscl 2 else [])

/-- A line that holds poison. -/
def linePoisoned (s : State) (t : Team) (line : Nat) : Bool :=
  let k := lineKey t line
  poisonedAt s k 128 || (lineAt s k).err

/-- A line that is full (R208). -/
def lineFull (s : State) (t : Team) (line : Nat) : Bool := (lineSeen s (lineKey t line)).f

/-! ## Gathering (R207) -/

/-- The 128 indices. -/
def indices (s : State) (t : Team) (p : MmaBlock) : List Nat :=
  let bs := readAlloc s t (p.idx * 128) 256
  (List.range 128).map fun i => recField bs (2 * i) 2

/-- Allocation offsets and sizes of what a named row needs: its word in each plane, and its scale bytes. -/
def rowParts (p : MmaBlock) (r : Nat) : List (Nat × Nat) :=
  ((List.range p.pa).map fun q => (p.aline * 128 + q * p.apool * 8 + r * 8, 8)) ++ (if p.af then [(p.ascl * 128 + 2 * r, 2)] else [])

/-- Lines that the gather unit waits for. -/
def gatherLines (p : MmaBlock) (is : List Nat) : List Nat :=
  (((is.filter fun r => decide (r < p.apool)).map fun r => (rowParts p r).map fun x => x.1 / 128).flatten).eraseDups

/-- Rows and scale bytes gathered; a row past the pool is zero with scale bytes 0. -/
def gatherRows (s : State) (t : Team) (p : MmaBlock) (is : List Nat) : List Int × List Nat :=
  let row (r : Nat) : List Int :=
    if r < p.apool then
      rowValues ((List.range p.pa).map fun q => BitVec.ofNat 64 (readLe s (teamKey t (p.aline * 128 + q * p.apool * 8 + r * 8)) 8))
    else List.replicate 64 0
  let sc (r : Nat) : List Nat :=
    if !p.af then [133, 133]
    else if r < p.apool then (readN s (teamKey t (p.ascl * 128 + 2 * r)) 2).map fun b => b.toNat
    else [0, 0]
  ((is.map row).flatten, (is.map sc).flatten)

/-- The line of the first poisoned word that a gather reads, as a team-window address. -/
def gatherPoison (s : State) (t : Team) (p : MmaBlock) (is : List Nat) : Option Nat :=
  let parts := ((is.filter fun r => decide (r < p.apool)).map (rowParts p)).flatten
  let bad (x : Nat × Nat) : Bool := poisonedAt s (teamKey t x.1) x.2 || (lineAt s (teamKey t x.1)).err
  let ix := [(p.idx * 128, 128), (p.idx * 128 + 128, 128)]
  ((ix ++ parts).find? bad).map fun x => 0xFF00000000000000 + x.1 / 128 * 128

/-- A gathered job. -/
def gatherJob (s : State) (t : Team) (p : MmaBlock) (j : MmaJob) : MmaJob :=
  let is := indices s t p
  { j with gather := some (gatherRows s t p is), poisoned := gatherPoison s t p is }

/-! ## MMA -/

/-- The index-vector lines that an `MMA` consumes (R204, R208). -/
def MmaBlock.indexLines (p : MmaBlock) : List Nat := if p.ix && p.cna then linesFrom p.idx 2 else []

/-- Lines of a team consumed, each once. -/
def consumeLines (s : State) (t : Team) (ls : List Nat) : State :=
  ls.foldl (fun s line => consumeLine s (lineKey t line)) s

/-- `MMA` at issue after the checks of R25 and the room in the queue (R207, R408). In index mode it reads the index vector now, and
consumes it with the reading, so that no other consumer takes the same fill (R208, R223). Where the vector is poisoned its stored
bytes are the indices of the bounds check, and the poison is reported when the multiply starts (log 23). -/
def queueMma (i : Instr) (c : Ctx) (p : MmaBlock) (j : MmaJob) (s : State) : State :=
  let put (x : MmaJob) : State :=
    modEngine (consumeLines (issued i c s) c.t p.indexLines) c.g.core fun e => { e with queue := e.queue ++ [x] }
  if !p.ix then put j
  else if !(lineFull s c.t p.idx && lineFull s c.t (p.idx + 1)) then stallFor s c .fullBit
  else
    let is := indices s c.t p
    if !p.pm && is.any fun r => decide (p.apool ≤ r) then fault s c cBounds c.b.mask 0
    else if !(gatherLines p is).all (lineFull s c.t) then stallFor s c .fullBit
    else put (gatherJob s c.t p j)

/-- `MMA` (R206, R408). -/
def execMma (l : BitVec 4) (a : BitVec 6) (s : State) : Out :=
  let i : Instr := .mma l a
  issue i s fun c =>
    let b := blockBytes c.g a
    let p := mmaBlock b
    let e := (coreAt s c.g.core).engine
    if p.illegal (c.vc.features.getLsbD 2) e.latch.isSome then fault s c cIllegal c.b.mask 0
    else if p.odd then fault s c cMisaligned c.b.mask 0
    else if p.beyond c.t.alloc then fault s c cBounds c.b.mask 0
    else if decide (4 ≤ e.queue.length) then stallFor s c .wrongEngine
    else queueMma i c p { group := c.b.group, block := b, gather := none, poisoned := none } s

/-- An engine error: the first since the last `MSTAT` sets the error state; each is recorded (R220). -/
def engineError (s : State) (core v kind line : Nat) : State :=
  event (modEngine s core fun e => { e with err := if e.err == 0 then kind else e.err }) v 2
    [(9, kind), (10, 1), (11, vcCore (vchip s v) core % 256), (16, line)]

/-- The ring bytes of slot k. -/
def slotKey (core k : Nat) : Nat := ringKey core (k * 65536)

/-- The engine of a core with its holder. -/
def heldEngine (s : State) (core : Nat) : Option (Engine × Team) :=
  let e := (coreAt s core).engine
  (e.holder.bind fun n => s.teams[n]?).map fun t => (e, t)

/-- The B operand fetched: the latch (R210). -/
def fetchB (s : State) (t : Team) (p : MmaBlock) : Latch :=
  { planes := readAlloc s t (p.bline * 128) (p.pb * 1024)
    scales := if p.bf then readAlloc s t (p.bscl * 128) 256 else [], bw := p.bw, bf := p.bf }

/-- The lines that an `MMA` consumes when it starts, each once (R208); one that has its rows consumed the index vector with them. -/
def consumedLines (p : MmaBlock) (gathered : Bool) : List Nat :=
  ((if p.cna then p.aLines else []) ++ (if gathered then [] else p.indexLines) ++ (if p.cnb then p.bLines else [])).eraseDups

/-- The A operand of an `MMA`: the rows gathered, or the tile with its scale bytes (R205, R207, R209). -/
def fetchA (s : State) (t : Team) (p : MmaBlock) (j : MmaJob) : List Int × List Nat :=
  match j.gather with
  | some x => x
  | none => (tileValues (readAlloc s t (p.aline * 128) (p.pa * 1024)) p.pa, scaleBytes p.af (readAlloc s t (p.ascl * 128) 256))

/-- The values and scale bytes of B in a latch (R209). -/
def latchB (latch : Option Latch) : List Int × List Nat :=
  let lb := latch.getD { planes := [], scales := [], bw := false, bf := false }
  (tileValues lb.planes (if lb.bw then 4 else 8), scaleBytes lb.bf lb.scales)

/-- The latch with which an `MMA` runs: the one kept, or B fetched anew (R210). A latch loaded from poisoned lines keeps their stored
bytes, and its reuse reports no error (log 23). -/
def latchFor (s : State) (t : Team) (p : MmaBlock) (e : Engine) : Option Latch := if p.br then e.latch else some (fetchB s t p)

/-- The address of the first poisoned line that an `MMA` reads (R220). -/
def badLine (s : State) (t : Team) (p : MmaBlock) (j : MmaJob) : Option Nat :=
  match (p.aLines ++ p.bLines).find? (linePoisoned s t) with
  | some line => some (0xFF00000000000000 + line * 128)
  | none => j.poisoned

/-- A multiply with its rows: one in index mode without them gathers them. -/
def withRows (s : State) (t : Team) (p : MmaBlock) (j : MmaJob) : MmaJob :=
  if p.ix && j.gather.isNone then gatherJob s t p j else j

/-- The oldest queued `MMA` starts: it fetches, consumes, and opens its slot (R208 to R210, R212). -/
def startMma (s : State) (core : Nat) (t : Team) (e : Engine) (j0 : MmaJob) : State :=
  let p := mmaBlock j0.block
  let j := withRows s t p j0
  let latch := latchFor s t p e
  let a := fetchA s t p j
  let b := latchB latch
  let bad := badLine s t p j
  let run : MmaRun :=
    { group := j.group, rm := BitVec.ofNat 2 p.rm, poisoned := bad.isSome, a := a.1, sa := a.2, b := b.1, sb := b.2 }
  let fresh := p.rm == 0 || p.rm == 3 || !e.opened
  let s1 := consumeLines s t (consumedLines p j0.gather.isSome)
  let s2 := if fresh then clearN s1 (slotKey core e.head) 65536 else s1
  let s3 := modEngine s2 core fun e => { e with queue := e.queue.drop 1, running := some run, latch := latch, opened := true }
  match bad with
  | some line => engineError s3 core t.vc 4 line
  | none => s3

/-- Lines that an index-mode `MMA` without its rows waits for: the index vector, and the pool lines that hold a named word (R207). -/
def rowLines (s : State) (t : Team) (p : MmaBlock) (j : MmaJob) : List Nat :=
  if p.ix && j.gather.isNone then linesFrom p.idx 2 ++ gatherLines p (indices s t p) else []

/-- Whether the oldest queued `MMA` may start: none runs, the ring has a slot, and its lines are full (R208,
R212). The slot is awaited before the fetch (log 23). -/
def mmaReady (s : State) (t : Team) (e : Engine) (j : MmaJob) : Bool :=
  let p := mmaBlock j.block
  e.running.isNone && (e.opened || decide (e.closed < 4)) && (p.aLines ++ p.bLines ++ rowLines s t p j).all (lineFull s t)

/-- `MMA_START` (R208). -/
def execMmaStart (core : Nat) (s : State) : Out :=
  match heldEngine s core with
  | none => .next s
  | some (e, t) =>
    match e.queue with
    | [] => .next s
    | j :: _ => .next (if mmaReady s t e j then startMma s core t e j else s)

/-- `%mflags` bits (R222). -/
def mNV : BitVec 3 := 1#3
def mOF : BitVec 3 := 2#3
def mIS : BitVec 3 := 4#3

/-- One group's term of an element (R130): its binary32 value and the flags it raises. -/
def mmaTerm (p : Int) (ea eb : Nat) : FVal × BitVec 3 :=
  if ea == 255 || eb == 255 then (.nan false, mNV)
  else if ea == 0 || eb == 0 then (.fin false 0 0, 0)
  else
    let r := roundPack f32 plainEnv (decide (p < 0)) p.natAbs ((ea : Int) + eb - 266) false
    (if p = 0 then .fin false 0 0 else unpack f32 false r.code,
     if p = 0 then 0
     else (if r.flags &&& fOF != 0 then mOF else 0) ||| (if r.flags &&& fNX != 0 then mIS else 0))

/-- Sum of products of two lists. -/
def dotInts : List Int → List Int → Int
  | x :: xs, y :: ys => x * y + dotInts xs ys
  | _, _ => 0

/-- Element (i, j) after an `MMA` (R130). -/
def mmaElement (r : MmaRun) (acc : Nat) (i j : Nat) : Nat × BitVec 3 :=
  let part (g : Nat) : FVal × BitVec 3 :=
    mmaTerm (dotInts ((r.a.drop (64 * i + 32 * g)).take 32) ((r.b.drop (64 * j + 32 * g)).take 32))
      ((r.sa[2 * i + g]?).getD 133) ((r.sb[2 * j + g]?).getD 133)
  let t0 := part 0
  let t1 := part 1
  let x := (fAddV f32 plainEnv (unpack f32 false acc) t0.1).code
  ((fAddV f32 plainEnv (unpack f32 false x) t1.1).code, t0.2 ||| t1.2)

/-- Element n of a slot. -/
def slotElement (s : State) (core slot n : Nat) : Nat := readLe s (slotKey core slot + 4 * n) 4

/-- A product added into a slot: the new state and the flags. -/
def addProduct (s : State) (core slot : Nat) (r : MmaRun) : State × BitVec 3 :=
  let xs := (List.range 16384).map fun n => mmaElement r (slotElement s core slot n) (n / 128) (n % 128)
  (writeN s (slotKey core slot) ((xs.map fun x => toLeBytes 4 x.1).flatten), xs.foldl (fun f x => f ||| x.2) 0)

/-- Matrix flags set in their issuer, if it has not retired (R222). -/
def setMflags (s : State) (n : Nat) (f : BitVec 3) : State :=
  modGroup s n fun g => if g.retired then g else { g with mflags := g.mflags ||| f }

/-- `MMA_COMPLETE` (R212, R130): the product is added, and a closing mode closes the slot. -/
def execMmaComplete (core : Nat) (s : State) : Out :=
  let e := (coreAt s core).engine
  match e.running with
  | none => .next s
  | some r =>
    let x := if r.poisoned then (s, 0) else addProduct s core e.head r
    let s1 := setMflags x.1 r.group x.2
    .next (modEngine s1 core fun e =>
      if 2 ≤ r.rm.toNat then { e with running := none, opened := false, closed := e.closed + 1, head := (e.head + 1) % 4 }
      else { e with running := none })

/-! ## Claims -/

/-- `MRELS` (R412). -/
def execMrels (l : BitVec 4) (s : State) : Out :=
  let i : Instr := .mrels l
  issue i s fun c =>
    if decide (4 ≤ (coreAt s c.g.core).engine.claims.length) then stallFor s c .wrongEngine
    else
      modEngine (issued i c s) c.g.core fun e =>
        { e with claims := e.claims ++ [{ group := c.b.group, epi := false, block := [], scl := [], bias := [] }] }

/-- The tail slot freed, with its claim (R214). -/
def freeSlot (e : Engine) : Engine :=
  { e with claims := e.claims.drop 1, tail := (e.tail + 1) % 4, closed := e.closed - 1, freed := e.freed + 1, jobRunning := false }

/-- `MRELS_FREE` (R214): the loads of the issuer through the ring window took their data when they issued (log 5). -/
def execMrelsFree (core : Nat) (s : State) : Out :=
  let e := (coreAt s core).engine
  match e.claims with
  | [] => .next s
  | c :: _ => .next (if !c.epi && decide (0 < e.closed) then modEngine s core freeSlot else s)

/-- The `EPI` block (R215, R216). -/
structure EpiBlock where
  scl : DWord
  bias : DWord
  dest : DWord
  dstr : Nat
  lo : Nat
  hi : Nat
  clamp : Nat
  dscl : DWord
  rc : Nat
  act : Nat
  ofmt : Nat
  clean : Bool
  deriving DecidableEq, Repr

def epiBlock (b : List Byte) : EpiBlock :=
  let e := recField b 0x20 8
  { scl := BitVec.ofNat 64 (recField b 0 8), bias := BitVec.ofNat 64 (recField b 8 8), dest := BitVec.ofNat 64 (recField b 16 8),
    dstr := recField b 0x18 4, lo := recField b 0x28 4, hi := recField b 0x2C 4, clamp := recField b 0x28 8,
    dscl := BitVec.ofNat 64 (recField b 0x30 8), rc := e / 32 % 64, act := e / 8 % 4, ofmt := e % 8,
    clean := recField b 0x1C 4 == 0 && recField b 0x38 8 == 0 && e / 2048 == 0 }

/-- Bytes of an output element (R216). -/
def outBytes (ofmt : Nat) : Nat := if ofmt = 0 then 4 else if ofmt = 3 then 1 else 2

/-- A block of `EPI` is illegal (R217 check 3). -/
def EpiBlock.illegal (p : EpiBlock) : Bool :=
  !p.clean || p.act == 3 || decide (4 < p.ofmt) || (p.act != 2 && p.clamp != 0) || (p.ofmt != 4 && p.dscl != 0)
    || (p.ofmt == 4 && p.dstr != 0)
    || (p.act == 2 && (isNan (unpack f32 false p.lo) || isNan (unpack f32 false p.hi)
          || ltV (unpack f32 false p.hi) (unpack f32 false p.lo)))

/-- Addresses that a block names, those of 0 that stand for nothing left out. -/
def EpiBlock.addrs (p : EpiBlock) : List DWord :=
  (if p.scl == 0 then [] else [p.scl]) ++ (if p.bias == 0 then [] else [p.bias]) ++ [p.dest]
    ++ (if p.ofmt == 4 then [p.dscl] else [])

/-- What is wrong with the region of an address (R217 check 4). -/
def epiRegion (a : DWord) : BitVec 8 :=
  if topByte a == 0x01 && canonical a then cPodAddress else if !canonical a then cNonCanonical
  else if topByte a == 0xFE then cBounds else 0

/-- Bytes of the destination (R219). -/
def EpiBlock.destBytes (p : EpiBlock) : Nat := if p.ofmt == 4 then 16384 else 127 * p.dstr + 128 * outBytes p.ofmt

/-- Checks 3 to 6 of R217, with cause and address (log 14). -/
def EpiBlock.check (p : EpiBlock) (alloc : Nat) : Option (BitVec 8 × DWord) :=
  let n := outBytes p.ofmt
  let past (a : DWord) (k : Nat) : Bool := topByte a == 0xFF && decide (alloc < field a 23 0 + k)
  if p.illegal then some (cIllegal, 0)
  else
    match p.addrs.find? fun a => epiRegion a != 0 with
    | some a => some (epiRegion a, a)
    | none =>
      if p.dest.toNat % (if p.ofmt == 4 then 128 else n) != 0 then some (cMisaligned, p.dest)
      else if p.ofmt != 4 && (p.dstr % n != 0 || decide (p.dstr < 128 * n)) then some (cMisaligned, p.dest)
      else if p.ofmt == 4 && p.dscl.toNat % 256 != 0 then some (cMisaligned, p.dscl)
      else if past p.dest p.destBytes then some (cBounds, p.dest)
      else if p.ofmt == 4 && past p.dscl 512 then some (cBounds, p.dscl)
      else none

/-- Addresses of the 128 words of a vector. -/
def vectorAddrs (a : DWord) : List DWord := (List.range 128).map fun n => a + BitVec.ofNat 64 (4 * n)

/-- The first of some addresses that fails as a plain load (R375); a ring window fails as in R134. -/
def loadFault (s : State) (t : Team) (as : List DWord) : Option (BitVec 8 × DWord) :=
  as.findSome? fun a => (addrCheck s t a { bytes := 4, special := true }).map fun r => (r.2, a)

/-- Words read by plain loads: the state, the words, and whether one is poisoned. -/
def loadWords (t : Team) : List DWord → State → State × List Word × Bool
  | [], s => (s, [], false)
  | a :: as, s =>
    let p := placeOf s t a
    let s1 := readyPlace s t p
    let x := readPlace s1 t p 4
    let r := loadWords t as s1
    (r.1, BitVec.ofNat 32 (leBytes x.1) :: r.2.1, x.2 || r.2.2)

/-- `EPI` (R217, R375, R376). -/
def execEpi (l : BitVec 4) (a : BitVec 6) (s : State) : Out :=
  let i : Instr := .epi l a
  issue i s fun c =>
    let b := blockBytes c.g a
    let p := epiBlock b
    let sv := if p.scl == 0 then [] else vectorAddrs p.scl
    let bv := if p.bias == 0 then [] else vectorAddrs p.bias
    match p.check c.t.alloc with
    | some (cause, va) => fault s c cause c.b.mask va
    | none =>
      if decide (4 ≤ (coreAt s c.g.core).engine.claims.length) then stallFor s c .wrongEngine
      else
        match loadFault s c.t (sv ++ bv) with
        | some (cause, va) => fault s c cause c.b.mask va
        | none =>
          let x := loadWords c.t sv s
          let y := loadWords c.t bv x.1
          if x.2.2 || y.2.2 then fault y.1 c cPoison c.b.mask 0
          else
            let s1 := withdrawIdem (issued i c y.1) c (topByte p.dest == 0 || (p.ofmt == 4 && topByte p.dscl == 0))
            modEngine s1 c.g.core fun e =>
              { e with claims := e.claims ++
                [{ group := c.b.group, epi := true, block := b,
                   scl := if p.scl == 0 then List.replicate 128 0x3F800000#32 else x.2.1,
                   bias := if p.bias == 0 then List.replicate 128 0#32 else y.2.1 }] }

/-- `MSTAT`'s value (R221). -/
def mstatValue (e : Engine) : DWord :=
  BitVec.ofNat 64
    (e.head % 4 + e.tail % 4 * 4 + e.closed % 8 * 16 + (if e.opened then 128 else 0)
      + (if e.running.isSome || !e.queue.isEmpty || e.jobRunning then 256 else 0) + e.claims.length % 8 * 512
      + e.freed.toNat * 65536 + (if e.err != 0 then e.err * 2 ^ 48 + 2 ^ 63 else 0))

/-- `MSTAT` (R413, R221). -/
def execMstat (l : BitVec 4) (t : BitVec 6) (s : State) : Out :=
  let i : Instr := .mstat l t
  issue i s fun c =>
    let e := (coreAt s c.g.core).engine
    let s1 := onGroup (issued i c s) c fun g =>
      let g1 := writeS g t (mstatValue e)
      { g1 with errTok := putBit g1.errTok t.toNat (e.err != 0) }
    modEngine s1 c.g.core fun e => { e with err := 0 }

/-! ## The epilogue job -/

/-- `EPILOGUE_JOB_START` (R218). -/
def execEpilogueJobStart (core : Nat) (s : State) : Out :=
  let e := (coreAt s core).engine
  match e.claims with
  | [] => .next s
  | c :: _ => .next (if c.epi && decide (0 < e.closed) then modEngine s core fun e => { e with jobRunning := true } else s)

/-- An infinite value. -/
def isInf : FVal → Bool
  | .inf _ => true
  | _ => false

/-- The value of an element before conversion, and its flags (R218, R222); inf × 0 is invalid whatever is added (R110). -/
def epiValue (p : EpiBlock) (acc : Nat) (scl bias : Word) : Nat × BitVec 3 :=
  let x := unpack f32 false acc
  let y := unpack f32 false scl.toNat
  let z := unpack f32 false bias.toNat
  let r := fFmaV f32 plainEnv x y z
  let lost := isInf x && isZeroV y || isZeroV x && isInf y
  let nan := isNan (unpack f32 false r.code) && (lost || !isNan x && !isNan y && !isNan z)
  let flags := (if r.flags &&& fOF != 0 then mOF else 0) ||| (if nan then mNV else 0)
  let v := unpack f32 false r.code
  let act :=
    if p.act == 1 then (fMinMaxV f32 plainEnv true v (.fin false 0 0)).code
    else if p.act == 2 then
      (fMinMaxV f32 plainEnv false (unpack f32 false (fMinMaxV f32 plainEnv true v (unpack f32 false p.lo)).code)
        (unpack f32 false p.hi)).code
    else r.code
  (act, flags)

/-- A finite value. -/
def isFin : FVal → Bool
  | .fin _ _ _ => true
  | _ => false

/-- Conversion of an output element: its code and flags (R218). -/
def epiConvert (ofmt x : Nat) : Nat × BitVec 3 :=
  let v := unpack f32 false x
  if ofmt == 0 then (x, 0)
  else if ofmt == 3 then
    let r := packNarrow nf8 .nearest v (decide (2 ^ 31 ≤ x))
    (r.code, if isFin v && r.flags &&& fOF != 0 then mOF else 0)
  else
    let r := fConv f32 (if ofmt == 1 then bf16 else f16) plainEnv x
    (r.code, if isFin v && r.flags &&& fOF != 0 then mOF else 0)

/-- The bytes that a job writes, with their addresses, in address order within each row or tile (R219), and its flags. -/
def epiItems (p : EpiBlock) (ys : List (Nat × BitVec 3)) : List (DWord × Byte × Nat) × BitVec 3 :=
  let f0 := ys.foldl (fun f y => f ||| y.2) 0
  if p.ofmt == 4 then
    let rows (t : Nat) : List (List Int × List Nat) := (List.range 128).map fun i =>
      let xs := ((ys.drop (128 * i + 64 * t)).take 64).map fun y => unpack f32 false y.1
      let e0 := groupScale (xs.take 32)
      let e1 := groupScale (xs.drop 32)
      ((xs.take 32).map (quantise e0) ++ (xs.drop 32).map (quantise e1), [e0, e1])
    let tile (t : Nat) : List (DWord × Byte × Nat) :=
      ((List.range 8).map fun q =>
        (mapFrom (fun r x => itemsAt (p.dest + BitVec.ofNat 64 (8192 * t + 1024 * q + 8 * r)) (planeBytes q x.1) 0) 0 (rows t)).flatten).flatten
    let scale (t : Nat) : List (DWord × Byte × Nat) :=
      (mapFrom (fun r x => itemsAt (p.dscl + BitVec.ofNat 64 (256 * t + 2 * r)) (x.2.map fun e => BitVec.ofNat 8 e) 0) 0 (rows t)).flatten
    (tile 0 ++ tile 1 ++ scale 0 ++ scale 1, f0)
  else
    let n := outBytes p.ofmt
    let cs := ys.map fun y => epiConvert p.ofmt y.1
    ((mapFrom (fun k c => itemsAt (p.dest + BitVec.ofNat 64 (k / 128 * p.dstr + k % 128 * n)) (toLeBytes n c.1) 0) 0 cs).flatten,
     cs.foldl (fun f c => f ||| c.2) f0)

/-- One destination line of a job (R219, R220). -/
def epiLine (core : Nat) (t : Team) (rc : BitVec 6) (s : State) (xs : List (DWord × Byte × Nat)) : State :=
  let a := lineBase xs
  if topByte a == 0xFF then
    let k := teamKey t (field a 23 0)
    if lineLive s k then engineError s core t.vc 1 a.toNat
    else fillLine ((bytesRuns xs).foldl (fun s r => writeN s (teamKey t (field r.1 23 0)) r.2) s) k rc 0
  else
    let kind := outKind s t rc xs
    if kind != 0 then engineError s core t.vc kind a.toNat
    else
      match translate s t.vc a (teamDie t) with
      | none => s
      | some l =>
        let s1 := ready s t.vc a (teamDie t)
        let counts := rc != 0 && countable l.entry
        let s2 := if counts then startCounted s1 t.vc l.entry (leafAddr l a) rc else s1
        (bytesRuns xs).foldl (fun s r =>
          if counts then writeN s (key .counted (leafAddr l r.1)) r.2 else pagedStore s t.vc l (leafAddr l r.1) r.2) s2

/-- Every line of some items, in the order in which the lines are first met. -/
def epiLines (core : Nat) (t : Team) (rc : BitVec 6) : Nat → List (DWord × Byte × Nat) → State → State
  | 0, _, s => s
  | _, [], s => s
  | n + 1, x :: xs, s =>
    let same (y : DWord × Byte × Nat) : Bool := y.1.toNat / 128 == x.1.toNat / 128
    epiLines core t rc n ((x :: xs).filter fun y => !same y) (epiLine core t rc s ((x :: xs).filter same))

/-- A job's writes (R218, R219). -/
def runJob (s : State) (core : Nat) (t : Team) (e : Engine) (c : Claim) : State :=
  let p := epiBlock c.block
  let ys := (List.range 16384).map fun n =>
    epiValue p (slotElement s core e.tail n) ((c.scl[n % 128]?).getD 0) ((c.bias[n % 128]?).getD 0)
  let x := epiItems p ys
  epiLines core t (BitVec.ofNat 6 p.rc) x.1.length x.1 (setMflags s c.group x.2)

/-- `EPILOGUE_JOB_COMPLETE` (R219). -/
def execEpilogueJobComplete (core : Nat) (s : State) : Out :=
  match heldEngine s core with
  | none => .next s
  | some (e, t) =>
    match e.claims with
    | [] => .next s
    | c :: _ =>
      if !(e.jobRunning && c.epi) then .next s
      else
        let s1 := modEngine (runJob s core t e c) core freeSlot
        .next (event s1 t.vc 12
          [(9, 1), (11, vcCore (vchip s t.vc) core % 256), (12, (e.freed + 1).toNat), (16, t.launch.toNat)])

end Sys2Proof.Machine
end

