-- ==== Sys2Proof/Machine/Pod.lean ====
section
/-!
DEFINITION. The pod instructions, MAJ 0x5C and 0x5D (R236 to R250, R256, R259, R422 to R438), `EVT` (R377) and `CAPQ` (R359).
-/

namespace Sys2Proof.Machine

/-! ## Capability entries -/

def capAt (c : Ctx) (ch : BitVec 5) : Cap :=
  (c.vc.caps[ch.toNat]?).getD { ctl := 0, wbase := 0, wsize := 0, allow := 0, inFlight := 0 }

def capKind (e : Cap) : Nat := field e.ctl 19 16
def capVcn (e : Cap) : Nat := field e.ctl 47 38
def capLabel (e : Cap) : Nat := field e.ctl 55 48
def capMset (e : Cap) : Nat := field e.ctl 37 32
def capEp (e : Cap) : Nat := field e.ctl 31 24
def capAllow (e : Cap) : Nat := field e.allow 31 0
def capSD (e : Cap) : Bool := e.ctl.getLsbD 1
def capPT (e : Cap) : Bool := e.ctl.getLsbD 2
def capGT (e : Cap) : Bool := e.ctl.getLsbD 3
def capAT (e : Cap) : Bool := e.ctl.getLsbD 4
def capMC (e : Cap) : Bool := e.ctl.getLsbD 5
def capPOOL (e : Cap) : Bool := e.ctl.getLsbD 6
def capSH (e : Cap) : Bool := e.ctl.getLsbD 7

/-- An entry as it reads: a reserved bit reads as zero (R8, R238). -/
def capShown (e : Cap) : Cap := { e with ctl := e.ctl &&& 0x00FFFFFFFF0F00FF, allow := e.allow &&& 0xFFFFFFFF }

/-- Members of a guest's multicast set (R255). -/
def mcastMembers (g : Guest) (m : Nat) : List Nat :=
  (List.range 1024).filter fun n => ((tget g.mcast (m * 16 + n / 64)).getD 0).getLsbD (n % 64)

/-- The virtual chips that an entry names. -/
def capPeers (g : Guest) (e : Cap) : List Nat := if capKind e == 3 then mcastMembers g (capMset e) else [capVcn e]

/-- Whether a VCN is outside the partition, unpopulated or disabled (R256). -/
def peerAbsent (g : Guest) (n : Nat) : Bool := decide (g.vlim ≤ n) || !vcnV (vcnEntry g n) || !vcnEn (vcnEntry g n)

/-- Check 3 of R239 with R256. -/
def capInvalid (g : Guest) (e : Cap) : Bool :=
  !e.ctl.getLsbD 0 || capAllow e == 0 || decide (5 ≤ capKind e) || field e.ctl 63 56 != 0 || field e.ctl 23 20 != 0
    || field e.ctl 15 8 != 0 || field e.allow 63 32 != 0
    || (capKind e != 0 && capKind e != 1 && capKind e != 4 && e.wbase != 0)
    || (capKind e != 0 && capKind e != 4 && e.wsize != 0)
    || (capKind e == 3 && (mcastMembers g (capMset e)).isEmpty)
    || !((tget g.labels (capLabel e)).getD 0).getLsbD 7

/-! ## Checks -/

/-- A check: a cause with its address if it fails. -/
abbrev Check := Option (BitVec 8 × DWord)

def require (ok : Bool) (cause : BitVec 8) (a : DWord) : Check := if ok then none else some (cause, a)

/-- The first check that fails. -/
def firstCheck : List Check → Check
  | [] => none
  | some x :: _ => some x
  | none :: cs => firstCheck cs

/-- Checks 3 to 5 of R239. -/
def entryChecks (g : Guest) (e : Cap) (allowed : Bool) : List Check :=
  [require (!capInvalid g e) cChannelInvalid 0, require allowed cChannelPermission 0,
   require (!(capPeers g e).any (peerAbsent g)) cPeerAbsent 0]

/-- Offset in the export that a pod address names (R236). -/
def podOff (a : DWord) : Nat := field a 39 0

/-- Check 6 of R239 and R423 for a pod address. -/
def podAddrCheck (e : Cap) (a : DWord) : Check :=
  if !canonical a then some (cNonCanonical, a)
  else if topByte a != 0x01 then some (cChannelPermission, a)
  else if field a 49 40 != capVcn e then some (cChannelPermission, a)
  else none

/-- Check 7 of R239 for a range in the entry's window. -/
def windowCheck (e : Cap) (a : DWord) (n : Nat) : Check :=
  require (decide (e.wbase.toNat ≤ podOff a) && decide (podOff a + n ≤ e.wbase.toNat + e.wsize.toNat)) cBounds a

/-- Whether a range of team-window offsets meets the team's ring window (R134). -/
def meetsRing (t : Team) (off n : Nat) : Bool :=
  (t.holdsA && rangesMeet off n 0x800000 0x40000) || (t.holdsB && t.coreB.isSome && rangesMeet off n 0x840000 0x40000)

/-- Check 8 of R239: a local range of n bytes. -/
def localCheck (t : Team) (a : DWord) (n : Nat) : Check :=
  let last := a + BitVec.ofNat 64 (n - 1)
  let off := field a 23 0
  if !canonical a then some (cNonCanonical, a)
  else if topByte a == 0x01 then some (cPodAddress, a)
  else if topByte a == 0xFE then some (cBounds, a)
  else if topByte a == 0xFF then
    if off + n ≤ t.alloc then none
    else if meetsRing t off n then some (cProtection, a)
    else some (cBounds, a)
  else require (decide (a.toNat + n ≤ 2 ^ 64) && canonical last && topByte last == 0) cNonCanonical a

/-- A multiple. -/
def alignCheck (a : DWord) (n : Nat) : Check := require (a.toNat % n == 0) cMisaligned a

/-- A pod instruction issued: while its guest's admission is paused it waits (R259); then its checks, then its effect. -/
def podIssue (i : Instr) (checks : Ctx → List Check) (eff : Ctx → State → State) (s : State) : Out :=
  issue i s fun c =>
    if (guestOf s c.t.vc).paused then stallFor s c .allowance
    else
      match firstCheck (checks c) with
      | some (cause, a) => fault s c cause c.b.mask a
      | none => eff c s

/-- Room for some bytes on a channel (R240). -/
def hasAllowance (e : Cap) (n : Nat) : Bool := e.inFlight == 0 || decide (e.inFlight + n ≤ capAllow e)

/-- A token register made pending for an operation (R244). -/
def pendPod (c : Ctx) (st : BitVec 6) (tag : BitVec 32) (s : State) : State :=
  onGroup s c fun g => { g with tokens := if st == 0#6 then g.tokens else g.tokens ++ [(st, .pod tag)] }

/-- An operation of the issuing group over a channel. -/
def podOp (c : Ctx) (s : State) (kind : PodKind) (ch : BitVec 5) (bytes : Nat) (st : BitVec 6) (peer : Nat)
    (left : List (Nat × DWord)) (total : Nat) (tag : BitVec 32) : PodOp :=
  { tag := tag, vc := c.t.vc, group := c.b.group, kind := kind, cap := ch.toNat, bytes := bytes, st := st, peer := peer,
    origin := if capKind (capAt c ch) == 0 || capKind (capAt c ch) == 4 then 0x0100000000000000 + BitVec.ofNat 64 (peer * 2 ^ 40) else 0,
    left := left, total := total, err := 0, eq := false, startNs := s.time.toNat, req := none }

/-! ## Local bytes -/

/-- Local bytes read for a push, with the kind of error met, 0 for none (R195, R242). -/
def readLocal (t : Team) (s : State) (a : DWord) (n : Nat) : State × List Byte × Nat :=
  (linePieces (n + 1) a.toNat n).foldl (fun r p =>
    let q := readSource (if topByte a == 0xFF then 2 else 0) t r.1 (BitVec.ofNat 64 p.1) p.2
    (q.1, r.2.1 ++ q.2.1, if r.2.2 == 0 then q.2.2 else r.2.2)) (s, [], 0)

/-- Pieces of a push: target offset, bytes, error kind at the source. The header has 48 bits for the offset (R226): a piece beyond them
lies outside every export and region, and fails with KIND 3 (R244; log 13). -/
def pushPieces (t : Team) (src : DWord) (base : Nat) : List (Nat × Nat) → State → State × List (Nat × List Byte × Nat)
  | [], s => (s, [])
  | p :: ps, s =>
    let x := readLocal t s (src + BitVec.ofNat 64 (p.1 - base)) p.2
    let r := pushPieces t src base ps x.1
    (r.1, (p.1, x.2.1, if 2 ^ 48 ≤ p.1 then 3 else x.2.2) :: r.2)

/-- The write flits of pieces whose source could be read; LAST marks the last piece of the operation. -/
def pieceFlits (tag : BitVec 32) (dest : FlitDest) (fin : Nat) (ps : List (Nat × List Byte × Nat)) : List Flit :=
  (ps.filter fun p => p.2.2 == 0).map fun p =>
    bareFlit opWrite tag p.1 p.2.1 (p.2.1.length - 1) (p.1 + p.2.1.length == fin) dest

/-- Pieces whose source could not be read end with their kind (R195, R244). -/
def failPieces (tag : BitVec 32) (key : Nat → Nat) (ps : List (Nat × List Byte × Nat)) (s : State) : State :=
  ps.foldl (fun s p => if p.2.2 == 0 then s else endPiece s tag (key p.1) p.2.2 [] true) s

/-! ## PSEND and PMCAST -/

/-- A length of R242: 4 to 2^32 - 4 (check 7), a multiple of 4 (check 9). -/
def lengthCheck (n : DWord) : Check := require (decide (4 ≤ n.toNat) && decide (n.toNat ≤ 2 ^ 32 - 4)) cBounds n

/-- Checks of `PSEND` (R239, R437). -/
def psendChecks (g : Guest) (c : Ctx) (e : Cap) (src dst len : DWord) : List Check :=
  let pull := topByte src == 0x01
  let k := capKind e
  let n := len.toNat
  entryChecks g e (if pull then (k == 0 && capGT e) || (k == 4 && capPOOL e)
      else (decide (k ≤ 2) && capSD e) || (k == 4 && capPOOL e))
    ++ (if pull then [podAddrCheck e src] else if k == 0 || k == 4 then [podAddrCheck e dst] else [])
    ++ (if pull then [windowCheck e src n] else if k == 0 || k == 4 then [windowCheck e dst n] else [])
    ++ [lengthCheck len, localCheck c.t (if pull then dst else src) n, alignCheck src 4,
        if k == 2 && !pull then none else alignCheck dst 4, alignCheck len 4]

/-- What a channel's flits name at their target. -/
def capDest (e : Cap) : FlitDest :=
  if capKind e == 1 then .endpoint (capEp e) e.wbase
  else if capKind e == 2 then .queue (capEp e)
  else if capKind e == 4 then .pool
  else .memory

/-- A push (R242, R438): its source is read now; a transfer to a queue lands whole, so an unreadable piece fails all of it. -/
def push (i : Instr) (c : Ctx) (ch : BitVec 5) (st : BitVec 6) (src dst : DWord) (n : Nat) (s : State) : State :=
  let e := capAt c ch
  let base := if capKind e == 0 || capKind e == 4 then podOff dst else if capKind e == 1 then dst.toNat else 0
  let x := pushPieces c.t src base (pieces64 (n + 1) base n) (withdrawIdem (issued i c s) c true)
  let b := beginOp x.1 fun tag => podOp c s .push ch n st (capVcn e) (x.2.map fun p => (p.1, 0)) n tag
  let s1 := pendPod c st b.2 b.1
  let bad := x.2.find? fun p => p.2.2 != 0
  if capKind e == 2 && bad.isSome then failOp s1 b.2 ((bad.map fun p => p.2.2).getD 0)
  else
    let s2 := sendTo s1 c.t.vc (capVcn e) (capLabel e) b.2 (pieceFlits b.2 (capDest e) (base + n) x.2)
    failPieces b.2 id x.2 s2

/-- A pull (R242, R438): each piece is requested, and will land at its local address. -/
def pull (i : Instr) (c : Ctx) (ch : BitVec 5) (st : BitVec 6) (src dst : DWord) (n : Nat) (s : State) : State :=
  let e := capAt c ch
  let base := podOff src
  let ps := pieces64 (n + 1) base n
  let s0 := withdrawIdem (issued i c s) c true
  let b := beginOp s0 fun tag =>
    podOp c s .pull ch n st (capVcn e) (ps.map fun p => (p.1, dst + BitVec.ofNat 64 (p.1 - base))) n tag
  sendTo (pendPod c st b.2 b.1) c.t.vc (capVcn e) (capLabel e) b.2
    (ps.map fun p => bareFlit opGet b.2 p.1 [] (p.2 - 1) (p.1 + p.2 == base + n) (capDest e))

/-- `PSEND` (R242, R437, R438). A pull waits until the copies that the group issued have read what it writes (R174). -/
def execPsend (l : BitVec 4) (a : BitVec 6) (ch : BitVec 5) (t : BitVec 6) (s : State) : Out :=
  let i : Instr := .psend l a ch t
  podIssue i
    (fun c => psendChecks (guestOf s c.t.vc) c (capAt c ch) (readS c.g a) (readS c.g (a + 1)) (readS c.g (a + 2)))
    (fun c s =>
      let n := (readS c.g (a + 2)).toNat
      if !hasAllowance (capAt c ch) n then stallFor s c .allowance
      else if topByte (readS c.g a) == 0x01 && copyHeld s c [(readS c.g (a + 1), n)] then stallFor s c .scoreboard
      else if topByte (readS c.g a) == 0x01 then pull i c ch t (readS c.g a) (readS c.g (a + 1)) n s
      else push i c ch t (readS c.g a) (readS c.g (a + 1)) n s) s

/-- `PMCAST` (R242, R431). -/
def execPmcast (l : BitVec 4) (a : BitVec 6) (ch : BitVec 5) (t : BitVec 6) (s : State) : Out :=
  let i : Instr := .pmcast l a ch t
  podIssue i
    (fun c =>
      let e := capAt c ch
      entryChecks (guestOf s c.t.vc) e (capKind e == 3 && capMC e)
        ++ [lengthCheck (readS c.g (a + 2)), localCheck c.t (readS c.g a) (readS c.g (a + 2)).toNat, alignCheck (readS c.g a) 4,
            alignCheck (readS c.g (a + 1)) 4, alignCheck (readS c.g (a + 2)) 4])
    (fun c s =>
      let e := capAt c ch
      let n := (readS c.g (a + 2)).toNat
      let ms := mcastMembers (guestOf s c.t.vc) (capMset e)
      let base := (readS c.g (a + 1)).toNat
      let way (m : Nat) (off : Nat) : Nat :=
        let x := vcnEntry (guestOf s c.t.vc) m
        pieceKey (podOp c s .mcast ch 0 t 0 [] 0 0) (vcnPkg x) (vcnSlot x) off
      if !hasAllowance e (n * ms.length) then stallFor s c .allowance
      else
        let x := pushPieces c.t (readS c.g a) base (pieces64 (n + 1) base n) (withdrawIdem (issued i c s) c true)
        let b := beginOp x.1 fun tag =>
          podOp c s .mcast ch (n * ms.length) t (capVcn e) (ms.flatMap fun m => x.2.map fun p => (way m p.1, BitVec.ofNat 64 m)) n tag
        let s1 := pendPod c t b.2 b.1
        ms.foldl (fun s m =>
          failPieces b.2 (way m) x.2 (sendTo s c.t.vc m (capLabel e) b.2 (pieceFlits b.2 .memory (base + n) x.2))) s1) s

/-! ## PPUT and PGET -/

/-- The active lanes with the offsets of their words. -/
def laneOffs (c : Ctx) (base : Nat) : List (Nat × Nat) := (lanesIn c.g c.b.mask).map fun k => (k, base + 4 * k)

/-- Check 7 of R239 for the words of the active lanes: the others do not count (R311). -/
def laneWindow (c : Ctx) (e : Cap) (a : DWord) : Check :=
  firstCheck ((laneOffs c (podOff a)).map fun p =>
    require (decide (e.wbase.toNat ≤ p.2) && decide (p.2 + 4 ≤ e.wbase.toNat + e.wsize.toNat)) cBounds (a + BitVec.ofNat 64 (4 * p.1)))

/-- `PPUT` (R243, R434). A piece at an offset that the header cannot hold fails with KIND 3 (log 13). -/
def execPput (l : BitVec 4) (a : BitVec 6) (ch : BitVec 5) (d : BitVec 6) (s : State) : Out :=
  let i : Instr := .pput l a ch d
  podIssue i
    (fun c =>
      let e := capAt c ch
      entryChecks (guestOf s c.t.vc) e (decide (capKind e ≤ 1) && capPT e)
        ++ (if capKind e == 0 then [podAddrCheck e (readS c.g a), laneWindow c e (readS c.g a)] else [])
        ++ [alignCheck (readS c.g a) 4])
    (fun c s =>
      let e := capAt c ch
      let ls := laneOffs c (if capKind e == 0 then podOff (readS c.g a) else (readS c.g a).toNat)
      let n := 4 * ls.length
      if !hasAllowance e n then stallFor s c .allowance
      else
        let b := beginOp (withdrawIdem (issued i c s) c true) fun tag =>
          podOp c s .put ch n 0 (capVcn e) (ls.map fun p => (p.2, BitVec.ofNat 64 p.1)) n tag
        let last := (ls.getLast?.map fun p => p.1).getD 0
        let s1 := (ls.filter fun p => decide (2 ^ 48 ≤ p.2)).foldl (fun s p => endPiece s b.2 p.2 3 [] true) b.1
        sendTo s1 c.t.vc (capVcn e) (capLabel e) b.2
          ((ls.filter fun p => decide (p.2 < 2 ^ 48)).map fun p =>
            bareFlit opWrite b.2 p.2 (toLeBytes 4 (readV (laneAt c.g p.1) d).toNat) 3 (p.1 == last) (capDest e))) s

/-- `PGET` (R243, R428). -/
def execPget (l : BitVec 4) (a : BitVec 6) (ch : BitVec 5) (d : BitVec 6) (s : State) : Out :=
  let i : Instr := .pget l a ch d
  podIssue i
    (fun c =>
      let e := capAt c ch
      entryChecks (guestOf s c.t.vc) e (capKind e == 0 && capGT e)
        ++ [podAddrCheck e (readS c.g a), windowCheck e (readS c.g a) (4 * c.g.width), alignCheck (readS c.g a) 4])
    (fun c s =>
      let e := capAt c ch
      let ls := laneOffs c (podOff (readS c.g a))
      let n := 4 * ls.length
      if !hasAllowance e n then stallFor s c .allowance
      else
        let s1 := ls.foldl (fun s p => onGroup s c (addLoads p.1 d [0] false false)) (issued i c s)
        let b := beginOp s1 fun tag =>
          podOp c s .get ch n d (capVcn e) (ls.map fun p => (p.2, BitVec.ofNat 64 p.1)) n tag
        let last := (ls.getLast?.map fun p => p.1).getD 0
        sendTo b.1 c.t.vc (capVcn e) (capLabel e) b.2
          (ls.map fun p => bareFlit opGet b.2 p.2 [] 3 (p.1 == last) .memory)) s

/-! ## Arrival counters and endpoints -/

/-- A counter that is not armed. -/
def disarmed : Arrival := { armed := false, word := 0, base := 0, len := 0, target := 0 }

/-- A team's sixteen counters (R247). -/
def countersOf (t : Team) : List Arrival := (t.counters ++ List.replicate 16 disarmed).take 16

/-- Check 8 of R239 for the range of `PARRV`: one that reaches a ring window fails there (R424). -/
def ringReach (t : Team) (a : DWord) (n : Nat) : Check :=
  require (!(topByte a == 0xFF && meetsRing t (field a 23 0) n)) cProtection a

/-- A range's ends checked as R343 checks 2 to 5 (R424). -/
def rangeCheck (t : Team) (a : DWord) (n : Nat) : Check := localCheck t a n

/-- `PARRV` (R247, R424). Its write of the word waits until a copy that the group issued has read it (R174). -/
def execParrv (l : BitVec 4) (a : BitVec 6) (n : BitVec 4) (s : State) : Out :=
  let i : Instr := .parrv l a n
  podIssue i
    (fun c =>
      let w := readS c.g a
      let base := readS c.g (a + 1)
      let len := readS c.g (a + 2)
      let target := readS c.g (a + 3)
      let lim (x : DWord) : Bool := decide (1 ≤ x.toNat) && decide (x.toNat ≤ 2 ^ 40)
      [localCheck c.t w 1, ringReach c.t base (max 1 len.toNat), localCheck c.t base 1, require (topByte w == 0xFF) cBounds w, alignCheck w 8,
       localCheck c.t w 8, require (lim len && lim target) cBounds base, rangeCheck c.t base len.toNat])
    (fun c s =>
      let w := readS c.g a
      if copyHeld s c [(w, 8)] then stallFor s c .scoreboard else
      let k := teamKey c.t (field w 23 0)
      let arm : Arrival :=
        { armed := true, word := field w 23 0, base := readS c.g (a + 1), len := (readS c.g (a + 2)).toNat,
          target := (readS c.g (a + 3)).toNat }
      let s1 := withdrawIdem (issued i c s) c true
      let s2 := setLine (writeLe s1 k 8 0) k freshLine
      modTeam s2 c.g.team fun t => { t with counters := listMod (fun _ => arm) n.toNat (countersOf t) }) s

/-- `PRECV` (R245, R436). A queue in the team window takes R132's cause for an address outside the regions, 0x04 (log 23). -/
def execPrecv (l : BitVec 4) (a : BitVec 6) (s : State) : Out :=
  let i : Instr := .precv l a
  podIssue i
    (fun c =>
      let d := readS c.g a
      let base := readS c.g (a + 1)
      let size := readS c.g (a + 2)
      let queue := d.getLsbD 8
      let pow2 : Bool := (List.range 19).any fun k => size == BitVec.twoPow 64 (k + 12)
      (if queue then [localCheck c.t base 1] else [])
        ++ [require (field d 63 9 == 0) cIllegal 0]
        ++ (if queue then [require pow2 cIllegal 0, require (base.toNat % (max 1 size.toNat) == 0) cMisaligned base,
                           require (topByte base == 0) cNonCanonical base]
            else [alignCheck base 128, alignCheck size 128, require (decide (base.toNat + size.toNat ≤ c.t.alloc)) cBounds base]))
    (fun c s =>
      let d := readS c.g a
      let base := readS c.g (a + 1)
      let size := readS c.g (a + 2)
      let bind : Binding :=
        if d.getLsbD 8 then .queue base size.toNat 0 else .team c.g.team c.t.incarn base.toNat size.toNat
      modVc (withdrawIdem (issued i c s) c true) c.t.vc fun v => { v with endpoints := tput v.endpoints (field d 7 0) bind }) s

/-! ## PATOM, PPOOL, PHINT, PFENCE -/

/-- Operand bytes of a handler (R425). -/
def handlerBytes (h : Nat) : Nat :=
  if h = 1 || h = 3 || (9 ≤ h && h ≤ 12) || (15 ≤ h && h ≤ 17) || h = 19 || h = 21 || h = 25 || h = 31 then 8 else 4

/-- `PATOM` (R248, R425). -/
def execPatom (l : BitVec 4) (a : BitVec 6) (ch : BitVec 5) (t : BitVec 6) (s : State) : Out :=
  let i : Instr := .patom l a ch t
  podIssue i
    (fun c =>
      let e := capAt c ch
      let x := readS c.g a
      let h := readS c.g (a + 3)
      entryChecks (guestOf s c.t.vc) e ((capKind e == 0 && capAT e) || (capKind e == 4 && capPOOL e))
        ++ [podAddrCheck e x, windowCheck e x (handlerBytes (field h 4 0)), require (field h 63 5 == 0) cIllegal 0,
            alignCheck x (handlerBytes (field h 4 0))])
    (fun c s =>
      let e := capAt c ch
      let off := podOff (readS c.g a)
      if !hasAllowance e 8 then stallFor s c .allowance
      else
        let b := beginOp (withdrawIdem (issued i c s) c true) fun tag =>
          podOp c s .atomic ch 8 t (capVcn e) [(off, 0)] 8 tag
        let bs := toLeBytes 8 (readS c.g (a + 1)).toNat ++ toLeBytes 8 (readS c.g (a + 2)).toNat
          ++ toLeBytes 1 (readS c.g (a + 3)).toNat
        sendTo (pendPod c t b.2 b.1) c.t.vc (capVcn e) (capLabel e) b.2
          [bareFlit opAtomic b.2 off bs 16 true (if capKind e == 0 && capSH e then .home else capDest e)]) s

/-- `PPOOL` (R250, R433). -/
def execPpool (l : BitVec 4) (a : BitVec 6) (ch : BitVec 5) (t : BitVec 6) (s : State) : Out :=
  let i : Instr := .ppool l a ch t
  podIssue i
    (fun c =>
      let e := capAt c ch
      let o := readS c.g a
      let dst := readS c.g (a + 1)
      let src := readS c.g (a + 2)
      let len := readS c.g (a + 3)
      let op := field o 1 0
      let kind := field o 6 4
      entryChecks (guestOf s c.t.vc) e (capKind e == 4 && capPOOL e)
        ++ [podAddrCheck e dst] ++ (if op == 0 then [] else [podAddrCheck e src])
        ++ [windowCheck e dst len.toNat] ++ (if op == 0 then [] else [windowCheck e src len.toNat])
        ++ [require (field o 63 7 == 0 && field o 3 2 == 0 && (if op == 3 then decide (kind ≤ 4) else kind == 0)) cIllegal 0,
            require (decide (8 ≤ len.toNat) && decide (len.toNat ≤ 2 ^ 40) && len.toNat % 8 == 0) cBounds len,
            alignCheck dst 8, if op == 0 then none else alignCheck src 8])
    (fun c s =>
      let e := capAt c ch
      let off := podOff (readS c.g (a + 1))
      if !hasAllowance e 8 then stallFor s c .allowance
      else
        let b := beginOp (withdrawIdem (issued i c s) c true) fun tag =>
          podOp c s .pool ch 8 t (capVcn e) [(off, 0)] 8 tag
        let src := readS c.g (a + 2)
        let bs := toLeBytes 8 (readS c.g a).toNat ++ toLeBytes 8 off
          ++ toLeBytes 8 (if field (readS c.g a) 1 0 == 0 then src.toNat else podOff src) ++ toLeBytes 8 (readS c.g (a + 3)).toNat
        sendTo (pendPod c t b.2 b.1) c.t.vc (capVcn e) (capLabel e) b.2
          [bareFlit opPool b.2 off bs 31 true .pool]) s

/-- `PHINT` (R246, R429): a hint that cannot be sent is dropped. -/
def execPhint (ch : BitVec 5) (s : State) : Out :=
  let i : Instr := .phint ch
  podIssue i
    (fun c =>
      let e := capAt c ch
      entryChecks (guestOf s c.t.vc) e (decide (capKind e ≤ 2)))
    (fun c s =>
      let e := capAt c ch
      let l := legTo s c.t.vc (capVcn e) (capLabel e)
      let s1 := issued i c s
      if l.2 then sendLeg { s1 with nextTag := s1.nextTag + 1 } c.t.vc l.1 [bareFlit opHint s1.nextTag 0 [] 0 true (capDest e)] else s1) s

/-- Pod operations of a group that are not complete (R164). -/
def podBusy (s : State) (n : Nat) : Bool := s.ops.any fun o => o.group == n

/-- `PFENCE` (R164, R427): while it waits, the group's other bundles make no access. -/
def execPfence (l : BitVec 4) (s : State) : Out :=
  let i : Instr := .pfence l
  podIssue i (fun _ => [])
    (fun c s =>
      if podBusy s c.b.group then onGroup (stallFor s c .scoreboard) c fun g => { g with pfence := true }
      else onGroup (issued i c s) c fun g => { g with pfence := false }) s

/-! ## EVT and CAPQ -/

/-- `EVT` (R340, R377): a PC sample record with reason 0 while sampling is enabled. -/
def execEvt (s : State) : Out :=
  issue .evt s fun c =>
    let s1 := issued .evt c s
    if !(vchip s c.t.vc).smpEn then s1 else event s1 c.t.vc 1 (sampleFields s c.g c.t 0 c.b.pc)

/-- `CAPQ` (R8, R359). -/
def execCapq (f : BitVec 1) (ch : BitVec 5) (t : BitVec 6) (s : State) : Out :=
  let i : Instr := .capq f ch t
  issue i s fun c =>
    let e := capShown (capAt c ch)
    let x := if f = 0#1 then e.ctl else BitVec.ofNat 64 (capAllow e + e.inFlight % 2 ^ 32 * 2 ^ 32)
    onGroup (issued i c s) c fun g => writeS g t x

end Sys2Proof.Machine
end

