-- ==== Sys2Proof/Machine/Arrivals.lean ====
section
/-!
DEFINITION. What a flit does at its target and at its source (R234, R236, R242 to R250, R257, R261 to R263, R268).
-/

namespace Sys2Proof.Machine

/-! ## Outcomes -/

/-- What becomes of a flit that has come: performed, failed as a damaged flit would (R233, R263), held, or failed with the run that it
completes, whose flits count as damaged too (R268). -/
inductive Delivery where
  | done (s : State)
  | refused
  | held
  | failed (s : State)
  deriving DecidableEq, Repr

/-- A flit for a pool node, which KIND 4 channels alone send (R250). -/
def forPool (f : Flit) : Bool := f.op == opPool || f.dest == .pool

/-- The virtual-chip slot that a flit names, if it is in use. -/
def targetChip (s : State) (f : Flit) : Option Nat := if (vchip s f.dslot.toNat).used then some f.dslot.toNat else none

/-- The VCN of a flit's source among the guest of its target (R257). -/
def sourceVcn (s : State) (v : Nat) (f : Flit) : Option Nat :=
  ((guestOf s v).vcns.find? fun e =>
    vcnV e.2 && vcnEn e.2 && vcnPkg e.2 == f.spkg.toNat && vcnSlot e.2 == f.sslot.toNat).map fun e => e.1

/-- The link key of a flit's pair as its target holds it (R267). -/
def arrivalKey (s : State) (v vcn : Nat) : Option (List Byte) := linkKey s (vcnKs (vcnEntry (guestOf s v) vcn)) (ownVcn s v)

/-- The way back to a flit's source: its replies are sealed under the link key that opened it (R257). They are never relayed, since no
route label covers them (log 13). -/
def replyLeg (f : Flit) : Leg := { dpkg := f.spkg.toNat, dslot := f.sslot.toNat, relay := false, key := f.opened }

/-- A reply sent to a flit's source; the reply to the last flit of an operation is the last of the answer. -/
def reply (s : State) (f : Flit) (op : BitVec 4) (bs : List Byte) : State :=
  sendLeg s f.dslot.toNat (replyLeg f) [bareFlit op f.tag f.off.toNat bs (max 1 bs.length - 1) f.last .memory]

/-- The completion of a piece: KIND, 0 if it was performed (R244), and the payload bytes to count as sent. -/
def completeWith (s : State) (f : Flit) (kind n : Nat) : State := reply s f opCompletion [BitVec.ofNat 8 kind, BitVec.ofNat 8 n]

/-- The completion of a piece of a span access, of a pool node or of an error, of which no byte counts beyond those counted already. -/
def complete (s : State) (f : Flit) (kind : Nat) : State := completeWith s f kind 0

/-- Bytes that a virtual chip has sent (R299). -/
def sentBytes (s : State) (v n : Nat) : State := countVc s v 4 n

/-- Bytes that a virtual chip has received (R299). -/
def receivedBytes (s : State) (v n : Nat) : State := countVc s v 5 n

/-! ## Receive logs (R262, R263) -/

/-- Payload bytes of a pod operation performed here for a source on this package: it counts them as sent now (R491). -/
def sentHere (s : State) (f : Flit) (n : Nat) : State := if f.spkg.toNat == s.pkg then sentBytes s f.sslot.toNat n else s

/-- What a source on another package counts as sent when a reply tells it of the performance (R491; log 13). -/
def sentThere (s : State) (f : Flit) (n : Nat) : State := if f.spkg.toNat == s.pkg then s else sentBytes s f.dslot.toNat n

/-- A piece of a write performed, with its payload bytes. -/
def completeDone (s : State) (f : Flit) : State := completeWith (sentHere s f (f.nb.toNat + 1)) f 0 (f.nb.toNat + 1)

/-- Bytes of a log record. -/
def logRecord (s : State) (v : Nat) (f : Flit) (inc : Nat) (ep flags : Nat) : List Byte :=
  toLeBytes 32 (inc + f.off.toNat * 2 ^ 64 + (((sourceVcn s v f).getD 0) % 2 ^ 16) * 2 ^ 128 + ep % 256 * 2 ^ 144
    + f.nb.toNat * 2 ^ 152 + flags * 2 ^ 160 + (vchip s v).rltail.toNat * 2 ^ 192) ++ payload64 f.payload

/-- A delivery written to the receive log, with the teams it belongs to and the address it goes to; a stale one belongs to none.
None while the log is full, disabled or cannot be written (R263). Its bytes count as received when it is applied (R491). -/
def logPut (s : State) (v : Nat) (f : Flit) (inc ep flags : Nat) (teams : List Nat) (addr : DWord) : Option State :=
  let c := vchip s v
  let n := 2 ^ c.rlsize.toNat
  let base := field c.rlbase 47 12 * 4096
  if c.rlsize == 0 || base == 0 || decide (n ≤ (c.rltail - c.rlhead).toNat) then none
  else
    match deviceWrite s v (base + c.rltail.toNat % n * 96) (logRecord s v f inc ep flags) with
    | none => none
    | some s1 =>
      some (modVc s1 v fun x =>
        { x with
          rltail := x.rltail + 1
          rlowner := if teams.isEmpty then x.rlowner
            else tput x.rlowner x.rltail.toNat { addr := addr, teams := teams, written := false } })

/-- A delivery that goes to the log; refused, as a damaged flit is, while the log cannot take it (R263). A stale one is never performed,
so that no byte of it counts (R491). -/
def toLog (s : State) (v : Nat) (f : Flit) (inc ep flags : Nat) (teams : List Nat) (addr : DWord) : Delivery :=
  match logPut s v f inc ep flags teams addr with
  | none => .refused
  | some s1 => .done (if teams.isEmpty then complete s1 f 0 else completeDone s1 f)

/-! ## Exported memory (R236) -/

/-- The error kind that a cause of a page access stands for, 0 for none (R195, R244). -/
def causeKind (cause : BitVec 8) : Nat :=
  if cause == cTranslation || cause == cNonCanonical then 2 else if cause == cProtection then 3 else 0

/-- The address of an offset in the export, with the kind of failure, 0 for none (R236). -/
def exportAddr (s : State) (v off n : Nat) (a : Acc) : DWord × Nat :=
  let c := vchip s v
  let va := BitVec.ofNat 64 (field c.expbase 47 12 * 4096 + off)
  (va, if field c.expsize 40 12 * 4096 < off + n then 3 else causeKind (pagedCause s v va.toNat n a))

/-- The teams of a virtual chip that are not resident and count a byte of a range, each with the counter and its base (R247, R263). -/
def awayCounters (s : State) (v : Nat) (va n : Nat) : List (Nat × Nat × Nat) :=
  (mapFrom (fun i t => (i, t)) 0 s.teams).filterMap fun p =>
    if p.2.vc == v && (p.2.status == .restarted || p.2.status == .saved true || p.2.status == .saved false) then
      (List.range n).findSome? fun k =>
        (counterOf p.2 (va + k)).map fun j => (p.1, j, ((p.2.counters[j]?).map fun c => c.base.toNat).getD 0)
    else none

/-- Bytes of a flit that arrive at a paged address: written and counted, or, where they fall in the range of an armed counter whose
team is not resident, put in the receive log, for every such team (R247, R263). -/
def land (s : State) (v : Nat) (f : Flit) (va : DWord) (bs : List Byte) : Option State :=
  match awayCounters s v va.toNat bs.length with
  | [] => some (receivedBytes (arrive (pagedWrite (bs.length + 1) s v va.toNat bs) v none va bs.length) v bs.length)
  | (n, j, base) :: more =>
    logPut s v { f with off := BitVec.ofNat 48 (va.toNat - base), payload := bs } 0 j 2 (n :: more.map fun p => p.1) va

/-- A write into exported memory. -/
def writeExport (s : State) (v : Nat) (f : Flit) : Delivery :=
  let bs := usedBytes f
  let x := exportAddr s v f.off.toNat bs.length { bytes := bs.length, write := true }
  if x.2 != 0 then .done (complete s f x.2)
  else
    match land s v f x.1 bs with
    | none => .refused
    | some s1 => .done (completeDone s1 f)

/-! ## Pieces performed (R234) -/

/-- How a piece is named among those performed: by its offset, its target's slot and its operation code, since requests and replies
of one source may bear one tag (log 13). -/
def pieceName (f : Flit) : Nat := (f.off.toNat * 16 + f.dslot.toNat) * 16 + f.op.toNat

/-- How a tag flit is named among those that have verified their runs: with the direction of the run. -/
def tagName (f : Flit) : Nat := pieceName f * 2 + (if (f.run.map fun r => r.replies) == some true then 1 else 0)

/-- The set of the pieces performed of a flit's operation, changed (R234). -/
def noteDup (s : State) (f : Flit) (add : DupSet → DupSet) : State :=
  let mine (d : DupSet) : Bool := d.spkg == f.spkg.toNat && d.sslot == f.sslot.toNat && d.tag == f.tag
  let add (d : DupSet) : DupSet := { add d with lastNs := s.time.toNat }
  let fresh : DupSet := { spkg := f.spkg.toNat, sslot := f.sslot.toNat, tag := f.tag, offs := [], tags := [], lastNs := 0 }
  if s.dups.any mine then { s with dups := s.dups.map fun d => if mine d then add d else d }
  else { s with dups := s.dups ++ [add fresh] }

/-- A piece noted as performed (R234). -/
def notePerformed (s : State) (f : Flit) : State :=
  noteDup s f fun d => { d with offs := if d.offs.contains (pieceName f) then d.offs else pieceName f :: d.offs }

/-- A verified run noted by its tag (R234, R268). -/
def noteTag (s : State) (f : Flit) : State := noteDup s f fun d => { d with tags := tagName f :: d.tags }

/-- Whether a piece has been performed already, and whether a tag flit has verified its run already (R234). -/
def performed (s : State) (f : Flit) : Bool :=
  s.dups.any fun d => d.spkg == f.spkg.toNat && d.sslot == f.sslot.toNat && d.tag == f.tag && d.offs.contains (pieceName f)
def tagVerified (s : State) (f : Flit) : Bool :=
  s.dups.any fun d => d.spkg == f.spkg.toNat && d.sslot == f.sslot.toNat && d.tag == f.tag && d.tags.contains (tagName f)

/-! ## Endpoints (R245) -/

/-- Two flits that carry one piece of one operation: the same flit, or a replay of it (R233, R234). -/
def samePiece (a b : Flit) : Bool := sameStream a b && a.off == b.off && a.tg == b.tg

/-- Pieces held for one transfer to a queue, with the one now arriving. -/
def queuePieces (s : State) (f : Flit) : List Flit :=
  ((s.trestle.filter fun h => h.verified && sameStream h.flit f && !samePiece h.flit f).map fun h => h.flit) ++ [f]

/-- Length of a transfer whose every piece is there. -/
def transferLength (ps : List Flit) : Option Nat :=
  match ps.find? fun p => p.last with
  | none => none
  | some l =>
    let n := l.off.toNat + l.nb.toNat + 1
    if (ps.foldl (fun k p => k + p.nb.toNat + 1) 0) == n then some n else none

/-- The byte of a transfer at an offset. -/
def transferByte (ps : List Flit) (k : Nat) : Byte :=
  match ps.find? fun p => decide (p.off.toNat ≤ k) && decide (k < p.off.toNat + p.nb.toNat + 1) with
  | some p => (p.payload[k - p.off.toNat]?).getD 0
  | none => 0

/-- The pieces of a transfer landed in a queue's ring from a position on (R245); none if the receive log must take one of them and
cannot. A transfer starts at a multiple of 64, so no piece passes the end of the ring. -/
def writeRing (v base size pos : Nat) : List Flit → State → Option State
  | [], s => some s
  | p :: ps, s =>
    (land s v p (BitVec.ofNat 64 (base + (pos + p.off.toNat) % size)) (usedBytes p)).bind (writeRing v base size pos ps)

/-- Pieces of an operation noted as performed, every one of them (R234). -/
def samePieces (ps : List Flit) (h : Held) : Bool := h.verified && ps.any (samePiece h.flit)

/-- The first error that the bytes of a transfer to a queue, and then its tail word, meet, 0 for none (R244, R245). -/
def ringKind (s : State) (v base size pos : Nat) (ps : List Flit) : Nat :=
  ((ps.map fun (p : Flit) => (base + (pos + p.off.toNat) % size, p.nb.toNat + 1)) ++ [(base + size, 8)]).foldl (fun k (x : Nat × Nat) =>
    if k != 0 then k else causeKind (pagedCause s v x.1 x.2 { bytes := x.2, write := true })) 0

/-- A piece for a queue: held until the transfer is whole, then all of it lands and the tail moves (R245). -/
def toQueue (s : State) (v e : Nat) (base size : Nat) (tail : DWord) (f : Flit) : Delivery :=
  let ps := queuePieces s f
  match transferLength ps with
  | none => .held
  | some n =>
    let s0 := ps.foldl notePerformed { s with trestle := s.trestle.filter fun h => !samePieces ps h }
    let kind := ringKind s v base size tail.toNat ps
    if kind != 0 then .done (ps.foldl (fun s p => complete s p kind) s0)
    else
      match writeRing v base size tail.toNat ps s0 with
      | none => .refused
      | some s1 =>
        let t := tail + BitVec.ofNat 64 ((n + 63) / 64 * 64)
        let s2 := pagedWrite 9 s1 v (base + size) (toLeBytes 8 t.toNat)
        let s3 := modVc s2 v fun c => { c with endpoints := tput c.endpoints e (.queue (BitVec.ofNat 64 base) size t) }
        .done (ps.foldl completeDone s3)

/-- A write to a queue (R245, R263). An endpoint that no queue is bound to has no binding for it (log 13). -/
def writeQueueEnd (s : State) (v e : Nat) (f : Flit) : Delivery :=
  match tget (vchip s v).endpoints e with
  | some (.queue base size tail) => toQueue s v e base.toNat size tail f
  | _ => toLog s v f 0 e 1 [] 0

/-- A write to a team endpoint (R245, R263). An endpoint that no team is bound to has no binding for it (log 13). -/
def writeEndpoint (s : State) (v e : Nat) (inc : BitVec 64) (f : Flit) : Delivery :=
  let named := inc.toNat % 2 ^ 48
  match tget (vchip s v).endpoints e with
  | none => toLog s v f named e 1 [] 0
  | some (.queue _ _ _) => toLog s v f named e 1 [] 0
  | some (.team n bound base size) =>
    let n1 := f.nb.toNat + 1
    if inc != 0 && inc != bound.setWidth 64 then toLog s v f named e 1 [] 0
    else if decide (size < f.off.toNat + n1) then .done (complete s f 3)
    else
      let va : DWord := 0xFF00000000000000#64 + BitVec.ofNat 64 (base + f.off.toNat)
      match s.teams[n]? with
      | none => toLog s v f named e 1 [] 0
      | some t =>
        if inPlace t then
          let s1 := writeN s (teamKey t (base + f.off.toNat)) (usedBytes f)
          .done (completeDone (receivedBytes (arrive s1 v (some n) va n1) v n1) f)
        else
          let counted := (List.range n1).any fun i => (counterOf t (va.toNat + i)).isSome
          toLog s v f named e (if counted then 2 else 0) [n] va

/-! ## Span members (R136) -/

/-- The member of this package that a span access names: its team, and its state. -/
def spanTarget (s : State) (v : Nat) (id : DWord) (index rank : Nat) : Option (Nat × Span × Team) :=
  (mapFrom (fun k sp => (k, sp)) 0 s.spans).findSome? fun p =>
    if p.2.id == id && p.2.index == index then
      ((memberTeam s p.1 rank).filter fun m => m.2.vc == v).map fun m => (p.1, p.2, m.2)
    else none

/-- The answer of one lane of an access (R136): its piece, named by offset, or by place among lanes that act as one; a load gets its
data, a store or atomic a completion, that of an atomic with the old value. Poisoned data comes back as such (log 13). -/
def answerLane (f : Flit) (q : SpanReq) (s : State) (k : Nat) (out : List Byte × Bool) : State :=
  let g := if q.form == 0 then f else { f with off := BitVec.ofNat 48 k, nb := 3 }
  if out.2 then complete s g 4
  else if q.atom.isSome then reply s g opCompletion ([0, 0] ++ out.1)
  else if q.store then complete s g 0
  else reply s g opGetResponse out.1

/-- The answers of the lanes, in their order. -/
def answerLanes (f : Flit) (q : SpanReq) : Nat → List (List Byte × Bool) → State → State
  | _, [], s => s
  | k, out :: outs, s => answerLanes f q (k + 1) outs (answerLane f q s k out)

/-- An access to a span member: failed with KIND 3 if it has left, held while the member or a line does not admit it, else made. -/
def atMember (s : State) (f : Flit) (id : DWord) (index : Nat) (q : SpanReq) : Delivery :=
  match spanTarget s f.dslot.toNat id index q.rank with
  | none => .done (complete s f 3)
  | some (_, sp, t) =>
    if !notDetached sp q.rank then .done (complete s f 3)
    else if !memberAdmits sp (sp.members.length) q.rank || !(t.status == .resident || t.status == .halted) then .held
    else if q.lanes.any fun l => decide (t.alloc < l.off + q.bytes) then .done (complete s f 3)
    else
      match atLines s t q with
      | .waits => .held
      | .live => .done (complete s f 1)
      | .did s1 outs => .done (answerLanes f q 0 outs s1)

/-- The request that the flits of a span-window access make up, with the bytes of each lane's data. -/
def flitReq (rank form : Nat) (rc : BitVec 6) (offs : List Nat) (bytes : Nat) (store : Bool) (atom : Option Instr) (data : List Byte) :
    SpanReq :=
  let w := if atom.isSome then 16 else if form == 0 then data.length else 4
  { reg := 0, rank := rank, bytes := bytes, store := store, atom := atom, form := form, rc := rc, old := false
    lanes := mapFrom (fun k o => { lane := 0, off := o, data := (data.drop (w * k)).take w }) 0 offs }

/-- An access of lanes that act as one, made with all its data: it is held until every flit of it is there. -/
def wholeAccess (s : State) (f : Flit) (make : List Byte → Delivery) : Delivery :=
  let ps := queuePieces s f
  match transferLength ps with
  | none => .held
  | some n =>
    match make ((List.range n).map (transferByte ps)) with
    | .done s1 => .done (ps.foldl notePerformed { s1 with trestle := s1.trestle.filter fun h => !samePieces ps h })
    | d => d

/-- A store at a member (R136, R151). -/
def spanStore (s : State) (f : Flit) (id : DWord) (index rank form : Nat) (rc : BitVec 6) (offs : List Nat) : Delivery :=
  if form == 0 then
    atMember s f id index (flitReq rank 0 rc [f.off.toNat] (f.nb.toNat + 1) true none (usedBytes f))
  else wholeAccess s f fun bs => atMember s f id index (flitReq rank form rc offs 4 true none bs)

/-- An atomic at a member (R136): the instruction's word, and the data and comparison value of each lane. -/
def atomicAtMember (s : State) (f : Flit) (id : DWord) (index rank form : Nat) (offs : List Nat) (word data : List Byte) : Delivery :=
  match decode word with
  | .error _ => .done (complete s f 3)
  | .ok (i, _) => atMember s f id index (flitReq rank form 0 offs (atomBytes i) false (some i) data)

/-- A scalar atomic at a member, or those of an instruction's lanes, which are one update (R350). -/
def spanAtomic (s : State) (f : Flit) (id : DWord) (index rank form : Nat) (offs : List Nat) : Delivery :=
  if form == 0 then atomicAtMember s f id index rank 0 [f.off.toNat] (f.payload.drop 16) (f.payload.take 16)
  else wholeAccess s f fun bs => atomicAtMember s f id index rank form offs (bs.take 4) (bs.drop 4)

/-! ## Pool nodes (R250) -/

/-- A byte of a pool node. -/
def poolKey (node off : Nat) : Nat := key .pool (node * 2 ^ 48 + off)

/-- Binary32 operations of a reduction: nearest-even, no flags (R131). -/
def poolReduce (kind : Nat) (x y : Nat) : Nat :=
  if kind == 0 then (fAddV f32 plainEnv (unpack f32 false x) (unpack f32 false y)).code
  else if kind == 1 then (x + y) % 2 ^ 32
  else if kind == 2 then (x + y) % 2 ^ 64
  else (fMinMaxV f32 plainEnv (kind == 3) (unpack f32 false x) (unpack f32 false y)).code

/-- A reduction of some elements, lowest first. -/
def reduceElements (kind w : Nat) : Nat → Nat → Nat → State → State
  | 0, _, _, s => s
  | n + 1, dst, src, s =>
    reduceElements kind w n (dst + w) (src + w) (writeLe s dst w (poolReduce kind (readLe s dst w) (readLe s src w)))

/-- A pool operation (R250), with the answer of a compare. -/
def poolOperation (s : State) (node : Nat) (o dst src len : Nat) : State × Bool :=
  let d := poolKey node dst
  let r := poolKey node src
  let op := o % 4
  let kind := o / 16 % 8
  if op == 0 then (writeN s d ((List.replicate (len / 8) (toLeBytes 8 src)).flatten), false)
  else if op == 1 then (writeN s d (readN s r len), false)
  else if op == 2 then (s, readN s d len == readN s r len)
  else (reduceElements kind (if kind == 2 then 8 else 4) (len / (if kind == 2 then 8 else 4)) d r s, false)

/-! ## Handlers (R248, R249) -/

/-- Two halves of a word added in a 16-bit format. -/
def halfAdd (fm : Fmt) (x y : Nat) : Nat :=
  let half (k : Nat) : Nat := (fAddV fm plainEnv (unpack fm false (x / 2 ^ (16 * k) % 2 ^ 16)) (unpack fm false (y / 2 ^ (16 * k) % 2 ^ 16))).code
  half 0 + half 1 * 2 ^ 16

/-- New value of a handler (R249): h, old, a, b as numbers of the operand's width. -/
def handlerNew (h old a b : Nat) : Nat :=
  let w := handlerBytes h * 8
  let x : DWord := BitVec.ofNat 64 old
  let y : DWord := BitVec.ofNat 64 a
  let sx (n : Nat) : Int := (BitVec.ofNat w n).toInt
  let r :=
    match h with
    | 0 => old + a
    | 1 => old + a
    | 2 => (fAddV f32 plainEnv (unpack f32 false old) (unpack f32 false a)).code
    | 3 => (fAddV f64 plainEnv (unpack f64 false old) (unpack f64 false a)).code
    | 4 => halfAdd bf16 old a
    | 5 => if sx a < sx old then a else old
    | 6 => if sx old < sx a then a else old
    | 7 => min old a
    | 8 => max old a
    | 9 => if sx a < sx old then a else old
    | 10 => if sx old < sx a then a else old
    | 11 => min old a
    | 12 => max old a
    | 13 => (fMinMaxV f32 plainEnv false (unpack f32 false old) (unpack f32 false a)).code
    | 14 => (fMinMaxV f32 plainEnv true (unpack f32 false old) (unpack f32 false a)).code
    | 15 => (x &&& y).toNat
    | 16 => (x ||| y).toNat
    | 17 => (x ^^^ y).toNat
    | 18 => a
    | 19 => a
    | 20 => if old = b then a else old
    | 21 => if old = b then a else old
    | 22 => if b ≤ old then 0 else old + 1
    | 23 => if old = 0 || b < old then b else old - 1
    | 24 => min (old + a) b
    | 25 => min (old + a) b
    | 26 => (x &&& y).toNat
    | 27 => (x ||| y).toNat
    | 28 => (x ^^^ y).toNat
    | 29 => halfAdd f16 old a
    | _ => old
  r % 2 ^ w

/-- The operands of a handler from its flit: handler, a and b cut to the operand's width. -/
def handlerArgs (f : Flit) : Nat × Nat × Nat :=
  let h := recField f.payload 16 1 % 32
  let n := handlerBytes h
  (h, recField f.payload 0 8 % 2 ^ (8 * n), recField f.payload 8 8 % 2 ^ (8 * n))

/-- The place of a byte of a virtual chip's paged memory. -/
def placeOfByte (s : State) (v : Nat) (va : DWord) : Option Nat := (translate s v va).map fun l => pagedKey s v l.entry (leafAddr l va)

/-- The new value of a remote atomic written at its word, and the old one sent back (R248). -/
def finishAtomic (s : State) (v : Nat) (f : Flit) (va : DWord) (n old : Nat) : State :=
  let a := handlerArgs f
  let s1 := pagedWrite (n + 1) s v va.toNat (toLeBytes n (handlerNew a.1 old a.2.1 a.2.2))
  reply (sentHere (receivedBytes s1 v 8) f 8) f opAtomicResponse (toLeBytes 8 old)

/-- A remote atomic in exported memory; a poisoned word is left as it is and the piece fails with KIND 4 (R248). At the home slice it
is done at once. At the memory controller the word is recalled now and the handler's result written later; another such atomic of
the word waits until then (R171, R248). -/
def atomicExport (s : State) (v : Nat) (f : Flit) : Delivery :=
  let a := handlerArgs f
  let n := handlerBytes a.1
  let x := exportAddr s v f.off.toNat n { bytes := n, write := true, atomic := true }
  if x.2 != 0 then .done (complete s f x.2)
  else
    let k := (placeOfByte s v x.1).getD 0
    if f.dest != .home && s.recalls.any (fun q => rangesMeet k n q.place q.bytes) then .held
    else
      let r := pagedRead s v x.1.toNat n
      let old := leBytes r.2.1
      if r.2.2 then .done (complete r.1 f 4)
      else if f.dest == .home then .done (finishAtomic r.1 v f x.1 n old)
      else .done { r.1 with recalls := r.1.recalls ++ [{ flit := f, vc := v, va := x.1, place := k, bytes := n, old := old, fresh := true }] }

/-- The writes of recalls that an earlier clock made; those of this clock are next (R171; log 5). -/
def finishRecalls (s : State) : State :=
  let s1 := { s with recalls := (s.recalls.filter fun q => q.fresh).map fun q => { q with fresh := false } }
  (s.recalls.filter fun q => !q.fresh).foldl (fun s q => finishAtomic s q.vc q.flit q.va q.bytes q.old) s1

/-- A remote atomic at a pool node. -/
def atomicPool (s : State) (f : Flit) : State :=
  let a := handlerArgs f
  let n := handlerBytes a.1
  let k := poolKey f.dslot.toNat f.off.toNat
  let old := readLe s k n
  reply (sentHere (writeLe s k n (handlerNew a.1 old a.2.1 a.2.2)) f 8) f opAtomicResponse (toLeBytes 8 old)

/-! ## Requests -/

/-- A write performed (R242, R243). -/
def doWrite (s : State) (f : Flit) : Delivery :=
  let v := f.dslot.toNat
  match f.dest with
  | .memory => writeExport s v f
  | .home => writeExport s v f
  | .pool => .done (completeDone (writeN s (poolKey v f.off.toNat) (usedBytes f)) f)
  | .endpoint e inc => writeEndpoint s v e inc f
  | .queue e => writeQueueEnd s v e f
  | .span id index rank form rc offs => spanStore s f id index rank form rc offs

/-- A get request answered (R243); data that is poisoned fails with KIND 4. -/
def doGet (s : State) (f : Flit) : Delivery :=
  let n := f.nb.toNat + 1
  let v := f.dslot.toNat
  match f.dest with
  | .pool => .done (reply s f opGetResponse (readN s (poolKey v f.off.toNat) n))
  | .span id index rank form rc offs =>
    let xs := if form == 0 then [f.off.toNat] else offs
    atMember s f id index (flitReq rank form rc xs n false none [])
  | _ =>
    let x := exportAddr s v f.off.toNat n { bytes := n }
    if x.2 != 0 then .done (complete s f x.2)
    else
      let r := pagedRead s v x.1.toNat n
      .done (if r.2.2 then complete r.1 f 4 else reply (sentBytes r.1 v n) f opGetResponse r.2.1)

/-- A remote atomic performed (R248). -/
def doAtomic (s : State) (f : Flit) : Delivery :=
  match f.dest with
  | .pool => .done (atomicPool s f)
  | .span id index rank form _ offs => spanAtomic s f id index rank form offs
  | _ => atomicExport s f.dslot.toNat f

/-- A pool request performed (R250). -/
def doPool (s : State) (f : Flit) : Delivery :=
  let r := poolOperation s f.dslot.toNat (recField f.payload 0 8) (recField f.payload 8 8) (recField f.payload 16 8) (recField f.payload 24 8)
  .done (reply (sentHere r.1 f 8) f opPoolResponse [if r.2 then 1 else 0])

/-- The saves of a virtual chip's cores held off, each until the end of its interval (R261). -/
def holdSaves (s : State) (v : Nat) : State :=
  { s with cores := mapFrom (fun n k => if (vchip s v).piers.getLsbD (n / 2) then { k with heldOff := true } else k) 0 s.cores }

/-- A hint (R261): to a team endpoint, the bound team, if it is saved, moves to the head of the resume list; to memory or a queue,
forward-progress saves are held off. -/
def doHint (s : State) (f : Flit) : State :=
  let v := f.dslot.toNat
  match f.dest with
  | .endpoint e _ =>
    match tget (vchip s v).endpoints e with
    | some (.team n _ _ _) =>
      modVc s v fun c => if c.resume.contains n then { c with resume := n :: c.resume.filter fun m => m != n } else c
    | _ => s
  | _ => holdSaves s v

/-! ## Answers -/

/-- The local address that a piece of an operation lands at. -/
def pieceAddr (o : PodOp) (off : Nat) : DWord := ((o.left.find? fun p => p.1 == off).map fun p => p.2).getD 0

/-- Pulled bytes landed at their local address, as writes at chip scope (R242): the kind of failure, 0 for none; none while the
receive log must take them and cannot (R263). -/
def landPull (s : State) (o : PodOp) (f : Flit) (bs : List Byte) : Option (State × Nat) :=
  let va := pieceAddr o f.off.toNat
  match (s.groups[o.group]?).bind fun g => (s.teams[g.team]?).map fun t => (g.team, t) with
  | none => some (s, 3)
  | some (n, t) =>
    if topByte va == 0xFF then
      some (receivedBytes (arrive (writeN s (teamKey t (field va 23 0)) bs) o.vc (some n) va bs.length) o.vc bs.length, 0)
    else
      match causeKind (pagedCause s o.vc va.toNat bs.length { bytes := bs.length, write := true }) with
      | 0 => (land s o.vc f va bs).map fun s1 => (s1, 0)
      | kind => some (s, kind)

/-- A get response at its source (R243). -/
def doGetResponse (s : State) (f : Flit) : Delivery :=
  match opAt s f.tag with
  | none => .done s
  | some o =>
    if !o.left.any fun p => p.1 == f.off.toNat then .done s
    else
      let bs := usedBytes f
      if o.kind == .pull then
        match landPull s o f bs with
        | none => .refused
        | some r => .done (endPiece r.1 f.tag f.off.toNat r.2 [] false)
      else .done (endPiece (if o.kind == .get then receivedBytes s o.vc bs.length else s) f.tag f.off.toNat 0 bs false)

/-- A pool response at its source (R250). -/
def doPoolResponse (s : State) (f : Flit) : State :=
  endPiece (modOp (sentThere s f 8) f.tag fun o => { o with eq := recField f.payload 0 1 != 0 }) f.tag f.off.toNat 0 [] false

/-- A completion at its source (R244). That of a span-window atomic brings the old value (R136); a failure of lanes that act as one
is a failure of all. -/
def doCompletion (s : State) (f : Flit) : State :=
  let kind := recField f.payload 0 1
  let old : List Byte := match opAt s f.tag with
    | some o => if o.kind == .spanAtomic && kind == 0 then (f.payload.drop 2).take o.total else []
    | none => []
  let piece := answeredPiece s f
  if kind != 0 && kind != 4 then failPiece s f.tag piece kind
  else endPiece (if kind == 0 then sentThere s f (recField f.payload 1 1) else s) f.tag piece kind old false

/-- A relayed flit as the trestle buffer holds it, until the next slot in which a port meets its target (R230). -/
def relayHeld (s : State) (f : Flit) (came : Option (Nat × Nat)) : Held :=
  { flit := f, slot := some ((firstMeeting s.order s.pkg f.dpkg.toNat (s.slot + 1)).getD (s.slot + 1)), verified := false, came := came }

/-- Flits taken back: this package's own to the heads of their queues, relayed ones into the trestle buffer (R230, R233, R235). -/
def takeBack (s : State) (xs : List Sent) : State :=
  { s with
    egress := ((xs.filter fun x => x.item.came.isNone).map fun x => x.item) ++ s.egress
    trestle := s.trestle ++ (xs.filter fun x => x.item.came.isSome).map fun x => relayHeld s x.item.flit x.item.came
    sent := s.sent.filter fun x => !xs.contains x }

/-- Flits to be sent again; acknowledgements are not (R233, R234). -/
def requeue (s : State) (xs : List Sent) : State :=
  { takeBack s (xs.filter fun x => x.item.flit.op != opAck) with sent := s.sent.filter fun x => !xs.contains x }

/-- What an acknowledgement names: port, slot, and how many flits were accepted. -/
def ackBytes (port slot count : Nat) : List Byte := toLeBytes 1 port ++ toLeBytes 8 slot ++ toLeBytes 4 count

/-- An acknowledgement (R233): accepted flits are done, the others go back. -/
def doAck (s : State) (f : Flit) : State :=
  let port := recField f.payload 0 1
  let slot := recField f.payload 1 8
  let n := recField f.payload 9 4
  let mine (x : Sent) : Bool := x.port == port && x.slot == slot
  let s1 := { s with sent := s.sent.filter fun x => !(mine x && decide (x.seq < n)) }
  requeue s1 (s1.sent.filter mine)

/-! ## Delivery -/

/-- The effect of an opened flit by its operation. -/
def act (s : State) (f : Flit) : Delivery :=
  if f.op == opWrite then doWrite s f
  else if f.op == opGet then doGet s f
  else if f.op == opAtomic then doAtomic s f
  else if f.op == opPool then doPool s f
  else if f.op == opGetResponse then doGetResponse s f
  else if f.op == opAtomicResponse then .done (endPiece (sentThere s f 8) f.tag f.off.toNat 0 (usedBytes f) false)
  else if f.op == opPoolResponse then .done (doPoolResponse s f)
  else if f.op == opCompletion then .done (doCompletion s f)
  else if f.op == opHint then .done (doHint s f)
  else .done s

/-- A flit that has been opened, performed once (R234). -/
def perform (s : State) (f : Flit) : Delivery :=
  if f.op == opAck then .done (doAck s f)
  else if performed s f then .done s
  else
    match act s f with
    | .done s1 => .done (notePerformed s1 f)
    | d => d

/-- Flits of the trestle buffer: relayed ones until they are acknowledged, and those of runs that no tag has verified yet (R230, R233,
R268). A piece that waits for its transfer or its line has been verified and stands in no buffer that the spec bounds (log 13). -/
def trestleUsed (s : State) : Nat := (s.trestle.countP fun h => !h.verified) + s.sent.countP fun x => x.item.came.isSome

/-- Room in the trestle buffer (R9, R230). -/
def trestleRoom (s : State) : Bool := decide (trestleUsed s < Config.trestleFlits)

/-- A flit that cannot be performed fails its piece with KIND 3: at its source, if it is a reply, else by a completion (R257). -/
def failFlit (s : State) (f : Flit) : State :=
  if isReply f.op then endPiece s f.tag (answeredPiece s f) 3 [] true
  else if f.op == opHint || f.tg then s
  else complete s f 3

/-- A completion that tells of a failure may come unsealed, since its sender may have no key (R257, R267; log 13). -/
def unsealedFailure (f : Flit) : Bool := !f.sealed && f.op == opCompletion && recField f.payload 0 1 != 0

/-- A delivery that settles nothing more: a held flit waits, a refused one changes nothing. -/
def settle (s : State) (f : Flit) : Delivery → State
  | .done s1 => s1
  | .held =>
    { s with trestle := (s.trestle.filter fun h => !(h.verified && samePiece h.flit f)) ++ [{ flit := f, slot := none, verified := true, came := none }] }
  | .refused => s
  | .failed s1 => s1

/-! ## Sealed runs (R268) -/

/-- The link key of a pair of VCNs from the group key (R266, R267). -/
def pairKey (k : BitVec 512) (a b : Nat) : List Byte := subKey k "Eberi link" (min a b * 1024 + max a b)

/-- The key of a flit for a pool node of this package: that of the node and the flit's source, from the group key of a virtual chip here
whose guest names both (log 13). -/
def nodeKey (s : State) (f : Flit) : Option (List Byte) :=
  (mapFrom (fun v c => (v, c)) 0 s.vchips).findSome? fun p =>
    if !p.2.used then none
    else
      match p.2.groupKey, sourceVcn s p.1 f, sourceVcn s p.1 { f with spkg := f.dpkg, sslot := f.dslot } with
      | some k, some a, some b => some (pairKey k a b)
      | _, _, _ => none

/-- The key that opens a flit at its target, if its source is one that the target may hear (R257, R267). -/
def openingKey (s : State) (f : Flit) : Option (List Byte) :=
  match targetChip s f with
  | some v => (sourceVcn s v f).bind (arrivalKey s v)
  | none => if forPool f then nodeKey s f else none

/-- Whether a flit that is held waits for the tag of its run, and is one of an operation's in one direction. -/
def awaits (f : Flit) (h : Held) : Bool :=
  !h.verified && h.slot.isNone && h.flit.spkg == f.spkg && h.flit.sslot == f.sslot && h.flit.tag == f.tag && h.flit.dslot == f.dslot

/-- The flits held of the run that a tag flit covers, in its order; some may be still to come (R231, R268). -/
def runOf (s : State) (f : Flit) (r : TagRun) : List Held :=
  r.offs.filterMap fun o => s.trestle.find? fun h => awaits f h && !h.flit.tg && isReply h.flit.op == r.replies && h.flit.off == o

/-- A run taken out of the trestle buffer. -/
def dropRun (s : State) (run : List Held) : State := { s with trestle := s.trestle.filter fun h => !run.contains h }

/-- The flits of a verified run opened and performed in order; none if one of them is refused. -/
def performRun (k : List Byte) : List Flit → State → Option State
  | [], s => some s
  | f :: fs, s =>
    let g := { crypt k f with sealed := false, opened := some k }
    match perform s g with
    | .refused => none
    | d => performRun k fs (settle s g d)

/-- The slot that brought a held flit has not been acknowledged, so that the flit can count as damaged and be sent again. -/
def unacknowledged (s : State) (h : Held) : Bool := s.accepted.any fun a => h.came == some (a.port, a.slot)

/-- A failed run: from its first flit on, each port's flits of a slot that is not acknowledged yet count as not accepted, so that they are
sent again; what has been acknowledged stays (R233, R268; log 13). -/
def failRun (s : State) (run : List Held) : State :=
  { dropRun s (run.filter (unacknowledged s)) with
    accepted := s.accepted.map fun a =>
      let mine := run.filter fun h => h.came == some (a.port, a.slot)
      if mine.isEmpty then a else { a with next := mine.foldl (fun n h => min n h.flit.seq) a.next, broken := true } }

/-- A tag flit tried on its run (R268): none while a flit of the run is still to come. The run is performed, all of it, if the tag
verifies. The second part is false for a run that fails, or of which a flit is refused. -/
def tryTag (s : State) (k : List Byte) (f : Flit) : Option (State × Bool) :=
  match f.run with
  | none => some (s, false)
  | some r =>
    let run := runOf s f r
    if run.length != r.offs.length then none
    else if (runTag k (run.map fun h => h.flit)).take 16 != f.payload.take 16 then some (failRun s run, false)
    else
      match performRun k (run.map fun h => h.flit) (dropRun s run) with
      | some s1 => some (noteTag s1 f, true)
      | none => some (failRun s run, false)

/-- A flit put in the trestle buffer until its run is whole and verified, in place of an earlier copy; none while there is no room. -/
def holdFlit (s : State) (came : Option (Nat × Nat)) (f : Flit) : Option State :=
  let s1 := { s with trestle := s.trestle.filter fun h => !(awaits f h && samePiece h.flit f && h.flit.run == f.run) }
  if trestleRoom s1 then some { s1 with trestle := s1.trestle ++ [{ flit := f, slot := none, verified := false, came := came }] } else none

/-- The tag flit held for the run of a flit. -/
def heldTag (s : State) (f : Flit) : Option Held :=
  s.trestle.find? fun h => awaits f h && match h.flit.run with
    | some r => r.replies == isReply f.op && r.offs.contains f.off
    | none => false

/-- A sealed flit held until the tag of its run verifies (R268), unless it has been performed, or verified, before (R234). Where its tag
has come before it, the run is tried. -/
def holdSealed (s : State) (came : Option (Nat × Nat)) (f : Flit) : Delivery :=
  if performed s f || s.trestle.any (fun h => h.verified && samePiece h.flit f) then .done s
  else
    match holdFlit s came f with
    | none => .refused
    | some s1 =>
      match heldTag s1 f with
      | none => .done s1
      | some h =>
        match (openingKey s1 h.flit).bind fun k => tryTag (dropRun s1 [h]) k h.flit with
        | none => .done s1
        | some (s2, true) => .done s2
        | some (s2, false) => .failed { s2 with trestle := s2.trestle ++ [h] }

/-- A tag flit (R268). One whose run is not all there yet is held, since flits of one operation arrive in any order (R231); one that has
verified its run before is accepted again (R234). The second part is false where its run counts as damaged. -/
def doTag (s : State) (came : Nat × Nat) (f : Flit) : State × Bool :=
  match openingKey s f with
  | none => (s, true)
  | some k =>
    if tagVerified s f then (s, true)
    else
      match tryTag s k f with
      | some x => x
      | none =>
        match holdFlit s (some came) f with
        | some s1 => (s1, true)
        | none => (s, false)

/-! ## Delivery of what has come -/

/-- The checks of R257, then the flit's effect, or its holding until the tag of its run verifies (R268). -/
def deliver (s : State) (came : Option (Nat × Nat)) (f : Flit) : Delivery :=
  let looped : Bool := f.spkg.toNat == s.pkg
  if f.op == opAck then perform s f
  else
    match targetChip s f with
    | none =>
      if !forPool f then .done (failFlit s f)
      else if looped then perform s f
      else if !f.sealed || (nodeKey s f).isNone then .done (failFlit s f)
      else holdSealed s came f
    | some v =>
      match sourceVcn s v f with
      | none => .done (failFlit (if isReply f.op then s else event s v 9 [(9, 1), (10, f.spkg.toNat)]) f)
      | some n =>
        if forPool f then .done (failFlit s f)
        else if looped || unsealedFailure f then perform s f
        else if !f.sealed || (arrivalKey s v n).isNone then .done (failFlit s f)
        else holdSealed s came f

/-- Verified flits that wait are tried again (R36, R150, R171). -/
def retryHeld (s : State) : State :=
  (s.trestle.filter fun h => h.verified).foldl (fun s h =>
    if !s.trestle.contains h then s else
    let s0 := { s with trestle := s.trestle.filter fun x => x != h }
    match perform s0 h.flit with
    | .refused => s
    | d => settle s0 h.flit d) s

end Sys2Proof.Machine
end

