-- ==== Sys2Proof/Machine/Image.lean ====
section
/-!
DEFINITION. Save images and trap windows: their layout, how they are written and read back (R67, R200, R224, R252, R285,
R287), and where they are placed.
-/

namespace Sys2Proof.Machine

/-! ## Bytes -/

/-- Zero bytes up to n. -/
def padTo (n : Nat) (bs : List Byte) : List Byte := bs ++ List.replicate (n - bs.length) 0

/-- Zero bytes up to a multiple of 128. -/
def pad128 (bs : List Byte) : List Byte := bs ++ List.replicate ((128 - bs.length % 128) % 128) 0

def up128 (n : Nat) : Nat := (n + 127) / 128 * 128

def byteOf (n : Nat) : List Byte := toLeBytes 1 n

/-- A number with the given bits set. -/
def bitsOf (bs : List Bool) : Nat := (mapFrom (fun i b => if b then 2 ^ i else 0) 0 bs).foldl (fun a b => a + b) 0

/-! ## Layout (R287) -/

/-- Offsets of an image's sections, and its length without a tag. -/
structure Layout where
  gsize : Nat
  loff : Nat
  boff : Nat
  eoff : Nat
  poff : Nat
  len : Nat
  deriving DecidableEq, Repr

/-- Engines that a team holds, core A first, as package cores. -/
def heldCores (t : Team) : List Nat := (if t.holdsA then [t.coreA] else []) ++ (if t.holdsB then t.coreB.toList else [])

/-- Endpoints bound to a team: endpoint, base and size. -/
def teamBindings (s : State) (n : Nat) (t : Team) : List (Nat × Nat × Nat) :=
  (vchip s t.vc).endpoints.filterMap fun e =>
    match e.2 with
    | .team m _ b z => if m == n then some (e.1, b, z) else none
    | .queue _ _ _ => none

/-- Bytes of a group section (R287). -/
def groupBytes (width vregs : Nat) : Nat := up128 (0x740 + width * 80 + vregs * width * 4)

def layoutOf (s : State) (n : Nat) (t : Team) : Layout :=
  let k := t.kernel
  let gsize := groupBytes k.width k.vregs
  let loff := 0x100 + k.ngroup * gsize
  let boff := loff + up128 (t.alloc + t.alloc / 32)
  let engines := (heldCores t).length
  let poff := boff + 384 + engines * 0x44000
  { gsize := gsize, loff := loff, boff := boff, eoff := if engines == 0 then 0 else boff + 384, poff := poff,
    len := poff + up128 (8 + 640 + 24 * (teamBindings s n t).length) }

/-! ## Writing -/

def stateCode : LaneState → Nat
  | .running => 0
  | .parked => 1
  | .held => 2
  | .drained => 3
  | .exited => 4

def stateOfCode : Nat → LaneState
  | 0 => .running
  | 1 => .parked
  | 2 => .held
  | 3 => .drained
  | _ => .exited

def roleByte : Role → Nat
  | .general => 0
  | .copy => 1
  | .matrix => 2
  | .vector => 3

/-- Whether a lane's loop buffer holds the instruction at its PC (R45, R67). -/
def loopHolds (l : Lane) : Bool :=
  match l.loop.find? fun e => e.1 == l.pc with
  | none => false
  | some u => !u.2.getLsbD 0 || l.loop.any fun e => e.1 == l.pc + 2

/-- A thread record, with the exceptions of its lane if its group took an arithmetic fault (R115). A sleep ends with a save or a
halt (R455). -/
def laneRecord (exc : List (BitVec 5)) (i : Nat) (l : Lane) : List Byte :=
  toLeBytes 8 l.pc.toNat ++ toLeBytes 8 l.stack.toNat ++ toLeBytes 8 l.c.toNat
    ++ (l.rs.toList.map fun r => toLeBytes 8 r.toNat).flatten ++ toLeBytes 4 l.item.toNat ++ toLeBytes 4 l.gen.toNat
    ++ byteOf (stateCode l.st + (if loopHolds l then 8 else 0) + l.d % 8 * 16) ++ byteOf l.p.toNat ++ byteOf ((exc[i]?).getD 0).toNat
    ++ byteOf l.ppois.toNat ++ toLeBytes 4 0 ++ toLeBytes 8 l.vpois.toNat

/-- Whether a copy's slice has not started. -/
def sliceWaits (s : State) (n : Nat) (g : Group) (e : CopyEntry) : Bool :=
  (coreAt s g.core).jobs.any fun j => j.team == g.team && j.group == n && j.number == e.number && !j.started

/-- A copy entry of an image. -/
def copyRecord (s : State) (n : Nat) (g : Group) (e : CopyEntry) : List Byte :=
  padTo 64 (e.record.take 64) ++ toLeBytes 8 e.sb.toNat ++ byteOf e.st.toNat ++ byteOf e.fn.toNat
    ++ byteOf (if sliceWaits s n g e then 2 else if e.sealed then 1 else 0) ++ byteOf 0 ++ toLeBytes 4 e.batch.toNat

/-- Registers pending as tokens; one named by an unsealed copy is not (R194). -/
def pendingMask (g : Group) : Nat :=
  (g.tokens.filter fun e => e.2 != .unsealed).foldl (fun m e => m ||| 2 ^ e.1.toNat) 0

/-- The section of a group. -/
def groupSection (s : State) (n : Nat) (g : Group) : List Byte :=
  let f := g.fault.getD { cause := 0, lanes := 0, addr := 0, pc := 0, underflow := false, exc := [] }
  padTo (groupBytes g.width g.vregs)
    (byteOf g.num ++ byteOf (roleByte g.role) ++ byteOf (nextPrio g).toNat ++ byteOf (Nat.min g.skid 16)
      ++ byteOf (bitsOf [g.fault.isSome, g.retired, g.didJ, g.didX]) ++ byteOf g.rcount.toNat ++ byteOf f.cause.toNat ++ byteOf 0
      ++ toLeBytes 2 g.fpctl.toNat ++ byteOf g.fpflags.toNat ++ byteOf g.mflags.toNat ++ toLeBytes 4 g.batch.toNat
      ++ toLeBytes 8 g.stacklim.toNat ++ toLeBytes 8 g.spois.toNat ++ toLeBytes 8 (pendingMask g)
      ++ byteOf g.copies.length ++ toLeBytes 3 0 ++ toLeBytes 4 g.cpys.toNat
      ++ toLeBytes 8 f.lanes.toNat ++ toLeBytes 8 f.addr.toNat
      ++ (g.s.toList.map fun r => toLeBytes 8 r.toNat).flatten
      ++ padTo 1280 ((g.copies.map (copyRecord s n g)).flatten)
      ++ (mapFrom (laneRecord f.exc) 0 g.lanes).flatten
      ++ ((List.range g.vregs).map fun r =>
            (g.lanes.map fun l => toLeBytes 4 (readV l (BitVec.ofNat 6 r)).toNat).flatten).flatten)

/-- The metadata word of a scratchpad line: poison, F, RC and SEQ as a reader finds them (R158, R287). -/
def lineWord (s : State) (k : Nat) : Nat :=
  let l := lineSeen s k
  let p := bitsOf ((List.range 16).map fun i => l.err || poisonedAt s (k + 8 * i) 8)
  p + (if l.f then 2 ^ 16 else 0) + l.rc.toNat * 2 ^ 17 + l.seq.toNat * 2 ^ 23

/-- The scratchpad section. -/
def scratchSection (s : State) (t : Team) : List Byte :=
  let ks := (List.range (t.alloc / 128)).map fun i => teamKey t (i * 128)
  pad128 ((ks.map fun k => readN s k 128).flatten ++ (ks.map fun k => toLeBytes 4 (lineWord s k)).flatten)

/-- An entry of the barrier section. -/
def barrierEntry (e a p extra arr wd : Nat) : List Byte :=
  byteOf e ++ byteOf a ++ byteOf p ++ byteOf extra ++ toLeBytes 4 arr ++ toLeBytes 4 wd ++ toLeBytes 4 0

/-- The barrier section, with the entry for `SPANB`. -/
def barrierSection (s : State) (n : Nat) (t : Team) : List Byte :=
  let gs := liveGroups s n
  let arr := gs.foldl (fun m p => if p.2.didB then m + 2 ^ p.2.num else m) 0
  let sp := t.span.bind fun k => s.spans[k]?
  let phase := (sp.map fun x => x.phase).getD false
  let here := ((sp.bind fun x => x.arrived[t.rank]?).getD false)
  padTo 384
    (((List.range 16).map fun b =>
        match t.barriers[b]? with
        | some x => barrierEntry x.e x.a (if x.p then 1 else 0) 0 x.arr.toNat x.wd.toNat
        | none => List.replicate 16 0).flatten
      ++ barrierEntry gs.length (gs.countP fun p => p.2.didB) (if phase then 1 else 0) (if here then 1 else 0) arr 0)

/-- Four bytes, one for each of at most four things. -/
def fourBytes (xs : List Nat) : List Byte := padTo 4 ((xs.take 4).map fun n => BitVec.ofNat 8 n)

/-- Group number of a group of the machine. -/
def groupNum (s : State) (n : Nat) : Nat := ((s.groups[n]?).map fun g => g.num).getD 0

/-- The engine block of a core. -/
def engineSection (s : State) (core : Nat) : List Byte :=
  let e := (coreAt s core).engine
  let l := e.latch
  let control :=
    byteOf e.head ++ byteOf e.tail ++ byteOf (if e.opened then 1 else 0) ++ byteOf e.closed ++ toLeBytes 2 e.freed.toNat
      ++ byteOf (bitsOf [l.isSome, (l.map fun x => x.bw).getD false, (l.map fun x => x.bf).getD false])
      ++ byteOf e.queue.length ++ byteOf e.claims.length ++ byteOf (if e.err != 0 then 1 else 0) ++ byteOf e.err ++ byteOf 0
      ++ fourBytes (e.queue.map fun j => groupNum s j.group) ++ fourBytes (e.claims.map fun c => groupNum s c.group)
      ++ fourBytes (e.claims.map fun c => if c.epi then 0 else 1)
  let pair (c : Claim) : List Byte :=
    padTo 1024 (padTo 512 ((c.scl.map fun w => toLeBytes 4 w.toNat).flatten) ++ (c.bias.map fun w => toLeBytes 4 w.toNat).flatten)
  padTo 0x400
      (padTo 0x240 (padTo 0x140 (padTo 0x40 control ++ ((e.queue.take 4).map fun j => padTo 64 j.block).flatten)
          ++ ((e.claims.take 4).map fun c => padTo 64 c.block).flatten)
        ++ (l.map fun x => x.scales).getD [])
    ++ padTo 0x1000 (((e.claims.take 4).map pair).flatten)
    ++ padTo 0x2C00 ((l.map fun x => x.planes).getD [])
    ++ readN s (ringKey core 0) 0x40000

/-- The pod section. -/
def podSection (s : State) (n : Nat) (t : Team) : List Byte :=
  let bs := teamBindings s n t
  let counter (j : Nat) : List Byte :=
    match t.counters[j]? with
    | some c => byteOf (if c.armed then 1 else 0) ++ toLeBytes 7 0 ++ toLeBytes 8 (if c.armed then 0xFF00000000000000 + c.word else 0) ++ toLeBytes 8 c.base.toNat
        ++ toLeBytes 8 c.len ++ toLeBytes 8 c.target
    | none => List.replicate 40 0
  pad128 (toLeBytes 8 bs.length ++ ((List.range 16).map counter).flatten
    ++ (bs.map fun b => byteOf b.1 ++ byteOf 0 ++ toLeBytes 6 0 ++ toLeBytes 8 b.2.1 ++ toLeBytes 8 b.2.2).flatten)

/-- Member state as SPANST gives it. -/
def spanStCode (s : State) (t : Team) : Nat :=
  match (t.span.bind fun k => s.spans[k]?).bind fun sp => sp.members[t.rank]? with
  | some .joining => 0
  | some .attached => 1
  | some _ => 2
  | none => 0

/-- The team's coordinates, 12 bytes. -/
def teamCoords (t : Team) : List Byte := toLeBytes 4 t.x.toNat ++ toLeBytes 4 t.y.toNat ++ toLeBytes 4 t.z.toNat

/-- The header of an image. -/
def imageHeader (s : State) (n : Nat) (t : Team) (window : Bool) (ctr : Nat) (record : List Byte) : List Byte :=
  let l := layoutOf s n t
  let flags := bitsOf [t.protKey.isSome, window, isHalted t, t.span.isSome, t.kernel.pier, t.holdsA, t.holdsB]
  let id := ((t.span.bind fun k => s.spans[k]?).map fun sp => sp.id.toNat).getD 0
  padTo 256
    (asciiBytes "AQSV" ++ toLeBytes 2 1 ++ toLeBytes 2 flags ++ toLeBytes 8 ctr ++ toLeBytes 8 t.launch.toNat
      ++ toLeBytes 8 t.incarn.toNat ++ teamCoords t ++ byteOf (t.vc % 16 + (vchip s t.vc).guest % 16 * 16)
      ++ byteOf ((t.protKey.map fun k => k.toNat + 128).getD 0)
      ++ byteOf ((t.protKey.map fun k => slotVersion s k.toNat).getD 0) ++ byteOf t.kernel.ngroup ++ byteOf t.kernel.width
      ++ byteOf t.kernel.vregs ++ byteOf t.kernel.nb ++ byteOf t.rank ++ toLeBytes 4 t.alloc ++ toLeBytes 4 t.next
      ++ toLeBytes 4 (spanStCode s t) ++ toLeBytes 8 id ++ toLeBytes 8 l.len ++ toLeBytes 8 0x100 ++ toLeBytes 8 l.gsize
      ++ toLeBytes 8 l.loff ++ toLeBytes 8 l.boff ++ toLeBytes 8 l.eoff ++ toLeBytes 8 l.poff ++ record)

/-- A whole image, unsealed. -/
def imageBytes (s : State) (n : Nat) (t : Team) (window : Bool) (ctr : Nat) (record : List Byte) : List Byte :=
  imageHeader s n t window ctr record
    ++ ((teamGroups s n).map fun p => groupSection s p.1 p.2).flatten
    ++ scratchSection s t ++ barrierSection s n t ++ ((heldCores t).map (engineSection s)).flatten ++ podSection s n t

/-! ## Sealing (R266, R289) -/

/-- The save key of a slot, if it is usable by a virtual chip. -/
def saveKey (s : State) (v slot : Nat) : Option (List Byte) :=
  if slotUsable s v slot then some (subKey (contextKey s slot) "Eberi save" (slotVersion s slot)) else none

/-- The initial vector: SAVECTR, KVER, three zero bytes. -/
def saveIv (header : List Byte) : List Byte := (header.drop 8).take 8 ++ (header.drop 0x2E).take 1 ++ [0, 0, 0]

/-- An image sealed: the header in the clear, ciphertext, and the tag. -/
def sealImage (k : List Byte) (bs : List Byte) : List Byte :=
  let h := bs.take 256
  let ct := gcmCrypt k (saveIv h) (bs.drop 256)
  h ++ ct ++ gcmTag k (saveIv h) h ct

/-- A sealed image opened, if its tag verifies. -/
def openImage (k : List Byte) (bs tag : List Byte) : Option (List Byte) :=
  let h := bs.take 256
  let ct := bs.drop 256
  if gcmTag k (saveIv h) h ct == tag then some (h ++ gcmCrypt k (saveIv h) ct) else none

/-! ## Reading back -/

/-- A lane from its record: what a window may change, and for an image the rest as well (R285, R290). -/
def restoreLane (window : Bool) (b : List Byte) (regs : List Word) (l : Lane) : Lane :=
  let k := recField b 0x40 1
  let l1 : Lane :=
    { l with
      pc := BitVec.ofNat 64 (recField b 0 8)
      stack := BitVec.ofNat 64 (recField b 8 8)
      c := BitVec.ofNat 64 (recField b 0x10 8)
      rs := Vector.ofFn fun i => BitVec.ofNat 64 (recField b (0x18 + 8 * i.val) 8)
      d := Nat.min (k / 16 % 8) 4
      p := BitVec.ofNat 7 (recField b 0x41 1)
      ppois := BitVec.ofNat 7 (recField b 0x43 1)
      vpois := BitVec.ofNat 64 (recField b 0x48 8)
      v := Vector.ofFn fun i => (regs[i.val]?).getD 0
      loop := []
      waits := 0
      boosted := false
      wake := none }
  if window then l1
  else
    { l1 with item := BitVec.ofNat 32 (recField b 0x38 4), gen := BitVec.ofNat 32 (recField b 0x3C 4), st := stateOfCode (k % 8) }

/-- A copy entry of an image. -/
def restoreCopy (b : List Byte) (number : Nat) (old : List CopyEntry) : CopyEntry :=
  let st := recField b 74 1
  let n : BitVec 32 := BitVec.ofNat 32 number
  { number := n, record := b.take 64, sb := BitVec.ofNat 64 (recField b 64 8), st := BitVec.ofNat 6 (recField b 72 1),
    fn := BitVec.ofNat 2 (recField b 73 1), sealed := recField b 76 4 != 0, batch := BitVec.ofNat 32 (recField b 76 4),
    done := st != 2 && ((old.find? fun e => e.number == n).map fun e => e.done).getD true }

/-- A group from its section. A register that a handler has given a fresh value holds no error token. -/
def restoreGroup (window : Bool) (b : List Byte) (g : Group) : Group :=
  let at_ (off n : Nat) : Nat := recField b off n
  let ss : Vector DWord 64 := Vector.ofFn fun i => if i.val = 0 then 0 else BitVec.ofNat 64 (at_ (0x40 + 8 * i.val) 8)
  let changed : BitVec 64 := (List.range 64).foldl (fun m i => if ss[i]? == g.s[i]? then m else m ||| bit64 i) 0
  let lanes := mapFrom (fun i l =>
    restoreLane window ((b.drop (0x740 + 80 * i)).take 80)
      ((List.range g.vregs).map fun r => BitVec.ofNat 32 (at_ (0x740 + 80 * g.width + (r * g.width + i) * 4) 4)) l) 0 g.lanes
  let g1 : Group :=
    { g with
      prio := BitVec.ofNat 5 (Nat.min (at_ 2 1) 31)
      prioNext := none
      rcount := BitVec.ofNat 6 (at_ 5 1)
      fpctl := BitVec.ofNat 13 (at_ 8 2) &&& 0x1F0F#13
      fpflags := BitVec.ofNat 5 (at_ 0xA 1)
      mflags := BitVec.ofNat 3 (at_ 0xB 1)
      stacklim := BitVec.ofNat 64 (at_ 0x10 8)
      spois := BitVec.ofNat 64 (at_ 0x18 8) &&& ~~~1#64
      s := ss
      errTok := g.errTok &&& ~~~changed
      lanes := lanes
      loops := []
      fused := []
      yielded := 0
      look := []
      fills := []
      skid := at_ 3 1 % 17
      stall := .issued }
  if window then g1
  else
    let flags := at_ 4 1
    let n := Nat.min (at_ 0x28 1) 16
    let count := at_ 0x2C 4
    let pend := BitVec.ofNat 64 (at_ 0x20 8)
    { g1 with
      retired := flags / 2 % 2 == 1
      didJ := flags / 4 % 2 == 1
      didX := flags / 8 % 2 == 1
      batch := BitVec.ofNat 32 (at_ 0xC 4)
      cpys := BitVec.ofNat 32 count
      copies := (List.range n).map fun j => restoreCopy ((b.drop (0x240 + 80 * j)).take 80) (count + 2 ^ 32 - n + j) g.copies
      tokens := g.tokens.filter fun e => e.2 == .unsealed || pend.getLsbD e.1.toNat }

/-- A scratchpad line from its data and metadata word. -/
def restoreLine (data : List Byte) (w : Nat) (s : State) (k : Nat) : State :=
  let s1 := setLine (writeN s k data) k
    { f := w / 2 ^ 16 % 2 == 1, rc := BitVec.ofNat 6 (w / 2 ^ 17), seq := BitVec.ofNat 4 (w / 2 ^ 23), err := false }
  (List.range 16).foldl (fun s i => if w / 2 ^ i % 2 == 1 then poisonUnit s (k + 8 * i) else s) s1

/-- The allocation from the scratchpad section. -/
def restoreScratch (t : Team) (b : List Byte) (s : State) : State :=
  (List.range (t.alloc / 128)).foldl (fun s i =>
    restoreLine ((b.drop (128 * i)).take 128) (recField b (t.alloc + 4 * i) 4) s (teamKey t (i * 128))) s

/-- Barriers from the barrier section. -/
def restoreBarriers (b : List Byte) (xs : List Barrier) : List Barrier :=
  mapFrom (fun i _ =>
    { e := recField b (16 * i) 1 % 64, a := recField b (16 * i + 1) 1 % 64, p := recField b (16 * i + 2) 1 % 2 == 1,
      arr := BitVec.ofNat 32 (recField b (16 * i + 4) 4), wd := BitVec.ofNat 32 (recField b (16 * i + 8) 4) }) 0 xs

/-- The group of a team with a number. -/
def groupOfNum (s : State) (n num : Nat) : Nat := (((teamGroups s n).find? fun p => p.2.num == num).map fun p => p.1).getD s.groups.length

/-- Words of a vector of 128. -/
def words128 (b : List Byte) : List Word := (List.range 128).map fun i => BitVec.ofNat 32 (recField b (4 * i) 4)

/-- A pending multiply from an image: in index mode it keeps the rows that it had gathered (R207, R224); one that the image did not
hold when it was saved gathers anew. -/
def restoreMma (kept : List MmaJob) (i group : Nat) (block : List Byte) : MmaJob :=
  match kept[i]? with
  | some j => if j.group == group && j.block == block then j else { group := group, block := block, gather := none, poisoned := none }
  | none => { group := group, block := block, gather := none, poisoned := none }

/-- An engine from its block (R224). -/
def restoreEngine (s : State) (n : Nat) (kept : List MmaJob) (b : List Byte) : Engine :=
  let flags := recField b 6 1
  let queue := Nat.min (recField b 7 1) 4
  let claims := Nat.min (recField b 8 1) 4
  let bw := flags / 2 % 2 == 1
  let bf := flags / 4 % 2 == 1
  { holder := some n, head := recField b 0 1 % 4, tail := recField b 1 1 % 4, opened := recField b 2 1 % 2 == 1,
    closed := Nat.min (recField b 3 1) 4, freed := BitVec.ofNat 16 (recField b 4 2)
    latch := if flags % 2 == 1 then
        some { planes := (b.drop 0x1400).take ((if bw then 4 else 8) * 1024), scales := if bf then (b.drop 0x240).take 256 else [], bw := bw, bf := bf }
      else none
    queue := (List.range queue).map fun i =>
      restoreMma kept i (groupOfNum s n (recField b (0xC + i) 1)) ((b.drop (0x40 + 64 * i)).take 64)
    running := none
    claims := (List.range claims).map fun i =>
      { group := groupOfNum s n (recField b (0x10 + i) 1), epi := recField b (0x14 + i) 1 == 0,
        block := if recField b (0x14 + i) 1 == 0 then (b.drop (0x140 + 64 * i)).take 64 else [],
        scl := if recField b (0x14 + i) 1 == 0 then words128 (b.drop (0x400 + 1024 * i)) else [],
        bias := if recField b (0x14 + i) 1 == 0 then words128 (b.drop (0x600 + 1024 * i)) else [] }
    jobRunning := false, err := recField b 0xA 1 }

/-- Counters from the pod section. -/
def restoreCounters (b : List Byte) : List Arrival :=
  (List.range 16).map fun j =>
    { armed := recField b (8 + 40 * j) 1 != 0, word := recField b (16 + 40 * j) 3, base := BitVec.ofNat 64 (recField b (24 + 40 * j) 8),
      len := recField b (32 + 40 * j) 8, target := recField b (40 + 40 * j) 8 }

/-- Only the image's bindings that are still the team's own stand (R252). -/
def restoreBindings (n : Nat) (b : List Byte) (xs : Table Binding) : Table Binding :=
  let es := (List.range (recField b 0 8)).map fun i => recField b (648 + 24 * i) 1
  xs.filter fun x => match x.2 with
    | .team m _ _ _ => m != n || es.contains x.1
    | .queue _ _ _ => true

/-- A group of an idle `BAR` goes on if its arrival is no longer counted (R353). -/
def settleWait (t : Team) (g : Group) : Group :=
  match g.wait with
  | .arrived b _ => if ((t.barriers[b]?).map fun x => x.arr.getLsbD g.num).getD false then g else releaseGroup b g
  | .phase _ _ => { g with wait := .none }
  | _ => g

/-- A halt ends every sleep, and every wait before an instruction that has not issued (R277, R455). -/
def haltGroup (g : Group) : Group :=
  { g with
    lanes := g.lanes.map fun l => { l with wake := none }
    stall := .trapHalt
    wait := match g.wait with
      | .phase _ _ => .none
      | w => w }

/-- A group of a restored team: that of a halted team stays stopped, with its skid; any other goes on, from what it waits for
(R279, R285, R352, R457). -/
def settleRestored (t : Team) (g : Group) : Group :=
  let h := settleWait t g
  if isHalted t then haltGroup h else { h with skid := 0, stall := restStall h }

/-- A team's groups and scratchpad from its window or image. -/
def restoreBody (window : Bool) (n : Nat) (t : Team) (l : Layout) (b : List Byte) (s : State) : State :=
  let s1 := (teamGroups s n).foldl (fun s p =>
    modGroup s p.1 (restoreGroup window ((b.drop (0x100 + p.2.num * l.gsize)).take l.gsize))) s
  restoreScratch t (b.drop l.loff) s1

/-- Slices of a restored group that have not started go back to their core's copy engine (R199). -/
def requeueCopies (s : State) (n : Nat) : State :=
  match s.groups[n]? with
  | none => s
  | some g =>
    let job (e : CopyEntry) : CopyJob :=
      let h := shapeOf e.record
      { team := g.team, group := n, number := e.number, fn := e.fn, started := false, dm := h.dm, rc := BitVec.ofNat 6 h.rc,
        seq := if h.dm % 2 == 1 then BitVec.ofNat 4 (field e.sb 31 0) else 0, todo := [] }
    modCore s g.core fun c => { c with jobs := c.jobs ++ (g.copies.filter fun e => !e.done).map job }

/-- A team restored whole from an image on the cores it now occupies (R81, R200, R224, R252). -/
def restoreImage (n : Nat) (t : Team) (l : Layout) (b : List Byte) (s : State) : State :=
  let s1 := restoreBody false n t l b s
  let s2 := modTeam s1 n fun t =>
    { t with
      barriers := restoreBarriers (b.drop l.boff) t.barriers
      next := recField b 0x38 4
      counters := if t.counters.isEmpty then [] else restoreCounters (b.drop l.poff) }
  let s3 := modVc s2 t.vc fun c => { c with endpoints := restoreBindings n (b.drop l.poff) c.endpoints }
  let s4 := (mapFrom (fun i c => (i, c)) 0 (heldCores t)).foldl (fun s p =>
    let eb := b.drop (l.eoff + p.1 * 0x44000)
    modEngine (writeN s (ringKey p.2 0) ((eb.drop 0x4000).take 0x40000)) p.2 fun _ => restoreEngine s n ((t.mmas[p.1]?).getD []) eb) s3
  (teamGroups s4 n).foldl (fun s p => requeueCopies s p.1)
    (match s4.teams[n]? with
     | some t2 => { s4 with groups := s4.groups.map fun g => if g.team == n then settleRestored t2 g else g }
     | none => s4)

/-! ## Areas (R280, R287) -/

/-- Ranges of trap windows and of images of a virtual chip that are in use. -/
def windowsUsed (s : State) (v : Nat) : List (Nat × Nat) :=
  (s.teams.filter fun t => t.vc == v && t.status != .ended && t.windowBytes != 0).map fun t => (t.windowAddr.toNat, t.windowBytes)

def imagesUsed (s : State) (v : Nat) : List (Nat × Nat) :=
  (mapFrom (fun i t => (i, t)) 0 s.teams).filterMap fun p =>
    if p.2.vc == v && p.2.status != .ended then p.2.imageAddr.map fun a => (a.toNat, (layoutOf s p.1 p.2).len + 16) else none

/-- The lowest place, at a multiple of 128, for n bytes in an area that avoids the ranges in use (DESIGN CHOICE, log 2). -/
def firstFit (base size n : Nat) (used : List (Nat × Nat)) : Option Nat :=
  let starts := base :: (used.map fun u => up128 (u.1 + u.2))
  let ok (a : Nat) : Bool :=
    decide (base ≤ a) && decide (a + n ≤ base + size) && used.all fun u => decide (a + n ≤ u.1) || decide (u.1 + u.2 ≤ a)
  match starts.filter ok with
  | [] => none
  | a :: as => some (as.foldl Nat.min a)

/-- A place for a team's image in the context save area, if it can be made there: there is room, it can be written, and a
protected team's key is loaded (R287). -/
def imagePlace (s : State) (n : Nat) (t : Team) : Option Nat :=
  let c := vchip s t.vc
  let base := field c.csabase 47 12 * 4096
  let bytes := (layoutOf s n t).len + (if t.protKey.isSome then 16 else 0)
  if (t.protKey.map fun k => !slotUsable s t.vc k.toNat).getD false then none
  else
    match firstFit base (field c.csasize 40 12 * 4096) bytes (imagesUsed s t.vc) with
    | none => none
    | some a => if pagedCause s t.vc a bytes { bytes := bytes, write := true } == 0 then some a else none

/-- Whether every page of a range is protected under a key slot (R282). -/
def onProtected (s : State) (v a n slot : Nat) : Bool :=
  (linePieces (n + 1) a n).all fun p =>
    match translate s v (BitVec.ofNat 64 p.1) with
    | some l => leafPr l.entry && leafKey l.entry == slot
    | none => false

/-- A place for a team's trap window, if R282 gives it one. -/
def windowPlace (s : State) (n : Nat) (t : Team) : Option Nat :=
  let c := vchip s t.vc
  let bytes := (layoutOf s n t).len
  let area := match t.protKey with
    | none => firstFit (field c.twbase 47 12 * 4096) (field c.twsize 40 12 * 4096) bytes (windowsUsed s t.vc)
    | some _ => firstFit (field c.twpbase 47 12 * 4096) (field c.twpsize 40 12 * 4096) bytes (windowsUsed s t.vc)
  match area with
  | none => none
  | some a =>
    if pagedCause s t.vc a bytes { bytes := bytes, write := true } != 0 then none
    else
      match t.protKey with
      | none => some a
      | some k => if slotUsable s t.vc k.toNat && onProtected s t.vc a bytes k.toNat then some a else none

end Sys2Proof.Machine
end

