-- ==== Sys2Proof/Machine/Destroy.lean ====
section
/-!
DEFINITION. The end of a key slot's grant (R270) and of a virtual chip (R254).
-/

namespace Sys2Proof.Machine

/-- Addresses of the lines that stand in protected ways under a key slot. -/
def slotLines (s : State) (slot : Nat) : List Nat :=
  (s.l2.filter fun e => (e.2.prot.map fun k => k.toNat) == some slot).map fun e => e.1 * 128

/-- A key slot's grant ended: its key erased and its version advanced (R266, R270). -/
def endGrant (s : State) (slot : Nat) : State :=
  { s with keys := listMod (fun k => { granted := none, key := none, version := k.version + 1 }) slot s.keys }

/-- Action 1 (R270): dirty lines are sealed with the current version, clean ones dropped. -/
def revokeSeal (s : State) (slot : Nat) : State :=
  endGrant ((slotLines s slot).foldl leaveProt s) slot

/-- A protected line dropped with what it holds. -/
def discardLine (s : State) (pa : Nat) : State :=
  let base := pa / 128 * 128
  dropProt (setL2 (writeN s (key .counted base) (List.replicate 128 0)) pa { l2At s pa with counted := none, lowered := none }) pa

/-- Action 2 (R270): dirty lines are dropped, and memory keeps its older ciphertext. -/
def revokeDiscard (s : State) (slot : Nat) : State := endGrant ((slotLines s slot).foldl discardLine s) slot

/-- Key slots granted to a virtual chip. -/
def grantedSlots (s : State) (v : Nat) : List Nat :=
  (List.range s.keys.length).filter fun k => ((s.keys[k]?).bind fun x => x.granted) == some v

/-- The VCN whose entry names a virtual chip of this package (R267). -/
def namedVcn (s : State) (v : Nat) : Option Nat :=
  ((guestOf s v).vcns.find? fun e => vcnV e.2 && vcnPkg e.2 == s.pkg && vcnSlot e.2 == v).map fun e => e.1

/-- A team gone with its virtual chip: its groups retire, nothing is saved, and its span member is detached. -/
def endTeamOf (s : State) (n : Nat) : State :=
  match s.teams[n]? with
  | none => s
  | some t =>
    let s1 := (teamGroups s n).foldl (fun s p => modGroup s p.1 fun g =>
      { g with retired := true, stall := .drained, wait := .none, loads := [], reqs := [], fills := [], tokens := [], copies := [], emul := none, pfence := false }) s
    let s2 := modTeam s1 n fun t => { t with status := .ended, counters := [], holdsA := false, holdsB := false, windowBytes := 0, imageAddr := none }
    match t.span with
    | some k => releaseSpan (detachMember s2 k t.rank) k
    | none => s2

/-- A core with what belonged to some teams taken away. -/
def emptyCore (gone : List Nat) (c : Core) : Core :=
  { c with
    jobs := c.jobs.filter fun j => !gone.contains j.team
    engine := if (c.engine.holder.map gone.contains) == some true then Engine.init else c.engine }

/-- The lines in a virtual chip's ways leave them: counted lines are written back, with their under-reads, and protected lines
sealed (R155, R269). -/
def settleChipLines (s : State) (v : Nat) : State :=
  payOwed ((s.l2.filter fun e => e.2.vc == v).foldl (fun s e => evictLine s (e.1 * 128)) s)

/-- A virtual chip destroyed (R254): nothing is saved, its launches end, its counted lines are written back, its key slots are
revoked with sealing, and its link keys go (R267). -/
def destroyVc (s : State) (v : Nat) : State :=
  let own := namedVcn s v
  let g := guestOf s v
  let piers := (vchip s v).piers
  let s1 := (grantedSlots s v).foldl revokeSeal (settleChipLines s v)
  let gone := ((mapFrom (fun n t => (n, t)) 0 s1.teams).filter fun p => p.2.vc == v && p.2.status != .ended).map fun p => p.1
  let s2 := gone.foldl endTeamOf s1
  let s3 := dropTlb s2 fun e => e.vc == v
  modVc
    { s3 with
      cores := mapFrom (fun n c => let k := emptyCore gone c; if piers.getLsbD (n / 2) then { k with pins := [] } else k) 0 s3.cores
      ops := s3.ops.filter fun o => o.vc != v
      linkKeys := s3.linkKeys.filter fun e =>
        !(own == some (e.1 % 1024) && decide (g.linkFirst ≤ e.1 / 1024) && decide (e.1 / 1024 < g.linkFirst + g.linkCount)) }
    v fun _ => VChip.init

/-- The virtual chip of reduced service goes once full service has begun and its launches are complete (R302). -/
def endReduced (s : State) (v : Nat) : State :=
  let c := vchip s v
  if c.reduced && s.pkgStat == 3 && c.launches.isEmpty then destroyVc s v else s

end Sys2Proof.Machine
end

