-- ==== Sys2Proof/Machine/Launch.lean ====
section
/-!
DEFINITION. Launch queues and records, their checks, acceptance and completion (R68 to R70, R84 to R95, R320 to R322).
-/

namespace Sys2Proof.Machine

/-! ## Queues (R84 to R87) -/

def modQueue (s : State) (v q : Nat) (f : Queue → Queue) : State := modVc s v fun c => { c with queues := listMod f q c.queues }

def queueAt (s : State) (v q : Nat) : Queue := ((vchip s v).queues[q]?).getD Queue.init

/-- Queue and sequence of a launch ID (R86). -/
def idQueue (id : DWord) : Nat := field id 63 60
def idSeq (id : DWord) : Nat := field id 59 0

/-- The completion watermark advanced as far as completed sequences reach (R87). -/
def advanceDone : Nat → Queue → Queue
  | 0, q => q
  | n + 1, q =>
    if q.finished.contains (q.done.toNat + 1) then
      advanceDone n { q with done := q.done + 1, finished := q.finished.filter fun x => x != q.done.toNat + 1 }
    else q

def modLaunch (s : State) (v : Nat) (id : DWord) (f : Launch → Launch) : State :=
  modVc s v fun c => { c with launches := c.launches.map fun l => if l.id == id then f l else l }

def launchAt (s : State) (v : Nat) (id : DWord) : Option Launch := (vchip s v).launches.find? fun l => l.id == id

/-! ## Launch records (R88) -/

def recFlags (r : List Byte) : Nat := recField r 0x0B 1
def recSerial (r : List Byte) : Bool := recFlags r % 2 == 1
def recSpan (r : List Byte) : Bool := recFlags r / 2 % 2 == 1
def recInterrupt (r : List Byte) : Bool := recFlags r / 4 % 2 == 1
def recProtected (r : List Byte) : Bool := recFlags r / 8 % 2 == 1
def recArgs (r : List Byte) : DWord := BitVec.ofNat 64 (recField r 0x10 8)
def recGrid (r : List Byte) : Nat × Nat × Nat := (recField r 0x18 4, recField r 0x1C 4, recField r 0x20 4)
def recTeams (r : List Byte) : Nat := (recGrid r).1 * (recGrid r).2.1 * (recGrid r).2.2
def recDone (r : List Byte) : Nat := recField r 0x38 8

/-- Initial priority; a value above 31 stands for 31 (R26, R88). -/
def recPrio (r : List Byte) : BitVec 5 := BitVec.ofNat 5 (Nat.min (recField r 0x0A 1) 31)

/-- Dependences of a record, with the one that the serial flag adds (R91). -/
def recDeps (r : List Byte) (q seq : Nat) : List DWord :=
  ((List.range 4).map fun i => BitVec.ofNat 64 (recField r (0x40 + 8 * i) 8)).filter (fun d => d != 0)
    ++ (if recSerial r && decide (1 < seq) then [BitVec.ofNat 64 (q * 2 ^ 60 + (seq - 1))] else [])

/-- A field or bit that must be zero is not (R93 code 0x01). A span descriptor address without flag bit 1 counts among them: R88 says
that it is then 0, though R93 does not list it (DESIGN CHOICE, log 20). -/
def recordDirty (r : List Byte) : Bool :=
  decide (16 ≤ recFlags r) || decide (64 ≤ recField r 0x0C 1) || (recField r 0x0C 1 != 0 && !recProtected r)
    || recField r 0x0D 3 != 0 || recField r 0x24 4 != 0 || recField r 0x34 4 != 0 || recField r 0x68 24 != 0
    || (recField r 0x60 8 != 0 && !recSpan r) || recDone r % 16 != 0

/-! ## Images and descriptors (R320 to R322) -/

/-- Sections of an image as offset and length: header, descriptors, code, data, relocations. -/
def imageSections (h : List Byte) : List (Nat × Nat) :=
  [(0, 128), (recField h 0x10 8, 256 * recField h 6 2), (recField h 0x18 8, recField h 0x20 8), (recField h 0x28 8, recField h 0x30 8),
   (recField h 0x38 8, 24 * recField h 0x40 4)]

/-- No two non-empty ranges meet. -/
def apart : List (Nat × Nat) → Bool
  | [] => true
  | x :: xs => xs.all (fun y => x.2 == 0 || y.2 == 0 || !rangesMeet x.1 x.2 y.1 y.2) && apart xs

/-- The header check of R322. -/
def headerOk (h : List Byte) (kernel : Nat) : Bool :=
  h.take 4 == asciiBytes "AQO1" && recField h 4 2 == 1 && recField h 0x44 60 == 0 && decide (kernel < recField h 6 2)
    && recField h 0x10 8 % 256 == 0 && recField h 0x18 8 % 128 == 0 && recField h 0x28 8 % 128 == 0 && recField h 0x38 8 % 8 == 0
    && (recField h 0x30 8 != 0 || recField h 0x28 8 == 0) && (recField h 0x40 4 != 0 || recField h 0x38 8 == 0)
    && (imageSections h).all (fun x => x.2 == 0 || decide (x.1 + x.2 ≤ recField h 8 8)) && apart (imageSections h)

/-- An even offset inside the code section. -/
def inCode (h : List Byte) (off : Nat) : Bool :=
  decide (recField h 0x18 8 ≤ off) && decide (off < recField h 0x18 8 + recField h 0x20 8) && off % 2 == 0

/-- The first pin entries as start offset and lines, if they are valid and the others zero. -/
def pinsOk (h b : List Byte) : Bool :=
  (List.range 16).all fun i =>
    let e := recField b (0x80 + 8 * i) 8
    let start := e % 2 ^ 32
    let n := e / 2 ^ 32 % 2 ^ 16
    if i < recField b 0x3C 1 then
      decide (e < 2 ^ 48) && start % 128 == 0 && decide (1 ≤ n) && decide (n ≤ 1024) && decide (recField h 0x18 8 ≤ start)
        && decide (start + 128 * n ≤ recField h 0x18 8 + recField h 0x20 8)
    else e == 0

/-- The descriptor check of R322. -/
def descriptorOk (h b : List Byte) : Bool :=
  let refill := recField b 8 8
  let flags := recField b 0x23 1
  let roles := flags % 2 == 1
  let pier := flags / 2 % 2 == 1
  let ng := recField b 0x22 1
  let counts := recField b 0x24 1 + recField b 0x25 1 + recField b 0x26 1
  let nb := recField b 0x27 1
  let name := recField b 0x40 8
  inCode h (recField b 0 8) && (refill == 0 || inCode h refill)
    && (recField b 0x20 1 == 16 || recField b 0x20 1 == 32 || recField b 0x20 1 == 64)
    && recField b 0x21 1 % 8 == 0 && decide (8 ≤ recField b 0x21 1) && decide (recField b 0x21 1 ≤ 64)
    && decide (1 ≤ ng) && decide (ng ≤ 32) && decide (flags < 8) && decide (nb ≤ 16) && decide (recField b 0x38 4 < 32)
    && decide (recField b 0x3C 1 ≤ 16) && recField b 0x3D 3 == 0 && recField b 0x48 56 == 0
    && decide (recField b 0x1C 4 ≤ (if pier then 2 ^ 20 else 2 ^ 19))
    && (if roles then counts == ng && (!pier || decide (ng ≤ 16)) else counts == 0)
    && ((List.range 16).all fun i =>
          let x := recField b (0x28 + i) 1
          if i < nb then (if roles then decide (1 ≤ x) && decide (x < 8) else x == 7) else x == 0)
    && ((refill != 0) == (recField b 0x38 4 / 8 % 2 == 1))
    && (if refill == 0 then recField b 0x10 4 == 0 && recField b 0x14 4 == 0 && recField b 0x18 4 == 0
        else recField b 0x10 4 % 4 == 0 && recField b 0x14 4 % 8 == 0 && recField b 0x18 4 != 0)
    && (name == 0 || (decide (recField h 0x28 8 ≤ name) && decide (name < recField h 0x28 8 + recField h 0x30 8)))
    && pinsOk h b

/-- A descriptor as the machine keeps it: addresses are absolute, and with roles and pier placement each core carries the
declared groups (R17, R321). -/
def kernelOf (code : Nat) (index : Nat) (b : List Byte) : Kernel :=
  let flags := recField b 0x23 1
  let roles := flags % 2 == 1
  let pier := flags / 2 % 2 == 1
  let ng := recField b 0x22 1
  { entry := BitVec.ofNat 64 (code + recField b 0 8)
    refill := if recField b 8 8 == 0 then none else some (BitVec.ofNat 64 (code + recField b 8 8))
    qcnt := recField b 0x10 4, qbase := recField b 0x14 4, qper := recField b 0x18 4, scratch := recField b 0x1C 4
    width := recField b 0x20 1, vregs := recField b 0x21 1, ngroup := if roles && pier then 2 * ng else ng, roles := roles, pier := pier
    idem := flags / 4 % 2 == 1, ncopy := recField b 0x24 1, nmat := recField b 0x25 1, nvec := recField b 0x26 1
    nb := recField b 0x27 1, bset := (List.range 16).map fun i => recField b (0x28 + i) 1
    needs := BitVec.ofNat 5 (recField b 0x38 4)
    pins := (List.range (recField b 0x3C 1)).map fun i =>
      (code + recField b (0x80 + 8 * i) 8 % 2 ^ 32, recField b (0x80 + 8 * i) 8 / 2 ^ 32 % 2 ^ 16)
    index := index, desc := b }

/-- The kernel that a record names; none if R322 fails or it cannot be read. -/
def readKernel (s : State) (v code index : Nat) : State × Option Kernel :=
  if code % 4096 != 0 then (s, none)
  else
    match deviceRead s v code 128 with
    | none => (s, none)
    | some (s1, h) =>
      if !headerOk h index then (s1, none)
      else
        match deviceRead s1 v (code + recField h 0x10 8 + 256 * index) 256 with
        | none => (s1, none)
        | some (s2, b) => (s2, if descriptorOk h b then some (kernelOf code index b) else none)

/-! ## Room of a team (R16 to R18) -/

/-- Scratchpad allocation of a team of a kernel (R16, R17). -/
def allocBytes (k : Kernel) : Nat := if k.pier then (k.scratch + 255) / 256 * 256 else up128 k.scratch

/-- Groups of a team on core A; the rest are on core B (R17). -/
def groupsOnA (k : Kernel) : Nat := if k.pier then (k.ngroup + 1) / 2 else k.ngroup

/-- Vector register bytes of a group (R14). -/
def groupRegBytes (k : Kernel) : Nat := k.width * k.vregs * 4

/-- One team fits on an empty core, or pier (R18). -/
def fitsEmpty (k : Kernel) : Bool :=
  decide (groupsOnA k ≤ 8 * Nat.min Config.bayPlaces (Config.bayRegisterBytes / groupRegBytes k))
    && decide ((if k.pier then allocBytes k / 2 else allocBytes k) ≤ Config.scratchBytes)

/-! ## Completion (R92) -/

/-- Counted lines that a launch was the last to lower are written back, in whichever virtual chip's way they lie (R144, R155). -/
def settleLaunchLines (s : State) (v : Nat) (id : DWord) : State :=
  (s.l2.filter fun e => e.2.lowered == some (v, id) && e.2.counted.isSome).foldl (fun s e => underRead s (e.1 * 128)) s

/-- The 16-byte completion record written, if it can be (R92). -/
def writeCompletion (s : State) (v : Nat) (l : Launch) (status : Nat) : State :=
  let a := recDone l.record
  if a == 0 then s
  else (deviceWrite s v a (toLeBytes 8 l.id.toNat ++ toLeBytes 4 status ++ toLeBytes 4 0)).getD s

/-- A launch complete, with its code, or refused (R87, R90 to R93); with the last one the virtual chip of reduced service goes (R302). -/
def endLaunch (s : State) (v : Nat) (l : Launch) (status : Nat) (refused : Bool) : State :=
  let q := idQueue l.id
  let seq := idSeq l.id
  let s1 := writeCompletion (settleLaunchLines s v l.id) v l status
  let s2 := modQueue s1 v q fun x =>
    let y := { x with
      finished := seq :: x.finished
      refused := if refused then seq :: x.refused else x.refused
      lastcode := if refused then BitVec.ofNat 8 status else x.lastcode }
    advanceDone (y.finished.length + 1) y
  let s3 := if recInterrupt l.record && (queueAt s2 v q).ie then raise s2 v q else s2
  let s4 := modVc s3 v fun c => { c with launches := c.launches.filter fun x => x.id != l.id }
  let s5 := { s4 with cores := mapFrom (fun n c =>
    if (vchip s4 v).piers.getLsbD (n / 2) then { c with pins := c.pins.filter fun p => p.1 != l.id } else c) 0 s4.cores }
  endReduced (event s5 v 10 [(9, if refused then 3 else 2), (10, status), (16, l.id.toNat)]) v

/-! ## Spans at launch (R94) -/

/-- A span descriptor: its bytes are read with the record; the flag says that it is not valid in itself. -/
def readSpanDesc (s : State) (v a : Nat) : State × Option (DWord × List Nat × Bool) :=
  match deviceRead s v a 16 with
  | none => (s, none)
  | some (s1, h) =>
    let m := recField h 8 2
    let id := BitVec.ofNat 64 (recField h 0 8)
    if m < 2 || 64 < m then (s1, some (id, [], true))
    else
      match deviceRead s1 v (a + 16) (2 * m) with
      | none => (s1, none)
      | some (s2, b) =>
        let vcns := (List.range m).map fun i => recField b (2 * i) 2
        let rises := (List.range (m - 1)).all fun i => decide ((vcns[i]?).getD 0 < (vcns[i + 1]?).getD 0)
        (s2, some (id, vcns, a % 8 != 0 || recField h 10 6 != 0 || !rises))

/-- Read, unmatched span launches with a span ID of the guest of a virtual chip: slot and launch. -/
def spanWaiting (s : State) (v : Nat) (id : DWord) : List (Nat × Launch) :=
  ((mapFrom (fun w c => (w, c)) 0 s.vchips).filter fun p => p.2.used && p.2.guest == (vchip s v).guest).flatMap fun p =>
    (p.2.launches.filter fun l => l.matched.isNone && (l.spanDesc.map fun d => d.1) == some id).map fun l => (p.1, l)

/-- Members of a matched span launch, one on each virtual chip of this package. -/
def spanMatched (s : State) (m : Option (Nat × DWord)) : List (Nat × Launch) :=
  (mapFrom (fun w c => (w, c)) 0 s.vchips).flatMap fun p =>
    (p.2.launches.filter fun l => l.matched.isSome && l.matched == m).map fun l => (p.1, l)

/-- Virtual chips of this package among some VCNs. -/
def localMembers (s : State) (v : Nat) (vcns : List Nat) : List Nat :=
  vcns.filterMap fun n =>
    let e := vcnEntry (guestOf s v) n
    if vcnV e && vcnPkg e == s.pkg && (vchip s (vcnSlot e)).used then some (vcnSlot e) else none

/-- The members agree, and could form a span (R94). Where two records with one span ID wait on one virtual chip, the spec does not say which
is matched, and all of them are refused with 0x09 (log 19). -/
def spanAgrees (s : State) (v : Nat) (ls : List (Nat × Launch)) : Bool :=
  match ls with
  | [] => false
  | first :: _ =>
    let d := first.2.spanDesc
    let vcns := (d.map fun x => x.2).getD []
    let g := guestOf s v
    ls.all (fun p => !p.2.spanBad && p.2.spanDesc == d && recGrid p.2.record == recGrid first.2.record
        && p.2.kernel.desc == first.2.kernel.desc
        && vcns.contains (ownVcn s p.1) && (ls.filter fun x => x.1 == p.1).length == 1)
      && vcns.all (fun n => decide (n < g.vlim) && vcnV (vcnEntry g n) && vcnEn (vcnEntry g n))
      && (vcns.all (fun n => vcnPkg (vcnEntry g n) == s.pkg) || ((tget g.labels 0).getD 0).getLsbD 7)

/-- Every member launch of a span refused, or completed with a code. -/
def refuseAll (s : State) (ls : List (Nat × Launch)) (status : Nat) : State :=
  ls.foldl (fun s p => endLaunch s p.1 p.2 status true) s

/-- When the last member record of this package has been read, the members are matched or all refused with 0x09; the other
packages' members are taken to be read as well (log 12). -/
def matchSpan (s : State) (v : Nat) (id : DWord) : State :=
  let ls := spanWaiting s v id
  let vcns := ((ls.head?).bind fun p => p.2.spanDesc.map fun d => d.2).getD []
  if (localMembers s v vcns).all fun w => ls.any fun p => p.1 == w then
    if spanAgrees s v ls then ls.foldl (fun s p => modLaunch s p.1 p.2.id fun l =>
      { l with matched := (ls.head?).map fun x => (x.1, x.2.id) }) s
    else refuseAll s ls 0x09
  else s

/-! ## Reading (R90, R93) -/

/-- Features that a kernel requires and the virtual chip does not offer (R93 code 0x05, R274, R302). -/
def needsMissing (s : State) (v : Nat) (k : Kernel) : Bool :=
  k.needs.truncate 4 &&& (vchip s v).features != 0 || (s.pkgStat == 2 && k.needs &&& 0x17 != 0)

/-- A dependence that names a queue never enabled, or no earlier sequence of its own queue (R93 code 0x07). -/
def badDep (s : State) (v q seq : Nat) (d : DWord) : Bool :=
  !(queueAt s v (idQueue d)).everEnabled || (idQueue d == q && decide (seq ≤ idSeq d))

/-- The read-stage checks after the kernel has been read: 0 if all pass (R90). -/
def readChecks (s : State) (v q seq : Nat) (r : List Byte) (k : Option Kernel) : Nat :=
  let g := recGrid r
  match k with
  | none => 0x02
  | some k =>
    if g.1 == 0 || g.2.1 == 0 || g.2.2 == 0 || decide (2 ^ 48 < recTeams r) then 0x03
    else if !fitsEmpty k then 0x04
    else if needsMissing s v k then 0x05
    else if (recDeps r q seq).any (badDep s v q seq) then 0x07
    else if recField r 0x28 8 % 8 != 0 || recField r 0x30 4 % 8 != 0 then 0x0B
    else if recProtected r && !slotUsable s v (recField r 0x0C 1) then 0x0D
    else 0

/-- A kernel of a launch that is refused before its kernel is known. -/
def noKernel : Kernel :=
  { entry := 0, refill := none, qcnt := 0, qbase := 0, qper := 0, scratch := 0, width := 16, vregs := 8, ngroup := 1,
    roles := false, pier := false, idem := false, ncopy := 0, nmat := 0, nvec := 0, nb := 0, bset := [], needs := 0, pins := [], index := 0, desc := [] }

/-- A record taken as the next of a queue: its launch ID, its read-stage checks, and its refusal or place among the read
launches (R86, R90, R93). -/
def takeRecord (s : State) (v q : Nat) (r : List Byte) : State :=
  let seq := (queueAt s v q).seq.toNat + 1
  let id : DWord := BitVec.ofNat 64 (q * 2 ^ 60 + seq)
  let s1 := event (modQueue s v q fun x => { x with seq := BitVec.ofNat 60 seq }) v 10 [(9, 0), (16, id.toNat)]
  let rk := if recordDirty r then (s1, none) else readKernel s1 v (recField r 0 8) (recField r 8 2)
  let code := if recordDirty r then 0x01 else readChecks rk.1 v q seq r rk.2
  let l : Launch :=
    { id := id, record := r, kernel := rk.2.getD noKernel, accepted := false, order := 0, n := 0, base := 0, nextTeam := 0,
      retiredTeams := 0, status := 0, spanDesc := none, spanBad := false, matched := none }
  let add (s : State) (l : Launch) : State := modVc s v fun c => { c with launches := c.launches ++ [l] }
  if code != 0 then endLaunch rk.1 v l code true
  else if !recSpan r then add rk.1 l
  else
    match readSpanDesc rk.1 v (recField r 0x60 8) with
    | (s2, none) => endLaunch s2 v l 0x0A true
    | (s2, some d) => matchSpan (add s2 { l with spanDesc := some (d.1, d.2.1), spanBad := d.2.2 }) v d.1

/-- A span launch with a team dispatched. -/
def spanStarted (s : State) (l : Launch) : Bool :=
  l.spanDesc.isSome && (decide (0 < l.nextTeam) || (spanMatched s l.matched).any fun p => decide (0 < p.2.nextTeam))

/-- The span launches of a queue that have no team dispatched are cancelled, with every matching launch (R95). -/
def cancelSpans (s : State) (v q : Nat) : State :=
  ((vchip s v).launches.filter fun l => idQueue l.id == q && l.spanDesc.isSome && !spanStarted s l).foldl (fun s l =>
    match l.spanDesc with
    | none => s
    | some d =>
      if (launchAt s v l.id).isNone then s
      else refuseAll s (if l.matched.isSome then spanMatched s l.matched else spanWaiting s v d.1) 0x0C) s

/-- Reading stops: EN is cleared (R84, R93, R95). -/
def stopQueue (s : State) (v q : Nat) : State := cancelSpans (modQueue s v q fun x => { x with en := false }) v q

/-- Whether launches are served now: in full service, or in reduced service for slot 0 (R302). -/
def launchable (s : State) (v : Nat) : Bool := (vchip s v).used && (s.pkgStat == 3 || (s.pkgStat == 2 && v == 0))

/-- A record of a queue that cannot be read: reading stops, EN is cleared and RDERR set; the record stays the next one (R93). -/
def unreadRecord (s : State) (v q : Nat) : State := stopQueue (modQueue s v q fun x => { x with rderr := true }) v q

/-- `LAUNCH_RECORD_READ` (R85, R90): the next record of a queue that reads records, which is a handler's launch if one waits for it
(R283). A record that cannot be read stops the queue (R93). -/
def execLaunchRecordRead (v q : Nat) (s : State) : Out :=
  let c := vchip s v
  let x := queueAt s v q
  if !launchable s v || decide (16 ≤ q) || decide (64 ≤ c.launches.length) || !x.en then .next s
  else
    match c.handlers.find? fun h => h.1 == q with
    | some h =>
      match deviceRead s v (field c.trhrec 47 7 * 128) 128 with
      | none => .next (unreadRecord s v q)
      | some (s1, r) =>
        let s2 := modVc s1 v fun c => { c with handlers := c.handlers.erase h }
        .next (takeRecord s2 v q (r.take 16 ++ toLeBytes 8 h.2.toNat ++ r.drop 24))
    | none =>
      if x.head == x.tail then .next s
      else
        match deviceRead s v ((x.base + x.head * 128).toNat) 128 with
        | none => .next (unreadRecord s v q)
        | some (s1, r) =>
          .next (takeRecord (modQueue s1 v q fun y => { y with head := BitVec.ofNat 64 ((y.head.toNat + 1) % 2 ^ y.size.toNat) }) v q r)

/-! ## Acceptance (R69, R90, R91) -/

/-- Every dependence of a launch is met (R91). -/
def depsMet (s : State) (v : Nat) (l : Launch) : Bool :=
  (recDeps l.record (idQueue l.id) (idSeq l.id)).all fun d => decide (idSeq d ≤ (queueAt s v (idQueue d)).done.toNat)

/-- A dependence of a launch was refused. -/
def depRefused (s : State) (v : Nat) (l : Launch) : Bool :=
  (recDeps l.record (idQueue l.id) (idSeq l.id)).any fun d => (queueAt s v (idQueue d)).refused.contains (idSeq d)

/-- The argument block's fields of a refill kernel (R69): item count and base; none if they cannot be read. -/
def readArgs (s : State) (v : Nat) (l : Launch) : State × Option (Nat × DWord) :=
  if l.kernel.refill.isNone then (s, some (0, 0))
  else
    match deviceRead s v ((recArgs l.record + BitVec.ofNat 64 l.kernel.qcnt).toNat) 4 with
    | none => (s, none)
    | some (s1, a) =>
      match deviceRead s1 v ((recArgs l.record + BitVec.ofNat 64 l.kernel.qbase).toNat) 8 with
      | none => (s1, none)
      | some (s2, b) => (s2, some (leBytes a, BitVec.ofNat 64 (leBytes b)))

/-- A refill launch with too few teams for its items (R70). -/
def tooFewTeams (l : Launch) (n : Nat) : Bool :=
  l.kernel.refill.isSome && decide (recTeams l.record < (n + l.kernel.qper - 1) / l.kernel.qper)

/-- The arguments of some launches, read in turn. -/
def readAllArgs (ls : List (Nat × Launch)) (s : State) : State × List (Option (Nat × DWord)) :=
  ls.foldl (fun r p =>
    let x := readArgs r.1 p.1 p.2
    (x.1, r.2 ++ [x.2])) (s, [])

/-- A launch accepted. -/
def acceptOne (s : State) (v : Nat) (l : Launch) (a : Nat × DWord) : State :=
  let k := (vchip s v).acceptCount
  event
    (modLaunch (modVc s v fun c => { c with acceptCount := k + 1 }) v l.id fun x =>
      { x with accepted := true, order := k, n := a.1, base := a.2 })
    v 10 [(9, 1), (16, l.id.toNat)]

/-- Launches that are accepted together: a launch alone, or the members of a span. -/
def acceptMembers (s : State) (v : Nat) (l : Launch) : List (Nat × Launch) :=
  match l.spanDesc with
  | none => [(v, l)]
  | some _ => spanMatched s l.matched

/-- Some launches accepted, or all refused: one check at a time for every member, in the order of R90 (R94). -/
def acceptAll (s : State) (ls : List (Nat × Launch)) : State :=
  if ls.any fun p => depRefused s p.1 p.2 then refuseAll s ls 0x08
  else
    let r := readAllArgs ls s
    if r.2.any fun a => a.isNone then refuseAll r.1 ls 0x0A
    else
      let args := r.2.map fun a => a.getD (0, 0)
      if (ls.zip args).any fun p => tooFewTeams p.1.2 p.2.1 then refuseAll r.1 ls 0x06
      else (ls.zip args).foldl (fun s p => acceptOne s p.1.1 p.1.2 p.2) r.1

/-- `LAUNCH_ACCEPT` (R90): a read launch whose dependences, and those of its fellow members, are met. -/
def execLaunchAccept (v : Nat) (id : BitVec 64) (s : State) : Out :=
  match launchAt s v id with
  | none => .next s
  | some l =>
    let ls := acceptMembers s v l
    if l.accepted || ls.isEmpty || !launchable s v || !ls.all fun p => depsMet s p.1 p.2 then .next s
    else .next (acceptAll s ls)

/-- A store or atomic of a launch in a span member that has not been performed (R92): also one of a team that has ended. -/
def launchStores (s : State) (v : Nat) (id : DWord) : Bool :=
  (mapFrom (fun n g => (n, g)) 0 s.groups).any fun p =>
    ((s.teams[p.2.team]?).map fun t => t.vc == v && t.launch == id) == some true && storesOut s p.1 p.2

/-- `LAUNCH_COMPLETE` (R92): every team has retired, and every store and atomic of them has been performed. -/
def execLaunchComplete (v : Nat) (id : BitVec 64) (s : State) : Out :=
  match launchAt s v id with
  | none => .next s
  | some l =>
    if l.accepted && l.retiredTeams == recTeams l.record && !launchStores s v id then
      .next (endLaunch s v l l.status.toNat false)
    else .next s

/-! ## Queue registers (R84, R85) -/

/-- `LQTAIL_WRITE` (R85): a value at or above the size is ignored. -/
def execLqtailWrite (v q : Nat) (value : BitVec 64) (s : State) : Out :=
  let x := queueAt s v q
  if !(vchip s v).used || decide (16 ≤ q) || decide (2 ^ x.size.toNat ≤ value.toNat) then .next s
  else .next (modQueue s v q fun x => { x with tail := value })

/-- `QUEUE_ENABLE` (R84, R85): a write of `LQCTL` with EN = 1; from 0 to 1 it sets head and tail to 0. -/
def execQueueEnable (v q : Nat) (ie : Bool) (s : State) : Out :=
  if !(vchip s v).used || decide (16 ≤ q) then .next s
  else
    .next (modQueue s v q fun x =>
      if x.en then { x with ie := ie } else { x with ie := ie, en := true, everEnabled := true, head := 0, tail := 0 })

/-- `QUEUE_DISABLE` (R84, R95): a write of `LQCTL` with EN = 0. -/
def execQueueDisable (v q : Nat) (ie : Bool) (s : State) : Out :=
  if !(vchip s v).used || decide (16 ≤ q) then .next s
  else .next (stopQueue (modQueue s v q fun x => { x with ie := ie }) v q)

end Sys2Proof.Machine
end

