-- ==== Sys2Proof/Machine/Place.lean ====
section
/-!
DEFINITION. Room on the cores (R14, R16 to R18, R22), the dispatch of new, restarted and saved teams and of span teams
(R96 to R99), restoring images (R264, R288, R290), and the retirement of teams (R39, R80).
-/

namespace Sys2Proof.Machine

/-! ## Room -/

/-- A place of a group: core, bay, group place. -/
structure Seat where
  core : Nat
  bay : Nat
  place : Nat
  deriving DecidableEq, Repr

/-- What is occupied: seats with their register bytes, scratchpad rooms by core with their bytes, and engines. -/
structure Usage where
  seats : List (Seat × Nat)
  rooms : List (Nat × Nat × Nat)
  engines : List Nat
  deriving DecidableEq, Repr

/-- Where a team goes: its cores, its scratchpad offsets, and a seat for each group in group order. -/
structure Plan where
  coreA : Nat
  coreB : Option Nat
  baseA : Nat
  baseB : Nat
  seats : List Seat
  deriving DecidableEq, Repr

/-- A team that occupies room: resident, or a span member that retired in its place and is not released (R39). -/
def occupies (s : State) (t : Team) : Bool :=
  inPlace t || (t.status == .ended && t.placed && match t.span.bind fun k => s.spans[k]? with
    | some sp => sp.members[t.rank]? != some .released
    | none => false)

/-- Bytes of a team's allocation on each of its cores. -/
def shareBytes (t : Team) : Nat := if t.coreB.isSome then t.alloc / 2 else t.alloc

/-- What the teams other than some occupy. A retired group's place is free, but in a span member (R14, R39). -/
def usageBut (s : State) (gone : List Nat) : Usage :=
  let ts := (mapFrom (fun n t => (n, t)) 0 s.teams).filter fun p => occupies s p.2 && !gone.contains p.1
  { seats := s.groups.filterMap fun g =>
      match ts.find? fun p => p.1 == g.team with
      | some p => if g.retired && p.2.span.isNone then none
          else some ({ core := g.core, bay := g.bay, place := g.place }, g.width * g.vregs * 4)
      | none => none
    rooms := ts.flatMap fun p => (p.2.coreA, p.2.baseA, shareBytes p.2) :: (p.2.coreB.toList.map fun c => (c, p.2.baseB, shareBytes p.2))
    engines := ts.flatMap fun p => if inPlace p.2 then heldCores p.2 else [] }

def usage (s : State) : Usage := usageBut s []

/-- The lowest bay of a core with a free place and registers, and its lowest free place (R14; the bay is not promised, log 2). -/
def seatOn (u : Usage) (core bytes : Nat) : Option Seat :=
  (List.range 8).findSome? fun b =>
    let here := u.seats.filter fun x => x.1.core == core && x.1.bay == b
    if Config.bayRegisterBytes < (here.foldl (fun n x => n + x.2) 0) + bytes then none
    else ((List.range Config.bayPlaces).find? fun p => !here.any fun x => x.1.place == p).map fun p =>
      { core := core, bay := b, place := p }

/-- Seats for groups on given cores. -/
def seatAll (bytes : Nat) : List Nat → Usage → Option (List Seat)
  | [], _ => some []
  | c :: cs, u =>
    match seatOn u c bytes with
    | none => none
    | some x => (seatAll bytes cs { u with seats := (x, bytes) :: u.seats }).map fun xs => x :: xs

/-- A room for a share of scratchpad on a core whose free bytes cover it (R18): the first one that no allocation stands in. -/
def roomOn (u : Usage) (core bytes : Nat) : Option Nat :=
  let here := u.rooms.filter fun r => r.1 == core
  if Config.scratchBytes < (here.foldl (fun n r => n + r.2.2) 0) + bytes then none
  else ((List.range (here.length + 1)).map fun i => i * 2 ^ 20).find? fun b => !here.any fun r => r.2.1 == b

/-- A kernel whose teams hold the matrix engine (R22). -/
def wantsEngine (k : Kernel) : Bool := decide (0 < k.nmat) || k.needs.getLsbD 4

/-- A team of a kernel on a core, or on the pier of two cores (R17, R18, R22). -/
def planOn (u : Usage) (k : Kernel) (a : Nat) (b : Option Nat) : Option Plan :=
  let share := if k.pier then allocBytes k / 2 else allocBytes k
  let cores := (List.range k.ngroup).map fun i => if i < groupsOnA k then a else b.getD a
  if wantsEngine k && (u.engines.contains a || (b.map fun c => u.engines.contains c).getD false) then none
  else
    match roomOn u a share, b.map fun c => roomOn u c share, seatAll (groupRegBytes k) cores u with
    | some x, none, some seats => some { coreA := a, coreB := none, baseA := x, baseB := 0, seats := seats }
    | some x, some (some y), some seats => some { coreA := a, coreB := b, baseA := x, baseB := y, seats := seats }
    | _, _, _ => none

/-- Cores, or piers, that may take a team, lowest first: vacated piers take nothing (R98, R102). -/
def openCores (c : VChip) (k : Kernel) : List (Nat × Option Nat) :=
  (mapFrom (fun i p => (i, p)) 0 (vcPiers c)).flatMap fun x =>
    if c.vacated.getLsbD x.1 then []
    else if k.pier then [(2 * x.2, some (2 * x.2 + 1))]
    else [(2 * x.2, none), (2 * x.2 + 1, none)]

/-- The lowest core or pier that passes R18 and R22 (R98). -/
def planAny (u : Usage) (c : VChip) (k : Kernel) : Option Plan := (openCores c k).findSome? fun x => planOn u k x.1 x.2

/-- The other core of a pier, for a kernel with pier placement. -/
def mateOf (k : Kernel) (core : Nat) : Option Nat := if k.pier then some (core + 1) else none

/-- Room with a plan taken. -/
def usePlan (u : Usage) (k : Kernel) (p : Plan) : Usage :=
  let share := if k.pier then allocBytes k / 2 else allocBytes k
  { seats := (p.seats.map fun x => (x, groupRegBytes k)) ++ u.seats
    rooms := (p.coreA, p.baseA, share) :: (p.coreB.toList.map fun c => (c, p.baseB, share)) ++ u.rooms
    engines := if wantsEngine k then p.coreA :: p.coreB.toList ++ u.engines else u.engines }

/-! ## Span candidates (R99) -/

/-- A pending span team of a virtual chip: its launch, the saved team if it is one, its grid index, kernel and span ID. -/
structure Pending where
  launch : DWord
  team : Option Nat
  index : Nat
  kernel : Kernel
  id : DWord
  key : Option (Nat × DWord)
  vcns : List Nat
  deriving DecidableEq, Repr

/-- Every pending span team of a virtual chip. -/
def pendings (s : State) (v : Nat) : List Pending :=
  let c := vchip s v
  (c.resume.filterMap fun n =>
    match s.teams[n]? with
    | none => none
    | some t => (t.span.bind fun k => s.spans[k]?).map fun sp =>
        { launch := t.launch, team := some n, index := t.index, kernel := t.kernel, id := sp.id, key := sp.key, vcns := sp.vcns })
  ++ (c.launches.filterMap fun l =>
    match l.spanDesc with
    | none => none
    | some d =>
      if l.accepted && decide (l.nextTeam < recTeams l.record) then
        some { launch := l.id, team := none, index := l.nextTeam, kernel := l.kernel, id := d.1, key := l.matched, vcns := d.2 }
      else none)

/-- The pending span team that a virtual chip reserves room for: the lowest span ID, saved teams first, then grid order. -/
def candidate (s : State) (v : Nat) : Option Pending :=
  (pendings s v).foldl (fun best p =>
    match best with
    | none => some p
    | some b =>
      let key (x : Pending) : Nat := x.id.toNat * 2 ^ 50 + (if x.team.isSome then 0 else 2 ^ 49) + x.index
      if key p < key b then some p else some b) none

/-- A pending team that belongs to a span. -/
def ofSpan (sp : Span) (p : Pending) : Bool := p.id == sp.id && p.key == sp.key && p.index == sp.index

/-- The pending team of a virtual chip in a span. -/
def pendingOf (s : State) (v k : Nat) : Option Pending := (s.spans[k]?).bind fun sp => (pendings s v).find? (ofSpan sp)

/-- The room that a virtual chip's reservation holds, with the team that it is for. -/
def reserved (s : State) (v : Nat) (u : Usage) : Option (Pending × Plan) :=
  (vchip s v).reserve.bind fun r => (pendingOf s v r.span).bind fun p =>
    (planOn u p.kernel r.core (mateOf p.kernel r.core)).map fun q => (p, q)

/-- What the teams other than some occupy, with a virtual chip's reservation: its room counts for every other team (R96, R99). -/
def usageReserved (s : State) (v : Nat) (gone : List Nat) : Usage :=
  let u := usageBut s gone
  match reserved s v u with
  | some (p, q) => usePlan u p.kernel q
  | none => u

/-- The span of a pending span team, made if it is not there yet. -/
def spanFor (s : State) (p : Pending) : State × Nat :=
  match s.spans.findIdx? fun sp => sp.id == p.id && sp.key == p.key && sp.index == p.index with
  | some k => (s, k)
  | none =>
    let m := p.vcns.length
    ({ s with spans := s.spans ++
        [{ id := p.id, key := p.key, index := p.index, vcns := p.vcns, members := List.replicate m .joining, arrived := List.replicate m false,
           phase := false, reserved := List.replicate m false, saved := List.replicate m false,
           allocs := List.replicate m (allocBytes p.kernel), far := [] }] },
     s.spans.length)

/-- Rank of a virtual chip among member VCNs (R34). -/
def rankOf (s : State) (v : Nat) (vcns : List Nat) : Nat := (vcns.findIdx? fun n => n == ownVcn s v).getD 0

/-- A virtual chip's reservation set, with what its span knows of it. -/
def setReserve (s : State) (v k : Nat) (r : Option Reserve) : State :=
  modSpan (modVc s v fun c => { c with reserve := r }) k fun sp =>
    { sp with reserved := listMod (fun _ => r.isSome) (rankOf s v sp.vcns) sp.reserved }

/-- A virtual chip's reservation dropped (R99, R104). -/
def dropReserve (s : State) (v : Nat) : State :=
  match (vchip s v).reserve with
  | none => s
  | some r => setReserve s v r.span none

/-- The reservation that a virtual chip should hold: room for its pending span team of the lowest span ID, if that fits. One that
it holds for another span is dropped first (R99). None if there is nothing to change. -/
def takeReserve (s : State) (v : Nat) : Option State :=
  match (vchip s v).reserve, candidate s v with
  | some r, p => if p.map (fun p => (spanFor s p).2) == some r.span then none else some (dropReserve s v)
  | none, none => none
  | none, some p =>
    (planAny (usage s) (vchip s v) p.kernel).map fun q =>
      let x := spanFor s p
      setReserve x.1 v x.2 (some { span := x.2, core := q.coreA })

/-! ## New teams (R10, R13, R19, R26 to R29, R70, R72, R89) -/

/-- The role of group i of a team (R17, R20). -/
def roleOf (k : Kernel) (i : Nat) : Role :=
  if !k.roles then .general
  else
    let j := if i < groupsOnA k then i else i - groupsOnA k
    if j < k.ncopy then .copy else if j < k.ncopy + k.nmat then .matrix else .vector

/-- `%stacklim` of a group (R89). -/
def launchLimit (t : Team) (num width : Nat) : DWord :=
  if t.sdepth = 0 then 8 else t.sbase + BitVec.ofNat 64 ((t.index * t.kernel.ngroup + num) * width * t.sdepth)

/-- A group at its start. -/
def newGroup (s : State) (n : Nat) (t : Team) (itemBase : DWord) (num : Nat) (x : Seat) : Group :=
  let k := t.kernel
  { team := n, num := num, width := k.width, vregs := k.vregs, role := roleOf k num
    s := ((Vector.replicate 64 (0 : DWord)).set 1 t.args).set 2 itemBase
    spois := 0, prio := t.prio, prioNext := none, fpctl := 0, fpflags := 0, mflags := 0, rcount := 0
    stacklim := launchLimit t num k.width, core := x.core, bay := x.bay, place := x.place, age := (coreAt s x.core).clock
    loops := [], fused := [], yielded := 0, batch := 0, cpys := 0, copies := [], copyErrs := [], tokens := [], errTok := 0
    loads := [], reqs := [], fills := [], look := [], issuedAt := (coreAt s x.core).clock, paired := false, wait := .none, stall := .issued, fault := none, skid := 0, pfence := false, didJ := false
    didX := false, didB := false, retired := false, emul := none, emulMask := 0
    lanes := (List.range k.width).map fun i => { freshLane with pc := k.entry, stack := launchStack t num k.width i } }

/-- Barriers at a team's start (R28, R29). -/
def newBarriers (k : Kernel) : List Barrier :=
  (List.range 16).map fun b =>
    let e := if b < k.nb then (List.range k.ngroup).countP fun i => roleIn ((k.bset[b]?).getD 7) (roleOf k i) else 0
    { e := e, a := 0, p := false, arr := 0, wd := 0 }

/-- A share of scratchpad cleared: no earlier data is visible (R147). -/
def clearRoom (s : State) (core base bytes : Nat) : State :=
  let k := scratchKey core base
  { clearN s k bytes with lines := s.lines.filter fun e => decide (e.1 < k / 128) || decide (k / 128 + bytes / 128 ≤ e.1) }

/-- A core's engine newly held by a team: ring cleared, start state (R211). -/
def takeEngine (n : Nat) (s : State) (core : Nat) : State :=
  modEngine (clearN s (ringKey core 0) 0x40000) core fun _ => { Engine.init with holder := some n }

/-- Pins of a launch taken at its first admission to a core; a range past 32 KiB is ignored whole and counted (R323). -/
def takePins (s : State) (v : Nat) (t : Team) (x : Seat) : State :=
  if (coreAt s x.core).pins.any fun p => p.1 == t.launch then s
  else
    t.kernel.pins.foldl (fun s p =>
      let used := (coreAt s x.core).pins.foldl (fun n q => n + q.2.2 * 128) 0
      if used + p.2 * 128 ≤ 32768 then modCore s x.core fun c => { c with pins := c.pins ++ [(t.launch, p.1, p.2)] }
      else countBay (modCore s x.core fun c => { c with pins := c.pins ++ [(t.launch, p.1, 0)] }) v x.core x.bay 0x021 1) s

/-- Pins on each core of a plan, in the bay of the core's first group. -/
def pinPlan (s : State) (v : Nat) (t : Team) (p : Plan) : State :=
  (p.coreA :: p.coreB.toList).foldl (fun s c =>
    match p.seats.find? fun x => x.core == c with
    | some x => takePins s v t x
    | none => s) s

/-- A team's cores, cleared for it: scratchpad, engines, pins. -/
def openPlan (s : State) (n : Nat) (t : Team) (p : Plan) : State :=
  let share := shareBytes { t with coreB := p.coreB }
  let s1 := clearRoom s p.coreA p.baseA share
  let s2 := match p.coreB with
    | some c => clearRoom s1 c p.baseB share
    | none => s1
  let s3 := if wantsEngine t.kernel then (p.coreA :: p.coreB.toList).foldl (takeEngine n) s2 else s2
  pinPlan s3 t.vc t p

/-- The next incarnation of a virtual chip (R27; log 1). -/
def drawIncarn (s : State) (v : Nat) : BitVec 48 × State :=
  let i := (vchip s v).incarn + 1
  (i, modVc s v fun c => { c with incarn := i })

/-- A team of a launch at a grid index, as it starts. -/
def newTeam (v : Nat) (l : Launch) (index : Nat) (incarn : BitVec 48) (p : Plan) (span : Option Nat) (rank : Nat) : Team :=
  let g := recGrid l.record
  let k := l.kernel
  let first := Nat.min l.n (index * k.qper)
  { vc := v, launch := l.id, kernel := k, args := recArgs l.record, item0 := l.base
    x := BitVec.ofNat 32 (index % g.1), y := BitVec.ofNat 32 (index / g.1 % g.2.1), z := BitVec.ofNat 32 (index / g.1 / g.2.1)
    nx := BitVec.ofNat 32 g.1, ny := BitVec.ofNat 32 g.2.1, nz := BitVec.ofNat 32 g.2.2, index := index
    sbase := BitVec.ofNat 64 (recField l.record 0x28 8), sdepth := recField l.record 0x30 4, prio := recPrio l.record
    incarn := incarn, coreA := p.coreA, coreB := p.coreB, baseA := p.baseA, baseB := p.baseB, alloc := allocBytes k, placed := true
    barriers := newBarriers k, span := span, rank := rank, first := first, end_ := Nat.min l.n ((index + 1) * k.qper), next := first
    idem := k.idem, protKey := if recProtected l.record then some (BitVec.ofNat 6 (recField l.record 0x0C 1)) else none
    status := .resident, primary := 0, recordAddr := 0, windowAddr := 0, windowBytes := 0, recordWritten := false, haltNoted := false
    recordHeld := false, cmd := 0, counters := [], saveCtr := 0, imageAddr := none, imageLen := 0, taken := [], mmas := [], holdsA := wantsEngine k, holdsB := wantsEngine k && k.pier }

/-- A launch's next team placed. -/
def startTeam (s : State) (v : Nat) (l : Launch) (p : Plan) (span : Option Nat) (rank : Nat) : State :=
  let r := drawIncarn s v
  let n := s.teams.length
  let t := newTeam v l l.nextTeam r.1 p span rank
  let s1 := openPlan { r.2 with teams := r.2.teams ++ [t] } n t p
  let s2 := { s1 with groups := s1.groups ++ mapFrom (newGroup s1 n t l.base) 0 p.seats }
  modLaunch s2 v l.id fun x => { x with nextTeam := x.nextTeam + 1 }

/-! ## Receive logs applied (R264) -/

/-- A team taken from the records that have it among the teams they belong to; a record of no team is not applied any more. -/
def dropOwner (n : Nat) (t : Table LogOwner) : Table LogOwner :=
  (t.map fun e => (e.1, { e.2 with teams := e.2.teams.filter fun m => m != n })).filter fun e => !e.2.teams.isEmpty

/-- A log record applied for a team: its payload is written, unless another of its teams has had it written before, and then counted
(log 20). A team that is away when it is written counts it when it resumes, even if it was resident when the record was logged. -/
def applyRecord (n : Nat) (s : State) (r : Nat × LogOwner) : State :=
  match s.teams[n]? with
  | none => s
  | some t =>
    let c := vchip s t.vc
    let a := field c.rlbase 47 12 * 4096 + r.1 % 2 ^ c.rlsize.toNat * 96
    let rest := r.2.teams.filter fun m => m != n
    let s0 := modVc s t.vc fun x =>
      { x with rlowner := if rest.isEmpty then tdel x.rlowner r.1 else tput x.rlowner r.1 { r.2 with teams := rest, written := true } }
    if decide (r.1 < c.rlhead.toNat) then s0
    else
      match deviceRead s0 t.vc a 96 with
      | none => s0
      | some (s1, b) =>
        let bs := (b.drop 32).take (recField b 0x13 1 % 64 + 1)
        let va := r.2.addr
        if r.2.written then arriveTeam va bs.length (some n) s1 n
        else if topByte va == 0xFF then
          receivedBytes (arrive (writeN s1 (teamKey t (field va 23 0)) bs) t.vc (some n) va bs.length) t.vc bs.length
        else
          let s2 := pagedWrite (bs.length + 1) s1 t.vc va.toNat bs
          let away := ((awayCounters s2 t.vc va.toNat bs.length).map fun p => p.1).filter fun m => m != n && !rest.contains m
          let s3 := if away.isEmpty then s2
            else modVc s2 t.vc fun x => { x with rlowner := tput x.rlowner r.1 { r.2 with teams := rest ++ away, written := true } }
          receivedBytes (arrive s3 t.vc (some n) va bs.length) t.vc bs.length

/-- Every record that belongs to a team applied, in the order of LSEQ. -/
def applyLog (s : State) (n : Nat) : State :=
  match s.teams[n]? with
  | none => s
  | some t => ((vchip s t.vc).rlowner.filter fun e => e.2.teams.contains n).foldl (applyRecord n) s

/-! ## Restoring (R288, R290) -/

/-- The length of a team's image, from the bindings that the pod section of an unprotected one counts. -/
def imageLength (t : Team) (poff : Nat) (b : List Byte) : Nat :=
  if t.protKey.isSome then t.imageLen else poff + up128 (648 + 24 * recField b poff 8)

/-- The consistency check of an image's header (R290 check 1): its length is the one that its sections give. The pod section of a
protected image shows its count only once the tag has verified (check 3), so that its length is the one with which it was saved
(DEDUCED, log 20). -/
def headerMatches (s : State) (n : Nat) (t : Team) (h b : List Byte) : Bool :=
  let l := layoutOf s n t
  let len := recField h 0x48 8
  h.take 4 == asciiBytes "AQSV" && recField h 4 2 == 1 && recField h 0x50 8 == 0x100 && recField h 0x58 8 == l.gsize
    && recField h 0x60 8 == l.loff && recField h 0x68 8 == l.boff && recField h 0x70 8 == l.eoff && recField h 0x78 8 == l.poff
    && len == imageLength t l.poff b
    && recField h 0x10 8 == t.launch.toNat && recField h 0x18 8 == t.incarn.toNat && (h.drop 0x20).take 12 == teamCoords t
    && ((recField h 6 2 % 2 == 1) == t.protKey.isSome)
    && recField h 0x2D 1 == ((t.protKey.map fun k => k.toNat + 128).getD 0)

/-- A team's image read and checked: its bytes, or the reason of its refusal (R290). Bytes that are poisoned can be read, and are
taken as they stand (DEDUCED, log 20). -/
def readImage (s : State) (n : Nat) (t : Team) : State × Except Nat (List Byte) :=
  let a := (t.imageAddr.getD 0).toNat
  match deviceLoad s t.vc a 256 with
  | none => (s, .error 4)
  | some (s1, h, _) =>
    let len := recField h 0x48 8
    if decide (2 ^ 48 < a + len) then (s1, .error 4)
    else
      match deviceLoad s1 t.vc a (len + (if t.protKey.isSome then 16 else 0)) with
      | none => (s1, .error 4)
      | some (s2, b, _) =>
        if !headerMatches s2 n t h b then (s2, .error 3)
        else if recField h 8 8 != t.saveCtr.toNat then (s2, .error 1)
        else
          match t.protKey with
          | none => (s2, .ok b)
          | some k =>
            match (saveKey s2 t.vc k.toNat).bind fun sk => openImage sk (b.take len) (b.drop len) with
            | none => (s2, .error 2)
            | some x => (s2, .ok x)

/-- A team's groups given their new seats. Their idle time runs from here, as it does from the start of a group, though R100 speaks only
of issuing (DESIGN CHOICE, log 20). -/
def seatGroups (s : State) (n : Nat) (p : Plan) : State :=
  (teamGroups s n).foldl (fun s x =>
    match p.seats[x.2.num]? with
    | none => s
    | some y =>
      let clock := (coreAt s y.core).clock
      modGroup s x.1 fun g =>
        { g with core := y.core, bay := y.bay, place := y.place, age := clock, issuedAt := clock, paired := false, loops := [], fused := [] }) s

/-- The events of a team saved, resumed or restarted (R295 type 11). -/
def teamEvent (s : State) (t : Team) (kind core : Nat) : State :=
  event s t.vc 11 [(9, kind), (10, vcCore (vchip s t.vc) core % 256), (16, t.launch.toNat), (24, linearIndex t % 2 ^ 48)]

/-! ## The end of a team (R39, R80) -/

/-- A team retired: counted for its launch, its engines free, its counters and bindings ended, its span left. -/
def retireTeam (s : State) (n : Nat) (t : Team) (status : Nat) : State :=
  let s1 := (heldCores t).foldl (fun s c => modEngine s c fun e => if e.holder == some n then { Engine.init with err := e.err } else e) s
  let s2 := modTeam s1 n fun t =>
    { t with status := .ended, counters := [], holdsA := false, holdsB := false, windowBytes := 0, imageAddr := none }
  let s3 := modVc s2 t.vc fun c =>
    { c with
      resume := c.resume.filter fun m => m != n
      rlowner := dropOwner n c.rlowner
      endpoints := c.endpoints.filter fun e => match e.2 with
        | .team m _ _ _ => m != n
        | .queue _ _ _ => true }
  let s4 := modLaunch s3 t.vc t.launch fun l =>
    { l with retiredTeams := l.retiredTeams + 1, status := if l.status == 0 then BitVec.ofNat 32 status else l.status }
  match t.span with
  | none => s4
  | some k => releaseSpan (detachMember s4 k t.rank) k

/-- A team that is not resident ends: its groups retire (R284, R290). -/
def endAway (s : State) (n : Nat) (t : Team) (status : Nat) : State :=
  retireTeam ((liveGroups s n).foldl (fun s p => retireGroup s p.1) s) n t status

/-- `TEAM_RETIREMENT` (R80, R251): every group has retired, and copies, multiplies, jobs on closed slots and pod operations
have completed. A team that was chosen for saving retires all the same (R104). -/
def execTeamRetirement (n : Nat) (s : State) : Out :=
  match s.teams[n]? with
  | none => .next s
  | some t =>
    let gs := teamGroups s n
    let copies := s.cores.any fun c => c.jobs.any fun j => j.team == n
    let engines := (heldCores t).any fun c =>
      let e := (coreAt s c).engine
      !e.queue.isEmpty || e.running.isSome || e.jobRunning || (decide (0 < e.closed) && !e.claims.isEmpty)
    let ops := s.ops.any fun o => gs.any fun p => p.1 == o.group
    if inPlace t && !isHalted t && gs.all (fun p => p.2.retired) && !copies && !engines && !ops then .next (retireTeam s n t 0)
    else .next s

/-! ## Resuming -/

/-- A team of the resume list placed: restored from its image, or started again (R81, R83, R103, R264, R290). A refused
restore ends the team. -/
def resumeTeam (s : State) (n : Nat) (p : Plan) : State :=
  match s.teams[n]? with
  | none => s
  | some t =>
    let leave (s : State) : State := modVc s t.vc fun c => { c with resume := c.resume.filter fun m => m != n }
    let seat (s : State) (st : TeamStatus) : State :=
      seatGroups (modTeam (openPlan s n t p) n fun t =>
        { t with
          coreA := p.coreA, coreB := p.coreB, baseA := p.baseA, baseB := p.baseB, placed := true, status := st, imageAddr := none
          taken := if isHalted t then t.taken else [], mmas := [] }) n p
    match t.status with
    | .restarted =>
      let s1 := seat (leave s) .resident
      let fresh (s : State) (x : Nat × Group) : State :=
        match p.seats[x.2.num]?, s.teams[n]? with
        | some y, some t2 => modGroup s x.1 fun _ => newGroup s n t2 t2.item0 x.2.num y
        | _, _ => s
      teamEvent ((teamGroups s1 n).foldl fresh s1) t 1 p.coreA
    | .saved halted =>
      let r := readImage s n t
      match r.2 with
      | .error reason =>
        let s1 := event r.1 t.vc 7 [(9, reason), (16, t.launch.toNat)]
        endAway s1 n t (0x200 + reason)
      | .ok b =>
        let s1 := seat (leave r.1) (if halted then .halted else .resident)
        match s1.teams[n]? with
        | none => s1
        | some t2 =>
          let l := layoutOf s n t
          let s2 := restoreImage n { t2 with mmas := t.mmas } l b s1
          let s3 := if halted || t.taken.isEmpty then s2 else restoreBody true n t2 l t.taken s2
          teamEvent (retryAll (applyLog s3 n)) t 1 p.coreA
    | _ => s

/-! ## Dispatch (R96 to R99) -/

/-- The first team of the resume list, span members apart, that fits. -/
def firstResumable (s : State) (v : Nat) : Option (Nat × Plan) :=
  (vchip s v).resume.findSome? fun n =>
    match s.teams[n]? with
    | none => none
    | some t => if t.span.isSome then none else (planAny (usageReserved s v []) (vchip s v) t.kernel).map fun p => (n, p)

/-- Whether one ready launch is served before another (R97). -/
def servedBefore (a b : Launch) : Bool :=
  if recPrio a.record != recPrio b.record then decide ((recPrio b.record).toNat < (recPrio a.record).toNat) else decide (a.order < b.order)

/-- A launch put in its place among others in the order of R97. -/
def insertReady (l : Launch) : List Launch → List Launch
  | [] => [l]
  | x :: xs => if servedBefore l x then l :: x :: xs else x :: insertReady l xs

/-- Ready launches in the order of R97. -/
def readyLaunches (s : State) (v : Nat) : List Launch :=
  ((vchip s v).launches.filter fun l => l.accepted && decide (l.nextTeam < recTeams l.record)).foldr insertReady []

/-- The first ready launch, span launches apart, whose next team fits. -/
def firstNew (s : State) (v : Nat) : Option (Launch × Plan) :=
  (readyLaunches s v).findSome? fun l =>
    if l.spanDesc.isSome then none else (planAny (usageReserved s v []) (vchip s v) l.kernel).map fun p => (l, p)

/-- A member of a span that has ended, and starts no more: it keeps its room, or gave it up while it was away (R39). -/
def memberEnded (s : State) (k rank : Nat) : Bool :=
  s.teams.any fun t => t.span == some k && t.rank == rank && t.status == .ended

/-- Every member of a span that can still start has reserved its room (R99). -/
def allReserved (s : State) (k : Nat) (sp : Span) : Bool :=
  (mapFrom (fun r b => (r, b)) 0 sp.reserved).all fun x => x.2 || memberEnded s k x.1 || sp.members[x.1]? == some .released

/-- The team and the room with which a virtual chip of this package starts its member of a span; none while it may not start: its
interface is in ERROR (R265), a team of its resume list fits (R96), or it has no such room. -/
def memberPlan (s : State) (k w : Nat) : Option (Pending × Plan) :=
  if !launchable s w || (vchip s w).tdisp == .error || (firstResumable s w).isSome
      || ((vchip s w).reserve.map fun r => r.span) != some k then none
  else reserved s w (usage s)

/-- The same for some virtual chips, if every one may start. -/
def memberPlans (s : State) (k : Nat) : List Nat → Option (List (Nat × Pending × Plan))
  | [] => some []
  | w :: ws => (memberPlan s k w).bind fun p => (memberPlans s k ws).map fun ps => (w, p) :: ps

/-- A member of a span placed in its reserved room. -/
def startMember (k : Nat) (s : State) (x : Nat × Pending × Plan) : State :=
  let s0 := modVc s x.1 fun c => { c with reserve := none }
  match x.2.1.team with
  | some n => resumeTeam s0 n x.2.2
  | none =>
    match launchAt s0 x.1 x.2.1.launch with
    | some l => startTeam s0 x.1 l x.2.2 (some k) (rankOf s0 x.1 x.2.1.vcns)
    | none => s0

/-- A span team started on every member, or on none, once every member has reserved (R35, R99). -/
def startSpan (s : State) (v : Nat) : Option State :=
  match (vchip s v).reserve with
  | none => none
  | some r =>
    match s.spans[r.span]? with
    | none => none
    | some sp =>
      let ws := (localMembers s v sp.vcns).filter fun w => !memberEnded s r.span (rankOf s w sp.vcns)
      if !allReserved s r.span sp then none
      else
        (memberPlans s r.span ws).map fun ps =>
          modSpan (ps.foldl (startMember r.span) s) r.span fun sp => { sp with reserved := sp.reserved.map fun _ => false }

/-- Whether a span whose reservation is complete on every member waits for one of this package that has a team of its resume list to
place first: it ranks before every new team (R96). -/
def spanAwaits (s : State) (v : Nat) : Bool :=
  match (vchip s v).reserve with
  | none => false
  | some r =>
    match s.spans[r.span]? with
    | none => false
    | some sp => allReserved s r.span sp && (localMembers s v sp.vcns).any fun w =>
        launchable s w && (vchip s w).tdisp != .error && (firstResumable s w).isSome

/-- `DISPATCH_TEAM` (R96): nothing is placed on an interface in ERROR, whose resident teams halt (R265, R275); the resume list, then a
span team whose reservation is complete, then a reservation, then a new team. -/
def execDispatchTeam (v : Nat) (s : State) : Out :=
  if !launchable s v || (vchip s v).tdisp == .error then .next s
  else
    match firstResumable s v with
    | some (n, p) => .next (resumeTeam s n p)
    | none =>
      match startSpan s v with
      | some s1 => .next s1
      | none =>
        match takeReserve s v with
        | some s1 => .next s1
        | none =>
          match (if spanAwaits s v then none else firstNew s v) with
          | some (l, p) => .next (startTeam s v l p none 0)
          | none => .next s

end Sys2Proof.Machine
end

