-- ==== Sys2Proof/Machine/Save.lean ====
section
/-!
DEFINITION. Saving and restarting teams (R81, R83, R200, R224, R252, R287 to R291), the forward-progress rule (R100) and
spatial pre-emption (R101 to R104).
-/

namespace Sys2Proof.Machine

/-! ## Coming to rest (R199, R223, R252, R278) -/

/-- A group with nothing on its way. In a save, accesses that wait for a span member may go on waiting (R104). -/
def groupAtRest (s : State) (halt : Bool) (n : Nat) (g : Group) : Bool :=
  g.emul.isNone && !batchDone s g (oldestBatch g)
    && (if halt then g.loads.isEmpty && g.reqs.isEmpty else g.loads.all fun l => !l.ready)
    && !s.ops.any fun o => o.group == n
        && (halt || !(o.kind == .spanLoad || o.kind == .spanStore || o.kind == .spanAtomic))

/-- An engine with nothing running and nothing that can start. -/
def engineAtRest (s : State) (t : Team) (core : Nat) : Bool :=
  let e := (coreAt s core).engine
  e.running.isNone && !e.jobRunning && !(decide (0 < e.closed) && !e.claims.isEmpty)
    && match e.queue with
       | [] => true
       | j :: _ => !mmaReady s t e j

/-- A team at rest: started copies, multiplies and jobs have finished with their tokens, and so have pod operations. -/
def atRest (s : State) (halt : Bool) (n : Nat) (t : Team) : Bool :=
  (teamGroups s n).all (fun p => groupAtRest s halt p.1 p.2)
    && s.cores.all (fun c => c.jobs.all fun j => j.team != n || !j.started)
    && (heldCores t).all (engineAtRest s t)

/-! ## Trap records (R281) -/

/-- A fault that may succeed when its instruction is executed again (R276). -/
def replayable (cause : BitVec 8) : Bool := cause == cTranslation || cause == cProtection

/-- The primary fault of a halted team. A team halted because its interface is in ERROR (R265) has none: its record's cause,
lanes and PC are free values (log 4). -/
def primaryFault (s : State) (t : Team) : FaultMark :=
  ((s.groups[t.primary]?).bind fun g => g.fault).getD
    { cause := (Config.freeValue s.draws).truncate 8, lanes := Config.freeValue (s.draws + 1), addr := 0, pc := Config.freeValue (s.draws + 2)
      underflow := false
      exc := [] }

/-- The record of a halt, with its window if there is one. -/
def trapRecord (s : State) (n : Nat) (t : Team) (window : Option (Nat × Nat)) : List Byte :=
  let f := primaryFault s t
  let many := decide (1 < (teamGroups s n).countP fun p => p.2.fault.isSome)
  let flags := bitsOf [replayable f.cause, f.underflow, many, t.protKey.isSome, t.span.isSome, window.isNone]
  let w := window.getD (0, 0)
  padTo 128
    (toLeBytes 8 t.launch.toNat ++ toLeBytes 8 t.incarn.toNat ++ teamCoords t ++ byteOf f.cause.toNat
      ++ byteOf (groupNum s t.primary) ++ byteOf flags ++ byteOf 0 ++ toLeBytes 8 f.pc.toNat ++ toLeBytes 8 f.lanes.toNat
      ++ toLeBytes 8 f.addr.toNat ++ toLeBytes 4 0 ++ toLeBytes 4 0 ++ toLeBytes 8 w.1 ++ toLeBytes 8 w.2)

/-! ## Choosing (R100, R102, R104) -/

/-- A team that is restarted when it is chosen: it holds the idempotent flag and is not halted (R291). -/
def restarts (t : Team) : Bool := t.idem && !isHalted t

/-- One team chosen: its image's place is taken, unless it is restarted; none if no save can be made. A team whose groups have all
retired is not chosen (R104). -/
def chooseOne (s : State) (n : Nat) : Option State :=
  match s.teams[n]? with
  | none => none
  | some t =>
    if !inPlace t || isSaving t || (liveGroups s n).isEmpty then some s
    else if restarts t then some (modTeam s n fun t => { t with status := .saving false })
    else (imagePlace s n t).map fun a =>
      modTeam s n fun t => { t with status := .saving (isHalted t), imageAddr := some (BitVec.ofNat 64 a) }

/-- Some teams chosen together, or none of them. -/
def chooseAll : List Nat → State → Option State
  | [], s => some s
  | n :: ns, s => (chooseOne s n).bind (chooseAll ns)

/-- A team chosen for saving; a span member with its whole span (R35, R102). -/
def chooseTeam (s : State) (n : Nat) : Option State :=
  match (s.teams[n]?).bind fun t => t.span with
  | none => chooseOne s n
  | some k => chooseAll ((spanTeams s k).filter fun m => ((s.teams[m]?).map fun t => inPlace t) == some true) s

/-- Virtual-chip pier of a package core. -/
def pierOf (c : VChip) (core : Nat) : Nat := vcCore c core / 2

/-- A team on one of some piers of its virtual chip. -/
def onPiers (s : State) (t : Team) (m : BitVec 128) : Bool :=
  let c := vchip s t.vc
  m.getLsbD (pierOf c t.coreA) || ((t.coreB.map fun b => m.getLsbD (pierOf c b)).getD false)

/-- A save that cannot be made: the team stays where it is, and a vacate reports it (R102, R287). -/
def leaveInPlace (s : State) (n : Nat) (t : Team) : State :=
  let s0 := if isHalted t then s else (teamGroups s n).foldl (fun s p => modGroup s p.1 fun g => { g with skid := 0 }) s
  let s1 := modTeam s0 n fun t => { t with status := if isHalted t then .halted else .resident, imageAddr := none }
  if onPiers s t (vchip s t.vc).vacated then modVc s1 t.vc fun c => { c with verr := true } else s1

/-! ## Completing -/

/-- A team's copies and engines taken off its cores. -/
def leaveCores (s : State) (n : Nat) (t : Team) : State :=
  let s1 := { s with cores := s.cores.map fun c => { c with jobs := c.jobs.filter fun j => j.team != n } }
  (heldCores t).foldl (fun s c => modEngine s c fun e => if e.holder == some n then Engine.init else e) s1

/-- A team with its image made joins the resume list. -/
def joinResume (s : State) (n : Nat) (t : Team) (ctr a : DWord) : State :=
  let s1 := modVc (leaveCores s n t) t.vc fun c => { c with resume := c.resume ++ [n], savectr := ctr }
  let s2 := modTeam s1 n fun t =>
    { t with
      status := .saved (isHalted t), saveCtr := ctr, imageAddr := some a, imageLen := (layoutOf s n t).len, placed := false
      mmas := (heldCores t).map fun c => (coreAt s c).engine.queue }
  teamEvent (countVc (ageReqs s2 n) t.vc 6 1) t 0 t.coreA

/-- A team's image as it is written: sealed for a protected team, if its key is still there (R287, R289). The image of a halted
team is as its trap window is, and the team keeps its window (R285). -/
def imageFor (s : State) (n : Nat) (t : Team) (ctr : DWord) : Option (List Byte) :=
  let window := t.windowBytes != 0
  let b := imageBytes s n t window ctr.toNat (if window then trapRecord s n t (some (t.windowAddr.toNat, t.windowBytes)) else [])
  match t.protKey with
  | none => some b
  | some k => (saveKey s t.vc k.toNat).map fun sk => sealImage sk b

/-- Where a team's image is written: the place taken when the team was chosen; one that was to be restarted, and has been halted
since, takes it now (R291). -/
def savePlace (s : State) (n : Nat) (t : Team) : Option DWord :=
  match t.imageAddr with
  | some a => some a
  | none => (imagePlace s n t).map fun a => BitVec.ofNat 64 a

/-- A team at rest saved; none if its image cannot be made or written. -/
def saveTeam (s : State) (n : Nat) (t : Team) : Option State :=
  let ctr := (vchip s t.vc).savectr + 1
  (savePlace s n t).bind fun a =>
    ((imageFor s n t ctr).bind (deviceWrite s t.vc a.toNat)).map fun s1 => joinResume s1 n t ctr a

/-- A team restarted (R83, R291): all its state is discarded, a new incarnation is drawn, and it joins the resume list. -/
def restartTeam (s : State) (n : Nat) (t : Team) : State :=
  let s1 := (teamGroups s n).foldl (fun s p => modGroup s p.1 fun g =>
    { g with retired := true, wait := .none, loads := [], reqs := [], fills := [], tokens := [], copies := [], emul := none, emulMask := 0, fault := none, stall := .drained }) (leaveCores s n t)
  let r := drawIncarn s1 t.vc
  let s2 := modVc r.2 t.vc fun c =>
    { c with
      resume := c.resume ++ [n]
      rlowner := dropOwner n c.rlowner
      endpoints := c.endpoints.filter fun e => match e.2 with
        | .team m _ _ _ => m != n
        | .queue _ _ _ => true }
  let s3 := modTeam s2 n fun t =>
    { t with
      status := .restarted, incarn := r.1, next := t.first, idem := t.kernel.idem, counters := [], barriers := newBarriers t.kernel
      placed := false }
  teamEvent (countVc s3 t.vc 7 1) t 2 t.coreA

/-- Teams that leave their cores together: a team alone, or the members of its span in this package that were chosen (R35, R102). -/
def leavingWith (s : State) (n : Nat) (t : Team) : List Nat :=
  match t.span with
  | none => [n]
  | some k => (spanTeams s k).filter fun m => ((s.teams[m]?).map fun t => isSaving t) == some true

/-- Whether pod operations of a team are on their way: what they bring lands before its state is discarded (DEDUCED, log 20). -/
def opsBusy (s : State) (n : Nat) : Bool := s.ops.any fun o => (teamGroups s n).any fun p => p.1 == o.group

/-- A chosen team may leave its cores: it is to be restarted, or is at rest. -/
def mayLeave (s : State) (n : Nat) : Bool :=
  match s.teams[n]? with
  | none => true
  | some t => (liveGroups s n).isEmpty || if restarts t then !opsBusy s n else atRest s false n t

/-- One of the teams that leave: restarted or saved; one whose groups have all retired stays, to retire (R104). -/
def leaveOneTeam (s : State) (n : Nat) : Option State :=
  match s.teams[n]? with
  | none => some s
  | some t =>
    if (liveGroups s n).isEmpty then some s else if restarts t then some (restartTeam s n t) else saveTeam s n t

/-- Some teams leave their cores together, or none of them. -/
def leaveTogether : List Nat → State → Option State
  | [], s => some s
  | n :: ns, s => (leaveOneTeam s n).bind (leaveTogether ns)

/-- Some teams whose save cannot be made stay where they are, all of them. -/
def stayTogether (s : State) (ns : List Nat) : State :=
  ns.foldl (fun s n => match s.teams[n]? with
    | some t => leaveInPlace s n t
    | none => s) s

/-- The completion of the saves and restarts that a chosen team takes part in, once every one of its fellows may leave. -/
def completeLeaving (s : State) (n : Nat) (t : Team) : State :=
  let ns := leavingWith s n t
  if !ns.all (mayLeave s) then s else (leaveTogether ns s).getD (stayTogether s ns)

/-- `SAVE_COMPLETE` (R287 to R289): once the team is at rest its image is written. -/
def execSaveComplete (n : Nat) (s : State) : Out :=
  match s.teams[n]? with
  | none => .next s
  | some t => if !isSaving t || restarts t || (liveGroups s n).isEmpty then .next s else .next (completeLeaving s n t)

/-- `TEAM_RESTART` (R83, R291). -/
def execTeamRestart (n : Nat) (s : State) : Out :=
  match s.teams[n]? with
  | none => .next s
  | some t => if !isSaving t || !restarts t || (liveGroups s n).isEmpty then .next s else .next (completeLeaving s n t)

/-! ## Forward progress (R100, R261) -/

/-- The virtual chip that holds a package core. -/
def ownerOf (s : State) (core : Nat) : Option Nat := s.vchips.findIdx? fun c => c.used && c.piers.getLsbD (core / 2)

/-- Kernels of the teams that wait for room: the resume list, then ready launches. -/
def waitingKernels (s : State) (v : Nat) : List Kernel :=
  ((vchip s v).resume.filterMap fun n => (s.teams[n]?).map fun t => t.kernel) ++ (readyLaunches s v).map fun l => l.kernel

/-- Whether a team of a kernel fits on a core, or on its pier. -/
def fitsOn (u : Usage) (k : Kernel) (core : Nat) : Bool :=
  (if k.pier then planOn u k (core / 2 * 2) (some (core / 2 * 2 + 1)) else planOn u k core none).isSome

/-- The candidate teams of a core (R100): the room of a reservation counts as occupied (R96). -/
def swapCandidates (s : State) (v core : Nat) : List (Nat × Team) :=
  ((mapFrom (fun n t => (n, t)) 0 s.teams).filter fun p =>
    p.2.status == .resident && p.2.span.isNone && !(liveGroups s p.1).isEmpty && (p.2.coreA == core || p.2.coreB == some core)).filter fun p =>
      (waitingKernels s v).any fun k => fitsOn (usageReserved s v [p.1]) k core

/-- The clock at which a group of a team last issued, on either of its cores, or was admitted. -/
def lastIssue (s : State) (n : Nat) : Nat := (teamGroups s n).foldl (fun m p => max m p.2.issuedAt.toNat) 0

/-- The highest `%prio` among a team's groups. -/
def teamPrio (s : State) (n : Nat) : Nat := (liveGroups s n).foldl (fun m p => max m p.2.prio.toNat) 0

/-- The team taken: lowest priority, then longest without issuing (R100). -/
def chosenTeam (s : State) : List (Nat × Team) → Option Nat
  | [] => none
  | p :: ps =>
    match chosenTeam s ps with
    | none => some p.1
    | some m =>
      if teamPrio s p.1 < teamPrio s m || (teamPrio s p.1 == teamPrio s m && decide (lastIssue s p.1 ≤ lastIssue s m)) then some p.1
      else some m

/-- `FORWARD_PROGRESS_INTERVAL` (R100): at the end of an interval in which no candidate has issued, one team is chosen. The interval
count restarts here, when the team is chosen, and not when its save or restart has completed (DESIGN CHOICE, log 20: R100 says only
"after each such swap"). -/
def execForwardProgressInterval (core : Nat) (s : State) : Out :=
  match ownerOf s core with
  | none => .next s
  | some v =>
    let c := vchip s v
    let k := coreAt s core
    if k.clock.toNat < k.fwdStart.toNat + 2 ^ c.fwdctl.toNat then .next s
    else
      let s1 := modCore s core fun x => { x with fwdStart := x.clock, heldOff := false }
      let cs := swapCandidates s v core
      let stalled := cs.all fun p =>
        decide (lastIssue s p.1 ≤ k.fwdStart.toNat) && (liveGroups s p.1).all fun g => g.2.emul.isNone
      if k.heldOff || !stalled || c.vacated.getLsbD (pierOf c core) then .next s1
      else
        match chosenTeam s cs with
        | none => .next s1
        | some n => .next ((chooseTeam s1 n).getD s1)

/-! ## Vacating piers (R101, R102) -/

/-- The piers that `VMASK0` and `VMASK1` name. -/
def namedPiers (c : VChip) : BitVec 128 := c.vmask1 ++ c.vmask0

/-- A command that is ignored: written while BUSY, or naming a pier that the virtual chip has not (R101). -/
def badVcmd (c : VChip) : Bool := c.vbusy || decide (2 ^ (vcPiers c).length ≤ (namedPiers c).toNat)

/-- Teams of a virtual chip on some piers. -/
def teamsOn (s : State) (v : Nat) (m : BitVec 128) : List Nat :=
  ((mapFrom (fun n t => (n, t)) 0 s.teams).filter fun p => p.2.vc == v && inPlace p.2 && onPiers s p.2 m).map fun p => p.1

/-- `VACATE` (R102): `VCMD` 1. -/
def execVacate (v : Nat) (s : State) : Out :=
  let c := vchip s v
  if !c.used then .next s
  else if badVcmd c then .next (modVc s v fun c => { c with verr := true })
  else
    let m := namedPiers c
    let hit := (c.reserve.map fun r => m.getLsbD (pierOf c r.core)).getD false
    let s1 := if hit then dropReserve s v else s
    let s2 := modVc s1 v fun c => { c with vacated := c.vacated ||| m, vbusy := true }
    .next ((teamsOn s2 v m).foldl (fun s n =>
      match chooseTeam s n with
      | some t => t
      | none => modVc s v fun c => { c with verr := true }) s2)

/-- `RETURN` (R102): `VCMD` 2. -/
def execReturnPiers (v : Nat) (s : State) : Out :=
  let c := vchip s v
  if !c.used then .next s
  else if badVcmd c then .next (modVc s v fun c => { c with verr := true })
  else .next (modVc s v fun c => { c with vacated := c.vacated &&& ~~~namedPiers c })

/-- `VACATE_COMPLETE` (R102): every save and restart that could be made has completed. -/
def execVacateComplete (v : Nat) (s : State) : Out :=
  let c := vchip s v
  let busy := (teamsOn s v c.vacated).any fun n => ((s.teams[n]?).map isSaving) == some true
  if !c.vbusy || busy then .next s else .next (raise (modVc s v fun c => { c with vbusy := false }) v 16)

/-- A step of a span member on another package: its save takes the members of this package with it (R102; log 12). -/
def peerInput (s : State) (k rank : Nat) (p : PeerStep) : State :=
  match p with
  | .save =>
    let s1 := peerStep s k rank .save
    (chooseAll ((spanTeams s1 k).filter fun m => ((s1.teams[m]?).map fun t => inPlace t) == some true) s1).getD s1
  | _ => peerStep s k rank p

end Sys2Proof.Machine
end

