-- ==== Sys2Proof/Machine/Trap.lean ====
section
/-!
DEFINITION. Trap records and windows, and what a handler's command does (R278 to R285).
-/

namespace Sys2Proof.Machine

/-! ## Where a record goes, and what announces it (R281) -/

/-- Where the next trap record goes; none while `TRBASE` is 0 or the record cannot be written there. -/
def recordPlace (s : State) (v : Nat) : Option Nat :=
  let c := vchip s v
  let base := field c.trbase 47 7 * 128
  let a := base + c.trtail.toNat % 2 ^ c.trsize.toNat * 128
  if base == 0 || pagedCause s v a 128 { bytes := 128, write := true } != 0 then none else some a

/-- The event record of a halt (R281, R295 type 6). -/
def haltEvent (s : State) (t : Team) (addr : Nat) : State :=
  event s t.vc 6 [(9, (primaryFault s t).cause.toNat), (10, groupNum s t.primary), (16, t.launch.toNat), (24, addr)]

/-- The window written, if it has a place. -/
def writeWindow (s : State) (n : Nat) (t : Team) : State × Option (Nat × Nat) :=
  match windowPlace s n t with
  | none => (s, none)
  | some a =>
    let len := (layoutOf s n t).len
    let b := imageBytes s n t true (vchip s t.vc).savectr.toNat (trapRecord s n t (some (a, len)))
    match deviceWrite s t.vc a b with
    | none => (s, none)
    | some s1 => (s1, some (a, len))

/-- The record written, with the interrupt and the handler's launch (R281, R283). -/
def postRecord (s : State) (n : Nat) (t : Team) (a : Nat) : State :=
  let w := writeWindow s n t
  match deviceWrite w.1 t.vc a (trapRecord s n t w.2) with
  | none => w.1
  | some s1 =>
    let c := vchip s1 t.vc
    let s2 := modVc s1 t.vc fun c =>
      { c with
        trtail := c.trtail + 1
        handlers := if c.trctl.getLsbD 1 then c.handlers ++ [(field c.trctl 7 4, BitVec.ofNat 64 a)] else c.handlers }
    let s3 := if c.trctl.getLsbD 0 then raise s2 t.vc 17 else s2
    let s4 := modTeam s3 n fun t =>
      { t with
        recordWritten := true, recordHeld := false, haltNoted := true, recordAddr := BitVec.ofNat 64 a
        windowAddr := BitVec.ofNat 64 ((w.2.map fun x => x.1).getD 0), windowBytes := (w.2.map fun x => x.2).getD 0, cmd := 0 }
    if t.haltNoted then s4 else haltEvent s4 t a

/-- `TRAP_RECORD_WRITE` (R278, R281): once the team is at rest; it waits while the ring is full, and, where the record cannot
be written, for a write of a trap register or the end of a TLB invalidation. -/
def execTrapRecordWrite (n : Nat) (s : State) : Out :=
  match s.teams[n]? with
  | none => .next s
  | some t =>
    if !inPlace t || !isHalted t || t.recordWritten || t.recordHeld || !atRest s true n t then .next s
    else
      let c := vchip s t.vc
      let s1 := (teamGroups s n).foldl (fun s p => modGroup s p.1 haltGroup) s
      match recordPlace s1 t.vc with
      | none =>
        let s2 := modTeam s1 n fun t => { t with recordHeld := true, haltNoted := true }
        .next (if t.haltNoted then s2 else haltEvent s2 t 0)
      | some a => if decide (2 ^ c.trsize.toNat ≤ (c.trtail - c.trhead).toNat) then .next s1 else .next (postRecord s1 n t a)

/-- Trap records that could not be written are tried again (R281). -/
def retryRecords (s : State) (v : Nat) : State :=
  { s with teams := s.teams.map fun t => if t.vc == v then { t with recordHeld := false } else t }

/-! ## Commands (R284, R285) -/

/-- CMD as a team's trap record holds it: 0 while it has none or it cannot be read. -/
def trapCommand (s : State) (t : Team) : Word :=
  if !t.recordWritten then 0
  else
    match deviceRead s t.vc (t.recordAddr.toNat + 0x38) 4 with
    | none => 0
    | some (_, b) => BitVec.ofNat 32 (leBytes b)

/-- The first non-zero CMD of a team's record taken up, with the window as it stands then (R284, R285). -/
def latchCommand (s : State) (n : Nat) : State :=
  match s.teams[n]? with
  | none => s
  | some t =>
    if !isHalted t || t.cmd != 0 || trapCommand s t == 0 then s
    else
      match (if t.windowBytes == 0 then none else deviceLoad s t.vc t.windowAddr.toNat t.windowBytes) with
      | none => modTeam s n fun x => { x with cmd := trapCommand s t, taken := [] }
      | some (s1, b, _) => modTeam s1 n fun x => { x with cmd := trapCommand s t, taken := b }

/-- Every command that has been performed taken up. -/
def latchCommands (s : State) : State := (List.range s.teams.length).foldl latchCommand s

/-- A halted team that a command may be given for. -/
def commandable (t : Team) : Bool := t.status == .halted || t.status == .saved true

/-- A team whose halt is over. -/
def clearHalt (s : State) (n : Nat) (st : TeamStatus) : State :=
  let s1 := (teamGroups s n).foldl (fun s p => modGroup s p.1 fun g =>
    { g with fault := none, skid := 0, fills := [], stall := restStall g }) s
  modTeam s1 n fun t =>
    { t with
      status := st, recordWritten := false, recordHeld := false, haltNoted := false, cmd := 0
      windowBytes := 0 }

/-- Every group of a team retires, and its member is detached (R40, R284). -/
def endGroups (s : State) (n : Nat) (t : Team) : State :=
  let s1 := (liveGroups s n).foldl (fun s p => retireGroup s p.1) s
  let s2 := match t.span with
    | some k => detachMember s1 k t.rank
    | none => s1
  (t.coreA :: t.coreB.toList).foldl settleJobs s2

/-- A launch's status set by a team that was ended; the first such team decides. -/
def noteStatus (s : State) (t : Team) (status : Nat) : State :=
  modLaunch s t.vc t.launch fun l => { l with status := if l.status == 0 then BitVec.ofNat 32 status else l.status }

/-- A resident halted team ended with a launch status. -/
def endHalted (s : State) (n : Nat) (t : Team) (status : Nat) : State :=
  noteStatus (clearHalt (endGroups s n t) n .resident) t status

/-- `CMD_RESUME` (R284): on an interface in ERROR the team stays halted (R265); otherwise the team continues from its
window as it stood when CMD was performed, its faulting instruction executed again; a team that is saved keeps that window for its
image (R285). A window that could not be read is refused as an image is (R290). -/
def execCmdResume (n : Nat) (s : State) : Out :=
  match s.teams[n]? with
  | none => .next s
  | some t =>
    if !commandable t || t.cmd != 1 || (vchip s t.vc).tdisp == .error then .next s
    else if t.windowBytes == 0 then .next (clearHalt s n (if t.status == .halted then .resident else .saved false))
    else if t.taken.isEmpty then
      let s1 := event s t.vc 7 [(9, 4), (16, t.launch.toNat)]
      .next (if t.status == .halted then endHalted s1 n t 0x204 else endAway s1 n t 0x204)
    else if t.status == .halted then
      .next (modTeam (clearHalt (restoreBody true n t (layoutOf s n t) t.taken s) n .resident) n fun t => { t with taken := [] })
    else .next (clearHalt s n (.saved false))

/-- `CMD_END` (R284): any value but 0 and 1 ends the team with status 0x100 and the primary cause. -/
def execCmdEnd (n : Nat) (s : State) : Out :=
  match s.teams[n]? with
  | none => .next s
  | some t =>
    let status := 0x100 + (primaryFault s t).cause.toNat
    if !commandable t || t.cmd == 0 || t.cmd == 1 then .next s
    else if t.status == .halted then .next (endHalted s n t status)
    else .next (endAway s n t status)

end Sys2Proof.Machine
end

