-- ==== Sys2Proof/Machine/Bay.lean ====
section
/-!
DEFINITION. What a bay does beside issuing: regroups (R46, R48, R52, R53, R467), boosts (R51) and samples (R296); TLB invalidation
(R141), host accesses (R161), and the event-stream switch (R292).
-/

namespace Sys2Proof.Machine

/-! ## Regroups -/

/-- The unretired groups of a bay, with their numbers in the machine. -/
def bayGroups (s : State) (core bay : Nat) : List (Nat × Group) :=
  (mapFrom (fun n g => (n, g)) 0 s.groups).filter fun p =>
    p.2.core == core && p.2.bay == bay && !p.2.retired && ((s.teams[p.2.team]?).map fun t => inPlace t) == some true

/-- Loop-buffer bundles re-formed: all running threads at one PC away from the broadcast address that hit in their loop buffers
(R46, R48); a written priority in effect (R52), a yield over (R467), and fused bundles apart (R53). -/
def regroupOne (g : Group) : Group :=
  { g with
    loops := bundlesBy (fun _ l => strays g l && (loopInstr l).isSome) g
    prio := g.prioNext.getD g.prio
    prioNext := none
    yielded := 0
    fused := [] }

/-- Set bits of a mask. -/
def setLanes (m : Mask) : Nat := ((List.range 64).filter fun i => has m i).length

/-- Two bundles that are fused (R53). -/
def fuses (s : State) (x y : Bundle) : Bool :=
  match s.groups[x.group]?, s.groups[y.group]? with
  | some a, some b =>
    match s.teams[a.team]?, s.teams[b.team]? with
    | some t, some u =>
      x.group != y.group && t.vc == u.vc && t.kernel == u.kernel && x.pc == y.pc && x.mask &&& y.mask == 0
        && decide (2 * setLanes x.mask ≤ a.width) && decide (2 * setLanes y.mask ≤ b.width)
    | _, _ => false
  | _, _ => false

/-- Pairs of bundles, each bundle in one at most. Where more than two qualify, each in turn, in the order of the groups and a
broadcast bundle before loop-buffer bundles, takes the first after it that it fits (DESIGN CHOICE, log 24: R53 does not say). -/
def fusedPairs (s : State) : List Bundle → List Bundle → List (Bundle × Bundle)
  | [], _ => []
  | a :: as, taken =>
    if taken.contains a then fusedPairs s as taken
    else
      match as.find? fun b => !taken.contains b && fuses s a b with
      | some b => (a, b) :: fusedPairs s as (b :: taken)
      | none => fusedPairs s as taken

/-- Two bundles become one until the next regroup (R53). -/
def fuse (s : State) (p : Bundle × Bundle) : State :=
  modGroup (modGroup s p.1.group fun g => { g with fused := g.fused ++ [{ own := p.1.mask, partner := p.2.group, other := p.2.mask }] })
    p.2.group fun g => { g with fused := g.fused ++ [{ own := p.2.mask, partner := p.1.group, other := p.1.mask }] }

/-- A bay regroups on the clocks that are multiples of 4 (R48), once on each. -/
def regroupDue (s : State) (core bay : Nat) : Bool :=
  let c := coreAt s core
  c.clock.toNat % 4 == 0 && c.regrouped[bay]? != some c.clock

/-- `REGROUP` (R48, R53). -/
def execRegroup (core bay : Nat) (s : State) : Out :=
  if !regroupDue s core bay then .next s
  else
    let gs := bayGroups s core bay
    let s1 := gs.foldl (fun s p => modGroup (settleOne (fun _ => 0) s p.1) p.1 regroupOne) s
    let bs := (bayGroups s1 core bay).flatMap fun p => if groupReady s1 p.2 then bundlesOf p.1 p.2 else []
    .next (modCore ((fusedPairs s1 bs []).foldl fuse s1) core fun c => { c with regrouped := listMod (fun _ => c.clock) bay c.regrouped })

/-- `WAIT_COUNT_BOOST` (R51). -/
def execWaitCountBoost (n lane : Nat) (s : State) : Out :=
  .next (modGroup s n fun g =>
    { g with lanes := listMod (fun l => if live l && decide (1024 ≤ l.waits) then { l with boosted := true } else l) lane g.lanes })

/-! ## Samples (R296, R297) -/

/-- Groups of a virtual chip that have a place in a bay: a retired group keeps its place in a span member (R14, R39). -/
def placedGroups (s : State) (v core bay : Nat) : List (Nat × Group × Team) :=
  (mapFrom (fun n g => (n, g)) 0 s.groups).filterMap fun p =>
    match s.teams[p.2.team]? with
    | none => none
    | some t =>
      if p.2.core == core && p.2.bay == bay && t.vc == v && inPlace t && (!p.2.retired || t.span.isSome) then some (p.1, p.2, t) else none

/-- How far after the place sampled last a place comes. -/
def turnsFrom (last place : Nat) : Nat := (place + 15 - last % 16) % 16

/-- The group to sample next. -/
def nextSample (last : Nat) : List (Nat × Group × Team) → Option (Nat × Group × Team)
  | [] => none
  | p :: ps =>
    match nextSample last ps with
    | none => some p
    | some q => if turnsFrom last p.2.1.place ≤ turnsFrom last q.2.1.place then some p else some q

/-- The broadcast address of a group (R42); a group with no thread to broadcast for has none, and the value is free (log 4). -/
def broadcastPc (s : State) (g : Group) : State × DWord :=
  match lowestPc (fun l => live l && l.st != .held && l.wake.isNone) g with
  | some pc => (s, pc)
  | none =>
    let r := draw s
    (r.2, r.1)

/-- Whether it is a bay's sampling clock, and no sample has been taken on it (R296). -/
def sampleDue (s : State) (v core bay : Nat) : Bool :=
  let c := coreAt s core
  let n := (vchip s v).smpN.toNat
  (vchip s v).smpEn && decide (bay < 8) && c.clock.toNat % 2 ^ n == bay * 2 ^ (n - 3) && c.sampledAt[bay]? != some c.clock

/-- `PC_SAMPLE` (R296): at the bay's sampling clock. -/
def execPcSample (core bay : Nat) (s : State) : Out :=
  match ownerOf s core with
  | none => .next s
  | some v =>
    if !sampleDue s v core bay then .next s
    else
      match nextSample (((coreAt s core).sampled[bay]?).getD 15) (placedGroups s v core bay) with
      | none => .next s
      | some (n, g, t) =>
        let r := broadcastPc s g
        let s1 := modCore r.1 core fun c =>
          { c with sampled := listMod (fun _ => g.place) bay c.sampled, sampledAt := listMod (fun _ => c.clock) bay c.sampledAt }
        .next (event s1 v 1 (sampleFields s1 g t (sampleReason s n g t) r.2))

/-! ## TLB invalidation (R141) -/

/-- 4 KiB pages of a range of a TLBINV size, as a power of two. -/
def invLog : Nat → Nat
  | 0 => 0
  | 1 => 4
  | 2 => 9
  | _ => 18

/-- Whether a held entry, pointer or leaf, lies on the path to an invalidation's range. -/
def invHits (x : TlbInv) (v : Nat) (e : TlbEntry) : Bool :=
  let k := max e.log (invLog x.size)
  e.vc == v && (x.all || e.page / 2 ^ k == x.page / 2 ^ k)

/-- `TLBINV` (R141): a write while BUSY is set is ignored. -/
def execTlbinv (v : Nat) (value : BitVec 64) (s : State) : Out :=
  let c := vchip s v
  if !c.used || c.tlbinv.isSome then .next s
  else .next (modVc s v fun c => { c with tlbinv := some { page := field value 47 12, all := value.getLsbD 2, size := field value 1 0 } })

/-- Every held entry of a virtual chip dropped. -/
def dropLeaves (s : State) (v : Nat) : State := dropTlb s fun e => e.vc == v

/-- `TLB_INVALIDATE_COMPLETE` (R141): no TLB holds an entry on the path to the range; trap records that could not be written are tried again
(R281). Accesses are performed at issue, so none is left (log 5). -/
def execTlbInvalidateComplete (v : Nat) (s : State) : Out :=
  match (vchip s v).tlbinv with
  | none => .next s
  | some x =>
    .next (retryRecords (modVc (dropTlb s (invHits x v)) v fun c => { c with tlbinv := none }) v)

/-! ## Host accesses (R161) -/

/-- Some free bytes (log 4). -/
def freeBytes : Nat → State → State × List Byte
  | 0, s => (s, [])
  | n + 1, s =>
    let r := draw s
    let q := freeBytes n r.2
    (q.1, r.1.truncate 8 :: q.2)

/-- A leaf that stands for a physical frame (log 15). -/
def frameLeaf (host : Bool) : Leaf := { entry := if host then 0x20 else 0, base := 0, log := 0 }

/-- A physical address read, line by line. -/
def frameRead (v : Nat) (host : Bool) (a n : Nat) (s : State) : State × List Byte :=
  (linePieces (n + 1) a n).foldl (fun r p =>
    let s1 := if host then leaveProt r.1 (2 ^ 52 + p.1) else moveLine (leaveProt r.1 p.1) v p.1
    (s1, r.2 ++ readN s1 (pagedKey s1 v (frameLeaf host).entry p.1) p.2)) (s, [])

/-- A physical address written, line by line. -/
def frameWrite (v : Nat) (host : Bool) : Nat → Nat → List Byte → State → State
  | 0, _, _, s => s
  | fuel + 1, a, bs, s =>
    if bs.isEmpty then s
    else
      let k := min bs.length (128 - a % 128)
      let s1 := if host then leaveProt s (2 ^ 52 + a) else moveLine (leaveProt s a) v a
      frameWrite v host fuel (a + k) (bs.drop k) (pagedStore s1 v (frameLeaf host) a (bs.take k))

/-- `HOST_ACCESS` (R161): performed in order, at chip scope. A flush acts on the line as `CFLUSH` does (R155, R361). A load that fails its checks, or of poisoned bytes, returns free
bytes, and such a store does nothing (log 15). -/
def execHostAccess (v : Nat) (addr : BitVec 64) (access : HostAccess) (s : State) : Out :=
  if !(vchip s v).used then .next s
  else
    match access with
    | .store bs => .next ((deviceWrite s v addr.toNat bs).getD s)
    | .load n =>
      match deviceRead s v addr.toNat n with
      | some (s1, bs) => .next { s1 with hostRead := bs }
      | none =>
        let r := freeBytes n s
        .next { r.1 with hostRead := r.2 }
    | .flush =>
      .next (match translate s v addr with
        | some l =>
          if pagedCause s v addr.toNat 1 { bytes := 1 } == 0 then
            flushAt (holdLeaf s v addr l) l.entry (lineAddr l.entry (leafAddr l addr))
          else s
        | none => s)
    | .storeFrame host bs => .next (frameWrite v host (bs.length + 1) addr.toNat bs s)
    | .loadFrame host n =>
      let r := frameRead v host addr.toNat n s
      .next { r.1 with hostRead := r.2 }

/-! ## Storage errors (R158 to R160) -/

/-- What an uncorrectable error leaves: poison, or a line in metadata error, whose data words are poisoned as well. A clean line and
a TLB entry are fetched again when they are next used. -/
def spoil (s : State) : StorageSpot → State
  | .unit k => poisonUnit s k
  | .cleanL2 _ => s
  | .lineMeta k =>
    (List.range 16).foldl (fun s i => poisonUnit s (k / 128 * 128 + 8 * i)) (setLine s k { lineAt s k with err := true })
  | .clean core n => modCore s core fun c => { c with l1 := c.l1.filter fun m => m != n, icache := c.icache.filter fun m => m != n }
  | .held die v page => dropTlb s fun e => e.die == die && e.vc == v && e.page / 2 ^ e.log == page / 2 ^ e.log
  | .vector n i r => modGroup s n fun g => { g with lanes := listMod (fun l => { l with vpois := putBit l.vpois r.toNat true }) i g.lanes }
  | .scalar n r => modGroup s n fun g => poisonS g r
  | .predicate n i p =>
    modGroup s n fun g => { g with lanes := listMod (fun l => { l with ppois := l.ppois ||| BitVec.twoPow 7 p.toNat }) i g.lanes }

/-- Storage that parity guards: what is found wrong in it is dropped whether or not the error counts as corrected (R158). -/
def refetched : StorageSpot → Bool
  | .clean _ _ => true
  | .cleanL2 _ => true
  | .held _ _ _ => true
  | _ => false

/-- The virtual chip of a group. -/
def groupChip (s : State) (n : Nat) : List Nat :=
  ((s.groups[n]?).bind fun g => (s.teams[g.team]?).map fun t => t.vc).toList

/-- The virtual chips that a line of HBM is granted to. -/
def frameChips (s : State) (pa : Nat) : List Nat := (List.range s.vchips.length).filter fun v => granted (vchip s v) pa 1 false

/-- The virtual chips whose storage a spot is: an error there is reported to one of them, and to none other (R160). A frame that
several hold is the storage of each. -/
def spotChips (s : State) : StorageSpot → List Nat
  | .unit k =>
    let pa := keyOff k
    if keySpace k == spaceCode .bank then [pa / 2 ^ 40]
    else if keySpace k == spaceCode .scratch then (ownerOf s (pa / 2 ^ 40)).toList
    else if keySpace k == spaceCode .counted || keySpace k == spaceCode .prot then [(l2At s pa).vc]
    else if keySpace k == spaceCode .hbm || keySpace k == spaceCode .unbacked then frameChips s pa
    else []
  | .lineMeta k => if keySpace k == spaceCode .scratch then (ownerOf s (keyOff k / 2 ^ 40)).toList else []
  | .clean core _ => (ownerOf s core).toList
  | .cleanL2 pa => frameChips s pa
  | .held _ v _ => [v]
  | .vector n _ _ => groupChip s n
  | .scalar n _ => groupChip s n
  | .predicate n _ _ => groupChip s n

/-- The storage kind of a spot: its row of R158's table, counted from 0. -/
def spotKind : StorageSpot → Nat
  | .unit k =>
    if keySpace k == spaceCode .scratch then 2
    else if keySpace k == spaceCode .hbm || keySpace k == spaceCode .unbacked then 5 else 1
  | .lineMeta _ => 3
  | .clean _ _ => 0
  | .cleanL2 _ => 0
  | .held _ _ _ => 0
  | _ => 4

/-- The package core that a spot belongs to. -/
def spotCore (s : State) : StorageSpot → Option Nat
  | .unit k => if keySpace k == spaceCode .scratch then some (keyOff k / 2 ^ 40) else none
  | .lineMeta k => some (keyOff k / 2 ^ 40)
  | .clean core _ => some core
  | .vector n _ _ => (s.groups[n]?).map fun g => g.core
  | .scalar n _ => (s.groups[n]?).map fun g => g.core
  | .predicate n _ _ => (s.groups[n]?).map fun g => g.core
  | _ => none

/-- The physical address of a spot. Where it has none, the record's location has no form in the spec, and the model draws a free
value (log 4). -/
def spotAddr (s : State) (spot : StorageSpot) : State × Nat :=
  let free : State × Nat := let r := draw s; (r.2, r.1.toNat)
  match spot with
  | .unit k => if spotKind spot == 5 || keySpace k == spaceCode .counted || keySpace k == spaceCode .prot then (s, keyOff k % 2 ^ 52) else free
  | .cleanL2 pa => (s, pa)
  | _ => free

/-- A storage error found (R158, R160): counted, shown in `MEMSTAT` and recorded, for the virtual chip whose storage it is. -/
def storageError (s : State) (v : Nat) (unc : Bool) (spot : StorageSpot) : State :=
  if !(spotChips s spot).contains v then s
  else
    let a := spotAddr s spot
    let core := ((spotCore s spot).map (vcCore (vchip s v))).getD 0
    let rec_ (s : State) : State := event s v 4 [(9, if unc then 1 else 0), (10, spotKind spot), (11, core % 256), (16, a.2)]
    if unc then
      let s1 := countVc (spoil a.1 spot) v 2 1
      let s2 := if (vchip s1 v).memUe then s1 else raise s1 v 19
      rec_ (modVc s2 v fun c => { c with memUe := true })
    else rec_ (modVc (countVc (if refetched spot then spoil a.1 spot else a.1) v 1 1) v fun c => { c with memCe := true })

/-! ## Event streams (R292, R295) -/

/-- The writable bits of `EVCTL`. -/
def evctlMask : DWord := 0x0000FFFF00000003

/-- A write of `EVCTL`: EN from 0 to 1 sets head, tail and drop count to 0. -/
def putEvctl (value : DWord) (t : Stream) : Stream :=
  let t1 := { t with ctl := value &&& evctlMask }
  if value.getLsbD 0 && !t.ctl.getLsbD 0 then { t1 with head := 0, tail := 0, drop := 0, sinceSummary := 0 } else t1

/-- Whether a function answers on the host link (R301): 0 from power good, v + 1 while slot v is in use. -/
def answers (s : State) : Nat → Bool
  | 0 => s.pkgStat != 0
  | v + 1 => (vchip s v).used

/-- A function's event stream changed. -/
def modStream (s : State) (fn : Nat) (f : Stream → Stream) : State :=
  match fn with
  | 0 => { s with pkgStream := f s.pkgStream }
  | v + 1 => modVc s v fun c => { c with stream := f c.stream }

/-- `EVENT_STREAM_ENABLE` (R292). -/
def execEventStreamEnable (fn : Nat) (value : BitVec 64) (s : State) : Out :=
  .next (if answers s fn then modStream s fn (putEvctl value) else s)

end Sys2Proof.Machine
end

