-- ==== Sys2Proof/Machine/Fp64.lean ====
section
/-!
DEFINITION. The FP64 instructions, MAJ 0x3C to 0x3F (R286, R335, R370 to R372): issue parks the group for emulation;
`EMULATION_COMPLETE` performs the instruction and returns the group to its bay.
-/

namespace Sys2Proof.Machine

/-- A binary64 operand of a pair (R370; DAZ applies). -/
def f64Of (env : FpEnv) (l : Lane) (r : BitVec 6) : FVal := unpack f64 env.daz (readPair l r).toNat

/-- A binary64 result in a pair, with its exceptions. -/
def putD (d : BitVec 6) (l : Lane) (r : FRes) : Lane × BitVec 5 := (writePair l d (BitVec.ofNat 64 r.code), r.flags)

/-- What an FP64 instruction does in a lane (R371, R372). -/
def fp64Lane (i : Instr) (env : FpEnv) (l : Lane) : Lane × BitVec 5 :=
  match i with
  | .dadd _ _ b a d => putD d l (fAddV f64 env (f64Of env l a) (f64Of env l b))
  | .dsub _ _ b a d => putD d l (fAddV f64 env (f64Of env l a) (negV (f64Of env l b)))
  | .dmul _ _ b a d => putD d l (fMulV f64 env (f64Of env l a) (f64Of env l b))
  | .dfma _ _ b a d => putD d l (fFmaV f64 env (f64Of env l a) (f64Of env l b) (f64Of env l d))
  | .ddiv _ _ b a d => putD d l (fDivV f64 env (f64Of env l a) (f64Of env l b))
  | .dsqrt _ _ a d => putD d l (fSqrtV f64 env (f64Of env l a))
  | .dcvt s _ _ a d =>
    if s = 0#1 then putF d l (fConv f64 f32 env (readPair l a).toNat) else putD d l (fConv f32 f64 env (readV l a).toNat)
  | _ => (l, 0)

/-- An FP64 instruction passes its checks and parks its group, with the bundle that it acts for (R286, R370). -/
def parkFp64 (i : Instr) (s : State) : Out :=
  issue i s fun c => onGroup s c fun g => { g with emul := some i, emulMask := c.b.mask, wait := .emulation, stall := .emulation }

/-- `DADD` (R371). -/
def execDadd (n : BitVec 1) (g : BitVec 3) (b a d : BitVec 6) (s : State) : Out := parkFp64 (.dadd n g b a d) s

/-- `DSUB` (R371). -/
def execDsub (n : BitVec 1) (g : BitVec 3) (b a d : BitVec 6) (s : State) : Out := parkFp64 (.dsub n g b a d) s

/-- `DMUL` (R371). -/
def execDmul (n : BitVec 1) (g : BitVec 3) (b a d : BitVec 6) (s : State) : Out := parkFp64 (.dmul n g b a d) s

/-- `DFMA` (R371). -/
def execDfma (n : BitVec 1) (g : BitVec 3) (b a d : BitVec 6) (s : State) : Out := parkFp64 (.dfma n g b a d) s

/-- `DDIV` (R372). -/
def execDdiv (n : BitVec 1) (g : BitVec 3) (b a d : BitVec 6) (s : State) : Out := parkFp64 (.ddiv n g b a d) s

/-- `DSQRT` (R372). -/
def execDsqrt (n : BitVec 1) (g : BitVec 3) (a d : BitVec 6) (s : State) : Out := parkFp64 (.dsqrt n g a d) s

/-- `DCVT` (R372). -/
def execDcvt (x n : BitVec 1) (g : BitVec 3) (a d : BitVec 6) (s : State) : Out := parkFp64 (.dcvt x n g a d) s

/-- The context of a parked group of a team in its place: its bundle still stands at the instruction. -/
def emulCtx (s : State) (n : Nat) : Option (Instr × Ctx) := do
  let g ← s.groups[n]?
  let i ← g.emul
  let t ← (s.teams[g.team]?).filter inPlace
  let vc ← s.vchips[t.vc]?
  let l ← g.lanes.zipIdx.find? fun p => has g.emulMask p.2
  some (i, { b := { group := n, pc := l.1.pc, mask := g.emulMask, broadcast := true, other := 0, second := false },
             g := { g with emul := none, emulMask := 0, wait := .none }, t := t, vc := vc })

/-- `EMULATION_COMPLETE` (R286): the result under the group's `%fpctl`, or the arithmetic fault, precisely. -/
def execEmulationComplete (n : Nat) (s : State) : Out :=
  match emulCtx s n with
  | none => .next s
  | some (i, c) =>
    let s1 := onGroup s c fun _ => c.g
    let m := acting c i
    let f := fp64Lane i (envOf c.g)
    let exc := laneExc m f c.g
    let bad := trapLanes (fpEnables c.g) 0 exc
    .next (if bad != 0 then arithFault s1 c bad exc else issued i c (onGroup s1 c (floatLanes m f)))

end Sys2Proof.Machine
end

