-- ==== Sys2Proof/Machine/Hyper.lean ====
section
/-!
DEFINITION. The hypervisor's commands (R253, R254), the abutment tables (R255, R259), link key slots (R267), frame ranges (R498),
and the ERROR state of a device interface (R265).
-/

namespace Sys2Proof.Machine

/-! ## Commands (R253) -/

/-- Argument register n. -/
def hvArg (s : State) (n : Nat) : DWord := (s.hvarg.toList[n]?).getD 0

/-- A command that has run: BUSY until `HV_COMMAND_COMPLETE`. -/
def hvDone (s : State) : State := { s with hvbusy := true, hvrun := some .done }

/-- A command that fails changes nothing but ERR. -/
def hvFail (s : State) (err : Nat) : State := hvDone { s with hverr := BitVec.ofNat 8 err }

/-- A command written to `HVOP`: ignored with ERR 1 while BUSY; refused with ERR 4 outside full service (R302). -/
def hvCommand (s : State) (k : State → State) : State :=
  if s.pkgStat == 0 then s
  else if s.hvbusy then { s with hverr := 1 }
  else if s.pkgStat != 3 then hvFail s 4
  else k s

/-- `HV_COMMAND_COMPLETE` (R253, R301): BUSY clears and vector 0 of function 0 is raised. A frame range is set, and every held
leaf of its virtual chip dropped, before that (R498). An abutment write is completed by `ABUTMENT_REWRITE`. -/
def execHvCommandComplete (s : State) : Out :=
  let clear (s : State) : State := { s with hvbusy := false, hvrun := none, raised0 := s.raised0 ++ [0] }
  match s.hvrun with
  | some .done => .next (clear s)
  | some (.frames v r x) =>
    .next (clear (retryRecords (dropLeaves (modVc s v fun c => { c with frames := listMod (fun _ => x) r c.frames }) v) v))
  | _ => .next s

/-! ## Virtual chips (R4, R144, R145, R254) -/

/-- Ways asked for beside the other virtual chips': 0, or the error (R144). -/
def wayError (s : State) (skip : Nat) (c b p : Nat) : Nat :=
  let others := (mapFrom (fun n x => if n == skip || !x.used then 0 else x.cacheWays + x.bankWays + x.protWays) 0 s.vchips).foldl (fun a b => a + b) 0
  if c < 1 then 2 else if 16 < others + c + b + p then 3 else 0

/-- Way counts of argument 3. -/
def argWays (s : State) : Nat × Nat × Nat := (field (hvArg s 3) 4 0, field (hvArg s 3) 12 8, field (hvArg s 3) 20 16)

/-- The feature mask of argument 3. -/
def argFeatures (s : State) : BitVec 4 := BitVec.ofNat 4 (field (hvArg s 3) 51 48)

/-- A virtual chip made in a slot, its bank memory cleared (R145). -/
def makeVc (s : State) (v g : Nat) (piers : BitVec 128) (w : Nat × Nat × Nat) (features : BitVec 4) : State :=
  modVc (clearN s (bankKey v 0) (2 ^ 40)) v fun _ =>
    { VChip.init with used := true, guest := g, piers := piers, cacheWays := w.1, bankWays := w.2.1, protWays := w.2.2, features := features }

/-- Operation 1. -/
def hvCreate (s : State) : State :=
  let v := field (hvArg s 0) 3 0
  let piers : BitVec 128 := hvArg s 2 ++ hvArg s 1
  let w := argWays s
  if (vchip s v).used then hvFail s 4
  else if piersBelow piers 128 < 2 then hvFail s 2
  else if s.vchips.any fun c => c.used && c.piers &&& piers != 0 then hvFail s 3
  else
    match wayError s 16 w.1 w.2.1 w.2.2 with
    | 0 => hvDone (makeVc s v (field (hvArg s 0) 11 8) piers w (argFeatures s))
    | e => hvFail s e

/-- `CREATE` (R254). -/
def execCreate (s : State) : Out := .next (hvCommand s hvCreate)

/-- Operation 2. -/
def hvDestroy (s : State) : State :=
  let v := field (hvArg s 0) 3 0
  if !(vchip s v).used then hvFail s 4 else hvDone (destroyVc s v)

/-- `DESTROY` (R254, R155, R270). -/
def execDestroy (s : State) : Out := .next (hvCommand s hvDestroy)

/-! ## The ERROR state (R265) -/

/-- A resident team that has not retired halted without a fault. -/
def haltTeam (s : State) (n : Nat) : State :=
  match s.teams[n]?, liveGroups s n with
  | some t, p :: ps =>
    if inPlace t then
      modTeam ((p :: ps).foldl (fun s p => modGroup s p.1 fun g => { g with stall := .trapHalt }) s) n (haltedBy p.1)
    else s
  | _, _ => s

/-- An interface enters ERROR: every resident team halts, and its key slots are revoked and discarded. -/
def enterError (s : State) (v : Nat) : State :=
  let s1 := ((List.range s.teams.length).filter fun n => ((s.teams[n]?).map fun t => t.vc) == some v).foldl haltTeam s
  (grantedSlots s1 v).foldl revokeDiscard (modVc s1 v fun c => { c with tdisp := .error })

/-- A configuration command that has been done on an interface in CONFIG_LOCKED or RUN moves it to ERROR. -/
def breakLock (s : State) (v : Nat) : State :=
  let d := (vchip s v).tdisp
  if d == .configLocked || d == .run then enterError s v else s

/-- Operation 3. Lines that the ways have no room for any more leave them; bank memory keeps what it holds (log 18). -/
def hvWays (s : State) : State :=
  let v := field (hvArg s 0) 3 0
  let w := argWays s
  if !(vchip s v).used || s.teams.any (fun t => t.vc == v && inPlace t) then hvFail s 4
  else
    match wayError s v w.1 w.2.1 w.2.2 with
    | 0 => hvDone (breakLock (fitWays (modVc s v fun c => { c with cacheWays := w.1, bankWays := w.2.1, protWays := w.2.2 }) v) v)
    | e => hvFail s e

/-- `WAYS` (R144, R254). -/
def execWays (s : State) : Out := .next (hvCommand s hvWays)

/-- Operation 8. -/
def hvFeatures (s : State) : State :=
  let v := field (hvArg s 0) 3 0
  if !(vchip s v).used then hvFail s 4
  else
    let f := argFeatures s
    hvDone (breakLock (modVc s v fun c => { c with features := f }) v)

/-- `FEATURES` (R274). -/
def execFeatures (s : State) : Out := .next (hvCommand s hvFeatures)

/-- Operation 10: the range is set when the command completes. -/
def hvFrames (s : State) : State :=
  let a := hvArg s 0
  let v := field a 3 0
  let base := field (hvArg s 1) 51 12 * 4096
  let size := field (hvArg s 2) 51 12 * 4096
  if !(vchip s v).used then hvFail s 4
  else if a.getLsbD 16 && (size == 0 || decide (2 ^ 52 < base + size)) then hvFail s 2
  else
    let x : FrameRange := { base := base, size := size, valid := a.getLsbD 16, h := a.getLsbD 17 }
    breakLock { s with hvbusy := true, hvrun := some (.frames v (field a 11 8) x) } v

/-- `FRAME_RANGE` (R498). -/
def execFrameRange (s : State) : Out := .next (hvCommand s hvFrames)

/-! ## Key slots (R254, R266, R270) -/

/-- The slot and the virtual chip that a key-slot command names. -/
def argKey (s : State) : Nat × Nat := (field (hvArg s 0) 5 0, field (hvArg s 0) 11 8)

/-- Who holds a key slot. -/
def slotOwner (s : State) (k : Nat) : Option Nat := (s.keys[k]?).bind fun x => x.granted

/-- Action 0: a grant of a slot already granted to the virtual chip changes nothing. -/
def hvGrant (s : State) : State :=
  let a := argKey s
  if !(vchip s a.2).used then hvFail s 4
  else
    match slotOwner s a.1 with
    | some w => if w == a.2 then hvDone s else hvFail s 2
    | none => hvDone (breakLock { s with keys := listMod (fun k => { k with granted := some a.2 }) a.1 s.keys } a.2)

/-- Actions 1 and 2. -/
def hvRevoke (f : State → Nat → State) (s : State) : State :=
  let a := argKey s
  if !(vchip s a.2).used then hvFail s 4
  else if slotOwner s a.1 != some a.2 then hvFail s 2
  else hvDone (f s a.1)

/-- `KEY_SLOT_GRANT` (R254). -/
def execKeySlotGrant (s : State) : Out := .next (hvCommand s hvGrant)

/-- `KEY_SLOT_REVOKE_SEAL` (R270). -/
def execKeySlotRevokeSeal (s : State) : Out := .next (hvCommand s (hvRevoke revokeSeal))

/-- `KEY_SLOT_REVOKE_DISCARD` (R270). -/
def execKeySlotRevokeDiscard (s : State) : Out := .next (hvCommand s (hvRevoke revokeDiscard))

/-- Operation 6, whatever its action: action 3 is invalid. -/
def hvKeySlot (s : State) : State :=
  match field (hvArg s 0) 17 16 with
  | 0 => hvGrant s
  | 1 => hvRevoke revokeSeal s
  | 2 => hvRevoke revokeDiscard s
  | _ => if (vchip s (argKey s).2).used then hvFail s 2 else hvFail s 4

/-! ## Guests (R254, R272) -/

def modGuest (s : State) (g : Nat) (f : Guest → Guest) : State := { s with guests := listMod f g s.guests }

/-- Operation 4. -/
def hvGuest (s : State) : State :=
  let n := field (hvArg s 1) 10 0
  if n == 0 || decide (1024 < n) then hvFail s 2 else hvDone (modGuest s (field (hvArg s 0) 3 0) fun g => { g with vlim := n })

/-- `GUEST` (R254). -/
def execGuest (s : State) : Out := .next (hvCommand s hvGuest)

/-- Operation 7: the list has 64 words. -/
def hvAllow (s : State) : State :=
  let w := field (hvArg s 0) 11 4
  let x := hvArg s 1
  if 64 ≤ w then hvFail s 2 else hvDone (modGuest s (field (hvArg s 0) 3 0) fun g => { g with allow := tput g.allow w x })

/-- `ALLOW_LIST` (R272). -/
def execAllowList (s : State) : Out := .next (hvCommand s hvAllow)

/-! ## Link keys (R267) -/

/-- A link key slot erased. -/
def eraseLink (s : State) (slot : Nat) : State := { s with linkKeys := s.linkKeys.filter fun e => e.1 / 1024 != slot }

/-- Whether a guest holds the grant of a link key slot. -/
def linkGranted (g : Guest) (slot : Nat) : Bool := decide (g.linkFirst ≤ slot) && decide (slot < g.linkFirst + g.linkCount)

/-- The link key of a virtual chip toward VCN b, placed in a slot. -/
def fillLink (slot b : Nat) (s : State) (v : Nat) : State :=
  match namedVcn s v, (vchip s v).groupKey with
  | some a, some k =>
    if a == b then s
    else { s with linkKeys := tput s.linkKeys (slot * 1024 + a) (BitVec.ofNat 256 (leBytes (pairKey k a b))) }
  | _, _ => s

/-- The slot of an entry filled for VCN b of a guest. -/
def fillSlot (s : State) (g b : Nat) (e : DWord) : State := (guestChips s g).foldl (fillLink (vcnKs e) b) (eraseLink s (vcnKs e))

/-- Every slot of a guest's enabled entries that it still holds the grant of filled again. -/
def refillLinks (s : State) (g : Nat) : State :=
  let x := (s.guests[g]?).getD Guest.init
  x.vcns.foldl (fun s e => if vcnV e.2 && vcnEn e.2 && linkGranted x (vcnKs e.2) then fillSlot s g e.1 e.2 else s) s

/-- Operation 9: slots no longer granted are erased. -/
def hvLinks (s : State) : State :=
  let n := field (hvArg s 0) 3 0
  let first := field (hvArg s 0) 15 8
  let count := field (hvArg s 0) 24 16
  let slots := (List.range count).map fun i => first + i
  let held := (mapFrom (fun i g => (i, g)) 0 s.guests).any fun p => p.1 != n && slots.any (linkGranted p.2)
  if 256 < count || (count != 0 && decide (256 < first + count)) || held then hvFail s 2
  else
    let old := (s.guests[n]?).getD Guest.init
    let lost := ((List.range old.linkCount).map fun i => old.linkFirst + i).filter fun x => !slots.contains x
    hvDone (modGuest (lost.foldl eraseLink s) n fun g => { g with linkFirst := first, linkCount := count })

/-- `LINK_KEY_SLOTS` (R254). -/
def execLinkKeySlots (s : State) : Out := .next (hvCommand s hvLinks)

/-! ## Abutment writes (R255, R259) -/

/-- Guest, table, index and word of argument 0. -/
def argTable (a : DWord) : Nat × Nat × Nat × Nat := (field a 3 0, field a 9 8, field a 25 16, field a 31 28)

/-- What an abutment write may name: an entry of its table, and a link key slot that is granted to the guest (R255, R267). -/
def tableOk (s : State) (a value : DWord) : Bool :=
  let x := argTable a
  match x.2.1 with
  | 0 => linkGranted ((s.guests[x.1]?).getD Guest.init) (vcnKs value)
  | 1 => decide (x.2.2.1 < 64)
  | 2 => decide (x.2.2.1 < 256)
  | _ => false

/-- Operation 5 begins: admission of the guest's operations stops (R259 step 1). -/
def hvAbutment (s : State) : State :=
  let a := hvArg s 0
  let x := hvArg s 1
  if !tableOk s a x then hvFail s 2
  else
    { modGuest s (argTable a).1 fun g => { g with paused := true } with
      hvbusy := true, hvrun := some (.abutment (argTable a).1 a x s.time.toNat) }

/-- `ABUTMENT_WRITE` (R259). -/
def execAbutmentWrite (s : State) : Out := .next (hvCommand s hvAbutment)

/-- A word of a table rewritten in both copies; reserved bits read as zero. -/
def putTable (s : State) (a value : DWord) : State :=
  let x := argTable a
  match x.2.1 with
  | 0 =>
    let old := vcnEntry ((s.guests[x.1]?).getD Guest.init) x.2.2.1
    let e := value &&& 0xFFFFFF0000000000
    let s1 := modGuest s x.1 fun g => { g with vcns := if e == 0 then tdel g.vcns x.2.2.1 else tput g.vcns x.2.2.1 e }
    if vcnV e && vcnEn e then fillSlot s1 x.1 x.2.2.1 e else if !vcnV e && vcnV old && linkGranted ((s.guests[x.1]?).getD Guest.init) (vcnKs old) then eraseLink s1 (vcnKs old) else s1
  | 1 => modGuest s x.1 fun g => { g with mcast := tput g.mcast (x.2.2.1 * 16 + x.2.2.2) value }
  | _ => modGuest s x.1 fun g => { g with labels := tput g.labels x.2.2.1 (value.truncate 8 &&& 0xC7) }

/-- Operations of a guest that are not complete: of its pod instructions and of its span window (R136, R259). -/
def guestOps (s : State) (g : Nat) : List PodOp := s.ops.filter fun o => (vchip s o.vc).guest == g

/-- An operation cut off: its queued flits, though not its replies to others, are dropped, and its remaining pieces fail with KIND 6
(R259 step 3). -/
def cutOp (s : State) (o : PodOp) : State :=
  let mine (f : Flit) : Bool := f.tag == o.tag && f.spkg.toNat == s.pkg && f.sslot.toNat == o.vc && !isReply f.op && (f.run.map fun r => r.replies) != some true
  failOp { s with egress := s.egress.filter fun e => !mine e.flit } o.tag 6

/-- The record of an entry changed, for each interface of the guest in RUN (R265). -/
def changeRecords (s : State) (g index : Nat) : State :=
  ((guestChips s g).filter fun v => (vchip s v).tdisp == .run).foldl (fun s v => event s v 9 [(9, 0), (10, index)]) s

/-- `ABUTMENT_REWRITE` (R259 steps 3 and 4): once the guest's operations are complete, or after 1 ms. -/
def execAbutmentRewrite (s : State) : Out :=
  match s.hvrun with
  | some (.abutment g a value start) =>
    let left := guestOps s g
    if !left.isEmpty && decide (s.time.toNat < start + 1000000) then .next s
    else
      let s1 := putTable (left.foldl cutOp s) a value
      .next (hvDone (modGuest (changeRecords s1 g (argTable a).2.2.1) g fun x => { x with paused := false }))
  | _ => .next s

/-- An operation code written to `HVOP`: one that names no command is a bad argument (ERR 2). -/
def hvOp (op : Nat) (s : State) : State :=
  match op with
  | 1 => hvCreate s
  | 2 => hvDestroy s
  | 3 => hvWays s
  | 4 => hvGuest s
  | 5 => hvAbutment s
  | 6 => hvKeySlot s
  | 7 => hvAllow s
  | 8 => hvFeatures s
  | 9 => hvLinks s
  | 10 => hvFrames s
  | _ => hvFail s 2

end Sys2Proof.Machine
end

