-- ==== Sys2Proof/Machine/Lanes.lean ====
section
/-!
DEFINITION. The lane and group instructions, MAJ 0x40 to 0x47 (R58 to R60, R127 to R129, R336).
-/

namespace Sys2Proof.Machine

/-- A convergent instruction that gives each lane of the executing mask a change of its own. -/
def convLanes (i : Instr) (f : Ctx → Nat → Lane → Lane) (s : State) : Out :=
  issueConv i s fun c s => laneOp i (f c) c s

/-- Source lane of `SHFL` (R450). -/
def shflSource (f : BitVec 2) (width i : Nat) (n : Word) : Nat :=
  if f = 0#2 then n.toNat % width
  else if f = 1#2 then (BitVec.ofNat 32 i - n).toNat
  else if f = 2#2 then (BitVec.ofNat 32 i + n).toNat
  else (BitVec.ofNat 32 i ^^^ n).toNat

/-- `SHFL` (R450). -/
def execShfl (f : BitVec 2) (b a d : BitVec 6) (s : State) : Out :=
  convLanes (.shfl f b a d) (fun c i l =>
    let src := shflSource f c.g.width i (readV l b)
    writeV l d (if decide (src < c.g.width) && has c.b.mask src then readV (laneAt c.g src) a else readV l a)) s

/-- Lanes of the executing mask in which a predicate holds. -/
def votes (c : Ctx) (p : BitVec 3) : Mask := c.b.mask &&& laneMask c.g fun _ l => readP l p

/-- `VOTE.all` and `VOTE.any` (R465). -/
def execVote (f : BitVec 1) (a d : BitVec 3) (s : State) : Out :=
  convLanes (.vote f a d) (fun c _ l =>
    writeP l d (if f = 0#1 then votes c a == c.b.mask else votes c a != 0)) s

/-- `VOTE.ballot` (R465): the scalar is written once. -/
def execVoteBallot (a : BitVec 3) (d : BitVec 6) (s : State) : Out :=
  issueConv (.voteBallot a d) s fun c s =>
    issued (.voteBallot a d) c (onGroup s c fun g => writeS g d (votes c a))

/-- A node of the tree of R127: its value, if some leaf below it is present, and the exceptions of its combinations. -/
abbrev Node := Option Word × BitVec 5

/-- Two nodes combined: a node with one absent child takes the other's value unchanged (R127). -/
def joinNodes (f : Word → Word → Word × BitVec 5) (x y : Node) : Node :=
  match x.1, y.1 with
  | some a, some b => (some (f a b).1, x.2 ||| y.2 ||| (f a b).2)
  | some a, none => (some a, x.2 ||| y.2)
  | none, r => (r, x.2 ||| y.2)

/-- One level of the tree. -/
def pairNodes (f : Word → Word → Word × BitVec 5) : List Node → List Node
  | a :: b :: t => joinNodes f a b :: pairNodes f t
  | l => l

/-- The root over 2^n leaves or fewer. -/
def treeRoot (f : Word → Word → Word × BitVec 5) : Nat → List Node → Node
  | 0, l => (l.head?).getD (none, 0)
  | n + 1, l => treeRoot f n (pairNodes f l)

/-- The combination of the first n leaves by the aligned blocks of the set bits of n, from block size 2^k down (R128). -/
def scanBlocks (f : Word → Word → Word × BitVec 5) (leaves : List Node) (n : Nat) : Nat → Nat → Node → Node
  | 0, pos, acc => if n % 2 = 1 then joinNodes f acc (treeRoot f 0 ((leaves.drop pos).take 1)) else acc
  | k + 1, pos, acc =>
    let size := 2 ^ (k + 1)
    if n / size % 2 = 1 then scanBlocks f leaves n k (pos + size) (joinNodes f acc (treeRoot f (k + 1) ((leaves.drop pos).take size)))
    else scanBlocks f leaves n k pos acc

/-- The leaves of a register: lanes outside the executing mask are absent. -/
def leavesOf (c : Ctx) (a : BitVec 6) : List Node :=
  mapFrom (fun i l => (if has c.b.mask i then some (readV l a) else none, (0 : BitVec 5))) 0 c.g.lanes

/-- A float combination as a word and its exceptions. -/
def floatPair (r : FRes) : Word × BitVec 5 := (BitVec.ofNat 32 r.code, r.flags)

/-- One combination of `REDUX` and `SCAN`: operation f, type t (R440). -/
def combine (f t : BitVec 2) (env : FpEnv) (x y : Word) : Word × BitVec 5 :=
  if t = 2#2 then
    let a := f32Of env x
    let b := f32Of env y
    floatPair (if f = 0#2 then addF env a b else if f = 1#2 then minF env a b else maxF env a b)
  else if f = 0#2 then (x + y, 0)
  else
    let less := if t = 0#2 then x.slt y else x.ult y
    (if f = 1#2 then (if less then x else y) else (if less then y else x), 0)

/-- What an exclusive scan gives a lane with no live lane below it (R128, R447). -/
def emptyScan (f t : BitVec 2) : Word :=
  if f = 0#2 then 0
  else if t = 2#2 then (if f = 1#2 then 0x7F800000 else 0xFF800000)
  else if t = 0#2 then (if f = 1#2 then 0x7FFFFFFF else 0x80000000)
  else (if f = 1#2 then 0xFFFFFFFF else 0)

/-- A convergent combination: each lane's value and the exceptions it needed; for floats the flags or the fault, whose lanes
are the whole executing mask with the union of the exceptions (R440). -/
def convCombine (i : Instr) (t : BitVec 2) (d : BitVec 6) (f : Ctx → Nat → Node) (empty : Word) (s : State) : Out :=
  issueConv i s fun c s =>
    let x := orFlags ((lanesOfMask c).map fun k => (f c k).2)
    if t == 2#2 && (x &&& fpEnables c.g) != 0 then
      arithFault s c c.b.mask (mapFrom (fun k _ => if has c.b.mask k then x else 0) 0 c.g.lanes)
    else
      issued i c (onGroup s c fun g =>
        { onLanes c.b.mask (fun k l => writeV l d ((f c k).1.getD empty)) g with
          fpflags := if t == 2#2 then g.fpflags ||| x else g.fpflags })
where
  /-- The lanes of the executing mask. -/
  lanesOfMask (c : Ctx) : List Nat := (List.range c.g.lanes.length).filter fun k => has c.b.mask k

/-- `REDUX` (R127, R440). -/
def execRedux (f t : BitVec 2) (a d : BitVec 6) (s : State) : Out :=
  convCombine (.redux f t a d) t d (fun c _ => treeRoot (combine f t (envOf c.g)) 6 (leavesOf c a)) 0 s

/-- `SCAN` (R128, R447). -/
def execScan (f : BitVec 2) (e : BitVec 1) (t : BitVec 2) (a d : BitVec 6) (s : State) : Out :=
  convCombine (.scan f e t a d) t d
    (fun c k => scanBlocks (combine f t (envOf c.g)) (leavesOf c a) (if e = 1#1 then k else k + 1) 6 0 (none, 0)) (emptyScan f t) s

/-- `MATCH` (R406). -/
def execMatchLanes (h : BitVec 1) (a d : BitVec 6) (s : State) : Out :=
  convLanes (.matchLanes h a d) (fun c _ l =>
    let m := c.b.mask &&& laneMask c.g fun _ k => readV k a == readV l a
    writeV l d (halfMask h m)) s
where
  /-- The half of a mask that `.lo` or `.hi` writes. -/
  halfMask (h : BitVec 1) (m : Mask) : Word := if h = 0#1 then m.extractLsb' 0 32 else m.extractLsb' 32 32

/-- Byte k of `PERM`'s result: the selector is the old byte k of vd (R426). -/
def permByte (w : DWord) (old : Word) (k : Nat) : Byte :=
  let sel := (old.extractLsb' (8 * k) 4).toNat
  if 8 ≤ sel then 0 else w.extractLsb' (8 * sel) 8

/-- `PERM` (R426): predicated, not convergent. -/
def execPerm (n : BitVec 1) (g : BitVec 3) (b a d : BitVec 6) (s : State) : Out :=
  vecOp (.perm n g b a d) d (fun l =>
    let w : DWord := readV l b ++ readV l a
    let old := readV l d
    permByte w old 3 ++ permByte w old 2 ++ permByte w old 1 ++ permByte w old 0) s

/-- The lowest lane of a mask. -/
def lowestLane (c : Ctx) : Option Nat := (List.range c.g.lanes.length).find? fun k => has c.b.mask k

/-- `ELECT` (R374). -/
def execElect (d : BitVec 3) (s : State) : Out :=
  convLanes (.elect d) (fun c i l => writeP l d (lowestLane c == some i)) s

/-- `GSYNC` (R60, R395): it orders accesses, which are performed at issue, in their program order (log 5). -/
def execGsync (s : State) : Out := issueConv .gsync s fun c s => issued .gsync c s

end Sys2Proof.Machine
end

