-- ==== Sys2Proof/Machine/MemInstr.lean ====
section
/-!
DEFINITION. The memory instructions: MAJ 0x50 to 0x57, and the scalar forms 0x09, 0x0A, 0x0F (R133 to R158, R162 to R173,
R331, R343, R348 to R351, R360, R361, R387, R388, R399 to R403, R435, R445, R454, R459 to R462).
-/

namespace Sys2Proof.Machine

/-! ## Plain vector accesses -/

/-- `LD` (R399, R400): fn 0 and 2 read 4 bytes, 1 and 3 read 8; the invariant forms read as the plain ones (R157). -/
def execLd (f : BitVec 2) (l : BitVec 4) (a b d : BitVec 6) (s : State) : Out :=
  let n := if f.getLsbD 0 then 8 else 4
  memLanes (.ld f l a b d) { bytes := n } (fun c k => laneAddr c b a k) (fun c s k va => loadAt c d n s k va) s

/-- Bytes that a form of `ST` stores (R459). -/
def stBytes (f : BitVec 2) : Nat := if f = 0#2 then 4 else if f = 1#2 then 8 else if f = 2#2 then 2 else 1

/-- The data of a lane's store. -/
def stData (f : BitVec 2) (d : BitVec 6) (l : Lane) : List Byte :=
  if f = 1#2 then toLeBytes 8 (readPair l d).toNat else toLeBytes (stBytes f) (readV l d).toNat

/-- `ST` (R459, R460): lanes in ascending order, so the highest leaves its value. -/
def execSt (f : BitVec 2) (l : BitVec 4) (a b d : BitVec 6) (s : State) : Out :=
  memLanes (.st f l a b d) { bytes := stBytes f, write := true } (fun c k => laneAddr c b a k)
    (fun c s k va => storeAt c (stData f d (laneAt c.g k)) s k va) s

/-- The checks and effect of every vector atomic (R349, R350). -/
def atomLanes (i : Instr) (a b d : BitVec 6) (s : State) : Out :=
  memLanes i { bytes := 4, write := true, atomic := true } (fun c k => laneAddr c b a k)
    (fun c s k va => atomAt c i d (readV (laneAt c.g k) d) (readV (laneAt c.g k) (succReg d)) s k va) s
    fun c ls => memberReqs s c.t 5 d 0 (some i)
      (fun k => atomData ((readV (laneAt c.g k) d).setWidth 64) ((readV (laneAt c.g k) (succReg d)).setWidth 64)) ls

def execAtom (f : BitVec 2) (l : BitVec 4) (a b d : BitVec 6) (s : State) : Out := atomLanes (.atom f l a b d) a b d s

def execAtomb (f : BitVec 2) (l : BitVec 4) (a b d : BitVec 6) (s : State) : Out := atomLanes (.atomb f l a b d) a b d s

def execAtomcCas (l : BitVec 4) (a b d : BitVec 6) (s : State) : Out := atomLanes (.atomcCas l a b d) a b d s

def execAtomcMinN32 (l : BitVec 4) (a b d : BitVec 6) (s : State) : Out := atomLanes (.atomcMinN32 l a b d) a b d s

def execAtomcMaxN32 (l : BitVec 4) (a b d : BitVec 6) (s : State) : Out := atomLanes (.atomcMaxN32 l a b d) a b d s

/-! ## Waiting and consuming loads -/

/-- The active lanes with their addresses. -/
def lanesAt (c : Ctx) (addr : Nat → DWord) : List (Nat × DWord) := (lanesIn c.g c.b.mask).map fun k => (k, addr k)

/-- A scratchpad line that a waiting load finds empty (R150), of this team or of a span member. -/
def lineEmpty (s : State) (t : Team) : LineId → Bool
  | .scratch n => !(lineSeen s (n * 128)).f
  | .peer rank n => ((memberLine s t rank n).map fun l => !l.f).getD false
  | _ => false

/-- A tombstone that `LDC` finds on a page whose lines are counted (R153). -/
def lineTomb (s : State) : LineId → Bool
  | .l2 n e => countable e && (l2At s (n * 128)).tomb
  | _ => false

/-- A line consumed once (R150, R153). -/
def consume (t : Team) (s : State) : LineId → State
  | .scratch n => consumeLine s (n * 128)
  | .l2 n e => if countable e then lowerCounted s t.vc t.launch (n * 128) else s
  | .peer rank n => onFar s t rank n consumed
  | .other => s

/-- A lane of a waiting load: its word lands now, or is on its way from a span member. -/
def waitLoadAt (c : Ctx) (r : BitVec 6) (s : State) (lane : Nat) (va : DWord) : State :=
  match placeOf s c.t va with
  | .peer _ _ => onGroup s c (addWaiting lane r)
  | p => loadLane s c p lane r 4

/-- Requests of a waiting load that cannot be sent now: one whose member is joining or being saved, or that comes behind an earlier
access to its line. The instruction has not performed and stays unissued (R150; DEDUCED, log 28). -/
def waitsForMember (s : State) (c : Ctx) (q : SpanReq) : Bool :=
  reqBehind s c.b.group c.g q || match spanOf s c.t with
    | some (_, sp) => !memberAdmits sp c.t.rank q.rank || !memberRemote s c.t sp q.rank
    | none => true

/-- What `LDW` and `LDC` do once their addresses have passed the checks (R402, R403): over-read, then wait, then every lane's
word, and only then the lines. -/
def waitLoad (i : Instr) (consumes : Bool) (d : BitVec 6) (c : Ctx) (s : State) (ls : List (Nat × DWord)) : State :=
  let lines := linesOf s c.t ls
  let reqs := memberReqs s c.t (if consumes then 2 else 1) d 0 none (fun _ => []) ls
  match if consumes then linesFault s c.t (lineTomb s) ls else none with
  | some (m, a) => fault s c cOverRead m a
  | none =>
    if queueFull s c ls.length then stallFor s c .memoryQueue
    else if lines.any (lineEmpty s c.t) || reqs.any (waitsForMember s c) then stallFor s c .fullBit
    else
      let s1 := ls.foldl (fun t p => waitLoadAt c d t p.1 p.2) (issued i c s)
      let s2 := reqs.foldl (fun s q => submitReq s c.b.group q) s1
      if consumes then lines.foldl (consume c.t) s2 else s2

/-- `LDW` and `LDC` (R401 to R403). -/
def waitLoads (i : Instr) (consumes : Bool) (a b d : BitVec 6) (s : State) : Out :=
  issue i s fun c =>
    let ls := lanesAt c (laneAddr c b a)
    match lanesFault s c.t { bytes := 4, special := true } ls with
    | some (cause, m, va) => fault s c cause m va
    | none => waitLoad i consumes d c s ls

def execLdw (l : BitVec 4) (a b d : BitVec 6) (s : State) : Out := waitLoads (.ldw l a b d) false a b d s

def execLdc (l : BitVec 4) (a b d : BitVec 6) (s : State) : Out := waitLoads (.ldc l a b d) true a b d s

/-- How far a full line's sequence lies from the one named (R150): 0 on a line in metadata error. -/
def seqDistance (s : State) (n seq : Nat) : Nat :=
  let l := lineAt s (n * 128)
  if l.err then 0 else (l.seq.toNat + 16 - seq % 16) % 16

/-- A line that has been refilled for a later sequence (R150). -/
def lineOver (s : State) (seq : Nat) : LineId → Bool
  | .scratch n => (lineSeen s (n * 128)).f && decide (1 ≤ seqDistance s n seq) && decide (seqDistance s n seq ≤ 7)
  | _ => false

/-- A line that has not been filled for the sequence (R150). -/
def lineEarly (s : State) (seq : Nat) : LineId → Bool
  | .scratch n => !(lineSeen s (n * 128)).f || decide (8 ≤ seqDistance s n seq)
  | _ => false

/-- `LDQ` and `LDQW` (R401 to R403). -/
def ringLoads (i : Instr) (consumes : Bool) (a b d : BitVec 6) (s : State) : Out :=
  issue i s fun c =>
    let r := ringOf (readS c.g b)
    let ls := lanesAt c (ringAddr c r a)
    match ringFault c r a ls with
    | some (cause, m, va) => fault s c cause m va
    | none =>
      match lanesFault s c.t { bytes := 4, special := true } ls with
      | some (cause, m, va) => fault s c cause m va
      | none =>
        match linesFault s c.t (lineOver s r.seq) ls with
        | some (m, va) => fault s c cOverRead m va
        | none =>
          let lines := linesOf s c.t ls
          if queueFull s c ls.length then stallFor s c .memoryQueue
          else if lines.any (lineEarly s r.seq) then stallFor s c .fullBit
          else
            let s1 := ls.foldl (fun t p => loadLane t c (placeOf t c.t p.2) p.1 d 4) (issued i c s)
            if consumes then lines.foldl (consume c.t) s1 else s1

def execLdq (l : BitVec 4) (a b d : BitVec 6) (s : State) : Out := ringLoads (.ldq l a b d) true a b d s

def execLdqw (l : BitVec 4) (a b d : BitVec 6) (s : State) : Out := ringLoads (.ldqw l a b d) false a b d s

/-! ## Filling stores -/

/-- A live scratchpad line (R151), of this team or of a span member, though that does not admit the access yet. -/
def lineIsLive (s : State) (t : Team) : LineId → Bool
  | .scratch n => lineLive s (n * 128)
  | .peer rank n => ((memberLine s t rank n).map fun l => l.f && l.rc != 0).getD false
  | _ => false

/-- The data of a lane that stores 32 bits. -/
def word32 (l : Lane) (d : BitVec 6) : List Byte := toLeBytes 4 (readV l d).toNat

/-- A lane of a filling or emptying store: its word is written now, unless it goes by request. -/
def fillAt (c : Ctx) (d : BitVec 6) (s : State) (lane : Nat) (va : DWord) : State :=
  match placeOf s c.t va with
  | .peer _ _ => s
  | p => writePlace (corePlace s c false p) c.t p (word32 (laneAt c.g lane) d)

/-- The requests of a filling or emptying store (`form` 3 or 4). -/
def fillReqs (s : State) (c : Ctx) (form : Nat) (d : BitVec 6) (ls : List (Nat × DWord)) : List SpanReq :=
  memberReqs s c.t form 0 c.g.rcount none (fun k => word32 (laneAt c.g k) d) ls

/-- Keys of the bytes that the lanes of one fill write: scratchpad bytes, and those of lines that it makes counted. On other pages
each lane is a plain store of its own (R461, R462). -/
def fillKeys (s : State) (c : Ctx) (counts : LineId → Bool) (ls : List (Nat × DWord)) : List Nat :=
  (ls.map fun p =>
    match placeOf s c.t p.2 with
    | .scratch k => (List.range 4).map fun i => k + i
    | .paged va l => if counts (lineOf s c.t p.2) then (List.range 4).map fun i => key .counted (leafAddr l va) + i else []
    | _ => []).flatten

/-- The metadata of a line after a filling or emptying store (R151). -/
def markLine (t : Team) (empties : Bool) (rc : BitVec 6) (seq : BitVec 4) (s : State) : LineId → State
  | .scratch n => if empties then emptyLine s (n * 128) else fillLine s (n * 128) rc seq
  | .peer rank n => onFar s t rank n (if empties then emptied else fun _ => filled rc seq)
  | _ => s

/-- The effect of `STF`, `STE` and `STQ` after the checks of their addresses (R151, R462). -/
def fillStores (i : Instr) (empties : Bool) (d : BitVec 6) (seq : BitVec 4) (c : Ctx) (s : State) (ls : List (Nat × DWord)) :
    State :=
  match if empties then none else linesFault s c.t (lineIsLive s c.t) ls with
  | some (m, va) => fault s c cLiveLine m va
  | none =>
    if queueFull s c (peerCount s c.t ls) then stallFor s c .memoryQueue
    else if copyHeld s c (ls.map fun p => (p.2, 4)) then stallFor s c .scoreboard
    else
      let s1 := withdrawIdem (issued i c s) c (ls.any fun p => beyondTeam p.2)
      let s2 := ls.foldl (fun t p => fillAt c d t p.1 p.2) s1
      let s3 := (linesOf s c.t ls).foldl (markLine c.t empties c.g.rcount seq) (unpoison (fillKeys s c (fun _ => false) ls) s2)
      (fillReqs s c (if empties then 4 else 3) d ls).foldl (fun s q => submitReq s c.b.group q) s3

/-- `STF` and `STE` (R462). -/
def fillStore (i : Instr) (empties : Bool) (a b d : BitVec 6) (s : State) : Out :=
  issue i s fun c =>
    let ls := lanesAt c (laneAddr c b a)
    match lanesFault s c.t { bytes := 4, write := true } ls with
    | some (cause, m, va) => fault s c cause m va
    | none => fillStores i empties d 0 c s ls

def execStf (l : BitVec 4) (a b d : BitVec 6) (s : State) : Out := fillStore (.stf l a b d) false a b d s

def execSte (l : BitVec 4) (a b d : BitVec 6) (s : State) : Out := fillStore (.ste l a b d) true a b d s

/-- `STQ` (R462): its addresses and the checks of its descriptor and ring are those of `LDQ` (R402), and come before poison, which is
the first of R343. -/
def execStq (l : BitVec 4) (a b d : BitVec 6) (s : State) : Out :=
  let i : Instr := .stq l a b d
  issue i s fun c =>
    let r := ringOf (readS c.g b)
    let ls := lanesAt c (ringAddr c r a)
    match ringFault c r a ls with
    | some (cause, m, va) => fault s c cause m va
    | none =>
      match operandBlock i c with
      | some b => applyBlock i c s b
      | none =>
        match lanesFault s c.t { bytes := 4, write := true } ls with
        | some (cause, m, va) => fault s c cause m va
        | none => fillStores i false d (BitVec.ofNat 4 r.seq) c s ls

/-! ## Counted stores -/

/-- A line that `STC` fills and counts (R152, R461). -/
def lineCounts (rc : BitVec 6) : LineId → Bool
  | .l2 _ e => countable e && rc != 0
  | _ => false

/-- A line that a filling `STC` finds live. -/
def stcLive (rc : BitVec 6) (s : State) (t : Team) : LineId → Bool
  | .l2 n e => lineCounts rc (.l2 n e) && (l2At s (n * 128)).counted.isSome
  | l => lineIsLive s t l

/-- A line made counted before its words are written. -/
def beginCounted (v : Nat) (rc : BitVec 6) (s : State) : LineId → State
  | .l2 n e => if lineCounts rc (.l2 n e) then startCounted s v e (n * 128) rc else s
  | _ => s

/-- A lane of `STC`: into a line that is counted its word goes without ending the count. -/
def stcAt (c : Ctx) (d : BitVec 6) (rc : BitVec 6) (s : State) (lane : Nat) (va : DWord) : State :=
  match placeOf s c.t va with
  | .paged va l =>
    if lineCounts rc (lineOf s c.t va) then writeN s (key .counted (leafAddr l va)) (word32 (laneAt c.g lane) d)
    else fillAt c d s lane va
  | _ => fillAt c d s lane va

/-- `STC` (R461). -/
def execStc (l : BitVec 4) (a b d : BitVec 6) (s : State) : Out :=
  let i : Instr := .stc l a b d
  issue i s fun c =>
    let rc := c.g.rcount
    let ls := lanesAt c (laneAddr c b a)
    match lanesFault s c.t { bytes := 4, write := true, counted := rc != 0 } ls with
    | some (cause, m, va) => fault s c cause m va
    | none =>
      match linesFault s c.t (stcLive rc s c.t) ls with
      | some (m, va) => fault s c cLiveLine m va
      | none =>
        if queueFull s c (peerCount s c.t ls) then stallFor s c .memoryQueue
        else if copyHeld s c (ls.map fun p => (p.2, 4)) then stallFor s c .scoreboard
        else
          let lines := linesOf s c.t ls
          let s1 := withdrawIdem (issued i c s) c (ls.any fun p => beyondTeam p.2)
          let s2 := ls.foldl (fun t p => corePlace t c false (placeOf t c.t p.2)) s1
          let s3 := lines.foldl (beginCounted c.t.vc rc) s2
          let s4 := ls.foldl (fun t p => stcAt c d rc t p.1 p.2) s3
          let s5 := lines.foldl (markLine c.t false rc 0) (unpoison (fillKeys s c (lineCounts rc) ls) s4)
          (fillReqs s c 3 d ls).foldl (fun s q => submitReq s c.b.group q) s5

/-! ## Fences, prefetch, flush -/

/-- `FENCE` (R163, R387): every access is performed when it issues, but those that wait for a span member, for which the
instruction has waited (log 5). -/
def execFence (sc k : BitVec 2) (s : State) : Out := issue (.fence sc k) s fun c => issued (.fence sc k) c s

/-- A lane of `PREF` (R435): the line that a normal page holds is brought into the core's L1 data cache. A lane whose address would
fault, names a window or has poison in it is dropped, and no metadata changes. -/
def prefAt (c : Ctx) (bad : Mask) (s : State) (lane : Nat) (va : DWord) : State :=
  if has bad lane || (addrCheck s c.t va { bytes := 1 }).isSome then s
  else
    match placeOf s c.t va with
    | .paged a l =>
      if cachedLoad l.entry then
        modCore s c.g.core fun k => { k with l1 := (useLine (fun _ => false) (cacheLine c.t.vc l.entry (leafAddr l a)) k.l1).1 }
      else s
    | _ => s

/-- `PREF` (R435): no value that a load returns changes. -/
def execPref (a b : BitVec 6) (s : State) : Out :=
  let i : Instr := .pref a b
  issue i s fun c =>
    (lanesAt c (laneAddr c b a)).foldl (fun s p => prefAt c (poisonLanes c i) s p.1 p.2) (issued i c s)

/-- A line flushed (R361). -/
def flushLine (s : State) : LineId → State
  | .l2 n e => flushAt s e (n * 128)
  | _ => s

/-- `CFLUSH` (R360, R361): each line once, checked as a 1-byte load. -/
def execCflush (a b : BitVec 6) (s : State) : Out :=
  let i : Instr := .cflush a b
  issue i s fun c =>
    let ls := lanesAt c (laneAddr c b a)
    match lanesFault s c.t { bytes := 1 } ls with
    | some (cause, m, va) => fault s c cause m va
    | none => (linesOf s c.t ls).foldl (flushLine) (issued i c s)

/-! ## Scalar accesses -/

/-- A scalar access: its checks for the one address (R343, R443), then its effect. -/
def scalarAccess (i : Instr) (a : Acc) (addr : Ctx → DWord) (eff : Ctx → State → DWord → State) (s : State) : Out :=
  issue i s fun c =>
    let va := addr c
    match addrCheck s c.t va a with
    | some (_, cause) => fault s c cause c.b.mask va
    | none =>
      if isPeer (placeOf s c.t va) && queueFull s c 1 then stallFor s c .memoryQueue
      else if (a.write || a.atomic) && copyHeld s c [(va, 8)] then stallFor s c .scoreboard
      else eff c (withdrawIdem (issued i c s) c ((a.write || a.atomic) && beyondTeam va)) va

/-- A scalar result that waits for a span member: the register is pending (R36). -/
def pendSpan (c : Ctx) (acq : Bool) (d : BitVec 6) (s : State) : State :=
  onGroup s c fun g => { g with tokens := g.tokens ++ [(d, if acq then .spanAcq else .span)] }

/-- A scalar result, poisoned or not. -/
def putScalar (d : BitVec 6) (x : DWord) (pois : Bool) (g : Group) : Group :=
  if pois then poisonS (writeS g d x) d else writeS g d x

/-- `SLD` (R454). -/
def execSld (k l : BitVec 4) (r sc : BitVec 2) (a d : BitVec 6) (s : State) : Out :=
  scalarAccess (.sld k l r sc a d) { bytes := 8 } (fun c => scalarAddr c a k)
    (fun c s va =>
      match placeOf s c.t va with
      | .peer rank off => submitReq (pendSpan c (r == 1#2) d s) c.b.group (laneReq 64 d rank off 8)
      | p =>
        let s1 := corePlace s c true p
        let x := readPlace s1 c.t p 8
        onGroup s1 c (putScalar d (BitVec.ofNat 64 (leBytes x.1)) x.2)) s

/-- `SST` (R454). -/
def execSst (k l : BitVec 4) (r sc : BitVec 2) (a d : BitVec 6) (s : State) : Out :=
  scalarAccess (.sst k l r sc a d) { bytes := 8, write := true } (fun c => scalarAddr c a k)
    (fun c s va =>
      let bs := toLeBytes 8 (readS c.g d).toNat
      match placeOf s c.t va with
      | .peer rank off => submitReq s c.b.group (dataReq (laneReq 64 0 rank off 8) true none bs)
      | p => writePlace (corePlace s c false p) c.t p bs) s

/-- `SATOM` (R445). -/
def execSatom (o l : BitVec 4) (r sc : BitVec 2) (a d : BitVec 6) (s : State) : Out :=
  let i : Instr := .satom o l r sc a d
  scalarAccess i { bytes := 8, write := true, atomic := true } (fun c => readS c.g a)
    (fun c s va =>
      let x := readS c.g d
      let cmp := readS c.g (succReg d)
      match placeOf s c.t va with
      | .peer rank off =>
        submitReq (pendSpan c (r == 1#2 || r == 3#2) d s) c.b.group
          (dataReq (laneReq 64 d rank off 8) false (some i) (atomData x cmp))
      | p =>
        let y := atomicPlace (corePlace s c false p) c.t p i x cmp
        onGroup y.1 c (putScalar d y.2.1 y.2.2)) s

/-! ## Landing -/

/-- A load landed in its register (R400, R159). -/
def landLoad (g : Group) (l : Load) : Group :=
  onLanes (bit64 l.lane) (fun _ x =>
    let y := writeV x l.reg l.data
    if l.pois then { y with vpois := putBit y.vpois l.reg.toNat true } else y) g

/-- `LOAD_DATA_LAND` (R57, R400): data that has returned lands, oldest first. -/
def execLoadDataLand (n : Nat) (s : State) : Out :=
  .next (modGroup s n fun g =>
    { (g.loads.filter fun l => l.ready).foldl landLoad g with loads := g.loads.filter fun l => !l.ready })

end Sys2Proof.Machine
end

