-- ==== Sys2Proof/Machine/Trust.lean ====
section
/-!
DEFINITION. The device interface: SPDM and TDISP (R265), SET_KEY (R266), direct ingress (R271) and filtered counter reads (R272).
The messages' layouts are not in the spec: an answer is kept as its content (log 10).
-/

namespace Sys2Proof.Machine

/-! ## SPDM (R265; log 10) -/

/-- An answer to the host. -/
def answer (s : State) (bs : List Byte) : State := { s with hostRead := bs }

/-- A request that takes a session on: answered at the point where the protocol has it, and not answered elsewhere. -/
def sessionStep (v : Nat) (before after : Spdm) (out : List Byte) (s : State) : State :=
  let c := vchip s v
  if !c.used then s else if c.spdm == before then answer (modVc s v fun c => { c with spdm := after }) out else answer s []

/-- The algorithms have been agreed. -/
def negotiated (s : State) (v : Nat) : Bool :=
  let p := (vchip s v).spdm
  p == .negotiated || p == .exchanged || p == .secured

/-- A request answered once the algorithms have been agreed. -/
def answerAgreed (v : Nat) (out : List Byte) (s : State) : State :=
  if !(vchip s v).used then s else if negotiated s v then answer s out else answer s []

/-- `GET_VERSION` (R265): versions 1.2 and 1.3; a session begins anew. -/
def execGetVersion (v : Nat) (s : State) : Out :=
  .next (if (vchip s v).used then answer (modVc s v fun c => { c with spdm := .versioned }) [0x12, 0x13] else s)

/-- The requests that an interface supports (R265), as the answer names them (log 10). -/
def capabilities : List Byte :=
  asciiBytes "GET_VERSION GET_CAPABILITIES NEGOTIATE_ALGORITHMS GET_DIGESTS GET_CERTIFICATE CHALLENGE GET_MEASUREMENTS"
    ++ asciiBytes " KEY_EXCHANGE FINISH END_SESSION SET_KEY"

/-- `GET_CAPABILITIES` (R265). -/
def execGetCapabilities (v : Nat) (s : State) : Out := .next (sessionStep v .versioned .capable capabilities s)

/-- The algorithms that an interface supports (R265), as the answer names them (log 10). -/
def algorithms : List Byte := asciiBytes "ECDSA P-521; SHA-512; DHE secp521r1; AES-256-GCM"

/-- `NEGOTIATE_ALGORITHMS` (R265). -/
def execNegotiateAlgorithms (v : Nat) (s : State) : Out := .next (sessionStep v .capable .negotiated algorithms s)

/-- `GET_DIGESTS` (R265): SHA-512 of the certificate chain. -/
def execGetDigests (v : Nat) (s : State) : Out := .next (answerAgreed v (sha512 Config.certificateChain) s)

/-- `GET_CERTIFICATE` (R265): the chain, which ends in the device identity key. -/
def execGetCertificate (v : Nat) (s : State) : Out := .next (answerAgreed v Config.certificateChain s)

/-- The measured configuration of a virtual chip (R265, block 3). -/
def chipConfig (s : State) (v : Nat) : List Byte :=
  let c := vchip s v
  toLeBytes 16 c.piers.toNat ++ [BitVec.ofNat 8 c.cacheWays, BitVec.ofNat 8 c.bankWays, BitVec.ofNat 8 c.protWays, c.features.setWidth 8]
    ++ (grantedSlots s v).map (BitVec.ofNat 8)
    ++ c.frames.flatMap (fun r => toLeBytes 8 r.base ++ toLeBytes 8 r.size ++ [if r.valid then 1 else 0, if r.h then 1 else 0])
    ++ (guestOf s v).allow.flatMap fun e => toLeBytes 8 e.1 ++ toLeBytes 8 e.2.toNat

/-- The guest's three abutment tables (R265, block 4). -/
def tablesConfig (s : State) (v : Nat) : List Byte :=
  let g := guestOf s v
  (g.vcns ++ g.mcast).flatMap (fun e => toLeBytes 8 e.1 ++ toLeBytes 8 e.2.toNat) ++ g.labels.flatMap fun e => toLeBytes 8 e.1 ++ [e.2]

/-- The Olzer image that the boot ROM has measured, and what block 2 measures of it: its security version and configuration (R265,
R273). -/
def olzerImage (s : State) : List Byte := (s.olzer.map fun x => x.image).getD []
def olzerConfig (s : State) : List Byte := (s.olzer.map fun x => toLeBytes 8 x.version ++ x.config).getD []

/-- A measurement block; an index that names none is empty. -/
def measurement (s : State) (v : Nat) : Nat → List Byte
  | 1 => sha512 (olzerImage s)
  | 2 => sha512 (Config.measuredLayout 2 (olzerConfig s))
  | 3 => sha512 (Config.measuredLayout 3 (chipConfig s v))
  | 4 => sha512 (Config.measuredLayout 4 (tablesConfig s v))
  | _ => []

/-- `CHALLENGE` (R265): the measurements signed with the device identity key. -/
def execChallenge (v : Nat) (s : State) : Out :=
  let m := (List.range 4).flatMap fun i => measurement s v (i + 1)
  .next (answerAgreed v (m ++ Config.identitySignature m) s)

/-- `GET_MEASUREMENTS` (R265); block 1 is for any requester, authenticated or not (R273). -/
def execGetMeasurements (v index : Nat) (s : State) : Out :=
  let b := measurement s v index
  .next (if index == 1 && (vchip s v).used then answer s (b ++ Config.identitySignature b) else answerAgreed v b s)

/-- `KEY_EXCHANGE` (R265): DHE. The requester's share is taken, and the package answers with a fresh share of its own, signed with the
device identity key. -/
def execKeyExchange (m : SpdmMessage) (s : State) : Out :=
  let v := m.v
  let share := m.body
  .next
    (if (vchip s v).used && (vchip s v).spdm == .negotiated then
      let own := Config.exchangeShare s.draws
      let s1 := modVc { s with draws := s.draws + 1 } v fun c => { c with spdm := .exchanged, exchange := some (s.draws, share) }
      answer s1 (own ++ Config.identitySignature (share ++ own))
     else if (vchip s v).used then answer s [] else s)

/-- `FINISH` (R265): the session is secured if the code is that of the exchange; a wrong one ends the exchange. -/
def execFinish (m : SpdmMessage) (s : State) : Out :=
  let v := m.v
  let code := m.body
  .next
    (match (vchip s v).used, (vchip s v).spdm, (vchip s v).exchange with
     | true, .exchanged, some (n, share) =>
       if code == Config.finishCode n share then answer (modVc s v fun c => { c with spdm := .secured }) (asciiBytes "FINISH")
       else answer (modVc s v fun c => { c with spdm := .negotiated, exchange := none }) []
     | true, _, _ => answer s []
     | false, _, _ => s)

/-- `END_SESSION` (R265). -/
def execEndSession (v : Nat) (s : State) : Out :=
  .next
    (if (vchip s v).used && (vchip s v).spdm == .secured then
      answer (modVc s v fun c => { c with spdm := .negotiated, exchange := none }) (asciiBytes "END_SESSION")
     else if (vchip s v).used then answer s [] else s)

/-- `TDISP_INTERFACE_REQUEST` (R265). -/
def execTdispInterfaceRequest (v : Nat) (request : TdispRequest) (s : State) : Out :=
  let c := vchip s v
  let move (a b : Tdisp) : State := if c.used && c.tdisp == a then modVc s v fun c => { c with tdisp := b } else s
  match request with
  | .lock => .next (move .configUnlocked .configLocked)
  | .start => .next (move .configLocked .run)

/-! ## SET_KEY (R266, R267) -/

/-- Inside a secured session with the interface of a virtual chip. -/
def secured (s : State) (v : Nat) : Bool := (vchip s v).used && (vchip s v).spdm == .secured

/-- `SET_KEY_GROUP` (R266, R267): link key slots are filled again. -/
def execSetKeyGroup (v : Nat) (key : BitVec 512) (s : State) : Out :=
  .next (if secured s v then refillLinks (modVc s v fun c => { c with groupKey := some key }) (vchip s v).guest else s)

/-- `SET_KEY_CONTEXT` (R266): refused for a slot that is not granted; the slot's version increases by one. -/
def execSetKeyContext (v slot : Nat) (key : BitVec 512) (s : State) : Out :=
  .next
    (if secured s v && slotOwner s slot == some v then
      { s with keys := listMod (fun k => { k with key := some key, version := k.version + 1 }) slot s.keys }
     else s)

/-- `SET_KEY_STREAM` (R266): streams 0 to 7. -/
def execSetKeyStream (v stream : Nat) (key : BitVec 512) (s : State) : Out :=
  .next (if secured s v && decide (stream < 8) then modVc s v fun c => { c with streamKeys := tput c.streamKeys stream key } else s)

/-! ## Direct ingress (R271) -/

/-- Plaintext bytes of a full record, and the bytes of its place in the window. -/
def ingressBytes : Nat := 4080
def ingressPlace : Nat := 4096

/-- Records of a stream; a length that is not from 1 to 2^40 has none. -/
def ingressRecords (x : Ingress) : Nat := if 2 ^ 40 < x.len.toNat then 0 else (x.len.toNat + ingressBytes - 1) / ingressBytes

/-- Ciphertext bytes of record k. -/
def recordBytesOf (x : Ingress) (k : Nat) : Nat := Nat.min ingressBytes (x.len.toNat - ingressBytes * k)

/-- Every byte of record k, tag included, has arrived. -/
def recordArrived (x : Ingress) (k : Nat) : Bool :=
  (List.range (recordBytesOf x k + 16)).all fun i => (tget x.window (k * ingressPlace + i)).isSome

/-- The record that a byte at a window position belongs to now: the first one of its place that is not done. -/
def recordAt (x : Ingress) (w : Nat) : Nat :=
  let d := x.done.toNat
  d + (w / ingressPlace + 256 - d % 256) % 256

def ingressAt (s : State) (v n : Nat) : Ingress := ((vchip s v).ingress[n]?).getD Ingress.init

def modIngress (s : State) (v n : Nat) (f : Ingress → Ingress) : State := modVc s v fun c => { c with ingress := listMod f n c.ingress }

/-- Whether a write of some bytes at a window offset must be held: a byte's place holds a whole record that is not done. -/
def mustHold (x : Ingress) (w n : Nat) : Bool :=
  (List.range n).any fun i => recordArrived x (recordAt x (w + i)) && decide (recordAt x (w + i) < ingressRecords x)

/-- Bytes taken into the window; bytes of no record are not kept. -/
def takeIngress (x : Ingress) (w : Nat) : List Byte → Ingress
  | [] => x
  | b :: bs =>
    let k := recordAt x w
    let p := w % ingressPlace
    let y := if k < ingressRecords x && p < recordBytesOf x k + 16 then { x with window := tput x.window (k * ingressPlace + p) b } else x
    takeIngress y (w + 1) bs

/-- `INGRESS_WRITE` (R271): an offset in the eight windows. A write that must be held waits, and later posted writes to the
interface wait behind it. -/
def execIngressWrite (v off : Nat) (bytes : List Byte) (s : State) : Out :=
  let n := off / 2 ^ 20
  let w := off % 2 ^ 20
  let x := ingressAt s v n
  if !(vchip s v).used || decide (8 ≤ n) || decide (2 ^ 20 < w + bytes.length) || !x.en || x.err then .next s
  else if mustHold x w bytes.length then .next (modVc s v fun c => { c with posted := c.posted ++ [.ingressWrite v off bytes] })
  else .next (modIngress s v n fun x => takeIngress x w bytes)

/-- Every page of a range is protected. -/
def onAnyProtected (s : State) (v a n : Nat) : Bool :=
  (linePieces (n + 1) a n).all fun p =>
    match translate s v (BitVec.ofNat 64 p.1) with
    | some l => leafPr l.entry
    | none => false

/-- A record decrypted and verified under the stream key, its IV the base XOR its number. -/
def openRecord (key : Option (BitVec 512)) (x : Ingress) (k : Nat) : Option (List Byte) :=
  match key with
  | none => none
  | some q =>
    let n := recordBytesOf x k
    let all := (List.range (n + 16)).map fun i => (tget x.window (k * ingressPlace + i)).getD 0
    let iv := toLeBytes 12 (x.iv ^^^ BitVec.ofNat 96 k).toNat
    let kb := (toLeBytes 64 q.toNat).take 32
    if (gcmTag kb iv [] (all.take n)) == all.drop n then some (gcmCrypt kb iv (all.take n)) else none

/-- A stream stopped, with its record (R271, R275). -/
def stopIngress (s : State) (v n k : Nat) : State := event (modIngress s v n fun x => { x with err := true }) v 13 [(9, n), (16, k)]

/-- A record done: its place is free, and held writes are presented again, in order. -/
def recordDone (s : State) (v n k : Nat) : State :=
  let s1 := modIngress s v n fun x =>
    { x with done := x.done + 1, window := x.window.filter fun e => e.1 / ingressPlace != k }
  modVc { s1 with inputs := (vchip s1 v).posted.map .event ++ s1.inputs } v fun c => { c with posted := [] }

/-- `INGRESS_RECORD_VERIFY` (R271): the first record that is not done, once all its bytes have arrived. -/
def execIngressRecordVerify (v stream : Nat) (s : State) : Out :=
  let x := ingressAt s v stream
  let k := x.done.toNat
  if !(vchip s v).used || decide (8 ≤ stream) || !x.en || x.err || decide (ingressRecords x ≤ k) || !recordArrived x k then .next s
  else
    match openRecord (tget (vchip s v).streamKeys stream) x k with
    | none => .next (stopIngress s v stream k)
    | some bs =>
      let a := x.dest.toNat + ingressBytes * k
      if x.dest.toNat % 128 != 0 || !onAnyProtected s v a bs.length then .next (stopIngress s v stream k)
      else
        match deviceWrite s v a bs with
        | none => .next (stopIngress s v stream k)
        | some s1 => .next (recordDone s1 v stream k)

/-! ## Counter reads (R272) -/

/-- A counter's value: a virtual-chip counter, or the per-bay counters set to an event, in order of core, bay and number. -/
def counterBytes (s : State) (v id : Nat) : List Byte :=
  let c := vchip s v
  if 0x100 ≤ id && id < 0x108 then toLeBytes 8 ((c.counters[id - 0x100]?).getD 0).toNat
  else (c.bayCounters.filter fun e => field e.2.1 11 0 == id).flatMap fun e => toLeBytes 8 e.2.2.toNat

/-- Whether a guest's allow-list admits a host or hypervisor read of a counter of its virtual chip (R272). -/
def readAllowed (s : State) (v id : Nat) : Bool := ((tget (guestOf s v).allow (id / 64)).getD 0).getLsbD (id % 64)

/-- The record of a counter read that is denied (R272, R295). -/
def readDenied (s : State) (v id : Nat) : State := event s v 8 [(10, id)]

/-- `HOST_COUNTER_READ` (R272): a counter whose bit is clear in the guest's list reads zero, and the read is recorded. -/
def execHostCounterRead (v : Nat) (id : BitVec 12) (s : State) : Out :=
  if !(vchip s v).used then .next s
  else if readAllowed s v id.toNat then .next (answer s (counterBytes s v id.toNat))
  else .next (readDenied (answer s (List.replicate 8 0)) v id.toNat)

end Sys2Proof.Machine
end

