-- ==== Sys2Proof/Machine/Platform.lean ====
section
/-!
DEFINITION. Bring-up (R273, R302) and clock steps (R304).
-/

namespace Sys2Proof.Machine

/-- `PKGSTAT` changes: vector 2 of function 0 (R301). -/
def setPkgStat (s : State) (x : BitVec 3) : State := { s with pkgStat := x, raised0 := s.raised0 ++ [2] }

/-- Piers of compute die 0 (R1). -/
def dieZero : BitVec 128 := 0xFFFFFFFF

/-- The frames of a range that holds every frame. -/
def allFrames (h : Bool) : FrameRange := { base := 0, size := 2 ^ 52, valid := true, h := h }

/-- The virtual chip of reduced service (R302): slot 0 on the piers of die 0. Its guest, ways and frames are the model's (log 16). -/
def reducedChip : VChip :=
  { VChip.init with
    used := true, reduced := true, piers := dieZero, cacheWays := 16
    frames := [allFrames false, allFrames true] ++ List.replicate 14 { base := 0, size := 0, valid := false, h := false } }

/-- The check of the boot ROM (R273): the image's ECDSA signature holds under the key that comes with it, that key is the Molsia key
whose hash is fused, and the security version reaches the fused minimum. -/
def imageOk (x : BootImage) : Bool :=
  ecdsaVerify x.keyX x.keyY x.sigR x.sigS (beNat (sha512 x.image))
    && sha512 (beBytes 66 x.keyX ++ beBytes 66 x.keyY) == beBytes 64 Config.fusedKeyHash.toNat && decide (Config.fusedVersion ≤ x.version)

/-- `POWER_GOOD` (R273, R302): the boot ROM measures and checks Olzer; reduced service begins, or the package has failed. -/
def execPowerGood (image : BootImage) (s : State) : Out :=
  if s.pkgStat != 0 then .next s
  else
    let s1 := { setPkgStat s 1 with olzer := some image }
    if imageOk image then .next (modVc { setPkgStat s1 2 with mhz := 400 } 0 fun _ => reducedChip)
    else .next (setPkgStat s1 4)

/-- `TRAINING_COMPLETE` (R302): full service once both succeed, and the virtual chip of reduced service goes when its launches are
complete. A package that fails offers the readback interface only, so that chip goes at once. -/
def execTrainingComplete (hbm optics : Bool) (s : State) : Out :=
  if s.pkgStat != 2 then .next s
  else
    let s1 := { s with hbmTrained := hbm, opticsOk := optics }
    if hbm && optics then .next (endReduced { setPkgStat s1 3 with mhz := 1200 } 0)
    else .next (if (vchip s 0).reduced then destroyVc (setPkgStat s1 4) 0 else setPkgStat s1 4)

/-- The arithmetic clock of a service state in MHz. -/
def nominalMhz (s : State) : Nat := if s.pkgStat == 2 then 400 else 1200

/-- Every core at a regroup boundary (R48, R304). -/
def atRegroup (s : State) : Bool := s.cores.all fun c => c.clock.toNat % 4 == 0

/-- `CLOCK_STEP` (R304): 100 MHz down, or back up, at a regroup boundary, with its record in the package stream. -/
def execClockStep (up : Bool) (s : State) : Out :=
  let m := if up then s.mhz + 100 else s.mhz - 100
  if m == 0 || decide (nominalMhz s < m) || !atRegroup s then .next s
  else .next (pkgEvent { s with mhz := m } 16 [(9, if up then 1 else 0), (10, m)])

end Sys2Proof.Machine
end

