-- ==== Sys2Proof/Machine/Regs.lean ====
section
/-!
DEFINITION. The register spaces on the host link (R301): writes and reads of every register of the management interface and of a
device interface, and the readback mailbox (R303).
-/

namespace Sys2Proof.Machine

/-! ## Fields -/

/-- Bits [hi:lo] of a written value in their places; a reserved bit reads as zero (R8). -/
def keepBits (x : DWord) (hi lo : Nat) : DWord := BitVec.ofNat 64 (field x hi lo * 2 ^ lo)

/-- The new value of a size field: a value outside its range leaves the old one. -/
def sizeField (x : DWord) (lo hi : Nat) (old : BitVec 5) : BitVec 5 :=
  let n := field x 4 0
  if lo ≤ n && n ≤ hi then BitVec.ofNat 5 n else old

/-- What an instruction's meaning leaves, if it answers a next state. -/
def after (s : State) (o : Out) : State :=
  match o with
  | .next t => t
  | _ => s

def boolBit (b : Bool) (n : Nat) : Nat := if b then 2 ^ n else 0

/-! ## Event streams (R292) -/

/-- A write in an event stream's registers, by offset from its base. -/
def writeStream (off : Nat) (x : DWord) (t : Stream) : Stream :=
  let en := t.ctl.getLsbD 0
  match off with
  | 0x00 => if en then t else { t with base := keepBits x 47 5 }
  | 0x08 => if en then t else { t with size := sizeField x 8 24 t.size }
  | 0x10 => { t with head := x }
  | 0x28 => putEvctl x t
  | _ => t

def readStream (off : Nat) (t : Stream) : DWord :=
  match off with
  | 0x00 => t.base
  | 0x08 => t.size.setWidth 64
  | 0x10 => t.head
  | 0x18 => t.tail
  | 0x20 => t.drop
  | 0x28 => t.ctl
  | _ => 0

/-! ## Tables of a device interface -/

/-- A launch queue's registers by offset (R84). LQBASE and LQSIZE may be written while EN is 0 (R85). -/
def writeQueue (s : State) (v q off : Nat) (x : DWord) : State :=
  let put (f : Queue → Queue) : State := modQueue s v q f
  match off with
  | 0x00 => put fun y => if y.en then y else { y with base := keepBits x 63 7 }
  | 0x08 => put fun y => if y.en then y else { y with size := sizeField x 4 16 y.size }
  | 0x18 => after s (execLqtailWrite v q x s)
  | 0x28 => after s (if x.getLsbD 0 then execQueueEnable v q (x.getLsbD 1) s else execQueueDisable v q (x.getLsbD 1) s)
  | 0x30 => put fun y => { y with rderr := y.rderr && !x.getLsbD 1 }
  | _ => s

def readQueue (s : State) (v q off : Nat) : DWord :=
  let y := queueAt s v q
  match off with
  | 0x00 => y.base
  | 0x08 => y.size.setWidth 64
  | 0x10 => y.head
  | 0x18 => y.tail
  | 0x20 => y.done
  | 0x28 => BitVec.ofNat 64 (boolBit y.en 0 + boolBit y.ie 1)
  | 0x30 => BitVec.ofNat 64 (boolBit ((vchip s v).launches.any fun l => idQueue l.id == q) 0 + boolBit y.rderr 1 + y.lastcode.toNat * 256)
  | _ => 0

/-- A capability's registers by offset (R237). Its reserved fields are kept, since a pod instruction checks them (R238, R239), and read
as zero (R8). -/
def writeCap (off : Nat) (x : DWord) (e : Cap) : Cap :=
  match off with
  | 0x00 => { e with ctl := x }
  | 0x08 => { e with wbase := x }
  | 0x10 => { e with wsize := x }
  | 0x18 => { e with allow := x }
  | _ => e

def readCap (off : Nat) (x : Cap) : DWord :=
  let e := capShown x
  match off with
  | 0x00 => e.ctl
  | 0x08 => e.wbase
  | 0x10 => e.wsize
  | 0x18 => e.allow
  | _ => 0

/-- An ingress descriptor's registers by offset (R271). Enabling a stream starts it afresh (log 15). -/
def writeIngress (off : Nat) (x : DWord) (d : Ingress) : Ingress :=
  match off with
  | 0x00 => { d with dest := x }
  | 0x08 => { d with len := x }
  | 0x10 => { d with iv := d.iv.extractLsb' 64 32 ++ x }
  | 0x18 =>
    let d1 := { d with iv := x.truncate 32 ++ d.iv.truncate 64, en := x.getLsbD 32 }
    if x.getLsbD 32 && !d.en then { d1 with err := false, done := 0, window := [] } else d1
  | _ => d

def readIngress (off : Nat) (d : Ingress) : DWord :=
  match off with
  | 0x00 => d.dest
  | 0x08 => d.len
  | 0x10 => d.iv.truncate 64
  | 0x18 => BitVec.ofNat 64 ((d.iv.extractLsb' 64 32).toNat + boolBit d.en 32 + boolBit d.err 33)
  | 0x20 => d.done
  | _ => 0

/-- Writes of `CSEL` and `CVAL` (R298): OVF is cleared by writing one. -/
def writeCounter (key : Nat) (sel : Bool) (x : DWord) (c : VChip) : VChip :=
  let old := (tget c.bayCounters key).getD (0, 0)
  let new :=
    if sel then ((x &&& 0x1FFF) ||| (if x.getLsbD 13 then 0 else old.1 &&& 0x2000), old.2) else (old.1, x)
  { c with bayCounters := tput c.bayCounters key new }

/-- A counter register's place: core, bay and counter as one number, and whether it is `CSEL`. -/
def counterPlace (off : Nat) : Nat × Bool := (bayKey (off / 0x400) (off / 0x80 % 8) (off / 0x10 % 8), off % 16 == 0)

/-! ## Single registers of a device interface -/

/-- Trap and save registers (R280). -/
def writeTrapReg (off : Nat) (x : DWord) (c : VChip) : VChip :=
  match off with
  | 0x90 => { c with trbase := keepBits x 47 7 }
  | 0x98 => { c with trsize := sizeField x 4 16 c.trsize }
  | 0xA0 => { c with trhead := x }
  | 0xB0 => { c with trctl := x &&& 0xF3 }
  | 0xB8 => { c with trhrec := keepBits x 47 7 }
  | 0xC0 => { c with twbase := keepBits x 47 12 }
  | 0xC8 => { c with twsize := keepBits x 40 12 }
  | 0xD0 => { c with twpbase := keepBits x 47 12 }
  | 0xD8 => { c with twpsize := keepBits x 40 12 }
  | 0xE0 => { c with csabase := keepBits x 47 12 }
  | 0xE8 => { c with csasize := keepBits x 40 12 }
  | _ => c

def readTrapReg (off : Nat) (c : VChip) : DWord :=
  match off with
  | 0x90 => c.trbase
  | 0x98 => c.trsize.setWidth 64
  | 0xA0 => c.trhead
  | 0xA8 => c.trtail
  | 0xB0 => c.trctl
  | 0xB8 => c.trhrec
  | 0xC0 => c.twbase
  | 0xC8 => c.twsize
  | 0xD0 => c.twpbase
  | 0xD8 => c.twpsize
  | 0xE0 => c.csabase
  | 0xE8 => c.csasize
  | _ => 0

/-- RLSIZE takes 0, and 8 to 24 (R262). -/
def rlSize (x : DWord) (old : BitVec 5) : BitVec 5 := if field x 4 0 == 0 then 0 else sizeField x 8 24 old

/-- The other registers below 0x140 that hold a value (R100, R101, R137, R156, R236, R262, R296). -/
def writePlainReg (off : Nat) (x : DWord) (c : VChip) : VChip :=
  match off with
  | 0x00 => { c with fwdctl := sizeField x 12 24 c.fwdctl }
  | 0x08 => { c with vmask0 := x }
  | 0x10 => { c with vmask1 := x }
  | 0x20 => { c with verr := c.verr && !x.getLsbD 1 }
  | 0x30 => { c with ptroot := keepBits x 51 12 }
  | 0x48 => { c with memUr := c.memUr && !x.getLsbD 0, memCe := c.memCe && !x.getLsbD 1, memUe := c.memUe && !x.getLsbD 2 }
  | 0x58 => { c with expbase := keepBits x 47 12 }
  | 0x60 => { c with expsize := keepBits x 40 12 }
  | 0x68 => { c with rlbase := keepBits x 47 12 }
  | 0x70 => { c with rlsize := rlSize x c.rlsize }
  | 0x78 => { c with rlhead := x }
  | 0x130 => { c with smpN := sizeField x 8 24 c.smpN, smpEn := x.getLsbD 5 }
  | _ => c

def readPlainReg (off : Nat) (c : VChip) : DWord :=
  match off with
  | 0x00 => c.fwdctl.setWidth 64
  | 0x08 => c.vmask0
  | 0x10 => c.vmask1
  | 0x20 => BitVec.ofNat 64 (boolBit c.vbusy 0 + boolBit c.verr 1)
  | 0x30 => c.ptroot
  | 0x40 => BitVec.ofNat 64 (boolBit c.tlbinv.isSome 0)
  | 0x48 => BitVec.ofNat 64 (boolBit c.memUr 0 + boolBit c.memCe 1 + boolBit c.memUe 2)
  | 0x58 => c.expbase
  | 0x60 => c.expsize
  | 0x68 => c.rlbase
  | 0x70 => c.rlsize.setWidth 64
  | 0x78 => c.rlhead
  | 0x80 => c.rltail
  | 0x130 => BitVec.ofNat 64 (c.smpN.toNat + boolBit c.smpEn 5)
  | _ => 0

/-- A write in the register space of virtual chip v (R300). -/
def writeVcReg (s : State) (v off : Nat) (x : DWord) : State :=
  if !(vchip s v).used || off % 8 != 0 then s
  else if off == 0x18 then
    after s (match x.toNat with
      | 1 => execVacate v s
      | 2 => execReturnPiers v s
      | _ => .next s)
  else if off == 0x38 then after s (execTlbinv v x s)
  else if 0x90 ≤ off && off < 0xF0 then
    let s1 := modVc s v (writeTrapReg off x)
    if off == 0x90 || off == 0x98 || off == 0xA0 then retryRecords s1 v else s1
  else if 0x100 ≤ off && off < 0x130 then modVc s v fun c => { c with stream := writeStream (off - 0x100) x c.stream }
  else if off < 0x140 then modVc s v (writePlainReg off x)
  else if 0x1000 ≤ off && off < 0x1400 then writeQueue s v ((off - 0x1000) / 0x40) (off % 0x40) x
  else if 0x2000 ≤ off && off < 0x2400 then
    modVc s v fun c => { c with caps := listMod (writeCap (off % 0x20) x) ((off - 0x2000) / 0x20) c.caps }
  else if 0x3000 ≤ off && off < 0x3200 then
    modVc s v fun c => { c with ingress := listMod (writeIngress (off % 0x40) x) ((off - 0x3000) / 0x40) c.ingress }
  else if 0x4000 ≤ off && (off - 0x4000) / 0x400 < 2 * (vcPiers (vchip s v)).length then
    let p := counterPlace (off - 0x4000)
    modVc s v (writeCounter p.1 p.2 x)
  else s

/-- A read in the register space of virtual chip v; a place that holds no register reads as zero. -/
def readVcReg (s : State) (v off : Nat) : DWord :=
  let c := vchip s v
  if !c.used || off % 8 != 0 then 0
  else if 0x90 ≤ off && off < 0xF0 then readTrapReg off c
  else if 0x100 ≤ off && off < 0x130 then readStream (off - 0x100) c.stream
  else if off < 0x140 then readPlainReg off c
  else if 0x300 ≤ off && off < 0x340 then (c.counters[(off - 0x300) / 8]?).getD 0
  else if 0x1000 ≤ off && off < 0x1400 then readQueue s v ((off - 0x1000) / 0x40) (off % 0x40)
  else if 0x2000 ≤ off && off < 0x2400 then ((c.caps[(off - 0x2000) / 0x20]?).map (readCap (off % 0x20))).getD 0
  else if 0x3000 ≤ off && off < 0x3200 then ((c.ingress[(off - 0x3000) / 0x40]?).map (readIngress (off % 0x40))).getD 0
  else if 0x4000 ≤ off then
    let p := counterPlace (off - 0x4000)
    let e := (tget c.bayCounters p.1).getD (0, 0)
    if p.2 then e.1 else e.2
  else 0

/-! ## Readback (R303; log 15) -/

/-- The space and the address that `RBADDR` names. -/
def rbSpace (s : State) : Nat := field s.rbaddr 63 56
def rbAddr (s : State) : Nat := field s.rbaddr 55 0

/-- The laser modules of a port, and whether it is stopped, as space 6 shows them. -/
def laserStatus (s : State) (port : Nat) : DWord :=
  BitVec.ofNat 64 (((s.lasers[port]?).getD 0).toNat + boolBit (s.stopped.contains port) 4)

/-- A word of an abutment table as space 5 shows it, addressed as argument 0 of operation 5 is. -/
def tableWord (s : State) (a : DWord) : DWord :=
  let x := argTable a
  let g := (s.guests[x.1]?).getD Guest.init
  match x.2.1 with
  | 0 => vcnEntry g x.2.2.1
  | 1 => (tget g.mcast (x.2.2.1 * 16 + x.2.2.2)).getD 0
  | 2 => ((tget g.labels x.2.2.1).getD 0).setWidth 64
  | _ => 0

/-- The signed firmware measurement, eight bytes of it (R273). -/
def signedMeasurement (s : State) (n : Nat) : DWord :=
  let m := sha512 (olzerImage s)
  BitVec.ofNat 64 (leBytes (((m ++ Config.identitySignature m).drop n).take 8))

/-- An error of the mailbox: its code is not in the spec, so it is free (log 15). -/
def rbFail (s : State) : State :=
  let r := draw s
  { r.2 with rberr := r.1.truncate 8 }

/-- A module that rejoins only when it is re-enabled here (R235): port and module from `RBADDR` (log 15). -/
def reenable (s : State) : State :=
  let port := field s.rbaddr 8 3
  { s with lasers := listMod (fun b => b ||| BitVec.twoPow 4 (field s.rbaddr 1 0)) port s.lasers }

/-! ## The management interface (R253, R301) -/

/-- A read in the management interface. -/
def readMgmt (s : State) (off : Nat) : DWord :=
  if s.pkgStat == 0 || off % 8 != 0 then 0
  else if 0x08 ≤ off && off ≤ 0x20 then hvArg s (off / 8 - 1)
  else if off == 0x28 then BitVec.ofNat 64 (boolBit s.hvbusy 0 + s.hverr.toNat * 256)
  else if off == 0x180 then BitVec.ofNat 64 (s.pkgStat.toNat + boolBit s.hbmTrained 8 + boolBit s.opticsOk 9)
  else if off == 0x1C0 then s.rbaddr
  else if off == 0x1D0 then s.rbdata
  else if off == 0x1D8 then BitVec.ofNat 64 (boolBit s.rbbusy 0 + s.rberr.toNat * 256)
  else if 0x200 ≤ off && off < 0x230 then readStream (off - 0x200) s.pkgStream
  else 0

/-- Any register: space 0 of the readback addresses function f at f × 2^20 (log 15). -/
def readReg (s : State) (fn off : Nat) : DWord :=
  match fn with
  | 0 => readMgmt s off
  | v + 1 => readVcReg s v off

/-- A write in the management interface, but for the mailbox's command. -/
def writeMgmt (s : State) (off : Nat) (x : DWord) : State :=
  if s.pkgStat == 0 || off % 8 != 0 then s
  else if off == 0 then hvCommand s (hvOp (field x 7 0))
  else if 0x08 ≤ off && off ≤ 0x20 then
    { s with hvarg := Vector.ofFn fun i => if i.val == off / 8 - 1 then x else s.hvarg[i] }
  else if off == 0x28 then { s with hverr := s.hverr &&& ~~~BitVec.ofNat 8 (field x 15 8) }
  else if off == 0x1C0 then { s with rbaddr := x }
  else if off == 0x1D0 then { s with rbdata := x }
  else if 0x200 ≤ off && off < 0x230 then { s with pkgStream := writeStream (off - 0x200) x s.pkgStream }
  else s

def writeReg (s : State) (fn off : Nat) (x : DWord) : State :=
  match fn with
  | 0 => writeMgmt s off x
  | v + 1 => writeVcReg s v off x

/-- The counter of a guest that a register read is of: its virtual chip and its ID. A per-bay counter's ID is what its `CSEL` selects
(R272, R298, R299). -/
def counterRead (s : State) (fn off : Nat) : Option (Nat × Nat) :=
  match fn with
  | 0 => none
  | v + 1 =>
    if 0x300 ≤ off && off < 0x340 then some (v, 0x100 + (off - 0x300) / 8)
    else if 0x4000 ≤ off && !(counterPlace (off - 0x4000)).2 then
      some (v, field ((tget (vchip s v).bayCounters (counterPlace (off - 0x4000)).1).getD (0, 0)).1 11 0)
    else none

/-- A register read for the hypervisor: a guest's counter that its allow-list does not admit reads zero, and is recorded (R272). -/
def rbReadReg (s : State) (fn off : Nat) : State :=
  match counterRead s fn off with
  | some (v, id) =>
    if (vchip s v).used && !readAllowed s v id then { readDenied s v id with rbdata := 0, rberr := 0 }
    else { s with rbdata := readReg s fn off, rberr := 0 }
  | none => { s with rbdata := readReg s fn off, rberr := 0 }

/-- Whether a byte of a core's scratchpad holds plaintext of a protected context (R303). -/
def scratchSecret (s : State) (core off : Nat) : Bool :=
  s.teams.any fun t => inPlace t && t.protKey.isSome
    && ((t.coreA == core && decide (t.baseA ≤ off) && decide (off < t.baseA + shareBytes t))
      || (t.coreB == some core && decide (t.baseB ≤ off) && decide (off < t.baseB + shareBytes t)))

/-- Space 1: the scratchpad of a core at core × 2^24; from 2^23 on the metadata word of each of its lines (log 15). -/
def rbScratch (s : State) (a : Nat) : DWord :=
  let core := a / 2 ^ 24
  let off := a % 2 ^ 23 / 8 * 8
  if a / 2 ^ 23 % 2 = 1 then BitVec.ofNat 64 (lineWord s (scratchKey core (off * 16)))
  else
    BitVec.ofNat 64 (leBytes ((List.range 8).map fun i =>
      if scratchSecret s core (off + i) then 0 else memRead s.mem (scratchKey core (off + i))))

/-- Space 2: registers and thread state of group n at n × 2^16, as a group's section of an image has them (R287; log 15). A group that is
not resident, or whose context is protected, shows zeros. -/
def rbGroup (s : State) (a : Nat) : DWord :=
  let n := a / 2 ^ 16
  match s.groups[n]? with
  | none => 0
  | some g =>
    match s.teams[g.team]? with
    | none => 0
    | some t =>
      if !inPlace t || t.protKey.isSome then 0 else BitVec.ofNat 64 (recField (groupSection s n g) (a % 2 ^ 16 / 8 * 8) 8)

/-- State of an L2 line as space 3 shows it. -/
def lineState (l : L2Line) : Nat :=
  boolBit l.dirty 0 + boolBit l.tomb 1 + boolBit l.counted.isSome 2 + boolBit l.prot.isSome 3 + ((l.counted.map fun n => n.toNat).getD 0) * 2 ^ 8
    + ((l.prot.map fun k => k.toNat).getD 0) * 2 ^ 16 + l.vc * 2 ^ 24

/-- Space 3: tag and state of each L2 line, 16 bytes a line (log 15). -/
def rbL2 (s : State) (a : Nat) : DWord :=
  match s.l2[a / 16]? with
  | none => 0
  | some e => BitVec.ofNat 64 (if a / 8 % 2 = 0 then e.1 else lineState e.2)

/-- Space 4: the entries of the L2 TLBs, 32 bytes each, and from 2^48 on those of the L1 TLB of core n at n × 2^16, 16 bytes each (log 15). -/
def rbTlb (s : State) (a : Nat) : DWord :=
  if 2 ^ 48 ≤ a then
    match (coreAt s (a / 2 ^ 16 % 2 ^ 32)).tlb1[a % 2 ^ 16 / 16]? with
    | none => 0
    | some e => BitVec.ofNat 64 (if a / 8 % 2 = 0 then e.page else e.vc + e.log * 2 ^ 8)
  else
    match s.tlb[a / 32]? with
    | none => 0
    | some e =>
      match a / 8 % 4 with
      | 0 => e.entry
      | 1 => BitVec.ofNat 64 e.page
      | 2 => BitVec.ofNat 64 (e.die + e.vc * 2 ^ 8 + e.log * 2 ^ 16 + boolBit e.table.isSome 24)
      | _ => BitVec.ofNat 64 (e.table.getD 0)

/-- `RBCMD` 1 (R303): a snapshot. -/
def rbRead (s : State) : State :=
  let a := rbAddr s
  match rbSpace s with
  | 0 => rbReadReg s (a / 2 ^ 20) (a % 2 ^ 20)
  | 1 => { s with rbdata := rbScratch s a, rberr := 0 }
  | 2 => { s with rbdata := rbGroup s a, rberr := 0 }
  | 3 => { s with rbdata := rbL2 s a, rberr := 0 }
  | 4 => { s with rbdata := rbTlb s a, rberr := 0 }
  | 5 => { s with rbdata := tableWord s s.rbaddr, rberr := 0 }
  | 6 => { s with rbdata := laserStatus s (a / 8), rberr := 0 }
  | 7 => { s with rbdata := signedMeasurement s (a / 8 * 8), rberr := 0 }
  | _ => rbFail s

/-- A table word rewritten through the readback is an abutment write: it is refused as operation 5 would refuse it, and recorded for
each interface of the guest in RUN (R265, R267, R295). -/
def rbTable (s : State) : State :=
  if tableOk s s.rbaddr s.rbdata then
    { changeRecords (putTable s s.rbaddr s.rbdata) (argTable s.rbaddr).1 (argTable s.rbaddr).2.2.1 with rberr := 0 }
  else rbFail s

/-- `RBCMD` 2: only to spaces 0, 5 and 6. -/
def rbWrite (s : State) : State :=
  let a := rbAddr s
  match rbSpace s with
  | 0 => { writeReg s (a / 2 ^ 20) (a % 2 ^ 20) s.rbdata with rberr := 0 }
  | 5 => rbTable s
  | 6 => { s with lasers := listMod (fun _ => s.rbdata.truncate 4) (a / 8) s.lasers, rberr := 0 }
  | _ => rbFail s

/-- `READBACK_READ` (R303). -/
def execReadbackRead (s : State) : Out := .next (if s.pkgStat == 0 then s else rbRead s)

/-- `READBACK_WRITE` (R303). -/
def execReadbackWrite (s : State) : Out := .next (if s.pkgStat == 0 then s else rbWrite s)

/-- `LASER_MODULE_REENABLE` (R235, R303). -/
def execLaserModuleReenable (s : State) : Out := .next (if s.pkgStat == 0 then s else { reenable s with rberr := 0 })

/-- A write of `RBCMD`. -/
def rbCommand (s : State) (x : DWord) : State :=
  if s.pkgStat == 0 then s
  else
    match x.toNat with
    | 1 => rbRead s
    | 2 => rbWrite s
    | 3 => { reenable s with rberr := 0 }
    | _ => s

/-- `REGISTER_WRITE` (R8, R253, R300, R301): a 64-bit write at an offset of a function's register space. -/
def execRegisterWrite (fn off : Nat) (value : BitVec 64) (s : State) : Out :=
  .next (if fn == 0 && off == 0x1C8 then rbCommand s value else writeReg s fn off value)

end Sys2Proof.Machine
end

