-- ==== Sys2Proof/Machine/Scalar.lean ====
section
/-!
DEFINITION. The scalar instructions that touch no memory, MAJ 0x00 to 0x0D (R443, R444, R448, R453, R456, R458).
-/

namespace Sys2Proof.Machine

/-- A scalar register written with a value of the group, once for the bundle (R443). -/
def scalarOp (i : Instr) (d : BitVec 6) (f : Group → DWord) (s : State) : Out :=
  issue i s fun c => issued i c (onGroup s c fun g => writeS g d (f g))

/-- Two scalar registers combined into a third (R444). -/
def scalar3 (i : Instr) (d a b : BitVec 6) (f : DWord → DWord → DWord) (s : State) : Out :=
  scalarOp i d (fun g => f (readS g a) (readS g b)) s

def execSadd (b a d : BitVec 6) (s : State) : Out := scalar3 (.sadd b a d) d a b (fun x y => x + y) s

def execSsub (b a d : BitVec 6) (s : State) : Out := scalar3 (.ssub b a d) d a b (fun x y => x - y) s

/-- `SMUL` (R444): fn6 0 the low half, 1 the signed high half, 2 the unsigned high half. -/
def mul64 (f : BitVec 6) (x y : DWord) : DWord :=
  if f = 1#6 then BitVec.ofInt 64 (x.toInt * y.toInt / 2 ^ 64)
  else if f = 2#6 then BitVec.ofNat 64 (x.toNat * y.toNat / 2 ^ 64)
  else x * y

def execSmul (f b a d : BitVec 6) (s : State) : Out := scalar3 (.smul f b a d) d a b (mul64 f) s

def execSand (b a d : BitVec 6) (s : State) : Out := scalar3 (.sand b a d) d a b (fun x y => x &&& y) s

def execSor (b a d : BitVec 6) (s : State) : Out := scalar3 (.sor b a d) d a b (fun x y => x ||| y) s

def execSxor (b a d : BitVec 6) (s : State) : Out := scalar3 (.sxor b a d) d a b (fun x y => x ^^^ y) s

def execSandn (b a d : BitVec 6) (s : State) : Out := scalar3 (.sandn b a d) d a b (fun x y => x &&& ~~~y) s

def execSshl (b a d : BitVec 6) (s : State) : Out := scalar3 (.sshl b a d) d a b (fun x y => x <<< (y.toNat % 64)) s

def execSshr (b a d : BitVec 6) (s : State) : Out := scalar3 (.sshr b a d) d a b (fun x y => x >>> (y.toNat % 64)) s

def execSsra (b a d : BitVec 6) (s : State) : Out :=
  scalar3 (.ssra b a d) d a b (fun x y => x.sshiftRight (y.toNat % 64)) s

/-- The smaller of two 64-bit values; `u` 1 takes them as unsigned (R444). -/
def min64 (u : BitVec 1) (x y : DWord) : DWord :=
  if u = 1#1 then (if y.ult x then y else x) else (if y.slt x then y else x)

/-- The larger of two 64-bit values; `u` 1 takes them as unsigned (R444). -/
def max64 (u : BitVec 1) (x y : DWord) : DWord :=
  if u = 1#1 then (if x.ult y then y else x) else (if x.slt y then y else x)

def execSmin (u : BitVec 1) (b a d : BitVec 6) (s : State) : Out := scalar3 (.smin u b a d) d a b (min64 u) s

def execSmax (u : BitVec 1) (b a d : BitVec 6) (s : State) : Out := scalar3 (.smax u b a d) d a b (max64 u) s

def execSaddi (k : BitVec 12) (a d : BitVec 6) (s : State) : Out :=
  scalarOp (.saddi k a d) d (fun g => readS g a + k.signExtend 64) s

/-- A 16-bit quarter of a value replaced (R456). -/
def putQuarter (k : BitVec 16) (c : BitVec 2) (x : DWord) : DWord :=
  x &&& ~~~((0xFFFF : DWord) <<< (16 * c.toNat)) ||| k.setWidth 64 <<< (16 * c.toNat)

/-- `SMOVI` (R456). -/
def execSmovi (k : BitVec 16) (c : BitVec 2) (d : BitVec 6) (s : State) : Out :=
  scalarOp (.smovi k c d) d (fun g => putQuarter k c (readS g d)) s

/-- The relations of `SCMP` (R448). -/
def scmpHolds (f : BitVec 6) (x y : DWord) : Bool :=
  if f = 0#6 then x == y
  else if f = 1#6 then x != y
  else if f = 2#6 then x.slt y
  else if f = 3#6 then x.sle y
  else if f = 4#6 then x.ult y
  else x.ule y

/-- `SCMP` (R448). -/
def execScmp (f b a d : BitVec 6) (s : State) : Out :=
  scalar3 (.scmp f b a d) d a b (fun x y => if scmpHolds f x y then 1 else 0) s

/-- `SLANE` (R453): the named lane may be in any state. -/
def execSlane (l a d : BitVec 6) (s : State) : Out :=
  scalarOp (.slane l a d) d (fun g => (readV (laneAt g l.toNat) a).setWidth 64) s

/-! ## Special registers (R26, R458) -/

/-- The number of a role (R26). -/
def roleCode : Role → DWord
  | .general => 0
  | .copy => 1
  | .matrix => 2
  | .vector => 3

/-- Members of a team's span, 0 outside a span (R26). -/
def spanSize (s : State) (t : Team) : Nat :=
  match t.span.bind fun k => s.spans[k]? with
  | some sp => sp.members.length
  | none => 0

/-- A group-uniform special register (R26). -/
def specialReg (s : State) (c : Ctx) (n : BitVec 12) : DWord :=
  let g := c.g
  let t := c.t
  match n.toNat with
  | 0x001 => BitVec.ofNat 64 g.width
  | 0x002 => BitVec.ofNat 64 g.num
  | 0x003 => BitVec.ofNat 64 t.kernel.ngroup
  | 0x004 => roleCode g.role
  | 0x008 => t.x.setWidth 64
  | 0x009 => t.y.setWidth 64
  | 0x00A => t.z.setWidth 64
  | 0x00C => t.nx.setWidth 64
  | 0x00D => t.ny.setWidth 64
  | 0x00E => t.nz.setWidth 64
  | 0x018 => BitVec.ofNat 64 t.rank
  | 0x019 => BitVec.ofNat 64 (spanSize s t)
  | 0x020 => BitVec.ofNat 64 (ownVcn s t.vc)
  | 0x021 => BitVec.ofNat 64 (podChips s (vchip s t.vc).guest).length
  | 0x022 => BitVec.ofNat 64 (vcCore c.vc g.core)
  | 0x023 => BitVec.ofNat 64 g.bay
  | 0x030 => (coreAt s g.core).clock
  | 0x031 => s.time
  | 0x040 => g.fpctl.setWidth 64
  | 0x041 => g.fpflags.setWidth 64
  | 0x042 => g.mflags.setWidth 64
  | 0x048 => (nextPrio g).setWidth 64
  | 0x049 => g.rcount.setWidth 64
  | 0x04B => g.stacklim
  | 0x050 => t.incarn.setWidth 64
  | _ => 0

/-- `SRD` (R458): the value as of its issue. -/
def execSrd (n : BitVec 12) (d : BitVec 6) (s : State) : Out :=
  let i : Instr := .srd n d
  issue i s fun c => issued i c (onGroup s c fun g => writeS g d (specialReg s c n))

/-- A group-uniform special register written (R458): bits not listed are ignored; `%prio` takes effect at the next regroup. -/
def writeSpecial (n : BitVec 12) (x : DWord) (g : Group) : Group :=
  match n.toNat with
  | 0x040 => { g with fpctl := x.truncate 13 &&& 0x1F0F#13 }
  | 0x041 => { g with fpflags := x.truncate 5 }
  | 0x042 => { g with mflags := x.truncate 3 }
  | 0x048 => { g with prioNext := some (if 31 < x.toNat then 31#5 else x.truncate 5) }
  | 0x049 => { g with rcount := x.truncate 6 }
  | 0x04B => { g with stacklim := x }
  | _ => g

/-- `SWR` (R458). -/
def execSwr (n : BitVec 12) (a : BitVec 6) (s : State) : Out :=
  let i : Instr := .swr n a
  issue i s fun c => issued i c (onGroup s c fun g => writeSpecial n (readS g a) g)

end Sys2Proof.Machine
end

