-- ==== Sys2Proof/Machine/Slots.lean ====
section
/-!
DEFINITION. The fabric's schedule (R227 to R231), striping and replay (R232 to R235), and the receipt of each class of flit.
-/

namespace Sys2Proof.Machine

/-! ## Ports (R225, R228, R229) -/

/-- The package that port k receives from in slot t (R228). -/
def transmitter (s : State) (k : Nat) : Nat := (s.pkg + s.order - swingOffset s.order s.slot k % s.order) % s.order

/-- The live wavelengths of a port, ascending: a module feeds four, and its group is live or out as a whole (R225, R232). -/
def liveWavelengths (s : State) (k : Nat) : List Nat :=
  (List.range 16).filter fun w => ((s.lasers[k]?).getD 0).getLsbD (w / 4)

/-- Rate of a port in Gb/s (R225, R229), which is also bits in a nanosecond. -/
def portRate (s : State) (k : Nat) : Nat := 64 * (liveWavelengths s k).length

/-- Flits that a port carries in a slot (R229, R232, R235). -/
def portCapacity (s : State) (k : Nat) : Nat := if s.stopped.contains k then 0 else slotDataNs * portRate s k / 768

/-- Flits whose sending on a port has begun by now in the current slot (R229, R235). -/
def portBegun (s : State) (k : Nat) : Nat := ((s.time.toNat - s.slot * slotNs) * portRate s k + 767) / 768

/-- A flit cut into equal chunks: the chunk that each live wavelength carries, as a number (R232). -/
def stripe (s : State) (k : Nat) (f : Flit) : List (Nat × Nat) :=
  let ws := liveWavelengths s k
  mapFrom (fun c w => (w, leBytes (wireBytes f) / 2 ^ (c * (768 / ws.length)) % 2 ^ (768 / ws.length))) 0 ws

/-- The mark that a port sends in the guard: the wavelengths that it will use (R232). -/
def portMark (s : State) (k : Nat) : BitVec 16 := (liveWavelengths s k).foldl (fun b w => b ||| BitVec.twoPow 16 w) 0

/-- Flits that a port has sent in the current slot and that are not acknowledged. -/
def portSent (s : State) (k : Nat) : Nat := s.sent.countP fun x => x.port == k && x.slot == s.slot

def portRoom (s : State) (k : Nat) : Bool := decide (portSent s k < portCapacity s k)

/-! ## Routing (R230) -/

/-- The lowest port that meets the target in this slot and has room. -/
def directPort (s : State) (j : Nat) : Option Nat :=
  (List.range 48).find? fun k => meets s.order s.pkg j s.slot k && portRoom s k

/-- The port whose partner meets the target soonest after this slot, with that slot, among the ports that have room for a flit (log 13);
the lowest breaks ties. -/
def relayPort (s : State) (j : Nat) : Option (Nat × Nat) :=
  (List.range 48).foldl (fun best k =>
    let m := (s.pkg + swingOffset s.order s.slot k) % s.order
    if m == j || !portRoom s k then best
    else
      match firstMeeting s.order m j (s.slot + 1), best with
      | none, b => b
      | some e, none => some (k, e)
      | some e, some b => if e < b.2 then some (k, e) else some b) none

/-- Where the flit at the head of a queue goes in this slot: its port, and whether to a relay. Whether a relay's trestle
buffer has room is free (log 13). -/
def route (s : State) (e : Egress) : Option (Nat × Bool) × State :=
  let j := e.flit.dpkg.toNat
  match firstMeeting s.order s.pkg j s.slot with
  | none => (none, s)
  | some d =>
    if d == s.slot then ((directPort s j).map fun k => (k, false), s)
    else
      match relayPort s j with
      | none => (none, s)
      | some r =>
        if decide (r.2 < d) && e.relayable then
          let x := draw s
          (if x.1.getLsbD 0 then some (r.1, true) else none, x.2)
        else (none, s)

/-- A flit sent on a port: it is numbered, its CRC is set, and it is kept until it is acknowledged (R225, R233). RLY is set on a flit
that goes to a relay, and stays on one that this package relays (R226, R230). -/
def sendOn (s : State) (e : Egress) (k : Nat) (rly : Bool) : State :=
  let n := portSent s k
  let f := { e.flit with rly := rly || e.came.isSome, seq := n }
  { s with sent := s.sent ++ [{ port := k, slot := s.slot, seq := n, item := { e with flit := { f with crc := flitCrc f } } }] }

/-- The queues served in order: a flit that waits holds back the later ones of its target. Flits of this package are looped
back; one that is refused stays queued (R260, R263). -/
def serve : List Nat → List Egress → State → State
  | _, [], s => s
  | held, e :: es, s =>
    let j := e.flit.dpkg.toNat
    if j == s.pkg then
      match deliver s none e.flit with
      | .refused => serve held es { s with egress := s.egress ++ [e] }
      | d => serve held es (settle s e.flit d)
    else if held.contains j then serve held es { s with egress := s.egress ++ [e] }
    else
      match route s e with
      | (some (k, rly), s1) => serve held es (sendOn s1 e k rly)
      | (none, s1) => serve (j :: held) es { s1 with egress := s1.egress ++ [e] }

/-- Whether the slot of a relayed flit has come. -/
def relayDue (s : State) (h : Held) : Bool :=
  match h.slot with
  | some t => decide (t ≤ s.slot)
  | none => false

/-- Relayed flits in turn: each goes direct, for a flit is never relayed a second time, or stays in the trestle buffer for the next slot
in which a port meets its target (R230). -/
def serveRelayed : List Held → State → State
  | [], s => s
  | h :: hs, s =>
    match directPort s h.flit.dpkg.toNat with
    | some k =>
      serveRelayed hs (sendOn s { flit := h.flit, relayable := false, queuedNs := s.time.toNat, key := none, came := h.came } k true)
    | none => serveRelayed hs { s with trestle := s.trestle ++ [relayHeld s h.flit h.came] }

/-- The next slot begins; slot 0 is the first (R227). -/
def beginSlot (s : State) : State :=
  if s.begun then { s with slot := s.slot + 1, stopped := [] } else { s with begun := true, stopped := [] }

/-- Whether the next slot's time has come. -/
def slotDue (s : State) : Bool := !s.begun || decide ((s.slot + 1) * slotNs ≤ s.time.toNat)

/-- `SLOT_START` (R227, R230): the next slot begins once its time has come, and what is queued is sealed (R268). The relayed flits whose
slot has come go ahead of the package's own. Flits that this slot's deliveries queue wait for the next. -/
def execSlotStart (s : State) : Out :=
  if !slotDue s then .next s
  else
    let s1 := beginSlot s
    let s2 := retryHeld { s1 with egress := [] }
    .next (serve [] (sealQueue s1.egress [])
      (serveRelayed (s2.trestle.filter (relayDue s2)) { s2 with trestle := s2.trestle.filter fun h => !relayDue s2 h }))

/-! ## Acknowledgement and replay (R233, R234) -/

/-- The acknowledgement of a port's slot: how many flits were accepted. It is never relayed, since no route label covers it (log 13). -/
def ackFlit (s : State) (a : Accepted) : Egress :=
  { flit := { bareFlit opAck 0 0 (ackBytes a.port a.slot a.next) 12 true .memory with
      dpkg := BitVec.ofNat 10 a.spkg, spkg := BitVec.ofNat 10 s.pkg },
    relayable := false, queuedNs := s.time.toNat, key := none, came := none }

/-- A port's slot can be acknowledged: its data has passed (R233). -/
def ackable (s : State) (a : Accepted) : Bool := decide (a.slot * slotNs + slotDataNs ≤ s.time.toNat)

/-- `SLOT_END` (R233): once the slot's data has passed, the receiver acknowledges what it accepted on each port, unless
that is acknowledgements alone (R234). -/
def execSlotEnd (s : State) : Out :=
  .next { s with
    egress := s.egress ++ (s.accepted.filter fun a => ackable s a && a.owed).map (ackFlit s)
    accepted := s.accepted.filter fun a => !ackable s a }

/-- `ACK_TIMEOUT` (R234): no acknowledgement by the end of slot t + T + 1; every flit of the slot is sent again. -/
def execAckTimeout (port slot : Nat) (s : State) : Out :=
  if s.slot ≤ slot + roundSlots s.order + 1 then .next s
  else .next (requeue s (s.sent.filter fun x => x.port == port && x.slot == slot))

/-- `DUPLICATE_SET_EXPIRY` (R234): 2 ms after the operation's last piece. -/
def execDuplicateSetExpiry (spkg sslot : Nat) (tag : BitVec 32) (s : State) : Out :=
  .next { s with dups := s.dups.filter fun d =>
    !(d.spkg == spkg && d.sslot == sslot && d.tag == tag && decide (d.lastNs + 2000000 ≤ s.time.toNat)) }

/-- A flit that has waited 1 ms to be sent, by its tag; an acknowledgement's is 0. -/
def overdue (s : State) (tag : BitVec 32) (e : Egress) : Bool :=
  e.flit.tag == tag && decide (e.queuedNs + 1000000 ≤ s.time.toNat)

/-- A flit that this package relays and that it has held for 1 ms. -/
def overdueRelay (s : State) (tag : BitVec 32) (h : Held) : Bool :=
  h.slot.isSome && h.flit.tag == tag && decide (((h.came.map fun c => c.2).getD 0) * slotNs + 1000000 ≤ s.time.toNat)

/-- A flit of this package dropped (R251): its piece fails with KIND 6 at its source. With a tag flit all of its run does, which no
other tag will open. What this package replies or acknowledges has its source elsewhere. -/
def dropOwn (s : State) (f : Flit) : State :=
  if f.spkg.toNat != s.pkg || f.op == opAck then s
  else
    match f.run with
    | some r => if r.replies then s else r.offs.foldl (fun s o => failPiece s f.tag (sentPiece s { f with off := o }) 6) s
    | none =>
      if !isReply f.op then failPiece s f.tag (sentPiece s f) 6
      else if f.dpkg.toNat == s.pkg then failPiece s f.tag (answeredPiece s f) 6 else s

/-- A relayed flit dropped (R251): its source is told KIND 6 by a completion in its target's name, which the spec does not describe
(log 13). -/
def dropRelayed (s : State) (f : Flit) : State :=
  let told (o : BitVec 48) : Egress :=
    { flit := { bareFlit opCompletion f.tag o.toNat [6, 0] 1 f.last .memory with
        dpkg := f.spkg, dslot := f.sslot, spkg := f.dpkg, sslot := f.dslot },
      relayable := false, queuedNs := s.time.toNat, key := none, came := none }
  if f.op == opHint || isReply f.op then s
  else { s with egress := s.egress ++ ((f.run.map fun r => if r.replies then [] else r.offs).getD [f.off]).map told }

/-- `FLIT_DROP` (R251): the flits that are undelivered after 1 ms are dropped, in the egress queues and in the trestle buffer. -/
def execFlitDrop (tag : BitVec 32) (s : State) : Out :=
  let own := s.egress.filter (overdue s tag)
  let others := s.trestle.filter (overdueRelay s tag)
  let s1 := { s with
    egress := s.egress.filter fun e => !overdue s tag e
    trestle := s.trestle.filter fun h => !overdueRelay s tag h }
  .next (others.foldl (fun s h => dropRelayed s h.flit) (own.foldl (fun s e => dropOwn s e.flit) s1))

/-- The record of a loss of light in the package's stream (R235, R295). -/
def lossRecord (s : State) (port wavelength : Nat) : State := pkgEvent s 14 [(9, port), (10, wavelength / 4)]

/-- A port stops for the rest of the slot: what it has not begun to send goes back (R235). One that has stopped already stays so. -/
def stopPort (s : State) (port : Nat) : State :=
  if s.stopped.contains port then s
  else
    { takeBack s (s.sent.filter fun x => x.port == port && x.slot == s.slot && decide (portBegun s port ≤ x.seq)) with
      stopped := port :: s.stopped }

/-- `LOSS_OF_LIGHT` (R232, R235), which the transmitter detects: the port sends no more in the slot, the wavelength's group is taken
out, and the loss is recorded. -/
def execLossOfLight (port wavelength : Nat) (s : State) : Out :=
  let m := wavelength / 4
  if 48 ≤ port || 16 ≤ wavelength || !((s.lasers[port]?).getD 0).getLsbD m then .next s
  else
    let s1 := stopPort s port
    .next (lossRecord { s1 with lasers := listMod (fun b => b &&& ~~~BitVec.twoPow 4 m) port s1.lasers } port wavelength)

/-- Loss of light that the receiver of a port detects is recorded by this package too (R235). -/
def darkPort (s : State) (port wavelength : Nat) : State :=
  if 48 ≤ port || 16 ≤ wavelength then s else lossRecord s port wavelength

/-- The marks of a guard set the wavelengths that a port receives on (R232). -/
def setMarks (s : State) (port : Nat) (set : BitVec 16) : State := { s with stripes := listMod (fun _ => set) port s.stripes }

/-! ## Receipt (R226, R233) -/

/-- The classes of flits by what their receiver does. -/
inductive FlitRow where
  | write
  | getRequest
  | getResponse
  | atomicRequest
  | atomicResponse
  | poolRequest
  | poolResponse
  | acknowledgement
  | hint
  | completion
  | tag
  | relayed
  | discard
  deriving DecidableEq, Repr

/-- The class of a flit; one that is damaged or malformed, or that no hop leads further, is discarded. -/
def rowOf (s : State) (f : Flit) : FlitRow :=
  if malformed f then .discard
  else if f.dpkg.toNat != s.pkg then (if f.rly then .relayed else .discard)
  else if f.tg then .tag
  else
    match f.op.toNat with
    | 0 => .write
    | 1 => .getRequest
    | 2 => .getResponse
    | 3 => .atomicRequest
    | 4 => .atomicResponse
    | 5 => .poolRequest
    | 6 => .poolResponse
    | 7 => .acknowledgement
    | 8 => .hint
    | 9 => .completion
    | _ => .discard

/-- What the current slot has brought on a port. -/
def acceptedAt (s : State) (port : Nat) : Accepted :=
  (s.accepted.find? fun a => a.port == port && a.slot == s.slot).getD
    { port := port, slot := s.slot, spkg := transmitter s port, next := 0, broken := false, owed := false }

def putAccepted (s : State) (a : Accepted) : State :=
  { s with accepted := (s.accepted.filter fun x => !(x.port == a.port && x.slot == a.slot)) ++ [a] }

/-- An accepted flit taken by its class: what it leads to, and whether it is accepted. A relayed flit needs room in the trestle
buffer (R9, R230). -/
def takeClass (s : State) (port : Nat) (f : Flit) : FlitRow → State × Bool
  | .tag => doTag s (port, s.slot) f
  | .relayed =>
    if trestleRoom s then ({ s with trestle := s.trestle ++ [relayHeld s f (some (port, s.slot))] }, true) else (s, false)
  | .discard => (s, false)
  | _ =>
    match deliver s (some (port, s.slot)) f with
    | .refused => (s, false)
    | .failed s1 => (s1, false)
    | d => (settle s f d, true)

/-- A flit that arrives on a port: it is accepted in the order of its slot's numbers while every earlier one has arrived
intact, and no flit of the slot after one that failed (R233). -/
def takeFlit (s : State) (port : Nat) (f : Flit) : State :=
  let row := rowOf s f
  let a := acceptedAt s port
  let a := { a with owed := a.owed || row != .acknowledgement }
  if a.broken then putAccepted s a
  else if f.seq != a.next then putAccepted s { a with broken := true }
  else
    let r := takeClass (putAccepted s a) port f row
    let b := acceptedAt r.1 port
    putAccepted r.1 (if r.2 then { b with next := b.next + 1 } else { b with broken := true })

/-- The receipt of a flit of a class; a port whose partner has marked no wavelength receives nothing (R232). -/
def receive (row : FlitRow) (port : Nat) (f : Flit) (s : State) : Out :=
  if (s.stripes[port]?).getD 0 == 0 || rowOf s f != row then .next s else .next (takeFlit s port { f with opened := none })

/-- `WRITE_FLIT` (R242). -/
def execWriteFlit (port : Nat) (f : Flit) (s : State) : Out := receive .write port f s
/-- `GET_REQUEST` (R243). -/
def execGetRequest (port : Nat) (f : Flit) (s : State) : Out := receive .getRequest port f s
/-- `GET_RESPONSE` (R243). -/
def execGetResponse (port : Nat) (f : Flit) (s : State) : Out := receive .getResponse port f s
/-- `ATOMIC_REQUEST` (R248). -/
def execAtomicRequest (port : Nat) (f : Flit) (s : State) : Out := receive .atomicRequest port f s
/-- `ATOMIC_RESPONSE` (R248). -/
def execAtomicResponse (port : Nat) (f : Flit) (s : State) : Out := receive .atomicResponse port f s
/-- `POOL_REQUEST` (R250). -/
def execPoolRequest (port : Nat) (f : Flit) (s : State) : Out := receive .poolRequest port f s
/-- `POOL_RESPONSE` (R250). -/
def execPoolResponse (port : Nat) (f : Flit) (s : State) : Out := receive .poolResponse port f s
/-- `ACKNOWLEDGEMENT` (R233). -/
def execAcknowledgement (port : Nat) (f : Flit) (s : State) : Out := receive .acknowledgement port f s
/-- `HINT` (R261). -/
def execHint (port : Nat) (f : Flit) (s : State) : Out := receive .hint port f s
/-- `COMPLETION` (R244). -/
def execCompletion (port : Nat) (f : Flit) (s : State) : Out := receive .completion port f s
/-- `TAG_FLIT` (R268). -/
def execTagFlit (port : Nat) (f : Flit) (s : State) : Out := receive .tag port f s
/-- `RELAYED_FLIT` (R230): held to be sent on in the first later slot in which a port meets its target. -/
def execRelayedFlit (port : Nat) (f : Flit) (s : State) : Out := receive .relayed port f s
/-- `FLIT_DISCARD` (R226, R233): the flit and every later one of its slot are discarded. -/
def execFlitDiscard (port : Nat) (f : Flit) (s : State) : Out := receive .discard port f s

end Sys2Proof.Machine
end

