-- ==== Sys2Proof/Machine/VecFloat.lean ====
section
/-!
DEFINITION. The vector float instructions, MAJ 0x28 to 0x3B, and the compact float forms (R307, R334, R379 to R417).
-/

namespace Sys2Proof.Machine

/-- `FCVT` (R385): a 16-bit result leaves zeros above (R107). -/
def fcvtW (f : BitVec 2) (env : FpEnv) (x : Word) : FRes :=
  if f = 0#2 then fConv f16 f32 env (x.toNat % 65536)
  else if f = 1#2 then fConv bf16 f32 env (x.toNat % 65536)
  else if f = 2#2 then fConv f32 f16 env x.toNat
  else fConv f32 bf16 env x.toNat

/-- Element j of a container of narrow floats (R122). -/
def narrowAt (f : BitVec 2) (j : Nat) (x : Word) : Nat :=
  let w := (narrowOf f).width
  x.toNat / 2 ^ (w * j) % 2 ^ w

/-- Element j replaced; bits [31:24] of an `.nf6` container become 0 (R417). -/
def narrowPut (f : BitVec 2) (j : Nat) (x : Word) (code : Nat) : Word :=
  let w := (narrowOf f).width
  let y := (x.toNat - narrowAt f j x * 2 ^ (w * j)) + code * 2 ^ (w * j)
  BitVec.ofNat 32 (if f = 1#2 then y % 2 ^ 24 else y)

/-- `NCVT.pack`: the element converted under RM and put into the container (R121, R417). -/
def ncvtPack (f : BitVec 2) (j : Nat) (env : FpEnv) (x z : Word) : FRes :=
  let r := packNarrow (narrowOf f) env.rm (f32Of env x) x.msb
  { code := (narrowPut f j z r.code).toNat, flags := r.flags }

/-- `NCVT.unpack`: exact, without a flag (R121, R417). -/
def ncvtUnpack (f : BitVec 2) (j : Nat) (x : Word) : FRes :=
  { (codeV f32 plainEnv (unpackNarrow (narrowOf f) (narrowAt f j x))) with flags := 0 }


/-- Compact `FADD` (R307). -/
def execFaddCompact (r d : BitVec 5) (s : State) : Out :=
  float3 (.faddCompact r d) (d.setWidth 6) (d.setWidth 6) (r.setWidth 6) addF s

/-- Compact `FMUL` (R307). -/
def execFmulCompact (r d : BitVec 5) (s : State) : Out :=
  float3 (.fmulCompact r d) (d.setWidth 6) (d.setWidth 6) (r.setWidth 6) mulF s

/-- Compact `FSUB` (R307). -/
def execFsubCompact (r d : BitVec 5) (s : State) : Out :=
  float3 (.fsubCompact r d) (d.setWidth 6) (d.setWidth 6) (r.setWidth 6) subF s

/-- Compact `FMAX` (R307). -/
def execFmaxCompact (r d : BitVec 5) (s : State) : Out :=
  float3 (.fmaxCompact r d) (d.setWidth 6) (d.setWidth 6) (r.setWidth 6) maxF s

/-- Compact `FMIN` (R307). -/
def execFminCompact (r d : BitVec 5) (s : State) : Out :=
  float3 (.fminCompact r d) (d.setWidth 6) (d.setWidth 6) (r.setWidth 6) minF s

/-- `FADD` (R381). -/
def execFadd (n : BitVec 1) (g : BitVec 3) (b a d : BitVec 6) (s : State) : Out :=
  float3 (.fadd n g b a d) d a b addF s

/-- `FSUB` (R381). -/
def execFsub (n : BitVec 1) (g : BitVec 3) (b a d : BitVec 6) (s : State) : Out :=
  float3 (.fsub n g b a d) d a b subF s

/-- `FMUL` (R381). -/
def execFmul (n : BitVec 1) (g : BitVec 3) (b a d : BitVec 6) (s : State) : Out :=
  float3 (.fmul n g b a d) d a b mulF s

/-- `FFMA` (R390): one rounding. -/
def execFfma (n : BitVec 1) (g : BitVec 3) (b a d : BitVec 6) (s : State) : Out :=
  floatOp (.ffma n g b a d) (fun env l => putF d l (fFmaV f32 env (f32Of env (readV l a)) (f32Of env (readV l b)) (f32Of env (readV l d)))) s

/-- `FMIN` (R391). -/
def execFmin (n : BitVec 1) (g : BitVec 3) (b a d : BitVec 6) (s : State) : Out :=
  float3 (.fmin n g b a d) d a b minF s

/-- `FMAX` (R391). -/
def execFmax (n : BitVec 1) (g : BitVec 3) (b a d : BitVec 6) (s : State) : Out :=
  float3 (.fmax n g b a d) d a b maxF s

/-- `FCMP` (R383). -/
def execFcmp (f : BitVec 2) (n : BitVec 1) (g : BitVec 3) (b a : BitVec 6) (p : BitVec 3) (s : State) : Out :=
  floatOp (.fcmp f n g b a p) (fun env l =>
    let r := fCmp f (f32Of env (readV l a)) (f32Of env (readV l b))
    (writeP l p r.1, r.2)) s

/-- `FRCP` (R392). -/
def execFrcp (n : BitVec 1) (g : BitVec 3) (a d : BitVec 6) (s : State) : Out :=
  float2 (.frcp n g a d) d a (fRcpV f32) s

/-- `FRSQ` (R392). -/
def execFrsq (n : BitVec 1) (g : BitVec 3) (a d : BitVec 6) (s : State) : Out :=
  float2 (.frsq n g a d) d a (fRsqV f32) s

/-- `FSQRT` (R392). -/
def execFsqrt (n : BitVec 1) (g : BitVec 3) (a d : BitVec 6) (s : State) : Out :=
  float2 (.fsqrt n g a d) d a (fSqrtV f32) s

/-- `FDIV` (R386). -/
def execFdiv (n : BitVec 1) (g : BitVec 3) (b a d : BitVec 6) (s : State) : Out :=
  float3 (.fdiv n g b a d) d a b (fDivV f32) s

/-- `FEXP2` (R117, R389; log 6). -/
def execFexp2 (n : BitVec 1) (g : BitVec 3) (a d : BitVec 6) (s : State) : Out :=
  floatOp (.fexp2 n g a d) (fun env l => putF d l (fExp2 env (readV l a))) s

/-- `FLOG2` (R117, R389; log 6). -/
def execFlog2 (n : BitVec 1) (g : BitVec 3) (a d : BitVec 6) (s : State) : Out :=
  floatOp (.flog2 n g a d) (fun env l => putF d l (fLog2 env (readV l a))) s

/-- `FSIN` (R117, R389; log 6). -/
def execFsin (n : BitVec 1) (g : BitVec 3) (a d : BitVec 6) (s : State) : Out :=
  floatOp (.fsin n g a d) (fun env l => putF d l (fSinCos false env (readV l a))) s

/-- `FCOS` (R117, R389; log 6). -/
def execFcos (n : BitVec 1) (g : BitVec 3) (a d : BitVec 6) (s : State) : Out :=
  floatOp (.fcos n g a d) (fun env l => putF d l (fSinCos true env (readV l a))) s

/-- `FCVT` (R385). -/
def execFcvt (f : BitVec 2) (n : BitVec 1) (g : BitVec 3) (a d : BitVec 6) (s : State) : Out :=
  floatOp (.fcvt f n g a d) (fun env l => putF d l (fcvtW f env (readV l a))) s

/-- `NCVT` (R417). -/
def execNcvt (u n : BitVec 1) (g : BitVec 3) (j : BitVec 4) (f : BitVec 2) (a d : BitVec 6) (s : State) : Out :=
  floatOp (.ncvt u n g j f a d) (fun env l =>
    putF d l (if u = 1#1 then ncvtUnpack f j.toNat (readV l a) else ncvtPack f j.toNat env (readV l a) (readV l d))) s

/-- `ICVT.i32.f32` and `ICVT.n32.f32` (R397). -/
def execIcvtF32ToInt (u n : BitVec 1) (g m : BitVec 3) (a d : BitVec 6) (s : State) : Out :=
  floatOp (.icvtF32ToInt u n g m a d) (fun env l =>
    let r := fToInt (u == 1#1) (modeRm m env.rm) (f32Of env (readV l a))
    (writeV l d r.1, r.2)) s

/-- `ICVT.f32.i32` and `ICVT.f32.n32` (R397). -/
def execIcvtIntToF32 (u n : BitVec 1) (g : BitVec 3) (a d : BitVec 6) (s : State) : Out :=
  floatOp (.icvtIntToF32 u n g a d) (fun env l =>
    putF d l (fFromInt env (if u = 1#1 then ((readV l a).toNat : Int) else (readV l a).toInt))) s

/-- `FCLASS` (R382): no flag, DAZ not applied. -/
def execFclass (n : BitVec 1) (g : BitVec 3) (a d : BitVec 6) (s : State) : Out :=
  vec2 (.fclass n g a d) d a fClass s

/-- `FSCL` (R394). -/
def execFscl (n : BitVec 1) (g : BitVec 3) (b a d : BitVec 6) (s : State) : Out :=
  floatOp (.fscl n g b a d) (fun env l => putF d l (fScale env (f32Of env (readV l a)) (readV l b).toInt)) s

/-- `FABS` (R379): a bit move. -/
def execFabs (n : BitVec 1) (g : BitVec 3) (a d : BitVec 6) (s : State) : Out :=
  vec2 (.fabs n g a d) d a (fun x => x &&& 0x7FFFFFFF) s

/-- `FNEG` (R379): a bit move. -/
def execFneg (n : BitVec 1) (g : BitVec 3) (a d : BitVec 6) (s : State) : Out :=
  vec2 (.fneg n g a d) d a (fun x => x ^^^ 0x80000000) s

/-- `FCPYS` (R379): a bit move. -/
def execFcpys (n : BitVec 1) (g : BitVec 3) (b a d : BitVec 6) (s : State) : Out :=
  vec3 (.fcpys n g b a d) d a b (fun x y => (x &&& 0x7FFFFFFF) ||| (y &&& 0x80000000)) s

/-- `FRND` (R393). -/
def execFrnd (n : BitVec 1) (g m : BitVec 3) (a d : BitVec 6) (s : State) : Out :=
  float2 (.frnd n g m a d) d a (fun env x => fRound (modeRm m env.rm) env x) s

end Sys2Proof.Machine
end

