-- ==== Sys2Proof/Machine/VecInt.lean ====
section
/-!
DEFINITION. The vector integer and predicate instructions, MAJ 0x10 to 0x27, and the compact forms (R307, R332, R344 to R467).
-/

namespace Sys2Proof.Machine

/-- A shift count of a register: its value mod 32 (R451). -/
def shiftCount (y : Word) : Nat := y.toNat % 32

/-- Shifts by a register count (R451). -/
def shlW (x y : Word) : Word := x <<< shiftCount y
def shrW (x y : Word) : Word := x >>> shiftCount y
def sraW (x y : Word) : Word := x.sshiftRight (shiftCount y)

/-- Minimum and maximum, signed and unsigned (R407). -/
def minS (x y : Word) : Word := if x.slt y then x else y
def maxS (x y : Word) : Word := if x.slt y then y else x
def minU (x y : Word) : Word := if x.ult y then x else y
def maxU (x y : Word) : Word := if x.ult y then y else x

/-- A compact immediate (R307). -/
def imm5 (i : BitVec 5) : Word := i.signExtend 32

/-- High half of a product, signed or unsigned (R415). -/
def mulHigh (unsigned : BitVec 1) (x y : Word) : Word :=
  if unsigned = 1#1 then BitVec.ofNat 32 (x.toNat * y.toNat / 2 ^ 32) else BitVec.ofInt 32 (x.toInt * y.toInt / 2 ^ 32)

/-- Magnitude (R344). -/
def absW (x : Word) : Word := if x.msb then 0 - x else x

/-- Leading zeros (R356). -/
def clzW (x : Word) : Word := if x = 0 then 32 else BitVec.ofNat 32 (31 - x.toNat.log2)

/-- Set bits (R432). -/
def popcW (x : Word) : Word := BitVec.ofNat 32 ((List.range 32).filter fun k => x.getLsbD k).length

/-- Bit reversal (R356). -/
def brevW (x : Word) : Word := x.reverse

/-- Start and length of a bit field: bits above bit 31 are dropped (R354). -/
def fieldPos (y : Word) : Nat := y.toNat % 32

def fieldLen (y : Word) : Nat :=
  let n := y.toNat / 256 % 32
  Nat.min (if n = 0 then 32 else n) (32 - fieldPos y)

/-- The low n bits set. -/
def lowBits (n : Nat) : Word := BitVec.ofNat 32 (2 ^ n - 1)

/-- `BFE` (R354). -/
def extractField (signed : BitVec 1) (x y : Word) : Word :=
  let n := fieldLen y
  let f := (x >>> fieldPos y) &&& lowBits n
  if signed = 1#1 && f.getLsbD (n - 1) then f ||| ~~~lowBits n else f

/-- `BFI` (R354). -/
def insertField (x y z : Word) : Word :=
  let m := lowBits (fieldLen y) <<< fieldPos y
  (z &&& ~~~m) ||| ((x <<< fieldPos y) &&& m)

/-- Relations of `CMP` and `CMPN` (R362). -/
def cmpRel (f : BitVec 2) (lt : Bool) (x y : Word) : Bool :=
  if f = 0#2 then x == y else if f = 1#2 then x != y else if f = 2#2 then lt else lt || x == y

/-- An integer saturated to a range (R367). -/
def clampTo (lo hi v : Int) : Int := if v < lo then lo else if hi < v then hi else v

/-- `CVT` (R367). -/
def cvtW (f : BitVec 2) (x : Word) : Word :=
  if f = 0#2 then (x.extractLsb' 0 8).signExtend 32
  else if f = 1#2 then (x.extractLsb' 0 16).signExtend 32
  else if f = 2#2 then BitVec.ofInt 32 (clampTo (-128) 127 x.toInt)
  else BitVec.ofInt 32 (clampTo (-32768) 32767 x.toInt)

/-- Byte k of a word, as `DOT4` reads it (R373). -/
def dotByte (signed : Bool) (x : Word) (k : Nat) : Int :=
  let b := x.extractLsb' (8 * k) 8
  if signed then b.toInt else (b.toNat : Int)

/-- `DOT4`: the exact sum, then the wrap (R373). -/
def dot4W (f : BitVec 2) (x y z : Word) : Word :=
  let sa := f != 1#2
  let sb := f == 0#2
  let t (k : Nat) : Int := dotByte sa x k * dotByte sb y k
  BitVec.ofInt 32 ((z.toNat : Int) + t 0 + t 1 + t 2 + t 3)

/-- Lanes of a block of `PLANE` (R333). -/
def planeBlock (c : Ctx) : Nat := Nat.min 32 c.g.width

/-- The word of `PLANE.g` for a lane: bit j is bit k of the block's j-th lane, if that lane acts (R333). -/
def planeWord (c : Ctx) (m : Mask) (k : Nat) (a : BitVec 6) (lane : Nat) : Word :=
  let first := lane / planeBlock c * planeBlock c
  BitVec.ofNat 32 (((List.range (planeBlock c)).filter fun j =>
    has m (first + j) && (readV (laneAt c.g (first + j)) a).getLsbD k).foldl (fun n j => n + 2 ^ j) 0)

/-- A per-lane special register (R26, R404). -/
def laneSpecial (n : Nat) (lane : Nat) (l : Lane) : DWord :=
  if n = 0x000 then BitVec.ofNat 64 lane
  else if n = 0x010 then l.item.setWidth 64
  else if n = 0x011 then l.gen.setWidth 64
  else l.stack


/-- Compact `ADD` (R307). -/
def execAddCompact (r d : BitVec 5) (s : State) : Out :=
  vec3 (.addCompact r d) (d.setWidth 6) (d.setWidth 6) (r.setWidth 6) (fun x y => x + y) s

/-- Compact `ADD` (R307), immediate. -/
def execAddCompactImm (i d : BitVec 5) (s : State) : Out :=
  vec2 (.addCompactImm i d) (d.setWidth 6) (d.setWidth 6) (fun x => x + imm5 i) s

/-- Compact `SUB` (R307). -/
def execSubCompact (r d : BitVec 5) (s : State) : Out :=
  vec3 (.subCompact r d) (d.setWidth 6) (d.setWidth 6) (r.setWidth 6) (fun x y => x - y) s

/-- Compact `SUB` (R307), immediate. -/
def execSubCompactImm (i d : BitVec 5) (s : State) : Out :=
  vec2 (.subCompactImm i d) (d.setWidth 6) (d.setWidth 6) (fun x => x - imm5 i) s

/-- Compact `AND` (R307). -/
def execAndCompact (r d : BitVec 5) (s : State) : Out :=
  vec3 (.andCompact r d) (d.setWidth 6) (d.setWidth 6) (r.setWidth 6) (fun x y => x &&& y) s

/-- Compact `AND` (R307), immediate. -/
def execAndCompactImm (i d : BitVec 5) (s : State) : Out :=
  vec2 (.andCompactImm i d) (d.setWidth 6) (d.setWidth 6) (fun x => x &&& imm5 i) s

/-- Compact `OR` (R307). -/
def execOrCompact (r d : BitVec 5) (s : State) : Out :=
  vec3 (.orCompact r d) (d.setWidth 6) (d.setWidth 6) (r.setWidth 6) (fun x y => x ||| y) s

/-- Compact `OR` (R307), immediate. -/
def execOrCompactImm (i d : BitVec 5) (s : State) : Out :=
  vec2 (.orCompactImm i d) (d.setWidth 6) (d.setWidth 6) (fun x => x ||| imm5 i) s

/-- Compact `XOR` (R307). -/
def execXorCompact (r d : BitVec 5) (s : State) : Out :=
  vec3 (.xorCompact r d) (d.setWidth 6) (d.setWidth 6) (r.setWidth 6) (fun x y => x ^^^ y) s

/-- Compact `XOR` (R307), immediate. -/
def execXorCompactImm (i d : BitVec 5) (s : State) : Out :=
  vec2 (.xorCompactImm i d) (d.setWidth 6) (d.setWidth 6) (fun x => x ^^^ imm5 i) s

/-- Compact `SHL` (R307). -/
def execShlCompact (r d : BitVec 5) (s : State) : Out :=
  vec3 (.shlCompact r d) (d.setWidth 6) (d.setWidth 6) (r.setWidth 6) shlW s

/-- Compact `SHL` (R307), immediate. -/
def execShlCompactImm (i d : BitVec 5) (s : State) : Out :=
  vec2 (.shlCompactImm i d) (d.setWidth 6) (d.setWidth 6) (fun x => shlW x (imm5 i)) s

/-- Compact `SHR` (R307). -/
def execShrCompact (r d : BitVec 5) (s : State) : Out :=
  vec3 (.shrCompact r d) (d.setWidth 6) (d.setWidth 6) (r.setWidth 6) shrW s

/-- Compact `SHR` (R307), immediate. -/
def execShrCompactImm (i d : BitVec 5) (s : State) : Out :=
  vec2 (.shrCompactImm i d) (d.setWidth 6) (d.setWidth 6) (fun x => shrW x (imm5 i)) s

/-- Compact `MOV` (R307, R410). -/
def execMovCompact (r d : BitVec 5) (s : State) : Out :=
  vec2 (.movCompact r d) (d.setWidth 6) (r.setWidth 6) (fun y => y) s

/-- Compact `MOV` of an immediate (R307, R410). -/
def execMovCompactImm (i d : BitVec 5) (s : State) : Out :=
  vecOp (.movCompactImm i d) (d.setWidth 6) (fun _ => imm5 i) s

/-- Compact `MUL` (R307). -/
def execMulCompact (r d : BitVec 5) (s : State) : Out :=
  vec3 (.mulCompact r d) (d.setWidth 6) (d.setWidth 6) (r.setWidth 6) (fun x y => x * y) s

/-- Compact `MIN.i32` (R307). -/
def execMinI32Compact (r d : BitVec 5) (s : State) : Out :=
  vec3 (.minI32Compact r d) (d.setWidth 6) (d.setWidth 6) (r.setWidth 6) minS s

/-- Compact `MAX.i32` (R307). -/
def execMaxI32Compact (r d : BitVec 5) (s : State) : Out :=
  vec3 (.maxI32Compact r d) (d.setWidth 6) (d.setWidth 6) (r.setWidth 6) maxS s

/-- `ADD` (R346). -/
def execAdd (n : BitVec 1) (g : BitVec 3) (b a d : BitVec 6) (s : State) : Out :=
  vec3 (.add n g b a d) d a b (fun x y => x + y) s

/-- `SUB` (R463). -/
def execSub (n : BitVec 1) (g : BitVec 3) (b a d : BitVec 6) (s : State) : Out :=
  vec3 (.sub n g b a d) d a b (fun x y => x - y) s

/-- `MUL` (R414). -/
def execMul (n : BitVec 1) (g : BitVec 3) (b a d : BitVec 6) (s : State) : Out :=
  vec3 (.mul n g b a d) d a b (fun x y => x * y) s

/-- `MULHI` (R415). -/
def execMulhi (u n : BitVec 1) (g : BitVec 3) (b a d : BitVec 6) (s : State) : Out :=
  vec3 (.mulhi u n g b a d) d a b (mulHigh u) s

/-- `MAD` (R405). -/
def execMad (n : BitVec 1) (g : BitVec 3) (b a d : BitVec 6) (s : State) : Out :=
  vecOp (.mad n g b a d) d (fun l => readV l a * readV l b + readV l d) s

/-- `AND` (R347). -/
def execAnd (n : BitVec 1) (g : BitVec 3) (b a d : BitVec 6) (s : State) : Out :=
  vec3 (.and n g b a d) d a b (fun x y => x &&& y) s

/-- `OR` (R420). -/
def execOr (n : BitVec 1) (g : BitVec 3) (b a d : BitVec 6) (s : State) : Out :=
  vec3 (.or n g b a d) d a b (fun x y => x ||| y) s

/-- `XOR` (R466). -/
def execXor (n : BitVec 1) (g : BitVec 3) (b a d : BitVec 6) (s : State) : Out :=
  vec3 (.xor n g b a d) d a b (fun x y => x ^^^ y) s

/-- `ANDN` (R347). -/
def execAndn (n : BitVec 1) (g : BitVec 3) (b a d : BitVec 6) (s : State) : Out :=
  vec3 (.andn n g b a d) d a b (fun x y => x &&& ~~~y) s

/-- `SHL` (R451). -/
def execShl (n : BitVec 1) (g : BitVec 3) (b a d : BitVec 6) (s : State) : Out :=
  vec3 (.shl n g b a d) d a b shlW s

/-- `SHR` (R451). -/
def execShr (n : BitVec 1) (g : BitVec 3) (b a d : BitVec 6) (s : State) : Out :=
  vec3 (.shr n g b a d) d a b shrW s

/-- `SRA` (R451). -/
def execSra (n : BitVec 1) (g : BitVec 3) (b a d : BitVec 6) (s : State) : Out :=
  vec3 (.sra n g b a d) d a b sraW s

/-- `MIN.i32` and `MIN.n32` (R407). -/
def execMin (u n : BitVec 1) (g : BitVec 3) (b a d : BitVec 6) (s : State) : Out :=
  vec3 (.min u n g b a d) d a b (if u = 1#1 then minU else minS) s

/-- `MAX.i32` and `MAX.n32` (R407). -/
def execMax (u n : BitVec 1) (g : BitVec 3) (b a d : BitVec 6) (s : State) : Out :=
  vec3 (.max u n g b a d) d a b (if u = 1#1 then maxU else maxS) s

/-- `ABS` (R344). -/
def execAbs (n : BitVec 1) (g : BitVec 3) (a d : BitVec 6) (s : State) : Out :=
  vec2 (.abs n g a d) d a absW s

/-- `NEG` (R418). -/
def execNeg (n : BitVec 1) (g : BitVec 3) (a d : BitVec 6) (s : State) : Out :=
  vec2 (.neg n g a d) d a (fun x => 0 - x) s

/-- `CLZ` (R356). -/
def execClz (n : BitVec 1) (g : BitVec 3) (a d : BitVec 6) (s : State) : Out :=
  vec2 (.clz n g a d) d a clzW s

/-- `POPC` (R432). -/
def execPopc (n : BitVec 1) (g : BitVec 3) (a d : BitVec 6) (s : State) : Out :=
  vec2 (.popc n g a d) d a popcW s

/-- `BREV` (R356). -/
def execBrev (n : BitVec 1) (g : BitVec 3) (a d : BitVec 6) (s : State) : Out :=
  vec2 (.brev n g a d) d a brevW s

/-- `ADDI` (R345, R346). -/
def execAddi (g : BitVec 3) (i : BitVec 9) (a d : BitVec 6) (s : State) : Out :=
  vec2 (.addi g i a d) d a (fun x => x + i.signExtend 32) s

/-- `SHLI` (R452). -/
def execShli (g : BitVec 3) (k : BitVec 5) (a d : BitVec 6) (s : State) : Out :=
  vec2 (.shli g k a d) d a (fun x => x <<< k.toNat) s

/-- `SHRI` (R452). -/
def execShri (g : BitVec 3) (k : BitVec 5) (a d : BitVec 6) (s : State) : Out :=
  vec2 (.shri g k a d) d a (fun x => x >>> k.toNat) s

/-- The half of a scalar register that `MOVS` takes (R411). -/
def halfOf (h : BitVec 1) (x : DWord) : Word := if h = 1#1 then x.extractLsb' 32 32 else x.extractLsb' 0 32

/-- `MOVS` (R411): each lane reads the scalar register of its own group. -/
def execMovs (h : BitVec 1) (b d : BitVec 6) (s : State) : Out :=
  issue (.movs h b d) s fun c => laneOp (.movs h b d) (fun _ l => writeV l d (halfOf h (readS c.g b))) c s

/-- `MOV` (R410). -/
def execMov (n : BitVec 1) (g : BitVec 3) (a d : BitVec 6) (s : State) : Out :=
  vec2 (.mov n g a d) d a (fun x => x) s

/-- `SEL` (R449): the predicate selects and does not gate. -/
def execSel (n : BitVec 1) (g : BitVec 3) (b a d : BitVec 6) (s : State) : Out :=
  vecOp (.sel n g b a d) d (fun l => if readP l g != (n == 1#1) then readV l a else readV l b) s

/-- `CMP` (R362). -/
def execCmp (f : BitVec 2) (n : BitVec 1) (g : BitVec 3) (b a : BitVec 6) (p : BitVec 3) (s : State) : Out :=
  predOp (.cmp f n g b a p) p (fun l => cmpRel f ((readV l a).slt (readV l b)) (readV l a) (readV l b)) s

/-- `CMPN` (R362). -/
def execCmpn (f : BitVec 2) (n : BitVec 1) (g : BitVec 3) (b a : BitVec 6) (p : BitVec 3) (s : State) : Out :=
  predOp (.cmpn f n g b a p) p (fun l => cmpRel f ((readV l a).ult (readV l b)) (readV l a) (readV l b)) s

/-- `CVT` (R367). -/
def execCvt (f : BitVec 2) (n : BitVec 1) (g : BitVec 3) (a d : BitVec 6) (s : State) : Out :=
  vec2 (.cvt f n g a d) d a (cvtW f) s

/-- `PLANE.g` and `PLANE.s` (R333, R430). -/
def execPlane (f n : BitVec 1) (g : BitVec 3) (k : BitVec 5) (a d : BitVec 6) (s : State) : Out :=
  let i : Instr := .plane f n g k a d
  issue i s fun c =>
    laneOp i (fun j l =>
      if f = 0#1 then writeV l d (planeWord c (acting c i) k.toNat a j)
      else
        let m : Word := BitVec.twoPow 32 k.toNat
        writeV l d (if (readV l a).getLsbD (j % 32) then readV l d ||| m else readV l d &&& ~~~m)) c s

/-- `LRD` (R404): `%stack` takes a pair of registers. -/
def execLrd (g : BitVec 3) (i : BitVec 9) (d : BitVec 6) (s : State) : Out :=
  issue (.lrd g i d) s fun c =>
    laneOp (.lrd g i d) (fun j l =>
      let x := laneSpecial i.toNat j l
      if i = 0x04A#9 then writePair l d x else writeV l d (x.extractLsb' 0 32)) c s

/-- `PAND` (R421). -/
def execPand (n : BitVec 1) (g b a d : BitVec 3) (s : State) : Out :=
  predOp (.pand n g b a d) d (fun l => readP l a && readP l b) s

/-- `POR` (R421). -/
def execPor (n : BitVec 1) (g b a d : BitVec 3) (s : State) : Out :=
  predOp (.por n g b a d) d (fun l => readP l a || readP l b) s

/-- `PNOT` (R421). -/
def execPnot (n : BitVec 1) (g a d : BitVec 3) (s : State) : Out :=
  predOp (.pnot n g a d) d (fun l => !readP l a) s

/-- `BFE` (R354). -/
def execBfe (x n : BitVec 1) (g : BitVec 3) (b a d : BitVec 6) (s : State) : Out :=
  vec3 (.bfe x n g b a d) d a b (extractField x) s

/-- `BFI` (R354). -/
def execBfi (n : BitVec 1) (g : BitVec 3) (b a d : BitVec 6) (s : State) : Out :=
  vecOp (.bfi n g b a d) d (fun l => insertField (readV l a) (readV l b) (readV l d)) s

/-- `DOT4` (R373). -/
def execDot4 (f : BitVec 2) (n : BitVec 1) (g : BitVec 3) (b a d : BitVec 6) (s : State) : Out :=
  vecOp (.dot4 f n g b a d) d (fun l => dot4W f (readV l a) (readV l b) (readV l d)) s

end Sys2Proof.Machine
end

