-- ==== Sys2Proof/Machine/Dispatch.lean ====
section
/-!
DEFINITION. One arm per constructor of Instr: each a direct call of its meaning.
-/

namespace Sys2Proof.Machine

/-- The meaning of an instruction or event. -/
def exec (i : Instr) (s : State) : Host.Outcome State Fault Refusal :=
  match i with
  | .addCompact src d => Sys2Proof.Machine.execAddCompact src d s
  | .addCompactImm imm d => Sys2Proof.Machine.execAddCompactImm imm d s
  | .subCompact src d => Sys2Proof.Machine.execSubCompact src d s
  | .subCompactImm imm d => Sys2Proof.Machine.execSubCompactImm imm d s
  | .andCompact src d => Sys2Proof.Machine.execAndCompact src d s
  | .andCompactImm imm d => Sys2Proof.Machine.execAndCompactImm imm d s
  | .orCompact src d => Sys2Proof.Machine.execOrCompact src d s
  | .orCompactImm imm d => Sys2Proof.Machine.execOrCompactImm imm d s
  | .xorCompact src d => Sys2Proof.Machine.execXorCompact src d s
  | .xorCompactImm imm d => Sys2Proof.Machine.execXorCompactImm imm d s
  | .shlCompact src d => Sys2Proof.Machine.execShlCompact src d s
  | .shlCompactImm imm d => Sys2Proof.Machine.execShlCompactImm imm d s
  | .shrCompact src d => Sys2Proof.Machine.execShrCompact src d s
  | .shrCompactImm imm d => Sys2Proof.Machine.execShrCompactImm imm d s
  | .movCompact src d => Sys2Proof.Machine.execMovCompact src d s
  | .movCompactImm imm d => Sys2Proof.Machine.execMovCompactImm imm d s
  | .faddCompact src d => Sys2Proof.Machine.execFaddCompact src d s
  | .fmulCompact src d => Sys2Proof.Machine.execFmulCompact src d s
  | .fsubCompact src d => Sys2Proof.Machine.execFsubCompact src d s
  | .fmaxCompact src d => Sys2Proof.Machine.execFmaxCompact src d s
  | .fminCompact src d => Sys2Proof.Machine.execFminCompact src d s
  | .mulCompact src d => Sys2Proof.Machine.execMulCompact src d s
  | .minI32Compact src d => Sys2Proof.Machine.execMinI32Compact src d s
  | .maxI32Compact src d => Sys2Proof.Machine.execMaxI32Compact src d s
  | .sadd b a d => Sys2Proof.Machine.execSadd b a d s
  | .ssub b a d => Sys2Proof.Machine.execSsub b a d s
  | .smul f b a d => Sys2Proof.Machine.execSmul f b a d s
  | .sand b a d => Sys2Proof.Machine.execSand b a d s
  | .sor b a d => Sys2Proof.Machine.execSor b a d s
  | .sxor b a d => Sys2Proof.Machine.execSxor b a d s
  | .sandn b a d => Sys2Proof.Machine.execSandn b a d s
  | .sshl b a d => Sys2Proof.Machine.execSshl b a d s
  | .sshr b a d => Sys2Proof.Machine.execSshr b a d s
  | .ssra b a d => Sys2Proof.Machine.execSsra b a d s
  | .smin src b a d => Sys2Proof.Machine.execSmin src b a d s
  | .smax src b a d => Sys2Proof.Machine.execSmax src b a d s
  | .saddi imm a d => Sys2Proof.Machine.execSaddi imm a d s
  | .smovi imm c d => Sys2Proof.Machine.execSmovi imm c d s
  | .scmp f b a d => Sys2Proof.Machine.execScmp f b a d s
  | .sld imm l r c a d => Sys2Proof.Machine.execSld imm l r c a d s
  | .sst imm l r c a d => Sys2Proof.Machine.execSst imm l r c a d s
  | .srd imm d => Sys2Proof.Machine.execSrd imm d s
  | .swr imm a => Sys2Proof.Machine.execSwr imm a s
  | .slane l a d => Sys2Proof.Machine.execSlane l a d s
  | .sbra imm a z => Sys2Proof.Machine.execSbra imm a z s
  | .satom o l r c a d => Sys2Proof.Machine.execSatom o l r c a d s
  | .add n g b a d => Sys2Proof.Machine.execAdd n g b a d s
  | .sub n g b a d => Sys2Proof.Machine.execSub n g b a d s
  | .mul n g b a d => Sys2Proof.Machine.execMul n g b a d s
  | .mulhi src n g b a d => Sys2Proof.Machine.execMulhi src n g b a d s
  | .mad n g b a d => Sys2Proof.Machine.execMad n g b a d s
  | .and n g b a d => Sys2Proof.Machine.execAnd n g b a d s
  | .or n g b a d => Sys2Proof.Machine.execOr n g b a d s
  | .xor n g b a d => Sys2Proof.Machine.execXor n g b a d s
  | .andn n g b a d => Sys2Proof.Machine.execAndn n g b a d s
  | .shl n g b a d => Sys2Proof.Machine.execShl n g b a d s
  | .shr n g b a d => Sys2Proof.Machine.execShr n g b a d s
  | .sra n g b a d => Sys2Proof.Machine.execSra n g b a d s
  | .min src n g b a d => Sys2Proof.Machine.execMin src n g b a d s
  | .max src n g b a d => Sys2Proof.Machine.execMax src n g b a d s
  | .abs n g a d => Sys2Proof.Machine.execAbs n g a d s
  | .neg n g a d => Sys2Proof.Machine.execNeg n g a d s
  | .clz n g a d => Sys2Proof.Machine.execClz n g a d s
  | .popc n g a d => Sys2Proof.Machine.execPopc n g a d s
  | .brev n g a d => Sys2Proof.Machine.execBrev n g a d s
  | .addi g imm a d => Sys2Proof.Machine.execAddi g imm a d s
  | .shli g k a d => Sys2Proof.Machine.execShli g k a d s
  | .shri g k a d => Sys2Proof.Machine.execShri g k a d s
  | .movs h b d => Sys2Proof.Machine.execMovs h b d s
  | .mov n g a d => Sys2Proof.Machine.execMov n g a d s
  | .sel n g b a d => Sys2Proof.Machine.execSel n g b a d s
  | .cmp f n g b a p => Sys2Proof.Machine.execCmp f n g b a p s
  | .cmpn f n g b a p => Sys2Proof.Machine.execCmpn f n g b a p s
  | .cvt f n g a d => Sys2Proof.Machine.execCvt f n g a d s
  | .plane f n g k a d => Sys2Proof.Machine.execPlane f n g k a d s
  | .lrd g imm d => Sys2Proof.Machine.execLrd g imm d s
  | .pand n g b a d => Sys2Proof.Machine.execPand n g b a d s
  | .por n g b a d => Sys2Proof.Machine.execPor n g b a d s
  | .pnot n g a d => Sys2Proof.Machine.execPnot n g a d s
  | .bfe src n g b a d => Sys2Proof.Machine.execBfe src n g b a d s
  | .bfi n g b a d => Sys2Proof.Machine.execBfi n g b a d s
  | .dot4 f n g b a d => Sys2Proof.Machine.execDot4 f n g b a d s
  | .fadd n g b a d => Sys2Proof.Machine.execFadd n g b a d s
  | .fsub n g b a d => Sys2Proof.Machine.execFsub n g b a d s
  | .fmul n g b a d => Sys2Proof.Machine.execFmul n g b a d s
  | .ffma n g b a d => Sys2Proof.Machine.execFfma n g b a d s
  | .fmin n g b a d => Sys2Proof.Machine.execFmin n g b a d s
  | .fmax n g b a d => Sys2Proof.Machine.execFmax n g b a d s
  | .fcmp f n g b a p => Sys2Proof.Machine.execFcmp f n g b a p s
  | .frcp n g a d => Sys2Proof.Machine.execFrcp n g a d s
  | .frsq n g a d => Sys2Proof.Machine.execFrsq n g a d s
  | .fsqrt n g a d => Sys2Proof.Machine.execFsqrt n g a d s
  | .fdiv n g b a d => Sys2Proof.Machine.execFdiv n g b a d s
  | .fexp2 n g a d => Sys2Proof.Machine.execFexp2 n g a d s
  | .flog2 n g a d => Sys2Proof.Machine.execFlog2 n g a d s
  | .fsin n g a d => Sys2Proof.Machine.execFsin n g a d s
  | .fcos n g a d => Sys2Proof.Machine.execFcos n g a d s
  | .fcvt f n g a d => Sys2Proof.Machine.execFcvt f n g a d s
  | .ncvt u n g j f a d => Sys2Proof.Machine.execNcvt u n g j f a d s
  | .icvtF32ToInt src n g m a d => Sys2Proof.Machine.execIcvtF32ToInt src n g m a d s
  | .icvtIntToF32 src n g a d => Sys2Proof.Machine.execIcvtIntToF32 src n g a d s
  | .fclass n g a d => Sys2Proof.Machine.execFclass n g a d s
  | .fscl n g b a d => Sys2Proof.Machine.execFscl n g b a d s
  | .fabs n g a d => Sys2Proof.Machine.execFabs n g a d s
  | .fneg n g a d => Sys2Proof.Machine.execFneg n g a d s
  | .fcpys n g b a d => Sys2Proof.Machine.execFcpys n g b a d s
  | .frnd n g m a d => Sys2Proof.Machine.execFrnd n g m a d s
  | .dadd n g b a d => Sys2Proof.Machine.execDadd n g b a d s
  | .dsub n g b a d => Sys2Proof.Machine.execDsub n g b a d s
  | .dmul n g b a d => Sys2Proof.Machine.execDmul n g b a d s
  | .dfma n g b a d => Sys2Proof.Machine.execDfma n g b a d s
  | .ddiv n g b a d => Sys2Proof.Machine.execDdiv n g b a d s
  | .dsqrt n g a d => Sys2Proof.Machine.execDsqrt n g a d s
  | .dcvt src n g a d => Sys2Proof.Machine.execDcvt src n g a d s
  | .shfl f b a d => Sys2Proof.Machine.execShfl f b a d s
  | .vote f a d => Sys2Proof.Machine.execVote f a d s
  | .voteBallot a d => Sys2Proof.Machine.execVoteBallot a d s
  | .redux f t a d => Sys2Proof.Machine.execRedux f t a d s
  | .scan f e t a d => Sys2Proof.Machine.execScan f e t a d s
  | .matchLanes h a d => Sys2Proof.Machine.execMatchLanes h a d s
  | .perm n g b a d => Sys2Proof.Machine.execPerm n g b a d s
  | .elect d => Sys2Proof.Machine.execElect d s
  | .gsync => Sys2Proof.Machine.execGsync s
  | .bra o n g => Sys2Proof.Machine.execBra o n g s
  | .jmp a => Sys2Proof.Machine.execJmp a s
  | .call o n g => Sys2Proof.Machine.execCall o n g s
  | .callv a b => Sys2Proof.Machine.execCallv a b s
  | .ret n g => Sys2Proof.Machine.execRet n g s
  | .exit n g => Sys2Proof.Machine.execExit n g s
  | .refill n g => Sys2Proof.Machine.execRefill n g s
  | .nop n g => Sys2Proof.Machine.execNop n g s
  | .yield n g => Sys2Proof.Machine.execYield n g s
  | .sleep k n g => Sys2Proof.Machine.execSleep k n g s
  | .trap k n g => Sys2Proof.Machine.execTrap k n g s
  | .brk k n g => Sys2Proof.Machine.execBrk k n g s
  | .ld f l a b d => Sys2Proof.Machine.execLd f l a b d s
  | .st f l a b d => Sys2Proof.Machine.execSt f l a b d s
  | .ldw l a b d => Sys2Proof.Machine.execLdw l a b d s
  | .ldc l a b d => Sys2Proof.Machine.execLdc l a b d s
  | .ldq l a b d => Sys2Proof.Machine.execLdq l a b d s
  | .ldqw l a b d => Sys2Proof.Machine.execLdqw l a b d s
  | .stf l a b d => Sys2Proof.Machine.execStf l a b d s
  | .ste l a b d => Sys2Proof.Machine.execSte l a b d s
  | .stq l a b d => Sys2Proof.Machine.execStq l a b d s
  | .atom f l a b d => Sys2Proof.Machine.execAtom f l a b d s
  | .atomb f l a b d => Sys2Proof.Machine.execAtomb f l a b d s
  | .atomcCas l a b d => Sys2Proof.Machine.execAtomcCas l a b d s
  | .atomcMinN32 l a b d => Sys2Proof.Machine.execAtomcMinN32 l a b d s
  | .atomcMaxN32 l a b d => Sys2Proof.Machine.execAtomcMaxN32 l a b d s
  | .stc l a b d => Sys2Proof.Machine.execStc l a b d s
  | .fence c k => Sys2Proof.Machine.execFence c k s
  | .pref a b => Sys2Proof.Machine.execPref a b s
  | .cflush a b => Sys2Proof.Machine.execCflush a b s
  | .cpyIn l b a t => Sys2Proof.Machine.execCpyIn l b a t s
  | .cpyOut l b a t => Sys2Proof.Machine.execCpyOut l b a t s
  | .cpyLocal l b a t => Sys2Proof.Machine.execCpyLocal l b a t s
  | .cseal => Sys2Proof.Machine.execCseal s
  | .mma l a => Sys2Proof.Machine.execMma l a s
  | .mrels l => Sys2Proof.Machine.execMrels l s
  | .epi l a => Sys2Proof.Machine.execEpi l a s
  | .mstat l t => Sys2Proof.Machine.execMstat l t s
  | .bar b => Sys2Proof.Machine.execBar b s
  | .bara b => Sys2Proof.Machine.execBara b s
  | .barw b => Sys2Proof.Machine.execBarw b s
  | .barx b => Sys2Proof.Machine.execBarx b s
  | .spanj => Sys2Proof.Machine.execSpanj s
  | .spanx => Sys2Proof.Machine.execSpanx s
  | .spanb => Sys2Proof.Machine.execSpanb s
  | .psend l a c t => Sys2Proof.Machine.execPsend l a c t s
  | .pput l a c d => Sys2Proof.Machine.execPput l a c d s
  | .pget l a c d => Sys2Proof.Machine.execPget l a c d s
  | .pmcast l a c t => Sys2Proof.Machine.execPmcast l a c t s
  | .parrv l a n => Sys2Proof.Machine.execParrv l a n s
  | .phint c => Sys2Proof.Machine.execPhint c s
  | .precv l a => Sys2Proof.Machine.execPrecv l a s
  | .pfence l => Sys2Proof.Machine.execPfence l s
  | .patom l a c t => Sys2Proof.Machine.execPatom l a c t s
  | .ppool l a c t => Sys2Proof.Machine.execPpool l a c t s
  | .evt => Sys2Proof.Machine.execEvt s
  | .capq f c t => Sys2Proof.Machine.execCapq f c t s
  | .registerWrite fn off value => Sys2Proof.Machine.execRegisterWrite fn off value s
  | .lqtailWrite v q value => Sys2Proof.Machine.execLqtailWrite v q value s
  | .queueEnable v q ie => Sys2Proof.Machine.execQueueEnable v q ie s
  | .queueDisable v q ie => Sys2Proof.Machine.execQueueDisable v q ie s
  | .launchRecordRead v q => Sys2Proof.Machine.execLaunchRecordRead v q s
  | .launchAccept v id => Sys2Proof.Machine.execLaunchAccept v id s
  | .launchComplete v id => Sys2Proof.Machine.execLaunchComplete v id s
  | .dispatchTeam v => Sys2Proof.Machine.execDispatchTeam v s
  | .teamRetirement team => Sys2Proof.Machine.execTeamRetirement team s
  | .spanDetachment team => Sys2Proof.Machine.execSpanDetachment team s
  | .forwardProgressInterval core => Sys2Proof.Machine.execForwardProgressInterval core s
  | .saveComplete team => Sys2Proof.Machine.execSaveComplete team s
  | .teamRestart team => Sys2Proof.Machine.execTeamRestart team s
  | .vacate v => Sys2Proof.Machine.execVacate v s
  | .returnPiers v => Sys2Proof.Machine.execReturnPiers v s
  | .vacateComplete v => Sys2Proof.Machine.execVacateComplete v s
  | .tlbinv v value => Sys2Proof.Machine.execTlbinv v value s
  | .tlbInvalidateComplete v => Sys2Proof.Machine.execTlbInvalidateComplete v s
  | .hostAccess v addr access => Sys2Proof.Machine.execHostAccess v addr access s
  | .regroup core bay => Sys2Proof.Machine.execRegroup core bay s
  | .waitCountBoost group lane => Sys2Proof.Machine.execWaitCountBoost group lane s
  | .sleepExpiry group lane => Sys2Proof.Machine.execSleepExpiry group lane s
  | .loadDataLand group => Sys2Proof.Machine.execLoadDataLand group s
  | .emulationComplete group => Sys2Proof.Machine.execEmulationComplete group s
  | .copyLineFill core => Sys2Proof.Machine.execCopyLineFill core s
  | .copyOutLineWrite core => Sys2Proof.Machine.execCopyOutLineWrite core s
  | .batchComplete group => Sys2Proof.Machine.execBatchComplete group s
  | .mmaStart core => Sys2Proof.Machine.execMmaStart core s
  | .mmaComplete core => Sys2Proof.Machine.execMmaComplete core s
  | .epilogueJobStart core => Sys2Proof.Machine.execEpilogueJobStart core s
  | .epilogueJobComplete core => Sys2Proof.Machine.execEpilogueJobComplete core s
  | .mrelsFree core => Sys2Proof.Machine.execMrelsFree core s
  | .slotStart => Sys2Proof.Machine.execSlotStart s
  | .slotEnd => Sys2Proof.Machine.execSlotEnd s
  | .writeFlit port f => Sys2Proof.Machine.execWriteFlit port f s
  | .getRequest port f => Sys2Proof.Machine.execGetRequest port f s
  | .getResponse port f => Sys2Proof.Machine.execGetResponse port f s
  | .atomicRequest port f => Sys2Proof.Machine.execAtomicRequest port f s
  | .atomicResponse port f => Sys2Proof.Machine.execAtomicResponse port f s
  | .poolRequest port f => Sys2Proof.Machine.execPoolRequest port f s
  | .poolResponse port f => Sys2Proof.Machine.execPoolResponse port f s
  | .acknowledgement port f => Sys2Proof.Machine.execAcknowledgement port f s
  | .hint port f => Sys2Proof.Machine.execHint port f s
  | .completion port f => Sys2Proof.Machine.execCompletion port f s
  | .tagFlit port f => Sys2Proof.Machine.execTagFlit port f s
  | .relayedFlit port f => Sys2Proof.Machine.execRelayedFlit port f s
  | .flitDiscard port f => Sys2Proof.Machine.execFlitDiscard port f s
  | .ackTimeout port slot => Sys2Proof.Machine.execAckTimeout port slot s
  | .duplicateSetExpiry spkg sslot tag => Sys2Proof.Machine.execDuplicateSetExpiry spkg sslot tag s
  | .flitDrop tag => Sys2Proof.Machine.execFlitDrop tag s
  | .lossOfLight port wavelength => Sys2Proof.Machine.execLossOfLight port wavelength s
  | .create => Sys2Proof.Machine.execCreate s
  | .destroy => Sys2Proof.Machine.execDestroy s
  | .ways => Sys2Proof.Machine.execWays s
  | .guest => Sys2Proof.Machine.execGuest s
  | .abutmentWrite => Sys2Proof.Machine.execAbutmentWrite s
  | .abutmentRewrite => Sys2Proof.Machine.execAbutmentRewrite s
  | .keySlotGrant => Sys2Proof.Machine.execKeySlotGrant s
  | .keySlotRevokeSeal => Sys2Proof.Machine.execKeySlotRevokeSeal s
  | .keySlotRevokeDiscard => Sys2Proof.Machine.execKeySlotRevokeDiscard s
  | .allowList => Sys2Proof.Machine.execAllowList s
  | .features => Sys2Proof.Machine.execFeatures s
  | .linkKeySlots => Sys2Proof.Machine.execLinkKeySlots s
  | .frameRange => Sys2Proof.Machine.execFrameRange s
  | .hvCommandComplete => Sys2Proof.Machine.execHvCommandComplete s
  | .getVersion v => Sys2Proof.Machine.execGetVersion v s
  | .getCapabilities v => Sys2Proof.Machine.execGetCapabilities v s
  | .negotiateAlgorithms v => Sys2Proof.Machine.execNegotiateAlgorithms v s
  | .getDigests v => Sys2Proof.Machine.execGetDigests v s
  | .getCertificate v => Sys2Proof.Machine.execGetCertificate v s
  | .challenge v => Sys2Proof.Machine.execChallenge v s
  | .getMeasurements v index => Sys2Proof.Machine.execGetMeasurements v index s
  | .keyExchange m => Sys2Proof.Machine.execKeyExchange m s
  | .finish m => Sys2Proof.Machine.execFinish m s
  | .endSession v => Sys2Proof.Machine.execEndSession v s
  | .setKeyGroup v key => Sys2Proof.Machine.execSetKeyGroup v key s
  | .setKeyContext v slot key => Sys2Proof.Machine.execSetKeyContext v slot key s
  | .setKeyStream v stream key => Sys2Proof.Machine.execSetKeyStream v stream key s
  | .ingressWrite v off bytes => Sys2Proof.Machine.execIngressWrite v off bytes s
  | .ingressRecordVerify v stream => Sys2Proof.Machine.execIngressRecordVerify v stream s
  | .hostCounterRead v id => Sys2Proof.Machine.execHostCounterRead v id s
  | .powerGood image => Sys2Proof.Machine.execPowerGood image s
  | .trainingComplete hbm optics => Sys2Proof.Machine.execTrainingComplete hbm optics s
  | .trapRecordWrite team => Sys2Proof.Machine.execTrapRecordWrite team s
  | .cmdResume team => Sys2Proof.Machine.execCmdResume team s
  | .cmdEnd team => Sys2Proof.Machine.execCmdEnd team s
  | .eventStreamEnable fn value => Sys2Proof.Machine.execEventStreamEnable fn value s
  | .pcSample core bay => Sys2Proof.Machine.execPcSample core bay s
  | .clockStep up => Sys2Proof.Machine.execClockStep up s
  | .readbackRead => Sys2Proof.Machine.execReadbackRead s
  | .readbackWrite => Sys2Proof.Machine.execReadbackWrite s
  | .laserModuleReenable => Sys2Proof.Machine.execLaserModuleReenable s
  | .illegalInstruction => Sys2Proof.Machine.execIllegalInstruction s
  | .tdispInterfaceRequest v request => Sys2Proof.Machine.execTdispInterfaceRequest v request s

end Sys2Proof.Machine
end

