-- ==== Sys2Proof/Machine/Choose.lean ====
section
/-!
DEFINITION. The choice of what a step does (log 2), and the placing of an instruction where the next step fetches (log 11).
-/

namespace Sys2Proof.Machine

/-! ## Events that are due by the state alone -/

/-- Some events where a test holds. -/
def when (b : Bool) (is : List Instr) : List Instr := if b then is else []

/-- Events of a group: results that land, batches, emulation, sleepers, boosts. -/
def dueGroup (s : State) (n : Nat) (g : Group) : List Instr :=
  let clock := (coreAt s g.core).clock.toNat
  when (g.loads.any fun l => l.ready) [.loadDataLand n] ++ when (batchDone s g (oldestBatch g)) [.batchComplete n]
    ++ if g.retired then [] else
      when g.emul.isSome [.emulationComplete n]
      ++ ((mapFrom (fun i l => (i, l)) 0 g.lanes).filter fun p => (p.2.wake.map fun w => decide (w.toNat ≤ clock)) == some true).map
          (fun p => .sleepExpiry n p.1)
      ++ ((mapFrom (fun i l => (i, l)) 0 g.lanes).filter fun p => live p.2 && !p.2.boosted && decide (1024 ≤ p.2.waits)).map
          (fun p => .waitCountBoost n p.1)

/-- Events of a team: its halt, save and end. -/
def dueTeam (s : State) (n : Nat) (t : Team) : List Instr :=
  when (inPlace t && isHalted t && !t.recordWritten && !t.recordHeld) [.trapRecordWrite n]
    ++ when (commandable t && t.cmd == 1) [.cmdResume n] ++ when (commandable t && t.cmd != 0 && t.cmd != 1) [.cmdEnd n]
    ++ when (isSaving t && !(liveGroups s n).isEmpty) (if restarts t then [.teamRestart n] else [.saveComplete n])
    ++ when (detaching s n t) [.spanDetachment n]
    ++ when (inPlace t && !isHalted t && (liveGroups s n).isEmpty) [.teamRetirement n]

/-- Events of a core's engines, and the end of its forward-progress interval. -/
def dueCore (s : State) (core : Nat) (c : Core) : List Instr :=
  let e := c.engine
  let waits : Bool := match ownerOf s core with
    | some v => !(waitingKernels s v).isEmpty && decide (c.fwdStart.toNat + 2 ^ (vchip s v).fwdctl.toNat ≤ c.clock.toNat)
    | none => false
  when (!c.jobs.isEmpty) [.copyLineFill core, .copyOutLineWrite core]
    ++ when (!e.queue.isEmpty && e.running.isNone) [.mmaStart core] ++ when e.running.isSome [.mmaComplete core]
    ++ when e.jobRunning [.epilogueJobComplete core]
    ++ when (!e.claims.isEmpty && !e.jobRunning && decide (0 < e.closed)) [.epilogueJobStart core, .mrelsFree core]
    ++ when waits [.forwardProgressInterval core]

/-- Events of a launch. -/
def dueLaunch (v : Nat) (l : Launch) : Instr := if l.accepted then .launchComplete v l.id else .launchAccept v l.id

/-- Events of a virtual chip. -/
def dueVc (v : Nat) (c : VChip) : List Instr :=
  if !c.used then []
  else
    (mapFrom (fun q x => (q, x)) 0 c.queues).flatMap (fun p =>
        when (p.2.en && (p.2.head != p.2.tail || c.handlers.any fun h => h.1 == p.1)) [.launchRecordRead v p.1])
      ++ c.launches.map (dueLaunch v)
      ++ when (!c.launches.isEmpty || !c.resume.isEmpty || c.reserve.isSome) [.dispatchTeam v]
      ++ when c.vbusy [.vacateComplete v] ++ when c.tlbinv.isSome [.tlbInvalidateComplete v]
      ++ (mapFrom (fun n x => (n, x)) 0 c.ingress).flatMap fun p => when (p.2.en && !p.2.err) [.ingressRecordVerify v p.1]

/-- A bay with groups that regroups at this clock (R48). -/
def dueRegroup (s : State) : Option Instr :=
  (s.groups.find? fun g => !g.retired && ((s.teams[g.team]?).map inPlace) == some true && regroupDue s g.core g.bay).map fun g =>
    .regroup g.core g.bay

/-- A bay with a group to sample whose sampling clock it is (R296). -/
def dueSample (s : State) : Option Instr :=
  (s.groups.find? fun g =>
      match ownerOf s g.core with
      | none => false
      | some v => sampleDue s v g.core g.bay && !(placedGroups s v g.core g.bay).isEmpty).map fun g => .pcSample g.core g.bay

/-- Events of the fabric and of the hypervisor interface. -/
def duePackage (s : State) : List Instr :=
  when (slotDue s) [.slotStart]
    ++ when (s.accepted.any (ackable s)) [.slotEnd]
    ++ ((s.sent.filter fun x => decide (x.slot + roundSlots s.order + 1 < s.slot)).map fun x => Instr.ackTimeout x.port x.slot).eraseDups
    ++ (s.dups.filter fun d => decide (d.lastNs + 2000000 ≤ s.time.toNat)).map (fun d => .duplicateSetExpiry d.spkg d.sslot d.tag)
    ++ (((s.egress.filter fun e => overdue s e.flit.tag e).map fun e => Instr.flitDrop e.flit.tag)
        ++ (s.trestle.filter fun h => overdueRelay s h.flit.tag h).map fun h => Instr.flitDrop h.flit.tag).eraseDups
    ++ match s.hvrun with
       | none => []
       | some (.abutment _ _ _ _) => [.abutmentRewrite]
       | some _ => [.hvCommandComplete]

/-- Every event that is due. -/
def dueAll (s : State) : List Instr :=
  (mapFrom dueVc 0 s.vchips).flatten ++ (mapFrom (dueTeam s) 0 s.teams).flatten ++ (mapFrom (dueGroup s) 0 s.groups).flatten
    ++ (mapFrom (dueCore s) 0 s.cores).flatten ++ duePackage s

/-- The due event whose turn it is (log 2). -/
def due (s : State) : Option Instr :=
  let is := dueAll s
  is[s.turn / 3 % (if is.length = 0 then 1 else is.length)]?

/-! ## Inputs -/

/-- The device interface that a posted write goes to (R271). -/
def postedTo : Instr → Option Nat
  | .registerWrite (v + 1) _ _ => some v
  | .lqtailWrite v _ _ => some v
  | .queueEnable v _ _ => some v
  | .queueDisable v _ _ => some v
  | .vacate v => some v
  | .returnPiers v => some v
  | .tlbinv v _ => some v
  | .hostAccess v _ (.store _) => some v
  | .hostAccess v _ (.storeFrame _ _) => some v
  | .hostAccess v _ .flush => some v
  | .eventStreamEnable (v + 1) _ => some v
  | .ingressWrite v _ _ => some v
  | _ => none

/-- The interface behind whose held ingress write a posted write waits. -/
def waitsBehind (s : State) (i : Instr) : Option Nat := (postedTo i).filter fun v => !(vchip s v).posted.isEmpty

/-- An event from outside: an event row takes place; a posted write may have to wait. -/
def takeEvent (s : State) (i : Instr) : State × Option Instr :=
  if (encode i).isSome then (s, none)
  else
    match waitsBehind s i with
    | some v => (modVc s v fun c => { c with posted := c.posted ++ [i] }, none)
    | none => (s, some i)

/-- A group's bundle named by an input: the broadcast bundle or a loop-buffer bundle; nothing if it may not issue. -/
def inputBundle (s : State) (n : Nat) (loop : Option Nat) : Option Bundle :=
  match s.groups[n]? with
  | none => none
  | some g =>
    if !groupReady s g then none
    else
      match loop with
      | none => broadcastBundle n g
      | some k => loopBundle n g k

/-! ## Bundles that are tried (R51, R53) -/

/-- The state that trying one bundle leads to. -/
def attempt (s : State) (b : Bundle) : State :=
  match issueBundle s b with
  | (s1, some i) =>
    match exec i s1 with
    | .next t => t
    | _ => s
  | (s1, none) => s1

/-- Whether a bundle gets on when it is tried: its instruction issues, faults or is emulated, or its threads are held at it. -/
def getsOn (s : State) (b : Bundle) (t : State) : Bool :=
  match s.groups[b.group]?, t.groups[b.group]? with
  | some g, some h =>
    h.stall == .issued || h.fault.isSome || h.emul.isSome || h.lanes.map (fun l => l.st) != g.lanes.map fun l => l.st
  | _, _ => false

/-- The state and the bundle to try for a bundle that is chosen. A fused bundle issues as one: the half of the lower group first,
the other next, with nothing between them; while either half would wait, it is that half that waits (R53, R55). -/
def tryBundle (s : State) (b : Bundle) : State × Option Instr :=
  match fusedWith s b with
  | none => issueBundle s b
  | some p =>
    let x := if b.group ≤ p.group then b else p
    let y := if b.group ≤ p.group then p else b
    let t := attempt s x
    if !getsOn s x t then issueBundle s x
    else if !getsOn t y (attempt t y) then issueBundle s y
    else issueBundle { s with second := some { y with other := x.mask, second := true } } { x with other := y.mask }

/-- Why a bundle's group does not get on in a state that trying the bundle has led to; none if it does. -/
def stallIn (s : State) (b : Bundle) (t : State) : Option Stall :=
  if getsOn s b t then none else some (((t.groups[b.group]?).map fun g => g.stall).getD .issued)

/-- Why a bundle would not issue now; a fused bundle waits while either half would (R51, R53, R297). -/
def waitsFor (s : State) (b : Bundle) : Option Stall :=
  let t := attempt s b
  match stallIn s b t, fusedWith s b with
  | some r, _ => some r
  | none, none => none
  | none, some p => stallIn t p (attempt t p)

/-- The bundles that may issue, each with what it waits for: a bundle is ready when it waits for nothing (R51). -/
def tries (s : State) : List (Bundle × Option Stall) := (candidates s).map fun b => (b, waitsFor s b)

/-- The ready ones among them. -/
def freeBundles (ts : List (Bundle × Option Stall)) : List Bundle := (ts.filter fun x => x.2.isNone).map fun x => x.1

/-- The second half of a fused bundle issues, if it still can. -/
def issueSecond (s : State) (b : Bundle) : State × Option Instr :=
  match bundleWith s b.group b.mask with
  | some x => if x.pc == b.pc then issueBundle s b else (s, none)
  | none => (s, none)

/-- A bundle is tried if there is one. -/
def tryOpt (s : State) : Option Bundle → State × Option Instr
  | some b => tryBundle s b
  | none => (s, none)

/-- The bay of a bundle's group and the issue slot of its next instruction (R49); an instruction that takes no slot, or cannot be
fetched, stands apart. -/
def slotOfBundle (s : State) (b : Bundle) : Option (Nat × Nat × Nat) :=
  (s.groups[b.group]?).map fun g =>
    (g.core, g.bay, (((peek s b).bind fun i => slotOf i g.width b.mask).map fun p => p.1).getD 0)

/-- The one of some ready bundles that R51 puts first for the slot whose turn it is among the slots that have one (slots issue independently of
each other; log 2). -/
def nextBundle (s : State) (turn : Nat) (bs : List Bundle) : Option Bundle :=
  let slots := (bs.map (slotOfBundle s)).eraseDups
  let slot := (slots[turn % (if slots.length = 0 then 1 else slots.length)]?).getD none
  firstBundle s (bs.filter fun b => slotOfBundle s b == slot)

/-- A bundle issues, alone or with the one that it is fused with, when another one is chosen. -/
def takes (s : State) (chosen : Option Bundle) (b : Bundle) : Bool :=
  match chosen with
  | none => false
  | some c => b == c || fusedWith s c == some b

/-- What keeps each bundle from issuing at a clock at which one is chosen, or none: its wait, or, of a bundle that is ready, that
another bundle or an event takes the clock (R297; log 7). -/
def waitingWith (s : State) (chosen : Option Bundle) (ts : List (Bundle × Option Stall)) : List (Nat × Stall) :=
  ts.filterMap fun x =>
    match x.2 with
    | some r => some (x.1.group, r)
    | none => if takes s chosen x.1 then none else some (x.1.group, .priorityLoss)

/-- A chosen bundle tried, with what keeps the others from issuing noted. -/
def tryNoted (s : State) (ts : List (Bundle × Option Stall)) (chosen : Option Bundle) : State × Option Instr :=
  tryOpt { s with waiting := waitingWith s chosen ts } chosen

/-- An event taken, with what keeps the bundles from issuing noted. -/
def eventNoted (s : State) (ts : List (Bundle × Option Stall)) (i : Instr) : State × Option Instr :=
  ({ s with waiting := waitingWith s none ts }, some i)

/-- With no input: every third turn an event that is due comes first, every fourth a waiting bundle is tried again; otherwise
the ready bundle that is next, then an event, then a waiting bundle. -/
def chooseAlone (s : State) : State × Option Instr :=
  let s1 := { s with turn := s.turn + 1, acted := true }
  let ts := tries s1
  let waiting := ((ts.filter fun x => x.2.isSome).map fun x => x.1)
  let retry := waiting[s.turn / 4 % (if waiting.length = 0 then 1 else waiting.length)]?
  if s.turn % 4 == 3 && retry.isSome then tryNoted s1 ts retry
  else
    match (if s.turn % 3 == 2 then due s1 else none), nextBundle s1 s.turn (freeBundles ts) with
    | some i, _ => eventNoted s1 ts i
    | none, some b => tryNoted s1 ts (some b)
    | none, none =>
      match due s1 with
      | some i => eventNoted s1 ts i
      | none => tryNoted s1 ts retry

/-! ## The clock, and what a step does -/

/-- What an input does. -/
def takeInput (s : State) : Input → State × Option Instr
  | .event i => takeEvent s i
  | .issue n loop => tryOpt s (inputBundle s n loop)
  | .peer k rank p => (peerInput s k rank p, none)
  | .storage v unc spot => (storageError s v unc spot, none)
  | .evict pa => (evictLine s pa, none)
  | .marks port set => (setMarks s port set, none)
  | .dark port wavelength => (darkPort s port wavelength, none)

/-- The bundle that an input names. -/
def namedBundle (s : State) : Input → Option Bundle
  | .issue n loop => inputBundle s n loop
  | _ => none

/-- An input taken at its clock, with what keeps the bundles from issuing noted. -/
def inputNoted (s : State) (x : Input) : State × Option Instr :=
  takeInput { s with waiting := waitingWith s (namedBundle s x) (tries s) } x

/-- The next clock: commands of trap handlers are taken up, the records that are owed are written, the clock runs, recalls are followed by their writes, accesses that wait
for an earlier one of their line are tried again, and groups whose last stores have since been performed retire (R80, R171). -/
def passClock (s : State) : State :=
  let s1 := retryAll (retryHeld (finishRecalls (tick (payOwed (latchCommands s)))))
  (List.range s1.groups.length).foldl retireIfDone s1

/-- What the next step does: the state that it starts from, and the instruction or event that it executes, if any. At each clock
bays that are due regroup, then one input or one thing of the machine's own is taken, with the other half of a fused bundle at
once; then due samples are taken, and the clock runs on (log 7). -/
def choose (s : State) : State × Option Instr :=
  match s.second with
  | some b => issueSecond { s with second := none } b
  | none =>
    if s.acted then
      match dueSample s, dueRegroup s with
      | some i, _ => (s, some i)
      | none, some i => (s, some i)
      | none, none => (passClock s, none)
    else
      match s.inputs with
      | x :: rest => inputNoted { s with inputs := rest, acted := true } x
      | [] =>
        match dueRegroup s with
        | some i => (s, some i)
        | none => chooseAlone s

/-! ## Placing a word (log 11) -/

/-- The address of the placed words. -/
def placedPc : DWord := 0x0000000000100000

/-- A lane that stands at the placed words, with the state of a group start (R10). -/
def placedLane : Lane := { freshLane with pc := placedPc, stack := 8 }

/-- A group of sixteen such lanes with 64 registers. -/
def placedGroup (team : Nat) : Group :=
  { team := team, num := 0, width := 16, vregs := 64, role := .general, s := Vector.replicate 64 0, spois := 0, prio := 0,
    prioNext := none, fpctl := 0, fpflags := 0, mflags := 0, rcount := 0, stacklim := 8, core := 0, bay := 0, place := 0,
    age := 0, loops := [], fused := [], yielded := 0, batch := 0, cpys := 0, copies := [], copyErrs := [], tokens := [],
    errTok := 0, loads := [], reqs := [], fills := [], look := [], issuedAt := 0, paired := false, wait := .none, stall := .issued, fault := none, skid := 0, pfence := false, didJ := false,
    didX := false, didB := false, retired := false, emul := none, emulMask := 0, lanes := List.replicate 16 placedLane }

/-- A refill kernel with every barrier, whose teams hold the matrix engine. -/
def placedKernel : Kernel :=
  { entry := placedPc, refill := some placedPc, qcnt := 0, qbase := 0, qper := 1, scratch := 0, width := 16, vregs := 64,
    ngroup := 1, roles := false, pier := false, idem := false, ncopy := 0, nmat := 0, nvec := 0, nb := 16,
    bset := List.replicate 16 7, needs := 0x18, pins := [], index := 0, desc := [] }

/-- A team of that one group in virtual-chip slot 0, on core 0. -/
def placedTeam : Team :=
  { vc := 0, launch := 0, kernel := placedKernel, args := 0, item0 := 0, x := 0, y := 0, z := 0, nx := 1, ny := 1, nz := 1,
    index := 0, sbase := 0, sdepth := 0, prio := 0, incarn := 0, coreA := 0, coreB := none, baseA := 0, baseB := 0, alloc := 0, placed := true,
    barriers := List.replicate 16 { e := 1, a := 0, p := false, arr := 0, wd := 0 }, span := none, rank := 0, first := 0,
    end_ := 0, next := 0, idem := false, protKey := none, status := .resident, primary := 0, recordAddr := 0, windowAddr := 0,
    windowBytes := 0, recordWritten := false, haltNoted := false, recordHeld := false, cmd := 0, counters := [], saveCtr := 0, imageAddr := none, imageLen := 0, taken := [], mmas := [], holdsA := true, holdsB := false }

/-- The state with words placed: their bytes in bank page 0 of slot 0, a held leaf that maps that page executable, a team and
a group that stand there, and the choice of that group as the next input. -/
def placeWord (s : State) (nbits w : Nat) : State :=
  { s with
    mem := memWriteN s.mem (bankKey 0 0) (toLeBytes (max 4 (nbits / 8)) w)
    tlb := { die := 0, vc := 0, page := placedPc.toNat / 4096, log := 0, entry := 0x247#64, table := none } :: s.tlb
    groups := s.groups ++ [placedGroup s.teams.length]
    teams := s.teams ++ [placedTeam]
    second := none
    acted := false
    inputs := [.issue s.groups.length none] }

end Sys2Proof.Machine
end

