-- ==== Sys2Proof/Machine/Step.lean ====
section
/-!
DEFINITION. One step of the machine.
-/

namespace Sys2Proof.Machine

/-- One step: what comes next is chosen, with the clock and the fetch that it takes (R48, R51; log 2), and the chosen
instruction or event is executed. -/
def step (s : State) : Host.Outcome State Fault Refusal :=
  match choose s with
  | (s1, some i) => exec i s1
  | (s1, none) => .next s1

/-- The state with an instruction's words stored where the next step fetches (log 11): a team and a group of their own,
standing at those words in a bank page, and the choice of that group's bundle as the next input. -/
def State.withFetchWord (s : State) (nbits w : Nat) : State := placeWord s nbits w

end Sys2Proof.Machine
end

