-- ==== Sys2Proof/Safety.lean ====
section
/-!
DEFINITION. What a run of the machine keeps, and the terms in which claims speak of a step: when an instruction carries out its
effect, and what it leaves as it was.
-/

namespace Sys2Proof

/-- Memory lists each byte once, in rising order, and no byte equal to what an unlisted one reads as. -/
def Safe (s : Machine.State) : Prop := Machine.memWf s.mem = true

namespace Machine

/-- An instruction passes its checks in context c: it is legal (R328), its group may issue it (R21), a group-wide one is issued
for every live thread (R24), nothing that it needs is outstanding (R57, R194), and none of its operands is poisoned or holds an
error token (R159, R196). -/
structure Passes (i : Instr) (c : Ctx) (s : State) : Prop where
  lawful : legal s c i = true
  role : roleOk c i = true
  whole : groupWide i = true → c.b.broadcast = true ∧ c.b.mask = liveMask c.g
  free : hazard s c i = none
  clean : operandFaults i = true → poisonLanes c i = 0
  noErr : operandFaults i = true → errOperand c i = false

/-- The bundle now issuing carries out instruction i at once, in context c. -/
structure Ready (i : Instr) (c : Ctx) (s : State) : Prop extends Passes i c s where
  now : ctx? s = some c

/-- The instructions that every live lane of a group executes together (R31, R38, R58). -/
def Convergent (i : Instr) : Prop :=
  (∃ f b a d, i = .shfl f b a d) ∨ (∃ f a d, i = .vote f a d) ∨ (∃ a d, i = .voteBallot a d) ∨ (∃ f t a d, i = .redux f t a d) ∨
  (∃ f e t a d, i = .scan f e t a d) ∨ (∃ h a d, i = .matchLanes h a d) ∨ (∃ d, i = .elect d) ∨ i = .gsync ∨
  (∃ b, i = .bar b ∨ i = .bara b ∨ i = .barw b ∨ i = .barx b) ∨ i = .spanj ∨ i = .spanx ∨ i = .spanb

/-- The context in which a convergent instruction executes: the lanes of its bundle are held with those that wait there, and it
executes for all of them (R58). -/
def metCtx (c : Ctx) : Ctx :=
  let g := onLanes c.b.mask (fun _ l => { l with st := .held }) c.g
  { c with b := { c.b with mask := heldAt g c.b.pc }, g := g }

/-- The state in which it executes. -/
def metState (c : Ctx) (s : State) : State := onGroup s c fun _ => (metCtx c).g

/-- The bundle now issuing is the last that convergent instruction i waited for: every live lane of its group is held, and none
at a lower address (R58, R59); and the instruction passes its checks. -/
structure Meets (i : Instr) (c : Ctx) (s : State) : Prop where
  now : ctx? s = some c
  all : converged (metCtx c).g c.b.pc = true
  passes : Passes i (metCtx c) (metState c s)

/-- What lies outside group n is as it was: every byte of memory, its poison and line metadata, the other groups, the teams,
the cores with their engines, every register of the package and of its virtual chips but the per-bay counters (R298). -/
structure Elsewhere (n : Nat) (s t : State) : Prop where
  bytes : ∀ k, memRead t.mem k = memRead s.mem k
  rest : t = { s with groups := t.groups, vchips := t.vchips }
  count : t.groups.length = s.groups.length
  groups : ∀ m, m ≠ n → t.groups[m]? = s.groups[m]?
  chips : t.vchips.map (fun v => { v with bayCounters := [] }) = s.vchips.map fun v => { v with bayCounters := [] }

/-- A lane that has issued an instruction and goes on at pc, with its registers as they were (R51). -/
def movedTo (pc : DWord) (l : Lane) : Lane := { l with pc := pc, waits := 0, boosted := false, st := .running }

/-- The lanes of a group after an issue: those of the bundle have each changed by f, the others not at all. -/
def LanesAre (c : Ctx) (f : Nat → Lane → Lane) (g' : Group) : Prop :=
  g'.lanes.length = c.g.lanes.length ∧
    ∀ k, k < c.g.lanes.length → laneAt g' k = if has c.b.mask k then f k (laneAt c.g k) else laneAt c.g k

/-- The lanes of the bundle stand at the next instruction, and no lane has changed otherwise. -/
def LanesMove (i : Instr) (c : Ctx) (g' : Group) : Prop :=
  LanesAre c (fun _ => movedTo (c.b.pc + BitVec.ofNat 64 (instrBytes i))) g'

/-- A group after an issue that changed nothing of it but its lanes: no register, status or flag of the group (R13), nothing that
it waits for or has outstanding. The skid count, the lookahead windows and the note of the issue are the issue's own. -/
def GroupKept (g g' : Group) : Prop :=
  g' = { g with lanes := g'.lanes, skid := g'.skid, look := g'.look, issuedAt := g'.issuedAt, paired := g'.paired, stall := .issued, wait := .none }

/-- The instruction was carried out and wrote x to scalar register d, which s0 discards, and nothing else (R13, R443). -/
def WritesScalar (i : Instr) (c : Ctx) (d : BitVec 6) (x : DWord) (s t : State) : Prop :=
  Elsewhere c.b.group s t ∧ ∃ g', t.groups[c.b.group]? = some g' ∧ LanesMove i c g' ∧
    readS g' d = (if d = 0#6 then 0 else x) ∧ (∀ r, r ≠ d → readS g' r = readS c.g r) ∧
    (∀ r, g'.spois.getLsbD r = (c.g.spois.getLsbD r && !(d != 0#6 && r == d.toNat))) ∧
    (∀ r, g'.errTok.getLsbD r = (c.g.errTok.getLsbD r && !(d != 0#6 && r == d.toNat))) ∧
    GroupKept { c.g with s := g'.s, spois := g'.spois, errTok := g'.errTok } g'

/-- A lane whose vector register d holds x and is no longer poisoned (R159), that has moved to pc, and is otherwise as it was. -/
def LaneWrote (d : BitVec 6) (x : Word) (pc : DWord) (l l' : Lane) : Prop :=
  readV l' d = x ∧ (∀ r, r ≠ d → readV l' r = readV l r) ∧
    (∀ r, l'.vpois.getLsbD r = (l.vpois.getLsbD r && !(r == d.toNat))) ∧
    l' = { movedTo pc l with v := l'.v, vpois := l'.vpois }

/-- A lane whose predicate register p holds b and is no longer poisoned; a write of p7 is discarded (R10). -/
def LaneSet (p : BitVec 3) (b : Bool) (pc : DWord) (l l' : Lane) : Prop :=
  readP l' p = (if p = 7#3 then true else b) ∧ (∀ r, r ≠ p → readP l' r = readP l r) ∧
    (∀ r, l'.ppois.getLsbD r = (l.ppois.getLsbD r && !(r == p.toNat))) ∧
    l' = { movedTo pc l with p := l'.p, ppois := l'.ppois }

/-- Each lane of a mask ended as W says; the other lanes of the bundle only moved on, and the lanes outside it are as they were. -/
def LanesDid (i : Instr) (c : Ctx) (m : Mask) (W : Nat → Lane → Lane → Prop) (g' : Group) : Prop :=
  g'.lanes.length = c.g.lanes.length ∧ ∀ k, k < c.g.lanes.length →
    if has m k then W k (laneAt c.g k) (laneAt g' k)
    else laneAt g' k = if has c.b.mask k then movedTo (c.b.pc + BitVec.ofNat 64 (instrBytes i)) (laneAt c.g k) else laneAt c.g k

/-- The instruction was carried out and wrote vector register d of each acting lane, with a value of that lane, and nothing else:
inactive lanes, other registers, flags and memory are as they were (R342). -/
def WritesVector (i : Instr) (c : Ctx) (d : BitVec 6) (x : Nat → Lane → Word) (s t : State) : Prop :=
  Elsewhere c.b.group s t ∧ ∃ g', t.groups[c.b.group]? = some g' ∧ GroupKept c.g g' ∧
    LanesDid i c (acting c i) (fun k l l' => LaneWrote d (x k l) (c.b.pc + BitVec.ofNat 64 (instrBytes i)) l l') g'

/-- The same for a predicate register. -/
def WritesPredicate (i : Instr) (c : Ctx) (p : BitVec 3) (b : Nat → Lane → Bool) (s t : State) : Prop :=
  Elsewhere c.b.group s t ∧ ∃ g', t.groups[c.b.group]? = some g' ∧ GroupKept c.g g' ∧
    LanesDid i c (acting c i) (fun k l l' => LaneSet p (b k l) (c.b.pc + BitVec.ofNat 64 (instrBytes i)) l l') g'

/-- The instruction was carried out and only moved its bundle on. -/
def OnlyMoves (i : Instr) (c : Ctx) (s t : State) : Prop :=
  Elsewhere c.b.group s t ∧ ∃ g', t.groups[c.b.group]? = some g' ∧ GroupKept c.g g' ∧ LanesMove i c g'

/-- The group of context c took a fault of its own (R277 to R281): it is marked with the cause, lanes and address, and the address of the
instruction, with each lane's arithmetic exceptions where the fault is one (R115); the instruction has no effect, so that nothing
else of the group or of the machine has changed; and its team is halted, with this group as the primary one unless it was halted
already. -/
def TakesFault (c : Ctx) (cause : BitVec 8) (lanes : Mask) (addr : DWord) (underflow : Bool) (exc : List (BitVec 5)) (s t : State) : Prop :=
  t = { s with groups := t.groups, teams := t.teams } ∧
  t.groups.length = s.groups.length ∧ (∀ m, m ≠ c.b.group → t.groups[m]? = s.groups[m]?) ∧
  t.groups[c.b.group]? = some { c.g with
    stall := .trapHalt
    fault := some { cause := cause, lanes := lanes, addr := addr, pc := c.b.pc, underflow := underflow, exc := exc } } ∧
  t.teams.length = s.teams.length ∧ (∀ m, m ≠ c.g.team → t.teams[m]? = s.teams[m]?) ∧
  t.teams[c.g.team]? = some (if c.t.status = .halted then c.t
    else { c.t with status := .halted, primary := c.b.group, recordWritten := false, cmd := 0 })

end Machine

end Sys2Proof
end

