-- ==== Sys2Proof/Certificates/Slice0/Obligations.lean ====
section
/-!
DEFINITION. The statements for the provers: what the rules of the spec say that the machine does.
-/

/-! ## Terms -/

namespace Sys2Proof.Claims

open Sys2Proof.Machine

/-- Whenever scalar instruction i is carried out, exec answers a next state in which d holds x and nothing else has changed. -/
def ScalarGives (i : Instr) (d : BitVec 6) (x : Ctx → State → DWord) : Prop :=
  ∀ c s, Ready i c s → ∃ t, exec i s = .next t ∧ WritesScalar i c d (x c s) s t

/-- Whenever vector instruction i is carried out, exec answers a next state in which register d of each acting lane k holds
x k of that lane, and nothing else has changed. -/
def VectorGives (i : Instr) (d : BitVec 6) (x : Ctx → Nat → Lane → Word) : Prop :=
  ∀ c s, Ready i c s → ∃ t, exec i s = .next t ∧ WritesVector i c d (x c) s t

/-- The same for a predicate register. -/
def PredicateGives (i : Instr) (p : BitVec 3) (x : Ctx → Nat → Lane → Bool) : Prop :=
  ∀ c s, Ready i c s → ∃ t, exec i s = .next t ∧ WritesPredicate i c p (x c) s t

/-- The signed and the unsigned order, by whether a comparison is unsigned. -/
def below {w : Nat} (unsigned : Bool) (x y : BitVec w) : Prop := if unsigned then x.toNat < y.toNat else x.toInt < y.toInt

/-- The smaller and the larger of two values in an order. -/
def Least {w : Nat} (unsigned : Bool) (x y z : BitVec w) : Prop :=
  (z = x ∨ z = y) ∧ ¬below unsigned x z ∧ ¬below unsigned y z

def Greatest {w : Nat} (unsigned : Bool) (x y z : BitVec w) : Prop :=
  (z = x ∨ z = y) ∧ ¬below unsigned z x ∧ ¬below unsigned z y

/-- The relations of `SCMP` by fn6 (R448). -/
def relation (f : BitVec 6) (x y : DWord) : Prop :=
  (f = 0 ∧ x = y) ∨ (f = 1 ∧ x ≠ y) ∨ (f = 2 ∧ x.toInt < y.toInt) ∨ (f = 3 ∧ x.toInt ≤ y.toInt)
    ∨ (f = 4 ∧ x.toNat < y.toNat) ∨ (f = 5 ∧ x.toNat ≤ y.toNat)

/-- What `SRD` reads from each group-uniform special register (R26). -/
def SpecialIs (c : Ctx) (s : State) (n : BitVec 12) (x : DWord) : Prop :=
  (n = 0x001 → x = BitVec.ofNat 64 c.g.width) ∧ (n = 0x002 → x = BitVec.ofNat 64 c.g.num) ∧
  (n = 0x003 → x = BitVec.ofNat 64 c.t.kernel.ngroup) ∧
  (n = 0x004 → (c.g.role = .general ∧ x = 0) ∨ (c.g.role = .copy ∧ x = 1) ∨ (c.g.role = .matrix ∧ x = 2) ∨ (c.g.role = .vector ∧ x = 3)) ∧
  (n = 0x008 → x.toNat = c.t.x.toNat) ∧ (n = 0x009 → x.toNat = c.t.y.toNat) ∧ (n = 0x00A → x.toNat = c.t.z.toNat) ∧
  (n = 0x00C → x.toNat = c.t.nx.toNat) ∧ (n = 0x00D → x.toNat = c.t.ny.toNat) ∧ (n = 0x00E → x.toNat = c.t.nz.toNat) ∧
  (n = 0x018 → x = BitVec.ofNat 64 c.t.rank) ∧
  (n = 0x019 → x = match c.t.span.bind fun k => s.spans[k]? with
    | some sp => BitVec.ofNat 64 sp.members.length
    | none => 0) ∧
  (n = 0x020 → x = BitVec.ofNat 64 (ownVcn s c.t.vc)) ∧
  (n = 0x022 → x = BitVec.ofNat 64 (2 * piersBelow c.vc.piers (c.g.core / 2) + c.g.core % 2)) ∧
  (n = 0x023 → x = BitVec.ofNat 64 c.g.bay) ∧ (n = 0x030 → x = (coreAt s c.g.core).clock) ∧ (n = 0x031 → x = s.time) ∧
  (n = 0x040 → x.toNat = c.g.fpctl.toNat) ∧ (n = 0x041 → x.toNat = c.g.fpflags.toNat) ∧ (n = 0x042 → x.toNat = c.g.mflags.toNat) ∧
  (n = 0x049 → x.toNat = c.g.rcount.toNat) ∧ (n = 0x04B → x = c.g.stacklim) ∧ (n = 0x050 → x.toNat = c.t.incarn.toNat)

/-- The instruction was carried out, its group became g0 but for its lanes and the issue's bookkeeping, and its lanes only moved on. -/
def GroupBecomes (i : Instr) (c : Ctx) (g0 : Group) (s t : State) : Prop :=
  Elsewhere c.b.group s t ∧ ∃ g', t.groups[c.b.group]? = some g' ∧ GroupKept g0 g' ∧ LanesMove i c g'

/-- Byte k of a word, signed or unsigned (R373). -/
def byteAs (signed : Bool) (x : Word) (k : Nat) : Int :=
  let n : Int := (x.toNat / 2 ^ (8 * k) % 256 : Nat)
  if signed ∧ 128 ≤ n then n - 256 else n

/-- The relations of `CMP` by fn (R362). -/
def related (f : BitVec 2) (x y : Int) : Prop := (f = 0 ∧ x = y) ∨ (f = 1 ∧ x ≠ y) ∨ (f = 2 ∧ x < y) ∨ (f = 3 ∧ x ≤ y)

/-- The operands of a compact instruction (R307). -/
def compact (r d : BitVec 5) (f : Word → Word → Word) (_ : Ctx) (_ : Nat) (l : Lane) : Word :=
  f (readV l (d.setWidth 6)) (readV l (r.setWidth 6))

def compactImm (i d : BitVec 5) (f : Word → Word → Word) (_ : Ctx) (_ : Nat) (l : Lane) : Word :=
  f (readV l (d.setWidth 6)) (BitVec.ofInt 32 i.toInt)

end Sys2Proof.Claims

open Sys2Proof Sys2Proof.Machine Sys2Proof.Claims

/-! ## Scalar instructions -/

/-- The results of the scalar arithmetic instructions of R444 (sums, differences, products, `SADDI`), modulo 2^64, with their frame
(R443: s0 discards, nothing else is written). -/
def Sys2Proof.Claims.ScalarArithmeticResults : Prop :=
  (∀ b a d, ScalarGives (.sadd b a d) d fun c _ => BitVec.ofNat 64 ((readS c.g a).toNat + (readS c.g b).toNat)) ∧
  (∀ b a d, ScalarGives (.ssub b a d) d fun c _ => BitVec.ofInt 64 ((readS c.g a).toNat - (readS c.g b).toNat)) ∧
  (∀ b a d, ScalarGives (.smul 0 b a d) d fun c _ => BitVec.ofNat 64 ((readS c.g a).toNat * (readS c.g b).toNat)) ∧
  (∀ b a d, ScalarGives (.smul 1 b a d) d fun c _ => BitVec.ofInt 64 ((readS c.g a).toInt * (readS c.g b).toInt / 2 ^ 64)) ∧
  (∀ b a d, ScalarGives (.smul 2 b a d) d fun c _ => BitVec.ofNat 64 ((readS c.g a).toNat * (readS c.g b).toNat / 2 ^ 64)) ∧
  ∀ k a d, ScalarGives (.saddi k a d) d fun c _ => BitVec.ofInt 64 ((readS c.g a).toInt + k.toInt)

/-- The results of the scalar logic and shift instructions of R444, bit by bit, with their frame. -/
def Sys2Proof.Claims.ScalarLogicAndShiftResults : Prop :=
  (∀ b a d, ∀ c s, Ready (.sand b a d) c s → ∃ x t, exec (.sand b a d) s = .next t ∧ WritesScalar (.sand b a d) c d x s t ∧
    ∀ j, x.getLsbD j = ((readS c.g a).getLsbD j && (readS c.g b).getLsbD j)) ∧
  (∀ b a d, ∀ c s, Ready (.sor b a d) c s → ∃ x t, exec (.sor b a d) s = .next t ∧ WritesScalar (.sor b a d) c d x s t ∧
    ∀ j, x.getLsbD j = ((readS c.g a).getLsbD j || (readS c.g b).getLsbD j)) ∧
  (∀ b a d, ∀ c s, Ready (.sxor b a d) c s → ∃ x t, exec (.sxor b a d) s = .next t ∧ WritesScalar (.sxor b a d) c d x s t ∧
    ∀ j, x.getLsbD j = ((readS c.g a).getLsbD j ^^ (readS c.g b).getLsbD j)) ∧
  (∀ b a d, ∀ c s, Ready (.sandn b a d) c s → ∃ x t, exec (.sandn b a d) s = .next t ∧ WritesScalar (.sandn b a d) c d x s t ∧
    ∀ j, x.getLsbD j = ((readS c.g a).getLsbD j && !(readS c.g b).getLsbD j)) ∧
  (∀ b a d, ScalarGives (.sshl b a d) d fun c _ => BitVec.ofNat 64 ((readS c.g a).toNat * 2 ^ ((readS c.g b).toNat % 64))) ∧
  (∀ b a d, ScalarGives (.sshr b a d) d fun c _ => BitVec.ofNat 64 ((readS c.g a).toNat / 2 ^ ((readS c.g b).toNat % 64))) ∧
  ∀ b a d, ScalarGives (.ssra b a d) d fun c _ => BitVec.ofInt 64 ((readS c.g a).toInt / 2 ^ ((readS c.g b).toNat % 64))

/-- `SMIN` and `SMAX` give the smaller and the larger operand, signed or unsigned (R444), and `SCMP` gives 1 if its relation
holds and 0 otherwise (R448). -/
def Sys2Proof.Claims.ScalarComparisonResults : Prop :=
  (∀ u b a d, ∀ c s, Ready (.smin u b a d) c s → ∃ x t, exec (.smin u b a d) s = .next t ∧
    WritesScalar (.smin u b a d) c d x s t ∧ Least (u == 1#1) (readS c.g a) (readS c.g b) x) ∧
  (∀ u b a d, ∀ c s, Ready (.smax u b a d) c s → ∃ x t, exec (.smax u b a d) s = .next t ∧
    WritesScalar (.smax u b a d) c d x s t ∧ Greatest (u == 1#1) (readS c.g a) (readS c.g b) x) ∧
  ∀ f b a d, ∀ c s, Ready (.scmp f b a d) c s → ∃ x t, exec (.scmp f b a d) s = .next t ∧ WritesScalar (.scmp f b a d) c d x s t ∧
    ((x = 1 ∧ relation f (readS c.g a) (readS c.g b)) ∨ (x = 0 ∧ ¬relation f (readS c.g a) (readS c.g b)))

/-- `SMOVI` writes imm16 into one quarter of sd and keeps the other bits (R456), `SLANE` copies the named lane's register, whatever
the state of that lane (R453), with their frame. -/
def Sys2Proof.Claims.ScalarMoveResults : Prop :=
  (∀ k q d, ∀ c s, Ready (.smovi k q d) c s → ∃ x t, exec (.smovi k q d) s = .next t ∧ WritesScalar (.smovi k q d) c d x s t ∧
    ∀ j, j < 64 → x.getLsbD j =
      if 16 * q.toNat ≤ j ∧ j ≤ 16 * q.toNat + 15 then k.getLsbD (j - 16 * q.toNat) else (readS c.g d).getLsbD j) ∧
  ∀ l a d, ScalarGives (.slane l a d) d fun c _ => BitVec.ofNat 64 (readV (laneAt c.g l.toNat) a).toNat

/-- The results of the scalar instructions, each with its frame: arithmetic, logic, shifts, comparisons and moves. -/
def Obligations.ScalarResults : Prop :=
  ScalarArithmeticResults ∧ ScalarLogicAndShiftResults ∧ ScalarComparisonResults ∧ ScalarMoveResults

/-- `SRD` reads each special register of R26 into sd as of its issue (R458), and changes nothing else. What `%nvchip`
(0x021) counts (log 27) and that `%prio` (0x048) reads the value last written (log 22) are the model's readings and are not stated. -/
def Sys2Proof.Claims.SpecialRegisterReads : Prop :=
  ∀ n d c s, Ready (.srd n d) c s →
    ∃ x t, exec (.srd n d) s = .next t ∧ WritesScalar (.srd n d) c d x s t ∧ SpecialIs c s n x

/-- `SWR` writes the bits of R458 of each writable register of R26, ignores the others, and changes nothing else: a value above 31
makes `%prio` 31 from the next regroup on. -/
def Sys2Proof.Claims.SpecialRegisterWrites : Prop :=
  ∀ n a c s, Ready (.swr n a) c s → ∃ t, exec (.swr n a) s = .next t ∧
    let x := readS c.g a
    (n = 0x040 ∧ ∃ v : BitVec 13, (∀ j, v.getLsbD j = (x.getLsbD j && (decide (j ≤ 3) || (decide (8 ≤ j) && decide (j ≤ 12))))) ∧
      GroupBecomes (.swr n a) c { c.g with fpctl := v } s t)
    ∨ (n = 0x041 ∧ GroupBecomes (.swr n a) c { c.g with fpflags := BitVec.ofNat 5 x.toNat } s t)
    ∨ (n = 0x042 ∧ GroupBecomes (.swr n a) c { c.g with mflags := BitVec.ofNat 3 x.toNat } s t)
    ∨ (n = 0x048 ∧ GroupBecomes (.swr n a) c { c.g with prioNext := some (BitVec.ofNat 5 (min x.toNat 31)) } s t)
    ∨ (n = 0x049 ∧ GroupBecomes (.swr n a) c { c.g with rcount := BitVec.ofNat 6 x.toNat } s t)
    ∨ (n = 0x04B ∧ GroupBecomes (.swr n a) c { c.g with stacklim := x } s t)

/-- What `SRD` reads and what `SWR` writes. What `%prio` and `%nvchip` read are readings (logs 22 and 27). -/
def Obligations.SpecialRegisterResults : Prop :=
  SpecialRegisterReads ∧ SpecialRegisterWrites

/-! ## Vector integer and predicate instructions -/

/-- In every form of `ADD`, for each acting lane, the sum of x and y modulo 2^32 (R346): two registers, a register and a sign-extended
immediate, and the two compact forms; nothing else changes. -/
def Obligations.AddResultsInEveryForm : Prop :=
  (∀ n g b a d, VectorGives (.add n g b a d) d fun _ _ l => BitVec.ofNat 32 ((readV l a).toNat + (readV l b).toNat)) ∧
  (∀ g i a d, VectorGives (.addi g i a d) d fun _ _ l => BitVec.ofInt 32 ((readV l a).toInt + i.toInt)) ∧
  (∀ r d, VectorGives (.addCompact r d) (d.setWidth 6) fun _ _ l =>
    BitVec.ofNat 32 ((readV l (d.setWidth 6)).toNat + (readV l (r.setWidth 6)).toNat)) ∧
  ∀ i d, VectorGives (.addCompactImm i d) (d.setWidth 6) fun _ _ l => BitVec.ofInt 32 ((readV l (d.setWidth 6)).toInt + i.toInt)

/-- The results of the other three-register integer instructions (R405, R407, R414, R415, R463), with their frame. -/
def Sys2Proof.Claims.VectorArithmeticResults : Prop :=
  (∀ n g b a d, VectorGives (.sub n g b a d) d fun _ _ l => BitVec.ofInt 32 ((readV l a).toNat - (readV l b).toNat)) ∧
  (∀ n g b a d, VectorGives (.mul n g b a d) d fun _ _ l => BitVec.ofNat 32 ((readV l a).toNat * (readV l b).toNat)) ∧
  (∀ n g b a d, VectorGives (.mulhi 0 n g b a d) d fun _ _ l => BitVec.ofInt 32 ((readV l a).toInt * (readV l b).toInt / 2 ^ 32)) ∧
  (∀ n g b a d, VectorGives (.mulhi 1 n g b a d) d fun _ _ l => BitVec.ofNat 32 ((readV l a).toNat * (readV l b).toNat / 2 ^ 32)) ∧
  (∀ n g b a d, VectorGives (.mad n g b a d) d fun _ _ l =>
    BitVec.ofNat 32 ((readV l a).toNat * (readV l b).toNat + (readV l d).toNat)) ∧
  (∀ u n g b a d, ∃ x, VectorGives (.min u n g b a d) d x ∧ ∀ c k l, Least (u == 1#1) (readV l a) (readV l b) (x c k l)) ∧
  ∀ u n g b a d, ∃ x, VectorGives (.max u n g b a d) d x ∧ ∀ c k l, Greatest (u == 1#1) (readV l a) (readV l b) (x c k l)

/-- The results of the bitwise and shift instructions (R347, R420, R451, R452, R466), with their frame. -/
def Sys2Proof.Claims.VectorLogicAndShiftResults : Prop :=
  (∀ n g b a d, ∃ x, VectorGives (.and n g b a d) d x ∧ ∀ c k l j, (x c k l).getLsbD j = ((readV l a).getLsbD j && (readV l b).getLsbD j)) ∧
  (∀ n g b a d, ∃ x, VectorGives (.or n g b a d) d x ∧ ∀ c k l j, (x c k l).getLsbD j = ((readV l a).getLsbD j || (readV l b).getLsbD j)) ∧
  (∀ n g b a d, ∃ x, VectorGives (.xor n g b a d) d x ∧ ∀ c k l j, (x c k l).getLsbD j = ((readV l a).getLsbD j ^^ (readV l b).getLsbD j)) ∧
  (∀ n g b a d, ∃ x, VectorGives (.andn n g b a d) d x ∧ ∀ c k l j, (x c k l).getLsbD j = ((readV l a).getLsbD j && !(readV l b).getLsbD j)) ∧
  (∀ n g b a d, VectorGives (.shl n g b a d) d fun _ _ l => BitVec.ofNat 32 ((readV l a).toNat * 2 ^ ((readV l b).toNat % 32))) ∧
  (∀ n g b a d, VectorGives (.shr n g b a d) d fun _ _ l => BitVec.ofNat 32 ((readV l a).toNat / 2 ^ ((readV l b).toNat % 32))) ∧
  (∀ n g b a d, VectorGives (.sra n g b a d) d fun _ _ l => BitVec.ofInt 32 ((readV l a).toInt / 2 ^ ((readV l b).toNat % 32))) ∧
  (∀ g k a d, VectorGives (.shli g k a d) d fun _ _ l => BitVec.ofNat 32 ((readV l a).toNat * 2 ^ k.toNat)) ∧
  ∀ g k a d, VectorGives (.shri g k a d) d fun _ _ l => BitVec.ofNat 32 ((readV l a).toNat / 2 ^ k.toNat)

/-- The results of the one-operand integer instructions (R344, R356, R418, R432), with their frame. -/
def Sys2Proof.Claims.VectorUnaryResults : Prop :=
  (∀ n g a d, VectorGives (.abs n g a d) d fun _ _ l => BitVec.ofInt 32 |(readV l a).toInt|) ∧
  (∀ n g a d, VectorGives (.neg n g a d) d fun _ _ l => BitVec.ofInt 32 (-(readV l a).toInt)) ∧
  (∀ n g a d, ∃ x, VectorGives (.clz n g a d) d x ∧ ∀ c k l,
    ((readV l a) = 0 → x c k l = 32) ∧
    (readV l a ≠ 0 → (x c k l).toNat ≤ 31 ∧ 2 ^ (31 - (x c k l).toNat) ≤ (readV l a).toNat ∧ (readV l a).toNat < 2 ^ (32 - (x c k l).toNat))) ∧
  (∀ n g a d, VectorGives (.popc n g a d) d fun _ _ l =>
    BitVec.ofNat 32 ((List.range 32).map fun j => ((readV l a).toNat / 2 ^ j) % 2).sum) ∧
  ∀ n g a d, ∃ x, VectorGives (.brev n g a d) d x ∧ ∀ c k l j, j ≤ 31 → (x c k l).getLsbD j = (readV l a).getLsbD (31 - j)

/-- The results of the bit-field, dot-product and conversion instructions (R354, R367, R373), with their frame. -/
def Obligations.FieldDotAndConversionResults : Prop :=
  (∀ e n g b a d, ∃ x, VectorGives (.bfe e n g b a d) d x ∧ ∀ c k l,
    let pos := (readV l b).toNat % 32
    let len := if (readV l b).toNat / 256 % 32 = 0 then 32 else (readV l b).toNat / 256 % 32
    let m := min len (32 - pos)
    ∀ j, j ≤ 31 → (x c k l).getLsbD j =
      if j < m then (readV l a).getLsbD (pos + j) else (e == 1#1 && (readV l a).getLsbD (pos + m - 1))) ∧
  (∀ n g b a d, ∃ x, VectorGives (.bfi n g b a d) d x ∧ ∀ c k l,
    let pos := (readV l b).toNat % 32
    let len := if (readV l b).toNat / 256 % 32 = 0 then 32 else (readV l b).toNat / 256 % 32
    let m := min len (32 - pos)
    ∀ j, j ≤ 31 → (x c k l).getLsbD j =
      if pos ≤ j ∧ j ≤ pos + m - 1 then (readV l a).getLsbD (j - pos) else (readV l d).getLsbD j) ∧
  (∀ f n g b a d, f ≠ 3#2 → VectorGives (.dot4 f n g b a d) d fun _ _ l => BitVec.ofInt 32 ((readV l d).toNat +
    ((List.range 4).map fun k => byteAs (f != 1#2) (readV l a) k * byteAs (f == 0#2) (readV l b) k).sum)) ∧
  (∀ n g a d, VectorGives (.cvt 0 n g a d) d fun _ _ l => BitVec.ofInt 32 (BitVec.ofNat 8 (readV l a).toNat).toInt) ∧
  (∀ n g a d, VectorGives (.cvt 1 n g a d) d fun _ _ l => BitVec.ofInt 32 (BitVec.ofNat 16 (readV l a).toNat).toInt) ∧
  (∀ n g a d, VectorGives (.cvt 2 n g a d) d fun _ _ l => BitVec.ofInt 32 (max (-128) (min 127 (readV l a).toInt))) ∧
  ∀ n g a d, VectorGives (.cvt 3 n g a d) d fun _ _ l => BitVec.ofInt 32 (max (-32768) (min 32767 (readV l a).toInt))

/-- `PLANE` works on aligned blocks of min(32, width) lanes: `.g` gives every acting lane of a block the word whose bit j holds bit b
of v[va] of the block's j-th lane, where lanes that are not acting contribute 0; `.s` sets bit b of v[vd] in each acting lane i to
bit (i mod 32) of v[va][i] and keeps vd's other bits (R333). Nothing else changes. -/
def Obligations.PlaneGathersAndScatters : Prop :=
  (∀ n g b a d, ∃ x, VectorGives (.plane 0 n g b a d) d x ∧ ∀ c k l j, j ≤ 31 →
    let w := min 32 c.g.width
    (x c k l).getLsbD j = (decide (j < w) && has (acting c (.plane 0 n g b a d)) (k / w * w + j) &&
      (readV (laneAt c.g (k / w * w + j)) a).getLsbD b.toNat)) ∧
  ∀ n g b a d, ∃ x, VectorGives (.plane 1 n g b a d) d x ∧ ∀ c k l j, j ≤ 31 →
    (x c k l).getLsbD j = if j = b.toNat then (readV l a).getLsbD (k % 32) else (readV l d).getLsbD j

/-- `MOV`, `MOVS` and `SEL` move bits (R410, R411, R449); `SEL` reads its predicate in every active lane and is gated by none. -/
def Sys2Proof.Claims.MoveAndSelectResults : Prop :=
  (∀ n g a d, VectorGives (.mov n g a d) d fun _ _ l => readV l a) ∧
  (∀ b d, VectorGives (.movs 0 b d) d fun c _ _ => BitVec.ofNat 32 (readS c.g b).toNat) ∧
  (∀ b d, VectorGives (.movs 1 b d) d fun c _ _ => BitVec.ofNat 32 ((readS c.g b).toNat / 2 ^ 32)) ∧
  (∀ n g b a d, VectorGives (.sel n g b a d) d fun _ _ l => if (readP l g ^^ (n == 1#1)) = true then readV l a else readV l b) ∧
  ∀ n g b a d c, acting c (.sel n g b a d) = c.b.mask

/-- `LRD` reads a per-lane special register (R404): lane number, `%item` and `%gen` into vd. -/
def Sys2Proof.Claims.LaneRegisterReads : Prop :=
  (∀ g d, VectorGives (.lrd g 0x000 d) d fun _ k _ => BitVec.ofNat 32 k) ∧
  (∀ g d, VectorGives (.lrd g 0x010 d) d fun _ _ l => l.item) ∧
  (∀ g d, VectorGives (.lrd g 0x011 d) d fun _ _ l => l.gen) ∧
  ∀ g d c s, Ready (.lrd g 0x04A d) c s → ∃ t, exec (.lrd g 0x04A d) s = .next t ∧ Elsewhere c.b.group s t ∧
    ∃ g', t.groups[c.b.group]? = some g' ∧ GroupKept c.g g' ∧
      LanesDid (.lrd g 0x04A d) c (acting c (.lrd g 0x04A d)) (fun _ l l' =>
        (readV l' d).toNat = l.stack.toNat % 2 ^ 32 ∧ (readV l' (d + 1)).toNat = l.stack.toNat / 2 ^ 32 ∧
        (∀ r, r ≠ d → r ≠ d + 1 → readV l' r = readV l r) ∧
        (∀ r, l'.vpois.getLsbD r = (l.vpois.getLsbD r && !(r == d.toNat || r == d.toNat + 1))) ∧
        l' = { movedTo (c.b.pc + 4) l with v := l'.v, vpois := l'.vpois }) g'

/-- `CMP` and `CMPN` write whether the relation holds, signed and unsigned (R362), `PAND`, `POR` and `PNOT` combine predicates (R421);
a write of p7 is discarded, and nothing else changes. -/
def Obligations.PredicateResults : Prop :=
  (∀ f n g b a p, ∃ x, PredicateGives (.cmp f n g b a p) p x ∧ ∀ c k l, x c k l = true ↔
    related f (readV l a).toInt (readV l b).toInt) ∧
  (∀ f n g b a p, ∃ x, PredicateGives (.cmpn f n g b a p) p x ∧ ∀ c k l, x c k l = true ↔
    related f (readV l a).toNat (readV l b).toNat) ∧
  (∀ n g b a d, PredicateGives (.pand n g b a d) d fun _ _ l => readP l a && readP l b) ∧
  (∀ n g b a d, PredicateGives (.por n g b a d) d fun _ _ l => readP l a || readP l b) ∧
  ∀ n g a d, PredicateGives (.pnot n g a d) d fun _ _ l => !readP l a

/-- The results of the compact integer instructions (R307): x is vd and y the second register or the sign-extended immediate; they act
in every active lane and change nothing else. -/
def Sys2Proof.Claims.CompactIntegerResults : Prop :=
  (∀ r d, VectorGives (.subCompact r d) (d.setWidth 6) (compact r d fun x y => BitVec.ofInt 32 (x.toInt - y.toInt))) ∧
  (∀ r d, VectorGives (.andCompact r d) (d.setWidth 6) (compact r d fun x y => x &&& y)) ∧
  (∀ r d, VectorGives (.orCompact r d) (d.setWidth 6) (compact r d fun x y => x ||| y)) ∧
  (∀ r d, VectorGives (.xorCompact r d) (d.setWidth 6) (compact r d fun x y => x ^^^ y)) ∧
  (∀ r d, VectorGives (.shlCompact r d) (d.setWidth 6) (compact r d fun x y => BitVec.ofNat 32 (x.toNat * 2 ^ (y.toNat % 32)))) ∧
  (∀ r d, VectorGives (.shrCompact r d) (d.setWidth 6) (compact r d fun x y => BitVec.ofNat 32 (x.toNat / 2 ^ (y.toNat % 32)))) ∧
  (∀ r d, VectorGives (.movCompact r d) (d.setWidth 6) (compact r d fun _ y => y)) ∧
  (∀ r d, VectorGives (.mulCompact r d) (d.setWidth 6) (compact r d fun x y => BitVec.ofNat 32 (x.toNat * y.toNat))) ∧
  (∀ r d, VectorGives (.minI32Compact r d) (d.setWidth 6) (compact r d fun x y => if x.toInt ≤ y.toInt then x else y)) ∧
  (∀ r d, VectorGives (.maxI32Compact r d) (d.setWidth 6) (compact r d fun x y => if x.toInt ≤ y.toInt then y else x)) ∧
  (∀ i d, VectorGives (.subCompactImm i d) (d.setWidth 6) (compactImm i d fun x y => BitVec.ofInt 32 (x.toInt - y.toInt))) ∧
  (∀ i d, VectorGives (.andCompactImm i d) (d.setWidth 6) (compactImm i d fun x y => x &&& y)) ∧
  (∀ i d, VectorGives (.orCompactImm i d) (d.setWidth 6) (compactImm i d fun x y => x ||| y)) ∧
  (∀ i d, VectorGives (.xorCompactImm i d) (d.setWidth 6) (compactImm i d fun x y => x ^^^ y)) ∧
  (∀ i d, VectorGives (.shlCompactImm i d) (d.setWidth 6) (compactImm i d fun x y => BitVec.ofNat 32 (x.toNat * 2 ^ (y.toNat % 32)))) ∧
  (∀ i d, VectorGives (.shrCompactImm i d) (d.setWidth 6) (compactImm i d fun x y => BitVec.ofNat 32 (x.toNat / 2 ^ (y.toNat % 32)))) ∧
  ∀ i d, VectorGives (.movCompactImm i d) (d.setWidth 6) (compactImm i d fun _ y => y)

/-- The results of the vector integer instructions, 32-bit and compact, each with its frame. -/
def Obligations.VectorIntegerResults : Prop :=
  VectorArithmeticResults ∧ VectorLogicAndShiftResults ∧ VectorUnaryResults ∧ CompactIntegerResults

/-! ## Float instructions -/

namespace Sys2Proof.Claims

/-- An exception that an acting lane raises whose trap enable, `%fpctl`[8 + j], is set (R111, R115). -/
def Traps (c : Ctx) (i : Instr) (flags : Lane → BitVec 5) (k : Nat) : Prop :=
  k < c.g.lanes.length ∧ has (acting c i) k = true ∧
    ∃ j, j ≤ 4 ∧ (flags (laneAt c.g k)).getLsbD j = true ∧ c.g.fpctl.getLsbD (8 + j) = true

/-- `%fpflags` after a float instruction: the OR with the flags of every acting lane (R112). -/
def FlagsGather (c : Ctx) (i : Instr) (flags : Lane → BitVec 5) (v : BitVec 5) : Prop :=
  ∀ j, v.getLsbD j = true ↔ c.g.fpflags.getLsbD j = true ∨
    ∃ k, k < c.g.lanes.length ∧ has (acting c i) k = true ∧ (flags (laneAt c.g k)).getLsbD j = true

/-- The exceptions of each lane of a group in an arithmetic fault (R115): those that an acting lane raised, and none in the others. -/
def ExceptionsAre (c : Ctx) (i : Instr) (flags : Lane → BitVec 5) (xs : List (BitVec 5)) : Prop :=
  xs.length = c.g.lanes.length ∧ ∀ k, k < c.g.lanes.length →
    xs[k]? = some (if has (acting c i) k = true then flags (laneAt c.g k) else 0)

/-- A float instruction whose lanes end as W says, with their exceptions (R369, R115): without an enabled exception, exec answers
a next state in which every acting lane has its result, `%fpflags` has gathered the exceptions, and nothing else has changed;
with one, it takes the arithmetic fault at the offending lanes, with the exceptions of every lane. -/
def FloatDoes (i : Instr) (flags : FpEnv → Lane → BitVec 5) (W : FpEnv → DWord → Lane → Lane → Prop) : Prop :=
  ∀ c s, Ready i c s →
    ((∀ k, ¬Traps c i (flags (envOf c.g)) k) → ∃ t v, exec i s = .next t ∧ Elsewhere c.b.group s t ∧
      FlagsGather c i (flags (envOf c.g)) v ∧ ∃ g', t.groups[c.b.group]? = some g' ∧ GroupKept { c.g with fpflags := v } g' ∧
        LanesDid i c (acting c i) (fun _ l l' => W (envOf c.g) (c.b.pc + BitVec.ofNat 64 (instrBytes i)) l l') g') ∧
    ((∃ k, k < 64 ∧ Traps c i (flags (envOf c.g)) k) → ∃ t m, exec i s = .next t ∧
      (∀ k, k < 64 → (has m k = true ↔ Traps c i (flags (envOf c.g)) k)) ∧ ∃ xs, ExceptionsAre c i (flags (envOf c.g)) xs ∧
        TakesFault c 0x10 m 0 false xs s t)

/-- A float instruction completes (R111, R115, R369): with every trap enable of `%fpctl`, bits [12:8], clear, exec answers a next state,
whatever the operands, in which every acting lane has its result and has moved past the instruction; `%fpflags` keeps what it held, and
nothing else has changed. -/
def FloatCompletes (i : Instr) (W : FpEnv → DWord → Lane → Lane → Prop) : Prop :=
  ∀ c s, Ready i c s → (∀ j, j ≤ 4 → c.g.fpctl.getLsbD (8 + j) = false) → ∃ t v g', exec i s = .next t ∧ Elsewhere c.b.group s t ∧
    (∀ j, c.g.fpflags.getLsbD j = true → v.getLsbD j = true) ∧ t.groups[c.b.group]? = some g' ∧ GroupKept { c.g with fpflags := v } g' ∧
    LanesDid i c (acting c i) (fun _ l l' => W (envOf c.g) (c.b.pc + BitVec.ofNat 64 (instrBytes i)) l l') g'

/-- One that writes a vector register with a code. -/
def FloatWrites (i : Instr) (d : BitVec 6) (r : FpEnv → Lane → FRes) : Prop :=
  FloatCompletes i fun e pc l l' => LaneWrote d (BitVec.ofNat 32 (r e l).code) pc l l'

/-- A float instruction that writes one vector register with a code. -/
def FloatGives (i : Instr) (d : BitVec 6) (r : FpEnv → Lane → FRes) : Prop :=
  FloatDoes i (fun e l => (r e l).flags) fun e pc l l' => LaneWrote d (BitVec.ofNat 32 (r e l).code) pc l l'

/-- The ten classes of a binary32 value by its magnitude's bits, from bit 0 (minus infinity) to bit 9 (quiet NaN) (R334, R382). -/
def InClass (x : Word) (j : Nat) : Prop :=
  let m := x.toNat % 2 ^ 31
  (j = 0 ∧ 2 ^ 31 ≤ x.toNat ∧ m = 0x7F800000) ∨ (j = 1 ∧ 2 ^ 31 ≤ x.toNat ∧ 0x800000 ≤ m ∧ m < 0x7F800000) ∨
  (j = 2 ∧ 2 ^ 31 ≤ x.toNat ∧ 0 < m ∧ m < 0x800000) ∨ (j = 3 ∧ 2 ^ 31 ≤ x.toNat ∧ m = 0) ∨
  (j = 4 ∧ x.toNat < 2 ^ 31 ∧ m = 0) ∨ (j = 5 ∧ x.toNat < 2 ^ 31 ∧ 0 < m ∧ m < 0x800000) ∨
  (j = 6 ∧ x.toNat < 2 ^ 31 ∧ 0x800000 ≤ m ∧ m < 0x7F800000) ∨ (j = 7 ∧ x.toNat < 2 ^ 31 ∧ m = 0x7F800000) ∨
  (j = 8 ∧ 0x7F800000 < m ∧ m < 0x7FC00000) ∨ (j = 9 ∧ 0x7FC00000 ≤ m)

/-- A binary32 operand under DAZ (R369). -/
def operand (e : FpEnv) (x : Word) : FVal := unpack f32 e.daz x.toNat

end Sys2Proof.Claims

/-- `%fpctl` governs float instructions as R111 lays it out: RM in [1:0], FTZ in [2], DAZ in [3]. -/
def Sys2Proof.Claims.FloatControlFields : Prop :=
  ∀ g : Group, (envOf g).ftz = g.fpctl.getLsbD 2 ∧ (envOf g).daz = g.fpctl.getLsbD 3 ∧
    ((envOf g).rm = .nearest ↔ g.fpctl.toNat % 4 = 0) ∧ ((envOf g).rm = .zero ↔ g.fpctl.toNat % 4 = 1) ∧
    ((envOf g).rm = .up ↔ g.fpctl.toNat % 4 = 2) ∧ ((envOf g).rm = .down ↔ g.fpctl.toNat % 4 = 3)

/-- The float arithmetic instructions and their compact forms, as R369 has every float instruction act: each acting lane gets the
value of R381, R386, R390, R391 or R392 for its operands, the flags gather, and an enabled exception traps (R115). The values
are those of the functions for one sum, one product, one division, one root (`fAddV`, `fDivV`, ...); `FloatArithmeticValues` says in real
numbers what those give, and `FloatSpecialOperands` states their special operands, for each of them. -/
def Obligations.FloatArithmeticActs : Prop :=
  (∀ n g b a d, FloatGives (.fadd n g b a d) d fun e l => fAddV f32 e (operand e (readV l a)) (operand e (readV l b))) ∧
  (∀ n g b a d, FloatGives (.fsub n g b a d) d fun e l => fAddV f32 e (operand e (readV l a)) (negV (operand e (readV l b)))) ∧
  (∀ n g b a d, FloatGives (.fmul n g b a d) d fun e l => fMulV f32 e (operand e (readV l a)) (operand e (readV l b))) ∧
  (∀ n g b a d, FloatGives (.ffma n g b a d) d fun e l =>
    fFmaV f32 e (operand e (readV l a)) (operand e (readV l b)) (operand e (readV l d))) ∧
  (∀ n g b a d, FloatGives (.fmin n g b a d) d fun e l => fMinMaxV f32 e false (operand e (readV l a)) (operand e (readV l b))) ∧
  (∀ n g b a d, FloatGives (.fmax n g b a d) d fun e l => fMinMaxV f32 e true (operand e (readV l a)) (operand e (readV l b))) ∧
  (∀ n g b a d, FloatGives (.fdiv n g b a d) d fun e l => fDivV f32 e (operand e (readV l a)) (operand e (readV l b))) ∧
  (∀ n g a d, FloatGives (.frcp n g a d) d fun e l => fDivV f32 e (.fin false 1 0) (operand e (readV l a))) ∧
  (∀ n g a d, FloatGives (.frsq n g a d) d fun e l => fRsqV f32 e (operand e (readV l a))) ∧
  (∀ n g a d, FloatGives (.fsqrt n g a d) d fun e l => fSqrtV f32 e (operand e (readV l a))) ∧
  (∀ r d, FloatGives (.faddCompact r d) (d.setWidth 6) fun e l =>
    fAddV f32 e (operand e (readV l (d.setWidth 6))) (operand e (readV l (r.setWidth 6)))) ∧
  (∀ r d, FloatGives (.fmulCompact r d) (d.setWidth 6) fun e l =>
    fMulV f32 e (operand e (readV l (d.setWidth 6))) (operand e (readV l (r.setWidth 6)))) ∧
  (∀ r d, FloatGives (.fsubCompact r d) (d.setWidth 6) fun e l =>
    fAddV f32 e (operand e (readV l (d.setWidth 6))) (negV (operand e (readV l (r.setWidth 6))))) ∧
  (∀ r d, FloatGives (.fmaxCompact r d) (d.setWidth 6) fun e l =>
    fMinMaxV f32 e true (operand e (readV l (d.setWidth 6))) (operand e (readV l (r.setWidth 6)))) ∧
  ∀ r d, FloatGives (.fminCompact r d) (d.setWidth 6) fun e l =>
    fMinMaxV f32 e false (operand e (readV l (d.setWidth 6))) (operand e (readV l (r.setWidth 6)))

/-- `FCMP`, `FCVT`, `NCVT`, both `ICVT`s, `FRND`, `FSCL`, `FEXP2`, `FLOG2`, `FSIN` and `FCOS` complete for every operand while no trap is
enabled (R369): `FCMP` writes its predicate (R383), the others their vector register. -/
def Sys2Proof.Claims.FloatConversionsComplete : Prop :=
  (∀ f n g b a p, FloatCompletes (.fcmp f n g b a p)
    fun e pc l l' => LaneSet p (fCmp f (operand e (readV l a)) (operand e (readV l b))).1 pc l l') ∧
  (∀ f n g a d, FloatWrites (.fcvt f n g a d) d fun e l =>
    if f = 0 then fConv f16 f32 e ((readV l a).toNat % 2 ^ 16) else if f = 1 then fConv bf16 f32 e ((readV l a).toNat % 2 ^ 16)
    else if f = 2 then fConv f32 f16 e (readV l a).toNat else fConv f32 bf16 e (readV l a).toNat) ∧
  (∀ u n g j f a d, FloatWrites (.ncvt u n g j f a d) d fun e l =>
    if u = 0 then ncvtPack f j.toNat e (readV l a) (readV l d) else ncvtUnpack f j.toNat (readV l a)) ∧
  (∀ u n g m a d, FloatCompletes (.icvtF32ToInt u n g m a d)
    fun e pc l l' => LaneWrote d (fToInt (u == 1#1) (modeRm m e.rm) (operand e (readV l a))).1 pc l l') ∧
  (∀ u n g a d, FloatWrites (.icvtIntToF32 u n g a d) d fun e l => fFromInt e (if u = 0 then (readV l a).toInt else (readV l a).toNat)) ∧
  (∀ n g m a d, FloatWrites (.frnd n g m a d) d fun e l => fRound (modeRm m e.rm) e (operand e (readV l a))) ∧
  (∀ n g b a d, FloatWrites (.fscl n g b a d) d fun e l => fScale e (operand e (readV l a)) (readV l b).toInt) ∧
  (∀ n g a d, FloatWrites (.fexp2 n g a d) d fun e l => fExp2 e (readV l a)) ∧
  (∀ n g a d, FloatWrites (.flog2 n g a d) d fun e l => fLog2 e (readV l a)) ∧
  (∀ n g a d, FloatWrites (.fsin n g a d) d fun e l => fSinCos false e (readV l a)) ∧
  ∀ n g a d, FloatWrites (.fcos n g a d) d fun e l => fSinCos true e (readV l a)

/-- The conversions, rounding and scaling instructions and the transcendentals act as R369 says, with the values of R117 (a free one
within its bound, log 6), R385, R393, R394, R397 and R417; `FCMP` writes a predicate (R383): their flags gather, and an enabled exception
traps (R115). -/
def Sys2Proof.Claims.FloatConversionsGatherOrTrap : Prop :=
  (∀ f n g a d, FloatGives (.fcvt f n g a d) d fun e l =>
    if f = 0 then fConv f16 f32 e ((readV l a).toNat % 2 ^ 16) else if f = 1 then fConv bf16 f32 e ((readV l a).toNat % 2 ^ 16)
    else if f = 2 then fConv f32 f16 e (readV l a).toNat else fConv f32 bf16 e (readV l a).toNat) ∧
  (∀ n g j f a d, FloatGives (.ncvt 0 n g j f a d) d fun e l => ncvtPack f j.toNat e (readV l a) (readV l d)) ∧
  (∀ n g j f a d, FloatGives (.ncvt 1 n g j f a d) d fun _ l => ncvtUnpack f j.toNat (readV l a)) ∧
  (∀ u n g m a d, FloatDoes (.icvtF32ToInt u n g m a d)
    (fun e l => (fToInt (u == 1#1) (modeRm m e.rm) (operand e (readV l a))).2)
    fun e pc l l' => LaneWrote d (fToInt (u == 1#1) (modeRm m e.rm) (operand e (readV l a))).1 pc l l') ∧
  (∀ n g a d, FloatGives (.icvtIntToF32 0 n g a d) d fun e l => fFromInt e (readV l a).toInt) ∧
  (∀ n g a d, FloatGives (.icvtIntToF32 1 n g a d) d fun e l => fFromInt e (readV l a).toNat) ∧
  (∀ n g m a d, FloatGives (.frnd n g m a d) d fun e l => fRound (modeRm m e.rm) e (operand e (readV l a))) ∧
  (∀ n g b a d, FloatGives (.fscl n g b a d) d fun e l => fScale e (operand e (readV l a)) (readV l b).toInt) ∧
  (∀ n g a d, FloatGives (.fexp2 n g a d) d fun e l => fExp2 e (readV l a)) ∧
  (∀ n g a d, FloatGives (.flog2 n g a d) d fun e l => fLog2 e (readV l a)) ∧
  (∀ n g a d, FloatGives (.fsin n g a d) d fun e l => fSinCos false e (readV l a)) ∧
  (∀ n g a d, FloatGives (.fcos n g a d) d fun e l => fSinCos true e (readV l a)) ∧
  ∀ f n g b a p, FloatDoes (.fcmp f n g b a p)
    (fun e l => (fCmp f (operand e (readV l a)) (operand e (readV l b))).2)
    fun e pc l l' => LaneSet p (fCmp f (operand e (readV l a)) (operand e (readV l b))).1 pc l l'

/-- Float conversions, comparisons, roundings, scalings and transcendentals complete, and gather their flags or trap. -/
def Obligations.FloatConversionActs : Prop :=
  FloatConversionsComplete ∧ FloatConversionsGatherOrTrap

/-- `FABS`, `FNEG` and `FCPYS` change the sign bit alone, whatever the operand, and raise no flag (R379); `FCLASS` gives the one bit
of its operand's class (R382). Nothing else changes. -/
def Obligations.FloatBitMoves : Prop :=
  (∀ n g a d, ∃ x, VectorGives (.fabs n g a d) d x ∧ ∀ c k l j, j ≤ 31 →
    (x c k l).getLsbD j = (decide (j ≠ 31) && (readV l a).getLsbD j)) ∧
  (∀ n g a d, ∃ x, VectorGives (.fneg n g a d) d x ∧ ∀ c k l j, j ≤ 31 →
    (x c k l).getLsbD j = (decide (j = 31) ^^ (readV l a).getLsbD j)) ∧
  (∀ n g b a d, ∃ x, VectorGives (.fcpys n g b a d) d x ∧ ∀ c k l j, j ≤ 31 →
    (x c k l).getLsbD j = if j = 31 then (readV l b).getLsbD j else (readV l a).getLsbD j) ∧
  ∀ n g a d, ∃ x, VectorGives (.fclass n g a d) d x ∧ ∀ c k l, ∃ j, InClass (readV l a) j ∧ x c k l = BitVec.twoPow 32 j

/-- One rounding (R111, R114, R369). A magnitude m with a fraction s, 0 < s < 1 if sticky and s = 0 if not, is rounded to n units of 2^k:
to nearest even, toward zero, upward or downward, and is inexact unless it is a multiple of the unit. A value that a format holds
rounds to itself without a flag. -/
def Sys2Proof.Claims.RoundingResults : Prop :=
  (∀ rm neg m e sticky k, 0 < k →
    let n := (roundAt rm neg m e sticky (e + (k : Nat))).1
    let x := 2 * m + sticky.toNat
    let u := 2 * 2 ^ k
    ((roundAt rm neg m e sticky (e + (k : Nat))).2 = true ↔ ¬u ∣ x) ∧
    (rm = .nearest → 2 * x ≤ 2 * (n * u) + u ∧ 2 * (n * u) ≤ 2 * x + u ∧
      (2 * x = 2 * (n * u) + u ∨ 2 * (n * u) = 2 * x + u → n % 2 = 0)) ∧
    (rm = .zero ∨ (rm = .up ∧ neg = true) ∨ (rm = .down ∧ neg = false) → n * u ≤ x ∧ x < (n + 1) * u) ∧
    ((rm = .up ∧ neg = false) ∨ (rm = .down ∧ neg = true) → x ≤ n * u ∧ n * u < x + u)) ∧
  ∀ f, f = f32 ∨ f = f16 ∨ f = bf16 ∨ f = f64 → ∀ e x neg m q, e.ftz = false → x < 2 ^ (1 + f.ebits + f.mbits) →
    unpack f false x = .fin neg m q → roundPack f e neg m q false = { code := x, flags := 0 }

/-- The specials of the arithmetic in binary32 and binary64 (R108, R110, R116, R371, R381, R386, R390, R392): ∞ − ∞, 0 × ∞
with any addend, 0 ÷ 0, ∞ ÷ ∞, a root below zero and a signalling NaN give the canonical NaN with NV; another NaN gives it without a
flag; x ÷ 0 and 1 ÷ √0 give ∞ with DZ; an infinite operand gives ∞ or 0 without a flag. -/
def Sys2Proof.Claims.FloatSpecialOperands : Prop :=
  ∀ f, (f = f32 ∧ nanCode f = 0x7FC00000) ∨ (f = f64 ∧ nanCode f = 0x7FF8000000000000) → ∀ e a b c,
    let invalid : FRes := { code := nanCode f, flags := 1 }
    let quiet : FRes := { code := nanCode f, flags := 0 }
    let infinite (n : Bool) : FRes := { code := infCode f n, flags := 0 }
    (∀ n, fAddV f e (.inf n) (.inf (!n)) = invalid ∧ fAddV f e (.inf n) (negV (.inf n)) = invalid ∧ fAddV f e (.inf n) (.inf n) = infinite n) ∧
    (∀ n z m x, fAddV f e (.inf n) (.fin z m x) = infinite n ∧ fAddV f e (.fin z m x) (.inf n) = infinite n) ∧
    (∀ n z x, fMulV f e (.inf n) (.fin z 0 x) = invalid ∧ fMulV f e (.fin z 0 x) (.inf n) = invalid ∧
      fFmaV f e (.inf n) (.fin z 0 x) c = invalid ∧ fFmaV f e (.fin z 0 x) (.inf n) c = invalid) ∧
    (∀ n z m x, m ≠ 0 → fMulV f e (.inf n) (.fin z m x) = infinite (n != z) ∧ fMulV f e (.fin z m x) (.inf n) = infinite (n != z)) ∧
    (∀ n z, fMulV f e (.inf n) (.inf z) = infinite (n != z) ∧ fDivV f e (.inf n) (.inf z) = invalid) ∧
    (∀ x, isNan x = false → isZeroV x = false → ∀ n, let z : Bool := n != signV x
      (∀ p, p = fFmaV f e (.inf n) x c ∨ p = fFmaV f e x (.inf n) c →
        (c = .inf (!z) → p = invalid) ∧ (isNan c = false → c ≠ .inf (!z) → p = infinite z))) ∧
    (∀ n z m x k y w, fFmaV f e (.fin n m x) (.fin z k y) (.inf w) = infinite w) ∧
    (∀ n z m x k y, fDivV f e (.inf n) (.fin z m x) = infinite (n != z) ∧
      fDivV f e (.fin n m x) (.inf z) = { code := signBit f (n != z), flags := 0 } ∧ fDivV f e (.fin n 0 x) (.fin z 0 y) = invalid ∧
      (m ≠ 0 → fDivV f e (.fin n m x) (.fin z 0 y) = { code := infCode f (n != z), flags := 2 }) ∧
      (k ≠ 0 → fDivV f e (.fin n 0 x) (.fin z k y) = { code := signBit f (n != z), flags := 0 })) ∧
    (∀ m x, m ≠ 0 → fSqrtV f e (.fin true m x) = invalid ∧ fRsqV f e (.fin true m x) = invalid) ∧
    fSqrtV f e (.inf true) = invalid ∧ fRsqV f e (.inf true) = invalid ∧ fSqrtV f e (.inf false) = infinite false ∧
    fRsqV f e (.inf false) = { code := 0, flags := 0 } ∧
    (∀ n x, fSqrtV f e (.fin n 0 x) = { code := signBit f n, flags := 0 } ∧ fRsqV f e (.fin n 0 x) = { code := infCode f n, flags := 2 }) ∧
    (isSnan a = true ∨ isSnan b = true → fAddV f e a b = invalid ∧ fMulV f e a b = invalid ∧ fDivV f e a b = invalid) ∧
    (isNan a = true ∨ isNan b = true → isSnan a = false → isSnan b = false →
      fAddV f e a b = quiet ∧ fMulV f e a b = quiet ∧ fDivV f e a b = quiet) ∧
    (∀ r, r = fSqrtV f e a ∨ r = fRsqV f e a → (isSnan a = true → r = invalid) ∧ (isNan a = true → isSnan a = false → r = quiet)) ∧
    (isSnan a = true ∨ isSnan b = true ∨ isSnan c = true → fFmaV f e a b c = invalid) ∧
    (isNan a = true ∨ isNan b = true → isSnan a = false → isSnan b = false → isSnan c = false → fFmaV f e a b c = quiet) ∧
    ((∀ x, a ≠ .inf x) → (∀ x, b ≠ .inf x) → isNan c = true → isSnan a = false → isSnan b = false → isSnan c = false → fFmaV f e a b c = quiet)

namespace Sys2Proof.Claims

/-- The real number (-1)^n × m × 2^e. -/
noncomputable def realOf (n : Bool) (m : Nat) (e : Int) : ℝ := (if n then -1 else 1) * m * 2 ^ e

/-- n units of 2^q are the rounding of a magnitude x whose sign is neg (R111): the nearest, a tie to the even one, or the next toward
zero, or away from it. -/
def RoundedTo (rm : Rm) (neg : Bool) (x : ℝ) (q : Int) (n : Nat) : Prop :=
  let u : ℝ := 2 ^ q
  (rm = .nearest → |n * u - x| ≤ u / 2 ∧ (|n * u - x| = u / 2 → n % 2 = 0)) ∧
  (rm = .zero ∨ (rm = .up ∧ neg = true) ∨ (rm = .down ∧ neg = false) → n * u ≤ x ∧ x < (n + 1) * u) ∧
  ((rm = .up ∧ neg = false) ∨ (rm = .down ∧ neg = true) → x ≤ n * u ∧ n * u < x + u)

/-- r is the magnitude x > 0 rounded once into format f, with its flags (R114, R118, R369). The last place is 2^q, with as many places as
the format has or those of its subnormals; a value that reaches twice the largest power of two overflows; one that is tiny, before its
exponent is bounded, is flushed if FTZ is set, and raises UF if it is inexact. -/
def RoundsOnce (f : Fmt) (e : FpEnv) (neg : Bool) (x : ℝ) (r : FRes) : Prop :=
  ∀ (q₀ : Int) (n₀ n : Nat), 2 ^ f.mbits * (2 : ℝ) ^ q₀ ≤ x → x < 2 ^ (f.mbits + 1) * (2 : ℝ) ^ q₀ →
    let emin : Int := 2 - 2 ^ (f.ebits - 1)
    let q := max q₀ (emin - f.mbits)
    RoundedTo e.rm neg x q₀ n₀ → RoundedTo e.rm neg x q n →
    let tiny : Prop := n₀ * (2 : ℝ) ^ q₀ < 2 ^ emin
    let y : ℝ := n * 2 ^ q
    let limit : ℝ := 2 ^ (2 ^ (f.ebits - 1))
    (limit ≤ y → (e.rm = .nearest ∨ (e.rm = .up ∧ neg = false) ∨ (e.rm = .down ∧ neg = true) → r = { code := infCode f neg, flags := 20 }) ∧
      (e.rm = .zero ∨ (e.rm = .up ∧ neg = true) ∨ (e.rm = .down ∧ neg = false) → r = { code := maxCode f neg, flags := 20 })) ∧
    (y < limit → tiny → e.ftz = true → r = { code := signBit f neg, flags := 24 }) ∧
    (y < limit → ¬(tiny ∧ e.ftz = true) → r.code < 2 ^ (1 + f.ebits + f.mbits) ∧ (∃ m k, unpack f false r.code = .fin neg m k ∧ m * (2 : ℝ) ^ k = y) ∧
      ∀ j, r.flags.getLsbD j = true ↔ (j = 4 ∧ y ≠ x) ∨ (j = 3 ∧ tiny ∧ y ≠ x))

/-- r is the exact real result x rounded once, or an exact zero of a sign. -/
def ResultIs (f : Fmt) (e : FpEnv) (x : ℝ) (zero : Bool) (r : FRes) : Prop :=
  (0 < x → RoundsOnce f e false x r) ∧ (x < 0 → RoundsOnce f e true (-x) r) ∧ (x = 0 → r = { code := signBit f zero, flags := 0 })

/-- The extended real number of a value that is no NaN. -/
noncomputable def extReal : FVal → EReal
  | .nan _ => 0
  | .inf n => if n then ⊥ else ⊤
  | .fin n m e => (realOf n m e : EReal)

/-- One of the four formats of R106. -/
def IsFormat (f : Fmt) : Prop := f = f32 ∨ f = f16 ∨ f = bf16 ∨ f = f64

end Sys2Proof.Claims

/-- The values of the arithmetic on finite operands (R110, R116, R118, R371, R381, R386, R390, R391, R392): the exact real result,
rounded once; an exact zero sum has the sign of R369. A minimum or maximum is one of its operands, −0 below +0, and of a NaN and a number
the number (R109), stated while FTZ is clear. -/
def Sys2Proof.Claims.FloatArithmeticValues : Prop :=
  (∀ f, IsFormat f → ∀ e an am ae bn bm be, let a := realOf an am ae
    let b := realOf bn bm be
    let zero (x y : Bool) : Bool := if x = y then x else e.rm == .down
    ResultIs f e (a + b) (zero an bn) (fAddV f e (.fin an am ae) (.fin bn bm be)) ∧
    ResultIs f e (a * b) (an != bn) (fMulV f e (.fin an am ae) (.fin bn bm be)) ∧
    (bm ≠ 0 → ResultIs f e (a / b) (an != bn) (fDivV f e (.fin an am ae) (.fin bn bm be))) ∧
    (∀ cn cm ce, ResultIs f e (a * b + realOf cn cm ce) (zero (an != bn) cn) (fFmaV f e (.fin an am ae) (.fin bn bm be) (.fin cn cm ce))) ∧
    (am ≠ 0 → ResultIs f e (√(realOf false am ae)) false (fSqrtV f e (.fin false am ae)) ∧
      ResultIs f e (1 / √(realOf false am ae)) false (fRsqV f e (.fin false am ae)))) ∧
  ∀ e most (x y : Word), e.ftz = false → let a := operand e x
    let b := operand e y
    let r := fMinMaxV f32 e most a b
    let less : Prop := extReal a < extReal b ∨ (extReal a = extReal b ∧ signV a = true ∧ signV b = false)
    (r.flags = if isSnan a = true ∨ isSnan b = true then 1 else 0) ∧
    (isNan a = true → isNan b = true → r.code = 0x7FC00000) ∧
    (isNan a = true → isNan b = false → unpack f32 false r.code = b) ∧ (isNan a = false → isNan b = true → unpack f32 false r.code = a) ∧
    (isNan a = false → isNan b = false → (less → unpack f32 false r.code = if most = true then b else a) ∧
      (¬less → unpack f32 false r.code = if most = true then a else b))

/-- The values of comparisons and conversions. `FCMP` compares as reals and infinities; less, and less or equal, raise NV for any NaN, equal
and unordered for a signalling one (R383). A conversion rounds the exact
value once (R118, R119, R385), to an integer with saturation and NV (R397). `FRND` rounds to a whole number of the operand's sign (R393),
and `FSCL` scales by 2^n with one rounding (R394). -/
def Sys2Proof.Claims.FloatConversionValues : Prop :=
  (∀ a b, let nan : Prop := isNan a = true ∨ isNan b = true
    let bad : Prop := isSnan a = true ∨ isSnan b = true
    let relates (rel : BitVec 2) (p : Prop) (nv : Prop) : Prop := ((fCmp rel a b).1 = true ↔ p) ∧ (nv → (fCmp rel a b).2 = 1) ∧ (¬nv → (fCmp rel a b).2 = 0)
    relates 0 (¬nan ∧ extReal a = extReal b) bad ∧ relates 1 (¬nan ∧ extReal a < extReal b) nan ∧ relates 2 (¬nan ∧ extReal a ≤ extReal b) nan ∧ relates 3 nan bad) ∧
  (∀ f g, IsFormat f → IsFormat g → ∀ e x, (∀ n m k, unpack f e.daz x = .fin n m k → ResultIs g e (realOf n m k) n (fConv f g e x)) ∧
    (∀ n, unpack f e.daz x = .inf n → fConv f g e x = { code := infCode g n, flags := 0 }) ∧
    ∀ b, unpack f e.daz x = .nan b → fConv f g e x = { code := nanCode g, flags := if b then 1 else 0 }) ∧
  (∀ e v, ResultIs f32 e (v : Int) false (fFromInt e v)) ∧
  (∀ unsigned rm, let lo : Int := if unsigned = true then 0 else -2 ^ 31
    let hi : Int := if unsigned = true then 2 ^ 32 - 1 else 2 ^ 31 - 1
    let r := fToInt unsigned rm
    (∀ b, r (.nan b) = (0, 1)) ∧ (∀ n, r (.inf n) = (BitVec.ofInt 32 (if n then lo else hi), 1)) ∧
    ∀ n m k (w : Nat), RoundedTo rm n (realOf false m k) 0 w → let v : Int := if n then -w else w
      (v < lo → r (.fin n m k) = (BitVec.ofInt 32 lo, 1)) ∧ (hi < v → r (.fin n m k) = (BitVec.ofInt 32 hi, 1)) ∧
      (lo ≤ v → v ≤ hi → r (.fin n m k) = (BitVec.ofInt 32 v, if (v : ℝ) = realOf n m k then 0 else 16))) ∧
  (∀ rm e (x : Word), (∀ b, operand e x = .nan b → fRound rm e (operand e x) = { code := 0x7FC00000, flags := if b then 1 else 0 }) ∧
    (∀ n, operand e x = .inf n → fRound rm e (operand e x) = { code := infCode f32 n, flags := 0 }) ∧
    ∀ n m k (w : Nat), operand e x = .fin n m k → RoundedTo rm n (realOf false m k) 0 w → let r := fRound rm e (operand e x)
      (∃ m' k', unpack f32 false r.code = .fin n m' k' ∧ realOf n m' k' = if n then -(w : ℝ) else w) ∧
      r.flags = if realOf false m k = w then 0 else 16) ∧
  ∀ e (x : Word) (n : Int), (∀ b, operand e x = .nan b → fScale e (operand e x) n = { code := 0x7FC00000, flags := if b then 1 else 0 }) ∧
    (∀ b, operand e x = .inf b → fScale e (operand e x) n = { code := infCode f32 b, flags := 0 }) ∧
    ∀ b m k, operand e x = .fin b m k → ResultIs f32 e (realOf b m k * 2 ^ n) b (fScale e (operand e x) n)

/-- The narrow formats (R120 to R122, R417). A code has the value (−1)^sign × (1 + mantissa ÷ 2^m) × 2^(exponent − bias), unless all zeros or a
NaN, and unpacks to it exactly. Packing rounds a finite operand to the codes of its sign and zero, saturates at the
largest with OF and NX, and raises UF and NX where it gives 0; a container keeps its other elements. -/
def Sys2Proof.Claims.NarrowFloatValues : Prop :=
  (∀ f (bias mb width : Nat) (top : ℝ), (f = nf8 ∧ bias = 7 ∧ mb = 3 ∧ width = 8 ∧ top = 448) ∨ (f = nf6 ∧ bias = 3 ∧ mb = 2 ∧ width = 6 ∧ top = 28) ∨
      (f = nf4 ∧ bias = 1 ∧ mb = 1 ∧ width = 4 ∧ top = 6) →
    let nan (c : Nat) : Prop := f = nf8 ∧ c % 128 = 127
    let value (c : Nat) : ℝ := (if 2 ^ (width - 1) ≤ c then -1 else 1) * (1 + (c % 2 ^ mb : Nat) / 2 ^ mb) *
      2 ^ ((c % 2 ^ (width - 1) / 2 ^ mb : Nat) - (bias : Int))
    unpackNarrow f 0 = .fin false 0 0 ∧
    (∀ c, 0 < c → c < 2 ^ width → (nan c → ∃ b, unpackNarrow f c = .nan b) ∧
      (¬nan c → ∃ n m k, unpackNarrow f c = .fin n m k ∧ realOf n m k = value c)) ∧
    ∀ rm b, (∀ q, packNarrow f rm (.nan q) b = { code := if f = nf8 then (if b then 0xFF else 0x7F) else 0, flags := 1 }) ∧
      (∀ n k, packNarrow f rm (.fin n 0 k) b = { code := 0, flags := 0 }) ∧
      (∀ n, (packNarrow f rm (.inf n) b).flags = 20 ∧ value (packNarrow f rm (.inf n) b).code = if n then -top else top) ∧
      ∀ n m k, m ≠ 0 → let x := realOf false m k
        let r := packNarrow f rm (.fin n m k) b
        let least : ℝ := (2 ^ mb + if n then 0 else 1) * 2 ^ (-(bias : Int) - mb)
        (x < least → let up : Prop := (rm = .nearest ∧ least < 2 * x) ∨ (rm = .up ∧ n = false) ∨ (rm = .down ∧ n = true)
          (up → r.flags = 16 ∧ 0 < r.code ∧ value r.code = if n then -least else least) ∧ (¬up → r = { code := 0, flags := 24 })) ∧
        ∀ (q : Int) (w : Nat), least ≤ x → 2 ^ mb * (2 : ℝ) ^ q ≤ x → x < 2 ^ (mb + 1) * (2 : ℝ) ^ q → RoundedTo rm n x q w → let y : ℝ := w * 2 ^ q
          (top < y → r.flags = 20 ∧ value r.code = if n then -top else top) ∧
          (y ≤ top → r.flags = (if y = x then 0 else 16) ∧ 0 < r.code ∧ r.code < 2 ^ width ∧ ¬nan r.code ∧ value r.code = if n then -y else y)) ∧
  (∀ f j x, let c := narrowAt f j x
    (∀ n m k, unpackNarrow (narrowOf f) c = .fin n m k → (ncvtUnpack f j x).flags = 0 ∧ ∃ m' k', unpack f32 false (ncvtUnpack f j x).code = .fin n m' k' ∧
      realOf n m' k' = realOf n m k) ∧
    ∀ b, unpackNarrow (narrowOf f) c = .nan b → ncvtUnpack f j x = { code := 0x7FC00000, flags := 0 }) ∧
  ∀ (f : BitVec 2) j e x z, let width := if f = 0 then 8 else if f = 1 then 6 else 4
    j < (if f = 0 then 4 else if f = 1 then 4 else 8) →
    let r := ncvtPack f j e x z
    r.flags = (packNarrow (narrowOf f) e.rm (operand e x) x.msb).flags ∧
    ∀ i, i < 32 → r.code.testBit i = if width * j ≤ i ∧ i < width * j + width
      then (packNarrow (narrowOf f) e.rm (operand e x) x.msb).code.testBit (i - width * j)
      else if f = 1 ∧ 24 ≤ i then false else z.getLsbD i

/-- The exact points of the transcendentals and their special operands (R117). -/
def Sys2Proof.Claims.TranscendentalPoints : Prop :=
  ∀ e (x : Word), (∀ b, operand e x = .nan b → ∀ r, r = fExp2 e x ∨ r = fLog2 e x ∨ r = fSinCos true e x ∨ r = fSinCos false e x →
      r = { code := 0x7FC00000, flags := if b then 1 else 0 }) ∧
    (∀ n, operand e x = .inf n → fExp2 e x = { code := if n then 0 else infCode f32 false, flags := 0 } ∧
      (fLog2 e x = if n then { code := 0x7FC00000, flags := 1 } else { code := infCode f32 false, flags := 0 }) ∧
      ∀ b, fSinCos b e x = { code := 0x7FC00000, flags := 1 }) ∧
    (∀ n k, operand e x = .fin n 0 k → fExp2 e x = { code := 0x3F800000, flags := 0 } ∧ fLog2 e x = { code := infCode f32 true, flags := 2 } ∧
      fSinCos false e x = { code := signBit f32 n, flags := 0 } ∧ fSinCos true e x = { code := 0x3F800000, flags := 0 }) ∧
    (∀ m k, m ≠ 0 → operand e x = .fin true m k → fLog2 e x = { code := 0x7FC00000, flags := 1 }) ∧
    (∀ m k, operand e x = .fin false m k → 128 ≤ realOf false m k → fExp2 e x = { code := infCode f32 false, flags := 20 }) ∧
    (∀ n m k (i : Int), m ≠ 0 → operand e x = .fin n m k → realOf n m k = i → -126 ≤ i → i < 128 → (fExp2 e x).flags = 0 ∧
      ∃ m' k', unpack f32 false (fExp2 e x).code = .fin false m' k' ∧ realOf false m' k' = 2 ^ i) ∧
    ∀ m k (i : Int), operand e x = .fin false m k → realOf false m k = 2 ^ i → (fLog2 e x).flags = 0 ∧
      ∃ n m' k', unpack f32 false (fLog2 e x).code = .fin n m' k' ∧ realOf n m' k' = i

/-- The control fields of float instructions, their rounding, and the values of their functions in terms of reals. -/
def Obligations.FloatControlRoundingAndSpecials : Prop :=
  FloatControlFields ∧ RoundingResults ∧ FloatSpecialOperands ∧ FloatArithmeticValues ∧ FloatConversionValues ∧ NarrowFloatValues ∧
    TranscendentalPoints

/-! ## FP64 instructions -/

namespace Sys2Proof.Claims

/-- A lane whose even-odd pair at d holds x (R370). -/
def LaneWrotePair (d : BitVec 6) (x : Nat) (pc : DWord) (l l' : Lane) : Prop :=
  (readV l' d).toNat = x % 2 ^ 32 ∧ (readV l' (d + 1)).toNat = x / 2 ^ 32 % 2 ^ 32 ∧
    (∀ r, r ≠ d → r ≠ d + 1 → readV l' r = readV l r) ∧
    (∀ r, l'.vpois.getLsbD r = (l.vpois.getLsbD r && !(r == d.toNat || r == (d + 1).toNat))) ∧
    l' = { movedTo pc l with v := l'.v, vpois := l'.vpois }

/-- The 64-bit value of a pair, low word in the even register (R370). -/
def pair (l : Lane) (r : BitVec 6) : Nat := (readV l r).toNat + 2 ^ 32 * (readV l (r + 1)).toNat

/-- A binary64 operand under DAZ. -/
def operand64 (e : FpEnv) (l : Lane) (r : BitVec 6) : FVal := unpack f64 e.daz (pair l r)

/-- What `EMULATION_COMPLETE` does with a parked instruction (R286, R370): without an enabled exception the acting lanes of the bundle
that parked have their results, `%fpflags` has gathered the exceptions, and the group is no longer parked; with one the group takes
the arithmetic fault. The context is that of the parked group: its bundle still stands at the instruction. -/
def Emulates (i : Instr) (flags : FpEnv → Lane → BitVec 5) (W : FpEnv → DWord → Lane → Lane → Prop) : Prop :=
  ∀ n c s, emulCtx s n = some (i, c) →
    ((∀ k, ¬Traps c i (flags (envOf c.g)) k) → ∃ t v, exec (.emulationComplete n) s = .next t ∧ Elsewhere n s t ∧
      FlagsGather c i (flags (envOf c.g)) v ∧ ∃ g', t.groups[n]? = some g' ∧ GroupKept { c.g with fpflags := v } g' ∧
        LanesDid i c (acting c i) (fun _ l l' => W (envOf c.g) (c.b.pc + BitVec.ofNat 64 (instrBytes i)) l l') g') ∧
    ((∃ k, k < 64 ∧ Traps c i (flags (envOf c.g)) k) → ∃ t g', exec (.emulationComplete n) s = .next t ∧ t.groups[n]? = some g' ∧
      g'.emul = none ∧ g'.fpflags = c.g.fpflags ∧
      ∃ m xs, g'.fault = some { cause := 0x10, lanes := m, addr := 0, pc := c.b.pc, underflow := false, exc := xs } ∧
        ExceptionsAre c i (flags (envOf c.g)) xs ∧ ∀ k, k < 64 → (has m k = true ↔ Traps c i (flags (envOf c.g)) k))

end Sys2Proof.Claims

/-- An FP64 instruction that passes its checks parks its group with stall reason emulation park (R286), and does nothing else. -/
def Sys2Proof.Claims.Fp64InstructionsPark : Prop :=
  ∀ i, ((∃ n g b a d, i = .dadd n g b a d ∨ i = .dsub n g b a d ∨ i = .dmul n g b a d ∨ i = .dfma n g b a d ∨ i = .ddiv n g b a d) ∨
      (∃ n g a d, i = .dsqrt n g a d ∨ ∃ x, i = .dcvt x n g a d)) →
    ∀ c s, Ready i c s → ∃ t, exec i s = .next t ∧ Elsewhere c.b.group s t ∧
      t.groups[c.b.group]? = some { c.g with emul := some i, emulMask := c.b.mask, wait := .emulation, stall := .emulation }

/-- What the emulation of each FP64 instruction does (R286, R370 to R372). -/
def Sys2Proof.Claims.EmulationPerformsFp64 : Prop :=
  (∀ n g b a d, Emulates (.dadd n g b a d) (fun e l => (fAddV f64 e (operand64 e l a) (operand64 e l b)).flags)
    fun e pc l l' => LaneWrotePair d (fAddV f64 e (operand64 e l a) (operand64 e l b)).code pc l l') ∧
  (∀ n g b a d, Emulates (.dsub n g b a d) (fun e l => (fAddV f64 e (operand64 e l a) (negV (operand64 e l b))).flags)
    fun e pc l l' => LaneWrotePair d (fAddV f64 e (operand64 e l a) (negV (operand64 e l b))).code pc l l') ∧
  (∀ n g b a d, Emulates (.dmul n g b a d) (fun e l => (fMulV f64 e (operand64 e l a) (operand64 e l b)).flags)
    fun e pc l l' => LaneWrotePair d (fMulV f64 e (operand64 e l a) (operand64 e l b)).code pc l l') ∧
  (∀ n g b a d, Emulates (.dfma n g b a d) (fun e l => (fFmaV f64 e (operand64 e l a) (operand64 e l b) (operand64 e l d)).flags)
    fun e pc l l' => LaneWrotePair d (fFmaV f64 e (operand64 e l a) (operand64 e l b) (operand64 e l d)).code pc l l') ∧
  (∀ n g b a d, Emulates (.ddiv n g b a d) (fun e l => (fDivV f64 e (operand64 e l a) (operand64 e l b)).flags)
    fun e pc l l' => LaneWrotePair d (fDivV f64 e (operand64 e l a) (operand64 e l b)).code pc l l') ∧
  (∀ n g a d, Emulates (.dsqrt n g a d) (fun e l => (fSqrtV f64 e (operand64 e l a)).flags)
    fun e pc l l' => LaneWrotePair d (fSqrtV f64 e (operand64 e l a)).code pc l l') ∧
  (∀ n g a d, Emulates (.dcvt 0 n g a d) (fun e l => (fConv f64 f32 e (pair l a)).flags)
    fun e pc l l' => LaneWrote d (BitVec.ofNat 32 (fConv f64 f32 e (pair l a)).code) pc l l') ∧
  ∀ n g a d, Emulates (.dcvt 1 n g a d) (fun e l => (fConv f32 f64 e (readV l a).toNat).flags)
    fun e pc l l' => LaneWrotePair d (fConv f32 f64 e (readV l a).toNat).code pc l l'

/-- The FP64 instructions park their lanes, and the emulation events perform them. -/
def Obligations.Fp64Results : Prop :=
  Fp64InstructionsPark ∧ EmulationPerformsFp64

/-! ## Encoding and fetching -/

/-- Every encoded instruction, whatever its operands, is read back by the decoder from its bytes, with its length, whatever bytes
follow (R305, R306, R309, and each entry's encoding). -/
def Obligations.EncodedInstructionsDecodeBack : Prop :=
  ∀ i bs rest, encode i = some bs → decode (bs ++ rest) = .ok (i, bs.length) ∧ (bs.length = 2 ∨ bs.length = 4)

/-- A word that decodes to an instruction is the one word that encodes it: no bit of it is dropped (R326, R328 steps 3 and 4). -/
def Obligations.DecodedWordsAreExact : Prop :=
  ∀ bs i n, decode bs = .ok (i, n) → encode i = some (bs.take n) ∧ n ≤ bs.length

/-- Words that the spec prints in its entries decode to the instructions that it prints them for (R344, R346, R373, R398, R404,
R406, R426, R441, R446, R450, R455, R459). -/
def Obligations.PrintedWordsDecode : Prop :=
  decodeTableWord 32 0x1C308181 = some (.shfl 0 3 2 1) ∧ decodeTableWord 32 0xDC308181 = some (.shfl 3 3 2 1) ∧
  decodeTableWord 32 0x5C008189 = some (.matchLanes 1 2 1) ∧ decodeTableWord 32 0x1C30818B = some (.perm 0 7 3 2 1) ∧
  decodeTableWord 32 0x0001C093 = some (.jmp 7) ∧ decodeTableWord 32 0x0200C11D = some (.sbra 32 3 1) ∧
  decodeTableWord 32 0x00008B91 = some (.bra 8 1 3) ∧ decodeTableWord 32 0x00000A99 = some (.ret 1 2) ∧
  decodeTableWord 32 0x0002A19F = some (.trap 0x2A 0 1) ∧ decodeTableWord 32 0x1002A79F = some (.brk 0x2A 0 7) ∧
  decodeTableWord 32 0x8004079D = some (.sleep 64 0 7) ∧ decodeTableWord 32 0x200149BF = some (.capq 1 5 9) ∧
  decodeTableWord 32 0x2C508455 = some (.fmul 1 3 5 2 4) ∧ decodeTableWord 16 0x2492 = some (.fmulCompact 9 4)

/-- Bit 0 of the first unit gives the length, 2 or 4 bytes (R305); a compact unit with I = 1 and cop 8 to 15, and a word with MAJ
0x60 to 0x7F, decode to no instruction; every other compact unit is one (R306, R328 steps 1 and 2). -/
def Obligations.LengthsAndIllegalMajors : Prop :=
  (∀ bs i n, decode bs = .ok (i, n) → n = if (leBytes (bs.take 1)) % 2 = 0 then 2 else 4) ∧
  (∀ (a b : Byte) (rest : List Byte), a.getLsbD 0 = false →
    ((∃ r, decode (a :: b :: rest) = .error r) ↔ b.getLsbD 7 = true ∧ a.getLsbD 4 = true)) ∧
  ∀ (a b x y : Byte) (rest : List Byte), a.getLsbD 0 = true → 0x60 ≤ a.toNat / 2 → ∃ r, decode (a :: b :: x :: y :: rest) = .error r

namespace Sys2Proof.Claims

/-- The state in which a fetched instruction executes: its bundle is the one now issuing, its lanes run, and their loop buffers hold
its units as the most recent ones (R45, R48); units fetched by broadcast have gone through the caches of the group's core (R142). -/
def fetched (u : State) (g : Group) (t : Team) (b : Bundle) (bs : List Byte) : State :=
  let through (s : State) (a : DWord) : State := useCode t.vc (teamDie t) g.core g.bay s a
  let s1 := if b.broadcast = false then u else if bs.length ≤ 2 then through u b.pc else through (through u b.pc) (b.pc + 2)
  modGroup { s1 with bundle := some b } b.group
    (onLanes b.mask fun _ l => keepUnits b.pc bs { l with st := if l.st = .parked then .running else l.st })

/-- An input is taken: it leaves the queue, and what keeps the other bundles from issuing on this clock is noted (log 7). -/
def begun (s : State) (x : Input) (rest : List Input) : State :=
  let u := { s with inputs := rest, acted := true }
  { u with waiting := waitingWith u (namedBundle u x) (tries u) }

/-- The bundles that are ready: those of the candidates that trying would not leave waiting (R51). -/
def ReadyBundle (s : State) (b : Bundle) : Prop := b ∈ candidates s ∧ waitsFor s b = none

/-- The machine is between two bundles, with an input to take on this clock. -/
def Takes (s : State) (x : Input) (rest : List Input) : Prop := s.second = none ∧ s.acted = false ∧ s.inputs = x :: rest

/-- A step that issues bundle b in state u: it fetches by the bundle's own path (memory, or for a loop-buffer bundle the buffer of one of
its lanes), and is exec of the instruction that the bytes decode to; bytes that decode to none are the illegal instruction (R328);
a fetch that fails faults at its address in every live thread that stands there (R44). -/
def Runs (u : State) (b : Bundle) (out : Host.Outcome State Fault Refusal) : Prop :=
  ∀ g t u' r, u.groups[b.group]? = some g → u.teams[g.team]? = some t →
    (if b.broadcast = true then fetchBytes u t.vc (teamDie t) b.pc = (u', r)
     else u' = u ∧ ∃ l, g.lanes.find? (fun l => l.pc == b.pc && (loopInstr l).isSome) = some l ∧
       loopFetch u t.vc (teamDie t) l b.pc = some r) →
    (∀ bs i k, r = .ok bs → decode bs = .ok (i, k) → out = exec i (fetched u' g t b bs)) ∧
    (∀ bs e, r = .ok bs → decode bs = .error e → out = exec .illegalInstruction (fetched u' g t b bs)) ∧
    ∀ e, r = .error e → out = .next (takeTrap u' b.group
      { cause := e, lanes := laneMask g fun _ l => live l && l.pc == b.pc, addr := b.pc, pc := b.pc, underflow := false, exc := [] })

end Sys2Proof.Claims

/-- A step runs the decoded instruction. Where the next input issues a group's bundle, the step is that bundle's: it fetches by the
bundle's own path, memory or a lane's loop buffer, and is exec of the instruction that the bytes decode to; bytes that decode to none are
the illegal instruction (R328), and a fetch that fails faults at its address in every live thread that stands there (R44). Of a fused
bundle that can issue it is the half of the lower group, with the other half in the next step (R53, R55). Where the input is an event that nothing holds
back, the step is exec of that event. Once something has been done on this clock and no sample or regroup is due, the clock passes. That a
step takes one input, and that a fused bundle takes two steps, is the model's own (logs 2 and 7). -/
def Obligations.StepRunsTheDecodedInstruction : Prop :=
  (∀ s n loop rest b, Takes s (.issue n loop) rest →
    let u := begun s (.issue n loop) rest
    inputBundle u n loop = some b → fusedWith u b = none → Runs u b (step s)) ∧
  (∀ s n loop rest b p, Takes s (.issue n loop) rest →
    let u := begun s (.issue n loop) rest
    inputBundle u n loop = some b → fusedWith u b = some p →
    let x := if b.group ≤ p.group then b else p
    let y := if b.group ≤ p.group then p else b
    (getsOn u x (attempt u x) = false → Runs u x (step s)) ∧
    (getsOn u x (attempt u x) = true → getsOn (attempt u x) y (attempt (attempt u x) y) = false → Runs u y (step s)) ∧
    (getsOn u x (attempt u x) = true → getsOn (attempt u x) y (attempt (attempt u x) y) = true →
      Runs { u with second := some { y with other := x.mask, second := true } } { x with other := y.mask } (step s))) ∧
  (∀ s b x, s.second = some b → bundleWith { s with second := none } b.group b.mask = some x → x.pc = b.pc →
    Runs { s with second := none } b (step s)) ∧
  (∀ s i rest, Takes s (.event i) rest → encode i = none → waitsBehind (begun s (.event i) rest) i = none →
    step s = exec i (begun s (.event i) rest)) ∧
  (∀ s i, s.second = none → s.acted = true → dueSample s = some i → step s = exec i s) ∧
  (∀ s i, s.second = none → dueSample s = none → dueRegroup s = some i → s.acted = true ∨ s.inputs = [] → step s = exec i s) ∧
  ∀ s, s.second = none → s.acted = true → dueSample s = none → dueRegroup s = none → step s = .next (passClock s)

/-- What the fetch finds (R44, R305): at an odd address the misaligned fault; at an address that is not canonical or lies in a window,
0x04; without a translation, 0x05; on a page without the execute bit, 0x06; and the same of an instruction taken from a loop buffer. -/
def Sys2Proof.Claims.FetchFaults : Prop :=
  ∀ s v die a,
    (a.getLsbD 0 = true → (fetchBytes s v die a).2 = .error 0x07) ∧
    ∀ l bs, a.getLsbD 0 = false → loopBytes l a = some bs →
      (canonical a = false ∨ topByte a ≠ 0 →
        (fetchBytes s v die a).2 = .error 0x04 ∧ loopFetch s v die l a = some (.error 0x04)) ∧
      (canonical a = true → topByte a = 0 → translate s v a die = none →
        (fetchBytes s v die a).2 = .error 0x05 ∧ loopFetch s v die l a = some (.error 0x05)) ∧
      (∀ f, canonical a = true → topByte a = 0 → translate s v a die = some f →
        protectionFails s v f.entry { bytes := 2, fetch := true } = true →
        (fetchBytes s v die a).2 = .error 0x06 ∧ loopFetch s v die l a = some (.error 0x06))

/-- Among the ready bundles of one slot of a bay the next is one that none precedes: by effective priority (31 for a bundle with a thread
whose wait has reached 1,024), then by the clock of its group's admission, then by the lower group number (R51). A fused bundle has
the higher priority and the greater age of its halves (R52). -/
def Obligations.ReadyBundleOfHighestPriorityIsNext : Prop :=
  (∀ s turn b, nextBundle s turn (freeBundles (tries s)) = some b → ReadyBundle s b ∧
    ∀ b', ReadyBundle s b' → slotOfBundle s b' = slotOfBundle s b →
      ∀ g g', s.groups[b.group]? = some g → s.groups[b'.group]? = some g' →
        effectivePrio s b' ≤ effectivePrio s b ∧
        (effectivePrio s b' = effectivePrio s b → effectiveAge s b ≤ effectiveAge s b' ∧
          (effectiveAge s b = effectiveAge s b' → g.num ≤ g'.num))) ∧
  (∀ s b g, s.groups[b.group]? = some g → fusedWith s b = none → effectiveAge s b = g.age.toNat ∧
    ((∃ (k : Nat) (l : Lane), g.lanes[k]? = some l ∧ has b.mask k = true ∧ 1024 ≤ l.waits) → effectivePrio s b = 31) ∧
    ((∀ (k : Nat) (l : Lane), g.lanes[k]? = some l → has b.mask k = true → l.waits < 1024 ∧ l.boosted = false) →
      effectivePrio s b = g.prio.toNat)) ∧
  ∀ s b p g h, s.groups[b.group]? = some g → s.groups[p.group]? = some h → fusedWith s b = some p →
    effectivePrio s b = max (ownPrio g b) (ownPrio h p) ∧ effectiveAge s b = min g.age.toNat h.age.toNat

/-! ## Reset and what every step keeps -/

/-- After reset the package is in state 0 (R302), no virtual chip exists and none has launched anything (R254), and every register
has the reset value that its map prints: LQSIZE 4 and FWDCTL 16 (R84, R100), TRSIZE 4 (R280), EVSIZE 8 (R292), SMPCTL 16 with EN 0
(R296), a full-service clock not yet lowered, key versions 0 (R266), RLSIZE 0 (R262), no translation and no poison held, and
HVSTAT 0 (R253). -/
def Obligations.ResetValues : Prop :=
  State.reset.pkgStat = 0 ∧ State.reset.hvbusy = false ∧ State.reset.hverr = 0 ∧
  State.reset.groups = [] ∧ State.reset.teams = [] ∧ State.reset.pkgStream.size = 8 ∧ State.reset.pkgStream.ctl = 0 ∧
  (∀ v, v ∈ State.reset.vchips → v.used = false ∧ v.fwdctl = 16 ∧ v.trsize = 4 ∧ v.trctl = 0 ∧ v.stream.size = 8 ∧ v.stream.ctl = 0 ∧
    v.smpN = 16 ∧ v.smpEn = false ∧ v.rlsize = 0 ∧ v.ptroot = 0 ∧ v.vbusy = false ∧ v.launches = [] ∧
    ∀ q, q ∈ v.queues → q.size = 4 ∧ q.base = 0 ∧ q.head = 0 ∧ q.tail = 0 ∧ q.done = 0 ∧ q.en = false ∧ q.ie = false) ∧
  (∀ k, k ∈ State.reset.keys → k.granted = none ∧ k.key = none ∧ k.version = 0)

/-- The memory of the reset state is in canonical form: each byte listed once, in rising order, and none that an unlisted byte reads as.
The form is the model's own: a byte that nothing has written reads 0 by R145 and R147 in bank and scratchpad, and elsewhere by the model's
choice (log 3). -/
def Obligations.ResetMemoryIsCanonical : Prop := Safe State.reset

/-- Every step keeps the memory in canonical form, from every state that has it: an instruction, an event or an input of any kind, with
every store, fill, save, restore and key change that it makes. The form is the model's own: a byte that nothing has written reads 0 by
R145 and R147 in bank and scratchpad, and elsewhere by the model's choice (log 3). -/
def Obligations.EveryStepKeepsMemoryCanonical : Prop := ∀ s t, Safe s → step s = .next t → Safe t

/-! ## The checks before an instruction's own -/

/-- An encoded instruction that R328 makes illegal (its operand limits, a masked feature, reduced service, a register at or above the
declared count), and a unit that decodes to none, raises the illegal-instruction fault precisely, before every other check; a group-wide
instruction does so where it is issued, from the broadcast fetch (R24). -/
def Sys2Proof.Claims.IllegalInstructionsFault : Prop :=
  ∀ i c s, ctx? s = some c → ((encode i).isSome = true ∧ legal s c i = false) ∨ i = .illegalInstruction →
    (groupWide i = true → c.b.broadcast = true) →
    ∃ t, exec i s = .next t ∧ TakesFault c 0x01 c.b.mask 0 false [] s t

/-- What an instruction fetch finds, and what an illegal instruction does. The lanes and the address of a fault whose rule names none are
a reading of the model (log 14). -/
def Obligations.FetchAndLegalityFaults : Prop :=
  FetchFaults ∧ IllegalInstructionsFault

/-- ADDR of a poison fault: of a vector access the address of the lowest lane that it reports (R343), of a scalar access its address
(R443), and zero for every other instruction (R281). -/
def Sys2Proof.Claims.PoisonAt (c : Ctx) (i : Instr) (va : DWord) : Prop :=
  (∀ x, scalarAccessAddr c i = some x → va = x) ∧
  (∀ f j, laneAccess c i = some f → j < 64 → has (poisonReport c i) j = true → (∀ k, k < j → has (poisonReport c i) k = false) → va = f j) ∧
  (scalarAccessAddr c i = none → laneAccess c i = none → va = 0)

/-- The addresses of the accesses: in format VM s[sb] + v[va], through a stage ring for `LDQ`, `LDQW` and `STQ` (R310, R401); in format
SM s[sa] + 8 × imm4, and s[sa] for `SATOM` (R445, R454); of no other instruction. -/
def Sys2Proof.Claims.AccessAddresses : Prop :=
  ∀ c l a b d, (∀ i f, i = .ld f l a b d ∨ i = .st f l a b d ∨ i = .atom f l a b d ∨ i = .atomb f l a b d ∨ i = .atomcCas l a b d ∨
      i = .atomcMinN32 l a b d ∨ i = .atomcMaxN32 l a b d ∨ i = .stc l a b d ∨ i = .ldw l a b d ∨ i = .ldc l a b d ∨ i = .stf l a b d ∨
      i = .ste l a b d ∨ i = .cflush a b → laneAccess c i = some fun k => readS c.g b + (readV (laneAt c.g k) a).setWidth 64) ∧
    (∀ i, i = .ldq l a b d ∨ i = .ldqw l a b d ∨ i = .stq l a b d → ∃ f, laneAccess c i = some f ∧ ∀ k,
      let x := readS c.g b
      f k = 0xFF00000000000000 + BitVec.ofNat 64 ((field x 12 0 + field x 63 32 % (field x 24 21 + 1) * field x 20 13) * 128) +
        (readV (laneAt c.g k) a).setWidth 64) ∧
    (∀ k r sc, scalarAccessAddr c (.sld k l r sc a d) = some (readS c.g a + BitVec.ofNat 64 (8 * k.toNat)) ∧
      scalarAccessAddr c (.sst k l r sc a d) = some (readS c.g a + BitVec.ofNat 64 (8 * k.toNat)) ∧
      scalarAccessAddr c (.satom k l r sc a d) = some (readS c.g a)) ∧
    ∀ i, (encode i).isSome = true → (major i ≠ 0x09 → major i ≠ 0x0A → major i ≠ 0x0F → scalarAccessAddr c i = none) ∧
      (0x50 ≤ major i ∧ major i ≤ 0x57 ∨ laneAccess c i = none)

/-- The faults and waits that come before the entry's own, in the order of R25: a group-wide instruction away from the broadcast fetch
parks its threads, whatever else it is (R24); then the illegal-role fault (R21); one that leaves out a live lane raises the
partial-issue fault (R24); an operand that is not available keeps the instruction back, unissued (R57, R194); then poison (R159), with the
address of an access (R343, R443), and a token's error (R196), but for `STQ` and `PREF` (`OperandFaultsOfTheRest`). -/
def Sys2Proof.Claims.ChecksBeforeAnEntry : Prop :=
  ∀ i c s, (encode i).isSome = true → ¬Convergent i → ctx? s = some c →
    (groupWide i = true → c.b.broadcast = false → ∃ t, exec i s = .next t ∧ Elsewhere c.b.group s t ∧
      ∃ g', t.groups[c.b.group]? = some g' ∧ g' = { c.g with lanes := g'.lanes } ∧ LanesAre c (fun _ l => { l with st := .parked }) g') ∧
    ((groupWide i = true → c.b.broadcast = true) → legal s c i = true →
      (roleOk c i = false → ∃ t, exec i s = .next t ∧ TakesFault c 0x02 c.b.mask 0 false [] s t) ∧
      (roleOk c i = true →
        (groupWide i = true → c.b.mask ≠ liveMask c.g →
          ∃ t, exec i s = .next t ∧ TakesFault c 0x03 c.b.mask 0 false [] s t) ∧
        ((groupWide i = true → c.b.mask = liveMask c.g) →
          (∀ r, hazard s c i = some r → ∃ t, exec i s = .next t ∧ Elsewhere c.b.group s t ∧
            ∃ g', t.groups[c.b.group]? = some g' ∧ g'.lanes = c.g.lanes ∧ g'.s = c.g.s ∧ g'.stall = r) ∧
          (hazard s c i = none →
            (operandsFirst i = true → poisonLanes c i ≠ 0 →
              ∃ t va, exec i s = .next t ∧ TakesFault c 0x11 (poisonReport c i) va false [] s t ∧ PoisonAt c i va) ∧
            (operandsFirst i = true → poisonLanes c i = 0 → errOperand c i = true →
              ∃ t, exec i s = .next t ∧ TakesFault c 0x15 c.b.mask ((scalarAccessAddr c i).getD 0) false [] s t)))))

/-- The ring of a stage-ring access passes its own checks (R401, R402): bits [31:25] are 0, S is 2 or more and SLOTL is not 0, it ends
within the allocation, and every lane's offset lies below SLOTL × 128. -/
def Sys2Proof.Claims.RingPasses (c : Ctx) (b a : BitVec 6) : Prop :=
  let x := readS c.g b
  field x 31 25 = 0 ∧ field x 24 21 ≠ 0 ∧ field x 20 13 ≠ 0 ∧
    (field x 12 0 + (field x 24 21 + 1) * field x 20 13) * 128 ≤ c.t.alloc ∧
    ∀ k, k < c.g.lanes.length → has c.b.mask k = true → (readV (laneAt c.g k) a).toNat < field x 20 13 * 128

/-- The two instructions that do not take the operands' faults at that point: `PREF`, which no poison and no token's error makes fault
(R338, R435), and `STQ`, which takes them where its ring has passed its checks (R402, R462). -/
def Sys2Proof.Claims.OperandFaultsOfTheRest : Prop :=
  (∀ i, operandsFirst i = false ↔ (∃ a b, i = .pref a b) ∨ ∃ l a b d, i = .stq l a b d) ∧
  ∀ l a b d c s, ctx? s = some c → legal s c (.stq l a b d) = true → hazard s c (.stq l a b d) = none → RingPasses c b a →
    (poisonLanes c (.stq l a b d) ≠ 0 → ∃ t va, exec (.stq l a b d) s = .next t ∧
      TakesFault c 0x11 (poisonReport c (.stq l a b d)) va false [] s t ∧ PoisonAt c (.stq l a b d) va) ∧
    (poisonLanes c (.stq l a b d) = 0 → errOperand c (.stq l a b d) = true → ∃ t, exec (.stq l a b d) s = .next t ∧
      TakesFault c 0x15 c.b.mask 0 false [] s t)

/-- Which instructions a role may issue (R21, R376): `CPY` and `CSEAL` general and copy groups, the matrix instructions matrix groups
and general groups whose team holds the engine of their core, and every other instruction every role. -/
def Sys2Proof.Claims.IssueRights : Prop :=
  ∀ c l b a t,
    (∀ i, i = .cpyIn l b a t ∨ i = .cpyOut l b a t ∨ i = .cpyLocal l b a t ∨ i = .cseal →
      (roleOk c i = true ↔ c.g.role = .general ∨ c.g.role = .copy)) ∧
    (∀ i, i = .mma l a ∨ i = .mrels l ∨ i = .epi l a ∨ i = .mstat l t →
      (roleOk c i = true ↔ c.g.role = .matrix ∨ (c.g.role = .general ∧ holdsEngine c.t c.g.core = true))) ∧
    ∀ i, (encode i).isSome = true → major i ≠ 0x58 → major i ≠ 0x59 → roleOk c i = true

/-- The checks before an instruction's own, and the roles that may issue it. The lanes and the address of a fault whose rule names none
are a reading of the model (log 14). -/
def Obligations.ChecksBeforeAnEntryAndIssueRights : Prop :=
  ChecksBeforeAnEntry ∧ OperandFaultsOfTheRest ∧ AccessAddresses ∧ IssueRights

/-! ## Lane and group instructions -/

namespace Sys2Proof.Claims

/-- The lanes that a convergent instruction executes for (R58, R59). -/
def executing (c : Ctx) : Mask := (metCtx c).b.mask

/-- A convergent instruction whose lanes have met: exec answers a next state in which each lane of the executing mask ends as W says,
every other lane is as it was, and nothing else has changed. -/
def ConvergentDoes (i : Instr) (W : Ctx → Nat → Lane → Lane → Prop) : Prop :=
  ∀ c s, Meets i c s → ∃ t, exec i s = .next t ∧ Elsewhere c.b.group s t ∧ ∃ g', t.groups[c.b.group]? = some g' ∧
    GroupKept (metCtx c).g g' ∧ LanesDid i (metCtx c) (executing c) (W (metCtx c)) g'

/-- The same, where each lane's vector register d holds a value. -/
def ConvergentGives (i : Instr) (d : BitVec 6) (x : Ctx → Nat → Lane → Word) : Prop :=
  ConvergentDoes i fun c k l l' => LaneWrote d (x c k l) (c.b.pc + BitVec.ofNat 64 (instrBytes i)) l l'

/-- The same for a predicate register. -/
def ConvergentSets (i : Instr) (p : BitVec 3) (b : Ctx → Nat → Prop) : Prop :=
  ConvergentDoes i fun c k l l' => ∃ y : Bool, (y = true ↔ b c k) ∧ LaneSet p y (c.b.pc + BitVec.ofNat 64 (instrBytes i)) l l'

/-- Lane j executes. -/
def runs (c : Ctx) (j : Nat) : Prop := j < c.g.lanes.length ∧ has c.b.mask j = true

/-- The tree of R127 over the leaves from lane p on, at level l, built from the top: the node over 2^l lanes joins its two halves. -/
def tree (f : Word → Word → Word × BitVec 5) (leaf : Nat → Option Word) : Nat → Nat → Node
  | 0, p => (leaf p, 0)
  | l + 1, p => joinNodes f (tree f leaf l p) (tree f leaf l (p + 2 ^ l))

/-- The first n leaves (R128): the aligned blocks of the set bits of n, from the highest bit down, joined left to right. -/
def firstLeaves (f : Word → Word → Word × BitVec 5) (leaf : Nat → Option Word) (n : Nat) : Node :=
  ((List.range 7).reverse.filter fun k => n.testBit k).foldl
    (fun a k => joinNodes f a (tree f leaf k (n / 2 ^ (k + 1) * 2 ^ (k + 1)))) (none, 0)

/-- The leaf of a lane: absent if the lane does not execute. -/
def leaf (c : Ctx) (a : BitVec 6) (j : Nat) : Option Word := if has c.b.mask j = true then some (readV (laneAt c.g j) a) else none

/-- A convergent combination (R440, R447): each executing lane k gets its node's value, or the empty one, and for floats `%fpflags`
gathers the nodes' exceptions; if one of those is enabled, the arithmetic fault is taken at all executing lanes instead. -/
def Combines (i : Instr) (float : Prop) (d : BitVec 6) (node : Ctx → Nat → Node) (empty : Word) : Prop :=
  ∀ c s, Meets i c s →
    let x := metCtx c
    (¬(float ∧ ∃ k j, runs x k ∧ j ≤ 4 ∧ (node x k).2.getLsbD j = true ∧ x.g.fpctl.getLsbD (8 + j) = true) →
      ∃ t v, exec i s = .next t ∧ Elsewhere c.b.group s t ∧
        (∀ j, v.getLsbD j = true ↔ x.g.fpflags.getLsbD j = true ∨ (float ∧ ∃ k, runs x k ∧ (node x k).2.getLsbD j = true)) ∧
        ∃ g', t.groups[c.b.group]? = some g' ∧ GroupKept { x.g with fpflags := v } g' ∧
          LanesDid i x (executing c)
            (fun k l l' => LaneWrote d ((node x k).1.getD empty) (x.b.pc + BitVec.ofNat 64 (instrBytes i)) l l') g') ∧
    ((float ∧ ∃ k j, runs x k ∧ j ≤ 4 ∧ (node x k).2.getLsbD j = true ∧ x.g.fpctl.getLsbD (8 + j) = true) →
      ∃ t xs, exec i s = .next t ∧ TakesFault x 0x10 (executing c) 0 false xs (metState c s) t ∧ xs.length = x.g.lanes.length ∧
        ∀ k, k < x.g.lanes.length → ∃ v, xs[k]? = some v ∧ (¬runs x k → v = 0) ∧
          (runs x k → ∀ j, v.getLsbD j = true ↔ ∃ k', runs x k' ∧ (node x k').2.getLsbD j = true))

end Sys2Proof.Claims

/-- A convergent instruction that not every live lane has reached, or whose lanes stand where a lower one waits, holds its lanes:
they stay at it, unissued, and nothing else happens (R58, R59). -/
def Obligations.ConvergentInstructionsHold : Prop :=
  ∀ i c s, Convergent i → ctx? s = some c → legal s c i = true → converged (metCtx c).g c.b.pc = false →
    ∃ t, exec i s = .next t ∧ Elsewhere c.b.group s t ∧ ∃ g', t.groups[c.b.group]? = some g' ∧
      g' = { c.g with lanes := g'.lanes, stall := .scoreboard } ∧ LanesAre c (fun _ l => { l with st := .held }) g'

/-- `SHFL` reads the lane at its index, its lane number less or plus n modulo 2^32, or XOR n, and a lane whose source is absent keeps its
own value (R450); `MATCH` marks the executing lanes with an equal value (R406); `GSYNC` only moves its lanes on (R60). -/
def Sys2Proof.Claims.ShuffleAndMatchResults : Prop :=
  (∀ b a d, ConvergentGives (.shfl 0 b a d) d fun c _ l =>
    let src := (readV l b).toNat % c.g.width
    if src < c.g.width ∧ has c.b.mask src = true then readV (laneAt c.g src) a else readV l a) ∧
  (∀ b a d, ConvergentGives (.shfl 1 b a d) d fun c i l =>
    let src := (i + 2 ^ 32 - (readV l b).toNat) % 2 ^ 32
    if src < c.g.width ∧ has c.b.mask src = true then readV (laneAt c.g src) a else readV l a) ∧
  (∀ b a d, ConvergentGives (.shfl 2 b a d) d fun c i l =>
    let src := (i + (readV l b).toNat) % 2 ^ 32
    if src < c.g.width ∧ has c.b.mask src = true then readV (laneAt c.g src) a else readV l a) ∧
  (∀ b a d, ConvergentGives (.shfl 3 b a d) d fun c i l =>
    let src := i ^^^ (readV l b).toNat
    if src < c.g.width ∧ has c.b.mask src = true then readV (laneAt c.g src) a else readV l a) ∧
  (∀ h a d, ConvergentDoes (.matchLanes h a d) fun c _ l l' => ∃ x : Word,
    LaneWrote d x (c.b.pc + 4) l l' ∧ ∀ k, k ≤ 31 → (x.getLsbD k = true ↔
      runs c (if h = 0#1 then k else 32 + k) ∧ readV (laneAt c.g (if h = 0#1 then k else 32 + k)) a = readV l a)) ∧
  ConvergentDoes .gsync fun c _ l l' => l' = movedTo (c.b.pc + 4) l

/-- `VOTE.all` and `VOTE.any` give every executing lane whether the predicate holds in all, or in some, of them; `VOTE.ballot` writes the
executing lanes in which it holds to a scalar register once (R465); `ELECT` marks the lowest executing lane (R374). -/
def Sys2Proof.Claims.VoteAndElectResults : Prop :=
  (∀ a d, ConvergentSets (.vote 0 a d) d fun c _ => ∀ k, runs c k → readP (laneAt c.g k) a = true) ∧
  (∀ a d, ConvergentSets (.vote 1 a d) d fun c _ => ∃ k, k < 64 ∧ runs c k ∧ readP (laneAt c.g k) a = true) ∧
  (∀ d, ConvergentSets (.elect d) d fun c k => ∀ j, runs c j → k ≤ j) ∧
  ∀ a d c s, Meets (.voteBallot a d) c s → ∃ t x, exec (.voteBallot a d) s = .next t ∧ Elsewhere c.b.group s t ∧
    (∀ k, k < 64 → (x.getLsbD k = true ↔ runs (metCtx c) k ∧ readP (laneAt (metCtx c).g k) a = true)) ∧
    ∃ g', t.groups[c.b.group]? = some g' ∧ readS g' d = (if d = 0#6 then 0 else x) ∧
      (∀ r, r ≠ d → readS g' r = readS c.g r) ∧
      GroupKept { (metCtx c).g with s := g'.s, spois := g'.spois, errTok := g'.errTok } g' ∧ LanesMove (.voteBallot a d) (metCtx c) g'

/-- The convergent instructions that shuffle, match, vote and elect. -/
def Obligations.ShuffleVoteAndElectResults : Prop :=
  ShuffleAndMatchResults ∧ VoteAndElectResults

/-- `PERM` selects each byte of vd among the eight of vb and va by the old byte's bits [2:0], or zero if its bit 3 is set (R426). -/
def Sys2Proof.Claims.PermuteResults : Prop :=
  ∀ n g b a d, ∃ x, VectorGives (.perm n g b a d) d x ∧ ∀ c k l j, j ≤ 3 →
    let w := (readV l a).toNat + 2 ^ 32 * (readV l b).toNat
    let sel := (readV l d).toNat / 2 ^ (8 * j) % 256
    (x c k l).toNat / 2 ^ (8 * j) % 256 = if sel / 8 % 2 = 1 then 0 else w / 2 ^ (8 * (sel % 8)) % 256

/-- The results of the instructions that move words between registers and lanes: moves, selects, lane-register reads and `PERM`. -/
def Obligations.MoveAndLaneResults : Prop :=
  MoveAndSelectResults ∧ LaneRegisterReads ∧ PermuteResults

/-- `REDUX` and `SCAN` combine over the tree of R127 and the blocks of R128, with the operation's rounding and exceptions (R440, R447);
an exclusive scan gives a lane with no live lane below it the empty result. -/
def Sys2Proof.Claims.ReductionsFollowTheTree : Prop :=
  (∀ f t a d, Combines (.redux f t a d) (t = 2#2) d (fun c _ => tree (combine f t (envOf c.g)) (leaf c a) 6 0) 0) ∧
  (∀ f t a d, Combines (.scan f 0 t a d) (t = 2#2) d
    (fun c k => firstLeaves (combine f t (envOf c.g)) (leaf c a) (k + 1)) (emptyScan f t)) ∧
  (∀ f t a d, Combines (.scan f 1 t a d) (t = 2#2) d
    (fun c k => firstLeaves (combine f t (envOf c.g)) (leaf c a) k) (emptyScan f t)) ∧
  emptyScan 0 2 = 0 ∧ emptyScan 1 2 = 0x7F800000 ∧ emptyScan 2 2 = 0xFF800000 ∧ emptyScan 1 0 = 0x7FFFFFFF ∧
  emptyScan 2 0 = 0x80000000 ∧ emptyScan 1 1 = 0xFFFFFFFF ∧ emptyScan 2 1 = 0

/-- The integer results of `REDUX` do not depend on how the lanes stand in the tree (R129, R440): the sum modulo 2^32 of the executing
lanes' values, and a value of theirs that none is below, or above, as signed or unsigned numbers. -/
def Sys2Proof.Claims.IntegerReductionResults : Prop :=
  ∀ t a, t = 0#2 ∨ t = 1#2 → ∀ c : Ctx, (∃ k, k < 64 ∧ has c.b.mask k = true) → ∀ e,
    (tree (combine 0 t e) (leaf c a) 6 0).1 =
      some (BitVec.ofNat 32 ((List.range 64).map fun j => if has c.b.mask j = true then (readV (laneAt c.g j) a).toNat else 0).sum) ∧
    (∃ x k, (tree (combine 1 t e) (leaf c a) 6 0).1 = some x ∧ k < 64 ∧ has c.b.mask k = true ∧ x = readV (laneAt c.g k) a ∧
      ∀ j, j < 64 → has c.b.mask j = true → ¬below (t == 1#2) (readV (laneAt c.g j) a) x) ∧
    ∃ x k, (tree (combine 2 t e) (leaf c a) 6 0).1 = some x ∧ k < 64 ∧ has c.b.mask k = true ∧ x = readV (laneAt c.g k) a ∧
      ∀ j, j < 64 → has c.b.mask j = true → ¬below (t == 1#2) x (readV (laneAt c.g j) a)

/-- The reductions, over floating-point values and over integers. -/
def Obligations.ReductionResults : Prop :=
  ReductionsFollowTheTree ∧ IntegerReductionResults

/-! ## Control instructions -/

namespace Sys2Proof.Claims

/-- A target as a signed count of halfwords from the next instruction (R310). -/
def target (c : Ctx) {w : Nat} (off : BitVec w) : DWord := BitVec.ofInt 64 (c.b.pc.toNat + 4 + 2 * off.toInt)

/-- The instruction was carried out, its group became g0 but for its lanes and the issue's bookkeeping, each acting lane ended as W says,
and the bundle's other lanes moved on. -/
def LanesGo (i : Instr) (c : Ctx) (m : Mask) (g0 : Group) (W : Nat → Lane → Lane → Prop) (s t : State) : Prop :=
  Elsewhere c.b.group s t ∧ ∃ g', t.groups[c.b.group]? = some g' ∧ GroupKept g0 g' ∧ LanesDid i c m W g'

/-- The group once the entries that its acting lanes had asked of span members have been used (R64). -/
def noFills (c : Ctx) (i : Instr) : Group :=
  { c.g with fills := c.g.fills.filter fun f => !(decide (f.lane < c.g.lanes.length) && has (acting c i) f.lane) }

/-- A lane that has jumped. -/
def wentTo (x : DWord) (l l' : Lane) : Prop := l' = movedTo x l

/-- A lane that has pushed a return address on its on-chip stack and jumped (R63). -/
def Pushed (ret x : DWord) (l l' : Lane) : Prop :=
  l' = { movedTo x l with rs := l'.rs, d := l.d + 1 } ∧ l'.rs[l.d]? = some ret ∧ ∀ k, k < l.d → l'.rs[k]? = l.rs[k]?

/-- A lane whose four entries were in use: the oldest is spilled below `%stack`, the others move down (R63). -/
def Spilled (ret x : DWord) (l l' : Lane) : Prop :=
  l' = { movedTo x l with rs := #v[l.rs[1], l.rs[2], l.rs[3], ret], d := 4, stack := l.stack - 8, c := l.c + 1 }

/-- Lane j is the lowest of a mask's lanes that P holds of. -/
def LowestThat (c : Ctx) (m : Mask) (P : Nat → Prop) (j : Nat) : Prop :=
  j < c.g.lanes.length ∧ has m j = true ∧ P j ∧ ∀ k, k < j → has m k = true → ¬P k

/-- Address a is an entry of a return stack in the team window, at an offset of the allocation. -/
def StackSlot (c : Ctx) (a : DWord) (off : Nat) : Prop :=
  a = 0xFF00000000000000 + BitVec.ofNat 64 off ∧ off % 8 = 0 ∧ off + 8 ≤ c.t.alloc ∧ off < 2 ^ 24

/-- A lane whose push fails (R63): its four entries are in use, and `%stack` − 8 lies below `%stacklim`, or the store there faults. -/
def PushFails (s : State) (c : Ctx) (k : Nat) (r : BitVec 8) : Prop :=
  let a := (laneAt c.g k).stack - 8
  4 ≤ (laneAt c.g k).d ∧ ((a.toNat < c.g.stacklim.toNat ∧ r = 0x0F) ∨
    (c.g.stacklim.toNat ≤ a.toNat ∧ ∃ st, addrCheck s c.t a { bytes := 8, write := true } = some (st, r)))

/-- The return address that a lane pops (R63, R64), an even one: its newest entry on chip, or with none left there the 8 bytes at `%stack`, stated
for the team window. -/
def Pops (s : State) (c : Ctx) (k : Nat) (x : DWord) : Prop :=
  x.getLsbD 0 = false ∧
    (((laneAt c.g k).d ≠ 0 ∧ (laneAt c.g k).rs[(laneAt c.g k).d - 1]? = some x) ∨
     ((laneAt c.g k).d = 0 ∧ (laneAt c.g k).c ≠ 0 ∧ ∃ off, StackSlot c (laneAt c.g k).stack off ∧
       poisonedAt s (teamKey c.t off) 8 = false ∧ (lineAt s (teamKey c.t off)).err = false ∧
       x = BitVec.ofNat 64 (leBytes (readN s (teamKey c.t off) 8))))

/-- A lane whose pop fails, with its cause and address: an odd address popped, a fill that faults, or a poisoned entry. -/
def PopFails (s : State) (c : Ctx) (k : Nat) (r : BitVec 8) (a : DWord) : Prop :=
  let l := laneAt c.g k
  (l.d ≠ 0 ∧ l.rs[l.d - 1]? = some a ∧ a.getLsbD 0 = true ∧ r = 0x07) ∨
  (l.d = 0 ∧ l.c ≠ 0 ∧ a = l.stack ∧ ∃ st, addrCheck s c.t l.stack { bytes := 8 } = some (st, r)) ∨
  (l.d = 0 ∧ l.c ≠ 0 ∧ ∃ off, StackSlot c l.stack off ∧
    (((poisonedAt s (teamKey c.t off) 8 = true ∨ (lineAt s (teamKey c.t off)).err = true) ∧ r = 0x11 ∧ a = l.stack) ∨
     (poisonedAt s (teamKey c.t off) 8 = false ∧ (lineAt s (teamKey c.t off)).err = false ∧ a.getLsbD 0 = true ∧ r = 0x07 ∧
       a = BitVec.ofNat 64 (leBytes (readN s (teamKey c.t off) 8)))))

/-- What a call does (R62 to R64), with the lanes' targets: acting lanes with a free entry push on chip; a lane with four entries in use
first stores its oldest entry at `%stack` − 8. The pushes of every lane are checked before any effect: the lowest lane that fails gives
the fault's cause and address, and the lanes that fail for that cause are reported. -/
def Calls (i : Instr) (x : Ctx → Nat → DWord) : Prop :=
  ∀ c s, Ready i c s → (∀ k, k < c.g.lanes.length → has (acting c i) k = true → (x c k).toNat % 2 = 0) →
    ((∀ k, k < c.g.lanes.length → has (acting c i) k = true → (laneAt c.g k).d < 4) → ∃ t, exec i s = .next t ∧
      LanesGo i c (acting c i) c.g (fun k => Pushed (c.b.pc + 4) (x c k)) s t) ∧
    (∀ j r, LowestThat c (acting c i) (fun k => ∃ r, PushFails s c k r) j → PushFails s c j r → ∃ t m, exec i s = .next t ∧
      (∀ k, has m k = true ↔ k < c.g.lanes.length ∧ has (acting c i) k = true ∧ PushFails s c k r) ∧
      TakesFault c r m ((laneAt c.g j).stack - 8) false [] s t) ∧
    ∀ off : Nat → Nat, let spills (k : Nat) : Prop := k < c.g.lanes.length ∧ has (acting c i) k = true ∧ (laneAt c.g k).d = 4
      (∀ k, k < c.g.lanes.length → has (acting c i) k = true → (laneAt c.g k).d ≤ 4) →
      (∀ k, spills k → StackSlot c ((laneAt c.g k).stack - 8) (off k) ∧ c.g.stacklim.toNat ≤ ((laneAt c.g k).stack - 8).toNat) →
      (∀ k j, spills k → spills j → k < j → teamKey c.t (off k) + 8 ≤ teamKey c.t (off j) ∨ teamKey c.t (off j) + 8 ≤ teamKey c.t (off k)) →
      (∀ ws, (∀ w, w ∈ ws → ∃ k, spills k ∧ w = ((laneAt c.g k).stack - 8, 8)) → copyHeld s c ws = false) →
      ∃ t, exec i s = .next t ∧ (∃ g', t.groups[c.b.group]? = some g' ∧ GroupKept c.g g' ∧ LanesDid i c (acting c i)
          (fun k l l' => (l.d < 4 → Pushed (c.b.pc + 4) (x c k) l l') ∧ (l.d = 4 → Spilled (c.b.pc + 4) (x c k) l l')) g') ∧
        t.teams = s.teams ∧ t.lines = s.lines ∧
        (∀ k, spills k → readN t (teamKey c.t (off k)) 8 = toLeBytes 8 (laneAt c.g k).rs[0].toNat) ∧
        ∀ q, (∀ k, spills k → q < teamKey c.t (off k) ∨ teamKey c.t (off k) + 8 ≤ q) → memRead t.mem q = memRead s.mem q

end Sys2Proof.Claims

/-- `BRA`, `SBRA` and `JMP` send lanes to their targets, and nothing else changes: `BRA` the active lanes whose predicate holds (R355),
`SBRA` every active lane on the scalar's being zero or not (R446), `JMP` every active lane to s[sa], or the misaligned fault at an odd one
(R398). The lanes and the address of a fault whose rule names none are a reading of the model (log 14). -/
def Obligations.BranchResults : Prop :=
  (∀ o n g c s, Ready (.bra o n g) c s → ∃ t, exec (.bra o n g) s = .next t ∧
    LanesGo (.bra o n g) c (acting c (.bra o n g)) c.g (fun _ => wentTo (target c o)) s t) ∧
  (∀ k a z c s, Ready (.sbra k a z) c s → ∃ t, exec (.sbra k a z) s = .next t ∧
    LanesGo (.sbra k a z) c c.b.mask c.g
      (fun _ => wentTo (if (z = 0#1 ∧ readS c.g a = 0) ∨ (z = 1#1 ∧ readS c.g a ≠ 0) then target c k else c.b.pc + 4)) s t) ∧
  ∀ a c s, Ready (.jmp a) c s →
    ((readS c.g a).toNat % 2 = 0 → ∃ t, exec (.jmp a) s = .next t ∧
      LanesGo (.jmp a) c c.b.mask c.g (fun _ => wentTo (readS c.g a)) s t) ∧
    ((readS c.g a).toNat % 2 = 1 → ∃ t, exec (.jmp a) s = .next t ∧ TakesFault c 0x07 c.b.mask (readS c.g a) false [] s t)

/-- `CALL` and `CALLV` push the next instruction's address and jump (R62 to R64); odd targets of `CALLV` fault before any push.
The spill is stated for `%stack`s in the team window whose entries do not overlap. -/
def Sys2Proof.Claims.CallResults : Prop :=
  (∀ o n g, Calls (.call o n g) fun c _ => target c o) ∧
  (∀ a b, Calls (.callv a b) fun c k => readS c.g b + BitVec.ofNat 64 (readV (laneAt c.g k) a).toNat) ∧
  ∀ a b c s j, Ready (.callv a b) c s → LowestThat c c.b.mask (fun k => (laneAddr c b a k).getLsbD 0 = true) j →
    ∃ t m, exec (.callv a b) s = .next t ∧
      (∀ k, has m k = true ↔ k < c.g.lanes.length ∧ has c.b.mask k = true ∧ (laneAddr c b a k).getLsbD 0 = true) ∧
      TakesFault c 0x07 m (laneAddr c b a j) false [] s t

/-- `RET` pops each acting lane's own stack (R63, R64, R442): the newest on-chip entry, or with none left the 8 bytes at `%stack`, stated
for `%stack`s in the team window. Empty stacks are an underflow, marked in the fault, before anything else; then the lowest lane whose
pop fails gives the fault's cause and address, and nothing has an effect. -/
def Sys2Proof.Claims.ReturnResults : Prop :=
  ∀ n g c s, Ready (.ret n g) c s →
    let i : Instr := .ret n g
    let acts (k : Nat) : Prop := k < c.g.lanes.length ∧ has (acting c i) k = true
    let under (k : Nat) : Prop := acts k ∧ (laneAt c.g k).d = 0 ∧ (laneAt c.g k).c = 0
    ((∃ k, under k) → ∃ t m, exec i s = .next t ∧ (∀ k, has m k = true ↔ under k) ∧ TakesFault c 0x0F m 0 true [] s t) ∧
    (∀ x : Nat → DWord, (∀ k, acts k → Pops s c k (x k)) → ∃ t, exec i s = .next t ∧ LanesGo i c (acting c i) (noFills c i) (fun k l l' =>
      (l.d ≠ 0 → l' = { movedTo (x k) l with d := l.d - 1 }) ∧
      (l.d = 0 → l' = { movedTo (x k) l with stack := l.stack + 8, c := l.c - 1 })) s t) ∧
    ∀ j r a, (∀ k, acts k → (∃ x, Pops s c k x) ∨ ∃ r a, PopFails s c k r a) →
      LowestThat c (acting c i) (fun k => ∃ r a, PopFails s c k r a) j → PopFails s c j r a → ∃ t m, exec i s = .next t ∧
      (∀ k, has m k = true ↔ acts k ∧ ∃ b, PopFails s c k r b) ∧ TakesFault c r m a false [] s t

/-- Calls and returns. The lanes and the address of a fault whose rule names none are a reading of the model (log 14). -/
def Obligations.CallAndReturnResults : Prop :=
  CallResults ∧ ReturnResults

namespace Sys2Proof.Claims

/-- Memory, the cores with their engines, the package and the virtual chips are as they were, but for what `Elsewhere` leaves out; only teams
and groups may have changed. -/
def OnlyTeams (s t : State) : Prop :=
  t = { s with groups := t.groups, teams := t.teams, vchips := t.vchips } ∧
  t.groups.length = s.groups.length ∧
  t.vchips.map (fun v => { v with bayCounters := [] }) = s.vchips.map fun v => { v with bayCounters := [] }

/-- Barrier b of the issuing team is x now; its other barriers, and the other teams, are as they were. -/
def BarrierIs (c : Ctx) (b : Nat) (x : Barrier) (s t : State) : Prop :=
  (∀ m, m ≠ c.g.team → t.teams[m]? = s.teams[m]?) ∧
  ∃ bs, t.teams[c.g.team]? = some { c.t with barriers := bs } ∧ bs.length = c.t.barriers.length ∧ bs[b]? = some x ∧
    ∀ k, k ≠ b → bs[k]? = c.t.barriers[k]?

/-- A group whose lanes of a mask, if held, run again, and which waits for nothing. -/
def LetGo (m : Mask) (g g' : Group) : Prop :=
  g' = { g with lanes := g'.lanes, wait := .none } ∧ g'.lanes.length = g.lanes.length ∧
    ∀ k, k < g.lanes.length → laneAt g' k =
      if has m k = true ∧ (laneAt g k).st = .held then { laneAt g k with st := .running } else laneAt g k

/-- A group as a completed phase of barrier b leaves it (R31, R353): the lanes of one that has arrived go on, one that waits may issue
again, any other is as it was; a lane held elsewhere stays held (R59). -/
def ReleasedBy (b : Nat) (g g' : Group) : Prop :=
  (∀ m, g.wait = .arrived b m → LetGo m g g') ∧
  (∀ r, g.wait = .phase b r → g' = { g with wait := .phase b true }) ∧
  ((∀ m, g.wait ≠ .arrived b m) → (∀ r, g.wait ≠ .phase b r) → g' = g)

/-- The other groups: released if the phase completed and they are of the issuing team, else as they were. -/
def OthersAt (c : Ctx) (b : Nat) (completes : Prop) (s t : State) : Prop :=
  ∀ m g, m ≠ c.b.group → s.groups[m]? = some g → ∃ g', t.groups[m]? = some g' ∧
    (completes → g.team = c.g.team → g.retired = false → ReleasedBy b g g') ∧
    (¬completes ∨ g.team ≠ c.g.team ∨ g.retired = true → g' = g)

/-- Nothing of the teams has changed, and no other group: the issuing group is as it was but for its lanes and the issue's bookkeeping. -/
def MovesAs (i : Instr) (c : Ctx) (s t : State) : Prop :=
  Elsewhere c.b.group s t ∧ ∃ g', t.groups[c.b.group]? = some g' ∧ GroupKept c.g g' ∧ LanesMove i c g'

/-- The issuing group waits, unissued, for a phase of barrier b (R353). -/
def WaitsPhase (c : Ctx) (b : Nat) (s t : State) : Prop :=
  Elsewhere c.b.group s t ∧ ∃ g', t.groups[c.b.group]? = some g' ∧
    g' = { c.g with stall := .barrier, wait := .phase b false }

/-- The issuing group is held at the next instruction (R353, R457). -/
def HeldAfter (i : Instr) (c : Ctx) (g0 : Group) (w : Wait) (t : State) : Prop :=
  ∃ g', t.groups[c.b.group]? = some g' ∧
    g' = { g0 with lanes := g'.lanes, skid := g'.skid, look := g'.look, issuedAt := g'.issuedAt, paired := g'.paired,
                   stall := .barrier, wait := w } ∧
    LanesAre c (fun _ l => { movedTo (c.b.pc + BitVec.ofNat 64 (instrBytes i)) l with st := .held }) g'

/-- The issuing group has gone on, changed in nothing else. -/
def GoesOn (i : Instr) (c : Ctx) (t : State) : Prop :=
  ∃ g', t.groups[c.b.group]? = some g' ∧ GroupKept c.g g' ∧ LanesMove i c g'

/-- A barrier after the check of R31: the phase completes when every expected arrival has come. -/
def afterCheck (x : Barrier) : Barrier := if x.e ≤ x.a then { x with p := !x.p, a := 0, arr := 0 } else x

/-- A barrier with the issuing group's arrival, and with its withdrawal (R31). -/
def arrived (x : Barrier) (n : Nat) : Barrier := { x with arr := x.arr ||| BitVec.twoPow 32 n, a := x.a + 1 }

def withdrawn (x : Barrier) (n : Nat) : Barrier :=
  { x with wd := x.wd ||| BitVec.twoPow 32 n, e := x.e - 1, a := if x.arr.getLsbD n = true then x.a - 1 else x.a,
           arr := x.arr &&& ~~~BitVec.twoPow 32 n }

/-- What a group that retires does to a barrier of its team (R32): it withdraws from one that it takes part in. -/
def leftBarrier (c : Ctx) (b : Nat) (x : Barrier) : Barrier :=
  if b < 16 ∧ takesPart c.t c.g b = true then afterCheck (withdrawn x c.g.num) else x

/-- A barrier whose phase the group's retirement completes. -/
def LeavesComplete (c : Ctx) (b : Nat) : Prop :=
  b < 16 ∧ takesPart c.t c.g b = true ∧ ∃ x, c.t.barriers[b]? = some x ∧ (withdrawn x c.g.num).e ≤ (withdrawn x c.g.num).a

/-- A group that waits on a barrier. -/
def WaitsOn (g : Group) (b : Nat) : Prop := (∃ m, g.wait = .arrived b m) ∨ ∃ r, g.wait = .phase b r

/-- The issuing group, of a team of no span, has retired with its lanes as W says (R32, R80): it has left every barrier, the groups of its
team that waited on a phase that this completes go on, its team is u otherwise, and nothing else has changed. -/
def Retires (i : Instr) (c : Ctx) (u : Team) (W : Nat → Lane → Lane → Prop) (s t : State) : Prop :=
  OnlyTeams s t ∧ (∀ m, m ≠ c.g.team → t.teams[m]? = s.teams[m]?) ∧
  (∃ bs, t.teams[c.g.team]? = some { u with barriers := bs } ∧ bs.length = u.barriers.length ∧
    ∀ b x, u.barriers[b]? = some x → bs[b]? = some (leftBarrier c b x)) ∧
  (∃ g', t.groups[c.b.group]? = some g' ∧ g' = { c.g with
      lanes := g'.lanes, skid := g'.skid, look := g'.look, issuedAt := g'.issuedAt, paired := g'.paired
      retired := true, stall := .drained, wait := .none } ∧ LanesDid i c (acting c i) W g') ∧
  ∀ (m : Nat) g, m ≠ c.b.group → s.groups[m]? = some g → ∃ g', t.groups[m]? = some g' ∧
    (∀ b, WaitsOn g b → LeavesComplete c b → g.team = c.g.team → g.retired = false → ReleasedBy b g g') ∧
    ((∀ b, WaitsOn g b → ¬LeavesComplete c b) ∨ g.team ≠ c.g.team ∨ g.retired = true → g' = g)

end Sys2Proof.Claims

/-- `EXIT` ends its acting lanes, which keep their registers (R74, R77); when it leaves the group no live lane, the group retires at once
if every store and atomic of it in a span member has been performed, and otherwise once they have (R80): it leaves its barriers, stated in
full for a team of no span. -/
def Sys2Proof.Claims.ExitResults : Prop :=
  ∀ n g c s, Ready (.exit n g) c s →
    let i : Instr := .exit n g
    ((∃ k, k < c.g.lanes.length ∧ k < 64 ∧ live (laneAt c.g k) = true ∧ has (acting c i) k = false) → ∃ t, exec i s = .next t ∧
      LanesGo i c (acting c i) c.g (fun _ l l' => l' = { movedTo c.b.pc l with st := .exited }) s t) ∧
    ((∀ k, k < c.g.lanes.length → live (laneAt c.g k) = true → has (acting c i) k = true) → storesOut s c.b.group c.g = true →
      ∃ t, exec i s = .next t ∧ LanesGo i c (acting c i) c.g (fun _ l l' => l' = { movedTo c.b.pc l with st := .exited }) s t) ∧
    ((∀ k, k < c.g.lanes.length → live (laneAt c.g k) = true → has (acting c i) k = true) → storesOut s c.b.group c.g = false →
      c.g.retired = false →
      let W (_ : Nat) (l l' : Lane) : Prop := l' = { movedTo c.b.pc l with st := .exited }
      (∃ t g', exec i s = .next t ∧ t.groups[c.b.group]? = some g' ∧ g'.retired = true ∧ g'.s = c.g.s ∧ LanesDid i c (acting c i) W g') ∧
      (c.t.span = none → ∃ t, exec i s = .next t ∧ Retires i c c.t W s t))

/-- `REFILL` hands its acting lanes, in ascending order, the items of the team's queue that are left (R74, R75): a lane that takes one
restarts at the refill entry with its item, a generation more, an empty return stack and the launch value of `%stack`, and keeps its
registers; a lane for which none is left drains. Where no lane of the group stays live, the group retires, or waits for its stores and
atomics in span members (R80), stated for a team of no span. -/
def Sys2Proof.Claims.RefillResults : Prop :=
  ∀ n g c s, Ready (.refill n g) c s →
    let i : Instr := .refill n g
    let m := acting c i
    let turn := fun k => ((List.range k).filter fun j => has m j).length
    let total := turn c.g.lanes.length
    let dry (_ : Nat) (l l' : Lane) : Prop := l' = { movedTo c.b.pc l with st := .drained }
    ((∀ k, k < c.g.lanes.length → live (laneAt c.g k) = true → has m k = true) → c.t.end_ ≤ c.t.next → c.t.span = none → c.g.retired = false →
      (storesOut s c.b.group c.g = true → ∃ t, exec i s = .next t ∧ LanesGo i c m c.g dry s t) ∧
      (storesOut s c.b.group c.g = false → ∃ t, exec i s = .next t ∧ Retires i c c.t dry s t)) ∧
    (((∃ k, k < c.g.lanes.length ∧ k < 64 ∧ live (laneAt c.g k) = true ∧ has m k = false) ∨ (0 < total ∧ c.t.next < c.t.end_)) → ∃ t, exec i s = .next t ∧
      t.teams[c.g.team]? = some { c.t with next := c.t.next + min total (c.t.end_ - c.t.next) } ∧
      (∀ q, memRead t.mem q = memRead s.mem q) ∧
      ∃ g', t.groups[c.b.group]? = some g' ∧ GroupKept c.g g' ∧ LanesDid i c m (fun k l l' =>
        if c.t.next + turn k < c.t.end_ then
          ∃ e, c.t.kernel.refill = some e ∧
            l' = { movedTo e l with item := BitVec.ofNat 32 (c.t.next + turn k), gen := l.gen + 1, d := 0, c := 0,
                                    stack := launchStack c.t c.g.num c.g.width k }
        else l' = { movedTo c.b.pc l with st := .drained }) g')

/-- `EXIT` and `REFILL`, the instructions that end an item. -/
def Obligations.ExitAndRefillResults : Prop :=
  ExitResults ∧ RefillResults

/-- `NOP` only moves its lanes on (R419); `YIELD` also keeps the bundle from issuing before the next regroup if a lane acts (R467); `SLEEP`
puts its acting lanes to sleep for 16 × n clocks, and for n = 0 acts as `NOP` (R455); a lane whose clock has come wakes. -/
def Sys2Proof.Claims.NopYieldSleepResults : Prop :=
  (∀ n g c s, Ready (.nop n g) c s → ∃ t, exec (.nop n g) s = .next t ∧ OnlyMoves (.nop n g) c s t) ∧
  (∀ n g c s, Ready (.yield n g) c s → ∃ t, exec (.yield n g) s = .next t ∧ GroupBecomes (.yield n g) c
    { c.g with yielded := if acting c (.yield n g) = 0 then c.g.yielded else c.g.yielded ||| c.b.mask } s t) ∧
  (∀ k n g c s, Ready (.sleep k n g) c s → ∃ t, exec (.sleep k n g) s = .next t ∧
    LanesGo (.sleep k n g) c (acting c (.sleep k n g)) c.g (fun _ l l' => l' = { movedTo (c.b.pc + 4) l with
      wake := if k = 0 then l.wake else some ((coreAt s c.g.core).clock + BitVec.ofNat 64 (16 * k.toNat)) }) s t) ∧
  ∀ s n lane g w, s.groups[n]? = some g → lane < g.lanes.length → (laneAt g lane).wake = some w →
    w.toNat ≤ (coreAt s g.core).clock.toNat →
    ∃ t g', exec (.sleepExpiry n lane) s = .next t ∧ Elsewhere n s t ∧ t.groups[n]? = some g' ∧ g' = { g with lanes := g'.lanes } ∧
      g'.lanes.length = g.lanes.length ∧ ∀ k, k < g.lanes.length → k < 64 →
        laneAt g' k = if (laneAt g k).wake = some w then { laneAt g k with wake := none } else laneAt g k

/-- `TRAP` and `BRK` take their faults at the acting lanes (R464, R357), and with none acting only move on; the unit that decodes to no
instruction takes the illegal-instruction fault (R328). -/
def Sys2Proof.Claims.TrapAndBreakpointResults : Prop :=
  (∀ k n g c s, Ready (.trap k n g) c s →
    (acting c (.trap k n g) ≠ 0 → ∃ t, exec (.trap k n g) s = .next t ∧ TakesFault c 0x13 (acting c (.trap k n g)) 0 false [] s t) ∧
    (acting c (.trap k n g) = 0 → ∃ t, exec (.trap k n g) s = .next t ∧ OnlyMoves (.trap k n g) c s t)) ∧
  (∀ k n g c s, Ready (.brk k n g) c s →
    (acting c (.brk k n g) ≠ 0 → ∃ t, exec (.brk k n g) s = .next t ∧ TakesFault c 0x12 (acting c (.brk k n g)) 0 false [] s t) ∧
    (acting c (.brk k n g) = 0 → ∃ t, exec (.brk k n g) s = .next t ∧ OnlyMoves (.brk k n g) c s t)) ∧
  ∀ c s, ctx? s = some c → ∃ t, exec .illegalInstruction s = .next t ∧ TakesFault c 0x01 c.b.mask 0 false [] s t

/-- `NOP`, `YIELD`, `SLEEP` and its expiry, `TRAP`, `BRK` and the illegal instruction. That one expiry wakes every lane of the group
with that deadline is the model's reading (log 7), and so are the lanes and the address of a fault whose rule names none (log 14). -/
def Obligations.NopSleepTrapResults : Prop :=
  NopYieldSleepResults ∧ TrapAndBreakpointResults

/-! ## Memory instructions -/

namespace Sys2Proof.Claims

/-- The lanes of the bundle, lowest first. -/
def active (c : Ctx) : List Nat := (List.range c.g.lanes.length).filter fun k => has c.b.mask k

/-- An n-byte access that passes its checks in the team window (R132 to R134). -/
def InTeam (c : Ctx) (va : DWord) (n : Nat) : Prop :=
  canonical va = true ∧ topByte va = 0xFF ∧ va.toNat % n = 0 ∧ field va 23 0 + n ≤ c.t.alloc

/-- Where its bytes stand: the address that every access computes. -/
def at_ (c : Ctx) (va : DWord) : Nat := teamKey c.t (field va 23 0)

/-- The address of each lane in format VM (R310): s[sb] + v[va]. -/
def lanesOff (c : Ctx) (b a : BitVec 6) (k : Nat) : DWord := readS c.g b + BitVec.ofNat 64 (readV (laneAt c.g k) a).toNat

/-- A scratchpad word as a load finds it: poisoned with its unit, or with a line in metadata error (R158, R159). -/
def spoilt (s : State) (k n : Nat) : Bool := poisonedAt s k n || (lineAt s k).err

/-- The words that loads of n bytes will land in lanes' registers from d on. -/
def landing (c : Ctx) (s : State) (d : BitVec 6) (n : Nat) (va : Nat → DWord) : List Load :=
  (active c).flatMap fun k => (List.range (n / 4)).map fun j =>
    { lane := k, reg := d + BitVec.ofNat 6 j, data := BitVec.ofNat 32 (readLe s (at_ c (va k) + 4 * j) 4),
      pois := spoilt s (at_ c (va k)) n, ready := true, acq := false, more := decide (j ≠ 0) }

/-- The core of the group has room for n more requests among its 1,024 (R2, R36). -/
def Room (c : Ctx) (s : State) (n : Nat) : Prop := n = 0 ∨ coreRequests s c.g.core + n ≤ 1024

/-- The instruction waits, unissued: its group has a stall reason, and nothing else has changed. -/
def Waits (c : Ctx) (r : Stall) (s t : State) : Prop :=
  Elsewhere c.b.group s t ∧ t.groups[c.b.group]? = some { c.g with stall := r }

/-- The instruction was carried out, its lanes moved on, and the group is one more with loads outstanding. -/
def LoadsFor (i : Instr) (c : Ctx) (ls : List Load) (s t : State) : Prop :=
  GroupBecomes i c { c.g with loads := c.g.loads ++ ls } s t

/-- The bytes that an instruction stores, each at its key, and no others: where two lanes store one byte the higher leaves its value
(R149, R460); a poisoned unit that no store touches stays poisoned, and none becomes so. -/
def Stored (c : Ctx) (n : Nat) (va : Nat → DWord) (x : Nat → Nat) (s t : State) : Prop :=
  (∀ q, (∀ k, runs c k → q < at_ c (va k) ∨ at_ c (va k) + n ≤ q) → memRead t.mem q = memRead s.mem q) ∧
  (∀ k j, runs c k → j < n → (∀ m, runs c m → k < m → at_ c (va k) + j < at_ c (va m) ∨ at_ c (va m) + n ≤ at_ c (va k) + j) →
    (memRead t.mem (at_ c (va k) + j)).toNat = x k / 2 ^ (8 * j) % 256) ∧
  (∀ u, u ∈ t.poison → u ∈ s.poison) ∧
  ∀ u, u ∈ s.poison → (∀ k, runs c k → 8 * u + 8 ≤ at_ c (va k) ∨ at_ c (va k) + n ≤ 8 * u) → u ∈ t.poison

/-- 8 bytes stored at a key, and no others; no unit that the store does not touch gains or loses its poison (R158). -/
def StoredWord (q : Nat) (x : DWord) (s t : State) : Prop :=
  readLe t q 8 = x.toNat ∧ (∀ k, k < q ∨ q + 8 ≤ k → memRead t.mem k = memRead s.mem k) ∧ (∀ u, u ∈ t.poison → u ∈ s.poison) ∧
    ∀ u, u ∈ s.poison → 8 * u + 8 ≤ q ∨ q + 8 ≤ 8 * u → u ∈ t.poison

/-- The instruction was carried out, its bundle moved on, and nothing outside memory has changed. -/
def MovesBut (i : Instr) (c : Ctx) (s t : State) : Prop := OnlyMoves i c { s with mem := t.mem, poison := t.poison } t

/-- What R349 has each vector atomic store for the old value, the data and the comparison value. -/
def AtomStores (i : Instr) (old d cmp new : Word) : Prop :=
  ∀ l a b r, (i = .atom 0 l a b r → new.toNat = (old.toNat + d.toNat) % 2 ^ 32) ∧
    (i = .atom 1 l a b r → new = BitVec.ofNat 32 (fAddV f32 { rm := .nearest, daz := false, ftz := false }
      (unpack f32 false old.toNat) (unpack f32 false d.toNat)).code) ∧
    (i = .atom 2 l a b r → Least false old d new) ∧ (i = .atom 3 l a b r → Greatest false old d new) ∧
    (i = .atomb 0 l a b r → new = old &&& d) ∧ (i = .atomb 1 l a b r → new = old ||| d) ∧
    (i = .atomb 2 l a b r → new = old ^^^ d) ∧ (i = .atomb 3 l a b r → new = d) ∧
    (i = .atomcCas l a b r → new = if old = cmp then d else old) ∧
    (i = .atomcMinN32 l a b r → Least true old d new) ∧ (i = .atomcMaxN32 l a b r → Greatest true old d new)

/-- What R331 has `SATOM` store. -/
def SatomStores (o : BitVec 4) (old d cmp new : DWord) : Prop :=
  (o = 0 → new.toNat = (old.toNat + d.toNat) % 2 ^ 64) ∧ (o = 1 → new = old &&& d) ∧ (o = 2 → new = old ||| d) ∧
  (o = 3 → new = old ^^^ d) ∧ (o = 4 → new = d) ∧ (o = 5 → Least false old d new) ∧ (o = 6 → Greatest false old d new) ∧
  (o = 7 → Least true old d new) ∧ (o = 8 → Greatest true old d new) ∧ (o = 9 → new = if old = cmp then d else old)

/-- The word that a lane's atomic finds: memory's, as the lower lanes on the same word have left it (R350). -/
def found (i : Instr) (c : Ctx) (s : State) (d : BitVec 6) (va : Nat → DWord) (ks : List Nat) (q : Nat) : Word :=
  (ks.filter fun k => at_ c (va k) == q).foldl
    (fun w k => newAtom32 i w (readV (laneAt c.g k) d) (readV (laneAt c.g k) (d + 1))) (BitVec.ofNat 32 (readLe s q 4))

/-- The vector atomics. -/
def VectorAtomic (i : Instr) (a b d : BitVec 6) : Prop :=
  (∃ f l, i = .atom f l a b d ∨ i = .atomb f l a b d) ∨ ∃ l, i = .atomcCas l a b d ∨ i = .atomcMinN32 l a b d ∨ i = .atomcMaxN32 l a b d

/-- The access that a vector memory instruction makes, and its address registers (R343, R402, R460). -/
def Accesses (i : Instr) (a b : BitVec 6) (x : Acc) (c : Ctx) : Prop :=
  (∃ f l d, i = .ld f l a b d ∧ x = { bytes := if f.getLsbD 0 = true then 8 else 4 }) ∨
  (∃ f l d, i = .st f l a b d ∧ x = { bytes := stBytes f, write := true }) ∨
  (∃ d, VectorAtomic i a b d ∧ x = { bytes := 4, write := true, atomic := true }) ∨
  (∃ l d, (i = .ldw l a b d ∨ i = .ldc l a b d) ∧ x = { bytes := 4, special := true }) ∨
  (∃ l d, (i = .stf l a b d ∨ i = .ste l a b d) ∧ x = { bytes := 4, write := true }) ∨
  (∃ l d, i = .stc l a b d ∧ x = { bytes := 4, write := true, counted := c.g.rcount != 0 }) ∨
  (i = .cflush a b ∧ x = { bytes := 1 })

end Sys2Proof.Claims

/-- The checks of an address in their order (R343, R133, R134, R138, R139): canonical form, pod space, alignment, the window's bounds,
translation, protection; each is made only where those before it pass. -/
def Sys2Proof.Claims.AddressChecks : Prop :=
  ∀ s t va x,
    (canonical va = false → addrCheck s t va x = some (2, 0x04)) ∧
    (canonical va = true → topByte va = 0x01 → addrCheck s t va x = some (3, 0x14)) ∧
    (canonical va = true → topByte va ≠ 0x01 → va.toNat % x.bytes ≠ 0 → addrCheck s t va x = some (4, 0x07)) ∧
    (canonical va = true → va.toNat % x.bytes = 0 →
      (topByte va = 0xFF → field va 23 0 + x.bytes ≤ t.alloc → addrCheck s t va x = none) ∧
      (topByte va = 0xFF → t.alloc < field va 23 0 + x.bytes → ringPlace t (field va 23 0) = none → addrCheck s t va x = some (5, 0x08)) ∧
      (topByte va = 0xFE → t.span = none → addrCheck s t va x = some (5, 0x08)) ∧
      (topByte va = 0x00 → translate s t.vc va (teamDie t) = none → addrCheck s t va x = some (6, 0x05)) ∧
      ∀ l, topByte va = 0x00 → translate s t.vc va (teamDie t) = some l →
        (protectionFails s t.vc l.entry x = true → addrCheck s t va x = some (7, 0x06)) ∧
        (protectionFails s t.vc l.entry x = false → addrCheck s t va x = none))

/-- The first check that any active lane of a vector memory instruction fails decides its fault: the cause of the lowest lane failing it,
every lane that fails it with that cause, and that lowest lane's address; the instruction then has no effect in any lane (R343). -/
def Sys2Proof.Claims.AddressFaultOfLanes : Prop :=
  ∀ i a b x c s j st cause, Ready i c s → Accesses i a b x c → runs c j →
    addrCheck s c.t (lanesOff c b a j) x = some (st, cause) →
    (∀ k st' e, runs c k → addrCheck s c.t (lanesOff c b a k) x = some (st', e) → st ≤ st' ∧ (st' = st → j ≤ k)) →
    ∃ t m, exec i s = .next t ∧ TakesFault c cause m (lanesOff c b a j) false [] s t ∧
      ∀ k, k < 64 → (has m k = true ↔ runs c k ∧ addrCheck s c.t (lanesOff c b a k) x = some (st, cause))

/-- The checks of the lanes' addresses, and the fault that they raise. The lanes and the address of a fault whose rule names none are a
reading of the model (log 14). -/
def Obligations.AccessFaults : Prop :=
  AddressChecks ∧ AddressFaultOfLanes

/-- `LD` reads 4 or 8 bytes for each active lane, whatever the line's metadata (R399, R400), stated for the team window: its words are
outstanding until they land, and nothing else changes; while the core has no room for its requests it waits (R2). `LOAD_DATA_LAND` then writes what has returned to the lanes' registers,
poisoned with its data (R57, R159). -/
def Sys2Proof.Claims.LoadResults : Prop :=
  (∀ f l a b d c s, Ready (.ld f l a b d) c s →
    let n := if f.getLsbD 0 = true then 8 else 4
    (∀ k, runs c k → InTeam c (lanesOff c b a k) n) →
    (Room c s (active c).length →
      ∃ t, exec (.ld f l a b d) s = .next t ∧ LoadsFor (.ld f l a b d) c (landing c s d n (lanesOff c b a)) s t) ∧
    (¬Room c s (active c).length → ∃ t, exec (.ld f l a b d) s = .next t ∧ Waits c .memoryQueue s t)) ∧
  ∀ n s g, s.groups[n]? = some g → ∃ t g', exec (.loadDataLand n) s = .next t ∧ Elsewhere n s t ∧ t.groups[n]? = some g' ∧
    g' = { g with lanes := g'.lanes, loads := g.loads.filter fun l => !l.ready } ∧ g'.lanes.length = g.lanes.length ∧
    ∀ k, k < g.lanes.length → k < 64 →
      laneAt g' k = { laneAt g k with v := (laneAt g' k).v, vpois := (laneAt g' k).vpois } ∧
      ∀ r : BitVec 6, match (g.loads.filter fun l => l.ready && l.lane == k && l.reg == r).getLast? with
        | none => readV (laneAt g' k) r = readV (laneAt g k) r ∧
            (laneAt g' k).vpois.getLsbD r.toNat = (laneAt g k).vpois.getLsbD r.toNat
        | some l => readV (laneAt g' k) r = l.data ∧ (laneAt g' k).vpois.getLsbD r.toNat = l.pois

/-- `ST` stores the low 4, 8, 2 or 1 bytes of each active lane's register or pair at its address (R459, R460), stated for the team window and
for bytes that no copy of the team still has to read; every other byte and everything outside memory is as it was. -/
def Sys2Proof.Claims.StoreResults : Prop :=
  (stBytes 0 = 4 ∧ stBytes 1 = 8 ∧ stBytes 2 = 2 ∧ stBytes 3 = 1) ∧
  ∀ f l a b d c s, Ready (.st f l a b d) c s → (∀ k, runs c k → InTeam c (lanesOff c b a k) (stBytes f)) →
    copyHeld s c ((active c).map fun k => (lanesOff c b a k, stBytes f)) = false →
    ∃ t, exec (.st f l a b d) s = .next t ∧ MovesBut (.st f l a b d) c s t ∧
      Stored c (stBytes f) (lanesOff c b a) (fun k => (readV (laneAt c.g k) d).toNat +
        if f = 1 then 2 ^ 32 * (readV (laneAt c.g k) (d + 1)).toNat else 0) s t

/-- The vector loads, with the landing of their data, and the vector stores. That an access is performed at its issue is the model's
choice (log 5). -/
def Obligations.LoadAndStoreResults : Prop :=
  LoadResults ∧ StoreResults

/-- Every vector atomic, for each active lane in ascending order, replaces its word by the new value of R349 and returns the old one as a
load does (R349, R350); stated for the team window, words that are wholly apart or the same, and none poisoned. That an access is
performed at its issue is the model's choice (log 5). -/
def Obligations.VectorAtomicResults : Prop :=
  (∀ i old d cmp, AtomStores i old d cmp (newAtom32 i old d cmp)) ∧
  ∀ i a b d c s, VectorAtomic i a b d → Ready i c s → (∀ k, runs c k → InTeam c (lanesOff c b a k) 4) → Room c s (active c).length →
    copyHeld s c ((active c).map fun k => (lanesOff c b a k, 4)) = false →
    (∀ k, runs c k → spoilt s (at_ c (lanesOff c b a k)) 4 = false) →
    (∀ j k, runs c j → runs c k → at_ c (lanesOff c b a j) = at_ c (lanesOff c b a k) ∨
      at_ c (lanesOff c b a j) + 4 ≤ at_ c (lanesOff c b a k) ∨ at_ c (lanesOff c b a k) + 4 ≤ at_ c (lanesOff c b a j)) →
    ∃ t, exec i s = .next t ∧
      LoadsFor i c ((active c).map fun k =>
        { lane := k, reg := d, data := found i c s d (lanesOff c b a) ((active c).filter fun j => decide (j < k)) (at_ c (lanesOff c b a k)),
          pois := false, ready := true, acq := false, more := false }) { s with mem := t.mem } t ∧
      (∀ q, (∀ k, runs c k → q < at_ c (lanesOff c b a k) ∨ at_ c (lanesOff c b a k) + 4 ≤ q) → memRead t.mem q = memRead s.mem q) ∧
      ∀ k, runs c k → readLe t (at_ c (lanesOff c b a k)) 4 =
        (found i c s d (lanesOff c b a) (active c) (at_ c (lanesOff c b a k))).toNat

/-- `SLD`, `SST` and `SATOM` access 8 bytes at s[sa] + 8 × imm4, or for `SATOM` at s[sa] (R330, R331, R445, R454), stated for the team
window: the load and the old value go to sd at once, the store and the new value of R331 to memory. An address that fails a check of R343
faults with the bundle's lanes and that address (R443). The lanes and the address of a fault whose rule names none are a reading of the
model (log 14). That an access is performed at its issue is the choice of log 5. -/
def Obligations.ScalarMemoryResults : Prop :=
  (∀ k l r sc a d c s, Ready (.sld k l r sc a d) c s →
    let va := readS c.g a + BitVec.ofNat 64 (8 * k.toNat)
    (InTeam c va 8 → spoilt s (at_ c va) 8 = false → ∃ t, exec (.sld k l r sc a d) s = .next t ∧
      WritesScalar (.sld k l r sc a d) c d (BitVec.ofNat 64 (readLe s (at_ c va) 8)) s t) ∧
    (∀ st e, addrCheck s c.t va { bytes := 8 } = some (st, e) →
      ∃ t, exec (.sld k l r sc a d) s = .next t ∧ TakesFault c e c.b.mask va false [] s t)) ∧
  (∀ k l r sc a d c s, Ready (.sst k l r sc a d) c s →
    let va := readS c.g a + BitVec.ofNat 64 (8 * k.toNat)
    (InTeam c va 8 → copyHeld s c [(va, 8)] = false → ∃ t, exec (.sst k l r sc a d) s = .next t ∧ MovesBut (.sst k l r sc a d) c s t ∧
      StoredWord (at_ c va) (readS c.g d) s t) ∧
    (∀ st e, addrCheck s c.t va { bytes := 8, write := true } = some (st, e) →
      ∃ t, exec (.sst k l r sc a d) s = .next t ∧ TakesFault c e c.b.mask va false [] s t)) ∧
  (∀ o old d cmp, o.toNat ≤ 9 → SatomStores o old d cmp (newAtom64 o old d cmp)) ∧
  ∀ o l r sc a d c s, Ready (.satom o l r sc a d) c s →
    let va := readS c.g a
    (InTeam c va 8 → copyHeld s c [(va, 8)] = false → spoilt s (at_ c va) 8 = false →
      let old := BitVec.ofNat 64 (readLe s (at_ c va) 8)
      ∃ t, exec (.satom o l r sc a d) s = .next t ∧
        WritesScalar (.satom o l r sc a d) c d old { s with mem := t.mem, poison := t.poison } t ∧
        StoredWord (at_ c va) (newAtom64 o old (readS c.g d) (readS c.g (d + 1))) s t) ∧
    ∀ st e, addrCheck s c.t va { bytes := 8, write := true, atomic := true } = some (st, e) →
      ∃ t, exec (.satom o l r sc a d) s = .next t ∧ TakesFault c e c.b.mask va false [] s t

namespace Sys2Proof.Claims

/-- A line consumed once (R150): RC falls by one if it is not 0, and F clears when it reaches 0; a line in metadata error is left. -/
def consumed (l : LineMeta) : LineMeta :=
  if l.err = true ∨ l.rc = 0 then l else { l with rc := l.rc - 1, f := decide (l.rc ≠ 1) }

/-- The metadata of the lines that the lanes touch have each changed by f once, those of the others not at all (R149). -/
def LinesChange (c : Ctx) (va : Nat → DWord) (f : LineMeta → LineMeta) (s t : State) : Prop :=
  ∀ q, ((∃ k, runs c k ∧ at_ c (va k) / 128 = q / 128) → lineAt t q = f (lineAt s q)) ∧
    ((∀ k, runs c k → at_ c (va k) / 128 ≠ q / 128) → lineAt t q = lineAt s q)

/-- The fields of a stage-ring descriptor with the sequence beside it (R197, R401), and the slot of the sequence (R198). -/
def ringSlots (x : DWord) : Nat := field x 24 21 + 1
def ringLines (x : DWord) : Nat := field x 20 13
def ringSeq (x : DWord) : Nat := field x 63 32
def slotStart (x : DWord) : Nat := (field x 12 0 + ringSeq x % ringSlots x * ringLines x) * 128

/-- A lane's address through a ring (R401). -/
def ringOff (c : Ctx) (b a : BitVec 6) (k : Nat) : DWord :=
  0xFF00000000000000 + BitVec.ofNat 64 (slotStart (readS c.g b) + (readV (laneAt c.g k) a).toNat)

/-- A ring that obeys R197 and R198, and lanes' offsets within its slots. -/
def RingOk (c : Ctx) (b a : BitVec 6) : Prop :=
  let x := readS c.g b
  field x 31 25 = 0 ∧ field x 24 21 ≠ 0 ∧ ringLines x ≠ 0 ∧ (field x 12 0 + ringSlots x * ringLines x) * 128 ≤ c.t.alloc ∧
    c.t.alloc ≤ 2 ^ 24 ∧ ∀ k, runs c k → (readV (laneAt c.g k) a).toNat + 4 ≤ ringLines x * 128 ∧ (readV (laneAt c.g k) a).toNat % 4 = 0

/-- How far a full line's sequence lies from the one named: 0 on a line in metadata error (R150). -/
def distance (s : State) (q seq : Nat) : Nat := if (lineAt s q).err = true then 0 else ((lineAt s q).seq.toNat + 16 - seq % 16) % 16

/-- A line filled for a sequence 1 to 7 later than the one named: an over-read (R150). -/
def overRead (s : State) (q seq : Nat) : Prop := (lineSeen s q).f = true ∧ 1 ≤ distance s q seq ∧ distance s q seq ≤ 7

/-- A live line: F = 1 and RC above 0 (R151). -/
def liveAt (s : State) (q : Nat) : Prop := (lineSeen s q).f = true ∧ (lineSeen s q).rc ≠ 0

/-- The instruction faults at the lanes for which a test holds, with the address of the lowest of them (R343). -/
def FaultsWhere (i : Instr) (c : Ctx) (cause : BitVec 8) (bad : Nat → Prop) (va : Nat → DWord) (s : State) : Prop :=
  ∀ j, runs c j → bad j → (∀ k, runs c k → bad k → j ≤ k) →
    ∃ t m, exec i s = .next t ∧ TakesFault c cause m (va j) false [] s t ∧ ∀ k, k < 64 → (has m k = true ↔ runs c k ∧ bad k)

end Sys2Proof.Claims

/-- The waiting and consuming loads in the team window (R150, R401 to R403). Over full lines `LDW` and `LDC` read as `LD` does, and `LDC` consumes
each line once however many lanes read it; with an empty line among them they wait with stall reason full-bit wait. `LDQ` and
`LDQW` do the same through a stage ring with the sequence named: one later by 1 to 7 is the over-read fault, any other a wait. Without
room for their requests they wait with stall reason memory queue, the higher code of the two (R2, R297). -/
def Sys2Proof.Claims.WaitingLoadResults : Prop :=
  (∀ (consumes : Bool) l a b d c s, let i : Instr := if consumes then .ldc l a b d else .ldw l a b d
    Ready i c s → (∀ k, runs c k → InTeam c (lanesOff c b a k) 4) →
    ((∀ k, runs c k → (lineSeen s (at_ c (lanesOff c b a k))).f = true) → Room c s (active c).length → ∃ t, exec i s = .next t ∧
      LoadsFor i c (landing c s d 4 (lanesOff c b a)) { s with lines := t.lines } t ∧
      LinesChange c (lanesOff c b a) (if consumes then consumed else id) s t) ∧
    ((∃ k, runs c k ∧ (lineSeen s (at_ c (lanesOff c b a k))).f = false) → Room c s (active c).length →
      ∃ t, exec i s = .next t ∧ Waits c .fullBit s t) ∧
    (¬Room c s (active c).length → ∃ t, exec i s = .next t ∧ Waits c .memoryQueue s t)) ∧
  ∀ (consumes : Bool) l a b d c s, let i : Instr := if consumes then .ldq l a b d else .ldqw l a b d
    let q := fun k => at_ c (ringOff c b a k)
    let seq := ringSeq (readS c.g b)
    Ready i c s → RingOk c b a →
    ((∀ k, runs c k → (lineSeen s (q k)).f = true ∧ distance s (q k) seq = 0) → Room c s (active c).length → ∃ t, exec i s = .next t ∧
      LoadsFor i c (landing c s d 4 (ringOff c b a)) { s with lines := t.lines } t ∧
      LinesChange c (ringOff c b a) (if consumes then consumed else id) s t) ∧
    ((∀ k, runs c k → ¬overRead s (q k) seq) →
      ((∃ k, runs c k ∧ ((lineSeen s (q k)).f = false ∨ 8 ≤ distance s (q k) seq)) → Room c s (active c).length →
        ∃ t, exec i s = .next t ∧ Waits c .fullBit s t) ∧
      (¬Room c s (active c).length → ∃ t, exec i s = .next t ∧ Waits c .memoryQueue s t)) ∧
    FaultsWhere i c 0x0A (fun k => overRead s (q k) seq) (ringOff c b a) s

/-- The filling and emptying stores in the team window (R151, R152, R462): over lines none of which is live they store each lane's word, and then
`STF` and `STC` set F, RC from `%rcount` and SEQ 0, `STQ` SEQ from the sequence named, `STE` clears F and RC, live line or not; each line
once. A live line under `STF`, `STQ` or `STC` is the live-line fault, and nothing is written. -/
def Sys2Proof.Claims.FillingStoreResults : Prop :=
  (∀ n : Fin 3, ∀ l a b d c s,
    let i : Instr := if n = 0 then .stf l a b d else if n = 1 then .stc l a b d else .ste l a b d
    let q := fun k => at_ c (lanesOff c b a k)
    Ready i c s → (∀ k, runs c k → InTeam c (lanesOff c b a k) 4) →
    ((n ≠ 2 → ∀ j, runs c j → ¬liveAt s (q j)) → copyHeld s c ((active c).map fun k => (lanesOff c b a k, 4)) = false →
      ∃ t, exec i s = .next t ∧ OnlyMoves i c { s with mem := t.mem, poison := t.poison, lines := t.lines } t ∧
        Stored c 4 (lanesOff c b a) (fun k => (readV (laneAt c.g k) d).toNat) s t ∧
        LinesChange c (lanesOff c b a) (fun m => if n ≠ 2 then { f := true, rc := c.g.rcount, seq := 0, err := false }
          else { f := false, rc := 0, seq := if m.err = true then 0 else m.seq, err := false }) s t) ∧
    (n ≠ 2 → FaultsWhere i c 0x09 (fun k => liveAt s (q k)) (lanesOff c b a) s)) ∧
  ∀ l a b d c s, Ready (.stq l a b d) c s → RingOk c b a →
    ((∀ j, runs c j → ¬liveAt s (at_ c (ringOff c b a j))) → copyHeld s c ((active c).map fun k => (ringOff c b a k, 4)) = false →
      ∃ t, exec (.stq l a b d) s = .next t ∧ OnlyMoves (.stq l a b d) c { s with mem := t.mem, poison := t.poison, lines := t.lines } t ∧
        Stored c 4 (ringOff c b a) (fun k => (readV (laneAt c.g k) d).toNat) s t ∧
        LinesChange c (ringOff c b a) (fun _ =>
          { f := true, rc := c.g.rcount, seq := BitVec.ofNat 4 (ringSeq (readS c.g b)), err := false }) s t) ∧
    FaultsWhere (.stq l a b d) c 0x09 (fun k => liveAt s (at_ c (ringOff c b a k))) (ringOff c b a) s

/-- The loads that wait for a word to be filled, and the stores that fill it. That an access is performed at its issue is the model's
choice (log 5). -/
def Obligations.WaitingLoadAndFillingStoreResults : Prop :=
  WaitingLoadResults ∧ FillingStoreResults

/-- `FENCE` only moves its bundle on: accesses are performed as they issue (R163, R387; log 5). `PREF` does the same, and changes nothing
but what the core's L1 data cache holds (R142, R435). `CFLUSH` does the same for lines of the team window and for a line of an ordinary page with nothing to write back (R361); it takes a
tombstone away (R153), and writes a counted line back to memory, which ends its counting and is recorded as an under-read of the chip in whose way it lay (R144, R155). -/
def Obligations.FencePrefetchFlush : Prop :=
  (∀ sc k c s, Ready (.fence sc k) c s → ∃ t, exec (.fence sc k) s = .next t ∧ OnlyMoves (.fence sc k) c s t) ∧
  (∀ a b c s, Ready (.pref a b) c s → ∃ t, exec (.pref a b) s = .next t ∧ OnlyMoves (.pref a b) c { s with cores := t.cores } t ∧
    t.cores.map (fun k => { k with l1 := [] }) = s.cores.map fun k => { k with l1 := [] }) ∧
  (∀ a b c s, Ready (.cflush a b) c s → (∀ k, runs c k → InTeam c (lanesOff c b a k) 1) →
    ∃ t, exec (.cflush a b) s = .next t ∧ OnlyMoves (.cflush a b) c s t) ∧
  ∀ a b c s j l, Ready (.cflush a b) c s → j < 64 → j < c.g.lanes.length → c.b.mask = bit64 j →
    addrCheck s c.t (lanesOff c b a j) { bytes := 1 } = none → topByte (lanesOff c b a j) = 0 →
    translate s c.t.vc (lanesOff c b a j) (teamDie c.t) = some l → leafBk l.entry = false → leafH l.entry = false →
    let pa := leafAddr l (lanesOff c b a j)
    (l2At s pa).prot = none →
    ((l2At s pa).counted = none → ∃ t, exec (.cflush a b) s = .next t ∧ OnlyMoves (.cflush a b) c { s with l2 := t.l2 } t ∧
      ((l2At s pa).tomb = false → t.l2 = s.l2) ∧ (leafMt l.entry < 2 → (l2At t pa).tomb = false ∧ (l2At t pa).counted = none ∧
        (l2At t pa).prot = none ∧ (l2At t pa).dirty = (l2At s pa).dirty)) ∧
    ∀ rc, leafMt l.entry < 2 → (l2At s pa).counted = some rc →
      ∃ t, exec (.cflush a b) s = .next t ∧ (l2At t pa).counted = none ∧
        t.owed = s.owed ++ [{ time := s.time, vc := (l2At s pa).vc, type := 5, fields := [(9, rc.toNat), (16, pa / 128 * 128)] }] ∧
        ((l2At s pa).vc < s.vchips.length → (vchip t (l2At s pa).vc).memUr = true) ∧
        (∀ k, k < 128 → memRead t.mem (hbmAt (pa / 128 * 128) + k) = memRead s.mem (key .counted (pa / 128 * 128) + k)) ∧
        ∀ q, (q < hbmAt (pa / 128 * 128) ∨ hbmAt (pa / 128 * 128) + 128 ≤ q) →
          (q < key .counted (pa / 128 * 128) ∨ key .counted (pa / 128 * 128) + 128 ≤ q) → memRead t.mem q = memRead s.mem q

/-! ## Barriers and spans -/

/-- `BAR`, `BARA`, `BARW` and `BARX` act once for the group, on the barrier's E, A, P, ARR and WD, as R31 says: a participant that has not
arrived in this phase arrives, and completes it if it is the last, which releases every group of the team that waits on it; `BAR`
then holds a group whose phase is not complete at the next instruction (R353); a group that has arrived already, a `BARW`, and
a non-participant's `BAR` wait for the current phase, unissued, but not while E is 0 (R352); `BARX` withdraws. -/
def Obligations.BarrierResults : Prop :=
  (∀ wait : Bool, ∀ b c s x, let i : Instr := if wait then .bar b else .bara b
    Meets i c s → c.t.barriers[b.toNat]? = some x → takesPart c.t c.g b.toNat = true →
    let y := arrived x c.g.num
    (x.arr.getLsbD c.g.num = false → ∃ t, exec i s = .next t ∧ OnlyTeams s t ∧ BarrierIs c b.toNat (afterCheck y) s t ∧
      OthersAt c b.toNat (y.e ≤ y.a) s t ∧
      (wait = true → y.a < y.e → HeldAfter i (metCtx c) (metCtx c).g (.arrived b.toNat (executing c)) t) ∧
      (wait = false ∨ y.e ≤ y.a → GoesOn i (metCtx c) t)) ∧
    (x.arr.getLsbD c.g.num = true → ∃ t, exec i s = .next t ∧ WaitsPhase (metCtx c) b.toNat s t)) ∧
  (∀ b c s x, Meets (.bar b) c s → c.t.barriers[b.toNat]? = some x → takesPart c.t c.g b.toNat = false →
    (x.e = 0 ∨ c.g.wait = .phase b.toNat true → ∃ t, exec (.bar b) s = .next t ∧ MovesAs (.bar b) (metCtx c) s t) ∧
    (x.e ≠ 0 → c.g.wait ≠ .phase b.toNat true → ∃ t, exec (.bar b) s = .next t ∧ WaitsPhase (metCtx c) b.toNat s t)) ∧
  (∀ b c s, Meets (.bara b) c s → takesPart c.t c.g b.toNat = false →
    ∃ t, exec (.bara b) s = .next t ∧ MovesAs (.bara b) (metCtx c) s t) ∧
  (∀ b c s x, Meets (.barw b) c s → c.t.barriers[b.toNat]? = some x →
    (x.e = 0 ∨ c.g.wait = .phase b.toNat true → ∃ t, exec (.barw b) s = .next t ∧ MovesAs (.barw b) (metCtx c) s t) ∧
    (x.e ≠ 0 → c.g.wait ≠ .phase b.toNat true → ∃ t, exec (.barw b) s = .next t ∧ WaitsPhase (metCtx c) b.toNat s t)) ∧
  ∀ b c s x, Meets (.barx b) c s → c.t.barriers[b.toNat]? = some x →
    (takesPart c.t c.g b.toNat = true → ∃ t, exec (.barx b) s = .next t ∧ OnlyTeams s t ∧
      BarrierIs c b.toNat (afterCheck (withdrawn x c.g.num)) s t ∧
      OthersAt c b.toNat ((withdrawn x c.g.num).e ≤ (withdrawn x c.g.num).a) s t ∧ GoesOn (.barx b) (metCtx c) t) ∧
    (takesPart c.t c.g b.toNat = false → ∃ t, exec (.barx b) s = .next t ∧ MovesAs (.barx b) (metCtx c) s t)

namespace Sys2Proof.Claims

/-- The issuing team's place in its span k, and how it stands there. -/
def MemberIs (c : Ctx) (s : State) (k : Nat) (sp : Span) (m : MemberState) : Prop :=
  c.t.span = some k ∧ s.spans[k]? = some sp ∧ sp.members[c.t.rank]? = some m

/-- The issuing group is the only one of its team that has not retired. -/
def Alone (c : Ctx) (s : State) : Prop :=
  c.g.retired = false ∧ ∀ m g, s.groups[m]? = some g → m ≠ c.b.group → g.team = c.g.team → g.retired = true

/-- Nothing but groups, teams and spans has changed; of the teams, the issuing one is no longer idempotent (R291). -/
def SpanStepOnly (c : Ctx) (s t : State) : Prop :=
  t = { s with groups := t.groups, teams := t.teams, spans := t.spans, vchips := t.vchips } ∧
  t.teams[c.g.team]? = some { c.t with idem := false } ∧ (∀ m, m ≠ c.g.team → t.teams[m]? = s.teams[m]?)

end Sys2Proof.Claims

/-- `SPANJ`, `SPANX` and `SPANB` (R36, R38, R457). In a team outside a span, or that has left it, they fault. Otherwise the execution is
counted, the idempotent flag withdrawn, and the group held at the next instruction until every live group of the team has executed
it; then, stated for a team with one live group and with no access waiting, `SPANJ` attaches the member and lets the group go on,
`SPANB` arrives for it and waits for the others, and after `SPANX` the detachment is under way; it takes place once every access of a
peer that has reached the member has been performed. A second `SPANJ` has no effect. -/
def Obligations.SpanStepResults : Prop :=
  (∀ i c (s : State), i = .spanj ∨ i = .spanx ∨ i = .spanb → Meets i c s →
    ((c.t.span = none ∨ ∃ k sp m, MemberIs c s k sp m ∧ (m = .detached ∨ m = .released)) →
      ∃ t, exec i s = .next t ∧ TakesFault (metCtx c) 0x0E (executing c) 0 false [] (metState c s) t) ∧
    ((∃ k sp m, MemberIs c s k sp m ∧ (m = .joining ∨ m = .attached ∧ i ≠ .spanj)) →
      (∃ m g, m ≠ c.b.group ∧ s.groups[m]? = some g ∧ g.team = c.g.team ∧ g.retired = false ∧
        g.didJ = false ∧ g.didX = false ∧ g.didB = false) →
      ∃ t, exec i s = .next t ∧ t.spans = s.spans ∧ SpanStepOnly c s t ∧
        (i = .spanj → HeldAfter i (metCtx c) { (metCtx c).g with didJ := true } (.spanStep 0 (executing c)) t) ∧
        (i = .spanx → HeldAfter i (metCtx c) { (metCtx c).g with didX := true } (.spanStep 1 (executing c)) t) ∧
        (i = .spanb → HeldAfter i (metCtx c) { (metCtx c).g with didB := true } (.spanStep 2 (executing c)) t))) ∧
  (∀ c (s : State) k sp, Meets .spanj c s → MemberIs c s k sp .attached →
    ∃ t, exec .spanj s = .next t ∧ SpanStepOnly c s t ∧ t.spans = s.spans ∧ GoesOn .spanj (metCtx c) t) ∧
  (∀ c (s : State) k sp, Meets .spanj c s → MemberIs c s k sp .joining → Alone c s → c.g.didB = false →
    (∀ (m : Nat) (g : Group), s.groups[m]? = some g → g.reqs = []) →
    ∃ t, exec .spanj s = .next t ∧ SpanStepOnly c s t ∧
      t.spans[k]? = some { sp with members := sp.members.set c.t.rank .attached } ∧
      ∃ g', t.groups[c.b.group]? = some g' ∧ g'.didJ = false ∧ g'.wait = .none ∧ g'.s = c.g.s ∧
        LanesMove .spanj (metCtx c) g') ∧
  (∀ c (s : State) k sp, Meets .spanx c s → MemberIs c s k sp .attached → c.g.didB = false → Alone c s →
    ∃ t, exec .spanx s = .next t ∧ t.spans = s.spans ∧ SpanStepOnly c s t ∧
      HeldAfter .spanx (metCtx c) { (metCtx c).g with didX := true } (.spanStep 1 (executing c)) t ∧
      ∀ u, t.teams[c.g.team]? = some u → detaching t c.g.team u = true) ∧
  (∀ c (s : State) k sp, Meets .spanb c s → MemberIs c s k sp .attached → Alone c s → sp.arrived[c.t.rank]? = some false →
    (∃ r, r ≠ c.t.rank ∧ r < sp.members.length ∧ notDetached sp r = true ∧ sp.arrived[r]? = some false) →
    ∃ t, exec .spanb s = .next t ∧ SpanStepOnly c s t ∧
      t.spans[k]? = some { sp with arrived := sp.arrived.set c.t.rank true } ∧
      HeldAfter .spanb (metCtx c) { (metCtx c).g with didB := true } (.spanStep 2 (executing c)) t) ∧
  ∀ n u k sp (s : State), s.teams[n]? = some u → u.span = some k → s.spans[k]? = some sp → detaching s n u = true →
    (heldAtMember s u = true → exec (.spanDetachment n) s = .next s) ∧
    (heldAtMember s u = false → (∀ (m : Nat) (g : Group), s.groups[m]? = some g → g.reqs = []) →
      (∃ r, r ≠ u.rank ∧ r < sp.members.length ∧ notDetached sp r = true ∧ sp.arrived[r]? ≠ some true) →
      ∃ t, exec (.spanDetachment n) s = .next t ∧ t = { s with groups := t.groups, spans := t.spans } ∧
        t.spans[k]? = some { sp with members := sp.members.set u.rank .detached, arrived := sp.arrived.set u.rank false } ∧
        ∀ (m : Nat) (g : Group), s.groups[m]? = some g → ∃ g' : Group, t.groups[m]? = some g' ∧
          (∀ x, g.team = n → g.retired = false → g.wait = .spanStep 1 x → LetGo x { g with didX := false } g') ∧
          (g.team = n → g.retired = true ∨ (∀ x, g.wait ≠ .spanStep 1 x) → g' = { g with didX := false }) ∧
          (g.team ≠ n → g' = g))

/-! ## The copy engine -/

namespace Sys2Proof.Claims

/-- Core n of t is x, and every other core is as in s. -/
def CoreIs (n : Nat) (x : Core) (s t : State) : Prop :=
  n < s.cores.length ∧ t.cores.length = s.cores.length ∧ t.cores[n]? = some x ∧ ∀ m, m ≠ n → t.cores[m]? = s.cores[m]?

/-- The same, but for what the L1 TLBs of the cores hold (R141). -/
def CoreIsButTlb (n : Nat) (x : Core) (s t : State) : Prop :=
  n < s.cores.length ∧ t.cores.length = s.cores.length ∧ (∃ y, t.cores[n]? = some { x with tlb1 := y }) ∧
    ∀ m, m ≠ n → ∃ y, t.cores[m]? = (s.cores[m]?).map fun k => { k with tlb1 := y }

/-- The entry of a copy just issued (R193, R194, R364). -/
def newCopy (c : Ctx) (fn : BitVec 2) (rec : List Byte) (b t : BitVec 6) : CopyEntry :=
  { number := c.g.cpys, record := rec, sb := readS c.g b, st := t, fn := fn, sealed := false, batch := 0, done := false }

/-- Its slice, which has not started (R190, R191). -/
def newSlice (c : Ctx) (fn : BitVec 2) (rec : List Byte) (b : BitVec 6) : CopyJob :=
  { team := c.g.team, group := c.b.group, number := c.g.cpys, fn := fn, started := false, dm := (shapeOf rec).dm,
    rc := BitVec.ofNat 6 (shapeOf rec).rc,
    seq := if (shapeOf rec).dm % 2 = 1 then BitVec.ofNat 4 ((readS c.g b).toNat % 2 ^ 32) else 0, todo := [] }

/-- The group with one more copy: its token register, unless it is s0, is named by the copy now and by nothing else (R194). -/
def withCopy (c : Ctx) (e : CopyEntry) (es : List CopyEntry) : Group :=
  { c.g with cpys := c.g.cpys + 1, copies := es,
             tokens := if e.st = 0 then c.g.tokens else (c.g.tokens.filter fun x => x.1 != e.st) ++ [(e.st, .unsealed)] }

/-- The three forms of `CPY`, with their function values (R364). -/
def IsCopy (i : Instr) (fn : BitVec 2) (b a t : BitVec 6) : Prop :=
  ∃ l, (i = .cpyIn l b a t ∧ fn = 0) ∨ (i = .cpyOut l b a t ∧ fn = 1) ∨ (i = .cpyLocal l b a t ∧ fn = 2)

end Sys2Proof.Claims

/-- `CPY` (R180, R187, R190, R191, R194, R364), its record stated in the team window: a record that fails a check faults with no effect;
otherwise the copy is added to the group with the record read at issue, its token register becomes pending unless 16 copies are not yet
complete, when the group waits; and where another copy group of the core has still to join the collective, its slice waits, with nothing
else changed. `CSEAL` seals every unsealed copy in the next batch (R193, R366). The lanes and the address of a fault whose rule names none
are a reading of the model (log 14). Readings of R191 and R194: log 23. -/
def Obligations.CopyIssueResults : Prop :=
  (∀ i fn b a u c s, IsCopy i fn b a u → Ready i c s →
    let sa := readS c.g a
    let rec_ := readN s (at_ c sa) 64
    (∀ e, recordCause s c.t sa = e → e ≠ 0 → ∃ t, exec i s = .next t ∧ TakesFault c e c.b.mask sa false [] s t) ∧
    (InTeam c sa 64 → spoilt s (at_ c sa) 64 = false →
      (∀ e va, (shapeOf rec_).check fn (readS c.g b) c.t.alloc = some (e, va) →
        ∃ t, exec i s = .next t ∧ TakesFault c e c.b.mask va false [] s t) ∧
      ((shapeOf rec_).check fn (readS c.g b) c.t.alloc = none →
        (16 ≤ c.g.copies.length → ∃ t, exec i s = .next t ∧ Elsewhere c.b.group s t ∧ ∃ g', t.groups[c.b.group]? = some g' ∧
          g'.lanes = c.g.lanes ∧ g'.s = c.g.s ∧ g'.stall = .token) ∧
        (c.g.copies.length < 16 → otherToken c.g u = false →
          (∃ t g', exec i s = .next t ∧ t.groups[c.b.group]? = some g' ∧ LanesMove i c g' ∧
            GroupKept (withCopy c (newCopy c fn rec_ b u) g'.copies) g' ∧
            g'.copies.map (fun e => { e with done := false }) =
              (c.g.copies ++ [newCopy c fn rec_ b u]).map fun e => { e with done := false }) ∧
          (c.t.kernel.roles = true → (coreAt s c.g.core).jobs = [] → c.g.core < s.cores.length → fn ≠ 1 →
            (∃ m g, s.groups[m]? = some g ∧ m ≠ c.b.group ∧ g.team = c.g.team ∧ g.core = c.g.core ∧ g.role = .copy ∧
              g.retired = false ∧ g.cpys.toNat ≤ c.g.cpys.toNat) →
            ∃ t, exec i s = .next t ∧ Elsewhere c.b.group { s with cores := t.cores } t ∧
              CoreIs c.g.core { coreAt s c.g.core with jobs := [newSlice c fn rec_ b] } s t ∧
              ∃ g', t.groups[c.b.group]? = some g' ∧ LanesMove i c g' ∧
                GroupKept (withCopy c (newCopy c fn rec_ b u) (c.g.copies ++ [newCopy c fn rec_ b u])) g'))))) ∧
  ∀ c s, Ready .cseal c s → ∃ t n, exec .cseal s = .next t ∧
    n = (if c.g.batch.toNat = 2 ^ 32 - 1 then 1 else c.g.batch + 1) ∧
    GroupBecomes .cseal c { c.g with
      batch := n
      copies := c.g.copies.map fun e => if e.sealed = true then e else { e with sealed := true, batch := n }
      tokens := c.g.tokens.map fun e => if e.2 = .unsealed then (e.1, .batch n) else e } s t

namespace Sys2Proof.Claims

/-- A started slice is the only one of its core, and its next bytes are those from address a on, to be followed by others on later lines. -/
def NextBytes (s : State) (core : Nat) (j : CopyJob) (tm : Team) (a : DWord) (bs : List Byte) (rest : List (DWord × Byte × Nat)) : Prop :=
  core < s.cores.length ∧ (coreAt s core).jobs = [j] ∧ j.started = true ∧ s.teams[j.team]? = some tm ∧ rest ≠ [] ∧
  j.todo = itemsAt a bs 0 ++ rest ∧ 0 < bs.length ∧ a.toNat % 128 + bs.length ≤ 128 ∧
  ∀ x, x ∈ rest → x.1.toNat / 128 ≠ a.toNat / 128

end Sys2Proof.Claims

/-- The copy engine's events. A line filled in the scratchpad gets its bytes and F = 1, the copy's RC and SEQ, and every other byte stays;
a live line is refused, kept as KIND 1 for the token of a copy that names one, with nothing written (R189, R196). A line of a copy out is
stored to its tensor, stated for bank pages, for host pages that are not protected, and for no arrival counter. A batch whose copies are all done gives its token registers its number, or ERR with
the first KIND (R193, R195). Readings of R191 and R194: log 23. -/
def Obligations.CopyEngineEvents : Prop :=
  (∀ s core j tm a bs rest, NextBytes s core j tm a bs rest → j.fn ≠ 1 → topByte a = 0xFF → canonical a = true →
    field a 23 0 + bs.length ≤ tm.alloc →
    (tm.coreB ≠ none → tm.alloc / 2 % 128 = 0) →
    let q := teamKey tm (field a 23 0 - a.toNat % 128)
    (lineLive s q = false → ∃ t, exec (.copyLineFill core) s = .next t ∧
      t = { s with mem := t.mem, poison := t.poison, lines := t.lines, cores := t.cores } ∧
      CoreIs core { coreAt s core with jobs := [{ j with todo := rest }] } s t ∧
      readN t (q + a.toNat % 128) bs.length = bs ∧
      (∀ k, k < q + a.toNat % 128 ∨ q + a.toNat % 128 + bs.length ≤ k → memRead t.mem k = memRead s.mem k) ∧
      lineAt t q = { f := true, rc := j.rc, seq := j.seq, err := false } ∧ ∀ k, k / 128 ≠ q / 128 → lineAt t k = lineAt s k) ∧
    (lineLive s q = true → typeOn (vchip s tm.vc).stream 2 = false → ∃ t, exec (.copyLineFill core) s = .next t ∧
      t = { s with groups := t.groups, cores := t.cores } ∧ CoreIs core { coreAt s core with jobs := [{ j with todo := rest }] } s t ∧
      ∀ m : Nat, t.groups[m]? = (s.groups[m]?).map fun g =>
        if m = j.group ∧ (∃ e ∈ g.copies, e.number = j.number ∧ e.st ≠ 0) then { g with copyErrs := g.copyErrs ++ [(j.number, 1)] } else g)) ∧
  (∀ s core j tm a bs rest l, NextBytes s core j tm a bs rest → j.fn = 1 → a.toNat % 128 = 0 → canonical a = true → topByte a = 0 →
    (∀ u, u ∈ s.teams → u.counters = []) → translate s tm.vc a (teamDie tm) = some l →
    (leafBk l.entry = true ∨ (leafH l.entry = true ∧ leafPr l.entry = false ∧ (l2At s (2 ^ 52 + leafAddr l a)).prot = none ∧ j.rc = 0)) →
    protectionFails s tm.vc l.entry { bytes := 128, write := true } = false →
    ∃ t, exec (.copyOutLineWrite core) s = .next t ∧
      t = { s with mem := t.mem, poison := t.poison, tlb := t.tlb, cores := t.cores } ∧
      CoreIsButTlb core { coreAt s core with jobs := [{ j with todo := rest }] } s t ∧
      let q := pagedKey s tm.vc l.entry (leafAddr l a)
      readN t q bs.length = bs ∧ ∀ k, k < q ∨ q + bs.length ≤ k → memRead t.mem k = memRead s.mem k) ∧
  ∀ s n g u b kind, s.groups[n]? = some g → s.teams[g.team]? = some u → (coreAt s g.core).jobs = [] →
    typeOn (vchip s u.vc).stream 12 = false → oldestBatch g ≠ [] → (∀ e, e ∈ oldestBatch g → e.done = true ∧ e.batch = b) →
    kind = (match g.copyErrs.find? fun x => (oldestBatch g).any fun e => e.number == x.1 with
      | some x => x.2
      | none => 0) → kind < 256 → 
    ∃ t g', exec (.batchComplete n) s = .next t ∧ Elsewhere n s t ∧ t.groups[n]? = some g' ∧
      g' = { g with s := g'.s, spois := g'.spois, errTok := g'.errTok, copies := g'.copies, copyErrs := g'.copyErrs, tokens := g'.tokens } ∧
      (∀ e, e ∈ g'.copies ↔ e ∈ g.copies ∧ ∀ x, x ∈ oldestBatch g → x.number ≠ e.number) ∧
      (∀ e, e ∈ g'.tokens ↔ e ∈ g.tokens ∧ e.2 ≠ .batch b) ∧
      ∀ r : BitVec 6, if (r, TokenOf.batch b) ∈ g.tokens ∧ r ≠ 0
        then (readS g' r).toNat = b.toNat + (if kind = 0 then 0 else 2 ^ 48 * kind + 2 ^ 63) ∧ g'.errTok.getLsbD r.toNat = decide (kind ≠ 0)
        else readS g' r = readS g r ∧ g'.errTok.getLsbD r.toNat = g.errTok.getLsbD r.toNat

/-! ## The matrix engine -/

namespace Sys2Proof.Claims

/-- The engine of the issuing group's core. -/
def engineOf (c : Ctx) (s : State) : Engine := (coreAt s c.g.core).engine

/-- The instruction was carried out, its bundle moved on, and the engine of its core has become e. -/
def EngineBecomes (i : Instr) (c : Ctx) (e : Engine) (s t : State) : Prop :=
  OnlyMoves i c { s with cores := t.cores } t ∧ CoreIs c.g.core { coreAt s c.g.core with engine := e } s t

/-- A claim of `MRELS` (R214). -/
def release (c : Ctx) : Claim := { group := c.b.group, epi := false, block := [], scl := [], bias := [] }

/-- A claim of an epilogue without vectors: scale 1.0 and bias 0 (R215). -/
def plainEpilogue (c : Ctx) (b : List Byte) : Claim :=
  { group := c.b.group, epi := true, block := b, scl := List.replicate 128 0x3F800000, bias := List.replicate 128 0 }

end Sys2Proof.Claims

/-- `MMA`, `MRELS`, `EPI` and `MSTAT` at issue. `MMA` faults on an illegal block, an odd line number and a line beyond the allocation, in
this order, waits while four are queued, and else joins the queue (R206; tile mode). `MRELS` and `EPI` wait while four claims are
outstanding and else make a claim (R214, R217, R412; `EPI` stated without scale and bias vectors). `MSTAT` writes the state of R221, marks
the register if ERR is set, and clears the error. The lanes and the address of a fault whose rule names none are a reading of the model
(log 14). Readings of R206 and R210: log 23. -/
def Obligations.MatrixIssueResults : Prop :=
  (∀ l a c s, Ready (.mma l a) c s → c.g.core < s.cores.length →
    let b := blockBytes c.g a
    let p := mmaBlock b
    let e := engineOf c s
    let bad := p.illegal (c.vc.features.getLsbD 2) e.latch.isSome
    (bad = true → ∃ t, exec (.mma l a) s = .next t ∧ TakesFault c 0x01 c.b.mask 0 false [] s t) ∧
    (bad = false → p.odd = true → ∃ t, exec (.mma l a) s = .next t ∧ TakesFault c 0x07 c.b.mask 0 false [] s t) ∧
    (bad = false → p.odd = false → p.beyond c.t.alloc = true →
      ∃ t, exec (.mma l a) s = .next t ∧ TakesFault c 0x08 c.b.mask 0 false [] s t) ∧
    (bad = false → p.odd = false → p.beyond c.t.alloc = false →
      (4 ≤ e.queue.length → ∃ t, exec (.mma l a) s = .next t ∧ Waits c .wrongEngine s t) ∧
      (e.queue.length < 4 → p.ix = false → ∃ t, exec (.mma l a) s = .next t ∧ EngineBecomes (.mma l a) c
        { e with queue := e.queue ++ [{ group := c.b.group, block := b, gather := none, poisoned := none }] } s t))) ∧
  (∀ l c s, Ready (.mrels l) c s → c.g.core < s.cores.length →
    (4 ≤ (engineOf c s).claims.length → ∃ t, exec (.mrels l) s = .next t ∧ Waits c .wrongEngine s t) ∧
    ((engineOf c s).claims.length < 4 → ∃ t, exec (.mrels l) s = .next t ∧ EngineBecomes (.mrels l) c
      { engineOf c s with claims := (engineOf c s).claims ++ [release c] } s t)) ∧
  (∀ l a c s, Ready (.epi l a) c s → c.g.core < s.cores.length →
    let b := blockBytes c.g a
    let p := epiBlock b
    (∀ e va, p.check c.t.alloc = some (e, va) → ∃ t, exec (.epi l a) s = .next t ∧ TakesFault c e c.b.mask va false [] s t) ∧
    (p.check c.t.alloc = none → 4 ≤ (engineOf c s).claims.length → ∃ t, exec (.epi l a) s = .next t ∧ Waits c .wrongEngine s t) ∧
    (p.check c.t.alloc = none → (engineOf c s).claims.length < 4 → p.scl = 0 → p.bias = 0 → topByte p.dest = 0xFF → p.ofmt ≠ 4 →
      ∃ t, exec (.epi l a) s = .next t ∧ EngineBecomes (.epi l a) c { engineOf c s with
        claims := (engineOf c s).claims ++ [plainEpilogue c b] } s t)) ∧
  ∀ l d c s, Ready (.mstat l d) c s → c.g.core < s.cores.length →
    let e := engineOf c s
    e.head < 4 → e.tail < 4 → e.closed < 8 → e.claims.length < 8 → e.err < 256 →
    ∃ t x, exec (.mstat l d) s = .next t ∧ Elsewhere c.b.group { s with cores := t.cores } t ∧
      CoreIs c.g.core { coreAt s c.g.core with engine := { e with err := 0 } } s t ∧
      x.toNat = e.head + 4 * e.tail + 16 * e.closed + (if e.opened = true then 2 ^ 7 else 0) +
        (if e.running ≠ none ∨ e.queue ≠ [] ∨ e.jobRunning = true then 2 ^ 8 else 0) + 2 ^ 9 * e.claims.length +
        2 ^ 16 * e.freed.toNat + (if e.err = 0 then 0 else 2 ^ 48 * e.err + 2 ^ 63) ∧
      ∃ g', t.groups[c.b.group]? = some g' ∧ readS g' d = x ∧ (∀ r, r ≠ d → readS g' r = readS c.g r) ∧
        (∀ r, g'.errTok.getLsbD r = if r = d.toNat then decide (e.err ≠ 0) else c.g.errTok.getLsbD r) ∧
        GroupKept { c.g with s := g'.s, spois := g'.spois, errTok := g'.errTok } g' ∧ LanesMove (.mstat l d) c g'

namespace Sys2Proof.Claims

/-- Nothing but one engine has changed, which is e now, and memory as stated elsewhere. -/
def OnlyEngine (core : Nat) (e : Engine) (s t : State) : Prop :=
  t = { s with cores := t.cores } ∧ CoreIs core { coreAt s core with engine := e } s t

/-- The metadata of a line that one consumer has lowered (R150): RC falls by one unless it is 0, F clears when it reaches 0, SEQ stays. -/
def loweredOnce (l : LineMeta) : LineMeta := if l.rc = 0 then l else { l with rc := l.rc - 1, f := decide (l.rc ≠ 1) }

/-- The lines that an `MMA` with its A rows or tile lowers when it starts (R204, R208). -/
def LowersLine (p : MmaBlock) (q : Nat) : Prop := (p.cna = true ∧ q ∈ p.aLines) ∨ (p.cnb = true ∧ q ∈ p.bLines)

end Sys2Proof.Claims

/-- The matrix engine's events, stated for operands without poison, in tile mode or with their rows gathered. `MMA_START` takes the oldest
`MMA` of the queue once its lines are full and a slot is free: it fetches both operands with their scale bytes (or keeps the B latch),
lowers each line it consumes once and no other, clears the head slot unless it accumulates into an open one, and opens it (R208 to R212).
`MMA_COMPLETE` adds the product element by element, or nothing for a poisoned one, and closes the slot in a closing mode (R130, R212);
the flags of all its elements go to its issuer. `MRELS_FREE` and `EPILOGUE_JOB_COMPLETE` free the tail slot in claim
order (R214); a job starts once its slot is closed (R218). Readings of R203, R206 and R210: log 23. -/
def Obligations.MatrixEngineEvents : Prop :=
  (∀ s core tm j rest, core < s.cores.length →
    let e := (coreAt s core).engine
    let p := mmaBlock j.block
    heldEngine s core = some (e, tm) → e.queue = j :: rest → (p.ix = false ↔ j.gather = none) → e.running = none → (e.opened = true ∨ e.closed < 4) →
    (∀ q, q ∈ p.aLines ++ p.bLines → (lineSeen s (teamKey tm (q * 128))).f = true ∧ linePoisoned s tm q = false) →
    (∀ q r, q ∈ p.aLines ++ p.bLines → r ∈ p.aLines ++ p.bLines → teamKey tm (q * 128) / 128 = teamKey tm (r * 128) / 128 → q = r) →
    j.poisoned = none →
    let fresh : Prop := p.rm = 0 ∨ p.rm = 3 ∨ e.opened = false
    ∃ t run, exec (.mmaStart core) s = .next t ∧ t = { s with mem := t.mem, poison := t.poison, lines := t.lines, cores := t.cores } ∧
      CoreIs core { coreAt s core with engine := { e with
        queue := rest, running := some run, opened := true, latch := if p.br then e.latch else some (fetchB s tm p) } } s t ∧
      run.group = j.group ∧ run.rm.toNat = p.rm ∧ run.poisoned = false ∧
      (j.gather = none → run.a = tileValues (readAlloc s tm (p.aline * 128) (p.pa * 1024)) p.pa ∧
        run.sa = scaleBytes p.af (readAlloc s tm (p.ascl * 128) 256)) ∧
      (∀ rows scales, j.gather = some (rows, scales) → run.a = rows ∧ run.sa = scales) ∧
      (p.br = false → run.b = tileValues (readAlloc s tm (p.bline * 128) (p.pb * 1024)) p.pb ∧
        run.sb = scaleBytes p.bf (readAlloc s tm (p.bscl * 128) 256)) ∧
      (∀ b, p.br = true → e.latch = some b →
        run.b = tileValues b.planes (if b.bw = true then 4 else 8) ∧ run.sb = scaleBytes b.bf b.scales) ∧
      (∀ k, ((∃ q, LowersLine p q ∧ teamKey tm (q * 128) / 128 = k / 128) → lineAt t k = loweredOnce (lineAt s k)) ∧
        ((∀ q, LowersLine p q → teamKey tm (q * 128) / 128 ≠ k / 128) → lineAt t k = lineAt s k)) ∧
      (∀ u, u ∈ t.poison ↔ u ∈ s.poison ∧ ¬(fresh ∧ slotKey core e.head ≤ 8 * u ∧ 8 * u < slotKey core e.head + 65536)) ∧
      (∀ n, n < 16384 → (fresh → slotElement t core e.head n = 0) ∧ (¬fresh → slotElement t core e.head n = slotElement s core e.head n)) ∧
      ∀ q, (q < slotKey core e.head ∨ slotKey core e.head + 65536 ≤ q) → memRead t.mem q = memRead s.mem q) ∧
  (∀ s core r, core < s.cores.length → (coreAt s core).engine.running = some r →
    let e := (coreAt s core).engine
    let element (n : Nat) := mmaElement r (slotElement s core e.head n) (n / 128) (n % 128)
    let e' : Engine := if 2 ≤ r.rm.toNat
      then { e with running := none, opened := false, closed := e.closed + 1, head := (e.head + 1) % 4 } else { e with running := none }
    (r.poisoned = true → ∃ t, exec (.mmaComplete core) s = .next t ∧ OnlyEngine core e' s t) ∧
    (r.poisoned = false → ∃ t, exec (.mmaComplete core) s = .next t ∧
      t = { s with mem := t.mem, poison := t.poison, groups := t.groups, cores := t.cores } ∧
      CoreIs core { coreAt s core with engine := e' } s t ∧
      (∀ n, n < 16384 → slotElement t core e.head n = (element n).1 % 2 ^ 32) ∧
      (∀ q, (q < slotKey core e.head ∨ slotKey core e.head + 65536 ≤ q) → memRead t.mem q = memRead s.mem q) ∧
      ∃ f : BitVec 3, (∀ i, f.getLsbD i = true ↔ ∃ n, n < 16384 ∧ (element n).2.getLsbD i = true) ∧ ∀ (m : Nat) g, s.groups[m]? = some g →
        t.groups[m]? = some (if m = r.group ∧ g.retired = false then { g with mflags := g.mflags ||| f } else g))) ∧
  (∀ s core k ks, core < s.cores.length → (coreAt s core).engine.claims = k :: ks →
    let e := (coreAt s core).engine
    (k.epi = false → 0 < e.closed → ∃ t, exec (.mrelsFree core) s = .next t ∧ OnlyEngine core
      { e with claims := ks, tail := (e.tail + 1) % 4, closed := e.closed - 1, freed := e.freed + 1, jobRunning := false } s t) ∧
    (k.epi = true → 0 < e.closed → ∃ t, exec (.epilogueJobStart core) s = .next t ∧ OnlyEngine core { e with jobRunning := true } s t) ∧
    (k.epi = true → e.jobRunning = true → ∀ tm, heldEngine s core = some (e, tm) →
      ∃ t, exec (.epilogueJobComplete core) s = .next t ∧ (coreAt t core).engine.claims = ks ∧
        (coreAt t core).engine.tail = (e.tail + 1) % 4 ∧ (coreAt t core).engine.closed = e.closed - 1 ∧
        (coreAt t core).engine.freed = e.freed + 1 ∧ (coreAt t core).engine.jobRunning = false ∧
        let p := epiBlock k.block
        let va := fun n => p.dest + BitVec.ofNat 64 (n / 128 * p.dstr + n % 128 * 4)
        (p.ofmt = 0 → topByte p.dest = 0xFF → canonical p.dest = true → p.dest.toNat % 4 = 0 → p.dstr % 4 = 0 → 512 ≤ p.dstr →
          field p.dest 23 0 + 127 * p.dstr + 512 ≤ tm.alloc → tm.alloc ≤ 2 ^ 24 → tm.coreB = none →
          (∀ n, n < 16384 → lineLive s (teamKey tm (field (va n) 23 0)) = false) →
          typeOn (vchip s tm.vc).stream 12 = false → ∀ n, n < 16384 →
            readLe t (teamKey tm (field (va n) 23 0)) 4 =
              (epiValue p (slotElement s core e.tail n) ((k.scl[n % 128]?).getD 0) ((k.bias[n % 128]?).getD 0)).1 % 2 ^ 32)))

/-! ## Pod instructions -/

namespace Sys2Proof.Claims

/-- The instruction is ready and its guest's admission is not paused (R259). -/
def Admitted (i : Instr) (c : Ctx) (s : State) : Prop := Ready i c s ∧ (guestOf s c.t.vc).paused = false

/-- Checks 3 to 5 of R239: the entry is valid (R237, R256), it allows the instruction, and every peer that it names is there. -/
def EntryValid (c : Ctx) (s : State) (ch : BitVec 5) : Prop := capInvalid (guestOf s c.t.vc) (capAt c ch) = false

def PeersThere (c : Ctx) (s : State) (ch : BitVec 5) : Prop :=
  ∀ n, n ∈ capPeers (guestOf s c.t.vc) (capAt c ch) → peerAbsent (guestOf s c.t.vc) n = false

/-- What each channel instruction needs of its entry's kind and permissions (R428 to R437). -/
def Allowed (i : Instr) (c : Ctx) : Prop :=
  (∃ l a ch u, i = .psend l a ch u ∧ let e := capAt c ch
    if topByte (readS c.g a) = 1 then (capKind e = 0 ∧ capGT e = true) ∨ (capKind e = 4 ∧ capPOOL e = true)
    else (capKind e ≤ 2 ∧ capSD e = true) ∨ (capKind e = 4 ∧ capPOOL e = true)) ∨
  (∃ l a ch d, i = .pput l a ch d ∧ capKind (capAt c ch) ≤ 1 ∧ capPT (capAt c ch) = true) ∨
  (∃ l a ch d, i = .pget l a ch d ∧ capKind (capAt c ch) = 0 ∧ capGT (capAt c ch) = true) ∨
  (∃ l a ch u, i = .pmcast l a ch u ∧ capKind (capAt c ch) = 3 ∧ capMC (capAt c ch) = true) ∨
  (∃ l a ch u, i = .patom l a ch u ∧ let e := capAt c ch
    (capKind e = 0 ∧ capAT e = true) ∨ (capKind e = 4 ∧ capPOOL e = true)) ∨
  (∃ l a ch u, i = .ppool l a ch u ∧ capKind (capAt c ch) = 4 ∧ capPOOL (capAt c ch) = true) ∨
  (∃ ch, i = .phint ch ∧ capKind (capAt c ch) ≤ 2)

/-- The instruction names channel ch. -/
def OnChannel (i : Instr) (ch : BitVec 5) : Prop :=
  (∃ l a u, i = .psend l a ch u ∨ i = .pput l a ch u ∨ i = .pget l a ch u ∨ i = .pmcast l a ch u ∨ i = .patom l a ch u ∨
    i = .ppool l a ch u) ∨ i = .phint ch

/-- A channel instruction that passes checks 3 to 5. -/
def Through (i : Instr) (c : Ctx) (s : State) (ch : BitVec 5) : Prop :=
  Admitted i c s ∧ EntryValid c s ch ∧ Allowed i c ∧ PeersThere c s ch

/-- Check 6 of R239 passes: the address names the entry's peer (R236, R423). -/
def RemoteOk (c : Ctx) (ch : BitVec 5) (a : DWord) : Prop :=
  canonical a = true ∧ topByte a = 1 ∧ field a 49 40 = capVcn (capAt c ch)

/-- Check 7 of R239 passes: n bytes from a lie in the entry's window. -/
def InWindow (c : Ctx) (ch : BitVec 5) (a : DWord) (n : Nat) : Prop :=
  (capAt c ch).wbase.toNat ≤ field a 39 0 ∧ field a 39 0 + n ≤ (capAt c ch).wbase.toNat + (capAt c ch).wsize.toNat

/-- Check 7 of R239 passes for the word of lane k at an address (R243, R311). -/
def WordIn (c : Ctx) (ch : BitVec 5) (a : DWord) (k : Nat) : Prop :=
  (capAt c ch).wbase.toNat ≤ field a 39 0 + 4 * k ∧ field a 39 0 + 4 * k + 4 ≤ (capAt c ch).wbase.toNat + (capAt c ch).wsize.toNat

/-- Check 8 of R239 passes: a local range in the team's allocation or in paged memory. -/
def LocalOk (c : Ctx) (a : DWord) (n : Nat) : Prop :=
  canonical a = true ∧ ((topByte a = 0xFF ∧ field a 23 0 + n ≤ c.t.alloc) ∨ (topByte a = 0 ∧ a.toNat + n ≤ 2 ^ 48))

/-- There is allowance for n bytes (R240). -/
def HasRoom (c : Ctx) (ch : BitVec 5) (n : Nat) : Prop :=
  (capAt c ch).inFlight = 0 ∨ (capAt c ch).inFlight + n ≤ field (capAt c ch).allow 31 0

/-- Pieces that cut n bytes from a on at every multiple of 64 (R242). -/
def Cut : Nat → Nat → List (Nat × Nat) → Prop
  | _, n, [] => n = 0
  | a, n, p :: ps => p.1 = a ∧ 0 < p.2 ∧ p.2 ≤ n ∧ a % 64 + p.2 ≤ 64 ∧ (p.2 = n ∨ (a + p.2) % 64 = 0) ∧ Cut (a + p.2) (n - p.2) ps

/-- The flits that a virtual chip queues for a VCN of its guest (R257, R268). -/
def outgoing (s : State) (v vcn label : Nat) (fs : List Flit) : List Egress :=
  (sendLeg { s with egress := [] } v (legTo s v vcn label).1 fs).egress

/-- Flits may take the way to a VCN: it is in this package, or the pair has a link key (R267). -/
def Reachable (c : Ctx) (s : State) (ch : BitVec 5) (vcn : Nat) : Prop :=
  (legTo s c.t.vc vcn (capLabel (capAt c ch))).2 = true

/-- An operation taken up: its tag is used, its allowance occupied, its flits queued, and the team's idempotent flag withdrawn but for a read
(R240, R241, R291). -/
def takenUp (c : Ctx) (o : PodOp) (out : List Egress) (s : State) : State :=
  let s1 := if o.kind = .get then s else modTeam s c.g.team fun t => { t with idem := false }
  { modVc s1 c.t.vc (fun v => { v with caps := listMod (fun e => { e with inFlight := e.inFlight + o.bytes }) o.cap v.caps }) with
    ops := s.ops ++ [o], nextTag := s.nextTag + 1, egress := s.egress ++ out }

/-- The instruction was carried out: the operation is taken up, the bundle has moved on, and the group is otherwise g0. -/
def Sends (i : Instr) (c : Ctx) (g0 : Group) (o : PodOp) (out : List Egress) (s t : State) : Prop :=
  Elsewhere c.b.group (takenUp c o out s) t ∧ ∃ g', t.groups[c.b.group]? = some g' ∧ GroupKept g0 g' ∧ LanesMove i c g'

/-- The group with a token register pending for the operation (R244). -/
def pending (c : Ctx) (u : BitVec 6) (tag : BitVec 32) : Group :=
  { c.g with tokens := if u = 0 then c.g.tokens else c.g.tokens ++ [(u, .pod tag)] }

/-- n bytes of a team that is not spread over a pier, in its window, free of poison. -/
def CleanSource (c : Ctx) (s : State) (a : DWord) (n : Nat) : Prop :=
  canonical a = true ∧ topByte a = 0xFF ∧ field a 23 0 + n ≤ c.t.alloc ∧ c.t.alloc ≤ 2 ^ 24 ∧ c.t.coreB = none ∧
  ∀ q, at_ c a ≤ q → q < at_ c a + n → (q / 8) ∉ s.poison ∧ (lineAt s q).err = false

/-- The write flits of a transfer from the team window: a piece each, the last of them marked (R242). -/
def pushFlits (c : Ctx) (s : State) (a : DWord) (base n : Nat) (dest : FlitDest) (ps : List (Nat × Nat)) : List Flit :=
  ps.map fun p => bareFlit 0 s.nextTag p.1 (readN s (at_ c a + (p.1 - base)) p.2) (p.2 - 1) (p.1 + p.2 == base + n) dest

end Sys2Proof.Claims

/-- The checks of a channel instruction in the order of R239: an entry that is not valid faults with cause 0x0C, one that does not allow
the instruction with 0x0D, one whose peer is not there with 0x0B; then a remote address that does not name the entry's peer (0x0D), and
one outside its window (0x08), of which `PPUT` tests the words of its active lanes alone. While its guest's admission is paused it waits (R259), and so it does without allowance (R240). The lanes
and the address of a fault whose rule names none are a reading of the model (log 14). -/
def Obligations.ChannelChecks : Prop :=
  (∀ i ch c s, OnChannel i ch → Ready i c s →
    ((guestOf s c.t.vc).paused = true → ∃ t, exec i s = .next t ∧ Waits c .allowance s t) ∧
    ((guestOf s c.t.vc).paused = false →
      (¬EntryValid c s ch → ∃ t, exec i s = .next t ∧ TakesFault c 0x0C c.b.mask 0 false [] s t) ∧
      (EntryValid c s ch → ¬Allowed i c → ∃ t, exec i s = .next t ∧ TakesFault c 0x0D c.b.mask 0 false [] s t) ∧
      (EntryValid c s ch → Allowed i c → ¬PeersThere c s ch → ∃ t, exec i s = .next t ∧ TakesFault c 0x0B c.b.mask 0 false [] s t))) ∧
  (∀ l a ch d c s, Through (.pput l a ch d) c s ch →
    let x := readS c.g a
    (capKind (capAt c ch) = 0 →
      (canonical x = false → ∃ t, exec (.pput l a ch d) s = .next t ∧ TakesFault c 0x04 c.b.mask x false [] s t) ∧
      (canonical x = true → ¬RemoteOk c ch x → ∃ t, exec (.pput l a ch d) s = .next t ∧ TakesFault c 0x0D c.b.mask x false [] s t) ∧
      (RemoteOk c ch x → ∀ j, runs c j → ¬WordIn c ch x j → (∀ k, runs c k → ¬WordIn c ch x k → j ≤ k) →
        ∃ t, exec (.pput l a ch d) s = .next t ∧ TakesFault c 0x08 c.b.mask (x + BitVec.ofNat 64 (4 * j)) false [] s t)) ∧
    ((capKind (capAt c ch) = 0 → RemoteOk c ch x ∧ ∀ k, runs c k → WordIn c ch x k) →
      (x.toNat % 4 ≠ 0 → ∃ t, exec (.pput l a ch d) s = .next t ∧ TakesFault c 0x07 c.b.mask x false [] s t) ∧
      (x.toNat % 4 = 0 → ¬HasRoom c ch (4 * (active c).length) → ∃ t, exec (.pput l a ch d) s = .next t ∧ Waits c .allowance s t))) ∧
  ∀ l a ch d c s, Through (.pget l a ch d) c s ch →
    let x := readS c.g a
    (canonical x = false → ∃ t, exec (.pget l a ch d) s = .next t ∧ TakesFault c 0x04 c.b.mask x false [] s t) ∧
    (canonical x = true → ¬RemoteOk c ch x → ∃ t, exec (.pget l a ch d) s = .next t ∧ TakesFault c 0x0D c.b.mask x false [] s t) ∧
    (RemoteOk c ch x → ¬InWindow c ch x (4 * c.g.width) →
      ∃ t, exec (.pget l a ch d) s = .next t ∧ TakesFault c 0x08 c.b.mask x false [] s t) ∧
    (RemoteOk c ch x → InWindow c ch x (4 * c.g.width) → x.toNat % 4 ≠ 0 →
      ∃ t, exec (.pget l a ch d) s = .next t ∧ TakesFault c 0x07 c.b.mask x false [] s t) ∧
    (RemoteOk c ch x → InWindow c ch x (4 * c.g.width) → x.toNat % 4 = 0 → ¬HasRoom c ch (4 * (active c).length) →
      ∃ t, exec (.pget l a ch d) s = .next t ∧ Waits c .allowance s t)

/-- `PSEND` and `PMCAST` (R242, R431, R437, R438): once its checks pass and there is allowance, a transfer goes out in pieces cut at the
target's multiples of 64, its token register pending; a push's bytes are read now, stated for a source in the team window, and a
pull's pieces are asked for, each with the local address that it will land at, where no copy of the group has its source there still to
read (R191). A multicast sends every piece to every member. -/
def Sys2Proof.Claims.TransferResults : Prop :=
  (∀ l a ch u c s, let i : Instr := .psend l a ch u
    let e := capAt c ch
    let src := readS c.g a
    let dst := readS c.g (a + 1)
    let n := (readS c.g (a + 2)).toNat
    Through i c s ch → 4 ≤ n → n < 2 ^ 32 → n % 4 = 0 → src.toNat % 4 = 0 → HasRoom c ch n →
    Reachable c s ch (capVcn e) →
    (CleanSource c s src n → (capKind e ≠ 2 → dst.toNat % 4 = 0) →
      ((capKind e = 0 ∨ capKind e = 4) → RemoteOk c ch dst ∧ InWindow c ch dst n) →
      let base := if capKind e = 0 ∨ capKind e = 4 then field dst 39 0 else if capKind e = 1 then dst.toNat else 0
      base + n ≤ 2 ^ 48 → ∃ t ps, exec i s = .next t ∧ Cut base n ps ∧
        Sends i c (pending c u s.nextTag) (podOp c s .push ch n u (capVcn e) (ps.map fun p => (p.1, 0)) n s.nextTag)
          (outgoing s c.t.vc (capVcn e) (capLabel e) (pushFlits c s src base n (capDest e) ps)) s t) ∧
    (topByte src = 1 → RemoteOk c ch src → InWindow c ch src n → LocalOk c dst n → dst.toNat % 4 = 0 → copyHeld s c [(dst, n)] = false →
      let base := field src 39 0
      ∃ t ps, exec i s = .next t ∧ Cut base n ps ∧
        Sends i c (pending c u s.nextTag) (podOp c s .pull ch n u (capVcn e)
            (ps.map fun p => (p.1, dst + BitVec.ofNat 64 (p.1 - base))) n s.nextTag)
          (outgoing s c.t.vc (capVcn e) (capLabel e)
            (ps.map fun p => bareFlit 1 s.nextTag p.1 [] (p.2 - 1) (p.1 + p.2 == base + n) (capDest e))) s t)) ∧
  ∀ l a ch u c s, let i : Instr := .pmcast l a ch u
    let e := capAt c ch
    let src := readS c.g a
    let base := (readS c.g (a + 1)).toNat
    let n := (readS c.g (a + 2)).toNat
    let ms := capPeers (guestOf s c.t.vc) e
    let seat (m : Nat) : Nat := vcnPkg (vcnEntry (guestOf s c.t.vc) m) * 16 + vcnSlot (vcnEntry (guestOf s c.t.vc) m)
    Through i c s ch → 4 ≤ n → n < 2 ^ 32 → n % 4 = 0 → src.toNat % 4 = 0 → base % 4 = 0 → base + n ≤ 2 ^ 48 → CleanSource c s src n →
    HasRoom c ch (n * ms.length) → (∀ m, m ∈ ms → Reachable c s ch m) →
    ∃ t ps, exec i s = .next t ∧ Cut base n ps ∧
      Sends i c (pending c u s.nextTag)
        (podOp c s .mcast ch (n * ms.length) u (capVcn e)
          (ms.flatMap fun m => ps.map fun p => (seat m * 2 ^ 64 + p.1, BitVec.ofNat 64 m)) n s.nextTag)
        (ms.flatMap fun m => outgoing s c.t.vc m (capLabel e) (pushFlits c s src base n .memory ps)) s t

/-- `PPUT` and `PGET` move a word of each active lane, at 4 times its lane number from the address (R243, R428, R434): a put's words go out now;
each lane of a get waits for its word, which lands in its register. `PATOM` sends its handler, operands and comparison value (R248,
R425), `PPOOL` its operation with the offsets and the length (R250, R433). -/
def Sys2Proof.Claims.WordTransferResults : Prop :=
  (∀ l a ch d c s, let i : Instr := .pput l a ch d
    let e := capAt c ch
    let x := readS c.g a
    let base := if capKind e = 0 then field x 39 0 else x.toNat
    let n := 4 * (active c).length
    Through i c s ch → x.toNat % 4 = 0 → (∀ k, runs c k → base + 4 * k < 2 ^ 48) →
    (capKind e = 0 → RemoteOk c ch x ∧ ∀ k, runs c k → WordIn c ch x k) → HasRoom c ch n →
    Reachable c s ch (capVcn e) → ∃ t, exec i s = .next t ∧
      Sends i c c.g (podOp c s .put ch n 0 (capVcn e) ((active c).map fun k => (base + 4 * k, BitVec.ofNat 64 k)) n s.nextTag)
        (outgoing s c.t.vc (capVcn e) (capLabel e) ((active c).map fun k =>
          bareFlit 0 s.nextTag (base + 4 * k) (toLeBytes 4 (readV (laneAt c.g k) d).toNat) 3
            (decide (∀ j, j ∈ active c → j ≤ k)) (capDest e))) s t) ∧
  (∀ l a ch d c s, let i : Instr := .pget l a ch d
    let e := capAt c ch
    let x := readS c.g a
    let n := 4 * (active c).length
    Through i c s ch → x.toNat % 4 = 0 → RemoteOk c ch x → InWindow c ch x (4 * c.g.width) → HasRoom c ch n →
    Reachable c s ch (capVcn e) → ∃ t, exec i s = .next t ∧
      Sends i c { c.g with loads := c.g.loads ++ (active c).map fun k => { lane := k, reg := d, data := 0, pois := false, ready := false, acq := false, more := false } }
        (podOp c s .get ch n d (capVcn e) ((active c).map fun k => (field x 39 0 + 4 * k, BitVec.ofNat 64 k)) n s.nextTag)
        (outgoing s c.t.vc (capVcn e) (capLabel e) ((active c).map fun k =>
          bareFlit 1 s.nextTag (field x 39 0 + 4 * k) [] 3 (decide (∀ j, j ∈ active c → j ≤ k)) .memory)) s t) ∧
  (∀ l a ch u c s, let i : Instr := .patom l a ch u
    let e := capAt c ch
    let x := readS c.g a
    let h := (readS c.g (a + 3)).toNat
    Through i c s ch → RemoteOk c ch x → h < 32 → InWindow c ch x (handlerBytes h) → x.toNat % handlerBytes h = 0 → HasRoom c ch 8 →
    Reachable c s ch (capVcn e) → ∃ t, exec i s = .next t ∧
      Sends i c (pending c u s.nextTag) (podOp c s .atomic ch 8 u (capVcn e) [(field x 39 0, 0)] 8 s.nextTag)
        (outgoing s c.t.vc (capVcn e) (capLabel e) [bareFlit 3 s.nextTag (field x 39 0)
          (toLeBytes 8 (readS c.g (a + 1)).toNat ++ toLeBytes 8 (readS c.g (a + 2)).toNat ++ toLeBytes 1 h) 16 true
          (if capKind e = 0 ∧ capSH e = true then .home else capDest e)]) s t) ∧
  ∀ l a ch u c s, let i : Instr := .ppool l a ch u
    let e := capAt c ch
    let o := (readS c.g a).toNat
    let dst := readS c.g (a + 1)
    let src := readS c.g (a + 2)
    let n := (readS c.g (a + 3)).toNat
    Through i c s ch → o < 128 → o / 4 % 4 = 0 → (o % 4 = 3 → o / 16 ≤ 4) → (o % 4 ≠ 3 → o / 16 = 0) →
    RemoteOk c ch dst → InWindow c ch dst n → dst.toNat % 8 = 0 → 8 ≤ n → n ≤ 2 ^ 40 → n % 8 = 0 →
    (o % 4 ≠ 0 → RemoteOk c ch src ∧ InWindow c ch src n ∧ src.toNat % 8 = 0) → HasRoom c ch 8 →
    Reachable c s ch (capVcn e) → ∃ t, exec i s = .next t ∧
      Sends i c (pending c u s.nextTag) (podOp c s .pool ch 8 u (capVcn e) [(field dst 39 0, 0)] 8 s.nextTag)
        (outgoing s c.t.vc (capVcn e) (capLabel e) [bareFlit 5 s.nextTag (field dst 39 0)
          (toLeBytes 8 o ++ toLeBytes 8 (field dst 39 0) ++ toLeBytes 8 (if o % 4 = 0 then src.toNat else field src 39 0) ++ toLeBytes 8 n)
          31 true .pool]) s t

/-- The transfers of the fabric, of lines and of words. What a flit carries beside its header is the model's own (log 13). -/
def Obligations.ChannelTransferResults : Prop :=
  TransferResults ∧ WordTransferResults

/-- `PHINT` queues a hint, or drops it where there is no way (R246, R429). `PRECV` binds an endpoint to a region of the team or to a queue
(R245, R436). `PARRV` clears a counter's word, empties its line and arms the counter (R247, R424). `PFENCE` waits until no operation of
its group is outstanding, and holds back the group's accesses while it waits (R164, R427). `EVT` writes a PC sample record while sampling
is enabled (R377), and `CAPQ` reads an entry's control word, or its allowance and what is in flight (R359). Readings of R237 and R242: log
23. -/
def Obligations.ChannelStateResults : Prop :=
  (∀ ch c s, Through (.phint ch) c s ch → let e := capAt c ch
    ∃ t, exec (.phint ch) s = .next t ∧ GoesOn (.phint ch) c t ∧ Elsewhere c.b.group
      (if (legTo s c.t.vc (capVcn e) (capLabel e)).2 = true then
        { s with egress := s.egress ++ outgoing s c.t.vc (capVcn e) (capLabel e) [bareFlit 8 s.nextTag 0 [] 0 true (capDest e)],
                 nextTag := s.nextTag + 1 }
      else s) t) ∧
  (∀ l a c s, let i : Instr := .precv l a
    let d := (readS c.g a).toNat
    let base := (readS c.g (a + 1)).toNat
    let size := (readS c.g (a + 2)).toNat
    let binds (b : Binding) : Prop := ∃ t, exec i s = .next t ∧ GoesOn i c t ∧
      Elsewhere c.b.group (modVc (modTeam s c.g.team fun x => { x with idem := false }) c.t.vc fun v =>
        { v with endpoints := tput v.endpoints (d % 256) b }) t
    Admitted i c s →
    (d < 256 → base % 128 = 0 → size % 128 = 0 → base + size ≤ c.t.alloc → binds (.team c.g.team c.t.incarn base size)) ∧
    (256 ≤ d → d < 512 → (∃ k, 12 ≤ k ∧ k ≤ 30 ∧ size = 2 ^ k) → base % size = 0 → base < 2 ^ 48 →
      binds (.queue (readS c.g (a + 1)) size 0))) ∧
  (∀ l a n c s, let i : Instr := .parrv l a n
    let w := readS c.g a
    let len := (readS c.g (a + 2)).toNat
    let target := (readS c.g (a + 3)).toNat
    Admitted i c s → copyHeld s c [(w, 8)] = false → topByte w = 0xFF → LocalOk c w 8 → w.toNat % 8 = 0 → LocalOk c (readS c.g (a + 1)) len → 1 ≤ len → len ≤ 2 ^ 40 →
    1 ≤ target → target ≤ 2 ^ 40 → ∃ t, exec i s = .next t ∧ GoesOn i c t ∧
      Elsewhere c.b.group { s with mem := t.mem, poison := t.poison, lines := t.lines, teams := t.teams } t ∧
      StoredWord (at_ c w) 0 s t ∧ lineAt t (at_ c w) = freshLine ∧ (∀ k, k / 128 ≠ at_ c w / 128 → lineAt t k = lineAt s k) ∧
      (∀ m, m ≠ c.g.team → t.teams[m]? = s.teams[m]?) ∧
      ∃ cs, t.teams[c.g.team]? = some { c.t with idem := false, counters := cs } ∧ cs.length = 16 ∧ ∀ m : Nat, m < 16 →
        cs[m]? = some (if m = n.toNat then { armed := true, word := field w 23 0, base := readS c.g (a + 1), len := len, target := target }
          else (c.t.counters[m]?).getD { armed := false, word := 0, base := 0, len := 0, target := 0 })) ∧
  (∀ l c s, Admitted (.pfence l) c s →
    ((∀ o, o ∈ s.ops → o.group ≠ c.b.group) → ∃ t, exec (.pfence l) s = .next t ∧ GroupBecomes (.pfence l) c { c.g with pfence := false } s t) ∧
    ((∃ o, o ∈ s.ops ∧ o.group = c.b.group) → ∃ t, exec (.pfence l) s = .next t ∧ Elsewhere c.b.group s t ∧
      t.groups[c.b.group]? = some { c.g with stall := .scoreboard, pfence := true })) ∧
  (∀ c s, Ready .evt c s → ∃ t, OnlyMoves .evt c s t ∧ exec .evt s = .next
    (if (vchip s c.t.vc).smpEn = true then event t c.t.vc 1 (sampleFields t c.g c.t 0 c.b.pc) else t)) ∧
  ∀ f ch u c s, Ready (.capq f ch u) c s → ∃ t x, exec (.capq f ch u) s = .next t ∧ WritesScalar (.capq f ch u) c u x s t ∧
    x.toNat = if f = 0#1 then ((capAt c ch).ctl &&& 0x00FFFFFFFF0F00FF).toNat else field (capAt c ch).allow 31 0 + 2 ^ 32 * ((capAt c ch).inFlight % 2 ^ 32)

/-! ## The fabric -/

namespace Sys2Proof.Claims

/-- The row that receives each class of flit. -/
def ClassRow (i : Instr) (port : Nat) (f : Flit) (row : FlitRow) : Prop :=
  (i = .writeFlit port f ∧ row = .write) ∨ (i = .getRequest port f ∧ row = .getRequest) ∨ (i = .getResponse port f ∧ row = .getResponse) ∨
  (i = .atomicRequest port f ∧ row = .atomicRequest) ∨ (i = .atomicResponse port f ∧ row = .atomicResponse) ∨
  (i = .poolRequest port f ∧ row = .poolRequest) ∨ (i = .poolResponse port f ∧ row = .poolResponse) ∨
  (i = .acknowledgement port f ∧ row = .acknowledgement) ∨ (i = .hint port f ∧ row = .hint) ∨
  (i = .completion port f ∧ row = .completion) ∨ (i = .tagFlit port f ∧ row = .tag) ∨ (i = .relayedFlit port f ∧ row = .relayed) ∨
  (i = .flitDiscard port f ∧ row = .discard)

/-- A flit that this package receives whole and for itself: its CRC is that of its bytes (R225, R226). -/
def Whole (s : State) (f : Flit) : Prop := f.crc = flitCrc f ∧ f.reserved = 0 ∧ f.dpkg.toNat = s.pkg ∧ f.opened = none

/-- Such a flit with an operation code, and no tag flit. -/
def ForUs (s : State) (f : Flit) (op : BitVec 4) : Prop := Whole s f ∧ f.tg = false ∧ f.op = op

/-- The marks of the guard named wavelengths to receive the port's flits on (R232). -/
def Marked (s : State) (port : Nat) : Prop := ∃ m, s.stripes[port]? = some m ∧ m ≠ 0

/-- It is the next that its port expects, and every earlier one of the slot was taken (R233). -/
def InTurn (s : State) (port : Nat) (f : Flit) : Prop :=
  port < 48 ∧ Marked s port ∧ (acceptedAt s port).broken = false ∧ f.seq = (acceptedAt s port).next

/-- The trestle buffer's bound is reached by what it holds: relayed flits, those sent on among them until they are acknowledged, and
those of runs that no tag has verified yet (R9, R230, R268). -/
def Filled (s : State) (hs : List Held) : Prop :=
  Config.trestleFlits ≤ (hs.countP fun h => !h.verified) + s.sent.countP fun x => x.item.came.isSome

/-- A relayed flit as the trestle buffer holds it: until the first later slot in which a port meets its target (R230). -/
def waitingRelay (s : State) (f : Flit) (came : Option (Nat × Nat)) : Held :=
  { flit := f, slot := some ((firstMeeting s.order s.pkg f.dpkg.toNat (s.slot + 1)).getD (s.slot + 1)), verified := false, came := came }

/-- Flits sent again: this package's own from the heads of their queues, relayed ones from the trestle buffer (R230, R233). -/
def sentAgain (s : State) (back : List Sent) (gone : Sent → Bool) : State :=
  { s with
    egress := ((back.filter fun x => x.item.came.isNone).map fun x => x.item) ++ s.egress
    trestle := s.trestle ++ (back.filter fun x => x.item.came.isSome).map fun x => waitingRelay s x.item.flit x.item.came
    sent := s.sent.filter fun x => !gone x }

/-- The trestle buffer without an earlier copy of a flit that waits for its run. -/
def withoutCopy (s : State) (f : Flit) : List Held := s.trestle.filter fun h => !(awaits f h && samePiece h.flit f && h.flit.run == f.run)

/-- The flit is one of a run that a tag must verify: it is sealed, and its pair has a link key, or it goes to a pool node whose key
this package can form (R250, R257, R268; log 13). -/
def NeedsTag (s : State) (f : Flit) : Prop :=
  f.sealed = true ∧ f.op ≠ 7 ∧ f.op.toNat < 10 ∧
    ((forPool f = false ∧ ∃ v n, f.dslot.toNat = v ∧ (vchip s v).used = true ∧ sourceVcn s v f = some n ∧ (arrivalKey s v n).isSome = true) ∨
      (forPool f = true ∧ (vchip s f.dslot.toNat).used = false ∧ (nodeKey s f).isSome = true))

/-- What the port has accepted in the slot is now a. -/
def tallied (s : State) (port : Nat) (a : Accepted) (t0 : State) : State :=
  { t0 with accepted := (t0.accepted.filter fun x => !(x.port == port && x.slot == s.slot)) ++ [a] }

/-- The flit counts as accepted; an acknowledgement is owed for all but acknowledgements (R233, R234). -/
def taken (s : State) (port : Nat) (row : FlitRow) (t0 : State) : State :=
  let a := acceptedAt s port
  tallied s port { a with next := a.next + 1, owed := a.owed || decide (row ≠ .acknowledgement) } t0

/-- The flit names virtual chip v, which is in use, and comes from VCN n of its guest (R257). -/
def FromTo (s : State) (f : Flit) (v n : Nat) : Prop :=
  f.dslot.toNat = v ∧ (vchip s v).used = true ∧ sourceVcn s v f = some n

/-- Bytes from a on of a virtual chip's export: they lie in it, within one line of one page that is bank or host memory, and the page
allows the access (R236, R139). -/
def Exported (s : State) (v off n : Nat) (acc : Acc) (l : Leaf) : Prop :=
  let va := field (vchip s v).expbase 47 12 * 4096 + off
  0 < n ∧ n ≤ 64 ∧ off % 64 + n ≤ 64 ∧ off + n ≤ field (vchip s v).expsize 40 12 * 4096 ∧ va + n ≤ 2 ^ 48 ∧
  translate s v (BitVec.ofNat 64 va) = some l ∧ protectionFails s v l.entry acc = false ∧
  (leafBk l.entry = true ∨
    (leafH l.entry = true ∧ leafPr l.entry = false ∧ (l2At s (2 ^ 52 + leafAddr l (BitVec.ofNat 64 va))).prot = none))

/-- The address of an exported offset, and the key of its bytes. -/
def expVa (s : State) (v off : Nat) : DWord := BitVec.ofNat 64 (field (vchip s v).expbase 47 12 * 4096 + off)
def expKey (s : State) (v off : Nat) (l : Leaf) : Nat := pagedKey s v l.entry (leafAddr l (expVa s v off))

/-- Operations that complete a token, their pieces bringing nothing back (R244). -/
def Tokened (o : PodOp) : Prop := o.kind = .push ∨ o.kind = .pull ∨ o.kind = .mcast ∨ o.kind = .pool

/-- A pending result of scalar register r that an operation lands: the register is free again and holds x, unless it is s0, with an error
or without; a group that does not wait for it is as it was (R13, R244). -/
def Lands (tag : BitVec 32) (r : BitVec 6) (x : DWord) (err : Bool) (g g' : Group) : Prop :=
  ((r, TokenOf.pod tag) ∉ g.tokens → g' = g) ∧
  ((r, TokenOf.pod tag) ∈ g.tokens →
    g' = { g with s := g'.s, spois := g'.spois, errTok := g'.errTok, tokens := g.tokens.filter fun e => e != (r, .pod tag) } ∧
    readS g' r = (if r = 0 then 0 else x) ∧ (∀ q, q ≠ r → readS g' q = readS g q) ∧
    (r ≠ 0 → g'.errTok.getLsbD r.toNat = err ∧ g'.spois.getLsbD r.toNat = false) ∧
    ∀ q, q ≠ r.toNat → g'.errTok.getLsbD q = g.errTok.getLsbD q ∧ g'.spois.getLsbD q = g.spois.getLsbD q)

/-- Group n of t stands to that of s as P says, and nothing else differs between them. -/
def OnlyGroup (n : Nat) (P : Group → Group → Prop) (s t : State) : Prop :=
  t = { s with groups := t.groups } ∧ t.groups.length = s.groups.length ∧ (∀ m, m ≠ n → t.groups[m]? = s.groups[m]?) ∧
    ∀ g, s.groups[n]? = some g → ∃ g', t.groups[n]? = some g' ∧ P g g'

/-- The operation gone, its allowance given back (R240, R244). -/
def withdrawnOp (s : State) (o : PodOp) : State :=
  { modVc s o.vc (fun c => { c with caps := listMod (fun e => { e with inFlight := e.inFlight - o.bytes }) o.cap c.caps }) with
    ops := s.ops.filter fun x => x.tag != o.tag }

end Sys2Proof.Claims

/-- A port takes the flits of a slot in the order of their numbers, and after one that is missing or that failed none: the flit is not acted
on (R233). A damaged or malformed flit is discarded, and counts as a failure (R225, R226), and so, as the model reads it, does one that
names another package and no relay (log 13); a relayed one waits for the first
later slot in which a port meets its target, or counts as damaged while the trestle buffer is full (R9, R230). A port whose partner
marked no wavelength receives nothing (R232). -/
def Obligations.FlitsAreTakenInOrder : Prop :=
  (∀ i port f row s, ClassRow i port f row → ¬Marked s port → exec i s = .next s) ∧
  (∀ i port f row s, ClassRow i port f row → port < 48 → Marked s port → rowOf s f = row →
    let a := acceptedAt s port
    let o := a.owed || decide (row ≠ .acknowledgement)
    (a.broken = true → exec i s = .next (tallied s port { a with owed := o } s)) ∧
    (a.broken = false → f.seq ≠ a.next → exec i s = .next (tallied s port { a with broken := true, owed := o } s))) ∧
  (∀ port f s, (f.crc ≠ flitCrc f ∨ 10 ≤ f.op.toNat ∨ f.reserved ≠ 0 ∨ (f.tg = true ∧ f.op ≠ 0) ∨ (f.dpkg.toNat ≠ s.pkg ∧ f.rly = false)) →
    InTurn s port f → exec (.flitDiscard port f) s = .next (tallied s port { acceptedAt s port with broken := true, owed := true } s)) ∧
  ∀ port f s, f.crc = flitCrc f → f.op.toNat < 10 → f.reserved = 0 → (f.tg = true → f.op = 0) → f.dpkg.toNat ≠ s.pkg → f.rly = true →
    f.opened = none → InTurn s port f →
    (Filled s s.trestle → exec (.relayedFlit port f) s = .next (tallied s port { acceptedAt s port with broken := true, owed := true } s)) ∧
    (¬Filled s s.trestle → exec (.relayedFlit port f) s = .next (taken s port .relayed { s with
      trestle := s.trestle ++ [waitingRelay s f (some (port, s.slot))] }))

/-- A flit from another package is held until the tag of its run has come, in place of an earlier copy of it (R257, R268); where the trestle
buffer is full it counts as damaged (R9), and one that has been performed, or verified, before is accepted and dropped (R234). A flit
for a pool node waits likewise, under the key of the node's pair. Unsealed, from a pair without a link key, for a pool node at a slot in
use, for a slot that is not in use, or from a source that the guest does not name, it is not performed and its source is told KIND 3
(R250, R257). -/
def Sys2Proof.Claims.SealedFlitsWaitForTheirTag : Prop :=
  (∀ i port f row s, ClassRow i port f row → ForUs s f f.op → rowOf s f = row → InTurn s port f → f.spkg.toNat ≠ s.pkg → NeedsTag s f →
    f.run = none →
    ((performed s f = true ∨ ∃ h, h ∈ s.trestle ∧ h.verified = true ∧ samePiece h.flit f = true) → exec i s = .next (taken s port row s)) ∧
    (performed s f = false → (∀ h, h ∈ s.trestle → h.verified = true → samePiece h.flit f = false) →
      (¬Filled s (withoutCopy s f) → (∀ h, h ∈ s.trestle → h.flit.run = none) → exec i s = .next (taken s port row { s with
        trestle := withoutCopy s f ++ [{ flit := f, slot := none, verified := false, came := some (port, s.slot) }] })) ∧
      (Filled s (withoutCopy s f) → exec i s = .next (tallied s port { acceptedAt s port with broken := true, owed := true } s)))) ∧
  (∀ i port f row s v n, ClassRow i port f row → ForUs s f f.op → rowOf s f = row → InTurn s port f → f.spkg.toNat ≠ s.pkg →
    (f.op = 0 ∨ f.op = 1 ∨ f.op = 3 ∨ f.op = 5) → FromTo s f v n → (arrivalKey s v n = none ∨ f.sealed = false ∨ forPool f = true) →
    exec i s = .next (taken s port row (complete s f 3))) ∧
  ∀ i port f row s v, ClassRow i port f row → ForUs s f f.op → rowOf s f = row → InTurn s port f →
    (f.op = 0 ∨ f.op = 1 ∨ f.op = 3 ∨ f.op = 5) → f.dslot.toNat = v →
    ((vchip s v).used = false → (forPool f = false ∨ (f.spkg.toNat ≠ s.pkg ∧ (f.sealed = false ∨ nodeKey s f = none))) →
      exec i s = .next (taken s port row (complete s f 3))) ∧
    ((vchip s v).used = true → sourceVcn s v f = none →
      exec i s = .next (taken s port row (complete (event s v 9 [(9, 1), (10, f.spkg.toNat)]) f 3)))

/-- A tag flit of a run of one flit (R231, R233, R234, R268). With the flit there, a tag that verifies lets it be deciphered and performed;
where it does not, or the flit is refused, the run counts as damaged from its first flit on, in every slot that is not acknowledged yet. A
tag that comes before its run is held, and tried when the run is whole; one that has verified its run before is accepted and does nothing.
That a tag names the offsets of its run, and what a failed run leaves, are the model's own (log 13). -/
def Sys2Proof.Claims.TagsOpenTheirRuns : Prop :=
  (∀ port f s v n k r off, Whole s f → f.tg = true → f.op = 0 → InTurn s port f → FromTo s f v n → arrivalKey s v n = some k →
    f.run = some { replies := r, offs := [off] } →
    (tagVerified s f = true → exec (.tagFlit port f) s = .next (taken s port .tag s)) ∧
    (tagVerified s f = false →
      (runOf s f { replies := r, offs := [off] } = [] →
        (¬Filled s (withoutCopy s f) → exec (.tagFlit port f) s = .next (taken s port .tag { s with
          trestle := withoutCopy s f ++ [{ flit := f, slot := none, verified := false, came := some (port, s.slot) }] })) ∧
        (Filled s (withoutCopy s f) →
          exec (.tagFlit port f) s = .next (tallied s port { acceptedAt s port with broken := true, owed := true } s))) ∧
      ∀ h, runOf s f { replies := r, offs := [off] } = [h] →
        let s0 := tallied s port { acceptedAt s port with owed := true } s
        let s1 := dropRun s0 [h]
        let g : Flit := { crypt k h.flit with sealed := false, opened := some k }
        ((runTag k [h.flit]).take 16 = f.payload.take 16 →
          (∀ t0, perform s1 g = .done t0 → t0.accepted = s0.accepted → t0.slot = s.slot →
            exec (.tagFlit port f) s = .next (taken s port .tag (noteTag t0 f))) ∧
          (perform s1 g = .held → exec (.tagFlit port f) s = .next (taken s port .tag (noteTag { s1 with
            trestle := (s1.trestle.filter fun x => !(x.verified && samePiece x.flit g)) ++
              [{ flit := g, slot := none, verified := true, came := none }] } f)))) ∧
        ((runTag k [h.flit]).take 16 ≠ f.payload.take 16 ∨ perform s1 g = .refused →
          (h.came = some (port, s.slot) → exec (.tagFlit port f) s = .next (tallied s port { acceptedAt s port with
            next := min (acceptedAt s port).next h.flit.seq, broken := true, owed := true } s1)) ∧
          ∀ p t, h.came = some (p, t) → (p ≠ port ∨ t ≠ s.slot) →
            ((∀ a, a ∈ s.accepted → a.port ≠ p ∨ a.slot ≠ t) →
              exec (.tagFlit port f) s = .next (tallied s port { acceptedAt s port with broken := true, owed := true } s)) ∧
            ((∃ a, a ∈ s.accepted ∧ a.port = p ∧ a.slot = t) →
              exec (.tagFlit port f) s = .next (tallied s port { acceptedAt s port with broken := true, owed := true } { s1 with
                accepted := s.accepted.map fun a =>
                  if a.port = p ∧ a.slot = t then { a with next := min a.next h.flit.seq, broken := true } else a }))))) ∧
  ∀ i port f row s v n k h, ClassRow i port f row → ForUs s f f.op → rowOf s f = row → InTurn s port f → f.spkg.toNat ≠ s.pkg →
    f.op.toNat < 10 → f.op ≠ 7 → forPool f = false → f.sealed = true → f.run = none → FromTo s f v n → arrivalKey s v n = some k →
    performed s f = false → ¬Filled s [h] → s.trestle = [h] → h.verified = false → h.slot = none → h.flit.tg = true →
    h.flit.tag = f.tag → h.flit.spkg = f.spkg → h.flit.sslot = f.sslot → h.flit.dslot = f.dslot → h.flit.op = 0 →
    h.flit.run = some { replies := isReply f.op, offs := [f.off] } → (runTag k [f]).take 16 = h.flit.payload.take 16 →
    let s0 := tallied s port { acceptedAt s port with owed := true } s
    ∀ t0, perform { s0 with trestle := [] } { crypt k f with sealed := false, opened := some k } = .done t0 → t0.accepted = s0.accepted →
      t0.slot = s.slot → exec i s = .next (taken s port row (noteTag t0 h.flit))

/-- Flits that need no tag: a completion that tells of a failure may come unsealed, and ends the piece that it names (R244; log 13); an
acknowledgement ends the flits that it counts, and the others of the slot are sent again (R233). -/
def Sys2Proof.Claims.OpenFlitResults : Prop :=
  (∀ port f s v n o, ForUs s f 9 → InTurn s port f → FromTo s f v n → f.sealed = false → f.dest = .memory → performed s f = false →
    opAt s f.tag = some o → o.req = none → (∃ x, (answeredPiece s f, x) ∈ o.left) → Tokened o → recField f.payload 0 1 ≠ 0 →
    exec (.completion port f) s = .next (taken s port .completion
      (notePerformed (endPiece s f.tag (answeredPiece s f) (recField f.payload 0 1) [] false) f))) ∧
  ∀ port f s, ForUs s f 7 → InTurn s port f →
    let mine (x : Sent) : Bool := x.port == recField f.payload 0 1 && x.slot == recField f.payload 1 8
    let n := recField f.payload 9 4
    exec (.acknowledgement port f) s = .next (taken s port .acknowledgement
      (sentAgain s (s.sent.filter fun x => mine x && decide (n ≤ x.seq) && x.item.flit.op != 7) mine))

/-- What a flit does, sealed and open. What a flit carries beside its header is the model's own (log 13). -/
def Obligations.FlitResults : Prop :=
  SealedFlitsWaitForTheirTag ∧ TagsOpenTheirRuns ∧ OpenFlitResults

/-- Payload bytes of a pod operation performed here for a source on this package: it counts them as sent now (R491). -/
def Sys2Proof.Claims.countedHere (s : State) (f : Flit) (n : Nat) : State :=
  if f.spkg.toNat = s.pkg then countVc s f.sslot.toNat 4 n else s

/-- A source on another package counts what a reply to it tells of (R491; log 13). -/
def Sys2Proof.Claims.countedThere (s : State) (f : Flit) (n : Nat) : State :=
  if f.spkg.toNat = s.pkg then s else countVc s f.dslot.toNat 4 n

/-- What a flit that has been opened does, once (R234): a write lands in exported memory and is completed (R236, R242), and a get is answered
with the exported bytes (R243), stated for bank and host pages and no arrival counter; an atomic at an exported word leaves the
handler's value and answers the old one, at once at the home slice, and at the memory controller by a recall and a later write (R171,
R248); a write, a get and an atomic at a pool node act on its memory (R250); a hint moves the bound saved team to the head of the resume
list, or holds off the saves of the cores (R261). -/
def Sys2Proof.Claims.RequestResults : Prop :=
  (∀ s f, performed s f = true → f.op ≠ 7 → perform s f = .done s) ∧
  (∀ s f v l, f.dslot.toNat = v → f.op = 0 → f.dest = .memory → performed s f = false → (∀ u, u ∈ s.teams → u.counters = []) →
    let len := f.nb.toNat + 1
    len ≤ f.payload.length → Exported s v f.off.toNat len { bytes := len, write := true } l →
    perform s f = .done (notePerformed (completeWith (countedHere (countVc (writeN (holdLeaf s v (expVa s v f.off.toNat) l)
      (expKey s v f.off.toNat l) (f.payload.take len)) v 5 len) f len) f 0 len) f)) ∧
  (∀ s f v l, f.dslot.toNat = v → f.op = 1 → f.dest = .memory → performed s f = false →
    let len := f.nb.toNat + 1
    let off := f.off.toNat
    Exported s v off len { bytes := len } l → poisonedAt s (expKey s v off l) len = false →
    perform s f = .done (notePerformed
      (reply (countVc (holdLeaf s v (expVa s v off) l) v 4 len) f 2 (readN s (expKey s v off l) len)) f)) ∧
  (∀ s f v l, f.dslot.toNat = v → f.op = 3 → (f.dest = .memory ∨ f.dest = .home) → performed s f = false →
    let h := recField f.payload 16 1 % 32
    let n := handlerBytes h
    let q := expKey s v f.off.toNat l
    Exported s v f.off.toNat n { bytes := n, write := true, atomic := true } l → poisonedAt s q n = false →
    let s1 := holdLeaf s v (expVa s v f.off.toNat) l
    (f.dest = .home → perform s f = .done (notePerformed (reply (countedHere (countVc (writeN s1 q (toLeBytes n
        (handlerNew h (readLe s q n) (recField f.payload 0 8 % 2 ^ (8 * n)) (recField f.payload 8 8 % 2 ^ (8 * n))))) v 5 8) f 8)
      f 4 (toLeBytes 8 (readLe s q n))) f)) ∧
    (f.dest = .memory → (∀ x, x ∈ s.recalls → q + n ≤ x.place ∨ x.place + x.bytes ≤ q) →
      perform s f = .done (notePerformed { s1 with recalls := s.recalls ++
        [{ flit := f, vc := v, va := expVa s v f.off.toNat, place := q, bytes := n, old := readLe s q n, fresh := true }] } f))) ∧
  (∀ s x l, s.recalls = [x] → x.flit.dslot.toNat = x.vc →
    Exported s x.vc x.flit.off.toNat x.bytes { bytes := x.bytes, write := true, atomic := true } l → x.va = expVa s x.vc x.flit.off.toNat →
    let h := recField x.flit.payload 16 1 % 32
    let w := 2 ^ (8 * handlerBytes h)
    let s0 := { s with recalls := [] }
    (x.fresh = true → finishRecalls s = { s with recalls := [{ x with fresh := false }] }) ∧
    (x.fresh = false → x.bytes = handlerBytes h → finishRecalls s = reply (countedHere (countVc (writeN (holdLeaf s0 x.vc x.va l)
      (expKey s x.vc x.flit.off.toNat l) (toLeBytes x.bytes (handlerNew h x.old (recField x.flit.payload 0 8 % w)
        (recField x.flit.payload 8 8 % w)))) x.vc 5 8) x.flit 8) x.flit 4 (toLeBytes 8 x.old))) ∧
  (∀ s f, f.dest = .pool → performed s f = false →
    let q := poolKey f.dslot.toNat f.off.toNat
    let len := f.nb.toNat + 1
    (f.op = 0 → perform s f = .done (notePerformed (completeWith (countedHere (writeN s q (f.payload.take len)) f len) f 0 len) f)) ∧
    (f.op = 1 → perform s f = .done (notePerformed (reply s f 2 (readN s q len)) f)) ∧
    (f.op = 3 → let h := recField f.payload 16 1 % 32
      let n := handlerBytes h
      perform s f = .done (notePerformed (reply (countedHere (writeLe s q n
        (handlerNew h (readLe s q n) (recField f.payload 0 8 % 2 ^ (8 * n)) (recField f.payload 8 8 % 2 ^ (8 * n)))) f 8) f 4
        (toLeBytes 8 (readLe s q n))) f))) ∧
  ∀ s f v, f.dslot.toNat = v → f.op = 8 → performed s f = false →
    (∀ e inc m x base size, f.dest = .endpoint e inc → tget (vchip s v).endpoints e = some (.team m x base size) →
      perform s f = .done (notePerformed (modVc s v fun c =>
        if m ∈ c.resume then { c with resume := m :: c.resume.filter fun k => k != m } else c) f)) ∧
    (∀ e inc, f.dest = .endpoint e inc → (∀ m x base size, tget (vchip s v).endpoints e ≠ some (.team m x base size)) →
      perform s f = .done (notePerformed s f)) ∧
    ((f.dest = .memory ∨ ∃ e, f.dest = .queue e) → ∃ t, perform s f = .done (notePerformed t f) ∧ t = { s with cores := t.cores } ∧
      ∀ n : Nat, t.cores[n]? = (s.cores[n]?).map fun k => if (vchip s v).piers.getLsbD (n / 2) = true then { k with heldOff := true } else k)

/-- The handlers (R249, R425): the width of the operand, and the new value from the old one and the operands a and b. The binary32 and
binary64 sums are those of `FloatArithmeticValues`, to nearest-even with subnormals kept (R131, R248). -/
def Sys2Proof.Claims.HandlerTable : Prop :=
  ∀ h old a b, h < 32 → let w := if h ∈ [1, 3, 9, 10, 11, 12, 15, 16, 17, 19, 21, 25, 31] then 64 else 32
    old < 2 ^ w → a < 2 ^ w → b < 2 ^ w →
    let r := handlerNew h old a b
    let signed (x : Nat) : Int := if x < 2 ^ (w - 1) then x else x - 2 ^ w
    let halves (f : Fmt) (x y : Nat) : Nat := (fAddV f plainEnv (unpack f false (x % 2 ^ 16)) (unpack f false (y % 2 ^ 16))).code +
      2 ^ 16 * (fAddV f plainEnv (unpack f false (x / 2 ^ 16)) (unpack f false (y / 2 ^ 16))).code
    handlerBytes h * 8 = w ∧ r < 2 ^ w ∧ (h ≤ 1 → r = (old + a) % 2 ^ w) ∧
    (h = 2 → r = (fAddV f32 plainEnv (unpack f32 false old) (unpack f32 false a)).code) ∧
    (h = 3 → r = (fAddV f64 plainEnv (unpack f64 false old) (unpack f64 false a)).code) ∧
    (h = 4 → r = halves bf16 old a) ∧ (h = 29 → r = halves f16 old a) ∧
    (h = 5 ∨ h = 9 → (r = old ∨ r = a) ∧ signed r ≤ signed old ∧ signed r ≤ signed a) ∧
    (h = 6 ∨ h = 10 → (r = old ∨ r = a) ∧ signed old ≤ signed r ∧ signed a ≤ signed r) ∧
    (h = 7 ∨ h = 11 → r = min old a) ∧ (h = 8 ∨ h = 12 → r = max old a) ∧
    (h = 13 ∨ h = 14 → r = (fMinMaxV f32 plainEnv (h == 14) (unpack f32 false old) (unpack f32 false a)).code) ∧
    (∀ i, i < w → (h = 15 ∨ h = 26 → r.testBit i = (old.testBit i && a.testBit i)) ∧
      (h = 16 ∨ h = 27 → r.testBit i = (old.testBit i || a.testBit i)) ∧ (h = 17 ∨ h = 28 → r.testBit i = (old.testBit i ^^ a.testBit i))) ∧
    (h = 18 ∨ h = 19 → r = a) ∧ (h = 20 ∨ h = 21 → r = if old = b then a else old) ∧
    (h = 22 → r = if b ≤ old then 0 else old + 1) ∧ (h = 23 → r = if old = 0 ∨ b < old then b else old - 1) ∧
    (h = 24 ∨ h = 25 → r = min (old + a) b) ∧ (h = 30 ∨ h = 31 → r = old)

/-- A pool request performed at its node (R250): a fill, a copy, a comparison, or a reduction, this stated for ranges that do not meet; the
answer says whether a comparison found the ranges equal. -/
def Sys2Proof.Claims.PoolRequestResults : Prop :=
  ∀ s f o dst src len, f.op = 5 → performed s f = false → recField f.payload 0 8 = o → recField f.payload 8 8 = dst → recField f.payload 16 8 = src →
    recField f.payload 24 8 = len → let d := poolKey f.dslot.toNat dst
    let r := poolKey f.dslot.toNat src
    let answers (t : State) (eq : Bool) : Prop := perform s f = .done (notePerformed (reply (countedHere t f 8) f 6 [if eq = true then 1 else 0]) f)
    (o % 4 = 0 → answers (writeN s d (List.replicate (len / 8) (toLeBytes 8 src)).flatten) false) ∧
    (o % 4 = 1 → answers (writeN s d (readN s r len)) false) ∧
    (o % 4 = 2 → answers s (decide (readN s d len = readN s r len))) ∧
    (o % 4 = 3 → d + len ≤ r ∨ r + len ≤ d → let kind := o / 16 % 8
      let w := if kind = 2 then 8 else 4
      kind ≤ 4 → w ∣ len → ∃ t, answers t false ∧ t = { s with mem := t.mem, poison := t.poison } ∧
        (∀ i x y, i < len / w → x = readLe s (d + w * i) w → y = readLe s (r + w * i) w → let z := readLe t (d + w * i) w
          (kind = 0 → z = (fAddV f32 plainEnv (unpack f32 false x) (unpack f32 false y)).code) ∧ (kind = 1 ∨ kind = 2 → z = (x + y) % 2 ^ (8 * w)) ∧
          (kind = 3 ∨ kind = 4 → z = (fMinMaxV f32 plainEnv (kind == 3) (unpack f32 false x) (unpack f32 false y)).code)) ∧
        ∀ q, q < d ∨ d + len ≤ q → memRead t.mem q = memRead s.mem q)

/-- What an opened reply does at the source of its operation, once (R234): a get response lands the words that a `PGET` waits for (R243), an
atomic response the register of a `PATOM` (R248), a pool response its token (R250), and a completion ends the piece that it names (R244). -/
def Sys2Proof.Claims.ReplyResults : Prop :=
  (∀ s f o x, f.op = 2 → performed s f = false → opAt s f.tag = some o → o.kind = .get → o.left = [(f.off.toNat, x)] → f.nb = 3 →
    4 ≤ f.payload.length →
    ∃ t, perform s f = .done (notePerformed t f) ∧ OnlyGroup o.group (fun g g' => g' = { g with loads := g.loads.map fun y =>
        if y.lane = x.toNat ∧ y.reg = o.st ∧ y.ready = false
        then { y with data := BitVec.ofNat 32 (recField f.payload 0 4), pois := false, ready := true } else y })
      (withdrawnOp (countVc s o.vc 5 4) o) t) ∧
  (∀ s f o x, f.op = 4 → performed s f = false → opAt s f.tag = some o → o.kind = .atomic → o.left = [(f.off.toNat, x)] → f.nb = 7 →
    8 ≤ f.payload.length →
    ∃ t, perform s f = .done (notePerformed t f) ∧ OnlyGroup o.group (Lands o.tag o.st (BitVec.ofNat 64 (recField f.payload 0 8)) false)
      (withdrawnOp (countedThere s f 8) o) t) ∧
  (∀ s f o x, f.op = 6 → performed s f = false → opAt s f.tag = some o → o.kind = .pool → o.left = [(f.off.toNat, x)] → o.err = 0 →
    ∃ t, perform s f = .done (notePerformed t f) ∧ OnlyGroup o.group (Lands o.tag o.st (if recField f.payload 0 1 = 0 then 0 else 1) false)
      (withdrawnOp (countedThere s f 8) o) t) ∧
  ∀ s f o, f.op = 9 → performed s f = false → opAt s f.tag = some o → o.req = none → (∃ x, (answeredPiece s f, x) ∈ o.left) → Tokened o →
    let kind := recField f.payload 0 1
    perform s f = .done (notePerformed (endPiece
      (if kind = 0 then countedThere s f (recField f.payload 1 1) else s) f.tag (answeredPiece s f) kind [] false) f)

/-- How the pieces of a transfer end (R242, R244): while others are outstanding the operation only loses the piece and keeps the first failure's
KIND; the last piece returns the allowance and completes the token register: 0, or ERR with the KIND of the first failure. A failed
piece leaves an event record of type 3 (R295). -/
def Sys2Proof.Claims.TransfersComplete : Prop :=
  ∀ s o off x kind rest, opAt s o.tag = some o → Tokened o → o.req = none → o.left = (off, x) :: rest → o.err < 256 → kind < 256 →
    o.eq = false →
    let e := if o.err = 0 then kind else o.err
    let peer := if o.kind = .mcast then x.toNat else o.peer
    let origin := if o.kind = .mcast then 0x0100000000000000#64 + BitVec.ofNat 64 (x.toNat * 2 ^ 40) else o.origin
    let s1 := if kind = 0 then s else event s o.vc 3 [(9, kind), (10, peer), (16, (origin + BitVec.ofNat 64 off).toNat)]
    (rest ≠ [] → endPiece s o.tag off kind [] false = { s1 with
      ops := s1.ops.map fun y => if y.tag = o.tag then { o with left := rest, err := e } else y }) ∧
    (rest = [] → OnlyGroup o.group
      (Lands o.tag o.st (BitVec.ofNat 64 (if e = 0 then 0 else 2 ^ 63 + e * 2 ^ 48)) (decide (e ≠ 0)))
      (withdrawnOp s1 o) (endPiece s o.tag off kind [] false))

/-- The pieces of a transfer, and its completion. What a flit carries beside its header is the model's own (log 13), and so is the clock on
which the handler's result is written after a recall (log 5); that payload bytes count as sent when the piece is performed, at a source
elsewhere by its reply (log 13), and the full address in a record of type 3 (log 23), are its readings. -/
def Obligations.PieceAndTransferCompletion : Prop :=
  RequestResults ∧ HandlerTable ∧ PoolRequestResults ∧ ReplyResults ∧ TransfersComplete

/-- The slots of the schedule (R227, R228, R230, R232 to R235, R251). Before its time a slot does not begin. `SLOT_START` sends a
flit on the lowest port that meets its target in the new slot and has light, with the tag flit of its run where it is sealed (R268), and a
relayed one likewise, stated for a package whose queue holds that flit alone, or keeps a relayed one while none does; flits of its own
are looped back. `SLOT_END` acknowledges what each port accepted, once the slot's data has passed. A slot that is not acknowledged is sent
again; the pieces performed of an operation are forgotten after 2 ms; a flit that has waited 1 ms is dropped, and its piece fails at its
source, which of a relayed flit is told by a completion; a wavelength that goes dark stops its port for the slot, puts what has not begun
back in its queue and takes its laser module out, and a second one of the slot takes nothing back. The layout of an acknowledgement and
the completion of a dropped relayed flit are the model's own (log 13). -/
def Obligations.SlotResults : Prop :=
  (∀ s, s.begun = true → s.time.toNat < (s.slot + 1) * 2040 → exec .slotStart s = .next s) ∧
  (∀ s, (s.begun = false ∨ (s.slot + 1) * 2040 ≤ s.time.toNat) →
    let now := if s.begun = true then s.slot + 1 else s.slot
    let s1 := { s with slot := now, begun := true, stopped := [], egress := [], trestle := [] }
    let partner (m : Nat) : Nat := (s.pkg + 1 + (48 * now + m) % (s.order - 1)) % s.order
    let lit (m : Nat) : Prop := ∃ b, s.lasers[m]? = some b ∧ b ≠ 0
    (s.egress = [] → s.trestle = [] → exec .slotStart s = .next s1) ∧
    (∀ f j k, 2 ≤ s.order → f.dpkg.toNat = j → j ≠ s.pkg → k < 48 → partner k = j → lit k → (∀ m, m < k → partner m = j → ¬lit m) →
      (∀ x, x ∈ s.sent → x.slot ≠ now) →
      let numbered (rly : Bool) (n : Nat) (f : Flit) : Flit := { f with rly := rly, seq := n }
      let sends (rly : Bool) (n : Nat) (f : Flit) (e : Egress) : Sent := { port := k, slot := now, seq := n, item := { e with
        key := none, flit := { numbered rly n f with crc := flitCrc (numbered rly n f) } } }
      (∀ e, s.egress = [e] → s.trestle = [] → e.flit = f → e.came = none →
        (e.key = none → exec .slotStart s = .next { s1 with sent := s.sent ++ [sends false 0 f e] }) ∧
        ∀ x, e.key = some x → let g : Flit := { crypt x f with sealed := true }
          exec .slotStart s = .next { s1 with sent := s.sent ++ [sends false 0 g e,
            sends false 1 { g with payload := payload64 (runTag x [g]), tg := true, op := 0, nb := 15, rly := false
                                   run := some { replies := isReply f.op, offs := [f.off] } } e] }) ∧
      ∀ u came, u ≤ now → s.egress = [] → s.trestle = [{ flit := f, slot := some u, verified := false, came := came }] →
        exec .slotStart s = .next { s1 with sent := s.sent ++ [sends true 0 f
          { flit := f, relayable := false, queuedNs := s.time.toNat, key := none, came := came }] }) ∧
    (∀ f u came, 2 ≤ s.order → (∀ m, m < 48 → partner m = f.dpkg.toNat → ¬lit m) → u ≤ now → s.egress = [] →
      s.trestle = [{ flit := f, slot := some u, verified := false, came := came }] →
      exec .slotStart s = .next { s1 with trestle := [waitingRelay s1 f came] }) ∧
    ∀ e v n, s.egress = [e] → s.trestle = [] → e.key = none → e.flit.dpkg.toNat = s.pkg → e.flit.spkg.toNat = s.pkg →
      FromTo s e.flit v n → e.flit.op ≠ 7 → forPool e.flit = false →
      (∀ t, perform s1 e.flit = .done t → exec .slotStart s = .next t) ∧
      (perform s1 e.flit = .refused → exec .slotStart s = .next { s1 with egress := [e] })) ∧
  (∀ (s : State) (due : Accepted → Bool), (∀ a, a ∈ s.accepted → (due a = true ↔ a.slot * 2040 + 2000 ≤ s.time.toNat)) →
    exec .slotEnd s = .next { s with
      accepted := s.accepted.filter fun a => !due a
      egress := s.egress ++ (s.accepted.filter fun a => due a && a.owed).map fun a =>
        { flit := { bareFlit 7 0 0 (toLeBytes 1 a.port ++ toLeBytes 8 a.slot ++ toLeBytes 4 a.next) 12 true .memory with
            dpkg := BitVec.ofNat 10 a.spkg, spkg := BitVec.ofNat 10 s.pkg }, relayable := false, queuedNs := s.time.toNat, key := none
          came := none } }) ∧
  (∀ s port slot, slot + (s.order - 1 + 47) / 48 + 1 < s.slot → let mine (x : Sent) : Bool := x.port == port && x.slot == slot
    exec (.ackTimeout port slot) s = .next (sentAgain s (s.sent.filter fun x => mine x && x.item.flit.op != 7) mine)) ∧
  (∀ s spkg sslot tag, exec (.duplicateSetExpiry spkg sslot tag) s = .next { s with dups := s.dups.filter fun d =>
    !(decide (d.spkg = spkg ∧ d.sslot = sslot ∧ d.tag = tag ∧ d.lastNs + 2000000 ≤ s.time.toNat)) }) ∧
  (∀ s tag xs e ys, s.egress = xs ++ e :: ys → (∀ x, x ∈ xs ++ ys → x.flit.tag ≠ tag) → e.flit.tag = tag →
    e.queuedNs + 1000000 ≤ s.time.toNat → (∀ h, h ∈ s.trestle → h.flit.tag = tag → h.slot = none) → let s1 := { s with egress := xs ++ ys }
    let fails (f : Flit) : Prop :=
      (wholeOp s tag = false → exec (.flitDrop tag) s = .next (endPiece s1 tag (sentPiece s f) 6 [] true)) ∧
      (wholeOp s tag = true → exec (.flitDrop tag) s = .next (failOp s1 tag 6))
    (e.flit.op = 7 ∨ e.flit.spkg.toNat ≠ s.pkg ∨ (∃ r, e.flit.run = some r ∧ r.replies = true) ∨
        (e.flit.run = none ∧ isReply e.flit.op = true ∧ e.flit.dpkg.toNat ≠ s.pkg) → exec (.flitDrop tag) s = .next s1) ∧
    (e.flit.op ≠ 7 → e.flit.spkg.toNat = s.pkg →
      (e.flit.run = none → isReply e.flit.op = false → fails e.flit) ∧
      ∀ off, e.flit.run = some { replies := false, offs := [off] } → fails { e.flit with off := off })) ∧
  (∀ s tag xs h ys p u t0, s.trestle = xs ++ h :: ys → (∀ x, x ∈ xs ++ ys → x.flit.tag ≠ tag) → (∀ e, e ∈ s.egress → e.flit.tag ≠ tag) →
    h.flit.tag = tag → h.slot = some u → h.came = some (p, t0) → t0 * 2040 + 1000000 ≤ s.time.toNat → h.flit.run = none →
    let f : Flit := h.flit
    exec (.flitDrop tag) s = .next { s with
      trestle := xs ++ ys
      egress := s.egress ++ if f.op = 8 ∨ isReply f.op = true then [] else
        [{ flit := { bareFlit 9 tag f.off.toNat [6, 0] 1 f.last .memory with
             dpkg := f.spkg, dslot := f.sslot, spkg := f.dpkg, sslot := f.dslot }
           relayable := false, queuedNs := s.time.toNat, key := none, came := none }] }) ∧
  ∀ s port w b, s.lasers[port]? = some b → port < 48 → w < 16 → b.getLsbD (w / 4) = true →
    let rate := 256 * ((List.range 4).filter fun m => b.getLsbD m).length
    let unsent (x : Sent) : Bool := x.port == port && x.slot == s.slot &&
      decide (((s.time.toNat - s.slot * 2040) * rate + 767) / 768 ≤ x.seq)
    let lost := s.lasers.set port (b &&& ~~~BitVec.twoPow 4 (w / 4))
    (port ∉ s.stopped → exec (.lossOfLight port w) s = .next (pkgEvent
      { sentAgain s (s.sent.filter unsent) unsent with lasers := lost, stopped := port :: s.stopped } 14 [(9, port), (10, w / 4)])) ∧
    (port ∈ s.stopped → exec (.lossOfLight port w) s = .next (pkgEvent { s with lasers := lost } 14 [(9, port), (10, w / 4)]))

/-! ## Launches, teams, saves and traps -/

namespace Sys2Proof.Claims

/-- Sequence seq of queue q has completed and nothing before it is open: the watermark has come to it (R87). -/
def InOrderDone (x : Queue) (seq : Nat) : Prop := x.finished = [] ∧ seq = x.done.toNat + 1 ∧ seq < 2 ^ 60

/-- Launch l of virtual chip v has ended with a status (R92, R93): it is gone from the launches, its pins with it, its sequence is complete,
and a refusal is kept for its dependents with the code as the queue's last one. -/
def LaunchEnds (s : State) (v : Nat) (l : Launch) (status : Nat) (refused : Bool) (t : State) : Prop :=
  (vchip t v).launches = (vchip s v).launches.filter (fun x => x.id != l.id) ∧
  (∀ q, q ≠ idQueue l.id → queueAt t v q = queueAt s v q) ∧
  (∀ x, x = queueAt s v (idQueue l.id) → idQueue l.id < (vchip s v).queues.length → InOrderDone x (idSeq l.id) → queueAt t v (idQueue l.id) = { x with
    done := BitVec.ofNat 64 (idSeq l.id)
    refused := if refused then idSeq l.id :: x.refused else x.refused
    lastcode := if refused then BitVec.ofNat 8 status else x.lastcode }) ∧
  (∀ (n : Nat) k, s.cores[n]? = some k → t.cores[n]? = some
    (if (vchip s v).piers.getLsbD (n / 2) = true then { k with pins := k.pins.filter fun p => p.1 != l.id } else k)) ∧
  t.groups = s.groups ∧ t.teams = s.teams

/-- Nothing is written when the launch ends: it has no completion record, no event of type 10 is asked for, and it was the last reader of no
counted line; and its virtual chip is not that of reduced service, which goes with its last launch once full service has begun (R302). -/
def QuietEnd (s : State) (v : Nat) (l : Launch) : Prop :=
  recDone l.record = 0 ∧ typeOn (vchip s v).stream 10 = false ∧ (∀ e, e ∈ s.l2 → e.2.lowered ≠ some (v, l.id)) ∧
    ((vchip s v).reduced = false ∨ s.pkgStat ≠ 3)

/-- A group as a team starts it (R10, R13, R19, R26), with the stack areas of R89. -/
def GroupStarts (tm : Team) (n i : Nat) (x : Seat) (itemBase : DWord) (g : Group) : Prop :=
  g.team = n ∧ g.num = i ∧ g.width = tm.kernel.width ∧ g.vregs = tm.kernel.vregs ∧ g.role = roleOf tm.kernel i ∧ g.core = x.core ∧
  g.bay = x.bay ∧ g.place = x.place ∧ readS g 1 = tm.args ∧ readS g 2 = itemBase ∧ (∀ r : BitVec 6, r ≠ 1 → r ≠ 2 → readS g r = 0) ∧ g.spois = 0 ∧
  g.prio = tm.prio ∧ g.fpctl = 0 ∧ g.fpflags = 0 ∧ g.mflags = 0 ∧ g.rcount = 0 ∧ g.wait = .none ∧ g.fault = none ∧ g.retired = false ∧
  let area (lanes : Nat) : DWord := if tm.sdepth = 0 then 8 else
    tm.sbase + BitVec.ofNat 64 (((tm.index * tm.kernel.ngroup + i) * tm.kernel.width + lanes) * tm.sdepth)
  g.stacklim = area 0 ∧ g.lanes.length = tm.kernel.width ∧
    ∀ k, k < tm.kernel.width → g.lanes[k]? = some { freshLane with pc := tm.kernel.entry, stack := area (k + 1) }

/-- A share of scratchpad of a core. -/
def InShare (core base bytes q : Nat) : Prop := scratchKey core base ≤ q ∧ q < scratchKey core base + bytes

/-- Team n of t is tm, and the other teams are as in s. -/
def TeamIs (n : Nat) (tm : Team) (s t : State) : Prop :=
  n < s.teams.length ∧ t.teams.length = s.teams.length ∧ t.teams[n]? = some tm ∧ ∀ m, m ≠ n → t.teams[m]? = s.teams[m]?

/-- Every group of team n has become what f makes of it, and the other groups are as they were. -/
def TeamGroupsAre (n : Nat) (f : Group → Group) (s t : State) : Prop :=
  t.groups = s.groups.map fun g => if g.team = n then f g else g

end Sys2Proof.Claims

/-- The launch queues (R84 to R95). Enabling a queue sets its head and tail to 0; a tail is ignored unless it lies below the size;
disabling stops reading, stated while no span launch waits. A record that is read takes the next sequence of its queue, and waits for its
acceptance if it passes the checks of R93, stated for a launch that is not of a span; a record that is not clean is refused with code
0x01, and one that cannot be read stops the queue, a trap handler's launch as any other (R283). A launch is accepted when its dependences are complete, and refused with 0x08 if one of
them was; it completes when its teams have all retired and every store and atomic of theirs in a span member has been performed. When each check is made, and readings of R90 to R95, are those of log 19;
that a trap handler's launch is read only while its queue's EN is 1, and stays pending while its template cannot be read, is log 20's. -/
def Obligations.LaunchQueueResults : Prop :=
  (∀ s v q ie, (vchip s v).used = true → q < 16 → exec (.queueEnable v q ie) s = .next (modQueue s v q fun x =>
    if x.en = true then { x with ie := ie } else { x with ie := ie, en := true, everEnabled := true, head := 0, tail := 0 })) ∧
  (∀ s v q (x : BitVec 64), (vchip s v).used = true → q < 16 →
    (x.toNat < 2 ^ (queueAt s v q).size.toNat → exec (.lqtailWrite v q x) s = .next (modQueue s v q fun y => { y with tail := x })) ∧
    (2 ^ (queueAt s v q).size.toNat ≤ x.toNat → exec (.lqtailWrite v q x) s = .next s)) ∧
  (∀ s v q ie, (vchip s v).used = true → q < 16 → (∀ l, l ∈ (vchip s v).launches → l.spanDesc = none) →
    exec (.queueDisable v q ie) s = .next (modQueue s v q fun x => { x with ie := ie, en := false })) ∧
  (∀ s v q, launchable s v = true → q < 16 → (vchip s v).launches.length < 64 → (∀ h, h ∈ (vchip s v).handlers → h.1 ≠ q) →
    let x := queueAt s v q
    x.en = true → x.head ≠ x.tail →
    let read := deviceRead s v ((x.base + x.head * 128).toNat) 128
    (read = none → (∀ l, l ∈ (vchip s v).launches → l.spanDesc = none) →
      exec (.launchRecordRead v q) s = .next (modQueue s v q fun y => { y with rderr := true, en := false })) ∧
    ∀ s1 r, read = some (s1, r) →
      let seq := x.seq.toNat + 1
      let id : DWord := BitVec.ofNat 64 (q * 2 ^ 60 + seq)
      let s2 := event (modQueue s1 v q fun y => { y with
        head := BitVec.ofNat 64 ((y.head.toNat + 1) % 2 ^ y.size.toNat), seq := BitVec.ofNat 60 seq }) v 10 [(9, 0), (16, id.toNat)]
      seq < 2 ^ 60 → queueAt s1 v q = x →
      (∀ s3 k, recordDirty r = false → recField r 0x0B 1 / 2 % 2 = 0 →
        readKernel s2 v (recField r 0 8) (recField r 8 2) = (s3, some k) → readChecks s3 v q seq r (some k) = 0 →
        exec (.launchRecordRead v q) s = .next (modVc s3 v fun c => { c with launches := c.launches ++
          [{ id := id, record := r, kernel := k, accepted := false, order := 0, n := 0, base := 0, nextTeam := 0, retiredTeams := 0,
             status := 0, spanDesc := none, spanBad := false, matched := none }] })) ∧
      (recordDirty r = true → exec (.launchRecordRead v q) s = .next (endLaunch s2 v
        { id := id, record := r, kernel := noKernel, accepted := false, order := 0, n := 0, base := 0, nextTeam := 0, retiredTeams := 0,
          status := 0, spanDesc := none, spanBad := false, matched := none } 0x01 true))) ∧
  (∀ s v q h hs, launchable s v = true → q < 16 → (vchip s v).launches.length < 64 → (queueAt s v q).en = true →
    (∀ l, l ∈ (vchip s v).launches → l.spanDesc = none) → (vchip s v).handlers = (q, h) :: hs →
    let read := deviceRead s v (field (vchip s v).trhrec 47 7 * 128) 128
    (read = none → exec (.launchRecordRead v q) s = .next (modQueue s v q fun y => { y with rderr := true, en := false })) ∧
    ∀ s1 r, read = some (s1, r) → queueAt s1 v q = queueAt s v q → (vchip s1 v).handlers = (q, h) :: hs →
      let seq := (queueAt s v q).seq.toNat + 1
      let id : DWord := BitVec.ofNat 64 (q * 2 ^ 60 + seq)
      let record := r.take 16 ++ toLeBytes 8 h.toNat ++ r.drop 24
      seq < 2 ^ 60 → recordDirty record = true → exec (.launchRecordRead v q) s = .next (endLaunch
        (event (modQueue (modVc s1 v fun c => { c with handlers := hs }) v q fun y => { y with seq := BitVec.ofNat 60 seq })
          v 10 [(9, 0), (16, id.toNat)]) v
        { id := id, record := record, kernel := noKernel, accepted := false, order := 0, n := 0, base := 0, nextTeam := 0, retiredTeams := 0,
          status := 0, spanDesc := none, spanBad := false, matched := none } 0x01 true)) ∧
  (∀ s v id l, launchable s v = true → launchAt s v id = some l → l.accepted = false → l.spanDesc = none → depsMet s v l = true →
    (depRefused s v l = true → exec (.launchAccept v id) s = .next (endLaunch s v l 0x08 true)) ∧
    (∀ s1 n b, depRefused s v l = false → readArgs s v l = (s1, some (n, b)) → tooFewTeams l n = false →
      exec (.launchAccept v id) s = .next (event (modVc s1 v fun c => { c with
        acceptCount := c.acceptCount + 1
        launches := c.launches.map fun x => if x.id = l.id then { x with accepted := true, order := c.acceptCount, n := n, base := b } else x })
        v 10 [(9, 1), (16, l.id.toNat)]))) ∧
  (∀ s v id l, launchAt s v id = some l → l.accepted = true → l.retiredTeams = recTeams l.record →
    let storing (n : Nat) (g : Group) : Prop :=
      (∃ u, s.teams[g.team]? = some u ∧ u.vc = v ∧ u.launch = id) ∧ storesOut s n g = true
    ((∃ n g, s.groups[n]? = some g ∧ storing n g) → exec (.launchComplete v id) s = .next s) ∧
    ((∀ (n : Nat) (g : Group), s.groups[n]? = some g → ¬storing n g) → QuietEnd s v l →
      ∃ t, exec (.launchComplete v id) s = .next t ∧ LaunchEnds s v l l.status.toNat false t ∧ t.mem = s.mem)) ∧
  ∀ s v l code, (∃ c, s.vchips[v]? = some c) → QuietEnd s v l → LaunchEnds s v l code true (endLaunch s v l code true)

/-- `DISPATCH_TEAM` (R96 to R99): a team of the resume list that fits goes first; else, where no span team can start or reserve, or is
complete and waits for another member, the next team of the first ready launch that fits. A new team stands as R10, R13, R19, R26 to R29 say, on cores whose scratchpad share has been
cleared (R147), with the stack areas of R89, stated for kernels that hold no engine; the other teams and groups are as they were. `TEAM_RETIREMENT` ends a team whose
groups have all retired and that has nothing running (R80), stated for one outside a span. The bay, the order of cores and the first
incarnation are the model's choices (logs 1, 2 and 20), and that a priority above 31 counts as 31 is its reading (log 19). -/
def Obligations.TeamsComeAndGo : Prop :=
  (∀ s v n p, launchable s v = true → (vchip s v).tdisp ≠ .error → firstResumable s v = some (n, p) →
    exec (.dispatchTeam v) s = .next (resumeTeam s n p)) ∧
  (∀ s v l p, launchable s v = true → (vchip s v).tdisp ≠ .error → firstResumable s v = none → startSpan s v = none →
    takeReserve s v = none → spanAwaits s v = false → firstNew s v = some (l, p) →
    ∃ t tm gs, exec (.dispatchTeam v) s = .next t ∧ t.teams = s.teams ++ [tm] ∧ t.groups = s.groups ++ gs ∧ gs.length = p.seats.length ∧
      tm.sbase.toNat = recField l.record 0x28 8 ∧ tm.sdepth = recField l.record 0x30 4 ∧ tm.vc = v ∧ tm.launch = l.id ∧ tm.kernel = l.kernel ∧ tm.args = recArgs l.record ∧ tm.index = l.nextTeam ∧
      tm.x = BitVec.ofNat 32 (l.nextTeam % (recGrid l.record).1) ∧
      tm.y = BitVec.ofNat 32 (l.nextTeam / (recGrid l.record).1 % (recGrid l.record).2.1) ∧
      tm.z = BitVec.ofNat 32 (l.nextTeam / (recGrid l.record).1 / (recGrid l.record).2.1) ∧
      tm.prio = BitVec.ofNat 5 (min (recField l.record 0x0A 1) 31) ∧ tm.incarn = (vchip s v).incarn + 1 ∧ tm.status = .resident ∧
      tm.idem = l.kernel.idem ∧ tm.coreA = p.coreA ∧ tm.coreB = p.coreB ∧ tm.alloc = allocBytes l.kernel ∧ tm.counters = [] ∧
      tm.barriers.length = 16 ∧
      (∀ i x, p.seats[i]? = some x → ∃ g, gs[i]? = some g ∧ GroupStarts tm s.teams.length i x l.base g) ∧
      (∀ x, x ∈ (vchip t v).launches → x.id = l.id → ∃ y, y ∈ (vchip s v).launches ∧ x = { y with nextTeam := y.nextTeam + 1 }) ∧
      (wantsEngine l.kernel = false →
        let share := if p.coreB = none then tm.alloc else tm.alloc / 2
        let mine (q : Nat) : Prop := InShare p.coreA p.baseA share q ∨ ∃ c, p.coreB = some c ∧ InShare c p.baseB share q
        ∀ q, (mine q → memRead t.mem q = 0) ∧ (¬mine q → memRead t.mem q = memRead s.mem q))) ∧
  ∀ s n tm, s.teams[n]? = some tm → tm.status = .resident → tm.span = none → tm.vc < s.vchips.length → (∀ g, g ∈ s.groups → g.team = n → g.retired = true) →
    (∀ c, c ∈ s.cores → ∀ j, j ∈ c.jobs → j.team ≠ n) → tm.holdsA = false → tm.holdsB = false →
    (∀ o g, o ∈ s.ops → s.groups[o.group]? = some g → g.team ≠ n) →
    ∃ t, exec (.teamRetirement n) s = .next t ∧ t = { s with teams := t.teams, vchips := t.vchips } ∧
      TeamIs n { tm with status := .ended, counters := [], holdsA := false, holdsB := false, windowBytes := 0, imageAddr := none } s t ∧
      (∀ w, w ≠ tm.vc → t.vchips[w]? = s.vchips[w]?) ∧
      (vchip t tm.vc).launches = ((vchip s tm.vc).launches.map fun l => if l.id = tm.launch then { l with retiredTeams := l.retiredTeams + 1 } else l) ∧
      (vchip t tm.vc).resume = ((vchip s tm.vc).resume.filter fun m => m != n) ∧
      (∀ e m i b z, (e, Binding.team m i b z) ∈ (vchip t tm.vc).endpoints ↔ (e, Binding.team m i b z) ∈ (vchip s tm.vc).endpoints ∧ m ≠ n)

/-- Pre-emption (R81, R83, R100 to R104, R287 to R291). At the end of its interval a core chooses no team while saves are held off, which
ends the hold, or where it has no candidate, and its one candidate where it has one whose groups have not issued since. A team being saved, once at rest, has its image written, stated for one that is not
protected, and joins the resume list with the next save counter; where the image cannot be written it stays. A restart discards the team's
state under a new incarnation. `VACATE` marks the named piers and drops a reservation there; it chooses their teams, stated for teams that
are not of a span: one that may restart does so, and one that is saved takes its image's place, without which VERR is set; a command written while one runs, or naming
a pier that is not there, sets VERR; `RETURN` gives piers back; `VACATE_COMPLETE` ends the command with interrupt 16. Readings of R99,
R100, R103 and R287 to R291: logs 20 and 21. -/
def Obligations.PreemptionResults : Prop :=
  (∀ s core v, ownerOf s core = some v → core < s.cores.length → let k := coreAt s core
    let restarted (t : State) : State := { t with cores := s.cores.set core { k with fwdStart := k.clock, heldOff := false } }
    (k.clock.toNat < k.fwdStart.toNat + 2 ^ (vchip s v).fwdctl.toNat → exec (.forwardProgressInterval core) s = .next s) ∧
    (k.fwdStart.toNat + 2 ^ (vchip s v).fwdctl.toNat ≤ k.clock.toNat →
      (k.heldOff = true → exec (.forwardProgressInterval core) s = .next (restarted s)) ∧
      (k.heldOff = false → swapCandidates s v core = [] → exec (.forwardProgressInterval core) s = .next (restarted s)) ∧
      (∀ n tm, k.heldOff = false → swapCandidates s v core = [(n, tm)] → s.teams[n]? = some tm →
        (vchip s v).vacated.getLsbD (pierOf (vchip s v) core) = false →
        lastIssue s n ≤ k.fwdStart.toNat → (∀ g, g ∈ s.groups → g.team = n → g.emul = none) →
        (tm.idem = true → exec (.forwardProgressInterval core) s =
          .next (restarted (modTeam s n fun x => { x with status := .saving false }))) ∧
        ∀ a, tm.idem = false → imagePlace (restarted s) n tm = some a → exec (.forwardProgressInterval core) s =
          .next (restarted (modTeam s n fun x => { x with status := .saving false, imageAddr := some (BitVec.ofNat 64 a) }))))) ∧
  (∀ s n tm h a, s.teams[n]? = some tm → tm.status = .saving h → (tm.idem = false ∨ h = true) → tm.span = none → liveGroups s n ≠ [] →
    atRest s false n tm = true → tm.protKey = none → tm.windowBytes = 0 → tm.imageAddr = some a →
    let ctr := (vchip s tm.vc).savectr + 1
    let image := imageBytes s n tm false ctr.toNat []
    (∀ s1, deviceWrite s tm.vc a.toNat image = some s1 → tm.vc < s.vchips.length →
      ∃ t, exec (.saveComplete n) s = .next t ∧ TeamIs n { tm with
          status := .saved h, saveCtr := ctr, placed := false, imageLen := (layoutOf s1 n tm).len, mmas := (heldCores tm).map fun c => (coreAt s c).engine.queue } s t ∧
        (vchip t tm.vc).resume = (vchip s tm.vc).resume ++ [n] ∧ (vchip t tm.vc).savectr = ctr ∧
        (typeOn (vchip s tm.vc).stream 11 = false → t.mem = s1.mem) ∧
        TeamGroupsAre n (fun g => { g with reqs := g.reqs.map fun q => { q with old := true } }) s t ∧
        ∀ c, c ∈ t.cores → (∀ j, j ∈ c.jobs → j.team ≠ n)) ∧
    (deviceWrite s tm.vc a.toNat image = none → onPiers s tm (vchip s tm.vc).vacated = false →
      let s0 : State := if h = true then s else { s with groups := s.groups.map fun g => if g.team = n then { g with skid := 0 } else g }
      exec (.saveComplete n) s = .next (modTeam s0 n fun x => { x with status := if h then .halted else .resident, imageAddr := none }))) ∧
  (∀ s n tm, s.teams[n]? = some tm → tm.status = .saving false → tm.idem = true → tm.span = none → liveGroups s n ≠ [] →
    (∀ o g, o ∈ s.ops → s.groups[o.group]? = some g → g.team ≠ n) → tm.vc < s.vchips.length →
    ∃ t, exec (.teamRestart n) s = .next t ∧
      TeamIs n { tm with status := .restarted, incarn := (vchip s tm.vc).incarn + 1, next := tm.first, idem := tm.kernel.idem,
                         counters := [], barriers := newBarriers tm.kernel, placed := false } s t ∧
      TeamGroupsAre n (fun g => { g with
        retired := true, wait := .none, loads := [], reqs := [], fills := [], tokens := [], copies := [], emul := none, emulMask := 0
        fault := none, stall := .drained }) s t ∧
      (vchip t tm.vc).resume = (vchip s tm.vc).resume ++ [n] ∧ (vchip t tm.vc).incarn = (vchip s tm.vc).incarn + 1 ∧
      (typeOn (vchip s tm.vc).stream 11 = false → t.mem = s.mem)) ∧
  (∀ s v, (vchip s v).used = true → let c := vchip s v
    let named := c.vmask1 ++ c.vmask0
    (c.vbusy = true ∨ 2 ^ (vcPiers c).length ≤ named.toNat →
      exec (.vacate v) s = .next (modVc s v fun c => { c with verr := true }) ∧
      exec (.returnPiers v) s = .next (modVc s v fun c => { c with verr := true })) ∧
    (c.vbusy = false → named.toNat < 2 ^ (vcPiers c).length →
      (let s1 := modVc s v fun c => { c with vacated := c.vacated ||| named, vbusy := true }
       c.reserve = none →
        (teamsOn s v named = [] → exec (.vacate v) s = .next s1) ∧
        ((∀ n tm, n ∈ teamsOn s v named → s.teams[n]? = some tm →
            tm.span = none ∧ tm.idem = true ∧ tm.status = .resident ∧ liveGroups s n ≠ []) →
          ∃ t, exec (.vacate v) s = .next t ∧ t = { s1 with teams := t.teams } ∧ ∀ n : Nat, t.teams[n]? = (s.teams[n]?).map fun x =>
            if n ∈ teamsOn s v named then { x with status := .saving false } else x) ∧
        ∀ n tm, teamsOn s v named = [n] → s.teams[n]? = some tm → tm.span = none → (tm.idem = false ∨ tm.status = .halted) →
          (isSaving tm = true ∨ liveGroups s n = [] → exec (.vacate v) s = .next s1) ∧
          (isSaving tm = false → liveGroups s n ≠ [] →
            (∀ a, imagePlace s1 n tm = some a → exec (.vacate v) s = .next (modTeam s1 n fun x => { x with
              status := .saving (isHalted tm), imageAddr := some (BitVec.ofNat 64 a) })) ∧
            (imagePlace s1 n tm = none → exec (.vacate v) s = .next (modVc s1 v fun c => { c with verr := true })))) ∧
      (∀ r, c.reserve = some r → named.getLsbD (pierOf c r.core) = true → teamsOn s v named = [] →
        exec (.vacate v) s = .next (modVc (dropReserve s v) v fun c => { c with vacated := c.vacated ||| named, vbusy := true })) ∧
      exec (.returnPiers v) s = .next (modVc s v fun c => { c with vacated := c.vacated &&& ~~~named }))) ∧
  ∀ s v, (vchip s v).vbusy = true →
    (∀ n tm, n ∈ teamsOn s v (vchip s v).vacated → s.teams[n]? = some tm → isSaving tm = false) →
    exec (.vacateComplete v) s = .next (modVc s v fun c => { c with vbusy := false, raised := c.raised ++ [16] })

/-- Trap records (R278, R281, R284). Once a halted team is at rest its record is written at the tail of the ring, stated where it gets no
window: it names the launch, the primary fault's cause, PC, lanes and address, and awaits a command; the tail moves on and interrupt 17 is
raised if enabled. While the ring is full nothing is written, and without a place the record is held. The first command other than 0 that
its record shows is taken up, and no later one (R284). A command to resume, stated for a
team without a window, ends the halt, and the team goes on at its faulting instruction; any other command ends the team with status 0x100
and the primary cause, stated for one outside a span. That status is the launch's only where none of its teams had ended otherwise before,
which is the model's reading (log 19). Readings of R281 to R285: log 21. -/
def Obligations.TrapRecordResults : Prop :=
  (∀ s n tm, s.teams[n]? = some tm → tm.status = .halted → tm.recordWritten = false → tm.recordHeld = false → atRest s true n tm = true →
    tm.vc < s.vchips.length → typeOn (vchip s tm.vc).stream 6 = false →
    let c := vchip s tm.vc
    let s1 := { s with groups := s.groups.map fun g => if g.team = n then haltGroup g else g }
    (recordPlace s tm.vc = none → exec (.trapRecordWrite n) s =
      .next (modTeam s1 n fun x => { x with recordHeld := true, haltNoted := true })) ∧
    (∀ a, recordPlace s tm.vc = some a → 2 ^ c.trsize.toNat ≤ (c.trtail - c.trhead).toNat → exec (.trapRecordWrite n) s = .next s1) ∧
    ∀ a s2, recordPlace s tm.vc = some a → (c.trtail - c.trhead).toNat < 2 ^ c.trsize.toNat → windowPlace s1 n tm = none →
      deviceWrite s1 tm.vc a (trapRecord s1 n tm none) = some s2 → c.trctl.getLsbD 1 = false →
      ∃ t, exec (.trapRecordWrite n) s = .next t ∧
        TeamIs n { tm with recordWritten := true, recordHeld := false, haltNoted := true, recordAddr := BitVec.ofNat 64 a, windowAddr := 0, windowBytes := 0, cmd := 0 } s t ∧
        t.mem = s2.mem ∧ t.groups = s1.groups ∧ (vchip t tm.vc).trtail = c.trtail + 1 ∧
        (vchip t tm.vc).raised = c.raised ++ if c.trctl.getLsbD 0 = true then [17] else []) ∧
  (∀ s n tm f w, primaryFault s tm = f → let b := trapRecord s n tm w
    b.length = 128 ∧ recField b 0 8 = tm.launch.toNat ∧ recField b 8 8 = tm.incarn.toNat ∧ recField b 0x1C 1 = f.cause.toNat ∧
    recField b 0x20 8 = f.pc.toNat ∧ recField b 0x28 8 = f.lanes.toNat ∧ recField b 0x30 8 = f.addr.toNat ∧ recField b 0x38 4 = 0 ∧
    (recField b 0x1E 1 % 2 = 1 ↔ f.cause = 0x05 ∨ f.cause = 0x06)) ∧
  (∀ s n tm, s.teams[n]? = some tm → isHalted tm = true →
    (tm.cmd ≠ 0 → latchCommand s n = s) ∧
    ∀ s1 b, tm.cmd = 0 → tm.recordWritten = true → tm.windowBytes = 0 → deviceRead s tm.vc (tm.recordAddr.toNat + 0x38) 4 = some (s1, b) →
      latchCommand s n = (if leBytes b % 2 ^ 32 = 0 then s
        else modTeam s n fun x => { x with cmd := BitVec.ofNat 32 (leBytes b), taken := [] })) ∧
  (∀ s n tm, s.teams[n]? = some tm → tm.status = .halted → tm.cmd = 1 → (vchip s tm.vc).tdisp ≠ .error → tm.windowBytes = 0 →
    ∃ t, exec (.cmdResume n) s = .next t ∧ t = { s with groups := t.groups, teams := t.teams } ∧
      TeamIs n { tm with status := .resident, recordWritten := false, recordHeld := false, haltNoted := false, cmd := 0 } s t ∧
      TeamGroupsAre n (fun g => { g with
        fault := none, skid := 0, fills := []
        stall := if g.retired = true then .drained else if waitsAtBarrier g = true then .barrier else .issued }) s t) ∧
  ∀ s n tm, s.teams[n]? = some tm → tm.status = .halted → 2 ≤ tm.cmd.toNat → tm.span = none → tm.vc < s.vchips.length → (∀ c, c ∈ s.cores → c.jobs = []) →
    ∃ t tm', exec (.cmdEnd n) s = .next t ∧ TeamIs n tm' s t ∧
      tm' = { tm with status := .resident, recordWritten := false, recordHeld := false, haltNoted := false, cmd := 0,
                      windowBytes := 0, barriers := tm'.barriers } ∧
      t.mem = s.mem ∧ (∀ g, g ∈ t.groups → g.team = n → g.retired = true ∧ g.fault = none) ∧
      (vchip t tm.vc).launches = (vchip s tm.vc).launches.map fun l =>
        if l.id = tm.launch ∧ l.status = 0 then { l with status := BitVec.ofNat 32 (0x100 + (primaryFault s tm).cause.toNat) } else l

/-! ## Registers, bays, the hypervisor and the host -/

namespace Sys2Proof.Claims

/-- The registers of a device interface that hold what is written, each with the bits that it keeps (R100, R101, R137, R236, R262, R280). -/
def plainRegisters : List (Nat × DWord) :=
  [(0x08, BitVec.allOnes 64), (0x10, BitVec.allOnes 64), (0x30, 0x000FFFFFFFFFF000), (0x58, 0x0000FFFFFFFFF000), (0x60, 0x000001FFFFFFF000),
   (0x68, 0x0000FFFFFFFFF000), (0x78, BitVec.allOnes 64), (0x90, 0x0000FFFFFFFFFF80), (0xA0, BitVec.allOnes 64), (0xB0, 0xF3),
   (0xB8, 0x0000FFFFFFFFFF80), (0xC0, 0x0000FFFFFFFFF000), (0xC8, 0x000001FFFFFFF000), (0xD0, 0x0000FFFFFFFFF000),
   (0xD8, 0x000001FFFFFFF000), (0xE0, 0x0000FFFFFFFFF000), (0xE8, 0x000001FFFFFFF000)]

/-- Those of the management interface (R253, R303). -/
def plainMgmt : List Nat := [0x08, 0x10, 0x18, 0x20, 0x1C0, 0x1D0]

/-- A hypervisor command has been done: BUSY until it completes (R253); with an error nothing else has changed. -/
def commandDone (s : State) : State := { s with hvbusy := true, hvrun := some .done }

def commandFails (e : BitVec 8) (s : State) : State := { s with hverr := e, hvbusy := true, hvrun := some .done }

/-- The commands of `HVOP`. -/
def IsCommand (i : Instr) : Prop :=
  i ∈ [.create, .destroy, .ways, .guest, .abutmentWrite, .keySlotGrant, .keySlotRevokeSeal, .keySlotRevokeDiscard, .allowList, .features,
    .linkKeySlots, .frameRange]

/-- Full service, and no command running (R253, R302). -/
def Commandable (s : State) : Prop := s.pkgStat = 3 ∧ s.hvbusy = false

/-- The virtual chip that argument 0 names. -/
def namedChip (s : State) : Nat := field (hvArg s 0) 3 0

/-- Ways that the other virtual chips in use hold (R144). -/
def otherWays (s : State) (v : Nat) : Nat :=
  ((List.range s.vchips.length).map fun w =>
    if w ≠ v ∧ (vchip s w).used = true then (vchip s w).cacheWays + (vchip s w).bankWays + (vchip s w).protWays else 0).sum

/-- An interface that a configuration command does not throw out of its lock (R265). -/
def Unlocked (s : State) (v : Nat) : Prop := (vchip s v).tdisp = .configUnlocked ∨ (vchip s v).tdisp = .error

/-- Virtual chip v of t is c, and nothing else differs from s. -/
def OnlyChip (v : Nat) (c : VChip) (s t : State) : Prop :=
  v < s.vchips.length ∧ t = { s with vchips := s.vchips.set v c }

end Sys2Proof.Claims

/-- Register writes over the host link (R8, R253, R280, R300, R301): a register holds the bits of the value that it keeps, and no other
register of any function changes; FWDCTL ignores a value out of its range; VERR and MEMSTAT bits are cleared by writing one; the reserved
bits of a capability read as zero. That a value
out of a size field's range leaves it as it was is a reading (log 22). -/
def Obligations.RegisterWriteResults : Prop :=
  (∀ s v off m x, (vchip s v).used = true → (off, m) ∈ plainRegisters → ∃ t, exec (.registerWrite (v + 1) off x) s = .next t ∧
    readReg t (v + 1) off = x &&& m ∧ (∀ f o, f ≠ v + 1 ∨ o ≠ off → readReg t f o = readReg s f o) ∧
    t = { s with vchips := t.vchips, teams := t.teams } ∧ ∀ w, w ≠ v → t.vchips[w]? = s.vchips[w]?) ∧
  (∀ s off x, s.pkgStat ≠ 0 → off ∈ plainMgmt → ∃ t, exec (.registerWrite 0 off x) s = .next t ∧ readReg t 0 off = x ∧
    (∀ f o, f ≠ 0 ∨ o ≠ off → readReg t f o = readReg s f o) ∧ t = { s with hvarg := t.hvarg, rbaddr := t.rbaddr, rbdata := t.rbdata }) ∧
  (∀ s v c x, s.vchips[v]? = some c → c.used = true → let w (off : Nat) : Host.Outcome State Fault Refusal := exec (.registerWrite (v + 1) off x) s
    (x.toNat % 32 < 12 ∨ 24 < x.toNat % 32 → w 0x00 = .next s) ∧
    (12 ≤ x.toNat % 32 → x.toNat % 32 ≤ 24 → ∃ t, w 0x00 = .next t ∧ OnlyChip v { c with fwdctl := x.truncate 5 } s t) ∧
    (∃ t, w 0x20 = .next t ∧ OnlyChip v { c with verr := c.verr && !x.getLsbD 1 } s t) ∧
    (∃ t, w 0x48 = .next t ∧ OnlyChip v
      { c with memUr := c.memUr && !x.getLsbD 0, memCe := c.memCe && !x.getLsbD 1, memUe := c.memUe && !x.getLsbD 2 } s t) ∧
    (∃ t, w 0x130 = .next t ∧ OnlyChip v
      { c with smpN := if 8 ≤ x.toNat % 32 ∧ x.toNat % 32 ≤ 24 then x.truncate 5 else c.smpN, smpEn := x.getLsbD 5 } s t)) ∧
  ∀ s v c ch e x, s.vchips[v]? = some c → c.used = true → ch < 32 → c.caps[ch]? = some e →
    let w (k : Nat) : Host.Outcome State Fault Refusal := exec (.registerWrite (v + 1) (0x2000 + 0x20 * ch + 8 * k) x) s
    let becomes (o : Host.Outcome State Fault Refusal) (e' : Cap) : Prop := ∃ t, o = .next t ∧ OnlyChip v { c with caps := c.caps.set ch e' } s t
    becomes (w 0) { e with ctl := x } ∧ becomes (w 1) { e with wbase := x } ∧ becomes (w 2) { e with wsize := x } ∧ becomes (w 3) { e with allow := x } ∧
    let r (k : Nat) : DWord := readReg s (v + 1) (0x2000 + 0x20 * ch + 8 * k)
    r 0 = e.ctl &&& 0x00FFFFFFFF0F00FF ∧ r 1 = e.wbase ∧ r 2 = e.wsize ∧ r 3 = e.allow &&& 0x00000000FFFFFFFF

/-- Translations, event streams and the host's accesses (R141, R161, R292 to R295). `TLBINV` starts an invalidation, unless one runs, and
its completion drops the held entries on the path to its range and no other. Setting EN of a stream clears its head, tail and drop count. A
record is written at the tail of its stream, with interrupt 18 where the stream has become half full, or vector 1 of function 0 for the
package's stream, and dropped and counted where it is full or cannot be written. A
host store writes its bytes, stated for one line of a bank or host page, and a host load returns them. What a failed host access returns
is not stated (log 15). That the slots of the package's stream are physical addresses of HBM is the model's reading (log 3). -/
def Obligations.HostLinkResults : Prop :=
  (∀ s v (x : BitVec 64) c, s.vchips[v]? = some c → c.used = true → (c.tlbinv.isSome = true → exec (.tlbinv v x) s = .next s) ∧
    (c.tlbinv = none → ∃ t, exec (.tlbinv v x) s = .next t ∧
      OnlyChip v { c with tlbinv := some { page := x.toNat / 2 ^ 12 % 2 ^ 36, all := x.getLsbD 2, size := x.toNat % 4 } } s t)) ∧
  (∀ s v c x, s.vchips[v]? = some c → c.tlbinv = some x → x.size < 4 → ∃ t, exec (.tlbInvalidateComplete v) s = .next t ∧
    t = { s with tlb := t.tlb, cores := t.cores, vchips := s.vchips.set v { c with tlbinv := none }, teams := t.teams } ∧
    (∀ (n : Nat) k, s.cores[n]? = some k → ∃ ts, t.cores[n]? = some { k with tlb1 := ts } ∧ ∀ g, g ∈ ts ↔ g ∈ k.tlb1 ∧
      ∀ e, e ∈ s.tlb → e ∉ t.tlb → e.table = none → ¬(e.die = dieOf n ∧ e.vc = g.vc ∧ e.page = g.page ∧ e.log = g.log)) ∧
    (∀ e, e ∈ t.tlb ↔ e ∈ s.tlb ∧ (e.vc = v →
      let k := max e.log (if x.size = 0 then 0 else if x.size = 1 then 4 else if x.size = 2 then 9 else 18)
      x.all = false ∧ e.page / 2 ^ k ≠ x.page / 2 ^ k)) ∧
    t.teams = s.teams.map fun u => if u.vc = v then { u with recordHeld := false } else u) ∧
  (∀ s fn x, answers s fn = true → exec (.eventStreamEnable fn x) s = .next (modStream s fn fun t =>
    if x.getLsbD 0 = true ∧ t.ctl.getLsbD 0 = false
    then { t with ctl := x &&& 0x0000FFFF00000003, head := 0, tail := 0, drop := 0, sinceSummary := 0 }
    else { t with ctl := x &&& 0x0000FFFF00000003 })) ∧
  (∀ s v type fs, let t := (vchip s v).stream
    let r := toLeBytes 32 (fs.foldl (fun n f => n + f.2 * 2 ^ (8 * f.1)) (s.time.toNat + type * 2 ^ 64))
    (typeOn t type = false → event s v type fs = s) ∧
    (typeOn t type = true → t.ctl.getLsbD 0 = true → t.sinceSummary = 0 →
      (∀ s1, (t.tail - t.head).toNat ≠ 2 ^ t.size.toNat → deviceWrite s v (streamSlot t) r = some s1 →
        event s v type fs = modVc s1 v fun c => { c with
          stream := { t with tail := t.tail + 1 }
          raised := if t.ctl.getLsbD 1 = true ∧ (t.tail - t.head).toNat < 2 ^ t.size.toNat / 2 ∧
            2 ^ t.size.toNat / 2 ≤ (t.tail + 1 - t.head).toNat then c.raised ++ [18] else c.raised }) ∧
      ((t.tail - t.head).toNat = 2 ^ t.size.toNat ∨ deviceWrite s v (streamSlot t) r = none → event s v type fs = modVc s v fun c => { c with
        stream := { t with drop := t.drop + 1, sinceSummary := 1 }
        counters := listMod (fun x => x + 1) 3 c.counters }))) ∧
  (∀ s type fs, let t := s.pkgStream
    let r := toLeBytes 32 (fs.foldl (fun n f => n + f.2 * 2 ^ (8 * f.1)) (s.time.toNat + type * 2 ^ 64))
    (t.ctl.getLsbD 0 = false ∨ typeOn t type = false → pkgEvent s type fs = s) ∧
    (t.ctl.getLsbD 0 = true → typeOn t type = true → t.sinceSummary = 0 →
      ((t.tail - t.head).toNat ≠ 2 ^ t.size.toNat → pkgEvent s type fs = { writeN s (hbmAt (streamSlot t)) r with
        pkgStream := { t with tail := t.tail + 1 }
        raised0 := if t.ctl.getLsbD 1 = true ∧ (t.tail - t.head).toNat < 2 ^ t.size.toNat / 2 ∧
          2 ^ t.size.toNat / 2 ≤ (t.tail + 1 - t.head).toNat then s.raised0 ++ [1] else s.raised0 }) ∧
      ((t.tail - t.head).toNat = 2 ^ t.size.toNat →
        pkgEvent s type fs = { s with pkgStream := { t with drop := t.drop + 1, sinceSummary := 1 } }))) ∧
  ∀ s v a n l, (vchip s v).used = true → a.toNat % 128 + n ≤ 128 → 0 < n → a.toNat + n ≤ 2 ^ 48 → translate s v a = some l →
    (leafBk l.entry = true ∨
      (leafH l.entry = true ∧ leafPr l.entry = false ∧ (l2At s (2 ^ 52 + leafAddr l a)).prot = none)) →
    let q := pagedKey s v l.entry (leafAddr l a)
    (∀ bs, bs.length = n → protectionFails s v l.entry { bytes := n, write := true } = false →
      exec (.hostAccess v a (.store bs)) s = .next (writeN (holdLeaf s v a l) q bs)) ∧
    (protectionFails s v l.entry { bytes := n } = false → poisonedAt s q n = false →
      exec (.hostAccess v a (.load n)) s = .next { holdLeaf s v a l with hostRead := readN s q n })

/-- A bay beside its issues (R46, R48, R51, R52, R296, R467). A regroup comes on clocks that are multiples of 4; stated for a bay with one
group, it puts a written priority into effect, ends a yield, parks the running threads that stand away from the broadcast address and miss
in their loop buffers, or stand there at an instruction that issues by broadcast alone, and forms a loop-buffer bundle for each address of
the others. A thread that has waited 1,024 clocks is boosted. A sample comes at its bay's sampling clock; stated for a bay with one group
in place, it records its broadcast address and stall reason. How far the clock runs in a step is the model's choice (log 7). -/
def Obligations.BayEventResults : Prop :=
  (∀ s core bay, let c := coreAt s core
    c.clock.toNat % 4 ≠ 0 ∨ c.regrouped[bay]? = some c.clock → exec (.regroup core bay) s = .next s) ∧
  (∀ s core bay n g tm, let c := coreAt s core
    c.clock.toNat % 4 = 0 → c.regrouped[bay]? ≠ some c.clock → bayGroups s core bay = [(n, g)] → s.teams[g.team]? = some tm →
    mayIssue g tm = true → g.emul = none → ∃ t g', exec (.regroup core bay) s = .next t ∧
    t = modCore { s with groups := t.groups, vchips := t.vchips } core
      (fun k => { k with regrouped := listMod (fun _ => k.clock) bay k.regrouped }) ∧
    t.vchips.map (fun v => { v with bayCounters := [] }) = s.vchips.map (fun v => { v with bayCounters := [] }) ∧
    (∀ m, m ≠ n → t.groups[m]? = s.groups[m]?) ∧ t.groups[n]? = some g' ∧
    g' = { g with prio := g.prioNext.getD g.prio, prioNext := none, yielded := 0, fused := [], lanes := g'.lanes, loops := g'.loops } ∧
    let parks (l : Lane) : Bool := strays g l && (loopInstr l).all groupWide
    let loops (k : Nat) : Prop := strays g (laneAt g k) = true ∧ (loopInstr (laneAt g k)).all groupWide = false
    g'.lanes = (g.lanes.map fun l => if parks l = true then { l with st := .parked }
      else if l.st = .parked ∧ l.wake = none ∧ lowestPc fetchable g = some l.pc then { l with st := .running } else l) ∧
    (∀ m, m ∈ g'.loops → ∃ pc, ∀ k, k < 64 → k < g.lanes.length → (m.getLsbD k = true ↔ loops k ∧ (laneAt g k).pc = pc)) ∧
    ∀ k, k < 64 → k < g.lanes.length → loops k → ∃ m, m ∈ g'.loops ∧ m.getLsbD k = true) ∧
  (∀ s n k g l, s.groups[n]? = some g → g.lanes[k]? = some l → live l = true → 1024 ≤ l.waits →
    exec (.waitCountBoost n k) s = .next { s with groups := s.groups.set n { g with lanes := g.lanes.set k { l with boosted := true } } }) ∧
  (∀ s core bay v, ownerOf s core = some v → sampleDue s v core bay = false → exec (.pcSample core bay) s = .next s) ∧
  ∀ s core bay v n g tm pc, ownerOf s core = some v → (vchip s v).smpEn = true → bay < 8 → placedGroups s v core bay = [(n, g, tm)] →
    (coreAt s core).clock.toNat % 2 ^ (vchip s v).smpN.toNat = bay * 2 ^ ((vchip s v).smpN.toNat - 3) →
    (coreAt s core).sampledAt[bay]? ≠ some (coreAt s core).clock →
    lowestPc (fun l => live l && l.st != .held && l.wake.isNone) g = some pc →
    let s1 := modCore s core fun c => { c with
      sampled := listMod (fun _ => g.place) bay c.sampled, sampledAt := listMod (fun _ => c.clock) bay c.sampledAt }
    exec (.pcSample core bay) s = .next (event s1 v 1 (sampleFields s1 g tm (sampleReason s n g tm) pc))

/-- The hypervisor's commands (R144, R145, R253, R254, R265, R266, R270, R272, R274, R302, R498). While one runs, another is ignored with ERR 1; outside full
service it fails with ERR 4, and a failed command changes nothing else. A virtual chip is made with its piers, ways and features, its
bank memory cleared; destroying it leaves its slot as it was at reset, and no held leaf or operation of it, revokes its key slots and writes
its counted lines back. The other commands change what they name; a protected line for which fewer ways leave no room is sealed. A completed command raises vector 0. Commands on a locked interface throw it into ERROR, stated for the feature mask. -/
def Sys2Proof.Claims.HypervisorCommandResults : Prop :=
  (∀ i s, IsCommand i → s.pkgStat ≠ 0 → (s.hvbusy = true → exec i s = .next { s with hverr := 1 }) ∧
    (s.hvbusy = false → s.pkgStat ≠ 3 → exec i s = .next (commandFails 4 s))) ∧
  (∀ s, Commandable s → let v := namedChip s
    let piers : BitVec 128 := hvArg s 2 ++ hvArg s 1
    let c := field (hvArg s 3) 4 0
    let b := field (hvArg s 3) 12 8
    let p := field (hvArg s 3) 20 16
    ((vchip s v).used = true → exec .create s = .next (commandFails 4 s)) ∧
    ((vchip s v).used = false → piersBelow piers 128 < 2 → exec .create s = .next (commandFails 2 s)) ∧
    ((vchip s v).used = false → 2 ≤ piersBelow piers 128 → (∃ x, x ∈ s.vchips ∧ x.used = true ∧ x.piers &&& piers ≠ 0) →
      exec .create s = .next (commandFails 3 s)) ∧
    ((vchip s v).used = false → 2 ≤ piersBelow piers 128 → (∀ x, x ∈ s.vchips → x.used = true → x.piers &&& piers = 0) → s.vchips.length ≤ 16 →
      (c = 0 → exec .create s = .next (commandFails 2 s)) ∧
      (1 ≤ c → 16 < otherWays s 16 + c + b + p → exec .create s = .next (commandFails 3 s)) ∧
      (1 ≤ c → otherWays s 16 + c + b + p ≤ 16 → v < s.vchips.length → exec .create s = .next (commandDone
        { clearN s (bankKey v 0) (2 ^ 40) with vchips := s.vchips.set v { VChip.init with
            used := true, guest := field (hvArg s 0) 11 8, piers := piers, cacheWays := c, bankWays := b, protWays := p,
            features := BitVec.ofNat 4 (field (hvArg s 3) 51 48) } })))) ∧
  (∀ s, Commandable s → let v := namedChip s
    ((vchip s v).used = false → exec .destroy s = .next (commandFails 4 s) ∧ exec .ways s = .next (commandFails 4 s) ∧
      exec .features s = .next (commandFails 4 s)) ∧
    ((vchip s v).used = true → ∃ t, exec .destroy s = .next t ∧ vchip t v = VChip.init ∧ (∀ e, e ∈ t.tlb → e.vc ≠ v) ∧
      (∀ o, o ∈ t.ops → o.vc ≠ v) ∧ t.hvbusy = true ∧ t.hvrun = some .done ∧
      (∀ (k : Nat) x, s.keys[k]? = some x →
        t.keys[k]? = some (if x.granted = some v then { granted := none, key := none, version := x.version + 1 } else x)) ∧
      ∀ n l rc, s.l2 = [(n, l)] → l.vc = v → l.prot = none → l.counted = some rc → (∀ u, u ∈ s.teams → u.vc ≠ v) → s.owed = [] →
        typeOn (vchip s v).stream 5 = false →
        let home := hbmAt (n * 128)
        let held := key .counted (n * 128)
        t.l2 = [] ∧ (∀ i, i < 128 → memRead t.mem (home + i) = memRead s.mem (held + i)) ∧
          ∀ q, (q < home ∨ home + 128 ≤ q) → (q < held ∨ held + 128 ≤ q) → memRead t.mem q = memRead s.mem q) ∧
    (∀ c, s.vchips[v]? = some c → c.used = true →
      let w (n : Nat) : Nat := field (hvArg s 3) (8 * n + 4) (8 * n)
      ((∃ u, u ∈ s.teams ∧ u.vc = v ∧ u.status = .resident) → exec .ways s = .next (commandFails 4 s)) ∧
      (Unlocked s v → (∀ u, u ∈ s.teams → u.vc ≠ v) → 1 ≤ w 0 → otherWays s v + w 0 + w 1 + w 2 ≤ 16 →
        let s1 := { s with vchips := s.vchips.set v { c with cacheWays := w 0, bankWays := w 1, protWays := w 2 } }
        ((∀ e, e ∈ s.l2 → e.2.vc ≠ v) → exec .ways s = .next (commandDone s1)) ∧
        ∀ n l k, s.l2 = [(n, l)] → l.vc = v → l.prot = some k → l.counted = none → l.tomb = false →
          (1 ≤ w 2 → exec .ways s = .next (commandDone s1)) ∧
          (w 2 = 0 → let s2 := { s1 with draws := s.draws + 1 }
            exec .ways s = .next (commandDone (dropProt (if l.dirty = true then sealLine s2 (n * 128) k.toNat else s2) (n * 128))))) ∧
      (Unlocked s v → exec .features s = .next
        (commandDone { s with vchips := s.vchips.set v { c with features := BitVec.ofNat 4 (field (hvArg s 3) 51 48) } })) ∧
      (¬Unlocked s v → c.tdisp ≠ .error → ∃ t, exec .features s = .next t ∧ (vchip t v).tdisp = .error ∧
        (vchip t v).features = BitVec.ofNat 4 (field (hvArg s 3) 51 48) ∧
        ∀ (n : Nat) u, t.teams[n]? = some u → u.vc = v → u.status = .resident → ∀ g, g ∈ t.groups → g.team = n → g.retired = true))) ∧
  (∀ s, Commandable s → let g := field (hvArg s 0) 3 0
    let n := field (hvArg s 1) 10 0
    let w := field (hvArg s 0) 11 4
    (1 ≤ n → n ≤ 1024 → exec .guest s = .next (commandDone (modGuest s g fun x => { x with vlim := n }))) ∧
    (n = 0 ∨ 1024 < n → exec .guest s = .next (commandFails 2 s)) ∧
    (w < 64 → exec .allowList s = .next (commandDone (modGuest s g fun x => { x with allow := tput x.allow w (hvArg s 1) }))) ∧
    (64 ≤ w → exec .allowList s = .next (commandFails 2 s)) ∧
    let first := field (hvArg s 0) 15 8
    let count := field (hvArg s 0) 24 16
    (count ≤ 256 → first + count ≤ 256 → (∀ m x, m ≠ g → s.guests[m]? = some x → x.linkCount = 0) → ∀ x, s.guests[g]? = some x → x.linkCount = 0 →
      exec .linkKeySlots s = .next (commandDone (modGuest s g fun y => { y with linkFirst := first, linkCount := count })))) ∧
  (∀ s, Commandable s → let k := field (hvArg s 0) 5 0
    let v := field (hvArg s 0) 11 8
    let rows : List Instr := [.keySlotGrant, .keySlotRevokeSeal, .keySlotRevokeDiscard]
    ((vchip s v).used = false → ∀ i, i ∈ rows → exec i s = .next (commandFails 4 s)) ∧
    ((vchip s v).used = true → ∀ x, s.keys[k]? = some x →
      (x.granted = none → Unlocked s v → exec .keySlotGrant s = .next (commandDone { s with keys := s.keys.set k { x with granted := some v } })) ∧
      (x.granted = some v → Unlocked s v → exec .keySlotGrant s = .next (commandDone s)) ∧
      (x.granted ≠ some v → ∀ i, i ∈ [Instr.keySlotRevokeSeal, Instr.keySlotRevokeDiscard] → exec i s = .next (commandFails 2 s)) ∧
      (x.granted = some v → ∀ i, i ∈ [Instr.keySlotRevokeSeal, Instr.keySlotRevokeDiscard] → ∃ t, exec i s = .next t ∧
        t.keys = s.keys.set k { granted := none, key := none, version := x.version + 1 } ∧ t.hvbusy = true ∧ t.hvrun = some .done ∧
        (slotLines s k = [] → t = commandDone { s with keys := t.keys })))) ∧
  (∀ s, Commandable s → let a := hvArg s 0
    let v := field a 3 0
    let x : FrameRange := { base := field (hvArg s 1) 51 12 * 4096, size := field (hvArg s 2) 51 12 * 4096, valid := a.getLsbD 16, h := a.getLsbD 17 }
    (vchip s v).used = true → (x.valid = true → 0 < x.size ∧ x.base + x.size ≤ 2 ^ 52) → Unlocked s v →
    exec .frameRange s = .next { s with hvbusy := true, hvrun := some (.frames v (field a 11 8) x) }) ∧
  (∀ s, s.hvrun = some .done → exec .hvCommandComplete s = .next { s with hvbusy := false, hvrun := none, raised0 := s.raised0 ++ [0] }) ∧
  ∀ s v r x c, s.hvrun = some (.frames v r x) → s.vchips[v]? = some c → ∃ t, exec .hvCommandComplete s = .next t ∧
    t.cores.map (fun k => { k with tlb1 := [] }) = s.cores.map (fun k => { k with tlb1 := [] }) ∧
    t = { s with hvbusy := false, hvrun := none, raised0 := s.raised0 ++ [0], teams := t.teams, cores := t.cores,
                 tlb := s.tlb.filter fun e => e.vc != v, vchips := s.vchips.set v { c with frames := listMod (fun _ => x) r c.frames } }

/-- A write of an abutment table (R255, R259): admission of the guest's pod instructions pauses; once none of its operations is outstanding the
word is written and admission resumes, and while one is, for less than 1 ms, the write waits. Stated for tables of sets and labels and for
an entry made invalid, whose link keys go if the guest still holds its slot (R267), and for interfaces that are not in RUN. -/
def Sys2Proof.Claims.AbutmentWriteResults : Prop :=
  (∀ s, Commandable s → let a := hvArg s 0
    (tableOk s a (hvArg s 1) = false → exec .abutmentWrite s = .next (commandFails 2 s)) ∧
    (tableOk s a (hvArg s 1) = true → exec .abutmentWrite s = .next { modGuest s (field a 3 0) fun g => { g with paused := true } with
      hvbusy := true, hvrun := some (.abutment (field a 3 0) a (hvArg s 1) s.time.toNat) })) ∧
  ∀ s g a x start, s.hvrun = some (.abutment g a x start) → g = field a 3 0 →
    (guestOps s g ≠ [] → s.time.toNat < start + 1000000 → exec .abutmentRewrite s = .next s) ∧
    (guestOps s g = [] → (∀ v, v ∈ guestChips s g → (vchip s v).tdisp ≠ .run) →
      (∀ y, field a 9 8 = 0 → vcnV (x &&& 0xFFFFFF0000000000) = false → s.guests[g]? = some y →
        let b := field a 25 16
        let old := vcnEntry y b
        let e := x &&& 0xFFFFFF0000000000
        exec .abutmentRewrite s = .next (commandDone { modGuest s g fun z =>
            { z with vcns := if e = 0 then tdel z.vcns b else tput z.vcns b e, paused := false } with
          linkKeys := if vcnV old = true ∧ linkGranted y (vcnKs old) = true then s.linkKeys.filter fun k => k.1 / 1024 != vcnKs old else s.linkKeys })) ∧
      (field a 9 8 = 1 → exec .abutmentRewrite s = .next (commandDone (modGuest s g fun y =>
        { y with mcast := tput y.mcast (field a 25 16 * 16 + field a 31 28) x, paused := false }))) ∧
      (2 ≤ field a 9 8 → exec .abutmentRewrite s = .next (commandDone (modGuest s g fun y =>
        { y with labels := tput y.labels (field a 25 16) (x.truncate 8 &&& 0xC7), paused := false }))))

/-- The commands of the hypervisor's registers, and writes to the abutments. Which of the codes 2, 3 and 4 a failed check sets, and what
becomes of the lines for which changed ways have no room, are readings (logs 9 and 18). -/
def Obligations.HypervisorAndAbutmentResults : Prop :=
  HypervisorCommandResults ∧ AbutmentWriteResults

/-- The device interface (R265 to R267, R271, R272). A session runs through its requests in the order that the model presumes, and a
request out of turn gets no answer (log 10); a key exchange is answered with a share of the package, and a session is secured by the code of its exchange; certificates and measurements are answered once the algorithms are agreed; `LOCK` and `START` move an interface from its one state
to its next. Keys are set only in a secured session, and a context key only in a slot granted to the virtual chip, whose version it
advances. Ingress bytes wait in their record's place; a whole record is verified, written to protected pages and counted, or stops its
stream with ERR; that a destination which is no multiple of 128 stops it too is the model's reading (log 15). A counter that the guest's
list does not allow reads zero; that a counter kept per bay is read as those of all bays is the model's reading (log 15). The contents
of the answers, and the ciphers' insides, are presumed (log 10). -/
def Obligations.DeviceInterfaceResults : Prop :=
  (∀ s v, (vchip s v).used = true → let moves (i : Instr) (a : Spdm) (f : VChip → VChip) (out : List Byte) : Prop :=
      ((vchip s v).spdm = a → exec i s = .next { modVc s v f with hostRead := out }) ∧
      ((vchip s v).spdm ≠ a → exec i s = .next { s with hostRead := [] })
    exec (.getVersion v) s = .next { modVc s v (fun c => { c with spdm := .versioned }) with hostRead := [0x12, 0x13] } ∧
    moves (.getCapabilities v) .versioned (fun c => { c with spdm := .capable }) capabilities ∧
    moves (.negotiateAlgorithms v) .capable (fun c => { c with spdm := .negotiated }) algorithms ∧
    moves (.endSession v) .secured (fun c => { c with spdm := .negotiated, exchange := none }) (asciiBytes "END_SESSION") ∧
    (∀ share, let own := Config.exchangeShare s.draws
      ((vchip s v).spdm = .negotiated → exec (.keyExchange { v := v, body := share }) s = .next { modVc s v (fun c =>
        { c with spdm := .exchanged, exchange := some (s.draws, share) }) with
          draws := s.draws + 1, hostRead := own ++ Config.identitySignature (share ++ own) }) ∧
      ((vchip s v).spdm ≠ .negotiated → exec (.keyExchange { v := v, body := share }) s = .next { s with hostRead := [] })) ∧
    ∀ code n share, ((vchip s v).spdm ≠ .exchanged → exec (.finish { v := v, body := code }) s = .next { s with hostRead := [] }) ∧
      ((vchip s v).spdm = .exchanged → (vchip s v).exchange = some (n, share) →
        (code = Config.finishCode n share →
          exec (.finish { v := v, body := code }) s = .next { modVc s v (fun c => { c with spdm := .secured }) with hostRead := asciiBytes "FINISH" }) ∧
        (code ≠ Config.finishCode n share → exec (.finish { v := v, body := code }) s = .next
          { modVc s v (fun c => { c with spdm := .negotiated, exchange := none }) with hostRead := [] }))) ∧
  (∀ s v x, s.olzer = some x → measurement s v 1 = sha512 x.image) ∧
  (∀ s v, (vchip s v).used = true →
    let answers (i : Instr) (bs : List Byte) : Prop :=
      (negotiated s v = true → exec i s = .next { s with hostRead := bs }) ∧ (negotiated s v = false → exec i s = .next { s with hostRead := [] })
    answers (.getDigests v) (sha512 Config.certificateChain) ∧ answers (.getCertificate v) Config.certificateChain ∧
    (let m := measurement s v 1 ++ measurement s v 2 ++ measurement s v 3 ++ measurement s v 4
     answers (.challenge v) (m ++ Config.identitySignature m)) ∧
    (∀ n, n ≠ 1 → answers (.getMeasurements v n) (measurement s v n)) ∧
    exec (.getMeasurements v 1) s = .next { s with hostRead := measurement s v 1 ++ Config.identitySignature (measurement s v 1) }) ∧
  (∀ s v, (vchip s v).used = true →
    ((vchip s v).tdisp = .configUnlocked → exec (.tdispInterfaceRequest v .lock) s = .next (modVc s v fun c => { c with tdisp := .configLocked })) ∧
    ((vchip s v).tdisp ≠ .configUnlocked → exec (.tdispInterfaceRequest v .lock) s = .next s) ∧
    ((vchip s v).tdisp = .configLocked → exec (.tdispInterfaceRequest v .start) s = .next (modVc s v fun c => { c with tdisp := .run })) ∧
    ((vchip s v).tdisp ≠ .configLocked → exec (.tdispInterfaceRequest v .start) s = .next s)) ∧
  (∀ s v key, let secure := (vchip s v).used = true ∧ (vchip s v).spdm = .secured
    (¬secure → exec (.setKeyGroup v key) s = .next s ∧ (∀ k, exec (.setKeyContext v k key) s = .next s) ∧
      ∀ k, exec (.setKeyStream v k key) s = .next s) ∧
    (secure → (∃ t, exec (.setKeyGroup v key) s = .next t ∧ t = { s with vchips := t.vchips, linkKeys := t.linkKeys } ∧
        t.vchips = (modVc s v fun c => { c with groupKey := some key }).vchips ∧
        ((∀ g e, s.guests[(vchip s v).guest]? = some g → e ∈ g.vcns → e.2.getLsbD 62 = false) → t.linkKeys = s.linkKeys)) ∧
      (∀ k x, s.keys[k]? = some x → (x.granted = some v → exec (.setKeyContext v k key) s =
          .next { s with keys := s.keys.set k { x with key := some key, version := x.version + 1 } }) ∧
        (x.granted ≠ some v → exec (.setKeyContext v k key) s = .next s)) ∧
      ∀ k, k < 8 → exec (.setKeyStream v k key) s = .next (modVc s v fun c => { c with streamKeys := tput c.streamKeys k key }))) ∧
  (∀ s v n w bytes x c, s.vchips[v]? = some c → c.used = true → n < 8 → c.ingress[n]? = some x → x.en = true → x.err = false →
    w + bytes.length ≤ 2 ^ 20 → w < 2 ^ 20 →
    (mustHold x w bytes.length = true → ∃ t, exec (.ingressWrite v (n * 2 ^ 20 + w) bytes) s = .next t ∧
      OnlyChip v { c with posted := c.posted ++ [.ingressWrite v (n * 2 ^ 20 + w) bytes] } s t) ∧
    (mustHold x w bytes.length = false → ∃ t y, exec (.ingressWrite v (n * 2 ^ 20 + w) bytes) s = .next t ∧
      OnlyChip v { c with ingress := c.ingress.set n y } s t ∧ y = { x with window := y.window } ∧
      ∀ i b, bytes[i]? = some b → let k := recordAt x (w + i)
        let p := (w + i) % 4096
        k < ingressRecords x → p < recordBytesOf x k + 16 → tget y.window (k * 4096 + p) = some b)) ∧
  (∀ s v n c x, s.vchips[v]? = some c → c.used = true → n < 8 → c.ingress[n]? = some x → x.en = true → x.err = false →
    x.done.toNat < ingressRecords x → recordArrived x x.done.toNat = true →
    let k := x.done.toNat
    let a := x.dest.toNat + 4080 * k
    (openRecord (tget c.streamKeys n) x k = none ∨ x.dest.toNat % 128 ≠ 0 → exec (.ingressRecordVerify v n) s =
      .next (event (modVc s v fun y => { y with ingress := listMod (fun z => { z with err := true }) n y.ingress }) v 13 [(9, n), (16, k)])) ∧
    ∀ bs s1, openRecord (tget c.streamKeys n) x k = some bs → x.dest.toNat % 128 = 0 → onAnyProtected s v a bs.length = true →
      deviceWrite s v a bs = some s1 → ∃ t, exec (.ingressRecordVerify v n) s = .next t ∧ t.mem = s1.mem ∧
        (ingressAt t v n).done = (ingressAt s1 v n).done + 1 ∧ (vchip t v).posted = [] ∧
        t.inputs = ((vchip s1 v).posted.map .event) ++ s1.inputs) ∧
  ∀ s v (id : BitVec 12), (vchip s v).used = true →
    let on := ((tget (guestOf s v).allow (id.toNat / 64)).getD 0).getLsbD (id.toNat % 64)
    (on = true → (∀ j, 0x100 ≤ id.toNat → id.toNat < 0x108 → j = id.toNat - 0x100 →
        exec (.hostCounterRead v id) s = .next { s with hostRead := toLeBytes 8 (((vchip s v).counters[j]?).getD 0).toNat }) ∧
      (id.toNat < 0x100 → exec (.hostCounterRead v id) s = .next { s with hostRead :=
        ((vchip s v).bayCounters.filter fun e => field e.2.1 11 0 == id.toNat).flatMap fun e => toLeBytes 8 e.2.2.toNat })) ∧
    (on = false → exec (.hostCounterRead v id) s = .next (event { s with hostRead := List.replicate 8 0 } v 8 [(10, id.toNat)]))

/-- Bring-up and the package (R235, R273, R302 to R304). At power good a package whose Olzer image checks begins reduced service, with the
virtual chip of slot 0 on compute die 0, and one whose image does not has failed; when training ends well it goes into full service, and
when it does not the package has failed and the virtual chip of reduced service is destroyed. At regroup boundaries the clock steps by
100 MHz, never above its nominal rate. The readback mailbox reads and writes registers, reading zero, with a record, for a
counter that its guest does not allow (R272), writes table words, stated for interfaces that are not in RUN, and brings a laser module
back; a byte of scratchpad that holds plaintext of a protected context reads zero. The clock at reset, the guest, ways and frame ranges
of reduced service, and the layout of the readback spaces, are the
model's choices (logs 1, 15 and 16), and so is what the image check hashes: the key's two coordinates of 66 bytes, the highest byte
first (log 10). -/
def Obligations.PackageResults : Prop :=
  (∀ s image,
    let ok : Prop := ecdsaVerify image.keyX image.keyY image.sigR image.sigS (beNat (sha512 image.image)) = true ∧
      sha512 (beBytes 66 image.keyX ++ beBytes 66 image.keyY) = beBytes 64 Config.fusedKeyHash.toNat ∧ Config.fusedVersion ≤ image.version
    (s.pkgStat = 0 → 0 < s.vchips.length →
      (ok ∧ ∃ t c, exec (.powerGood image) s = .next t ∧
        t = { s with pkgStat := 2, raised0 := s.raised0 ++ [2, 2], olzer := some image, mhz := 400, vchips := s.vchips.set 0 c } ∧
        c.used = true ∧ c.piers = 0xFFFFFFFF ∧ c.reduced = true) ∨
      (¬ok ∧ exec (.powerGood image) s = .next { s with pkgStat := 4, raised0 := s.raised0 ++ [2, 2], olzer := some image })) ∧
    (s.pkgStat = 0 → ¬ok → exec (.powerGood image) s = .next { s with pkgStat := 4, raised0 := s.raised0 ++ [2, 2], olzer := some image }) ∧
    (s.pkgStat ≠ 0 → exec (.powerGood image) s = .next s)) ∧
  (∀ s hbm optics, (s.pkgStat = 2 → hbm = true → optics = true → (vchip s 0).launches ≠ [] → exec (.trainingComplete hbm optics) s = .next
      { s with pkgStat := 3, raised0 := s.raised0 ++ [2], hbmTrained := true, opticsOk := true, mhz := 1200 }) ∧
    (s.pkgStat = 2 → hbm = false ∨ optics = false →
      let t := { s with pkgStat := 4, raised0 := s.raised0 ++ [2], hbmTrained := hbm, opticsOk := optics }
      ((vchip s 0).reduced = true → exec (.trainingComplete hbm optics) s = .next (destroyVc t 0) ∧ (vchip (destroyVc t 0) 0).used = false) ∧
      ((vchip s 0).reduced = false → exec (.trainingComplete hbm optics) s = .next t)) ∧
    (s.pkgStat ≠ 2 → exec (.trainingComplete hbm optics) s = .next s)) ∧
  (∀ s, let top := if s.pkgStat = 2 then 400 else 1200
    let boundary : Prop := ∀ c ∈ s.cores, c.clock.toNat % 4 = 0
    (boundary → 100 < s.mhz → s.mhz - 100 ≤ top → exec (.clockStep false) s = .next (pkgEvent { s with mhz := s.mhz - 100 } 16 [(9, 0), (10, s.mhz - 100)])) ∧
    (boundary → s.mhz + 100 ≤ top → exec (.clockStep true) s = .next (pkgEvent { s with mhz := s.mhz + 100 } 16 [(9, 1), (10, s.mhz + 100)])) ∧
    (top < s.mhz + 100 → exec (.clockStep true) s = .next s)) ∧
  (∀ s, s.pkgStat ≠ 0 → let a := s.rbaddr.toNat % 2 ^ 56
    let space := s.rbaddr.toNat / 2 ^ 56
    let fn := a / 2 ^ 20
    let off := a % 2 ^ 20
    (space = 0 →
      ((∀ v id, counterRead s fn off = some (v, id) → (vchip s v).used = true → readAllowed s v id = true) →
        exec .readbackRead s = .next { s with rbdata := readReg s fn off, rberr := 0 }) ∧
      (∀ v id, counterRead s fn off = some (v, id) → (vchip s v).used = true → readAllowed s v id = false →
        exec .readbackRead s = .next { event s v 8 [(10, id)] with rbdata := 0, rberr := 0 }) ∧
      exec .readbackWrite s = .next { writeReg s (a / 2 ^ 20) (a % 2 ^ 20) s.rbdata with rberr := 0 }) ∧
    (space = 1 → a / 2 ^ 23 % 2 = 0 → ∃ x, exec .readbackRead s = .next { s with rbdata := x, rberr := 0 } ∧ ∀ i, i < 8 →
      let core := a / 2 ^ 24
      let off := a % 2 ^ 23 / 8 * 8 + i
      let secret : Prop := ∃ u, u ∈ s.teams ∧ inPlace u = true ∧ u.protKey ≠ none ∧
        ((u.coreA = core ∧ u.baseA ≤ off ∧ off < u.baseA + shareBytes u) ∨
          (u.coreB = some core ∧ u.baseB ≤ off ∧ off < u.baseB + shareBytes u))
      (secret → x.toNat / 2 ^ (8 * i) % 256 = 0) ∧ (¬secret → x.toNat / 2 ^ (8 * i) % 256 = (memRead s.mem (scratchKey core off)).toNat)) ∧
    (space = 5 → tableOk s s.rbaddr s.rbdata = true → (∀ v, v ∈ guestChips s (field s.rbaddr 3 0) → (vchip s v).tdisp ≠ .run) → exec .readbackWrite s = .next { putTable s s.rbaddr s.rbdata with rberr := 0 }) ∧
    ∀ b port, port = s.rbaddr.toNat / 8 % 64 → s.lasers[port]? = some b →
      exec .laserModuleReenable s = .next { s with lasers := s.lasers.set port (b ||| BitVec.twoPow 4 (s.rbaddr.toNat % 4)), rberr := 0 })
end

