-- ==== Sys2Proof/Laws/State.lean ====
section
/-!
SUPPORT. What each update of the state leaves alone: one lemma for each field and update.
-/

namespace Sys2Proof.Machine

@[simp] theorem modGroup_mem (s : State) (n : Nat) (f : Group → Group) : (modGroup s n f).mem = s.mem := rfl
@[simp] theorem modGroup_poison (s : State) (n : Nat) (f : Group → Group) : (modGroup s n f).poison = s.poison := rfl
@[simp] theorem modGroup_lines (s : State) (n : Nat) (f : Group → Group) : (modGroup s n f).lines = s.lines := rfl
@[simp] theorem modGroup_l2 (s : State) (n : Nat) (f : Group → Group) : (modGroup s n f).l2 = s.l2 := rfl
@[simp] theorem modGroup_tlb (s : State) (n : Nat) (f : Group → Group) : (modGroup s n f).tlb = s.tlb := rfl
@[simp] theorem modGroup_tags (s : State) (n : Nat) (f : Group → Group) : (modGroup s n f).tags = s.tags := rfl
@[simp] theorem modGroup_teams (s : State) (n : Nat) (f : Group → Group) : (modGroup s n f).teams = s.teams := rfl
@[simp] theorem modGroup_spans (s : State) (n : Nat) (f : Group → Group) : (modGroup s n f).spans = s.spans := rfl
@[simp] theorem modGroup_cores (s : State) (n : Nat) (f : Group → Group) : (modGroup s n f).cores = s.cores := rfl
@[simp] theorem modGroup_vchips (s : State) (n : Nat) (f : Group → Group) : (modGroup s n f).vchips = s.vchips := rfl
@[simp] theorem modGroup_guests (s : State) (n : Nat) (f : Group → Group) : (modGroup s n f).guests = s.guests := rfl
@[simp] theorem modGroup_keys (s : State) (n : Nat) (f : Group → Group) : (modGroup s n f).keys = s.keys := rfl
@[simp] theorem modGroup_linkKeys (s : State) (n : Nat) (f : Group → Group) : (modGroup s n f).linkKeys = s.linkKeys := rfl
@[simp] theorem modGroup_hvarg (s : State) (n : Nat) (f : Group → Group) : (modGroup s n f).hvarg = s.hvarg := rfl
@[simp] theorem modGroup_hvbusy (s : State) (n : Nat) (f : Group → Group) : (modGroup s n f).hvbusy = s.hvbusy := rfl
@[simp] theorem modGroup_hverr (s : State) (n : Nat) (f : Group → Group) : (modGroup s n f).hverr = s.hverr := rfl
@[simp] theorem modGroup_hvrun (s : State) (n : Nat) (f : Group → Group) : (modGroup s n f).hvrun = s.hvrun := rfl
@[simp] theorem modGroup_pkg (s : State) (n : Nat) (f : Group → Group) : (modGroup s n f).pkg = s.pkg := rfl
@[simp] theorem modGroup_order (s : State) (n : Nat) (f : Group → Group) : (modGroup s n f).order = s.order := rfl
@[simp] theorem modGroup_slot (s : State) (n : Nat) (f : Group → Group) : (modGroup s n f).slot = s.slot := rfl
@[simp] theorem modGroup_begun (s : State) (n : Nat) (f : Group → Group) : (modGroup s n f).begun = s.begun := rfl
@[simp] theorem modGroup_time (s : State) (n : Nat) (f : Group → Group) : (modGroup s n f).time = s.time := rfl
@[simp] theorem modGroup_subNs (s : State) (n : Nat) (f : Group → Group) : (modGroup s n f).subNs = s.subNs := rfl
@[simp] theorem modGroup_lasers (s : State) (n : Nat) (f : Group → Group) : (modGroup s n f).lasers = s.lasers := rfl
@[simp] theorem modGroup_stopped (s : State) (n : Nat) (f : Group → Group) : (modGroup s n f).stopped = s.stopped := rfl
@[simp] theorem modGroup_stripes (s : State) (n : Nat) (f : Group → Group) : (modGroup s n f).stripes = s.stripes := rfl
@[simp] theorem modGroup_egress (s : State) (n : Nat) (f : Group → Group) : (modGroup s n f).egress = s.egress := rfl
@[simp] theorem modGroup_trestle (s : State) (n : Nat) (f : Group → Group) : (modGroup s n f).trestle = s.trestle := rfl
@[simp] theorem modGroup_sent (s : State) (n : Nat) (f : Group → Group) : (modGroup s n f).sent = s.sent := rfl
@[simp] theorem modGroup_accepted (s : State) (n : Nat) (f : Group → Group) : (modGroup s n f).accepted = s.accepted := rfl
@[simp] theorem modGroup_dups (s : State) (n : Nat) (f : Group → Group) : (modGroup s n f).dups = s.dups := rfl
@[simp] theorem modGroup_ops (s : State) (n : Nat) (f : Group → Group) : (modGroup s n f).ops = s.ops := rfl
@[simp] theorem modGroup_nextTag (s : State) (n : Nat) (f : Group → Group) : (modGroup s n f).nextTag = s.nextTag := rfl
@[simp] theorem modGroup_pkgStream (s : State) (n : Nat) (f : Group → Group) : (modGroup s n f).pkgStream = s.pkgStream := rfl
@[simp] theorem modGroup_pkgStat (s : State) (n : Nat) (f : Group → Group) : (modGroup s n f).pkgStat = s.pkgStat := rfl
@[simp] theorem modGroup_hbmTrained (s : State) (n : Nat) (f : Group → Group) : (modGroup s n f).hbmTrained = s.hbmTrained := rfl
@[simp] theorem modGroup_opticsOk (s : State) (n : Nat) (f : Group → Group) : (modGroup s n f).opticsOk = s.opticsOk := rfl
@[simp] theorem modGroup_rbaddr (s : State) (n : Nat) (f : Group → Group) : (modGroup s n f).rbaddr = s.rbaddr := rfl
@[simp] theorem modGroup_rbdata (s : State) (n : Nat) (f : Group → Group) : (modGroup s n f).rbdata = s.rbdata := rfl
@[simp] theorem modGroup_rbbusy (s : State) (n : Nat) (f : Group → Group) : (modGroup s n f).rbbusy = s.rbbusy := rfl
@[simp] theorem modGroup_rberr (s : State) (n : Nat) (f : Group → Group) : (modGroup s n f).rberr = s.rberr := rfl
@[simp] theorem modGroup_raised0 (s : State) (n : Nat) (f : Group → Group) : (modGroup s n f).raised0 = s.raised0 := rfl
@[simp] theorem modGroup_mhz (s : State) (n : Nat) (f : Group → Group) : (modGroup s n f).mhz = s.mhz := rfl
@[simp] theorem modGroup_olzer (s : State) (n : Nat) (f : Group → Group) : (modGroup s n f).olzer = s.olzer := rfl
@[simp] theorem modGroup_hostRead (s : State) (n : Nat) (f : Group → Group) : (modGroup s n f).hostRead = s.hostRead := rfl
@[simp] theorem modGroup_inputs (s : State) (n : Nat) (f : Group → Group) : (modGroup s n f).inputs = s.inputs := rfl
@[simp] theorem modGroup_owed (s : State) (n : Nat) (f : Group → Group) : (modGroup s n f).owed = s.owed := rfl
@[simp] theorem modGroup_recalls (s : State) (n : Nat) (f : Group → Group) : (modGroup s n f).recalls = s.recalls := rfl
@[simp] theorem modGroup_bundle (s : State) (n : Nat) (f : Group → Group) : (modGroup s n f).bundle = s.bundle := rfl
@[simp] theorem modGroup_second (s : State) (n : Nat) (f : Group → Group) : (modGroup s n f).second = s.second := rfl
@[simp] theorem modGroup_acted (s : State) (n : Nat) (f : Group → Group) : (modGroup s n f).acted = s.acted := rfl
@[simp] theorem modGroup_waiting (s : State) (n : Nat) (f : Group → Group) : (modGroup s n f).waiting = s.waiting := rfl
@[simp] theorem modGroup_draws (s : State) (n : Nat) (f : Group → Group) : (modGroup s n f).draws = s.draws := rfl
@[simp] theorem modGroup_turn (s : State) (n : Nat) (f : Group → Group) : (modGroup s n f).turn = s.turn := rfl

@[simp] theorem modTeam_mem (s : State) (n : Nat) (f : Team → Team) : (modTeam s n f).mem = s.mem := rfl
@[simp] theorem modTeam_poison (s : State) (n : Nat) (f : Team → Team) : (modTeam s n f).poison = s.poison := rfl
@[simp] theorem modTeam_lines (s : State) (n : Nat) (f : Team → Team) : (modTeam s n f).lines = s.lines := rfl
@[simp] theorem modTeam_l2 (s : State) (n : Nat) (f : Team → Team) : (modTeam s n f).l2 = s.l2 := rfl
@[simp] theorem modTeam_tlb (s : State) (n : Nat) (f : Team → Team) : (modTeam s n f).tlb = s.tlb := rfl
@[simp] theorem modTeam_tags (s : State) (n : Nat) (f : Team → Team) : (modTeam s n f).tags = s.tags := rfl
@[simp] theorem modTeam_groups (s : State) (n : Nat) (f : Team → Team) : (modTeam s n f).groups = s.groups := rfl
@[simp] theorem modTeam_spans (s : State) (n : Nat) (f : Team → Team) : (modTeam s n f).spans = s.spans := rfl
@[simp] theorem modTeam_cores (s : State) (n : Nat) (f : Team → Team) : (modTeam s n f).cores = s.cores := rfl
@[simp] theorem modTeam_vchips (s : State) (n : Nat) (f : Team → Team) : (modTeam s n f).vchips = s.vchips := rfl
@[simp] theorem modTeam_guests (s : State) (n : Nat) (f : Team → Team) : (modTeam s n f).guests = s.guests := rfl
@[simp] theorem modTeam_keys (s : State) (n : Nat) (f : Team → Team) : (modTeam s n f).keys = s.keys := rfl
@[simp] theorem modTeam_linkKeys (s : State) (n : Nat) (f : Team → Team) : (modTeam s n f).linkKeys = s.linkKeys := rfl
@[simp] theorem modTeam_hvarg (s : State) (n : Nat) (f : Team → Team) : (modTeam s n f).hvarg = s.hvarg := rfl
@[simp] theorem modTeam_hvbusy (s : State) (n : Nat) (f : Team → Team) : (modTeam s n f).hvbusy = s.hvbusy := rfl
@[simp] theorem modTeam_hverr (s : State) (n : Nat) (f : Team → Team) : (modTeam s n f).hverr = s.hverr := rfl
@[simp] theorem modTeam_hvrun (s : State) (n : Nat) (f : Team → Team) : (modTeam s n f).hvrun = s.hvrun := rfl
@[simp] theorem modTeam_pkg (s : State) (n : Nat) (f : Team → Team) : (modTeam s n f).pkg = s.pkg := rfl
@[simp] theorem modTeam_order (s : State) (n : Nat) (f : Team → Team) : (modTeam s n f).order = s.order := rfl
@[simp] theorem modTeam_slot (s : State) (n : Nat) (f : Team → Team) : (modTeam s n f).slot = s.slot := rfl
@[simp] theorem modTeam_begun (s : State) (n : Nat) (f : Team → Team) : (modTeam s n f).begun = s.begun := rfl
@[simp] theorem modTeam_time (s : State) (n : Nat) (f : Team → Team) : (modTeam s n f).time = s.time := rfl
@[simp] theorem modTeam_subNs (s : State) (n : Nat) (f : Team → Team) : (modTeam s n f).subNs = s.subNs := rfl
@[simp] theorem modTeam_lasers (s : State) (n : Nat) (f : Team → Team) : (modTeam s n f).lasers = s.lasers := rfl
@[simp] theorem modTeam_stopped (s : State) (n : Nat) (f : Team → Team) : (modTeam s n f).stopped = s.stopped := rfl
@[simp] theorem modTeam_stripes (s : State) (n : Nat) (f : Team → Team) : (modTeam s n f).stripes = s.stripes := rfl
@[simp] theorem modTeam_egress (s : State) (n : Nat) (f : Team → Team) : (modTeam s n f).egress = s.egress := rfl
@[simp] theorem modTeam_trestle (s : State) (n : Nat) (f : Team → Team) : (modTeam s n f).trestle = s.trestle := rfl
@[simp] theorem modTeam_sent (s : State) (n : Nat) (f : Team → Team) : (modTeam s n f).sent = s.sent := rfl
@[simp] theorem modTeam_accepted (s : State) (n : Nat) (f : Team → Team) : (modTeam s n f).accepted = s.accepted := rfl
@[simp] theorem modTeam_dups (s : State) (n : Nat) (f : Team → Team) : (modTeam s n f).dups = s.dups := rfl
@[simp] theorem modTeam_ops (s : State) (n : Nat) (f : Team → Team) : (modTeam s n f).ops = s.ops := rfl
@[simp] theorem modTeam_nextTag (s : State) (n : Nat) (f : Team → Team) : (modTeam s n f).nextTag = s.nextTag := rfl
@[simp] theorem modTeam_pkgStream (s : State) (n : Nat) (f : Team → Team) : (modTeam s n f).pkgStream = s.pkgStream := rfl
@[simp] theorem modTeam_pkgStat (s : State) (n : Nat) (f : Team → Team) : (modTeam s n f).pkgStat = s.pkgStat := rfl
@[simp] theorem modTeam_hbmTrained (s : State) (n : Nat) (f : Team → Team) : (modTeam s n f).hbmTrained = s.hbmTrained := rfl
@[simp] theorem modTeam_opticsOk (s : State) (n : Nat) (f : Team → Team) : (modTeam s n f).opticsOk = s.opticsOk := rfl
@[simp] theorem modTeam_rbaddr (s : State) (n : Nat) (f : Team → Team) : (modTeam s n f).rbaddr = s.rbaddr := rfl
@[simp] theorem modTeam_rbdata (s : State) (n : Nat) (f : Team → Team) : (modTeam s n f).rbdata = s.rbdata := rfl
@[simp] theorem modTeam_rbbusy (s : State) (n : Nat) (f : Team → Team) : (modTeam s n f).rbbusy = s.rbbusy := rfl
@[simp] theorem modTeam_rberr (s : State) (n : Nat) (f : Team → Team) : (modTeam s n f).rberr = s.rberr := rfl
@[simp] theorem modTeam_raised0 (s : State) (n : Nat) (f : Team → Team) : (modTeam s n f).raised0 = s.raised0 := rfl
@[simp] theorem modTeam_mhz (s : State) (n : Nat) (f : Team → Team) : (modTeam s n f).mhz = s.mhz := rfl
@[simp] theorem modTeam_olzer (s : State) (n : Nat) (f : Team → Team) : (modTeam s n f).olzer = s.olzer := rfl
@[simp] theorem modTeam_hostRead (s : State) (n : Nat) (f : Team → Team) : (modTeam s n f).hostRead = s.hostRead := rfl
@[simp] theorem modTeam_inputs (s : State) (n : Nat) (f : Team → Team) : (modTeam s n f).inputs = s.inputs := rfl
@[simp] theorem modTeam_owed (s : State) (n : Nat) (f : Team → Team) : (modTeam s n f).owed = s.owed := rfl
@[simp] theorem modTeam_recalls (s : State) (n : Nat) (f : Team → Team) : (modTeam s n f).recalls = s.recalls := rfl
@[simp] theorem modTeam_bundle (s : State) (n : Nat) (f : Team → Team) : (modTeam s n f).bundle = s.bundle := rfl
@[simp] theorem modTeam_second (s : State) (n : Nat) (f : Team → Team) : (modTeam s n f).second = s.second := rfl
@[simp] theorem modTeam_acted (s : State) (n : Nat) (f : Team → Team) : (modTeam s n f).acted = s.acted := rfl
@[simp] theorem modTeam_waiting (s : State) (n : Nat) (f : Team → Team) : (modTeam s n f).waiting = s.waiting := rfl
@[simp] theorem modTeam_draws (s : State) (n : Nat) (f : Team → Team) : (modTeam s n f).draws = s.draws := rfl
@[simp] theorem modTeam_turn (s : State) (n : Nat) (f : Team → Team) : (modTeam s n f).turn = s.turn := rfl

@[simp] theorem modVc_mem (s : State) (n : Nat) (f : VChip → VChip) : (modVc s n f).mem = s.mem := rfl
@[simp] theorem modVc_poison (s : State) (n : Nat) (f : VChip → VChip) : (modVc s n f).poison = s.poison := rfl
@[simp] theorem modVc_lines (s : State) (n : Nat) (f : VChip → VChip) : (modVc s n f).lines = s.lines := rfl
@[simp] theorem modVc_l2 (s : State) (n : Nat) (f : VChip → VChip) : (modVc s n f).l2 = s.l2 := rfl
@[simp] theorem modVc_tlb (s : State) (n : Nat) (f : VChip → VChip) : (modVc s n f).tlb = s.tlb := rfl
@[simp] theorem modVc_tags (s : State) (n : Nat) (f : VChip → VChip) : (modVc s n f).tags = s.tags := rfl
@[simp] theorem modVc_groups (s : State) (n : Nat) (f : VChip → VChip) : (modVc s n f).groups = s.groups := rfl
@[simp] theorem modVc_teams (s : State) (n : Nat) (f : VChip → VChip) : (modVc s n f).teams = s.teams := rfl
@[simp] theorem modVc_spans (s : State) (n : Nat) (f : VChip → VChip) : (modVc s n f).spans = s.spans := rfl
@[simp] theorem modVc_cores (s : State) (n : Nat) (f : VChip → VChip) : (modVc s n f).cores = s.cores := rfl
@[simp] theorem modVc_guests (s : State) (n : Nat) (f : VChip → VChip) : (modVc s n f).guests = s.guests := rfl
@[simp] theorem modVc_keys (s : State) (n : Nat) (f : VChip → VChip) : (modVc s n f).keys = s.keys := rfl
@[simp] theorem modVc_linkKeys (s : State) (n : Nat) (f : VChip → VChip) : (modVc s n f).linkKeys = s.linkKeys := rfl
@[simp] theorem modVc_hvarg (s : State) (n : Nat) (f : VChip → VChip) : (modVc s n f).hvarg = s.hvarg := rfl
@[simp] theorem modVc_hvbusy (s : State) (n : Nat) (f : VChip → VChip) : (modVc s n f).hvbusy = s.hvbusy := rfl
@[simp] theorem modVc_hverr (s : State) (n : Nat) (f : VChip → VChip) : (modVc s n f).hverr = s.hverr := rfl
@[simp] theorem modVc_hvrun (s : State) (n : Nat) (f : VChip → VChip) : (modVc s n f).hvrun = s.hvrun := rfl
@[simp] theorem modVc_pkg (s : State) (n : Nat) (f : VChip → VChip) : (modVc s n f).pkg = s.pkg := rfl
@[simp] theorem modVc_order (s : State) (n : Nat) (f : VChip → VChip) : (modVc s n f).order = s.order := rfl
@[simp] theorem modVc_slot (s : State) (n : Nat) (f : VChip → VChip) : (modVc s n f).slot = s.slot := rfl
@[simp] theorem modVc_begun (s : State) (n : Nat) (f : VChip → VChip) : (modVc s n f).begun = s.begun := rfl
@[simp] theorem modVc_time (s : State) (n : Nat) (f : VChip → VChip) : (modVc s n f).time = s.time := rfl
@[simp] theorem modVc_subNs (s : State) (n : Nat) (f : VChip → VChip) : (modVc s n f).subNs = s.subNs := rfl
@[simp] theorem modVc_lasers (s : State) (n : Nat) (f : VChip → VChip) : (modVc s n f).lasers = s.lasers := rfl
@[simp] theorem modVc_stopped (s : State) (n : Nat) (f : VChip → VChip) : (modVc s n f).stopped = s.stopped := rfl
@[simp] theorem modVc_stripes (s : State) (n : Nat) (f : VChip → VChip) : (modVc s n f).stripes = s.stripes := rfl
@[simp] theorem modVc_egress (s : State) (n : Nat) (f : VChip → VChip) : (modVc s n f).egress = s.egress := rfl
@[simp] theorem modVc_trestle (s : State) (n : Nat) (f : VChip → VChip) : (modVc s n f).trestle = s.trestle := rfl
@[simp] theorem modVc_sent (s : State) (n : Nat) (f : VChip → VChip) : (modVc s n f).sent = s.sent := rfl
@[simp] theorem modVc_accepted (s : State) (n : Nat) (f : VChip → VChip) : (modVc s n f).accepted = s.accepted := rfl
@[simp] theorem modVc_dups (s : State) (n : Nat) (f : VChip → VChip) : (modVc s n f).dups = s.dups := rfl
@[simp] theorem modVc_ops (s : State) (n : Nat) (f : VChip → VChip) : (modVc s n f).ops = s.ops := rfl
@[simp] theorem modVc_nextTag (s : State) (n : Nat) (f : VChip → VChip) : (modVc s n f).nextTag = s.nextTag := rfl
@[simp] theorem modVc_pkgStream (s : State) (n : Nat) (f : VChip → VChip) : (modVc s n f).pkgStream = s.pkgStream := rfl
@[simp] theorem modVc_pkgStat (s : State) (n : Nat) (f : VChip → VChip) : (modVc s n f).pkgStat = s.pkgStat := rfl
@[simp] theorem modVc_hbmTrained (s : State) (n : Nat) (f : VChip → VChip) : (modVc s n f).hbmTrained = s.hbmTrained := rfl
@[simp] theorem modVc_opticsOk (s : State) (n : Nat) (f : VChip → VChip) : (modVc s n f).opticsOk = s.opticsOk := rfl
@[simp] theorem modVc_rbaddr (s : State) (n : Nat) (f : VChip → VChip) : (modVc s n f).rbaddr = s.rbaddr := rfl
@[simp] theorem modVc_rbdata (s : State) (n : Nat) (f : VChip → VChip) : (modVc s n f).rbdata = s.rbdata := rfl
@[simp] theorem modVc_rbbusy (s : State) (n : Nat) (f : VChip → VChip) : (modVc s n f).rbbusy = s.rbbusy := rfl
@[simp] theorem modVc_rberr (s : State) (n : Nat) (f : VChip → VChip) : (modVc s n f).rberr = s.rberr := rfl
@[simp] theorem modVc_raised0 (s : State) (n : Nat) (f : VChip → VChip) : (modVc s n f).raised0 = s.raised0 := rfl
@[simp] theorem modVc_mhz (s : State) (n : Nat) (f : VChip → VChip) : (modVc s n f).mhz = s.mhz := rfl
@[simp] theorem modVc_olzer (s : State) (n : Nat) (f : VChip → VChip) : (modVc s n f).olzer = s.olzer := rfl
@[simp] theorem modVc_hostRead (s : State) (n : Nat) (f : VChip → VChip) : (modVc s n f).hostRead = s.hostRead := rfl
@[simp] theorem modVc_inputs (s : State) (n : Nat) (f : VChip → VChip) : (modVc s n f).inputs = s.inputs := rfl
@[simp] theorem modVc_owed (s : State) (n : Nat) (f : VChip → VChip) : (modVc s n f).owed = s.owed := rfl
@[simp] theorem modVc_recalls (s : State) (n : Nat) (f : VChip → VChip) : (modVc s n f).recalls = s.recalls := rfl
@[simp] theorem modVc_bundle (s : State) (n : Nat) (f : VChip → VChip) : (modVc s n f).bundle = s.bundle := rfl
@[simp] theorem modVc_second (s : State) (n : Nat) (f : VChip → VChip) : (modVc s n f).second = s.second := rfl
@[simp] theorem modVc_acted (s : State) (n : Nat) (f : VChip → VChip) : (modVc s n f).acted = s.acted := rfl
@[simp] theorem modVc_waiting (s : State) (n : Nat) (f : VChip → VChip) : (modVc s n f).waiting = s.waiting := rfl
@[simp] theorem modVc_draws (s : State) (n : Nat) (f : VChip → VChip) : (modVc s n f).draws = s.draws := rfl
@[simp] theorem modVc_turn (s : State) (n : Nat) (f : VChip → VChip) : (modVc s n f).turn = s.turn := rfl

@[simp] theorem modCore_mem (s : State) (n : Nat) (f : Core → Core) : (modCore s n f).mem = s.mem := rfl
@[simp] theorem modCore_poison (s : State) (n : Nat) (f : Core → Core) : (modCore s n f).poison = s.poison := rfl
@[simp] theorem modCore_lines (s : State) (n : Nat) (f : Core → Core) : (modCore s n f).lines = s.lines := rfl
@[simp] theorem modCore_l2 (s : State) (n : Nat) (f : Core → Core) : (modCore s n f).l2 = s.l2 := rfl
@[simp] theorem modCore_tlb (s : State) (n : Nat) (f : Core → Core) : (modCore s n f).tlb = s.tlb := rfl
@[simp] theorem modCore_tags (s : State) (n : Nat) (f : Core → Core) : (modCore s n f).tags = s.tags := rfl
@[simp] theorem modCore_groups (s : State) (n : Nat) (f : Core → Core) : (modCore s n f).groups = s.groups := rfl
@[simp] theorem modCore_teams (s : State) (n : Nat) (f : Core → Core) : (modCore s n f).teams = s.teams := rfl
@[simp] theorem modCore_spans (s : State) (n : Nat) (f : Core → Core) : (modCore s n f).spans = s.spans := rfl
@[simp] theorem modCore_vchips (s : State) (n : Nat) (f : Core → Core) : (modCore s n f).vchips = s.vchips := rfl
@[simp] theorem modCore_guests (s : State) (n : Nat) (f : Core → Core) : (modCore s n f).guests = s.guests := rfl
@[simp] theorem modCore_keys (s : State) (n : Nat) (f : Core → Core) : (modCore s n f).keys = s.keys := rfl
@[simp] theorem modCore_linkKeys (s : State) (n : Nat) (f : Core → Core) : (modCore s n f).linkKeys = s.linkKeys := rfl
@[simp] theorem modCore_hvarg (s : State) (n : Nat) (f : Core → Core) : (modCore s n f).hvarg = s.hvarg := rfl
@[simp] theorem modCore_hvbusy (s : State) (n : Nat) (f : Core → Core) : (modCore s n f).hvbusy = s.hvbusy := rfl
@[simp] theorem modCore_hverr (s : State) (n : Nat) (f : Core → Core) : (modCore s n f).hverr = s.hverr := rfl
@[simp] theorem modCore_hvrun (s : State) (n : Nat) (f : Core → Core) : (modCore s n f).hvrun = s.hvrun := rfl
@[simp] theorem modCore_pkg (s : State) (n : Nat) (f : Core → Core) : (modCore s n f).pkg = s.pkg := rfl
@[simp] theorem modCore_order (s : State) (n : Nat) (f : Core → Core) : (modCore s n f).order = s.order := rfl
@[simp] theorem modCore_slot (s : State) (n : Nat) (f : Core → Core) : (modCore s n f).slot = s.slot := rfl
@[simp] theorem modCore_begun (s : State) (n : Nat) (f : Core → Core) : (modCore s n f).begun = s.begun := rfl
@[simp] theorem modCore_time (s : State) (n : Nat) (f : Core → Core) : (modCore s n f).time = s.time := rfl
@[simp] theorem modCore_subNs (s : State) (n : Nat) (f : Core → Core) : (modCore s n f).subNs = s.subNs := rfl
@[simp] theorem modCore_lasers (s : State) (n : Nat) (f : Core → Core) : (modCore s n f).lasers = s.lasers := rfl
@[simp] theorem modCore_stopped (s : State) (n : Nat) (f : Core → Core) : (modCore s n f).stopped = s.stopped := rfl
@[simp] theorem modCore_stripes (s : State) (n : Nat) (f : Core → Core) : (modCore s n f).stripes = s.stripes := rfl
@[simp] theorem modCore_egress (s : State) (n : Nat) (f : Core → Core) : (modCore s n f).egress = s.egress := rfl
@[simp] theorem modCore_trestle (s : State) (n : Nat) (f : Core → Core) : (modCore s n f).trestle = s.trestle := rfl
@[simp] theorem modCore_sent (s : State) (n : Nat) (f : Core → Core) : (modCore s n f).sent = s.sent := rfl
@[simp] theorem modCore_accepted (s : State) (n : Nat) (f : Core → Core) : (modCore s n f).accepted = s.accepted := rfl
@[simp] theorem modCore_dups (s : State) (n : Nat) (f : Core → Core) : (modCore s n f).dups = s.dups := rfl
@[simp] theorem modCore_ops (s : State) (n : Nat) (f : Core → Core) : (modCore s n f).ops = s.ops := rfl
@[simp] theorem modCore_nextTag (s : State) (n : Nat) (f : Core → Core) : (modCore s n f).nextTag = s.nextTag := rfl
@[simp] theorem modCore_pkgStream (s : State) (n : Nat) (f : Core → Core) : (modCore s n f).pkgStream = s.pkgStream := rfl
@[simp] theorem modCore_pkgStat (s : State) (n : Nat) (f : Core → Core) : (modCore s n f).pkgStat = s.pkgStat := rfl
@[simp] theorem modCore_hbmTrained (s : State) (n : Nat) (f : Core → Core) : (modCore s n f).hbmTrained = s.hbmTrained := rfl
@[simp] theorem modCore_opticsOk (s : State) (n : Nat) (f : Core → Core) : (modCore s n f).opticsOk = s.opticsOk := rfl
@[simp] theorem modCore_rbaddr (s : State) (n : Nat) (f : Core → Core) : (modCore s n f).rbaddr = s.rbaddr := rfl
@[simp] theorem modCore_rbdata (s : State) (n : Nat) (f : Core → Core) : (modCore s n f).rbdata = s.rbdata := rfl
@[simp] theorem modCore_rbbusy (s : State) (n : Nat) (f : Core → Core) : (modCore s n f).rbbusy = s.rbbusy := rfl
@[simp] theorem modCore_rberr (s : State) (n : Nat) (f : Core → Core) : (modCore s n f).rberr = s.rberr := rfl
@[simp] theorem modCore_raised0 (s : State) (n : Nat) (f : Core → Core) : (modCore s n f).raised0 = s.raised0 := rfl
@[simp] theorem modCore_mhz (s : State) (n : Nat) (f : Core → Core) : (modCore s n f).mhz = s.mhz := rfl
@[simp] theorem modCore_olzer (s : State) (n : Nat) (f : Core → Core) : (modCore s n f).olzer = s.olzer := rfl
@[simp] theorem modCore_hostRead (s : State) (n : Nat) (f : Core → Core) : (modCore s n f).hostRead = s.hostRead := rfl
@[simp] theorem modCore_inputs (s : State) (n : Nat) (f : Core → Core) : (modCore s n f).inputs = s.inputs := rfl
@[simp] theorem modCore_owed (s : State) (n : Nat) (f : Core → Core) : (modCore s n f).owed = s.owed := rfl
@[simp] theorem modCore_recalls (s : State) (n : Nat) (f : Core → Core) : (modCore s n f).recalls = s.recalls := rfl
@[simp] theorem modCore_bundle (s : State) (n : Nat) (f : Core → Core) : (modCore s n f).bundle = s.bundle := rfl
@[simp] theorem modCore_second (s : State) (n : Nat) (f : Core → Core) : (modCore s n f).second = s.second := rfl
@[simp] theorem modCore_acted (s : State) (n : Nat) (f : Core → Core) : (modCore s n f).acted = s.acted := rfl
@[simp] theorem modCore_waiting (s : State) (n : Nat) (f : Core → Core) : (modCore s n f).waiting = s.waiting := rfl
@[simp] theorem modCore_draws (s : State) (n : Nat) (f : Core → Core) : (modCore s n f).draws = s.draws := rfl
@[simp] theorem modCore_turn (s : State) (n : Nat) (f : Core → Core) : (modCore s n f).turn = s.turn := rfl

@[simp] theorem modSpan_mem (s : State) (n : Nat) (f : Span → Span) : (modSpan s n f).mem = s.mem := rfl
@[simp] theorem modSpan_poison (s : State) (n : Nat) (f : Span → Span) : (modSpan s n f).poison = s.poison := rfl
@[simp] theorem modSpan_lines (s : State) (n : Nat) (f : Span → Span) : (modSpan s n f).lines = s.lines := rfl
@[simp] theorem modSpan_l2 (s : State) (n : Nat) (f : Span → Span) : (modSpan s n f).l2 = s.l2 := rfl
@[simp] theorem modSpan_tlb (s : State) (n : Nat) (f : Span → Span) : (modSpan s n f).tlb = s.tlb := rfl
@[simp] theorem modSpan_tags (s : State) (n : Nat) (f : Span → Span) : (modSpan s n f).tags = s.tags := rfl
@[simp] theorem modSpan_groups (s : State) (n : Nat) (f : Span → Span) : (modSpan s n f).groups = s.groups := rfl
@[simp] theorem modSpan_teams (s : State) (n : Nat) (f : Span → Span) : (modSpan s n f).teams = s.teams := rfl
@[simp] theorem modSpan_cores (s : State) (n : Nat) (f : Span → Span) : (modSpan s n f).cores = s.cores := rfl
@[simp] theorem modSpan_vchips (s : State) (n : Nat) (f : Span → Span) : (modSpan s n f).vchips = s.vchips := rfl
@[simp] theorem modSpan_guests (s : State) (n : Nat) (f : Span → Span) : (modSpan s n f).guests = s.guests := rfl
@[simp] theorem modSpan_keys (s : State) (n : Nat) (f : Span → Span) : (modSpan s n f).keys = s.keys := rfl
@[simp] theorem modSpan_linkKeys (s : State) (n : Nat) (f : Span → Span) : (modSpan s n f).linkKeys = s.linkKeys := rfl
@[simp] theorem modSpan_hvarg (s : State) (n : Nat) (f : Span → Span) : (modSpan s n f).hvarg = s.hvarg := rfl
@[simp] theorem modSpan_hvbusy (s : State) (n : Nat) (f : Span → Span) : (modSpan s n f).hvbusy = s.hvbusy := rfl
@[simp] theorem modSpan_hverr (s : State) (n : Nat) (f : Span → Span) : (modSpan s n f).hverr = s.hverr := rfl
@[simp] theorem modSpan_hvrun (s : State) (n : Nat) (f : Span → Span) : (modSpan s n f).hvrun = s.hvrun := rfl
@[simp] theorem modSpan_pkg (s : State) (n : Nat) (f : Span → Span) : (modSpan s n f).pkg = s.pkg := rfl
@[simp] theorem modSpan_order (s : State) (n : Nat) (f : Span → Span) : (modSpan s n f).order = s.order := rfl
@[simp] theorem modSpan_slot (s : State) (n : Nat) (f : Span → Span) : (modSpan s n f).slot = s.slot := rfl
@[simp] theorem modSpan_begun (s : State) (n : Nat) (f : Span → Span) : (modSpan s n f).begun = s.begun := rfl
@[simp] theorem modSpan_time (s : State) (n : Nat) (f : Span → Span) : (modSpan s n f).time = s.time := rfl
@[simp] theorem modSpan_subNs (s : State) (n : Nat) (f : Span → Span) : (modSpan s n f).subNs = s.subNs := rfl
@[simp] theorem modSpan_lasers (s : State) (n : Nat) (f : Span → Span) : (modSpan s n f).lasers = s.lasers := rfl
@[simp] theorem modSpan_stopped (s : State) (n : Nat) (f : Span → Span) : (modSpan s n f).stopped = s.stopped := rfl
@[simp] theorem modSpan_stripes (s : State) (n : Nat) (f : Span → Span) : (modSpan s n f).stripes = s.stripes := rfl
@[simp] theorem modSpan_egress (s : State) (n : Nat) (f : Span → Span) : (modSpan s n f).egress = s.egress := rfl
@[simp] theorem modSpan_trestle (s : State) (n : Nat) (f : Span → Span) : (modSpan s n f).trestle = s.trestle := rfl
@[simp] theorem modSpan_sent (s : State) (n : Nat) (f : Span → Span) : (modSpan s n f).sent = s.sent := rfl
@[simp] theorem modSpan_accepted (s : State) (n : Nat) (f : Span → Span) : (modSpan s n f).accepted = s.accepted := rfl
@[simp] theorem modSpan_dups (s : State) (n : Nat) (f : Span → Span) : (modSpan s n f).dups = s.dups := rfl
@[simp] theorem modSpan_ops (s : State) (n : Nat) (f : Span → Span) : (modSpan s n f).ops = s.ops := rfl
@[simp] theorem modSpan_nextTag (s : State) (n : Nat) (f : Span → Span) : (modSpan s n f).nextTag = s.nextTag := rfl
@[simp] theorem modSpan_pkgStream (s : State) (n : Nat) (f : Span → Span) : (modSpan s n f).pkgStream = s.pkgStream := rfl
@[simp] theorem modSpan_pkgStat (s : State) (n : Nat) (f : Span → Span) : (modSpan s n f).pkgStat = s.pkgStat := rfl
@[simp] theorem modSpan_hbmTrained (s : State) (n : Nat) (f : Span → Span) : (modSpan s n f).hbmTrained = s.hbmTrained := rfl
@[simp] theorem modSpan_opticsOk (s : State) (n : Nat) (f : Span → Span) : (modSpan s n f).opticsOk = s.opticsOk := rfl
@[simp] theorem modSpan_rbaddr (s : State) (n : Nat) (f : Span → Span) : (modSpan s n f).rbaddr = s.rbaddr := rfl
@[simp] theorem modSpan_rbdata (s : State) (n : Nat) (f : Span → Span) : (modSpan s n f).rbdata = s.rbdata := rfl
@[simp] theorem modSpan_rbbusy (s : State) (n : Nat) (f : Span → Span) : (modSpan s n f).rbbusy = s.rbbusy := rfl
@[simp] theorem modSpan_rberr (s : State) (n : Nat) (f : Span → Span) : (modSpan s n f).rberr = s.rberr := rfl
@[simp] theorem modSpan_raised0 (s : State) (n : Nat) (f : Span → Span) : (modSpan s n f).raised0 = s.raised0 := rfl
@[simp] theorem modSpan_mhz (s : State) (n : Nat) (f : Span → Span) : (modSpan s n f).mhz = s.mhz := rfl
@[simp] theorem modSpan_olzer (s : State) (n : Nat) (f : Span → Span) : (modSpan s n f).olzer = s.olzer := rfl
@[simp] theorem modSpan_hostRead (s : State) (n : Nat) (f : Span → Span) : (modSpan s n f).hostRead = s.hostRead := rfl
@[simp] theorem modSpan_inputs (s : State) (n : Nat) (f : Span → Span) : (modSpan s n f).inputs = s.inputs := rfl
@[simp] theorem modSpan_owed (s : State) (n : Nat) (f : Span → Span) : (modSpan s n f).owed = s.owed := rfl
@[simp] theorem modSpan_recalls (s : State) (n : Nat) (f : Span → Span) : (modSpan s n f).recalls = s.recalls := rfl
@[simp] theorem modSpan_bundle (s : State) (n : Nat) (f : Span → Span) : (modSpan s n f).bundle = s.bundle := rfl
@[simp] theorem modSpan_second (s : State) (n : Nat) (f : Span → Span) : (modSpan s n f).second = s.second := rfl
@[simp] theorem modSpan_acted (s : State) (n : Nat) (f : Span → Span) : (modSpan s n f).acted = s.acted := rfl
@[simp] theorem modSpan_waiting (s : State) (n : Nat) (f : Span → Span) : (modSpan s n f).waiting = s.waiting := rfl
@[simp] theorem modSpan_draws (s : State) (n : Nat) (f : Span → Span) : (modSpan s n f).draws = s.draws := rfl
@[simp] theorem modSpan_turn (s : State) (n : Nat) (f : Span → Span) : (modSpan s n f).turn = s.turn := rfl

@[simp] theorem modEngine_mem (s : State) (n : Nat) (f : Engine → Engine) : (modEngine s n f).mem = s.mem := rfl
@[simp] theorem modEngine_poison (s : State) (n : Nat) (f : Engine → Engine) : (modEngine s n f).poison = s.poison := rfl
@[simp] theorem modEngine_lines (s : State) (n : Nat) (f : Engine → Engine) : (modEngine s n f).lines = s.lines := rfl
@[simp] theorem modEngine_l2 (s : State) (n : Nat) (f : Engine → Engine) : (modEngine s n f).l2 = s.l2 := rfl
@[simp] theorem modEngine_tlb (s : State) (n : Nat) (f : Engine → Engine) : (modEngine s n f).tlb = s.tlb := rfl
@[simp] theorem modEngine_tags (s : State) (n : Nat) (f : Engine → Engine) : (modEngine s n f).tags = s.tags := rfl
@[simp] theorem modEngine_groups (s : State) (n : Nat) (f : Engine → Engine) : (modEngine s n f).groups = s.groups := rfl
@[simp] theorem modEngine_teams (s : State) (n : Nat) (f : Engine → Engine) : (modEngine s n f).teams = s.teams := rfl
@[simp] theorem modEngine_spans (s : State) (n : Nat) (f : Engine → Engine) : (modEngine s n f).spans = s.spans := rfl
@[simp] theorem modEngine_vchips (s : State) (n : Nat) (f : Engine → Engine) : (modEngine s n f).vchips = s.vchips := rfl
@[simp] theorem modEngine_guests (s : State) (n : Nat) (f : Engine → Engine) : (modEngine s n f).guests = s.guests := rfl
@[simp] theorem modEngine_keys (s : State) (n : Nat) (f : Engine → Engine) : (modEngine s n f).keys = s.keys := rfl
@[simp] theorem modEngine_linkKeys (s : State) (n : Nat) (f : Engine → Engine) : (modEngine s n f).linkKeys = s.linkKeys := rfl
@[simp] theorem modEngine_hvarg (s : State) (n : Nat) (f : Engine → Engine) : (modEngine s n f).hvarg = s.hvarg := rfl
@[simp] theorem modEngine_hvbusy (s : State) (n : Nat) (f : Engine → Engine) : (modEngine s n f).hvbusy = s.hvbusy := rfl
@[simp] theorem modEngine_hverr (s : State) (n : Nat) (f : Engine → Engine) : (modEngine s n f).hverr = s.hverr := rfl
@[simp] theorem modEngine_hvrun (s : State) (n : Nat) (f : Engine → Engine) : (modEngine s n f).hvrun = s.hvrun := rfl
@[simp] theorem modEngine_pkg (s : State) (n : Nat) (f : Engine → Engine) : (modEngine s n f).pkg = s.pkg := rfl
@[simp] theorem modEngine_order (s : State) (n : Nat) (f : Engine → Engine) : (modEngine s n f).order = s.order := rfl
@[simp] theorem modEngine_slot (s : State) (n : Nat) (f : Engine → Engine) : (modEngine s n f).slot = s.slot := rfl
@[simp] theorem modEngine_begun (s : State) (n : Nat) (f : Engine → Engine) : (modEngine s n f).begun = s.begun := rfl
@[simp] theorem modEngine_time (s : State) (n : Nat) (f : Engine → Engine) : (modEngine s n f).time = s.time := rfl
@[simp] theorem modEngine_subNs (s : State) (n : Nat) (f : Engine → Engine) : (modEngine s n f).subNs = s.subNs := rfl
@[simp] theorem modEngine_lasers (s : State) (n : Nat) (f : Engine → Engine) : (modEngine s n f).lasers = s.lasers := rfl
@[simp] theorem modEngine_stopped (s : State) (n : Nat) (f : Engine → Engine) : (modEngine s n f).stopped = s.stopped := rfl
@[simp] theorem modEngine_stripes (s : State) (n : Nat) (f : Engine → Engine) : (modEngine s n f).stripes = s.stripes := rfl
@[simp] theorem modEngine_egress (s : State) (n : Nat) (f : Engine → Engine) : (modEngine s n f).egress = s.egress := rfl
@[simp] theorem modEngine_trestle (s : State) (n : Nat) (f : Engine → Engine) : (modEngine s n f).trestle = s.trestle := rfl
@[simp] theorem modEngine_sent (s : State) (n : Nat) (f : Engine → Engine) : (modEngine s n f).sent = s.sent := rfl
@[simp] theorem modEngine_accepted (s : State) (n : Nat) (f : Engine → Engine) : (modEngine s n f).accepted = s.accepted := rfl
@[simp] theorem modEngine_dups (s : State) (n : Nat) (f : Engine → Engine) : (modEngine s n f).dups = s.dups := rfl
@[simp] theorem modEngine_ops (s : State) (n : Nat) (f : Engine → Engine) : (modEngine s n f).ops = s.ops := rfl
@[simp] theorem modEngine_nextTag (s : State) (n : Nat) (f : Engine → Engine) : (modEngine s n f).nextTag = s.nextTag := rfl
@[simp] theorem modEngine_pkgStream (s : State) (n : Nat) (f : Engine → Engine) : (modEngine s n f).pkgStream = s.pkgStream := rfl
@[simp] theorem modEngine_pkgStat (s : State) (n : Nat) (f : Engine → Engine) : (modEngine s n f).pkgStat = s.pkgStat := rfl
@[simp] theorem modEngine_hbmTrained (s : State) (n : Nat) (f : Engine → Engine) : (modEngine s n f).hbmTrained = s.hbmTrained := rfl
@[simp] theorem modEngine_opticsOk (s : State) (n : Nat) (f : Engine → Engine) : (modEngine s n f).opticsOk = s.opticsOk := rfl
@[simp] theorem modEngine_rbaddr (s : State) (n : Nat) (f : Engine → Engine) : (modEngine s n f).rbaddr = s.rbaddr := rfl
@[simp] theorem modEngine_rbdata (s : State) (n : Nat) (f : Engine → Engine) : (modEngine s n f).rbdata = s.rbdata := rfl
@[simp] theorem modEngine_rbbusy (s : State) (n : Nat) (f : Engine → Engine) : (modEngine s n f).rbbusy = s.rbbusy := rfl
@[simp] theorem modEngine_rberr (s : State) (n : Nat) (f : Engine → Engine) : (modEngine s n f).rberr = s.rberr := rfl
@[simp] theorem modEngine_raised0 (s : State) (n : Nat) (f : Engine → Engine) : (modEngine s n f).raised0 = s.raised0 := rfl
@[simp] theorem modEngine_mhz (s : State) (n : Nat) (f : Engine → Engine) : (modEngine s n f).mhz = s.mhz := rfl
@[simp] theorem modEngine_olzer (s : State) (n : Nat) (f : Engine → Engine) : (modEngine s n f).olzer = s.olzer := rfl
@[simp] theorem modEngine_hostRead (s : State) (n : Nat) (f : Engine → Engine) : (modEngine s n f).hostRead = s.hostRead := rfl
@[simp] theorem modEngine_inputs (s : State) (n : Nat) (f : Engine → Engine) : (modEngine s n f).inputs = s.inputs := rfl
@[simp] theorem modEngine_owed (s : State) (n : Nat) (f : Engine → Engine) : (modEngine s n f).owed = s.owed := rfl
@[simp] theorem modEngine_recalls (s : State) (n : Nat) (f : Engine → Engine) : (modEngine s n f).recalls = s.recalls := rfl
@[simp] theorem modEngine_bundle (s : State) (n : Nat) (f : Engine → Engine) : (modEngine s n f).bundle = s.bundle := rfl
@[simp] theorem modEngine_second (s : State) (n : Nat) (f : Engine → Engine) : (modEngine s n f).second = s.second := rfl
@[simp] theorem modEngine_acted (s : State) (n : Nat) (f : Engine → Engine) : (modEngine s n f).acted = s.acted := rfl
@[simp] theorem modEngine_waiting (s : State) (n : Nat) (f : Engine → Engine) : (modEngine s n f).waiting = s.waiting := rfl
@[simp] theorem modEngine_draws (s : State) (n : Nat) (f : Engine → Engine) : (modEngine s n f).draws = s.draws := rfl
@[simp] theorem modEngine_turn (s : State) (n : Nat) (f : Engine → Engine) : (modEngine s n f).turn = s.turn := rfl

@[simp] theorem onGroup_mem (s : State) (c : Ctx) (f : Group → Group) : (onGroup s c f).mem = s.mem := rfl
@[simp] theorem onGroup_poison (s : State) (c : Ctx) (f : Group → Group) : (onGroup s c f).poison = s.poison := rfl
@[simp] theorem onGroup_lines (s : State) (c : Ctx) (f : Group → Group) : (onGroup s c f).lines = s.lines := rfl
@[simp] theorem onGroup_l2 (s : State) (c : Ctx) (f : Group → Group) : (onGroup s c f).l2 = s.l2 := rfl
@[simp] theorem onGroup_tlb (s : State) (c : Ctx) (f : Group → Group) : (onGroup s c f).tlb = s.tlb := rfl
@[simp] theorem onGroup_tags (s : State) (c : Ctx) (f : Group → Group) : (onGroup s c f).tags = s.tags := rfl
@[simp] theorem onGroup_teams (s : State) (c : Ctx) (f : Group → Group) : (onGroup s c f).teams = s.teams := rfl
@[simp] theorem onGroup_spans (s : State) (c : Ctx) (f : Group → Group) : (onGroup s c f).spans = s.spans := rfl
@[simp] theorem onGroup_cores (s : State) (c : Ctx) (f : Group → Group) : (onGroup s c f).cores = s.cores := rfl
@[simp] theorem onGroup_vchips (s : State) (c : Ctx) (f : Group → Group) : (onGroup s c f).vchips = s.vchips := rfl
@[simp] theorem onGroup_guests (s : State) (c : Ctx) (f : Group → Group) : (onGroup s c f).guests = s.guests := rfl
@[simp] theorem onGroup_keys (s : State) (c : Ctx) (f : Group → Group) : (onGroup s c f).keys = s.keys := rfl
@[simp] theorem onGroup_linkKeys (s : State) (c : Ctx) (f : Group → Group) : (onGroup s c f).linkKeys = s.linkKeys := rfl
@[simp] theorem onGroup_hvarg (s : State) (c : Ctx) (f : Group → Group) : (onGroup s c f).hvarg = s.hvarg := rfl
@[simp] theorem onGroup_hvbusy (s : State) (c : Ctx) (f : Group → Group) : (onGroup s c f).hvbusy = s.hvbusy := rfl
@[simp] theorem onGroup_hverr (s : State) (c : Ctx) (f : Group → Group) : (onGroup s c f).hverr = s.hverr := rfl
@[simp] theorem onGroup_hvrun (s : State) (c : Ctx) (f : Group → Group) : (onGroup s c f).hvrun = s.hvrun := rfl
@[simp] theorem onGroup_pkg (s : State) (c : Ctx) (f : Group → Group) : (onGroup s c f).pkg = s.pkg := rfl
@[simp] theorem onGroup_order (s : State) (c : Ctx) (f : Group → Group) : (onGroup s c f).order = s.order := rfl
@[simp] theorem onGroup_slot (s : State) (c : Ctx) (f : Group → Group) : (onGroup s c f).slot = s.slot := rfl
@[simp] theorem onGroup_begun (s : State) (c : Ctx) (f : Group → Group) : (onGroup s c f).begun = s.begun := rfl
@[simp] theorem onGroup_time (s : State) (c : Ctx) (f : Group → Group) : (onGroup s c f).time = s.time := rfl
@[simp] theorem onGroup_subNs (s : State) (c : Ctx) (f : Group → Group) : (onGroup s c f).subNs = s.subNs := rfl
@[simp] theorem onGroup_lasers (s : State) (c : Ctx) (f : Group → Group) : (onGroup s c f).lasers = s.lasers := rfl
@[simp] theorem onGroup_stopped (s : State) (c : Ctx) (f : Group → Group) : (onGroup s c f).stopped = s.stopped := rfl
@[simp] theorem onGroup_stripes (s : State) (c : Ctx) (f : Group → Group) : (onGroup s c f).stripes = s.stripes := rfl
@[simp] theorem onGroup_egress (s : State) (c : Ctx) (f : Group → Group) : (onGroup s c f).egress = s.egress := rfl
@[simp] theorem onGroup_trestle (s : State) (c : Ctx) (f : Group → Group) : (onGroup s c f).trestle = s.trestle := rfl
@[simp] theorem onGroup_sent (s : State) (c : Ctx) (f : Group → Group) : (onGroup s c f).sent = s.sent := rfl
@[simp] theorem onGroup_accepted (s : State) (c : Ctx) (f : Group → Group) : (onGroup s c f).accepted = s.accepted := rfl
@[simp] theorem onGroup_dups (s : State) (c : Ctx) (f : Group → Group) : (onGroup s c f).dups = s.dups := rfl
@[simp] theorem onGroup_ops (s : State) (c : Ctx) (f : Group → Group) : (onGroup s c f).ops = s.ops := rfl
@[simp] theorem onGroup_nextTag (s : State) (c : Ctx) (f : Group → Group) : (onGroup s c f).nextTag = s.nextTag := rfl
@[simp] theorem onGroup_pkgStream (s : State) (c : Ctx) (f : Group → Group) : (onGroup s c f).pkgStream = s.pkgStream := rfl
@[simp] theorem onGroup_pkgStat (s : State) (c : Ctx) (f : Group → Group) : (onGroup s c f).pkgStat = s.pkgStat := rfl
@[simp] theorem onGroup_hbmTrained (s : State) (c : Ctx) (f : Group → Group) : (onGroup s c f).hbmTrained = s.hbmTrained := rfl
@[simp] theorem onGroup_opticsOk (s : State) (c : Ctx) (f : Group → Group) : (onGroup s c f).opticsOk = s.opticsOk := rfl
@[simp] theorem onGroup_rbaddr (s : State) (c : Ctx) (f : Group → Group) : (onGroup s c f).rbaddr = s.rbaddr := rfl
@[simp] theorem onGroup_rbdata (s : State) (c : Ctx) (f : Group → Group) : (onGroup s c f).rbdata = s.rbdata := rfl
@[simp] theorem onGroup_rbbusy (s : State) (c : Ctx) (f : Group → Group) : (onGroup s c f).rbbusy = s.rbbusy := rfl
@[simp] theorem onGroup_rberr (s : State) (c : Ctx) (f : Group → Group) : (onGroup s c f).rberr = s.rberr := rfl
@[simp] theorem onGroup_raised0 (s : State) (c : Ctx) (f : Group → Group) : (onGroup s c f).raised0 = s.raised0 := rfl
@[simp] theorem onGroup_mhz (s : State) (c : Ctx) (f : Group → Group) : (onGroup s c f).mhz = s.mhz := rfl
@[simp] theorem onGroup_olzer (s : State) (c : Ctx) (f : Group → Group) : (onGroup s c f).olzer = s.olzer := rfl
@[simp] theorem onGroup_hostRead (s : State) (c : Ctx) (f : Group → Group) : (onGroup s c f).hostRead = s.hostRead := rfl
@[simp] theorem onGroup_inputs (s : State) (c : Ctx) (f : Group → Group) : (onGroup s c f).inputs = s.inputs := rfl
@[simp] theorem onGroup_owed (s : State) (c : Ctx) (f : Group → Group) : (onGroup s c f).owed = s.owed := rfl
@[simp] theorem onGroup_recalls (s : State) (c : Ctx) (f : Group → Group) : (onGroup s c f).recalls = s.recalls := rfl
@[simp] theorem onGroup_bundle (s : State) (c : Ctx) (f : Group → Group) : (onGroup s c f).bundle = s.bundle := rfl
@[simp] theorem onGroup_second (s : State) (c : Ctx) (f : Group → Group) : (onGroup s c f).second = s.second := rfl
@[simp] theorem onGroup_acted (s : State) (c : Ctx) (f : Group → Group) : (onGroup s c f).acted = s.acted := rfl
@[simp] theorem onGroup_waiting (s : State) (c : Ctx) (f : Group → Group) : (onGroup s c f).waiting = s.waiting := rfl
@[simp] theorem onGroup_draws (s : State) (c : Ctx) (f : Group → Group) : (onGroup s c f).draws = s.draws := rfl
@[simp] theorem onGroup_turn (s : State) (c : Ctx) (f : Group → Group) : (onGroup s c f).turn = s.turn := rfl

@[simp] theorem countBay_mem (s : State) (v core bay id n : Nat) : (countBay s v core bay id n).mem = s.mem := rfl
@[simp] theorem countBay_poison (s : State) (v core bay id n : Nat) : (countBay s v core bay id n).poison = s.poison := rfl
@[simp] theorem countBay_lines (s : State) (v core bay id n : Nat) : (countBay s v core bay id n).lines = s.lines := rfl
@[simp] theorem countBay_l2 (s : State) (v core bay id n : Nat) : (countBay s v core bay id n).l2 = s.l2 := rfl
@[simp] theorem countBay_tlb (s : State) (v core bay id n : Nat) : (countBay s v core bay id n).tlb = s.tlb := rfl
@[simp] theorem countBay_tags (s : State) (v core bay id n : Nat) : (countBay s v core bay id n).tags = s.tags := rfl
@[simp] theorem countBay_groups (s : State) (v core bay id n : Nat) : (countBay s v core bay id n).groups = s.groups := rfl
@[simp] theorem countBay_teams (s : State) (v core bay id n : Nat) : (countBay s v core bay id n).teams = s.teams := rfl
@[simp] theorem countBay_spans (s : State) (v core bay id n : Nat) : (countBay s v core bay id n).spans = s.spans := rfl
@[simp] theorem countBay_cores (s : State) (v core bay id n : Nat) : (countBay s v core bay id n).cores = s.cores := rfl
@[simp] theorem countBay_guests (s : State) (v core bay id n : Nat) : (countBay s v core bay id n).guests = s.guests := rfl
@[simp] theorem countBay_keys (s : State) (v core bay id n : Nat) : (countBay s v core bay id n).keys = s.keys := rfl
@[simp] theorem countBay_linkKeys (s : State) (v core bay id n : Nat) : (countBay s v core bay id n).linkKeys = s.linkKeys := rfl
@[simp] theorem countBay_hvarg (s : State) (v core bay id n : Nat) : (countBay s v core bay id n).hvarg = s.hvarg := rfl
@[simp] theorem countBay_hvbusy (s : State) (v core bay id n : Nat) : (countBay s v core bay id n).hvbusy = s.hvbusy := rfl
@[simp] theorem countBay_hverr (s : State) (v core bay id n : Nat) : (countBay s v core bay id n).hverr = s.hverr := rfl
@[simp] theorem countBay_hvrun (s : State) (v core bay id n : Nat) : (countBay s v core bay id n).hvrun = s.hvrun := rfl
@[simp] theorem countBay_pkg (s : State) (v core bay id n : Nat) : (countBay s v core bay id n).pkg = s.pkg := rfl
@[simp] theorem countBay_order (s : State) (v core bay id n : Nat) : (countBay s v core bay id n).order = s.order := rfl
@[simp] theorem countBay_slot (s : State) (v core bay id n : Nat) : (countBay s v core bay id n).slot = s.slot := rfl
@[simp] theorem countBay_begun (s : State) (v core bay id n : Nat) : (countBay s v core bay id n).begun = s.begun := rfl
@[simp] theorem countBay_time (s : State) (v core bay id n : Nat) : (countBay s v core bay id n).time = s.time := rfl
@[simp] theorem countBay_subNs (s : State) (v core bay id n : Nat) : (countBay s v core bay id n).subNs = s.subNs := rfl
@[simp] theorem countBay_lasers (s : State) (v core bay id n : Nat) : (countBay s v core bay id n).lasers = s.lasers := rfl
@[simp] theorem countBay_stopped (s : State) (v core bay id n : Nat) : (countBay s v core bay id n).stopped = s.stopped := rfl
@[simp] theorem countBay_stripes (s : State) (v core bay id n : Nat) : (countBay s v core bay id n).stripes = s.stripes := rfl
@[simp] theorem countBay_egress (s : State) (v core bay id n : Nat) : (countBay s v core bay id n).egress = s.egress := rfl
@[simp] theorem countBay_trestle (s : State) (v core bay id n : Nat) : (countBay s v core bay id n).trestle = s.trestle := rfl
@[simp] theorem countBay_sent (s : State) (v core bay id n : Nat) : (countBay s v core bay id n).sent = s.sent := rfl
@[simp] theorem countBay_accepted (s : State) (v core bay id n : Nat) : (countBay s v core bay id n).accepted = s.accepted := rfl
@[simp] theorem countBay_dups (s : State) (v core bay id n : Nat) : (countBay s v core bay id n).dups = s.dups := rfl
@[simp] theorem countBay_ops (s : State) (v core bay id n : Nat) : (countBay s v core bay id n).ops = s.ops := rfl
@[simp] theorem countBay_nextTag (s : State) (v core bay id n : Nat) : (countBay s v core bay id n).nextTag = s.nextTag := rfl
@[simp] theorem countBay_pkgStream (s : State) (v core bay id n : Nat) : (countBay s v core bay id n).pkgStream = s.pkgStream := rfl
@[simp] theorem countBay_pkgStat (s : State) (v core bay id n : Nat) : (countBay s v core bay id n).pkgStat = s.pkgStat := rfl
@[simp] theorem countBay_hbmTrained (s : State) (v core bay id n : Nat) : (countBay s v core bay id n).hbmTrained = s.hbmTrained := rfl
@[simp] theorem countBay_opticsOk (s : State) (v core bay id n : Nat) : (countBay s v core bay id n).opticsOk = s.opticsOk := rfl
@[simp] theorem countBay_rbaddr (s : State) (v core bay id n : Nat) : (countBay s v core bay id n).rbaddr = s.rbaddr := rfl
@[simp] theorem countBay_rbdata (s : State) (v core bay id n : Nat) : (countBay s v core bay id n).rbdata = s.rbdata := rfl
@[simp] theorem countBay_rbbusy (s : State) (v core bay id n : Nat) : (countBay s v core bay id n).rbbusy = s.rbbusy := rfl
@[simp] theorem countBay_rberr (s : State) (v core bay id n : Nat) : (countBay s v core bay id n).rberr = s.rberr := rfl
@[simp] theorem countBay_raised0 (s : State) (v core bay id n : Nat) : (countBay s v core bay id n).raised0 = s.raised0 := rfl
@[simp] theorem countBay_mhz (s : State) (v core bay id n : Nat) : (countBay s v core bay id n).mhz = s.mhz := rfl
@[simp] theorem countBay_olzer (s : State) (v core bay id n : Nat) : (countBay s v core bay id n).olzer = s.olzer := rfl
@[simp] theorem countBay_hostRead (s : State) (v core bay id n : Nat) : (countBay s v core bay id n).hostRead = s.hostRead := rfl
@[simp] theorem countBay_inputs (s : State) (v core bay id n : Nat) : (countBay s v core bay id n).inputs = s.inputs := rfl
@[simp] theorem countBay_owed (s : State) (v core bay id n : Nat) : (countBay s v core bay id n).owed = s.owed := rfl
@[simp] theorem countBay_recalls (s : State) (v core bay id n : Nat) : (countBay s v core bay id n).recalls = s.recalls := rfl
@[simp] theorem countBay_bundle (s : State) (v core bay id n : Nat) : (countBay s v core bay id n).bundle = s.bundle := rfl
@[simp] theorem countBay_second (s : State) (v core bay id n : Nat) : (countBay s v core bay id n).second = s.second := rfl
@[simp] theorem countBay_acted (s : State) (v core bay id n : Nat) : (countBay s v core bay id n).acted = s.acted := rfl
@[simp] theorem countBay_waiting (s : State) (v core bay id n : Nat) : (countBay s v core bay id n).waiting = s.waiting := rfl
@[simp] theorem countBay_draws (s : State) (v core bay id n : Nat) : (countBay s v core bay id n).draws = s.draws := rfl
@[simp] theorem countBay_turn (s : State) (v core bay id n : Nat) : (countBay s v core bay id n).turn = s.turn := rfl

@[simp] theorem countVc_mem (s : State) (v k n : Nat) : (countVc s v k n).mem = s.mem := rfl
@[simp] theorem countVc_poison (s : State) (v k n : Nat) : (countVc s v k n).poison = s.poison := rfl
@[simp] theorem countVc_lines (s : State) (v k n : Nat) : (countVc s v k n).lines = s.lines := rfl
@[simp] theorem countVc_l2 (s : State) (v k n : Nat) : (countVc s v k n).l2 = s.l2 := rfl
@[simp] theorem countVc_tlb (s : State) (v k n : Nat) : (countVc s v k n).tlb = s.tlb := rfl
@[simp] theorem countVc_tags (s : State) (v k n : Nat) : (countVc s v k n).tags = s.tags := rfl
@[simp] theorem countVc_groups (s : State) (v k n : Nat) : (countVc s v k n).groups = s.groups := rfl
@[simp] theorem countVc_teams (s : State) (v k n : Nat) : (countVc s v k n).teams = s.teams := rfl
@[simp] theorem countVc_spans (s : State) (v k n : Nat) : (countVc s v k n).spans = s.spans := rfl
@[simp] theorem countVc_cores (s : State) (v k n : Nat) : (countVc s v k n).cores = s.cores := rfl
@[simp] theorem countVc_guests (s : State) (v k n : Nat) : (countVc s v k n).guests = s.guests := rfl
@[simp] theorem countVc_keys (s : State) (v k n : Nat) : (countVc s v k n).keys = s.keys := rfl
@[simp] theorem countVc_linkKeys (s : State) (v k n : Nat) : (countVc s v k n).linkKeys = s.linkKeys := rfl
@[simp] theorem countVc_hvarg (s : State) (v k n : Nat) : (countVc s v k n).hvarg = s.hvarg := rfl
@[simp] theorem countVc_hvbusy (s : State) (v k n : Nat) : (countVc s v k n).hvbusy = s.hvbusy := rfl
@[simp] theorem countVc_hverr (s : State) (v k n : Nat) : (countVc s v k n).hverr = s.hverr := rfl
@[simp] theorem countVc_hvrun (s : State) (v k n : Nat) : (countVc s v k n).hvrun = s.hvrun := rfl
@[simp] theorem countVc_pkg (s : State) (v k n : Nat) : (countVc s v k n).pkg = s.pkg := rfl
@[simp] theorem countVc_order (s : State) (v k n : Nat) : (countVc s v k n).order = s.order := rfl
@[simp] theorem countVc_slot (s : State) (v k n : Nat) : (countVc s v k n).slot = s.slot := rfl
@[simp] theorem countVc_begun (s : State) (v k n : Nat) : (countVc s v k n).begun = s.begun := rfl
@[simp] theorem countVc_time (s : State) (v k n : Nat) : (countVc s v k n).time = s.time := rfl
@[simp] theorem countVc_subNs (s : State) (v k n : Nat) : (countVc s v k n).subNs = s.subNs := rfl
@[simp] theorem countVc_lasers (s : State) (v k n : Nat) : (countVc s v k n).lasers = s.lasers := rfl
@[simp] theorem countVc_stopped (s : State) (v k n : Nat) : (countVc s v k n).stopped = s.stopped := rfl
@[simp] theorem countVc_stripes (s : State) (v k n : Nat) : (countVc s v k n).stripes = s.stripes := rfl
@[simp] theorem countVc_egress (s : State) (v k n : Nat) : (countVc s v k n).egress = s.egress := rfl
@[simp] theorem countVc_trestle (s : State) (v k n : Nat) : (countVc s v k n).trestle = s.trestle := rfl
@[simp] theorem countVc_sent (s : State) (v k n : Nat) : (countVc s v k n).sent = s.sent := rfl
@[simp] theorem countVc_accepted (s : State) (v k n : Nat) : (countVc s v k n).accepted = s.accepted := rfl
@[simp] theorem countVc_dups (s : State) (v k n : Nat) : (countVc s v k n).dups = s.dups := rfl
@[simp] theorem countVc_ops (s : State) (v k n : Nat) : (countVc s v k n).ops = s.ops := rfl
@[simp] theorem countVc_nextTag (s : State) (v k n : Nat) : (countVc s v k n).nextTag = s.nextTag := rfl
@[simp] theorem countVc_pkgStream (s : State) (v k n : Nat) : (countVc s v k n).pkgStream = s.pkgStream := rfl
@[simp] theorem countVc_pkgStat (s : State) (v k n : Nat) : (countVc s v k n).pkgStat = s.pkgStat := rfl
@[simp] theorem countVc_hbmTrained (s : State) (v k n : Nat) : (countVc s v k n).hbmTrained = s.hbmTrained := rfl
@[simp] theorem countVc_opticsOk (s : State) (v k n : Nat) : (countVc s v k n).opticsOk = s.opticsOk := rfl
@[simp] theorem countVc_rbaddr (s : State) (v k n : Nat) : (countVc s v k n).rbaddr = s.rbaddr := rfl
@[simp] theorem countVc_rbdata (s : State) (v k n : Nat) : (countVc s v k n).rbdata = s.rbdata := rfl
@[simp] theorem countVc_rbbusy (s : State) (v k n : Nat) : (countVc s v k n).rbbusy = s.rbbusy := rfl
@[simp] theorem countVc_rberr (s : State) (v k n : Nat) : (countVc s v k n).rberr = s.rberr := rfl
@[simp] theorem countVc_raised0 (s : State) (v k n : Nat) : (countVc s v k n).raised0 = s.raised0 := rfl
@[simp] theorem countVc_mhz (s : State) (v k n : Nat) : (countVc s v k n).mhz = s.mhz := rfl
@[simp] theorem countVc_olzer (s : State) (v k n : Nat) : (countVc s v k n).olzer = s.olzer := rfl
@[simp] theorem countVc_hostRead (s : State) (v k n : Nat) : (countVc s v k n).hostRead = s.hostRead := rfl
@[simp] theorem countVc_inputs (s : State) (v k n : Nat) : (countVc s v k n).inputs = s.inputs := rfl
@[simp] theorem countVc_owed (s : State) (v k n : Nat) : (countVc s v k n).owed = s.owed := rfl
@[simp] theorem countVc_recalls (s : State) (v k n : Nat) : (countVc s v k n).recalls = s.recalls := rfl
@[simp] theorem countVc_bundle (s : State) (v k n : Nat) : (countVc s v k n).bundle = s.bundle := rfl
@[simp] theorem countVc_second (s : State) (v k n : Nat) : (countVc s v k n).second = s.second := rfl
@[simp] theorem countVc_acted (s : State) (v k n : Nat) : (countVc s v k n).acted = s.acted := rfl
@[simp] theorem countVc_waiting (s : State) (v k n : Nat) : (countVc s v k n).waiting = s.waiting := rfl
@[simp] theorem countVc_draws (s : State) (v k n : Nat) : (countVc s v k n).draws = s.draws := rfl
@[simp] theorem countVc_turn (s : State) (v k n : Nat) : (countVc s v k n).turn = s.turn := rfl

@[simp] theorem raise_mem (s : State) (v n : Nat) : (raise s v n).mem = s.mem := rfl
@[simp] theorem raise_poison (s : State) (v n : Nat) : (raise s v n).poison = s.poison := rfl
@[simp] theorem raise_lines (s : State) (v n : Nat) : (raise s v n).lines = s.lines := rfl
@[simp] theorem raise_l2 (s : State) (v n : Nat) : (raise s v n).l2 = s.l2 := rfl
@[simp] theorem raise_tlb (s : State) (v n : Nat) : (raise s v n).tlb = s.tlb := rfl
@[simp] theorem raise_tags (s : State) (v n : Nat) : (raise s v n).tags = s.tags := rfl
@[simp] theorem raise_groups (s : State) (v n : Nat) : (raise s v n).groups = s.groups := rfl
@[simp] theorem raise_teams (s : State) (v n : Nat) : (raise s v n).teams = s.teams := rfl
@[simp] theorem raise_spans (s : State) (v n : Nat) : (raise s v n).spans = s.spans := rfl
@[simp] theorem raise_cores (s : State) (v n : Nat) : (raise s v n).cores = s.cores := rfl
@[simp] theorem raise_guests (s : State) (v n : Nat) : (raise s v n).guests = s.guests := rfl
@[simp] theorem raise_keys (s : State) (v n : Nat) : (raise s v n).keys = s.keys := rfl
@[simp] theorem raise_linkKeys (s : State) (v n : Nat) : (raise s v n).linkKeys = s.linkKeys := rfl
@[simp] theorem raise_hvarg (s : State) (v n : Nat) : (raise s v n).hvarg = s.hvarg := rfl
@[simp] theorem raise_hvbusy (s : State) (v n : Nat) : (raise s v n).hvbusy = s.hvbusy := rfl
@[simp] theorem raise_hverr (s : State) (v n : Nat) : (raise s v n).hverr = s.hverr := rfl
@[simp] theorem raise_hvrun (s : State) (v n : Nat) : (raise s v n).hvrun = s.hvrun := rfl
@[simp] theorem raise_pkg (s : State) (v n : Nat) : (raise s v n).pkg = s.pkg := rfl
@[simp] theorem raise_order (s : State) (v n : Nat) : (raise s v n).order = s.order := rfl
@[simp] theorem raise_slot (s : State) (v n : Nat) : (raise s v n).slot = s.slot := rfl
@[simp] theorem raise_begun (s : State) (v n : Nat) : (raise s v n).begun = s.begun := rfl
@[simp] theorem raise_time (s : State) (v n : Nat) : (raise s v n).time = s.time := rfl
@[simp] theorem raise_subNs (s : State) (v n : Nat) : (raise s v n).subNs = s.subNs := rfl
@[simp] theorem raise_lasers (s : State) (v n : Nat) : (raise s v n).lasers = s.lasers := rfl
@[simp] theorem raise_stopped (s : State) (v n : Nat) : (raise s v n).stopped = s.stopped := rfl
@[simp] theorem raise_stripes (s : State) (v n : Nat) : (raise s v n).stripes = s.stripes := rfl
@[simp] theorem raise_egress (s : State) (v n : Nat) : (raise s v n).egress = s.egress := rfl
@[simp] theorem raise_trestle (s : State) (v n : Nat) : (raise s v n).trestle = s.trestle := rfl
@[simp] theorem raise_sent (s : State) (v n : Nat) : (raise s v n).sent = s.sent := rfl
@[simp] theorem raise_accepted (s : State) (v n : Nat) : (raise s v n).accepted = s.accepted := rfl
@[simp] theorem raise_dups (s : State) (v n : Nat) : (raise s v n).dups = s.dups := rfl
@[simp] theorem raise_ops (s : State) (v n : Nat) : (raise s v n).ops = s.ops := rfl
@[simp] theorem raise_nextTag (s : State) (v n : Nat) : (raise s v n).nextTag = s.nextTag := rfl
@[simp] theorem raise_pkgStream (s : State) (v n : Nat) : (raise s v n).pkgStream = s.pkgStream := rfl
@[simp] theorem raise_pkgStat (s : State) (v n : Nat) : (raise s v n).pkgStat = s.pkgStat := rfl
@[simp] theorem raise_hbmTrained (s : State) (v n : Nat) : (raise s v n).hbmTrained = s.hbmTrained := rfl
@[simp] theorem raise_opticsOk (s : State) (v n : Nat) : (raise s v n).opticsOk = s.opticsOk := rfl
@[simp] theorem raise_rbaddr (s : State) (v n : Nat) : (raise s v n).rbaddr = s.rbaddr := rfl
@[simp] theorem raise_rbdata (s : State) (v n : Nat) : (raise s v n).rbdata = s.rbdata := rfl
@[simp] theorem raise_rbbusy (s : State) (v n : Nat) : (raise s v n).rbbusy = s.rbbusy := rfl
@[simp] theorem raise_rberr (s : State) (v n : Nat) : (raise s v n).rberr = s.rberr := rfl
@[simp] theorem raise_raised0 (s : State) (v n : Nat) : (raise s v n).raised0 = s.raised0 := rfl
@[simp] theorem raise_mhz (s : State) (v n : Nat) : (raise s v n).mhz = s.mhz := rfl
@[simp] theorem raise_olzer (s : State) (v n : Nat) : (raise s v n).olzer = s.olzer := rfl
@[simp] theorem raise_hostRead (s : State) (v n : Nat) : (raise s v n).hostRead = s.hostRead := rfl
@[simp] theorem raise_inputs (s : State) (v n : Nat) : (raise s v n).inputs = s.inputs := rfl
@[simp] theorem raise_owed (s : State) (v n : Nat) : (raise s v n).owed = s.owed := rfl
@[simp] theorem raise_recalls (s : State) (v n : Nat) : (raise s v n).recalls = s.recalls := rfl
@[simp] theorem raise_bundle (s : State) (v n : Nat) : (raise s v n).bundle = s.bundle := rfl
@[simp] theorem raise_second (s : State) (v n : Nat) : (raise s v n).second = s.second := rfl
@[simp] theorem raise_acted (s : State) (v n : Nat) : (raise s v n).acted = s.acted := rfl
@[simp] theorem raise_waiting (s : State) (v n : Nat) : (raise s v n).waiting = s.waiting := rfl
@[simp] theorem raise_draws (s : State) (v n : Nat) : (raise s v n).draws = s.draws := rfl
@[simp] theorem raise_turn (s : State) (v n : Nat) : (raise s v n).turn = s.turn := rfl

@[simp] theorem writeN_lines (s : State) (k : Nat) (bs : List Byte) : (writeN s k bs).lines = s.lines := rfl
@[simp] theorem writeN_l2 (s : State) (k : Nat) (bs : List Byte) : (writeN s k bs).l2 = s.l2 := rfl
@[simp] theorem writeN_tlb (s : State) (k : Nat) (bs : List Byte) : (writeN s k bs).tlb = s.tlb := rfl
@[simp] theorem writeN_tags (s : State) (k : Nat) (bs : List Byte) : (writeN s k bs).tags = s.tags := rfl
@[simp] theorem writeN_groups (s : State) (k : Nat) (bs : List Byte) : (writeN s k bs).groups = s.groups := rfl
@[simp] theorem writeN_teams (s : State) (k : Nat) (bs : List Byte) : (writeN s k bs).teams = s.teams := rfl
@[simp] theorem writeN_spans (s : State) (k : Nat) (bs : List Byte) : (writeN s k bs).spans = s.spans := rfl
@[simp] theorem writeN_cores (s : State) (k : Nat) (bs : List Byte) : (writeN s k bs).cores = s.cores := rfl
@[simp] theorem writeN_vchips (s : State) (k : Nat) (bs : List Byte) : (writeN s k bs).vchips = s.vchips := rfl
@[simp] theorem writeN_guests (s : State) (k : Nat) (bs : List Byte) : (writeN s k bs).guests = s.guests := rfl
@[simp] theorem writeN_keys (s : State) (k : Nat) (bs : List Byte) : (writeN s k bs).keys = s.keys := rfl
@[simp] theorem writeN_linkKeys (s : State) (k : Nat) (bs : List Byte) : (writeN s k bs).linkKeys = s.linkKeys := rfl
@[simp] theorem writeN_hvarg (s : State) (k : Nat) (bs : List Byte) : (writeN s k bs).hvarg = s.hvarg := rfl
@[simp] theorem writeN_hvbusy (s : State) (k : Nat) (bs : List Byte) : (writeN s k bs).hvbusy = s.hvbusy := rfl
@[simp] theorem writeN_hverr (s : State) (k : Nat) (bs : List Byte) : (writeN s k bs).hverr = s.hverr := rfl
@[simp] theorem writeN_hvrun (s : State) (k : Nat) (bs : List Byte) : (writeN s k bs).hvrun = s.hvrun := rfl
@[simp] theorem writeN_pkg (s : State) (k : Nat) (bs : List Byte) : (writeN s k bs).pkg = s.pkg := rfl
@[simp] theorem writeN_order (s : State) (k : Nat) (bs : List Byte) : (writeN s k bs).order = s.order := rfl
@[simp] theorem writeN_slot (s : State) (k : Nat) (bs : List Byte) : (writeN s k bs).slot = s.slot := rfl
@[simp] theorem writeN_begun (s : State) (k : Nat) (bs : List Byte) : (writeN s k bs).begun = s.begun := rfl
@[simp] theorem writeN_time (s : State) (k : Nat) (bs : List Byte) : (writeN s k bs).time = s.time := rfl
@[simp] theorem writeN_subNs (s : State) (k : Nat) (bs : List Byte) : (writeN s k bs).subNs = s.subNs := rfl
@[simp] theorem writeN_lasers (s : State) (k : Nat) (bs : List Byte) : (writeN s k bs).lasers = s.lasers := rfl
@[simp] theorem writeN_stopped (s : State) (k : Nat) (bs : List Byte) : (writeN s k bs).stopped = s.stopped := rfl
@[simp] theorem writeN_stripes (s : State) (k : Nat) (bs : List Byte) : (writeN s k bs).stripes = s.stripes := rfl
@[simp] theorem writeN_egress (s : State) (k : Nat) (bs : List Byte) : (writeN s k bs).egress = s.egress := rfl
@[simp] theorem writeN_trestle (s : State) (k : Nat) (bs : List Byte) : (writeN s k bs).trestle = s.trestle := rfl
@[simp] theorem writeN_sent (s : State) (k : Nat) (bs : List Byte) : (writeN s k bs).sent = s.sent := rfl
@[simp] theorem writeN_accepted (s : State) (k : Nat) (bs : List Byte) : (writeN s k bs).accepted = s.accepted := rfl
@[simp] theorem writeN_dups (s : State) (k : Nat) (bs : List Byte) : (writeN s k bs).dups = s.dups := rfl
@[simp] theorem writeN_ops (s : State) (k : Nat) (bs : List Byte) : (writeN s k bs).ops = s.ops := rfl
@[simp] theorem writeN_nextTag (s : State) (k : Nat) (bs : List Byte) : (writeN s k bs).nextTag = s.nextTag := rfl
@[simp] theorem writeN_pkgStream (s : State) (k : Nat) (bs : List Byte) : (writeN s k bs).pkgStream = s.pkgStream := rfl
@[simp] theorem writeN_pkgStat (s : State) (k : Nat) (bs : List Byte) : (writeN s k bs).pkgStat = s.pkgStat := rfl
@[simp] theorem writeN_hbmTrained (s : State) (k : Nat) (bs : List Byte) : (writeN s k bs).hbmTrained = s.hbmTrained := rfl
@[simp] theorem writeN_opticsOk (s : State) (k : Nat) (bs : List Byte) : (writeN s k bs).opticsOk = s.opticsOk := rfl
@[simp] theorem writeN_rbaddr (s : State) (k : Nat) (bs : List Byte) : (writeN s k bs).rbaddr = s.rbaddr := rfl
@[simp] theorem writeN_rbdata (s : State) (k : Nat) (bs : List Byte) : (writeN s k bs).rbdata = s.rbdata := rfl
@[simp] theorem writeN_rbbusy (s : State) (k : Nat) (bs : List Byte) : (writeN s k bs).rbbusy = s.rbbusy := rfl
@[simp] theorem writeN_rberr (s : State) (k : Nat) (bs : List Byte) : (writeN s k bs).rberr = s.rberr := rfl
@[simp] theorem writeN_raised0 (s : State) (k : Nat) (bs : List Byte) : (writeN s k bs).raised0 = s.raised0 := rfl
@[simp] theorem writeN_mhz (s : State) (k : Nat) (bs : List Byte) : (writeN s k bs).mhz = s.mhz := rfl
@[simp] theorem writeN_olzer (s : State) (k : Nat) (bs : List Byte) : (writeN s k bs).olzer = s.olzer := rfl
@[simp] theorem writeN_hostRead (s : State) (k : Nat) (bs : List Byte) : (writeN s k bs).hostRead = s.hostRead := rfl
@[simp] theorem writeN_inputs (s : State) (k : Nat) (bs : List Byte) : (writeN s k bs).inputs = s.inputs := rfl
@[simp] theorem writeN_owed (s : State) (k : Nat) (bs : List Byte) : (writeN s k bs).owed = s.owed := rfl
@[simp] theorem writeN_recalls (s : State) (k : Nat) (bs : List Byte) : (writeN s k bs).recalls = s.recalls := rfl
@[simp] theorem writeN_bundle (s : State) (k : Nat) (bs : List Byte) : (writeN s k bs).bundle = s.bundle := rfl
@[simp] theorem writeN_second (s : State) (k : Nat) (bs : List Byte) : (writeN s k bs).second = s.second := rfl
@[simp] theorem writeN_acted (s : State) (k : Nat) (bs : List Byte) : (writeN s k bs).acted = s.acted := rfl
@[simp] theorem writeN_waiting (s : State) (k : Nat) (bs : List Byte) : (writeN s k bs).waiting = s.waiting := rfl
@[simp] theorem writeN_draws (s : State) (k : Nat) (bs : List Byte) : (writeN s k bs).draws = s.draws := rfl
@[simp] theorem writeN_turn (s : State) (k : Nat) (bs : List Byte) : (writeN s k bs).turn = s.turn := rfl

@[simp] theorem clearN_lines (s : State) (k n : Nat) : (clearN s k n).lines = s.lines := rfl
@[simp] theorem clearN_l2 (s : State) (k n : Nat) : (clearN s k n).l2 = s.l2 := rfl
@[simp] theorem clearN_tlb (s : State) (k n : Nat) : (clearN s k n).tlb = s.tlb := rfl
@[simp] theorem clearN_tags (s : State) (k n : Nat) : (clearN s k n).tags = s.tags := rfl
@[simp] theorem clearN_groups (s : State) (k n : Nat) : (clearN s k n).groups = s.groups := rfl
@[simp] theorem clearN_teams (s : State) (k n : Nat) : (clearN s k n).teams = s.teams := rfl
@[simp] theorem clearN_spans (s : State) (k n : Nat) : (clearN s k n).spans = s.spans := rfl
@[simp] theorem clearN_cores (s : State) (k n : Nat) : (clearN s k n).cores = s.cores := rfl
@[simp] theorem clearN_vchips (s : State) (k n : Nat) : (clearN s k n).vchips = s.vchips := rfl
@[simp] theorem clearN_guests (s : State) (k n : Nat) : (clearN s k n).guests = s.guests := rfl
@[simp] theorem clearN_keys (s : State) (k n : Nat) : (clearN s k n).keys = s.keys := rfl
@[simp] theorem clearN_linkKeys (s : State) (k n : Nat) : (clearN s k n).linkKeys = s.linkKeys := rfl
@[simp] theorem clearN_hvarg (s : State) (k n : Nat) : (clearN s k n).hvarg = s.hvarg := rfl
@[simp] theorem clearN_hvbusy (s : State) (k n : Nat) : (clearN s k n).hvbusy = s.hvbusy := rfl
@[simp] theorem clearN_hverr (s : State) (k n : Nat) : (clearN s k n).hverr = s.hverr := rfl
@[simp] theorem clearN_hvrun (s : State) (k n : Nat) : (clearN s k n).hvrun = s.hvrun := rfl
@[simp] theorem clearN_pkg (s : State) (k n : Nat) : (clearN s k n).pkg = s.pkg := rfl
@[simp] theorem clearN_order (s : State) (k n : Nat) : (clearN s k n).order = s.order := rfl
@[simp] theorem clearN_slot (s : State) (k n : Nat) : (clearN s k n).slot = s.slot := rfl
@[simp] theorem clearN_begun (s : State) (k n : Nat) : (clearN s k n).begun = s.begun := rfl
@[simp] theorem clearN_time (s : State) (k n : Nat) : (clearN s k n).time = s.time := rfl
@[simp] theorem clearN_subNs (s : State) (k n : Nat) : (clearN s k n).subNs = s.subNs := rfl
@[simp] theorem clearN_lasers (s : State) (k n : Nat) : (clearN s k n).lasers = s.lasers := rfl
@[simp] theorem clearN_stopped (s : State) (k n : Nat) : (clearN s k n).stopped = s.stopped := rfl
@[simp] theorem clearN_stripes (s : State) (k n : Nat) : (clearN s k n).stripes = s.stripes := rfl
@[simp] theorem clearN_egress (s : State) (k n : Nat) : (clearN s k n).egress = s.egress := rfl
@[simp] theorem clearN_trestle (s : State) (k n : Nat) : (clearN s k n).trestle = s.trestle := rfl
@[simp] theorem clearN_sent (s : State) (k n : Nat) : (clearN s k n).sent = s.sent := rfl
@[simp] theorem clearN_accepted (s : State) (k n : Nat) : (clearN s k n).accepted = s.accepted := rfl
@[simp] theorem clearN_dups (s : State) (k n : Nat) : (clearN s k n).dups = s.dups := rfl
@[simp] theorem clearN_ops (s : State) (k n : Nat) : (clearN s k n).ops = s.ops := rfl
@[simp] theorem clearN_nextTag (s : State) (k n : Nat) : (clearN s k n).nextTag = s.nextTag := rfl
@[simp] theorem clearN_pkgStream (s : State) (k n : Nat) : (clearN s k n).pkgStream = s.pkgStream := rfl
@[simp] theorem clearN_pkgStat (s : State) (k n : Nat) : (clearN s k n).pkgStat = s.pkgStat := rfl
@[simp] theorem clearN_hbmTrained (s : State) (k n : Nat) : (clearN s k n).hbmTrained = s.hbmTrained := rfl
@[simp] theorem clearN_opticsOk (s : State) (k n : Nat) : (clearN s k n).opticsOk = s.opticsOk := rfl
@[simp] theorem clearN_rbaddr (s : State) (k n : Nat) : (clearN s k n).rbaddr = s.rbaddr := rfl
@[simp] theorem clearN_rbdata (s : State) (k n : Nat) : (clearN s k n).rbdata = s.rbdata := rfl
@[simp] theorem clearN_rbbusy (s : State) (k n : Nat) : (clearN s k n).rbbusy = s.rbbusy := rfl
@[simp] theorem clearN_rberr (s : State) (k n : Nat) : (clearN s k n).rberr = s.rberr := rfl
@[simp] theorem clearN_raised0 (s : State) (k n : Nat) : (clearN s k n).raised0 = s.raised0 := rfl
@[simp] theorem clearN_mhz (s : State) (k n : Nat) : (clearN s k n).mhz = s.mhz := rfl
@[simp] theorem clearN_olzer (s : State) (k n : Nat) : (clearN s k n).olzer = s.olzer := rfl
@[simp] theorem clearN_hostRead (s : State) (k n : Nat) : (clearN s k n).hostRead = s.hostRead := rfl
@[simp] theorem clearN_inputs (s : State) (k n : Nat) : (clearN s k n).inputs = s.inputs := rfl
@[simp] theorem clearN_owed (s : State) (k n : Nat) : (clearN s k n).owed = s.owed := rfl
@[simp] theorem clearN_recalls (s : State) (k n : Nat) : (clearN s k n).recalls = s.recalls := rfl
@[simp] theorem clearN_bundle (s : State) (k n : Nat) : (clearN s k n).bundle = s.bundle := rfl
@[simp] theorem clearN_second (s : State) (k n : Nat) : (clearN s k n).second = s.second := rfl
@[simp] theorem clearN_acted (s : State) (k n : Nat) : (clearN s k n).acted = s.acted := rfl
@[simp] theorem clearN_waiting (s : State) (k n : Nat) : (clearN s k n).waiting = s.waiting := rfl
@[simp] theorem clearN_draws (s : State) (k n : Nat) : (clearN s k n).draws = s.draws := rfl
@[simp] theorem clearN_turn (s : State) (k n : Nat) : (clearN s k n).turn = s.turn := rfl

@[simp] theorem poisonUnit_mem (s : State) (k : Nat) : (poisonUnit s k).mem = s.mem := rfl
@[simp] theorem poisonUnit_lines (s : State) (k : Nat) : (poisonUnit s k).lines = s.lines := rfl
@[simp] theorem poisonUnit_l2 (s : State) (k : Nat) : (poisonUnit s k).l2 = s.l2 := rfl
@[simp] theorem poisonUnit_tlb (s : State) (k : Nat) : (poisonUnit s k).tlb = s.tlb := rfl
@[simp] theorem poisonUnit_tags (s : State) (k : Nat) : (poisonUnit s k).tags = s.tags := rfl
@[simp] theorem poisonUnit_groups (s : State) (k : Nat) : (poisonUnit s k).groups = s.groups := rfl
@[simp] theorem poisonUnit_teams (s : State) (k : Nat) : (poisonUnit s k).teams = s.teams := rfl
@[simp] theorem poisonUnit_spans (s : State) (k : Nat) : (poisonUnit s k).spans = s.spans := rfl
@[simp] theorem poisonUnit_cores (s : State) (k : Nat) : (poisonUnit s k).cores = s.cores := rfl
@[simp] theorem poisonUnit_vchips (s : State) (k : Nat) : (poisonUnit s k).vchips = s.vchips := rfl
@[simp] theorem poisonUnit_guests (s : State) (k : Nat) : (poisonUnit s k).guests = s.guests := rfl
@[simp] theorem poisonUnit_keys (s : State) (k : Nat) : (poisonUnit s k).keys = s.keys := rfl
@[simp] theorem poisonUnit_linkKeys (s : State) (k : Nat) : (poisonUnit s k).linkKeys = s.linkKeys := rfl
@[simp] theorem poisonUnit_hvarg (s : State) (k : Nat) : (poisonUnit s k).hvarg = s.hvarg := rfl
@[simp] theorem poisonUnit_hvbusy (s : State) (k : Nat) : (poisonUnit s k).hvbusy = s.hvbusy := rfl
@[simp] theorem poisonUnit_hverr (s : State) (k : Nat) : (poisonUnit s k).hverr = s.hverr := rfl
@[simp] theorem poisonUnit_hvrun (s : State) (k : Nat) : (poisonUnit s k).hvrun = s.hvrun := rfl
@[simp] theorem poisonUnit_pkg (s : State) (k : Nat) : (poisonUnit s k).pkg = s.pkg := rfl
@[simp] theorem poisonUnit_order (s : State) (k : Nat) : (poisonUnit s k).order = s.order := rfl
@[simp] theorem poisonUnit_slot (s : State) (k : Nat) : (poisonUnit s k).slot = s.slot := rfl
@[simp] theorem poisonUnit_begun (s : State) (k : Nat) : (poisonUnit s k).begun = s.begun := rfl
@[simp] theorem poisonUnit_time (s : State) (k : Nat) : (poisonUnit s k).time = s.time := rfl
@[simp] theorem poisonUnit_subNs (s : State) (k : Nat) : (poisonUnit s k).subNs = s.subNs := rfl
@[simp] theorem poisonUnit_lasers (s : State) (k : Nat) : (poisonUnit s k).lasers = s.lasers := rfl
@[simp] theorem poisonUnit_stopped (s : State) (k : Nat) : (poisonUnit s k).stopped = s.stopped := rfl
@[simp] theorem poisonUnit_stripes (s : State) (k : Nat) : (poisonUnit s k).stripes = s.stripes := rfl
@[simp] theorem poisonUnit_egress (s : State) (k : Nat) : (poisonUnit s k).egress = s.egress := rfl
@[simp] theorem poisonUnit_trestle (s : State) (k : Nat) : (poisonUnit s k).trestle = s.trestle := rfl
@[simp] theorem poisonUnit_sent (s : State) (k : Nat) : (poisonUnit s k).sent = s.sent := rfl
@[simp] theorem poisonUnit_accepted (s : State) (k : Nat) : (poisonUnit s k).accepted = s.accepted := rfl
@[simp] theorem poisonUnit_dups (s : State) (k : Nat) : (poisonUnit s k).dups = s.dups := rfl
@[simp] theorem poisonUnit_ops (s : State) (k : Nat) : (poisonUnit s k).ops = s.ops := rfl
@[simp] theorem poisonUnit_nextTag (s : State) (k : Nat) : (poisonUnit s k).nextTag = s.nextTag := rfl
@[simp] theorem poisonUnit_pkgStream (s : State) (k : Nat) : (poisonUnit s k).pkgStream = s.pkgStream := rfl
@[simp] theorem poisonUnit_pkgStat (s : State) (k : Nat) : (poisonUnit s k).pkgStat = s.pkgStat := rfl
@[simp] theorem poisonUnit_hbmTrained (s : State) (k : Nat) : (poisonUnit s k).hbmTrained = s.hbmTrained := rfl
@[simp] theorem poisonUnit_opticsOk (s : State) (k : Nat) : (poisonUnit s k).opticsOk = s.opticsOk := rfl
@[simp] theorem poisonUnit_rbaddr (s : State) (k : Nat) : (poisonUnit s k).rbaddr = s.rbaddr := rfl
@[simp] theorem poisonUnit_rbdata (s : State) (k : Nat) : (poisonUnit s k).rbdata = s.rbdata := rfl
@[simp] theorem poisonUnit_rbbusy (s : State) (k : Nat) : (poisonUnit s k).rbbusy = s.rbbusy := rfl
@[simp] theorem poisonUnit_rberr (s : State) (k : Nat) : (poisonUnit s k).rberr = s.rberr := rfl
@[simp] theorem poisonUnit_raised0 (s : State) (k : Nat) : (poisonUnit s k).raised0 = s.raised0 := rfl
@[simp] theorem poisonUnit_mhz (s : State) (k : Nat) : (poisonUnit s k).mhz = s.mhz := rfl
@[simp] theorem poisonUnit_olzer (s : State) (k : Nat) : (poisonUnit s k).olzer = s.olzer := rfl
@[simp] theorem poisonUnit_hostRead (s : State) (k : Nat) : (poisonUnit s k).hostRead = s.hostRead := rfl
@[simp] theorem poisonUnit_inputs (s : State) (k : Nat) : (poisonUnit s k).inputs = s.inputs := rfl
@[simp] theorem poisonUnit_owed (s : State) (k : Nat) : (poisonUnit s k).owed = s.owed := rfl
@[simp] theorem poisonUnit_recalls (s : State) (k : Nat) : (poisonUnit s k).recalls = s.recalls := rfl
@[simp] theorem poisonUnit_bundle (s : State) (k : Nat) : (poisonUnit s k).bundle = s.bundle := rfl
@[simp] theorem poisonUnit_second (s : State) (k : Nat) : (poisonUnit s k).second = s.second := rfl
@[simp] theorem poisonUnit_acted (s : State) (k : Nat) : (poisonUnit s k).acted = s.acted := rfl
@[simp] theorem poisonUnit_waiting (s : State) (k : Nat) : (poisonUnit s k).waiting = s.waiting := rfl
@[simp] theorem poisonUnit_draws (s : State) (k : Nat) : (poisonUnit s k).draws = s.draws := rfl
@[simp] theorem poisonUnit_turn (s : State) (k : Nat) : (poisonUnit s k).turn = s.turn := rfl

@[simp] theorem setLine_mem (s : State) (k : Nat) (l : LineMeta) : (setLine s k l).mem = s.mem := rfl
@[simp] theorem setLine_poison (s : State) (k : Nat) (l : LineMeta) : (setLine s k l).poison = s.poison := rfl
@[simp] theorem setLine_l2 (s : State) (k : Nat) (l : LineMeta) : (setLine s k l).l2 = s.l2 := rfl
@[simp] theorem setLine_tlb (s : State) (k : Nat) (l : LineMeta) : (setLine s k l).tlb = s.tlb := rfl
@[simp] theorem setLine_tags (s : State) (k : Nat) (l : LineMeta) : (setLine s k l).tags = s.tags := rfl
@[simp] theorem setLine_groups (s : State) (k : Nat) (l : LineMeta) : (setLine s k l).groups = s.groups := rfl
@[simp] theorem setLine_teams (s : State) (k : Nat) (l : LineMeta) : (setLine s k l).teams = s.teams := rfl
@[simp] theorem setLine_spans (s : State) (k : Nat) (l : LineMeta) : (setLine s k l).spans = s.spans := rfl
@[simp] theorem setLine_cores (s : State) (k : Nat) (l : LineMeta) : (setLine s k l).cores = s.cores := rfl
@[simp] theorem setLine_vchips (s : State) (k : Nat) (l : LineMeta) : (setLine s k l).vchips = s.vchips := rfl
@[simp] theorem setLine_guests (s : State) (k : Nat) (l : LineMeta) : (setLine s k l).guests = s.guests := rfl
@[simp] theorem setLine_keys (s : State) (k : Nat) (l : LineMeta) : (setLine s k l).keys = s.keys := rfl
@[simp] theorem setLine_linkKeys (s : State) (k : Nat) (l : LineMeta) : (setLine s k l).linkKeys = s.linkKeys := rfl
@[simp] theorem setLine_hvarg (s : State) (k : Nat) (l : LineMeta) : (setLine s k l).hvarg = s.hvarg := rfl
@[simp] theorem setLine_hvbusy (s : State) (k : Nat) (l : LineMeta) : (setLine s k l).hvbusy = s.hvbusy := rfl
@[simp] theorem setLine_hverr (s : State) (k : Nat) (l : LineMeta) : (setLine s k l).hverr = s.hverr := rfl
@[simp] theorem setLine_hvrun (s : State) (k : Nat) (l : LineMeta) : (setLine s k l).hvrun = s.hvrun := rfl
@[simp] theorem setLine_pkg (s : State) (k : Nat) (l : LineMeta) : (setLine s k l).pkg = s.pkg := rfl
@[simp] theorem setLine_order (s : State) (k : Nat) (l : LineMeta) : (setLine s k l).order = s.order := rfl
@[simp] theorem setLine_slot (s : State) (k : Nat) (l : LineMeta) : (setLine s k l).slot = s.slot := rfl
@[simp] theorem setLine_begun (s : State) (k : Nat) (l : LineMeta) : (setLine s k l).begun = s.begun := rfl
@[simp] theorem setLine_time (s : State) (k : Nat) (l : LineMeta) : (setLine s k l).time = s.time := rfl
@[simp] theorem setLine_subNs (s : State) (k : Nat) (l : LineMeta) : (setLine s k l).subNs = s.subNs := rfl
@[simp] theorem setLine_lasers (s : State) (k : Nat) (l : LineMeta) : (setLine s k l).lasers = s.lasers := rfl
@[simp] theorem setLine_stopped (s : State) (k : Nat) (l : LineMeta) : (setLine s k l).stopped = s.stopped := rfl
@[simp] theorem setLine_stripes (s : State) (k : Nat) (l : LineMeta) : (setLine s k l).stripes = s.stripes := rfl
@[simp] theorem setLine_egress (s : State) (k : Nat) (l : LineMeta) : (setLine s k l).egress = s.egress := rfl
@[simp] theorem setLine_trestle (s : State) (k : Nat) (l : LineMeta) : (setLine s k l).trestle = s.trestle := rfl
@[simp] theorem setLine_sent (s : State) (k : Nat) (l : LineMeta) : (setLine s k l).sent = s.sent := rfl
@[simp] theorem setLine_accepted (s : State) (k : Nat) (l : LineMeta) : (setLine s k l).accepted = s.accepted := rfl
@[simp] theorem setLine_dups (s : State) (k : Nat) (l : LineMeta) : (setLine s k l).dups = s.dups := rfl
@[simp] theorem setLine_ops (s : State) (k : Nat) (l : LineMeta) : (setLine s k l).ops = s.ops := rfl
@[simp] theorem setLine_nextTag (s : State) (k : Nat) (l : LineMeta) : (setLine s k l).nextTag = s.nextTag := rfl
@[simp] theorem setLine_pkgStream (s : State) (k : Nat) (l : LineMeta) : (setLine s k l).pkgStream = s.pkgStream := rfl
@[simp] theorem setLine_pkgStat (s : State) (k : Nat) (l : LineMeta) : (setLine s k l).pkgStat = s.pkgStat := rfl
@[simp] theorem setLine_hbmTrained (s : State) (k : Nat) (l : LineMeta) : (setLine s k l).hbmTrained = s.hbmTrained := rfl
@[simp] theorem setLine_opticsOk (s : State) (k : Nat) (l : LineMeta) : (setLine s k l).opticsOk = s.opticsOk := rfl
@[simp] theorem setLine_rbaddr (s : State) (k : Nat) (l : LineMeta) : (setLine s k l).rbaddr = s.rbaddr := rfl
@[simp] theorem setLine_rbdata (s : State) (k : Nat) (l : LineMeta) : (setLine s k l).rbdata = s.rbdata := rfl
@[simp] theorem setLine_rbbusy (s : State) (k : Nat) (l : LineMeta) : (setLine s k l).rbbusy = s.rbbusy := rfl
@[simp] theorem setLine_rberr (s : State) (k : Nat) (l : LineMeta) : (setLine s k l).rberr = s.rberr := rfl
@[simp] theorem setLine_raised0 (s : State) (k : Nat) (l : LineMeta) : (setLine s k l).raised0 = s.raised0 := rfl
@[simp] theorem setLine_mhz (s : State) (k : Nat) (l : LineMeta) : (setLine s k l).mhz = s.mhz := rfl
@[simp] theorem setLine_olzer (s : State) (k : Nat) (l : LineMeta) : (setLine s k l).olzer = s.olzer := rfl
@[simp] theorem setLine_hostRead (s : State) (k : Nat) (l : LineMeta) : (setLine s k l).hostRead = s.hostRead := rfl
@[simp] theorem setLine_inputs (s : State) (k : Nat) (l : LineMeta) : (setLine s k l).inputs = s.inputs := rfl
@[simp] theorem setLine_owed (s : State) (k : Nat) (l : LineMeta) : (setLine s k l).owed = s.owed := rfl
@[simp] theorem setLine_recalls (s : State) (k : Nat) (l : LineMeta) : (setLine s k l).recalls = s.recalls := rfl
@[simp] theorem setLine_bundle (s : State) (k : Nat) (l : LineMeta) : (setLine s k l).bundle = s.bundle := rfl
@[simp] theorem setLine_second (s : State) (k : Nat) (l : LineMeta) : (setLine s k l).second = s.second := rfl
@[simp] theorem setLine_acted (s : State) (k : Nat) (l : LineMeta) : (setLine s k l).acted = s.acted := rfl
@[simp] theorem setLine_waiting (s : State) (k : Nat) (l : LineMeta) : (setLine s k l).waiting = s.waiting := rfl
@[simp] theorem setLine_draws (s : State) (k : Nat) (l : LineMeta) : (setLine s k l).draws = s.draws := rfl
@[simp] theorem setLine_turn (s : State) (k : Nat) (l : LineMeta) : (setLine s k l).turn = s.turn := rfl

@[simp] theorem setL2_mem (s : State) (pa : Nat) (l : L2Line) : (setL2 s pa l).mem = s.mem := rfl
@[simp] theorem setL2_poison (s : State) (pa : Nat) (l : L2Line) : (setL2 s pa l).poison = s.poison := rfl
@[simp] theorem setL2_lines (s : State) (pa : Nat) (l : L2Line) : (setL2 s pa l).lines = s.lines := rfl
@[simp] theorem setL2_tlb (s : State) (pa : Nat) (l : L2Line) : (setL2 s pa l).tlb = s.tlb := rfl
@[simp] theorem setL2_tags (s : State) (pa : Nat) (l : L2Line) : (setL2 s pa l).tags = s.tags := rfl
@[simp] theorem setL2_groups (s : State) (pa : Nat) (l : L2Line) : (setL2 s pa l).groups = s.groups := rfl
@[simp] theorem setL2_teams (s : State) (pa : Nat) (l : L2Line) : (setL2 s pa l).teams = s.teams := rfl
@[simp] theorem setL2_spans (s : State) (pa : Nat) (l : L2Line) : (setL2 s pa l).spans = s.spans := rfl
@[simp] theorem setL2_cores (s : State) (pa : Nat) (l : L2Line) : (setL2 s pa l).cores = s.cores := rfl
@[simp] theorem setL2_vchips (s : State) (pa : Nat) (l : L2Line) : (setL2 s pa l).vchips = s.vchips := rfl
@[simp] theorem setL2_guests (s : State) (pa : Nat) (l : L2Line) : (setL2 s pa l).guests = s.guests := rfl
@[simp] theorem setL2_keys (s : State) (pa : Nat) (l : L2Line) : (setL2 s pa l).keys = s.keys := rfl
@[simp] theorem setL2_linkKeys (s : State) (pa : Nat) (l : L2Line) : (setL2 s pa l).linkKeys = s.linkKeys := rfl
@[simp] theorem setL2_hvarg (s : State) (pa : Nat) (l : L2Line) : (setL2 s pa l).hvarg = s.hvarg := rfl
@[simp] theorem setL2_hvbusy (s : State) (pa : Nat) (l : L2Line) : (setL2 s pa l).hvbusy = s.hvbusy := rfl
@[simp] theorem setL2_hverr (s : State) (pa : Nat) (l : L2Line) : (setL2 s pa l).hverr = s.hverr := rfl
@[simp] theorem setL2_hvrun (s : State) (pa : Nat) (l : L2Line) : (setL2 s pa l).hvrun = s.hvrun := rfl
@[simp] theorem setL2_pkg (s : State) (pa : Nat) (l : L2Line) : (setL2 s pa l).pkg = s.pkg := rfl
@[simp] theorem setL2_order (s : State) (pa : Nat) (l : L2Line) : (setL2 s pa l).order = s.order := rfl
@[simp] theorem setL2_slot (s : State) (pa : Nat) (l : L2Line) : (setL2 s pa l).slot = s.slot := rfl
@[simp] theorem setL2_begun (s : State) (pa : Nat) (l : L2Line) : (setL2 s pa l).begun = s.begun := rfl
@[simp] theorem setL2_time (s : State) (pa : Nat) (l : L2Line) : (setL2 s pa l).time = s.time := rfl
@[simp] theorem setL2_subNs (s : State) (pa : Nat) (l : L2Line) : (setL2 s pa l).subNs = s.subNs := rfl
@[simp] theorem setL2_lasers (s : State) (pa : Nat) (l : L2Line) : (setL2 s pa l).lasers = s.lasers := rfl
@[simp] theorem setL2_stopped (s : State) (pa : Nat) (l : L2Line) : (setL2 s pa l).stopped = s.stopped := rfl
@[simp] theorem setL2_stripes (s : State) (pa : Nat) (l : L2Line) : (setL2 s pa l).stripes = s.stripes := rfl
@[simp] theorem setL2_egress (s : State) (pa : Nat) (l : L2Line) : (setL2 s pa l).egress = s.egress := rfl
@[simp] theorem setL2_trestle (s : State) (pa : Nat) (l : L2Line) : (setL2 s pa l).trestle = s.trestle := rfl
@[simp] theorem setL2_sent (s : State) (pa : Nat) (l : L2Line) : (setL2 s pa l).sent = s.sent := rfl
@[simp] theorem setL2_accepted (s : State) (pa : Nat) (l : L2Line) : (setL2 s pa l).accepted = s.accepted := rfl
@[simp] theorem setL2_dups (s : State) (pa : Nat) (l : L2Line) : (setL2 s pa l).dups = s.dups := rfl
@[simp] theorem setL2_ops (s : State) (pa : Nat) (l : L2Line) : (setL2 s pa l).ops = s.ops := rfl
@[simp] theorem setL2_nextTag (s : State) (pa : Nat) (l : L2Line) : (setL2 s pa l).nextTag = s.nextTag := rfl
@[simp] theorem setL2_pkgStream (s : State) (pa : Nat) (l : L2Line) : (setL2 s pa l).pkgStream = s.pkgStream := rfl
@[simp] theorem setL2_pkgStat (s : State) (pa : Nat) (l : L2Line) : (setL2 s pa l).pkgStat = s.pkgStat := rfl
@[simp] theorem setL2_hbmTrained (s : State) (pa : Nat) (l : L2Line) : (setL2 s pa l).hbmTrained = s.hbmTrained := rfl
@[simp] theorem setL2_opticsOk (s : State) (pa : Nat) (l : L2Line) : (setL2 s pa l).opticsOk = s.opticsOk := rfl
@[simp] theorem setL2_rbaddr (s : State) (pa : Nat) (l : L2Line) : (setL2 s pa l).rbaddr = s.rbaddr := rfl
@[simp] theorem setL2_rbdata (s : State) (pa : Nat) (l : L2Line) : (setL2 s pa l).rbdata = s.rbdata := rfl
@[simp] theorem setL2_rbbusy (s : State) (pa : Nat) (l : L2Line) : (setL2 s pa l).rbbusy = s.rbbusy := rfl
@[simp] theorem setL2_rberr (s : State) (pa : Nat) (l : L2Line) : (setL2 s pa l).rberr = s.rberr := rfl
@[simp] theorem setL2_raised0 (s : State) (pa : Nat) (l : L2Line) : (setL2 s pa l).raised0 = s.raised0 := rfl
@[simp] theorem setL2_mhz (s : State) (pa : Nat) (l : L2Line) : (setL2 s pa l).mhz = s.mhz := rfl
@[simp] theorem setL2_olzer (s : State) (pa : Nat) (l : L2Line) : (setL2 s pa l).olzer = s.olzer := rfl
@[simp] theorem setL2_hostRead (s : State) (pa : Nat) (l : L2Line) : (setL2 s pa l).hostRead = s.hostRead := rfl
@[simp] theorem setL2_inputs (s : State) (pa : Nat) (l : L2Line) : (setL2 s pa l).inputs = s.inputs := rfl
@[simp] theorem setL2_owed (s : State) (pa : Nat) (l : L2Line) : (setL2 s pa l).owed = s.owed := rfl
@[simp] theorem setL2_recalls (s : State) (pa : Nat) (l : L2Line) : (setL2 s pa l).recalls = s.recalls := rfl
@[simp] theorem setL2_bundle (s : State) (pa : Nat) (l : L2Line) : (setL2 s pa l).bundle = s.bundle := rfl
@[simp] theorem setL2_second (s : State) (pa : Nat) (l : L2Line) : (setL2 s pa l).second = s.second := rfl
@[simp] theorem setL2_acted (s : State) (pa : Nat) (l : L2Line) : (setL2 s pa l).acted = s.acted := rfl
@[simp] theorem setL2_waiting (s : State) (pa : Nat) (l : L2Line) : (setL2 s pa l).waiting = s.waiting := rfl
@[simp] theorem setL2_draws (s : State) (pa : Nat) (l : L2Line) : (setL2 s pa l).draws = s.draws := rfl
@[simp] theorem setL2_turn (s : State) (pa : Nat) (l : L2Line) : (setL2 s pa l).turn = s.turn := rfl

@[simp] theorem onLanes_team (m : Mask) (f : Nat → Lane → Lane) (g : Group) : (onLanes m f g).team = g.team := rfl
@[simp] theorem onLanes_num (m : Mask) (f : Nat → Lane → Lane) (g : Group) : (onLanes m f g).num = g.num := rfl
@[simp] theorem onLanes_width (m : Mask) (f : Nat → Lane → Lane) (g : Group) : (onLanes m f g).width = g.width := rfl
@[simp] theorem onLanes_vregs (m : Mask) (f : Nat → Lane → Lane) (g : Group) : (onLanes m f g).vregs = g.vregs := rfl
@[simp] theorem onLanes_role (m : Mask) (f : Nat → Lane → Lane) (g : Group) : (onLanes m f g).role = g.role := rfl
@[simp] theorem onLanes_s (m : Mask) (f : Nat → Lane → Lane) (g : Group) : (onLanes m f g).s = g.s := rfl
@[simp] theorem onLanes_spois (m : Mask) (f : Nat → Lane → Lane) (g : Group) : (onLanes m f g).spois = g.spois := rfl
@[simp] theorem onLanes_prio (m : Mask) (f : Nat → Lane → Lane) (g : Group) : (onLanes m f g).prio = g.prio := rfl
@[simp] theorem onLanes_prioNext (m : Mask) (f : Nat → Lane → Lane) (g : Group) : (onLanes m f g).prioNext = g.prioNext := rfl
@[simp] theorem onLanes_fpctl (m : Mask) (f : Nat → Lane → Lane) (g : Group) : (onLanes m f g).fpctl = g.fpctl := rfl
@[simp] theorem onLanes_fpflags (m : Mask) (f : Nat → Lane → Lane) (g : Group) : (onLanes m f g).fpflags = g.fpflags := rfl
@[simp] theorem onLanes_mflags (m : Mask) (f : Nat → Lane → Lane) (g : Group) : (onLanes m f g).mflags = g.mflags := rfl
@[simp] theorem onLanes_rcount (m : Mask) (f : Nat → Lane → Lane) (g : Group) : (onLanes m f g).rcount = g.rcount := rfl
@[simp] theorem onLanes_stacklim (m : Mask) (f : Nat → Lane → Lane) (g : Group) : (onLanes m f g).stacklim = g.stacklim := rfl
@[simp] theorem onLanes_core (m : Mask) (f : Nat → Lane → Lane) (g : Group) : (onLanes m f g).core = g.core := rfl
@[simp] theorem onLanes_bay (m : Mask) (f : Nat → Lane → Lane) (g : Group) : (onLanes m f g).bay = g.bay := rfl
@[simp] theorem onLanes_place (m : Mask) (f : Nat → Lane → Lane) (g : Group) : (onLanes m f g).place = g.place := rfl
@[simp] theorem onLanes_age (m : Mask) (f : Nat → Lane → Lane) (g : Group) : (onLanes m f g).age = g.age := rfl
@[simp] theorem onLanes_loops (m : Mask) (f : Nat → Lane → Lane) (g : Group) : (onLanes m f g).loops = g.loops := rfl
@[simp] theorem onLanes_fused (m : Mask) (f : Nat → Lane → Lane) (g : Group) : (onLanes m f g).fused = g.fused := rfl
@[simp] theorem onLanes_yielded (m : Mask) (f : Nat → Lane → Lane) (g : Group) : (onLanes m f g).yielded = g.yielded := rfl
@[simp] theorem onLanes_batch (m : Mask) (f : Nat → Lane → Lane) (g : Group) : (onLanes m f g).batch = g.batch := rfl
@[simp] theorem onLanes_cpys (m : Mask) (f : Nat → Lane → Lane) (g : Group) : (onLanes m f g).cpys = g.cpys := rfl
@[simp] theorem onLanes_copies (m : Mask) (f : Nat → Lane → Lane) (g : Group) : (onLanes m f g).copies = g.copies := rfl
@[simp] theorem onLanes_copyErrs (m : Mask) (f : Nat → Lane → Lane) (g : Group) : (onLanes m f g).copyErrs = g.copyErrs := rfl
@[simp] theorem onLanes_tokens (m : Mask) (f : Nat → Lane → Lane) (g : Group) : (onLanes m f g).tokens = g.tokens := rfl
@[simp] theorem onLanes_errTok (m : Mask) (f : Nat → Lane → Lane) (g : Group) : (onLanes m f g).errTok = g.errTok := rfl
@[simp] theorem onLanes_loads (m : Mask) (f : Nat → Lane → Lane) (g : Group) : (onLanes m f g).loads = g.loads := rfl
@[simp] theorem onLanes_reqs (m : Mask) (f : Nat → Lane → Lane) (g : Group) : (onLanes m f g).reqs = g.reqs := rfl
@[simp] theorem onLanes_fills (m : Mask) (f : Nat → Lane → Lane) (g : Group) : (onLanes m f g).fills = g.fills := rfl
@[simp] theorem onLanes_look (m : Mask) (f : Nat → Lane → Lane) (g : Group) : (onLanes m f g).look = g.look := rfl
@[simp] theorem onLanes_issuedAt (m : Mask) (f : Nat → Lane → Lane) (g : Group) : (onLanes m f g).issuedAt = g.issuedAt := rfl
@[simp] theorem onLanes_paired (m : Mask) (f : Nat → Lane → Lane) (g : Group) : (onLanes m f g).paired = g.paired := rfl
@[simp] theorem onLanes_wait (m : Mask) (f : Nat → Lane → Lane) (g : Group) : (onLanes m f g).wait = g.wait := rfl
@[simp] theorem onLanes_stall (m : Mask) (f : Nat → Lane → Lane) (g : Group) : (onLanes m f g).stall = g.stall := rfl
@[simp] theorem onLanes_fault (m : Mask) (f : Nat → Lane → Lane) (g : Group) : (onLanes m f g).fault = g.fault := rfl
@[simp] theorem onLanes_skid (m : Mask) (f : Nat → Lane → Lane) (g : Group) : (onLanes m f g).skid = g.skid := rfl
@[simp] theorem onLanes_pfence (m : Mask) (f : Nat → Lane → Lane) (g : Group) : (onLanes m f g).pfence = g.pfence := rfl
@[simp] theorem onLanes_didJ (m : Mask) (f : Nat → Lane → Lane) (g : Group) : (onLanes m f g).didJ = g.didJ := rfl
@[simp] theorem onLanes_didX (m : Mask) (f : Nat → Lane → Lane) (g : Group) : (onLanes m f g).didX = g.didX := rfl
@[simp] theorem onLanes_didB (m : Mask) (f : Nat → Lane → Lane) (g : Group) : (onLanes m f g).didB = g.didB := rfl
@[simp] theorem onLanes_retired (m : Mask) (f : Nat → Lane → Lane) (g : Group) : (onLanes m f g).retired = g.retired := rfl
@[simp] theorem onLanes_emul (m : Mask) (f : Nat → Lane → Lane) (g : Group) : (onLanes m f g).emul = g.emul := rfl
@[simp] theorem onLanes_emulMask (m : Mask) (f : Nat → Lane → Lane) (g : Group) : (onLanes m f g).emulMask = g.emulMask := rfl

@[simp] theorem writeV_pc (l : Lane) (r : BitVec 6) (x : Word) : (writeV l r x).pc = l.pc := rfl
@[simp] theorem writeV_p (l : Lane) (r : BitVec 6) (x : Word) : (writeV l r x).p = l.p := rfl
@[simp] theorem writeV_ppois (l : Lane) (r : BitVec 6) (x : Word) : (writeV l r x).ppois = l.ppois := rfl
@[simp] theorem writeV_rs (l : Lane) (r : BitVec 6) (x : Word) : (writeV l r x).rs = l.rs := rfl
@[simp] theorem writeV_d (l : Lane) (r : BitVec 6) (x : Word) : (writeV l r x).d = l.d := rfl
@[simp] theorem writeV_c (l : Lane) (r : BitVec 6) (x : Word) : (writeV l r x).c = l.c := rfl
@[simp] theorem writeV_stack (l : Lane) (r : BitVec 6) (x : Word) : (writeV l r x).stack = l.stack := rfl
@[simp] theorem writeV_item (l : Lane) (r : BitVec 6) (x : Word) : (writeV l r x).item = l.item := rfl
@[simp] theorem writeV_gen (l : Lane) (r : BitVec 6) (x : Word) : (writeV l r x).gen = l.gen := rfl
@[simp] theorem writeV_st (l : Lane) (r : BitVec 6) (x : Word) : (writeV l r x).st = l.st := rfl
@[simp] theorem writeV_loop (l : Lane) (r : BitVec 6) (x : Word) : (writeV l r x).loop = l.loop := rfl
@[simp] theorem writeV_waits (l : Lane) (r : BitVec 6) (x : Word) : (writeV l r x).waits = l.waits := rfl
@[simp] theorem writeV_boosted (l : Lane) (r : BitVec 6) (x : Word) : (writeV l r x).boosted = l.boosted := rfl
@[simp] theorem writeV_wake (l : Lane) (r : BitVec 6) (x : Word) : (writeV l r x).wake = l.wake := rfl

@[simp] theorem writeS_team (g : Group) (r : BitVec 6) (x : DWord) : (writeS g r x).team = g.team := by unfold writeS; split <;> rfl
@[simp] theorem writeS_num (g : Group) (r : BitVec 6) (x : DWord) : (writeS g r x).num = g.num := by unfold writeS; split <;> rfl
@[simp] theorem writeS_width (g : Group) (r : BitVec 6) (x : DWord) : (writeS g r x).width = g.width := by unfold writeS; split <;> rfl
@[simp] theorem writeS_vregs (g : Group) (r : BitVec 6) (x : DWord) : (writeS g r x).vregs = g.vregs := by unfold writeS; split <;> rfl
@[simp] theorem writeS_role (g : Group) (r : BitVec 6) (x : DWord) : (writeS g r x).role = g.role := by unfold writeS; split <;> rfl
@[simp] theorem writeS_prio (g : Group) (r : BitVec 6) (x : DWord) : (writeS g r x).prio = g.prio := by unfold writeS; split <;> rfl
@[simp] theorem writeS_prioNext (g : Group) (r : BitVec 6) (x : DWord) : (writeS g r x).prioNext = g.prioNext := by unfold writeS; split <;> rfl
@[simp] theorem writeS_fpctl (g : Group) (r : BitVec 6) (x : DWord) : (writeS g r x).fpctl = g.fpctl := by unfold writeS; split <;> rfl
@[simp] theorem writeS_fpflags (g : Group) (r : BitVec 6) (x : DWord) : (writeS g r x).fpflags = g.fpflags := by unfold writeS; split <;> rfl
@[simp] theorem writeS_mflags (g : Group) (r : BitVec 6) (x : DWord) : (writeS g r x).mflags = g.mflags := by unfold writeS; split <;> rfl
@[simp] theorem writeS_rcount (g : Group) (r : BitVec 6) (x : DWord) : (writeS g r x).rcount = g.rcount := by unfold writeS; split <;> rfl
@[simp] theorem writeS_stacklim (g : Group) (r : BitVec 6) (x : DWord) : (writeS g r x).stacklim = g.stacklim := by unfold writeS; split <;> rfl
@[simp] theorem writeS_core (g : Group) (r : BitVec 6) (x : DWord) : (writeS g r x).core = g.core := by unfold writeS; split <;> rfl
@[simp] theorem writeS_bay (g : Group) (r : BitVec 6) (x : DWord) : (writeS g r x).bay = g.bay := by unfold writeS; split <;> rfl
@[simp] theorem writeS_place (g : Group) (r : BitVec 6) (x : DWord) : (writeS g r x).place = g.place := by unfold writeS; split <;> rfl
@[simp] theorem writeS_age (g : Group) (r : BitVec 6) (x : DWord) : (writeS g r x).age = g.age := by unfold writeS; split <;> rfl
@[simp] theorem writeS_loops (g : Group) (r : BitVec 6) (x : DWord) : (writeS g r x).loops = g.loops := by unfold writeS; split <;> rfl
@[simp] theorem writeS_fused (g : Group) (r : BitVec 6) (x : DWord) : (writeS g r x).fused = g.fused := by unfold writeS; split <;> rfl
@[simp] theorem writeS_yielded (g : Group) (r : BitVec 6) (x : DWord) : (writeS g r x).yielded = g.yielded := by unfold writeS; split <;> rfl
@[simp] theorem writeS_batch (g : Group) (r : BitVec 6) (x : DWord) : (writeS g r x).batch = g.batch := by unfold writeS; split <;> rfl
@[simp] theorem writeS_cpys (g : Group) (r : BitVec 6) (x : DWord) : (writeS g r x).cpys = g.cpys := by unfold writeS; split <;> rfl
@[simp] theorem writeS_copies (g : Group) (r : BitVec 6) (x : DWord) : (writeS g r x).copies = g.copies := by unfold writeS; split <;> rfl
@[simp] theorem writeS_copyErrs (g : Group) (r : BitVec 6) (x : DWord) : (writeS g r x).copyErrs = g.copyErrs := by unfold writeS; split <;> rfl
@[simp] theorem writeS_tokens (g : Group) (r : BitVec 6) (x : DWord) : (writeS g r x).tokens = g.tokens := by unfold writeS; split <;> rfl
@[simp] theorem writeS_loads (g : Group) (r : BitVec 6) (x : DWord) : (writeS g r x).loads = g.loads := by unfold writeS; split <;> rfl
@[simp] theorem writeS_reqs (g : Group) (r : BitVec 6) (x : DWord) : (writeS g r x).reqs = g.reqs := by unfold writeS; split <;> rfl
@[simp] theorem writeS_fills (g : Group) (r : BitVec 6) (x : DWord) : (writeS g r x).fills = g.fills := by unfold writeS; split <;> rfl
@[simp] theorem writeS_look (g : Group) (r : BitVec 6) (x : DWord) : (writeS g r x).look = g.look := by unfold writeS; split <;> rfl
@[simp] theorem writeS_issuedAt (g : Group) (r : BitVec 6) (x : DWord) : (writeS g r x).issuedAt = g.issuedAt := by unfold writeS; split <;> rfl
@[simp] theorem writeS_paired (g : Group) (r : BitVec 6) (x : DWord) : (writeS g r x).paired = g.paired := by unfold writeS; split <;> rfl
@[simp] theorem writeS_wait (g : Group) (r : BitVec 6) (x : DWord) : (writeS g r x).wait = g.wait := by unfold writeS; split <;> rfl
@[simp] theorem writeS_stall (g : Group) (r : BitVec 6) (x : DWord) : (writeS g r x).stall = g.stall := by unfold writeS; split <;> rfl
@[simp] theorem writeS_fault (g : Group) (r : BitVec 6) (x : DWord) : (writeS g r x).fault = g.fault := by unfold writeS; split <;> rfl
@[simp] theorem writeS_skid (g : Group) (r : BitVec 6) (x : DWord) : (writeS g r x).skid = g.skid := by unfold writeS; split <;> rfl
@[simp] theorem writeS_pfence (g : Group) (r : BitVec 6) (x : DWord) : (writeS g r x).pfence = g.pfence := by unfold writeS; split <;> rfl
@[simp] theorem writeS_didJ (g : Group) (r : BitVec 6) (x : DWord) : (writeS g r x).didJ = g.didJ := by unfold writeS; split <;> rfl
@[simp] theorem writeS_didX (g : Group) (r : BitVec 6) (x : DWord) : (writeS g r x).didX = g.didX := by unfold writeS; split <;> rfl
@[simp] theorem writeS_didB (g : Group) (r : BitVec 6) (x : DWord) : (writeS g r x).didB = g.didB := by unfold writeS; split <;> rfl
@[simp] theorem writeS_retired (g : Group) (r : BitVec 6) (x : DWord) : (writeS g r x).retired = g.retired := by unfold writeS; split <;> rfl
@[simp] theorem writeS_emul (g : Group) (r : BitVec 6) (x : DWord) : (writeS g r x).emul = g.emul := by unfold writeS; split <;> rfl
@[simp] theorem writeS_emulMask (g : Group) (r : BitVec 6) (x : DWord) : (writeS g r x).emulMask = g.emulMask := by unfold writeS; split <;> rfl
@[simp] theorem writeS_lanes (g : Group) (r : BitVec 6) (x : DWord) : (writeS g r x).lanes = g.lanes := by unfold writeS; split <;> rfl

@[simp] theorem writeP_pc (l : Lane) (r : BitVec 3) (b : Bool) : (writeP l r b).pc = l.pc := by unfold writeP; split <;> rfl
@[simp] theorem writeP_v (l : Lane) (r : BitVec 3) (b : Bool) : (writeP l r b).v = l.v := by unfold writeP; split <;> rfl
@[simp] theorem writeP_vpois (l : Lane) (r : BitVec 3) (b : Bool) : (writeP l r b).vpois = l.vpois := by unfold writeP; split <;> rfl
@[simp] theorem writeP_rs (l : Lane) (r : BitVec 3) (b : Bool) : (writeP l r b).rs = l.rs := by unfold writeP; split <;> rfl
@[simp] theorem writeP_d (l : Lane) (r : BitVec 3) (b : Bool) : (writeP l r b).d = l.d := by unfold writeP; split <;> rfl
@[simp] theorem writeP_c (l : Lane) (r : BitVec 3) (b : Bool) : (writeP l r b).c = l.c := by unfold writeP; split <;> rfl
@[simp] theorem writeP_stack (l : Lane) (r : BitVec 3) (b : Bool) : (writeP l r b).stack = l.stack := by unfold writeP; split <;> rfl
@[simp] theorem writeP_item (l : Lane) (r : BitVec 3) (b : Bool) : (writeP l r b).item = l.item := by unfold writeP; split <;> rfl
@[simp] theorem writeP_gen (l : Lane) (r : BitVec 3) (b : Bool) : (writeP l r b).gen = l.gen := by unfold writeP; split <;> rfl
@[simp] theorem writeP_st (l : Lane) (r : BitVec 3) (b : Bool) : (writeP l r b).st = l.st := by unfold writeP; split <;> rfl
@[simp] theorem writeP_loop (l : Lane) (r : BitVec 3) (b : Bool) : (writeP l r b).loop = l.loop := by unfold writeP; split <;> rfl
@[simp] theorem writeP_waits (l : Lane) (r : BitVec 3) (b : Bool) : (writeP l r b).waits = l.waits := by unfold writeP; split <;> rfl
@[simp] theorem writeP_boosted (l : Lane) (r : BitVec 3) (b : Bool) : (writeP l r b).boosted = l.boosted := by unfold writeP; split <;> rfl
@[simp] theorem writeP_wake (l : Lane) (r : BitVec 3) (b : Bool) : (writeP l r b).wake = l.wake := by unfold writeP; split <;> rfl

end Sys2Proof.Machine
end

