-- ==== Sys2Proof/Laws/Lists.lean ====
section
/-!
SUPPORT. Lists of machine parts: what changing one element does, and lanes read and changed by number.
-/

namespace Sys2Proof.Machine

variable {α β : Type}

@[simp] theorem listMod_length (f : α → α) (n : Nat) (l : List α) : (listMod f n l).length = l.length := by
  induction l generalizing n with
  | nil => cases n <;> rfl
  | cons x xs ih => cases n <;> simp [listMod, ih]

theorem listMod_getElem? (f : α → α) (n m : Nat) (l : List α) :
    (listMod f n l)[m]? = if m = n then (l[m]?).map f else l[m]? := by
  induction l generalizing n m with
  | nil => simp [listMod]
  | cons x xs ih =>
    cases n with
    | zero => cases m <;> simp [listMod]
    | succ n => cases m <;> simp [listMod, ih]

@[simp] theorem listMod_getElem?_self (f : α → α) (n : Nat) (l : List α) : (listMod f n l)[n]? = (l[n]?).map f := by
  simp [listMod_getElem?]

theorem listMod_getElem?_ne (f : α → α) {n m : Nat} (h : m ≠ n) (l : List α) : (listMod f n l)[m]? = l[m]? := by
  simp [listMod_getElem?, h]

/-- A change that a reading does not see. -/
theorem listMod_map (f : α → α) (p : α → β) (h : ∀ x, p (f x) = p x) (n : Nat) (l : List α) :
    (listMod f n l).map p = l.map p := by
  induction l generalizing n with
  | nil => cases n <;> rfl
  | cons x xs ih => cases n <;> simp [listMod, h, ih]

theorem listMod_comp (f g : α → α) (n : Nat) (l : List α) : listMod f n (listMod g n l) = listMod (fun x => f (g x)) n l := by
  induction l generalizing n with
  | nil => cases n <;> rfl
  | cons x xs ih => cases n <;> simp [listMod, ih]

@[simp] theorem mapFrom_length (f : Nat → α → β) (i : Nat) (l : List α) : (mapFrom f i l).length = l.length := by
  induction l generalizing i with
  | nil => rfl
  | cons x xs ih => simp [mapFrom, ih]

theorem mapFrom_getElem? (f : Nat → α → β) (i k : Nat) (l : List α) : (mapFrom f i l)[k]? = (l[k]?).map (f (i + k)) := by
  induction l generalizing i k with
  | nil => rfl
  | cons x xs ih =>
    cases k with
    | zero => simp [mapFrom]
    | succ k => simp [mapFrom, ih, Nat.add_comm, Nat.add_left_comm]

theorem mapFrom_mapFrom {γ : Type} (f : Nat → β → γ) (g : Nat → α → β) (i : Nat) (l : List α) :
    mapFrom f i (mapFrom g i l) = mapFrom (fun k x => f k (g k x)) i l := by
  induction l generalizing i with
  | nil => rfl
  | cons x xs ih => simp [mapFrom, ih]

@[simp] theorem onLanes_length (m : Mask) (f : Nat → Lane → Lane) (g : Group) : (onLanes m f g).lanes.length = g.lanes.length := by
  simp [onLanes]

/-- A lane after some lanes have changed. -/
theorem laneAt_onLanes (m : Mask) (f : Nat → Lane → Lane) (g : Group) (k : Nat) (hk : k < g.lanes.length) :
    laneAt (onLanes m f g) k = if has m k then f k (laneAt g k) else laneAt g k := by
  simp only [laneAt, onLanes, mapFrom_getElem?, Nat.zero_add, List.getElem?_eq_getElem hk, Option.map_some, Option.getD_some]

/-- Two changes of lanes in turn. -/
theorem onLanes_onLanes (m n : Mask) (f h : Nat → Lane → Lane) (g : Group) :
    onLanes m f (onLanes n h g) =
      { g with lanes := mapFrom (fun k l => if has m k then f k (if has n k then h k l else l) else (if has n k then h k l else l)) 0 g.lanes } := by
  simp [onLanes, mapFrom_mapFrom]

theorem has_and (m n : Mask) (k : Nat) : has (m &&& n) k = (has m k && has n k) := by simp [has]

theorem has_bit64 (n k : Nat) : has (bit64 n) k = (decide (k < 64) && n == k) := by
  simp only [has, bit64, BitVec.getLsbD_twoPow]
  by_cases h : n = k <;> by_cases h2 : k < 64 <;> simp [h, h2]

@[simp] theorem zero_has (k : Nat) : has 0#64 k = false := by simp [has]

theorem has_or (m n : Mask) (k : Nat) : has (m ||| n) k = (has m k || has n k) := by simp [has]

/-- No place before the first is in the mask. -/
theorem has_maskFrom_lt (f : Nat → α → Bool) {i k : Nat} (h : k < i) (ls : List α) : has (maskFrom f i ls) k = false := by
  induction ls generalizing i with
  | nil => exact zero_has k
  | cons l ls ih => cases hf : f i l <;> simp [maskFrom, hf, has_or, has_bit64, ih (Nat.lt_succ_of_lt h), (Nat.ne_of_lt h).symm]

/-- A place is in the mask when it exists and passes the test. -/
theorem has_maskFrom (f : Nat → α → Bool) (i n : Nat) (ls : List α) (hk : i + n < 64) :
    has (maskFrom f i ls) (i + n) = ((ls[n]?).map (f (i + n)) == some true) := by
  induction ls generalizing i n with
  | nil => simp [maskFrom]
  | cons l ls ih =>
    rw [maskFrom, has_or]
    match n with
    | 0 =>
      rw [Nat.add_zero, has_maskFrom_lt f (Nat.lt_add_one i)]
      cases hf : f i l <;> simp [has_bit64, hf]
      exact hk
    | n + 1 =>
      have e : i + (n + 1) = i + 1 + n := by omega
      rw [e, ih (i + 1) n (e ▸ hk)]
      have h0 : has (if f i l = true then bit64 i else 0) (i + 1 + n) = false := by
        split <;> simp [has_bit64]
        omega
      rw [h0, Bool.false_or, List.getElem?_cons_succ]

/-- A lane is in the mask of a test when it exists and passes it. -/
theorem has_laneMask (g : Group) (f : Nat → Lane → Bool) (k : Nat) (hk : k < 64) :
    has (laneMask g f) k = ((g.lanes[k]?).map (f k) == some true) := by
  simpa [laneMask] using has_maskFrom f 0 k g.lanes (by simpa using hk)

theorem has_laneMask_lt (g : Group) (f : Nat → Lane → Bool) (k : Nat) (hk : k < 64) (hl : k < g.lanes.length) :
    has (laneMask g f) k = f k (laneAt g k) := by
  rw [has_laneMask g f k hk, laneAt, List.getElem?_eq_getElem hl]
  simp

end Sys2Proof.Machine
end

