-- ==== Sys2Proof/Laws/Issue.lean ====
section
/-!
SUPPORT. Everything that issuing an instruction can do: the checks, the bookkeeping of an issue, and the shapes of the
instructions that only write registers.
-/

namespace Sys2Proof.Machine

/-! ## The issuing context -/

theorem ctx?_cases {s : State} {c : Ctx} (h : ctx? s = some c) :
    s.bundle = some c.b ∧ s.groups[c.b.group]? = some c.g ∧ s.teams[c.g.team]? = some c.t ∧ s.vchips[c.t.vc]? = some c.vc
      ∧ mayIssue c.g c.t = true := by
  simp only [ctx?, Option.bind_eq_bind, Option.bind_eq_some_iff] at h
  obtain ⟨b, hb, g, hg, t, ht, vc, hv, h⟩ := h
  split at h
  · rename_i hm
    cases h
    exact ⟨hb, hg, ht, hv, hm⟩
  · cases h

variable {i : Instr} {c : Ctx} {s t : State}

theorem Ready.group (h : Ready i c s) : s.groups[c.b.group]? = some c.g := (ctx?_cases h.now).2.1

theorem Ready.team (h : Ready i c s) : s.teams[c.g.team]? = some c.t := (ctx?_cases h.now).2.2.1

theorem Ready.chip (h : Ready i c s) : s.vchips[c.t.vc]? = some c.vc := (ctx?_cases h.now).2.2.2.1

theorem Ready.vchip (h : Ready i c s) : Machine.vchip s c.t.vc = c.vc := by simp [Machine.vchip, h.chip]

/-- An instruction that passes its checks is held up by none. -/
theorem Passes.unblocked (h : Passes i c s) : blocked i c s = none := by
  have h1 := h.lawful
  have h2 := h.role
  have h4 := h.free
  have h5 := h.clean
  have h6 := h.noErr
  unfold blocked
  have e1 : ¬(groupWide i && !c.b.broadcast) = true := by
    intro hh
    simp only [Bool.and_eq_true, Bool.not_eq_true'] at hh
    simp [(h.whole hh.1).1] at hh
  have e2 : ¬(groupWide i && c.b.mask != liveMask c.g) = true := by
    intro hh
    simp only [Bool.and_eq_true, bne_iff_ne, ne_eq] at hh
    exact hh.2 (h.whole hh.1).2
  rw [if_neg e1, if_neg (by simp [h1]), if_neg (by simp [h2]), if_neg e2, h4]
  by_cases hp : operandFaults i = true
  · simp [operandBlock, h5 hp, h6 hp]
  · simp [operandsFirst, hp]

/-- A ready instruction has its own effect. -/
theorem Ready.issue (h : Ready i c s) (k : Ctx → State) : issue i s k = .next (k c) := by
  simp [Machine.issue, h.now, h.toPasses.unblocked]

/-- A convergent instruction whose lanes have met has its own effect. -/
theorem Meets.issue (h : Meets i c s) (k : Ctx → State → State) : issueConv i s k = .next (k (metCtx c) (metState c s)) := by
  have hl : legal s c i = true := by
    have := h.passes.lawful
    have e : (metState c s).pkgStat = s.pkgStat := rfl
    have e2 : maskedPlanes (metCtx c) i = maskedPlanes c i := by
      unfold maskedPlanes
      split <;> rfl
    simp only [legal, covered, e, e2] at this ⊢
    exact this
  have hu := h.passes.unblocked
  unfold issueConv
  rw [h.now]
  simp only [hl, Bool.not_true, Bool.false_eq_true, if_false]
  refine (if_pos h.all).trans ?_
  show (match blocked i (metCtx c) (metState c s) with
    | some b => Host.Outcome.next (applyBlock i (metCtx c) (metState c s) b)
    | none => .next (k (metCtx c) (metState c s))) = _
  rw [hu]

/-- The issuing group of a convergent instruction as it executes. -/
theorem Meets.group (h : Meets i c s) : (metState c s).groups[(metCtx c).b.group]? = some (metCtx c).g := by
  have hg := (ctx?_cases h.now).2.1
  simp [metState, onGroup, modGroup, metCtx, hg]

/-! ## What lies elsewhere -/

theorem Elsewhere.refl (n : Nat) (s : State) : Elsewhere n s s :=
  ⟨fun _ => rfl, rfl, rfl, fun _ _ => rfl, rfl⟩

theorem Elsewhere.trans {n : Nat} {u : State} (h : Elsewhere n s t) (k : Elsewhere n t u) : Elsewhere n s u where
  bytes a := (k.bytes a).trans (h.bytes a)
  rest := by have h1 := h.rest; have h2 := k.rest; rw [h1] at h2; exact h2
  count := k.count.trans h.count
  groups m hm := (k.groups m hm).trans (h.groups m hm)
  chips := k.chips.trans h.chips

theorem Elsewhere.modGroup (n : Nat) (s : State) (f : Group → Group) : Elsewhere n s (modGroup s n f) where
  bytes _ := rfl
  rest := rfl
  count := by simp [Machine.modGroup]
  groups m hm := by simp [Machine.modGroup, listMod_getElem?_ne _ hm]
  chips := rfl

theorem Elsewhere.onGroup (s : State) (c : Ctx) (f : Group → Group) : Elsewhere c.b.group s (onGroup s c f) :=
  Elsewhere.modGroup _ _ _

theorem Elsewhere.countBay (n : Nat) (s : State) (v core bay id k : Nat) : Elsewhere n s (countBay s v core bay id k) where
  bytes _ := rfl
  rest := rfl
  count := rfl
  groups _ _ := rfl
  chips := by
    show List.map _ (listMod _ _ _) = _
    exact listMod_map _ _ (fun _ => by rfl) _ _

theorem Elsewhere.countIssue (n : Nat) (i : Instr) (c : Ctx) (s : State) : Elsewhere n s (countIssue i c s) := by
  unfold Machine.countIssue
  generalize issueCounts i c = es
  induction es generalizing s with
  | nil => exact Elsewhere.refl _ _
  | cons e es ih => exact (Elsewhere.countBay _ _ _ _ _ _ _).trans (ih _)

theorem Elsewhere.metState (c : Ctx) (s : State) : Elsewhere c.b.group s (metState c s) := Elsewhere.onGroup s c _

@[simp] theorem countIssue_groups (i : Instr) (c : Ctx) (s : State) : (countIssue i c s).groups = s.groups := by
  unfold Machine.countIssue
  generalize issueCounts i c = es
  induction es generalizing s with
  | nil => rfl
  | cons e es ih => exact ih _

/-- What the bookkeeping of an issue does elsewhere. -/
theorem Elsewhere.issued (i : Instr) (c : Ctx) (s : State) : Elsewhere c.b.group s (issued i c s) :=
  (Elsewhere.countIssue _ i c s).trans (Elsewhere.onGroup _ c _)

/-- What the bookkeeping of an issue does to the issuing group. -/
theorem issued_group (i : Instr) (c : Ctx) (s : State) (g : Group) (h : s.groups[c.b.group]? = some g) :
    (issued i c s).groups[c.b.group]? = some (advance i c (coreAt s c.g.core).clock g) := by
  simp [Machine.issued, onGroup, modGroup, h]

/-! ## Lanes after an issue -/

theorem advance_lanes (i : Instr) (c : Ctx) (x : DWord) (g : Group) (k : Nat) (hk : k < g.lanes.length) :
    laneAt (advance i c x g) k
      = if has c.b.mask k then movedTo (c.b.pc + BitVec.ofNat 64 (instrBytes i)) (laneAt g k) else laneAt g k := by
  simp only [advance]
  rw [laneAt_onLanes _ _ _ _ (by simpa using hk)]
  rfl

@[simp] theorem advance_length (i : Instr) (c : Ctx) (x : DWord) (g : Group) : (advance i c x g).lanes.length = g.lanes.length := by
  simp [advance]

/-- The group of an issue in which the group itself had changed to g before its lanes moved on. -/
theorem issued_onGroup (h : s.groups[c.b.group]? = some c.g) (f : Group → Group) :
    Elsewhere c.b.group s (issued i c (onGroup s c f)) ∧
      (issued i c (onGroup s c f)).groups[c.b.group]? = some (advance i c (coreAt s c.g.core).clock (f c.g)) := by
  refine ⟨(Elsewhere.onGroup s c f).trans (Elsewhere.issued i c _), ?_⟩
  exact issued_group i c _ (f c.g) (by simp [onGroup, modGroup, h])

/-! ## Scalar instructions -/

theorem readS_writeS (g : Group) (d r : BitVec 6) (x : DWord) :
    readS (writeS g d x) r = if r = 0#6 then 0 else if r = d then x else readS g r := by
  simp only [readS, writeS, beq_iff_eq]
  by_cases h0 : r = 0#6
  · simp [h0]
  · by_cases hd : d = 0#6
    · simp only [hd, if_true, h0, if_false]
    · simp only [hd, if_false, h0, Vector.getElem_set, BitVec.toNat_inj]
      by_cases e : d = r
      · simp [e]
      · simp [e, Ne.symm e]

theorem putBit_getLsbD (m : BitVec 64) (n r : Nat) (b : Bool) :
    (putBit m n b).getLsbD r = if r = n ∧ r < 64 then b else m.getLsbD r := by
  by_cases h2 : r < 64
  · cases b <;> by_cases h : r = n <;> simp [putBit, bit64, BitVec.getLsbD_twoPow, h, h2] <;> simp_all [eq_comm]
  · have h1 : ∀ x : BitVec 64, x.getLsbD r = false := fun x => BitVec.getLsbD_of_ge _ _ (Nat.le_of_not_lt h2)
    simp [h1, h2]

theorem putBit_clear (m : BitVec 64) (n r : Nat) (hn : n < 64) :
    (putBit m n false).getLsbD r = (m.getLsbD r && !(r == n)) := by
  rw [putBit_getLsbD]
  by_cases h : r = n
  · subst h; simp [hn]
  · simp [h]

theorem writeS_spois (g : Group) (d : BitVec 6) (x : DWord) (r : Nat) :
    (writeS g d x).spois.getLsbD r = (g.spois.getLsbD r && !(d != 0#6 && r == d.toNat)) := by
  unfold writeS
  by_cases h : d = 0#6
  · simp [h]
  · have h2 : (d != 0#6) = true := by simpa using h
    simp only [beq_iff_eq, h, if_false, putBit_clear _ _ _ d.isLt, h2, Bool.true_and]

theorem writeS_errTok (g : Group) (d : BitVec 6) (x : DWord) (r : Nat) :
    (writeS g d x).errTok.getLsbD r = (g.errTok.getLsbD r && !(d != 0#6 && r == d.toNat)) := by
  unfold writeS
  by_cases h : d = 0#6
  · simp [h]
  · have h2 : (d != 0#6) = true := by simpa using h
    simp only [beq_iff_eq, h, if_false, putBit_clear _ _ _ d.isLt, h2, Bool.true_and]

theorem writeS_only (g : Group) (d : BitVec 6) (x : DWord) :
    writeS g d x = { g with s := (writeS g d x).s, spois := (writeS g d x).spois, errTok := (writeS g d x).errTok } := by
  unfold writeS
  split <;> rfl

theorem readS_zero (g : Group) : readS g 0#6 = 0 := by simp [readS]

/-- What an instruction does that writes one scalar register with a value of the state it issues in. -/
theorem writesScalar (h : s.groups[c.b.group]? = some c.g) (d : BitVec 6) (x : Group → DWord) :
    WritesScalar i c d (x c.g) s (issued i c (onGroup s c fun g => writeS g d (x g))) := by
  obtain ⟨he, hu⟩ := issued_onGroup (i := i) h (fun g => writeS g d (x g))
  refine ⟨he, _, hu, ⟨by simp, fun k hk => ?_⟩, ?_, fun r hr => ?_, fun r => ?_, fun r => ?_, ?_⟩
  · rw [advance_lanes _ _ _ _ _ (by simpa using hk)]
    simp [laneAt]
  · show readS (writeS c.g d (x c.g)) d = _
    rw [readS_writeS]
    simp
  · show readS (writeS c.g d (x c.g)) r = _
    rw [readS_writeS]
    by_cases h0 : r = 0#6
    · subst h0; simp [readS_zero]
    · simp [h0, hr]
  · exact writeS_spois _ _ _ _
  · exact writeS_errTok _ _ _ _
  · have := writeS_only c.g d (x c.g)
    rw [this]
    rfl

/-- A scalar instruction completes, and writes its register. -/
theorem scalarOp_next (h : Ready i c s) (d : BitVec 6) (f : Group → DWord) :
    ∃ t, scalarOp i d f s = .next t ∧ WritesScalar i c d (f c.g) s t :=
  ⟨_, h.issue _, writesScalar h.group d f⟩

/-! ## Vector instructions -/

theorem readV_writeV (l : Lane) (d r : BitVec 6) (x : Word) : readV (writeV l d x) r = if r = d then x else readV l r := by
  simp only [readV, writeV, Vector.getElem_set, BitVec.toNat_inj]
  by_cases h : d = r
  · simp [h]
  · simp [h, Ne.symm h]

theorem writeV_vpois (l : Lane) (d : BitVec 6) (x : Word) (r : Nat) :
    (writeV l d x).vpois.getLsbD r = (l.vpois.getLsbD r && !(r == d.toNat)) := by
  simp [writeV, putBit_clear _ _ _ d.isLt]

theorem laneWrote (d : BitVec 6) (x : Word) (pc : DWord) (l : Lane) : LaneWrote d x pc l (movedTo pc (writeV l d x)) :=
  ⟨by show readV (writeV l d x) d = x; simp [readV_writeV],
   fun r hr => by show readV (writeV l d x) r = _; simp [readV_writeV, hr],
   fun r => writeV_vpois l d x r, rfl⟩

theorem readP_writeP (l : Lane) (p r : BitVec 3) (b : Bool) :
    readP (writeP l p b) r = if r = 7#3 then true else if r = p then b else readP l r := by
  by_cases h7 : r = 7#3
  · simp [readP, h7]
  · by_cases hp : p = 7#3
    · simp [writeP, hp, h7]
    · have hlt : p.toNat < 7 := by
        have := p.isLt
        have : p.toNat ≠ 7 := fun e => hp (BitVec.eq_of_toNat_eq e)
        omega
      have hr : r.toNat < 7 := by
        have := r.isLt
        have : r.toNat ≠ 7 := fun e => h7 (BitVec.eq_of_toNat_eq e)
        omega
      simp only [readP, writeP, beq_iff_eq, hp, if_false, h7]
      by_cases e : r = p
      · subst e
        cases b <;> simp [h7, hr]
      · have : p.toNat ≠ r.toNat := fun k => e (BitVec.eq_of_toNat_eq k.symm)
        cases b <;> simp [e, this.symm, hr]

theorem writeP_ppois (l : Lane) (p : BitVec 3) (b : Bool) (r : Nat) :
    (writeP l p b).ppois.getLsbD r = (l.ppois.getLsbD r && !(r == p.toNat)) := by
  unfold writeP
  by_cases hp : p = 7#3
  · subst hp
    by_cases h : r = 7
    · subst h; simp
    · simp [h]
  · have hlt : p.toNat < 7 := by
      have := p.isLt
      have : p.toNat ≠ 7 := fun e => hp (BitVec.eq_of_toNat_eq e)
      omega
    simp only [beq_iff_eq, hp, if_false, BitVec.getLsbD_and, BitVec.getLsbD_not, BitVec.getLsbD_twoPow]
    by_cases h : r = p.toNat
    · subst h; simp [hlt]
    · by_cases h7 : r < 7
      · simp [h, h7, Ne.symm h]
      · simp [BitVec.getLsbD_of_ge _ _ (Nat.le_of_not_lt h7)]

theorem laneSet (p : BitVec 3) (b : Bool) (pc : DWord) (l : Lane) : LaneSet p b pc l (movedTo pc (writeP l p b)) := by
  refine ⟨?_, fun r hr => ?_, fun r => writeP_ppois l p b r, ?_⟩
  · show readP (writeP l p b) p = _
    simp [readP_writeP]
  · show readP (writeP l p b) r = _
    rw [readP_writeP]
    by_cases h7 : r = 7#3
    · simp [h7, readP]
    · simp [h7, hr]
  · unfold writeP
    split <;> rfl

/-- What an instruction does that changes each acting lane. -/
theorem laneOp_did (h : s.groups[c.b.group]? = some c.g) (hm : ∀ k, has (acting c i) k = true → has c.b.mask k = true)
    (f : Nat → Lane → Lane) (W : Nat → Lane → Lane → Prop)
    (hW : ∀ k l, W k l (movedTo (c.b.pc + BitVec.ofNat 64 (instrBytes i)) (f k l))) :
    Elsewhere c.b.group s (laneOp i f c s) ∧ ∃ g', (laneOp i f c s).groups[c.b.group]? = some g' ∧ GroupKept c.g g' ∧
      LanesDid i c (acting c i) W g' := by
  obtain ⟨he, hu⟩ := issued_onGroup (i := i) h (onLanes (acting c i) f)
  refine ⟨he, _, hu, rfl, by simp, fun k hk => ?_⟩
  rw [advance_lanes _ _ _ _ _ (by simpa using hk)]
  rw [laneAt_onLanes _ _ _ _ hk]
  by_cases ha : has (acting c i) k = true
  · simp only [ha, if_true, hm k ha]
    exact hW k _
  · simp [ha]

/-- Acting lanes are active lanes (R311). -/
theorem acting_sub (c : Ctx) (i : Instr) (k : Nat) (h : has (acting c i) k = true) : has c.b.mask k = true := by
  unfold acting at h
  split at h
  · exact h
  · rw [has_and] at h
    simp only [Bool.and_eq_true] at h
    exact h.1

/-- A vector instruction completes, and writes its register in each acting lane. -/
theorem laneOp_next (h : Ready i c s) (d : BitVec 6) (x : Nat → Lane → Word) :
    ∃ t, issue i s (fun c' => laneOp i (fun k l => writeV l d (x k l)) c' s) = .next t ∧ WritesVector i c d x s t :=
  ⟨_, h.issue _, laneOp_did h.group (acting_sub c i) _ _ fun _ _ => laneWrote _ _ _ _⟩

theorem vecOp_next (h : Ready i c s) (d : BitVec 6) (f : Lane → Word) :
    ∃ t, vecOp i d f s = .next t ∧ WritesVector i c d (fun _ l => f l) s t :=
  ⟨_, h.issue _, laneOp_did h.group (acting_sub c i) _ _ fun _ _ => laneWrote _ _ _ _⟩

theorem predOp_next (h : Ready i c s) (p : BitVec 3) (f : Lane → Bool) :
    ∃ t, predOp i p f s = .next t ∧ WritesPredicate i c p (fun _ l => f l) s t :=
  ⟨_, h.issue _, laneOp_did h.group (acting_sub c i) _ _ fun _ _ => laneSet _ _ _ _⟩

/-- An instruction that only moves its bundle on. -/
theorem onlyMoves (h : s.groups[c.b.group]? = some c.g) : OnlyMoves i c s (issued i c s) := by
  refine ⟨Elsewhere.issued i c s, _, issued_group i c s c.g h, rfl, by simp, fun k hk => ?_⟩
  exact advance_lanes _ _ _ _ _ (by simpa using hk)

/-! ## Convergent instructions -/

/-- A claim about the state in which a convergent instruction executes is one about the state in which it issued. -/
theorem WritesVector.since {d : BitVec 6} {x : Nat → Lane → Word} {u : State} (h : WritesVector i c d x t u)
    (he : Elsewhere c.b.group s t) : WritesVector i c d x s u := ⟨he.trans h.1, h.2⟩

theorem WritesPredicate.since {p : BitVec 3} {b : Nat → Lane → Bool} {u : State} (h : WritesPredicate i c p b t u)
    (he : Elsewhere c.b.group s t) : WritesPredicate i c p b s u := ⟨he.trans h.1, h.2⟩

theorem WritesScalar.since {d : BitVec 6} {x : DWord} {u : State} (h : WritesScalar i c d x t u)
    (he : Elsewhere c.b.group s t) : WritesScalar i c d x s u := ⟨he.trans h.1, h.2⟩

theorem OnlyMoves.since {u : State} (h : OnlyMoves i c t u) (he : Elsewhere c.b.group s t) : OnlyMoves i c s u :=
  ⟨he.trans h.1, h.2⟩

end Sys2Proof.Machine
end

