-- ==== Sys2Proof/Laws/Float.lean ====
section
/-!
SUPPORT. Everything that a float instruction can do: its lanes' results and flags, or the arithmetic fault (R115, R369); and taking a
fault (R277).
-/

namespace Sys2Proof.Machine

variable {i : Instr} {c : Ctx} {s t : State}

/-! ## Taking a fault -/

/-- The team of the issuing context is not being saved, so that a fault halts it as it would a resident one. -/
theorem haltedBy_issuing (h : mayIssue c.g c.t = true) :
    haltedBy c.b.group c.t = if c.t.status = .halted then c.t
      else { c.t with status := .halted, primary := c.b.group, recordWritten := false, cmd := 0 } := by
  unfold mayIssue at h
  cases e : c.t.status <;> simp [haltedBy, isHalted, e] at h ⊢

/-- What a fault of the issuing group does. -/
theorem takeTrap_takes (h : ctx? s = some c) (cause : BitVec 8) (lanes : Mask) (addr : DWord) (u : Bool) (exc : List (BitVec 5)) :
    TakesFault c cause lanes addr u exc s
      (takeTrap s c.b.group { cause := cause, lanes := lanes, addr := addr, pc := c.b.pc, underflow := u, exc := exc }) := by
  obtain ⟨-, hg, ht, -, hm⟩ := ctx?_cases h
  have key (f : FaultMark) : takeTrap s c.b.group f
      = modTeam (modGroup s c.b.group fun g => { g with fault := some f, stall := .trapHalt }) c.g.team (haltedBy c.b.group) := by
    rw [takeTrap, hg]
  rw [key]
  refine ⟨rfl, by simp [modTeam, modGroup], fun m hm => ?_, ?_, by simp [modTeam, modGroup], fun m hm => ?_, ?_⟩
  · simp [modTeam, modGroup, listMod_getElem?_ne _ hm]
  · simp [modTeam, modGroup, hg]
  · simp [modTeam, modGroup, listMod_getElem?_ne _ hm]
  · simp only [modTeam, modGroup, listMod_getElem?_self, ht, Option.map_some, haltedBy_issuing hm]

/-- A fault of an instruction's own checks. -/
theorem fault_takes (h : ctx? s = some c) (cause : BitVec 8) (lanes : Mask) (addr : DWord) :
    TakesFault c cause lanes addr false [] s (fault s c cause lanes addr) :=
  takeTrap_takes h _ _ _ _ _

theorem Ready.fault (h : Ready i c s) (cause : BitVec 8) (lanes : Mask) (addr : DWord) :
    TakesFault c cause lanes addr false [] s (fault s c cause lanes addr) :=
  fault_takes h.now _ _ _

/-! ## Flags -/

theorem laneExc_getElem? (m : Mask) (f : Lane → Lane × BitVec 5) (g : Group) (k : Nat) (hk : k < g.lanes.length) :
    (laneExc m f g)[k]? = some (if has m k then (f (laneAt g k)).2 else 0) := by
  simp only [laneExc, mapFrom_getElem?, Nat.zero_add, laneAt, List.getElem?_eq_getElem hk, Option.map_some, Option.getD_some]

@[simp] theorem laneExc_length (m : Mask) (f : Lane → Lane × BitVec 5) (g : Group) : (laneExc m f g).length = g.lanes.length := by
  simp [laneExc]

theorem foldl_or_getLsbD (xs : List (BitVec 5)) (a : BitVec 5) (j : Nat) :
    (xs.foldl (fun a x => a ||| x) a).getLsbD j = true ↔ a.getLsbD j = true ∨ ∃ x ∈ xs, x.getLsbD j = true := by
  induction xs generalizing a with
  | nil => simp
  | cons x xs ih => simp [ih, or_assoc]

theorem orFlags_getLsbD (xs : List (BitVec 5)) (j : Nat) : (orFlags xs).getLsbD j = true ↔ ∃ x ∈ xs, x.getLsbD j = true := by
  simp [orFlags, foldl_or_getLsbD]

/-- The flags that the lanes of a mask raise. -/
theorem orFlags_laneExc (m : Mask) (f : Lane → Lane × BitVec 5) (g : Group) (j : Nat) :
    (orFlags (laneExc m f g)).getLsbD j = true ↔
      ∃ k, k < g.lanes.length ∧ has m k = true ∧ (f (laneAt g k)).2.getLsbD j = true := by
  rw [orFlags_getLsbD]
  constructor
  · rintro ⟨x, hx, hj⟩
    obtain ⟨k, hk, rfl⟩ := List.getElem_of_mem hx
    have hk' : k < g.lanes.length := by simpa using hk
    have e := laneExc_getElem? m f g k hk'
    rw [List.getElem?_eq_getElem hk, Option.some.injEq] at e
    rw [e] at hj
    by_cases hm : has m k = true
    · exact ⟨k, hk', hm, by simpa [hm] using hj⟩
    · simp [hm] at hj
  · rintro ⟨k, hk, hm, hj⟩
    have e := laneExc_getElem? m f g k hk
    rw [if_pos hm] at e
    exact ⟨_, List.mem_of_getElem? e, hj⟩

theorem has_trapLanes (en : BitVec 5) (xs : List (BitVec 5)) (k : Nat) (hk : k < 64) :
    has (trapLanes en 0 xs) k = true ↔ ∃ x, xs[k]? = some x ∧ x &&& en ≠ 0 := by
  have h := has_maskFrom (fun _ x => x &&& en != 0) 0 k xs (by simpa using hk)
  rw [Nat.zero_add] at h
  rw [trapLanes, h]
  cases xs[k]? <;> simp

theorem and_ne_zero_iff (x en : BitVec 5) : x &&& en ≠ 0 ↔ ∃ j, j ≤ 4 ∧ x.getLsbD j = true ∧ en.getLsbD j = true := by
  constructor
  · intro h
    by_contra hn
    push Not at hn
    apply h
    apply BitVec.eq_of_getLsbD_eq
    intro j hj
    have := hn j (by omega)
    simp only [BitVec.getLsbD_and, BitVec.ofNat_eq_ofNat, BitVec.getLsbD_zero, Bool.and_eq_false_imp]
    intro hx
    simpa using this hx
  · rintro ⟨j, _, hx, he⟩ h0
    have : (x &&& en).getLsbD j = true := by simp [hx, he]
    rw [h0] at this
    simp at this

theorem fpEnables_getLsbD (g : Group) (j : Nat) (h : j ≤ 4) : (fpEnables g).getLsbD j = g.fpctl.getLsbD (8 + j) := by
  simp [fpEnables, show j < 5 by omega]

/-- The offending lanes of a float instruction. -/
theorem has_bad (m : Mask) (f : Lane → Lane × BitVec 5) (g : Group) (k : Nat) (hk : k < 64) :
    has (trapLanes (fpEnables g) 0 (laneExc m f g)) k = true ↔
      k < g.lanes.length ∧ has m k = true ∧ ∃ j, j ≤ 4 ∧ (f (laneAt g k)).2.getLsbD j = true ∧ g.fpctl.getLsbD (8 + j) = true := by
  rw [has_trapLanes _ _ _ hk]
  constructor
  · rintro ⟨x, hx, hne⟩
    have hk' : k < g.lanes.length := by
      by_contra hge
      rw [List.getElem?_eq_none (by simpa using Nat.le_of_not_lt hge)] at hx
      cases hx
    rw [laneExc_getElem? _ _ _ _ hk', Option.some.injEq] at hx
    obtain ⟨j, hj, h1, h2⟩ := (and_ne_zero_iff _ _).1 hne
    by_cases hm : has m k = true
    · rw [if_pos hm] at hx
      exact ⟨hk', hm, j, hj, hx ▸ h1, by rwa [fpEnables_getLsbD _ _ hj] at h2⟩
    · rw [if_neg hm] at hx
      rw [← hx] at h1
      simp at h1
  · rintro ⟨hk', hm, j, hj, h1, h2⟩
    refine ⟨_, laneExc_getElem? _ _ _ _ hk', ?_⟩
    rw [if_pos hm]
    exact (and_ne_zero_iff _ _).2 ⟨j, hj, h1, by rwa [fpEnables_getLsbD _ _ hj]⟩

theorem mask_eq_zero (m : Mask) (h : ∀ k, k < 64 → has m k = false) : m = 0 := by
  apply BitVec.eq_of_getLsbD_eq
  intro j hj
  simpa [has] using h j hj

/-! ## Float instructions -/

/-- The lanes and flags of a float instruction without an enabled exception. -/
theorem floatLanes_did (h : s.groups[c.b.group]? = some c.g) (f : Lane → Lane × BitVec 5) (W : Lane → Lane → Prop)
    (hW : ∀ l, W l (movedTo (c.b.pc + BitVec.ofNat 64 (instrBytes i)) (f l).1)) :
    Elsewhere c.b.group s (issued i c (onGroup s c (floatLanes (acting c i) f))) ∧
      ∃ g', (issued i c (onGroup s c (floatLanes (acting c i) f))).groups[c.b.group]? = some g' ∧
        GroupKept { c.g with fpflags := c.g.fpflags ||| orFlags (laneExc (acting c i) f c.g) } g' ∧
        LanesDid i c (acting c i) (fun _ => W) g' := by
  obtain ⟨he, hu⟩ := issued_onGroup (i := i) h (floatLanes (acting c i) f)
  refine ⟨he, _, hu, rfl, by simp [floatLanes], fun k hk => ?_⟩
  rw [advance_lanes _ _ _ _ _ (by simpa [floatLanes] using hk)]
  have e : laneAt (floatLanes (acting c i) f c.g) k = laneAt (onLanes (acting c i) (fun _ l => (f l).1) c.g) k := rfl
  rw [e, laneAt_onLanes _ _ _ _ hk]
  by_cases ha : has (acting c i) k = true
  · simp only [ha, if_true, acting_sub c i k ha]
    exact hW _
  · simp [ha]

/-- What a float instruction answers: its results, or the arithmetic fault. -/
theorem floatOp_next (h : Ready i c s) (f : FpEnv → Lane → Lane × BitVec 5) :
    floatOp i f s = .next (
      let exc := laneExc (acting c i) (f (envOf c.g)) c.g
      let bad := trapLanes (fpEnables c.g) 0 exc
      if bad != 0 then arithFault s c bad exc else issued i c (onGroup s c (floatLanes (acting c i) (f (envOf c.g))))) :=
  h.issue _

theorem arithFault_takes (h : ctx? s = some c) (bad : Mask) (exc : List (BitVec 5)) :
    TakesFault c 0x10 bad 0 false exc s (arithFault s c bad exc) :=
  takeTrap_takes h _ _ _ _ _

end Sys2Proof.Machine
end

