-- ==== Sys2Proof/Laws/Checks.lean ====
section
/-!
SUPPORT. Every encoded instruction goes through the issue checks before anything of its own.
-/

namespace Sys2Proof.Machine

variable {i : Instr} {c : Ctx} {s t : State}

seal issue issueConv in
/-- An instruction that is not convergent is issued at once. -/
theorem exec_issues (i : Instr) (s : State) (h : (encode i).isSome = true ∨ i = .illegalInstruction) (hc : ¬Convergent i) :
    ∃ k, exec i s = issue i s k := by
  cases i <;> first
    | exact ⟨_, rfl⟩
    | (refine absurd ?_ hc; simp [Convergent]; done)
    | (exfalso; simp [encode, encodeWord] at h)

seal issue issueConv in
/-- A convergent instruction is issued as one. -/
theorem exec_converges (i : Instr) (s : State) (hc : Convergent i) : ∃ k, exec i s = issueConv i s k := by
  obtain ⟨_, _, _, _, rfl⟩ | ⟨_, _, _, rfl⟩ | ⟨_, _, rfl⟩ | ⟨_, _, _, _, rfl⟩ | ⟨_, _, _, _, _, rfl⟩ | ⟨_, _, _, rfl⟩ | ⟨_, rfl⟩ | rfl |
    ⟨_, rfl | rfl | rfl | rfl⟩ | rfl | rfl | rfl := hc <;> exact ⟨_, rfl⟩

/-- A unit that decodes to nothing is never legal. -/
theorem illegal_never_legal (s : State) (c : Ctx) : legal s c .illegalInstruction = false := by
  have h : kernelOk c .illegalInstruction = false := rfl
  unfold legal
  rw [h]
  simp

/-- An illegal instruction faults before every other check, but for a group-wide one away from the broadcast fetch, which is not
issued there (R24). -/
theorem exec_illegal (h : ctx? s = some c) (he : (encode i).isSome = true ∨ i = .illegalInstruction)
    (hb : groupWide i = true → c.b.broadcast = true) (hl : legal s c i = false) :
    exec i s = .next (fault s c cIllegal c.b.mask 0) := by
  have hw : (groupWide i && !c.b.broadcast) = false := by
    cases hg : groupWide i
    · rfl
    · simp [hb hg]
  by_cases hc : Convergent i
  · obtain ⟨k, hk⟩ := exec_converges i s hc
    rw [hk]
    simp [issueConv, h, hl]
  · obtain ⟨k, hk⟩ := exec_issues i s he hc
    rw [hk]
    simp [issue, h, blocked, hw, hl, applyBlock]

/-- An instruction that is held up does what holds it up, and nothing of its own. -/
theorem exec_blocked (h : ctx? s = some c) (he : (encode i).isSome = true) (hc : ¬Convergent i) {b : Block}
    (hb : blocked i c s = some b) : exec i s = .next (applyBlock i c s b) := by
  obtain ⟨k, hk⟩ := exec_issues i s (.inl he) hc
  rw [hk]
  simp [issue, h, hb]

/-- The issuing group after a change of it. -/
theorem onGroup_self {u : State} {g : Group} (h : u.groups[c.b.group]? = some g) (f : Group → Group) :
    (onGroup u c f).groups[c.b.group]? = some (f g) := by
  simp [onGroup, modGroup, h]

theorem missLookahead_elsewhere (i : Instr) (c : Ctx) (u : State) : Elsewhere c.b.group u (missLookahead i c u) := by
  unfold missLookahead
  split
  · exact (Elsewhere.onGroup u c _).trans (Elsewhere.countBay _ _ _ _ _ _ _)
  · exact Elsewhere.refl _ _

theorem missLookahead_group {u : State} {g : Group} (h : u.groups[c.b.group]? = some g) :
    ∃ ws, (missLookahead i c u).groups[c.b.group]? = some { g with look := ws } := by
  unfold missLookahead
  split
  · exact ⟨_, by simp [countBay, onGroup, modGroup, modVc, h]; rfl⟩
  · exact ⟨g.look, h⟩

/-- A group that waits is as it was but for its stall reason and the bookkeeping of tokens and lookahead. -/
theorem stall_group (h : ctx? s = some c) (r : Stall) :
    Elsewhere c.b.group s (applyBlock i c s (.stall r)) ∧
      ∃ g', (applyBlock i c s (.stall r)).groups[c.b.group]? = some g' ∧ g'.lanes = c.g.lanes ∧ g'.s = c.g.s ∧ g'.stall = r := by
  have hg := (ctx?_cases h).2.1
  let s1 := if r == .token && touchesUnsealed c i then onGroup s c sealBatch else s
  have h1 : Elsewhere c.b.group s s1 ∧ ∃ g1, s1.groups[c.b.group]? = some g1 ∧ g1.lanes = c.g.lanes ∧ g1.s = c.g.s := by
    simp only [s1]
    split
    · exact ⟨Elsewhere.onGroup _ _ _, _, onGroup_self hg sealBatch, rfl, rfl⟩
    · exact ⟨Elsewhere.refl _ _, _, hg, rfl, rfl⟩
  obtain ⟨he, g1, e1, e2, e3⟩ := h1
  obtain ⟨ws, ew⟩ := missLookahead_group (i := i) e1
  exact ⟨(he.trans (missLookahead_elsewhere i c s1)).trans (Elsewhere.onGroup _ c _), _,
    onGroup_self ew fun g => { g with stall := r }, e2, e3, rfl⟩

end Sys2Proof.Machine
end

