-- ==== Sys2Proof/Laws/Lanes.lean ====
section
/-!
SUPPORT. Everything that the convergent and the control instructions can do to the lanes of their group.
-/

namespace Sys2Proof.Machine

variable {i : Instr} {c : Ctx} {s t : State}

/-- The team of a convergent instruction as it executes. -/
theorem Meets.team (h : Meets i c s) : (metState c s).teams[(metCtx c).g.team]? = some (metCtx c).t := by
  exact (ctx?_cases h.now).2.2.1

/-- The acting lanes of an instruction without a predicate are those of its bundle. -/
theorem acting_unguarded (c : Ctx) (h : guard? i = none) : acting c i = c.b.mask := by simp [acting, h]

/-- What a convergent instruction does that changes each executing lane. -/
theorem convLanes_next (h : Meets i c s) (hi : guard? i = none) (f : Ctx → Nat → Lane → Lane) (W : Nat → Lane → Lane → Prop)
    (hW : ∀ k l, has (metCtx c).b.mask k = true → W k l (movedTo (c.b.pc + BitVec.ofNat 64 (instrBytes i)) (f (metCtx c) k l))) :
    ∃ t, convLanes i f s = .next t ∧ Elsewhere c.b.group s t ∧ ∃ g', t.groups[c.b.group]? = some g' ∧
      GroupKept (metCtx c).g g' ∧ LanesDid i (metCtx c) (metCtx c).b.mask W g' := by
  refine ⟨_, h.issue _, ?_⟩
  have ha := acting_unguarded (metCtx c) hi
  obtain ⟨he, hu⟩ := issued_onGroup (i := i) h.group (onLanes (acting (metCtx c) i) (f (metCtx c)))
  refine ⟨(Elsewhere.metState c s).trans he, _, hu, rfl, by simp, fun k hk => ?_⟩
  rw [advance_lanes _ _ _ _ _ (by simpa using hk), laneAt_onLanes _ _ _ _ hk, ha]
  by_cases hm : has (metCtx c).b.mask k = true
  · simp only [hm, if_true]
    exact hW k _ hm
  · simp [hm]

/-- A group of an issue that then sends some of its lanes on by itself. -/
theorem issued_then (h : s.groups[c.b.group]? = some c.g) (f : Group → Group) :
    Elsewhere c.b.group s (onGroup (issued i c s) c f) ∧
      (onGroup (issued i c s) c f).groups[c.b.group]? = some (f (advance i c (coreAt s c.g.core).clock c.g)) :=
  ⟨(Elsewhere.issued i c s).trans (Elsewhere.onGroup _ c _), onGroup_self (issued_group i c s c.g h) f⟩

/-- What an instruction does that changes some lanes after they have moved on. -/
theorem lanesGo (h : s.groups[c.b.group]? = some c.g) (m : Mask) (hm : ∀ k, has m k = true → has c.b.mask k = true)
    (f : Nat → Lane → Lane) (W : Nat → Lane → Lane → Prop)
    (hW : ∀ k, k < c.g.lanes.length → has m k = true →
      W k (laneAt c.g k) (f k (movedTo (c.b.pc + BitVec.ofNat 64 (instrBytes i)) (laneAt c.g k)))) :
    Elsewhere c.b.group s (onGroup (issued i c s) c (onLanes m f)) ∧
      ∃ g', (onGroup (issued i c s) c (onLanes m f)).groups[c.b.group]? = some g' ∧ GroupKept c.g g' ∧ LanesDid i c m W g' := by
  obtain ⟨he, hu⟩ := issued_then (i := i) h (onLanes m f)
  refine ⟨he, _, hu, rfl, by simp, fun k hk => ?_⟩
  rw [laneAt_onLanes _ _ _ _ (by simpa using hk), advance_lanes _ _ _ _ _ (by simpa using hk)]
  by_cases hk2 : has m k = true
  · simp only [hk2, if_true, hm k hk2]
    exact hW k hk hk2
  · simp [hk2]

/-- A convergent instruction whose lanes have not met holds them. -/
theorem issueConv_holds (h : ctx? s = some c) (hl : legal s c i = true) (hn : converged (metCtx c).g c.b.pc = false)
    (k : Ctx → State → State) : ∃ t, issueConv i s k = .next t ∧ Elsewhere c.b.group s t ∧ ∃ g', t.groups[c.b.group]? = some g' ∧
      g' = { c.g with lanes := g'.lanes, stall := .scoreboard } ∧ LanesAre c (fun _ l => { l with st := .held }) g' := by
  refine ⟨onGroup s c fun _ => { (metCtx c).g with stall := .scoreboard }, ?_, Elsewhere.onGroup _ _ _, _,
    onGroup_self (ctx?_cases h).2.1 _, rfl, by simp [metCtx], fun k hk => ?_⟩
  · unfold issueConv
    rw [h]
    simp only [hl, Bool.not_true, Bool.false_eq_true, if_false]
    exact if_neg (by rw [show converged (onLanes c.b.mask _ c.g) c.b.pc = false from hn]; simp)
  · show laneAt (onLanes c.b.mask _ c.g) k = _
    rw [laneAt_onLanes _ _ _ _ hk]

end Sys2Proof.Machine
end

