-- ==== Sys2Proof/Laws/Mem.lean ====
section
/-!
SUPPORT. Memory: every operation keeps the canonical form, a read after a write gives what was written, and a write leaves every
other byte alone.
-/

namespace Sys2Proof.Machine

variable {α : Type}

/-- Rising keys, as each entry's relation to all that follow it. -/
theorem rising_iff (t : Table α) : rising t = true ↔ t.Pairwise fun a b => a.1 < b.1 := by
  induction t with
  | nil => simp [rising]
  | cons a t ih =>
    cases t with
    | nil => simp [rising]
    | cons b t =>
      rw [rising, Bool.and_eq_true, ih, decide_eq_true_eq, List.pairwise_cons (a := a)]
      constructor
      · rintro ⟨hab, hp⟩
        refine ⟨fun c hc => ?_, hp⟩
        rcases List.mem_cons.1 hc with rfl | hc
        · exact hab
        · exact Nat.lt_trans hab ((List.pairwise_cons.1 hp).1 c hc)
      · rintro ⟨h, hp⟩
        exact ⟨h b (List.mem_cons_self ..), hp⟩

theorem tdel_rising {t : Table α} (h : rising t = true) (k : Nat) : rising (tdel t k) = true :=
  (rising_iff _).2 (((rising_iff _).1 h).filter _)

theorem mem_tins (t : Table α) (k : Nat) (x : α) (e : Nat × α) : e ∈ tins t k x ↔ e = (k, x) ∨ e ∈ t := by
  induction t with
  | nil => simp [tins]
  | cons a t ih =>
    obtain ⟨a, y⟩ := a
    simp only [tins]
    split
    · simp
    · simp [ih, or_left_comm]

theorem tins_rising {t : Table α} (h : rising t = true) (k : Nat) (x : α) (hk : ∀ e, e ∈ t → e.1 ≠ k) :
    rising (tins t k x) = true := by
  rw [rising_iff] at h ⊢
  induction t with
  | nil => simp [tins]
  | cons a t ih =>
    obtain ⟨a, y⟩ := a
    have hp := List.pairwise_cons.1 h
    simp only [tins]
    split
    · refine List.pairwise_cons.2 ⟨fun e he => ?_, h⟩
      rcases List.mem_cons.1 he with rfl | he
      · assumption
      · exact Nat.lt_trans ‹k < a› (hp.1 e he)
    · refine List.pairwise_cons.2 ⟨fun e he => ?_, ih hp.2 fun e he => hk e (List.mem_cons_of_mem _ he)⟩
      rcases (mem_tins t k x e).1 he with rfl | he
      · have := hk (a, y) (List.mem_cons_self ..)
        simp only [ne_eq] at this
        omega
      · exact hp.1 e he

theorem tput_rising {t : Table α} (h : rising t = true) (k : Nat) (x : α) : rising (tput t k x) = true :=
  tins_rising (tdel_rising h k) k x fun e he => by simpa [tdel] using (List.mem_filter.1 he).2

theorem tget_tdel (t : Table α) (k j : Nat) : tget (tdel t k) j = if j = k then none else tget t j := by
  induction t with
  | nil => simp [tdel, tget]
  | cons a t ih =>
    obtain ⟨a, y⟩ := a
    have ih' : tget (List.filter (fun e => e.1 != k) t) j = if j = k then none else tget t j := ih
    by_cases ha : a = k
    · by_cases hj : j = k
      · subst hj
        simpa [tdel, ha] using ih'
      · simp [tdel, tget, ha, ih', hj, Ne.symm hj]
    · by_cases hj : a = j
      · subst hj
        simp [tdel, tget, ha]
      · simp [tdel, tget, ha, ih', hj]

theorem tget_tins (t : Table α) (k : Nat) (x : α) (hk : ∀ e, e ∈ t → e.1 ≠ k) (j : Nat) :
    tget (tins t k x) j = if j = k then some x else tget t j := by
  induction t with
  | nil => simp [tins, tget, eq_comm]
  | cons a t ih =>
    obtain ⟨a, y⟩ := a
    have hak : a ≠ k := hk (a, y) (List.mem_cons_self ..)
    have ih' := ih fun e he => hk e (List.mem_cons_of_mem _ he)
    simp only [tins]
    split
    · simp [tget, eq_comm]
    · by_cases hj : a = j
      · subst hj
        simp [tget, hak]
      · simp [tget, hj, ih']

theorem tget_tput (t : Table α) (k : Nat) (x : α) (j : Nat) : tget (tput t k x) j = if j = k then some x else tget t j := by
  rw [tput, tget_tins _ _ _ (fun e he => by simpa [tdel] using (List.mem_filter.1 he).2), tget_tdel]
  split <;> rfl

/-! ## Bytes -/

/-- A byte after a write. -/
theorem memRead_memWrite (m : Memory) (k : Nat) (b : Byte) (j : Nat) :
    memRead (memWrite m k b) j = if j = k then b else memRead m j := by
  unfold memRead memWrite
  by_cases hb : b = 0
  · rw [if_pos hb, tget_tdel]
    split <;> simp [hb]
  · rw [if_neg hb, tget_tput]
    split <;> simp

/-- Bytes after a write of several. -/
theorem memRead_memWriteN (m : Memory) (k : Nat) (bs : List Byte) (j : Nat) :
    memRead (memWriteN m k bs) j = if k ≤ j then (bs[j - k]?).getD (memRead m j) else memRead m j := by
  induction bs generalizing m k with
  | nil => simp [memWriteN]
  | cons b bs ih =>
    rw [memWriteN, ih, memRead_memWrite]
    rcases Nat.lt_trichotomy j k with h | rfl | h
    · simp [show ¬k + 1 ≤ j by omega, show ¬k ≤ j by omega, show j ≠ k by omega]
    · simp [show ¬j + 1 ≤ j by omega]
    · simp [show k + 1 ≤ j by omega, show k ≤ j by omega, show j ≠ k by omega, show j - k = (j - (k + 1)) + 1 by omega]

/-- A read of the bytes that a write has just placed. -/
theorem memReadN_memWriteN (m : Memory) (k : Nat) (bs : List Byte) : memReadN (memWriteN m k bs) k bs.length = bs := by
  suffices h : ∀ (n : Nat) (l : List Byte) (m' : Memory), l.length = n → (∀ i, i < n → memRead m' (k + i) = l[i]?.getD 0) →
      ∀ k', k' = k → memReadN m' k' n = l by
    refine h _ bs _ rfl (fun i hi => ?_) k rfl
    rw [memRead_memWriteN]
    simp [hi]
  intro n
  induction n generalizing k with
  | zero =>
    intro l m' hl _ k' _
    simp [memReadN, List.length_eq_zero_iff.1 hl]
  | succ n ih =>
    intro l m' hl h k' hk
    cases l with
    | nil => simp at hl
    | cons b l =>
      subst hk
      rw [memReadN]
      congr 1
      · simpa using h 0 (by omega)
      · refine ih (k' + 1) l m' (by simpa using hl) (fun i hi => ?_) _ rfl
        have := h (i + 1) (by omega)
        rw [Nat.add_right_comm, Nat.add_assoc]
        simpa using this

/-! ## The canonical form -/

theorem tput_all {t : Table α} {p : Nat × α → Bool} (h : t.all p = true) (k : Nat) (x : α) (hx : p (k, x) = true) :
    (tput t k x).all p = true := by
  rw [List.all_eq_true] at h ⊢
  intro e he
  rcases (mem_tins _ k x e).1 he with rfl | he
  · exact hx
  · exact h e (List.mem_filter.1 he).1

theorem memWrite_wf {m : Memory} (h : memWf m = true) (k : Nat) (b : Byte) : memWf (memWrite m k b) = true := by
  simp only [memWf, Bool.and_eq_true] at h ⊢
  unfold memWrite
  split
  · exact ⟨tdel_rising h.1 k, List.all_eq_true.2 fun e he => List.all_eq_true.1 h.2 e (List.mem_filter.1 he).1⟩
  · exact ⟨tput_rising h.1 k b, tput_all h.2 k b (by simpa using ‹b ≠ 0›)⟩

theorem memWriteN_wf {m : Memory} (h : memWf m = true) (k : Nat) (bs : List Byte) : memWf (memWriteN m k bs) = true := by
  induction bs generalizing m k with
  | nil => exact h
  | cons b bs ih => exact ih (memWrite_wf h k b) _

theorem filter_wf {m : Memory} (h : memWf m = true) (p : Nat × Byte → Bool) : memWf (m.filter p) = true := by
  simp only [memWf, Bool.and_eq_true] at h ⊢
  exact ⟨(rising_iff _).2 (((rising_iff _).1 h.1).filter _),
    List.all_eq_true.2 fun e he => List.all_eq_true.1 h.2 e (List.mem_filter.1 he).1⟩

/-- Everything that writes memory goes through these: a write, a number written, and a clearing. -/
theorem writeN_wf {s : State} (h : memWf s.mem = true) (k : Nat) (bs : List Byte) : memWf (writeN s k bs).mem = true :=
  memWriteN_wf h k bs

theorem writeLe_wf {s : State} (h : memWf s.mem = true) (k n v : Nat) : memWf (writeLe s k n v).mem = true :=
  memWriteN_wf h k _

theorem clearN_wf {s : State} (h : memWf s.mem = true) (k n : Nat) : memWf (clearN s k n).mem = true :=
  filter_wf h _


/-- A clearing leaves the bytes outside it. -/
theorem memRead_clearN (s : State) (k n j : Nat) :
    memRead (clearN s k n).mem j = if k ≤ j ∧ j < k + n then 0 else memRead s.mem j := by
  simp only [memRead, clearN]
  have h : ∀ m : Memory, tget (m.filter fun e => decide (e.1 < k) || decide (k + n ≤ e.1)) j =
      if k ≤ j ∧ j < k + n then none else tget m j := by
    intro m
    induction m with
    | nil => simp [tget]
    | cons a m ih =>
      obtain ⟨a, y⟩ := a
      by_cases ha : a < k ∨ k + n ≤ a
      · rw [List.filter_cons_of_pos (by simpa using ha), tget, tget, ih]
        by_cases hj : a = j
        · subst hj
          rw [if_pos rfl, if_pos rfl, if_neg (by omega)]
        · simp [hj]
      · rw [List.filter_cons_of_neg (by simpa using ha), tget, ih]
        by_cases hj : a = j
        · subst hj
          rw [if_pos (by omega), if_pos (by omega)]
        · simp [hj]
  rw [h]
  split <;> simp

end Sys2Proof.Machine
end

