-- ==== Sys2Proof/Laws/PerInstr.lean ====
section
/-!
SUPPORT. Every instruction's word is read back by the decoder: one lemma per constructor.
-/

namespace Sys2Proof.Laws

set_option Elab.async false

/-! ## Fields of a word -/

theorem bits_pk_zero {n : Nat} (v : BitVec n) (r : Nat) : bits (pk v r) 0 n = v := by
  apply BitVec.eq_of_toNat_eq
  simp [bits, pk, Nat.add_mod, Nat.mod_eq_of_lt v.isLt]

theorem pk_shift {n : Nat} (v : BitVec n) (r lo : Nat) (h : n ≤ lo) : pk v r >>> lo = r >>> (lo - n) := by
  obtain ⟨k, rfl⟩ := Nat.exists_eq_add_of_le h
  rw [Nat.shiftRight_add, Nat.add_sub_cancel_left, Nat.shiftRight_eq_div_pow _ n, pk,
    Nat.add_mul_div_left _ _ (by positivity), Nat.div_eq_of_lt v.isLt, Nat.zero_add]

theorem bits_pk {n : Nat} (v : BitVec n) (r lo len : Nat) (h : n ≤ lo) : bits (pk v r) lo len = bits r (lo - n) len := by
  simp [bits, pk_shift v r lo h]

theorem pk_lt {n k : Nat} (v : BitVec n) {r : Nat} (h : r < 2 ^ k) : pk v r < 2 ^ (k + n) := by
  have hv := v.isLt
  rw [pk, Nat.pow_add, Nat.mul_comm (2 ^ k)]
  calc v.toNat + 2 ^ n * r < 2 ^ n + 2 ^ n * r := by omega
    _ = 2 ^ n * (r + 1) := by ring
    _ ≤ 2 ^ n * 2 ^ k := Nat.mul_le_mul_left _ h

/-- Two words with different subfields have different fields. -/
theorem bits_ne (w lo len j m : Nat) (x : BitVec len) (hl : j + m ≤ len) (h : bits w (lo + j) m ≠ x.extractLsb' j m) :
    bits w lo len ≠ x := by
  rintro rfl
  refine h (BitVec.eq_of_getLsbD_eq fun i hi => ?_)
  rw [BitVec.getLsbD_extractLsb']
  simp only [bits, BitVec.getLsbD_ofNat, Nat.testBit_shiftRight, hi, show j + i < len by omega, Nat.add_assoc, decide_true, Bool.true_and]

theorem bits_maj (m : BitVec 7) (r : Nat) : bits (pk 1#1 (pk m r)) 1 7 = m := by
  rw [bits_pk _ _ _ _ (by decide), bits_pk_zero]

/-! ## The forms of each MAJ -/

theorem decode_00 (w) (h : bits w 1 7 = 0x00#7) : decode32 w = decodeMaj00 w := by delta decode32; rw [h]; rfl
theorem decode_01 (w) (h : bits w 1 7 = 0x01#7) : decode32 w = decodeMaj01 w := by delta decode32; rw [h]; rfl
theorem decode_02 (w) (h : bits w 1 7 = 0x02#7) : decode32 w = decodeMaj02 w := by delta decode32; rw [h]; rfl
theorem decode_03 (w) (h : bits w 1 7 = 0x03#7) : decode32 w = decodeMaj03 w := by delta decode32; rw [h]; rfl
theorem decode_04 (w) (h : bits w 1 7 = 0x04#7) : decode32 w = decodeMaj04 w := by delta decode32; rw [h]; rfl
theorem decode_05 (w) (h : bits w 1 7 = 0x05#7) : decode32 w = decodeMaj05 w := by delta decode32; rw [h]; rfl
theorem decode_06 (w) (h : bits w 1 7 = 0x06#7) : decode32 w = decodeMaj06 w := by delta decode32; rw [h]; rfl
theorem decode_07 (w) (h : bits w 1 7 = 0x07#7) : decode32 w = decodeMaj07 w := by delta decode32; rw [h]; rfl
theorem decode_08 (w) (h : bits w 1 7 = 0x08#7) : decode32 w = decodeMaj08 w := by delta decode32; rw [h]; rfl
theorem decode_09 (w) (h : bits w 1 7 = 0x09#7) : decode32 w = decodeMaj09 w := by delta decode32; rw [h]; rfl
theorem decode_0A (w) (h : bits w 1 7 = 0x0A#7) : decode32 w = decodeMaj0A w := by delta decode32; rw [h]; rfl
theorem decode_0B (w) (h : bits w 1 7 = 0x0B#7) : decode32 w = decodeMaj0B w := by delta decode32; rw [h]; rfl
theorem decode_0C (w) (h : bits w 1 7 = 0x0C#7) : decode32 w = decodeMaj0C w := by delta decode32; rw [h]; rfl
theorem decode_0D (w) (h : bits w 1 7 = 0x0D#7) : decode32 w = decodeMaj0D w := by delta decode32; rw [h]; rfl
theorem decode_0E (w) (h : bits w 1 7 = 0x0E#7) : decode32 w = decodeMaj0E w := by delta decode32; rw [h]; rfl
theorem decode_0F (w) (h : bits w 1 7 = 0x0F#7) : decode32 w = decodeMaj0F w := by delta decode32; rw [h]; rfl
theorem decode_10 (w) (h : bits w 1 7 = 0x10#7) : decode32 w = decodeMaj10 w := by delta decode32; rw [h]; rfl
theorem decode_11 (w) (h : bits w 1 7 = 0x11#7) : decode32 w = decodeMaj11 w := by delta decode32; rw [h]; rfl
theorem decode_12 (w) (h : bits w 1 7 = 0x12#7) : decode32 w = decodeMaj12 w := by delta decode32; rw [h]; rfl
theorem decode_13 (w) (h : bits w 1 7 = 0x13#7) : decode32 w = decodeMaj13 w := by delta decode32; rw [h]; rfl
theorem decode_14 (w) (h : bits w 1 7 = 0x14#7) : decode32 w = decodeMaj14 w := by delta decode32; rw [h]; rfl
theorem decode_15 (w) (h : bits w 1 7 = 0x15#7) : decode32 w = decodeMaj15 w := by delta decode32; rw [h]; rfl
theorem decode_16 (w) (h : bits w 1 7 = 0x16#7) : decode32 w = decodeMaj16 w := by delta decode32; rw [h]; rfl
theorem decode_17 (w) (h : bits w 1 7 = 0x17#7) : decode32 w = decodeMaj17 w := by delta decode32; rw [h]; rfl
theorem decode_18 (w) (h : bits w 1 7 = 0x18#7) : decode32 w = decodeMaj18 w := by delta decode32; rw [h]; rfl
theorem decode_19 (w) (h : bits w 1 7 = 0x19#7) : decode32 w = decodeMaj19 w := by delta decode32; rw [h]; rfl
theorem decode_1A (w) (h : bits w 1 7 = 0x1A#7) : decode32 w = decodeMaj1A w := by delta decode32; rw [h]; rfl
theorem decode_1B (w) (h : bits w 1 7 = 0x1B#7) : decode32 w = decodeMaj1B w := by delta decode32; rw [h]; rfl
theorem decode_1C (w) (h : bits w 1 7 = 0x1C#7) : decode32 w = decodeMaj1C w := by delta decode32; rw [h]; rfl
theorem decode_1D (w) (h : bits w 1 7 = 0x1D#7) : decode32 w = decodeMaj1D w := by delta decode32; rw [h]; rfl
theorem decode_1E (w) (h : bits w 1 7 = 0x1E#7) : decode32 w = decodeMaj1E w := by delta decode32; rw [h]; rfl
theorem decode_1F (w) (h : bits w 1 7 = 0x1F#7) : decode32 w = decodeMaj1F w := by delta decode32; rw [h]; rfl
theorem decode_20 (w) (h : bits w 1 7 = 0x20#7) : decode32 w = decodeMaj20 w := by delta decode32; rw [h]; rfl
theorem decode_21 (w) (h : bits w 1 7 = 0x21#7) : decode32 w = decodeMaj21 w := by delta decode32; rw [h]; rfl
theorem decode_22 (w) (h : bits w 1 7 = 0x22#7) : decode32 w = decodeMaj22 w := by delta decode32; rw [h]; rfl
theorem decode_23 (w) (h : bits w 1 7 = 0x23#7) : decode32 w = decodeMaj23 w := by delta decode32; rw [h]; rfl
theorem decode_24 (w) (h : bits w 1 7 = 0x24#7) : decode32 w = decodeMaj24 w := by delta decode32; rw [h]; rfl
theorem decode_25 (w) (h : bits w 1 7 = 0x25#7) : decode32 w = decodeMaj25 w := by delta decode32; rw [h]; rfl
theorem decode_26 (w) (h : bits w 1 7 = 0x26#7) : decode32 w = decodeMaj26 w := by delta decode32; rw [h]; rfl
theorem decode_27 (w) (h : bits w 1 7 = 0x27#7) : decode32 w = decodeMaj27 w := by delta decode32; rw [h]; rfl
theorem decode_28 (w) (h : bits w 1 7 = 0x28#7) : decode32 w = decodeMaj28 w := by delta decode32; rw [h]; rfl
theorem decode_29 (w) (h : bits w 1 7 = 0x29#7) : decode32 w = decodeMaj29 w := by delta decode32; rw [h]; rfl
theorem decode_2A (w) (h : bits w 1 7 = 0x2A#7) : decode32 w = decodeMaj2A w := by delta decode32; rw [h]; rfl
theorem decode_2B (w) (h : bits w 1 7 = 0x2B#7) : decode32 w = decodeMaj2B w := by delta decode32; rw [h]; rfl
theorem decode_2C (w) (h : bits w 1 7 = 0x2C#7) : decode32 w = decodeMaj2C w := by delta decode32; rw [h]; rfl
theorem decode_2D (w) (h : bits w 1 7 = 0x2D#7) : decode32 w = decodeMaj2D w := by delta decode32; rw [h]; rfl
theorem decode_2E (w) (h : bits w 1 7 = 0x2E#7) : decode32 w = decodeMaj2E w := by delta decode32; rw [h]; rfl
theorem decode_2F (w) (h : bits w 1 7 = 0x2F#7) : decode32 w = decodeMaj2F w := by delta decode32; rw [h]; rfl
theorem decode_30 (w) (h : bits w 1 7 = 0x30#7) : decode32 w = decodeMaj30 w := by delta decode32; rw [h]; rfl
theorem decode_31 (w) (h : bits w 1 7 = 0x31#7) : decode32 w = decodeMaj31 w := by delta decode32; rw [h]; rfl
theorem decode_32 (w) (h : bits w 1 7 = 0x32#7) : decode32 w = decodeMaj32 w := by delta decode32; rw [h]; rfl
theorem decode_33 (w) (h : bits w 1 7 = 0x33#7) : decode32 w = decodeMaj33 w := by delta decode32; rw [h]; rfl
theorem decode_34 (w) (h : bits w 1 7 = 0x34#7) : decode32 w = decodeMaj34 w := by delta decode32; rw [h]; rfl
theorem decode_35 (w) (h : bits w 1 7 = 0x35#7) : decode32 w = decodeMaj35 w := by delta decode32; rw [h]; rfl
theorem decode_36 (w) (h : bits w 1 7 = 0x36#7) : decode32 w = decodeMaj36 w := by delta decode32; rw [h]; rfl
theorem decode_37 (w) (h : bits w 1 7 = 0x37#7) : decode32 w = decodeMaj37 w := by delta decode32; rw [h]; rfl
theorem decode_38 (w) (h : bits w 1 7 = 0x38#7) : decode32 w = decodeMaj38 w := by delta decode32; rw [h]; rfl
theorem decode_39 (w) (h : bits w 1 7 = 0x39#7) : decode32 w = decodeMaj39 w := by delta decode32; rw [h]; rfl
theorem decode_3A (w) (h : bits w 1 7 = 0x3A#7) : decode32 w = decodeMaj3A w := by delta decode32; rw [h]; rfl
theorem decode_3B (w) (h : bits w 1 7 = 0x3B#7) : decode32 w = decodeMaj3B w := by delta decode32; rw [h]; rfl
theorem decode_3C (w) (h : bits w 1 7 = 0x3C#7) : decode32 w = decodeMaj3C w := by delta decode32; rw [h]; rfl
theorem decode_3D (w) (h : bits w 1 7 = 0x3D#7) : decode32 w = decodeMaj3D w := by delta decode32; rw [h]; rfl
theorem decode_3E (w) (h : bits w 1 7 = 0x3E#7) : decode32 w = decodeMaj3E w := by delta decode32; rw [h]; rfl
theorem decode_3F (w) (h : bits w 1 7 = 0x3F#7) : decode32 w = decodeMaj3F w := by delta decode32; rw [h]; rfl
theorem decode_40 (w) (h : bits w 1 7 = 0x40#7) : decode32 w = decodeMaj40 w := by delta decode32; rw [h]; rfl
theorem decode_41 (w) (h : bits w 1 7 = 0x41#7) : decode32 w = decodeMaj41 w := by delta decode32; rw [h]; rfl
theorem decode_42 (w) (h : bits w 1 7 = 0x42#7) : decode32 w = decodeMaj42 w := by delta decode32; rw [h]; rfl
theorem decode_43 (w) (h : bits w 1 7 = 0x43#7) : decode32 w = decodeMaj43 w := by delta decode32; rw [h]; rfl
theorem decode_44 (w) (h : bits w 1 7 = 0x44#7) : decode32 w = decodeMaj44 w := by delta decode32; rw [h]; rfl
theorem decode_45 (w) (h : bits w 1 7 = 0x45#7) : decode32 w = decodeMaj45 w := by delta decode32; rw [h]; rfl
theorem decode_46 (w) (h : bits w 1 7 = 0x46#7) : decode32 w = decodeMaj46 w := by delta decode32; rw [h]; rfl
theorem decode_47 (w) (h : bits w 1 7 = 0x47#7) : decode32 w = decodeMaj47 w := by delta decode32; rw [h]; rfl
theorem decode_48 (w) (h : bits w 1 7 = 0x48#7) : decode32 w = decodeMaj48 w := by delta decode32; rw [h]; rfl
theorem decode_49 (w) (h : bits w 1 7 = 0x49#7) : decode32 w = decodeMaj49 w := by delta decode32; rw [h]; rfl
theorem decode_4A (w) (h : bits w 1 7 = 0x4A#7) : decode32 w = decodeMaj4A w := by delta decode32; rw [h]; rfl
theorem decode_4B (w) (h : bits w 1 7 = 0x4B#7) : decode32 w = decodeMaj4B w := by delta decode32; rw [h]; rfl
theorem decode_4C (w) (h : bits w 1 7 = 0x4C#7) : decode32 w = decodeMaj4C w := by delta decode32; rw [h]; rfl
theorem decode_4D (w) (h : bits w 1 7 = 0x4D#7) : decode32 w = decodeMaj4D w := by delta decode32; rw [h]; rfl
theorem decode_4E (w) (h : bits w 1 7 = 0x4E#7) : decode32 w = decodeMaj4E w := by delta decode32; rw [h]; rfl
theorem decode_4F (w) (h : bits w 1 7 = 0x4F#7) : decode32 w = decodeMaj4F w := by delta decode32; rw [h]; rfl
theorem decode_50 (w) (h : bits w 1 7 = 0x50#7) : decode32 w = decodeMaj50 w := by delta decode32; rw [h]; rfl
theorem decode_51 (w) (h : bits w 1 7 = 0x51#7) : decode32 w = decodeMaj51 w := by delta decode32; rw [h]; rfl
theorem decode_52 (w) (h : bits w 1 7 = 0x52#7) : decode32 w = decodeMaj52 w := by delta decode32; rw [h]; rfl
theorem decode_53 (w) (h : bits w 1 7 = 0x53#7) : decode32 w = decodeMaj53 w := by delta decode32; rw [h]; rfl
theorem decode_54 (w) (h : bits w 1 7 = 0x54#7) : decode32 w = decodeMaj54 w := by delta decode32; rw [h]; rfl
theorem decode_55 (w) (h : bits w 1 7 = 0x55#7) : decode32 w = decodeMaj55 w := by delta decode32; rw [h]; rfl
theorem decode_56 (w) (h : bits w 1 7 = 0x56#7) : decode32 w = decodeMaj56 w := by delta decode32; rw [h]; rfl
theorem decode_57 (w) (h : bits w 1 7 = 0x57#7) : decode32 w = decodeMaj57 w := by delta decode32; rw [h]; rfl
theorem decode_58 (w) (h : bits w 1 7 = 0x58#7) : decode32 w = decodeMaj58 w := by delta decode32; rw [h]; rfl
theorem decode_59 (w) (h : bits w 1 7 = 0x59#7) : decode32 w = decodeMaj59 w := by delta decode32; rw [h]; rfl
theorem decode_5A (w) (h : bits w 1 7 = 0x5A#7) : decode32 w = decodeMaj5A w := by delta decode32; rw [h]; rfl
theorem decode_5B (w) (h : bits w 1 7 = 0x5B#7) : decode32 w = decodeMaj5B w := by delta decode32; rw [h]; rfl
theorem decode_5C (w) (h : bits w 1 7 = 0x5C#7) : decode32 w = decodeMaj5C w := by delta decode32; rw [h]; rfl
theorem decode_5D (w) (h : bits w 1 7 = 0x5D#7) : decode32 w = decodeMaj5D w := by delta decode32; rw [h]; rfl
theorem decode_5E (w) (h : bits w 1 7 = 0x5E#7) : decode32 w = decodeMaj5E w := by delta decode32; rw [h]; rfl
theorem decode_5F (w) (h : bits w 1 7 = 0x5F#7) : decode32 w = decodeMaj5F w := by delta decode32; rw [h]; rfl

/-! ## The statement and its cases -/

namespace RoundTrip

/-- The word of i, if it has one, is a unit of two bytes that the compact decoder reads as i, or a word of four that the other
decoder reads as i; bit 0 tells them apart (R305). -/
def Statement (i : Instr) : Prop :=
  ∀ n w, encodeWord i = some (n, w) →
    (n = 2 ∧ w < 2 ^ 16 ∧ bits w 0 1 = 0#1 ∧ decode16 w = .ok i) ∨ (n = 4 ∧ w < 2 ^ 32 ∧ bits w 0 1 = 1#1 ∧ decode32 w = .ok i)

theorem addCompact s d : Statement (.addCompact s d) := by
  rintro _ _ ⟨⟩
  exact .inl ⟨rfl, pk_lt _ <| pk_lt _ <| pk_lt _ <| pk_lt _ <| pk_lt _ <| Nat.one_pos, bits_pk_zero .., by simp [decode16, bits_pk, bits_pk_zero]⟩

theorem addCompactImm i d : Statement (.addCompactImm i d) := by
  rintro _ _ ⟨⟩
  exact .inl ⟨rfl, pk_lt _ <| pk_lt _ <| pk_lt _ <| pk_lt _ <| pk_lt _ <| Nat.one_pos, bits_pk_zero .., by simp [decode16, bits_pk, bits_pk_zero]⟩

theorem subCompact s d : Statement (.subCompact s d) := by
  rintro _ _ ⟨⟩
  exact .inl ⟨rfl, pk_lt _ <| pk_lt _ <| pk_lt _ <| pk_lt _ <| pk_lt _ <| Nat.one_pos, bits_pk_zero .., by simp [decode16, bits_pk, bits_pk_zero]⟩

theorem subCompactImm i d : Statement (.subCompactImm i d) := by
  rintro _ _ ⟨⟩
  exact .inl ⟨rfl, pk_lt _ <| pk_lt _ <| pk_lt _ <| pk_lt _ <| pk_lt _ <| Nat.one_pos, bits_pk_zero .., by simp [decode16, bits_pk, bits_pk_zero]⟩

theorem andCompact s d : Statement (.andCompact s d) := by
  rintro _ _ ⟨⟩
  exact .inl ⟨rfl, pk_lt _ <| pk_lt _ <| pk_lt _ <| pk_lt _ <| pk_lt _ <| Nat.one_pos, bits_pk_zero .., by simp [decode16, bits_pk, bits_pk_zero]⟩

theorem andCompactImm i d : Statement (.andCompactImm i d) := by
  rintro _ _ ⟨⟩
  exact .inl ⟨rfl, pk_lt _ <| pk_lt _ <| pk_lt _ <| pk_lt _ <| pk_lt _ <| Nat.one_pos, bits_pk_zero .., by simp [decode16, bits_pk, bits_pk_zero]⟩

theorem orCompact s d : Statement (.orCompact s d) := by
  rintro _ _ ⟨⟩
  exact .inl ⟨rfl, pk_lt _ <| pk_lt _ <| pk_lt _ <| pk_lt _ <| pk_lt _ <| Nat.one_pos, bits_pk_zero .., by simp [decode16, bits_pk, bits_pk_zero]⟩

theorem orCompactImm i d : Statement (.orCompactImm i d) := by
  rintro _ _ ⟨⟩
  exact .inl ⟨rfl, pk_lt _ <| pk_lt _ <| pk_lt _ <| pk_lt _ <| pk_lt _ <| Nat.one_pos, bits_pk_zero .., by simp [decode16, bits_pk, bits_pk_zero]⟩

theorem xorCompact s d : Statement (.xorCompact s d) := by
  rintro _ _ ⟨⟩
  exact .inl ⟨rfl, pk_lt _ <| pk_lt _ <| pk_lt _ <| pk_lt _ <| pk_lt _ <| Nat.one_pos, bits_pk_zero .., by simp [decode16, bits_pk, bits_pk_zero]⟩

theorem xorCompactImm i d : Statement (.xorCompactImm i d) := by
  rintro _ _ ⟨⟩
  exact .inl ⟨rfl, pk_lt _ <| pk_lt _ <| pk_lt _ <| pk_lt _ <| pk_lt _ <| Nat.one_pos, bits_pk_zero .., by simp [decode16, bits_pk, bits_pk_zero]⟩

theorem shlCompact s d : Statement (.shlCompact s d) := by
  rintro _ _ ⟨⟩
  exact .inl ⟨rfl, pk_lt _ <| pk_lt _ <| pk_lt _ <| pk_lt _ <| pk_lt _ <| Nat.one_pos, bits_pk_zero .., by simp [decode16, bits_pk, bits_pk_zero]⟩

theorem shlCompactImm i d : Statement (.shlCompactImm i d) := by
  rintro _ _ ⟨⟩
  exact .inl ⟨rfl, pk_lt _ <| pk_lt _ <| pk_lt _ <| pk_lt _ <| pk_lt _ <| Nat.one_pos, bits_pk_zero .., by simp [decode16, bits_pk, bits_pk_zero]⟩

theorem shrCompact s d : Statement (.shrCompact s d) := by
  rintro _ _ ⟨⟩
  exact .inl ⟨rfl, pk_lt _ <| pk_lt _ <| pk_lt _ <| pk_lt _ <| pk_lt _ <| Nat.one_pos, bits_pk_zero .., by simp [decode16, bits_pk, bits_pk_zero]⟩

theorem shrCompactImm i d : Statement (.shrCompactImm i d) := by
  rintro _ _ ⟨⟩
  exact .inl ⟨rfl, pk_lt _ <| pk_lt _ <| pk_lt _ <| pk_lt _ <| pk_lt _ <| Nat.one_pos, bits_pk_zero .., by simp [decode16, bits_pk, bits_pk_zero]⟩

theorem movCompact s d : Statement (.movCompact s d) := by
  rintro _ _ ⟨⟩
  exact .inl ⟨rfl, pk_lt _ <| pk_lt _ <| pk_lt _ <| pk_lt _ <| pk_lt _ <| Nat.one_pos, bits_pk_zero .., by simp [decode16, bits_pk, bits_pk_zero]⟩

theorem movCompactImm i d : Statement (.movCompactImm i d) := by
  rintro _ _ ⟨⟩
  exact .inl ⟨rfl, pk_lt _ <| pk_lt _ <| pk_lt _ <| pk_lt _ <| pk_lt _ <| Nat.one_pos, bits_pk_zero .., by simp [decode16, bits_pk, bits_pk_zero]⟩

theorem faddCompact s d : Statement (.faddCompact s d) := by
  rintro _ _ ⟨⟩
  exact .inl ⟨rfl, pk_lt _ <| pk_lt _ <| pk_lt _ <| pk_lt _ <| pk_lt _ <| Nat.one_pos, bits_pk_zero .., by simp [decode16, bits_pk, bits_pk_zero]⟩

theorem fmulCompact s d : Statement (.fmulCompact s d) := by
  rintro _ _ ⟨⟩
  exact .inl ⟨rfl, pk_lt _ <| pk_lt _ <| pk_lt _ <| pk_lt _ <| pk_lt _ <| Nat.one_pos, bits_pk_zero .., by simp [decode16, bits_pk, bits_pk_zero]⟩

theorem fsubCompact s d : Statement (.fsubCompact s d) := by
  rintro _ _ ⟨⟩
  exact .inl ⟨rfl, pk_lt _ <| pk_lt _ <| pk_lt _ <| pk_lt _ <| pk_lt _ <| Nat.one_pos, bits_pk_zero .., by simp [decode16, bits_pk, bits_pk_zero]⟩

theorem fmaxCompact s d : Statement (.fmaxCompact s d) := by
  rintro _ _ ⟨⟩
  exact .inl ⟨rfl, pk_lt _ <| pk_lt _ <| pk_lt _ <| pk_lt _ <| pk_lt _ <| Nat.one_pos, bits_pk_zero .., by simp [decode16, bits_pk, bits_pk_zero]⟩

theorem fminCompact s d : Statement (.fminCompact s d) := by
  rintro _ _ ⟨⟩
  exact .inl ⟨rfl, pk_lt _ <| pk_lt _ <| pk_lt _ <| pk_lt _ <| pk_lt _ <| Nat.one_pos, bits_pk_zero .., by simp [decode16, bits_pk, bits_pk_zero]⟩

theorem mulCompact s d : Statement (.mulCompact s d) := by
  rintro _ _ ⟨⟩
  exact .inl ⟨rfl, pk_lt _ <| pk_lt _ <| pk_lt _ <| pk_lt _ <| pk_lt _ <| Nat.one_pos, bits_pk_zero .., by simp [decode16, bits_pk, bits_pk_zero]⟩

theorem minI32Compact s d : Statement (.minI32Compact s d) := by
  rintro _ _ ⟨⟩
  exact .inl ⟨rfl, pk_lt _ <| pk_lt _ <| pk_lt _ <| pk_lt _ <| pk_lt _ <| Nat.one_pos, bits_pk_zero .., by simp [decode16, bits_pk, bits_pk_zero]⟩

theorem maxI32Compact s d : Statement (.maxI32Compact s d) := by
  rintro _ _ ⟨⟩
  exact .inl ⟨rfl, pk_lt _ <| pk_lt _ <| pk_lt _ <| pk_lt _ <| pk_lt _ <| Nat.one_pos, bits_pk_zero .., by simp [decode16, bits_pk, bits_pk_zero]⟩

theorem sadd b a d : Statement (.sadd b a d) := by
  rintro _ _ ⟨⟩
  refine .inr ⟨rfl, pk_lt _ <| pk_lt _ <| pk_lt _ <| pk_lt _ <| pk_lt _ <| pk_lt _ <| Nat.one_pos, bits_pk_zero .., ?_⟩
  rw [decode_00 _ (bits_maj ..)]
  simp [decodeMaj00, bits_pk, bits_pk_zero]

theorem ssub b a d : Statement (.ssub b a d) := by
  rintro _ _ ⟨⟩
  refine .inr ⟨rfl, pk_lt _ <| pk_lt _ <| pk_lt _ <| pk_lt _ <| pk_lt _ <| pk_lt _ <| Nat.one_pos, bits_pk_zero .., ?_⟩
  rw [decode_01 _ (bits_maj ..)]
  simp [decodeMaj01, bits_pk, bits_pk_zero]

theorem smul f b a d : Statement (.smul f b a d) := by
  rintro _ _ ⟨⟩
  refine .inr ⟨rfl, pk_lt _ <| pk_lt _ <| pk_lt _ <| pk_lt _ <| pk_lt _ <| pk_lt _ <| Nat.one_pos, bits_pk_zero .., ?_⟩
  rw [decode_02 _ (bits_maj ..)]
  simp [decodeMaj02, bits_pk, bits_pk_zero]

theorem sand b a d : Statement (.sand b a d) := by
  rintro _ _ ⟨⟩
  refine .inr ⟨rfl, pk_lt _ <| pk_lt _ <| pk_lt _ <| pk_lt _ <| pk_lt _ <| pk_lt _ <| Nat.one_pos, bits_pk_zero .., ?_⟩
  rw [decode_03 _ (bits_maj ..)]
  simp [decodeMaj03, bits_pk, bits_pk_zero]

theorem sor b a d : Statement (.sor b a d) := by
  rintro _ _ ⟨⟩
  refine .inr ⟨rfl, pk_lt _ <| pk_lt _ <| pk_lt _ <| pk_lt _ <| pk_lt _ <| pk_lt _ <| Nat.one_pos, bits_pk_zero .., ?_⟩
  rw [decode_03 _ (bits_maj ..)]
  simp [decodeMaj03, bits_pk, bits_pk_zero]

theorem sxor b a d : Statement (.sxor b a d) := by
  rintro _ _ ⟨⟩
  refine .inr ⟨rfl, pk_lt _ <| pk_lt _ <| pk_lt _ <| pk_lt _ <| pk_lt _ <| pk_lt _ <| Nat.one_pos, bits_pk_zero .., ?_⟩
  rw [decode_03 _ (bits_maj ..)]
  simp [decodeMaj03, bits_pk, bits_pk_zero]

theorem sandn b a d : Statement (.sandn b a d) := by
  rintro _ _ ⟨⟩
  refine .inr ⟨rfl, pk_lt _ <| pk_lt _ <| pk_lt _ <| pk_lt _ <| pk_lt _ <| pk_lt _ <| Nat.one_pos, bits_pk_zero .., ?_⟩
  rw [decode_03 _ (bits_maj ..)]
  simp [decodeMaj03, bits_pk, bits_pk_zero]

theorem sshl b a d : Statement (.sshl b a d) := by
  rintro _ _ ⟨⟩
  refine .inr ⟨rfl, pk_lt _ <| pk_lt _ <| pk_lt _ <| pk_lt _ <| pk_lt _ <| pk_lt _ <| Nat.one_pos, bits_pk_zero .., ?_⟩
  rw [decode_04 _ (bits_maj ..)]
  simp [decodeMaj04, bits_pk, bits_pk_zero]

theorem sshr b a d : Statement (.sshr b a d) := by
  rintro _ _ ⟨⟩
  refine .inr ⟨rfl, pk_lt _ <| pk_lt _ <| pk_lt _ <| pk_lt _ <| pk_lt _ <| pk_lt _ <| Nat.one_pos, bits_pk_zero .., ?_⟩
  rw [decode_04 _ (bits_maj ..)]
  simp [decodeMaj04, bits_pk, bits_pk_zero]

theorem ssra b a d : Statement (.ssra b a d) := by
  rintro _ _ ⟨⟩
  refine .inr ⟨rfl, pk_lt _ <| pk_lt _ <| pk_lt _ <| pk_lt _ <| pk_lt _ <| pk_lt _ <| Nat.one_pos, bits_pk_zero .., ?_⟩
  rw [decode_04 _ (bits_maj ..)]
  simp [decodeMaj04, bits_pk, bits_pk_zero]

theorem smin s b a d : Statement (.smin s b a d) := by
  rintro _ _ ⟨⟩
  refine .inr ⟨rfl, pk_lt _ <| pk_lt _ <| pk_lt _ <| pk_lt _ <| pk_lt _ <| pk_lt _ <| pk_lt _ <| pk_lt _ <| Nat.one_pos, bits_pk_zero .., ?_⟩
  rw [decode_05 _ (bits_maj ..)]
  simp [decodeMaj05, bits_pk, bits_pk_zero]

theorem smax s b a d : Statement (.smax s b a d) := by
  rintro _ _ ⟨⟩
  refine .inr ⟨rfl, pk_lt _ <| pk_lt _ <| pk_lt _ <| pk_lt _ <| pk_lt _ <| pk_lt _ <| pk_lt _ <| pk_lt _ <| Nat.one_pos, bits_pk_zero .., ?_⟩
  rw [decode_05 _ (bits_maj ..)]
  simp [decodeMaj05, bits_pk, bits_pk_zero]

theorem saddi i a d : Statement (.saddi i a d) := by
  rintro _ _ ⟨⟩
  refine .inr ⟨rfl, pk_lt _ <| pk_lt _ <| pk_lt _ <| pk_lt _ <| pk_lt _ <| Nat.one_pos, bits_pk_zero .., ?_⟩
  rw [decode_06 _ (bits_maj ..)]
  simp [decodeMaj06, bits_pk, bits_pk_zero]

theorem smovi i c d : Statement (.smovi i c d) := by
  rintro _ _ ⟨⟩
  refine .inr ⟨rfl, pk_lt _ <| pk_lt _ <| pk_lt _ <| pk_lt _ <| pk_lt _ <| Nat.one_pos, bits_pk_zero .., ?_⟩
  rw [decode_07 _ (bits_maj ..)]
  simp [decodeMaj07, bits_pk, bits_pk_zero]

theorem scmp f b a d : Statement (.scmp f b a d) := by
  rintro _ _ ⟨⟩
  refine .inr ⟨rfl, pk_lt _ <| pk_lt _ <| pk_lt _ <| pk_lt _ <| pk_lt _ <| pk_lt _ <| Nat.one_pos, bits_pk_zero .., ?_⟩
  rw [decode_08 _ (bits_maj ..)]
  simp [decodeMaj08, bits_pk, bits_pk_zero]

theorem sld i l r c a d : Statement (.sld i l r c a d) := by
  rintro _ _ ⟨⟩
  refine .inr ⟨rfl, pk_lt _ <| pk_lt _ <| pk_lt _ <| pk_lt _ <| pk_lt _ <| pk_lt _ <| pk_lt _ <| pk_lt _ <| Nat.one_pos, bits_pk_zero .., ?_⟩
  rw [decode_09 _ (bits_maj ..)]
  simp [decodeMaj09, bits_pk, bits_pk_zero]

theorem sst i l r c a d : Statement (.sst i l r c a d) := by
  rintro _ _ ⟨⟩
  refine .inr ⟨rfl, pk_lt _ <| pk_lt _ <| pk_lt _ <| pk_lt _ <| pk_lt _ <| pk_lt _ <| pk_lt _ <| pk_lt _ <| Nat.one_pos, bits_pk_zero .., ?_⟩
  rw [decode_0A _ (bits_maj ..)]
  simp [decodeMaj0A, bits_pk, bits_pk_zero]

theorem srd i d : Statement (.srd i d) := by
  rintro _ _ ⟨⟩
  refine .inr ⟨rfl, pk_lt _ <| pk_lt _ <| pk_lt _ <| pk_lt _ <| pk_lt _ <| Nat.one_pos, bits_pk_zero .., ?_⟩
  rw [decode_0B _ (bits_maj ..)]
  simp [decodeMaj0B, bits_pk, bits_pk_zero]

theorem swr i a : Statement (.swr i a) := by
  rintro _ _ ⟨⟩
  refine .inr ⟨rfl, pk_lt _ <| pk_lt _ <| pk_lt _ <| pk_lt _ <| pk_lt _ <| Nat.one_pos, bits_pk_zero .., ?_⟩
  rw [decode_0C _ (bits_maj ..)]
  simp [decodeMaj0C, bits_pk, bits_pk_zero]

theorem slane l a d : Statement (.slane l a d) := by
  rintro _ _ ⟨⟩
  refine .inr ⟨rfl, pk_lt _ <| pk_lt _ <| pk_lt _ <| pk_lt _ <| pk_lt _ <| pk_lt _ <| Nat.one_pos, bits_pk_zero .., ?_⟩
  rw [decode_0D _ (bits_maj ..)]
  simp [decodeMaj0D, bits_pk, bits_pk_zero]

theorem sbra i a z : Statement (.sbra i a z) := by
  rintro _ _ ⟨⟩
  refine .inr ⟨rfl, pk_lt _ <| pk_lt _ <| pk_lt _ <| pk_lt _ <| pk_lt _ <| pk_lt _ <| Nat.one_pos, bits_pk_zero .., ?_⟩
  rw [decode_0E _ (bits_maj ..)]
  simp [decodeMaj0E, bits_pk, bits_pk_zero]

theorem satom o l r c a d : Statement (.satom o l r c a d) := by
  rintro _ _ ⟨⟩
  refine .inr ⟨rfl, pk_lt _ <| pk_lt _ <| pk_lt _ <| pk_lt _ <| pk_lt _ <| pk_lt _ <| pk_lt _ <| pk_lt _ <| Nat.one_pos, bits_pk_zero .., ?_⟩
  rw [decode_0F _ (bits_maj ..)]
  simp [decodeMaj0F, bits_pk, bits_pk_zero]

theorem add n g b a d : Statement (.add n g b a d) := by
  rintro _ _ ⟨⟩
  refine .inr ⟨rfl, pk_lt _ <| pk_lt _ <| pk_lt _ <| pk_lt _ <| pk_lt _ <| pk_lt _ <| pk_lt _ <| pk_lt _ <| Nat.one_pos, bits_pk_zero .., ?_⟩
  rw [decode_10 _ (bits_maj ..)]
  simp [decodeMaj10, bits_pk, bits_pk_zero]

theorem sub n g b a d : Statement (.sub n g b a d) := by
  rintro _ _ ⟨⟩
  refine .inr ⟨rfl, pk_lt _ <| pk_lt _ <| pk_lt _ <| pk_lt _ <| pk_lt _ <| pk_lt _ <| pk_lt _ <| pk_lt _ <| Nat.one_pos, bits_pk_zero .., ?_⟩
  rw [decode_11 _ (bits_maj ..)]
  simp [decodeMaj11, bits_pk, bits_pk_zero]

theorem mul n g b a d : Statement (.mul n g b a d) := by
  rintro _ _ ⟨⟩
  refine .inr ⟨rfl, pk_lt _ <| pk_lt _ <| pk_lt _ <| pk_lt _ <| pk_lt _ <| pk_lt _ <| pk_lt _ <| pk_lt _ <| Nat.one_pos, bits_pk_zero .., ?_⟩
  rw [decode_12 _ (bits_maj ..)]
  simp [decodeMaj12, bits_pk, bits_pk_zero]

theorem mulhi s n g b a d : Statement (.mulhi s n g b a d) := by
  rintro _ _ ⟨⟩
  refine .inr ⟨rfl, pk_lt _ <| pk_lt _ <| pk_lt _ <| pk_lt _ <| pk_lt _ <| pk_lt _ <| pk_lt _ <| pk_lt _ <| pk_lt _ <| Nat.one_pos, bits_pk_zero .., ?_⟩
  rw [decode_13 _ (bits_maj ..)]
  simp [decodeMaj13, bits_pk, bits_pk_zero]

theorem mad n g b a d : Statement (.mad n g b a d) := by
  rintro _ _ ⟨⟩
  refine .inr ⟨rfl, pk_lt _ <| pk_lt _ <| pk_lt _ <| pk_lt _ <| pk_lt _ <| pk_lt _ <| pk_lt _ <| pk_lt _ <| Nat.one_pos, bits_pk_zero .., ?_⟩
  rw [decode_14 _ (bits_maj ..)]
  simp [decodeMaj14, bits_pk, bits_pk_zero]

theorem and n g b a d : Statement (.and n g b a d) := by
  rintro _ _ ⟨⟩
  refine .inr ⟨rfl, pk_lt _ <| pk_lt _ <| pk_lt _ <| pk_lt _ <| pk_lt _ <| pk_lt _ <| pk_lt _ <| pk_lt _ <| Nat.one_pos, bits_pk_zero .., ?_⟩
  rw [decode_15 _ (bits_maj ..)]
  simp [decodeMaj15, bits_pk, bits_pk_zero]

theorem or n g b a d : Statement (.or n g b a d) := by
  rintro _ _ ⟨⟩
  refine .inr ⟨rfl, pk_lt _ <| pk_lt _ <| pk_lt _ <| pk_lt _ <| pk_lt _ <| pk_lt _ <| pk_lt _ <| pk_lt _ <| Nat.one_pos, bits_pk_zero .., ?_⟩
  rw [decode_15 _ (bits_maj ..)]
  simp [decodeMaj15, bits_pk, bits_pk_zero]

theorem xor n g b a d : Statement (.xor n g b a d) := by
  rintro _ _ ⟨⟩
  refine .inr ⟨rfl, pk_lt _ <| pk_lt _ <| pk_lt _ <| pk_lt _ <| pk_lt _ <| pk_lt _ <| pk_lt _ <| pk_lt _ <| Nat.one_pos, bits_pk_zero .., ?_⟩
  rw [decode_15 _ (bits_maj ..)]
  simp [decodeMaj15, bits_pk, bits_pk_zero]

theorem andn n g b a d : Statement (.andn n g b a d) := by
  rintro _ _ ⟨⟩
  refine .inr ⟨rfl, pk_lt _ <| pk_lt _ <| pk_lt _ <| pk_lt _ <| pk_lt _ <| pk_lt _ <| pk_lt _ <| pk_lt _ <| Nat.one_pos, bits_pk_zero .., ?_⟩
  rw [decode_15 _ (bits_maj ..)]
  simp [decodeMaj15, bits_pk, bits_pk_zero]

theorem shl n g b a d : Statement (.shl n g b a d) := by
  rintro _ _ ⟨⟩
  refine .inr ⟨rfl, pk_lt _ <| pk_lt _ <| pk_lt _ <| pk_lt _ <| pk_lt _ <| pk_lt _ <| pk_lt _ <| pk_lt _ <| Nat.one_pos, bits_pk_zero .., ?_⟩
  rw [decode_16 _ (bits_maj ..)]
  simp [decodeMaj16, bits_pk, bits_pk_zero]

theorem shr n g b a d : Statement (.shr n g b a d) := by
  rintro _ _ ⟨⟩
  refine .inr ⟨rfl, pk_lt _ <| pk_lt _ <| pk_lt _ <| pk_lt _ <| pk_lt _ <| pk_lt _ <| pk_lt _ <| pk_lt _ <| Nat.one_pos, bits_pk_zero .., ?_⟩
  rw [decode_16 _ (bits_maj ..)]
  simp [decodeMaj16, bits_pk, bits_pk_zero]

theorem sra n g b a d : Statement (.sra n g b a d) := by
  rintro _ _ ⟨⟩
  refine .inr ⟨rfl, pk_lt _ <| pk_lt _ <| pk_lt _ <| pk_lt _ <| pk_lt _ <| pk_lt _ <| pk_lt _ <| pk_lt _ <| Nat.one_pos, bits_pk_zero .., ?_⟩
  rw [decode_16 _ (bits_maj ..)]
  simp [decodeMaj16, bits_pk, bits_pk_zero]

theorem min s n g b a d : Statement (.min s n g b a d) := by
  rintro _ _ ⟨⟩
  refine .inr ⟨rfl, pk_lt _ <| pk_lt _ <| pk_lt _ <| pk_lt _ <| pk_lt _ <| pk_lt _ <| pk_lt _ <| pk_lt _ <| pk_lt _ <| Nat.one_pos, bits_pk_zero .., ?_⟩
  rw [decode_17 _ (bits_maj ..)]
  simp [decodeMaj17, bits_pk, bits_pk_zero]

theorem max s n g b a d : Statement (.max s n g b a d) := by
  rintro _ _ ⟨⟩
  refine .inr ⟨rfl, pk_lt _ <| pk_lt _ <| pk_lt _ <| pk_lt _ <| pk_lt _ <| pk_lt _ <| pk_lt _ <| pk_lt _ <| pk_lt _ <| Nat.one_pos, bits_pk_zero .., ?_⟩
  rw [decode_17 _ (bits_maj ..)]
  simp [decodeMaj17, bits_pk, bits_pk_zero]

theorem abs n g a d : Statement (.abs n g a d) := by
  rintro _ _ ⟨⟩
  refine .inr ⟨rfl, pk_lt _ <| pk_lt _ <| pk_lt _ <| pk_lt _ <| pk_lt _ <| pk_lt _ <| pk_lt _ <| pk_lt _ <| Nat.one_pos, bits_pk_zero .., ?_⟩
  rw [decode_18 _ (bits_maj ..)]
  simp [decodeMaj18, bits_pk, bits_pk_zero]

theorem neg n g a d : Statement (.neg n g a d) := by
  rintro _ _ ⟨⟩
  refine .inr ⟨rfl, pk_lt _ <| pk_lt _ <| pk_lt _ <| pk_lt _ <| pk_lt _ <| pk_lt _ <| pk_lt _ <| pk_lt _ <| Nat.one_pos, bits_pk_zero .., ?_⟩
  rw [decode_18 _ (bits_maj ..)]
  simp [decodeMaj18, bits_pk, bits_pk_zero]

theorem clz n g a d : Statement (.clz n g a d) := by
  rintro _ _ ⟨⟩
  refine .inr ⟨rfl, pk_lt _ <| pk_lt _ <| pk_lt _ <| pk_lt _ <| pk_lt _ <| pk_lt _ <| pk_lt _ <| pk_lt _ <| Nat.one_pos, bits_pk_zero .., ?_⟩
  rw [decode_19 _ (bits_maj ..)]
  simp [decodeMaj19, bits_pk, bits_pk_zero]

theorem popc n g a d : Statement (.popc n g a d) := by
  rintro _ _ ⟨⟩
  refine .inr ⟨rfl, pk_lt _ <| pk_lt _ <| pk_lt _ <| pk_lt _ <| pk_lt _ <| pk_lt _ <| pk_lt _ <| pk_lt _ <| Nat.one_pos, bits_pk_zero .., ?_⟩
  rw [decode_19 _ (bits_maj ..)]
  simp [decodeMaj19, bits_pk, bits_pk_zero]

theorem brev n g a d : Statement (.brev n g a d) := by
  rintro _ _ ⟨⟩
  refine .inr ⟨rfl, pk_lt _ <| pk_lt _ <| pk_lt _ <| pk_lt _ <| pk_lt _ <| pk_lt _ <| pk_lt _ <| pk_lt _ <| Nat.one_pos, bits_pk_zero .., ?_⟩
  rw [decode_19 _ (bits_maj ..)]
  simp [decodeMaj19, bits_pk, bits_pk_zero]

theorem addi g i a d : Statement (.addi g i a d) := by
  rintro _ _ ⟨⟩
  refine .inr ⟨rfl, pk_lt _ <| pk_lt _ <| pk_lt _ <| pk_lt _ <| pk_lt _ <| pk_lt _ <| Nat.one_pos, bits_pk_zero .., ?_⟩
  rw [decode_1A _ (bits_maj ..)]
  simp [decodeMaj1A, bits_pk, bits_pk_zero]

theorem shli g k a d : Statement (.shli g k a d) := by
  rintro _ _ ⟨⟩
  refine .inr ⟨rfl, pk_lt _ <| pk_lt _ <| pk_lt _ <| pk_lt _ <| pk_lt _ <| pk_lt _ <| pk_lt _ <| Nat.one_pos, bits_pk_zero .., ?_⟩
  rw [decode_1B _ (bits_maj ..)]
  simp [decodeMaj1B, bits_pk, bits_pk_zero]

theorem shri g k a d : Statement (.shri g k a d) := by
  rintro _ _ ⟨⟩
  refine .inr ⟨rfl, pk_lt _ <| pk_lt _ <| pk_lt _ <| pk_lt _ <| pk_lt _ <| pk_lt _ <| pk_lt _ <| Nat.one_pos, bits_pk_zero .., ?_⟩
  rw [decode_1C _ (bits_maj ..)]
  simp [decodeMaj1C, bits_pk, bits_pk_zero]

theorem movs h b d : Statement (.movs h b d) := by
  rintro _ _ ⟨⟩
  refine .inr ⟨rfl, pk_lt _ <| pk_lt _ <| pk_lt _ <| pk_lt _ <| pk_lt _ <| pk_lt _ <| pk_lt _ <| Nat.one_pos, bits_pk_zero .., ?_⟩
  rw [decode_1D _ (bits_maj ..)]
  simp [decodeMaj1D, bits_pk, bits_pk_zero]

theorem mov n g a d : Statement (.mov n g a d) := by
  rintro _ _ ⟨⟩
  refine .inr ⟨rfl, pk_lt _ <| pk_lt _ <| pk_lt _ <| pk_lt _ <| pk_lt _ <| pk_lt _ <| pk_lt _ <| pk_lt _ <| Nat.one_pos, bits_pk_zero .., ?_⟩
  rw [decode_1E _ (bits_maj ..)]
  simp [decodeMaj1E, bits_pk, bits_pk_zero]

theorem sel n g b a d : Statement (.sel n g b a d) := by
  rintro _ _ ⟨⟩
  refine .inr ⟨rfl, pk_lt _ <| pk_lt _ <| pk_lt _ <| pk_lt _ <| pk_lt _ <| pk_lt _ <| pk_lt _ <| pk_lt _ <| Nat.one_pos, bits_pk_zero .., ?_⟩
  rw [decode_1F _ (bits_maj ..)]
  simp [decodeMaj1F, bits_pk, bits_pk_zero]

theorem cmp f n g b a p : Statement (.cmp f n g b a p) := by
  rintro _ _ ⟨⟩
  refine .inr ⟨rfl, pk_lt _ <| pk_lt _ <| pk_lt _ <| pk_lt _ <| pk_lt _ <| pk_lt _ <| pk_lt _ <| pk_lt _ <| pk_lt _ <| Nat.one_pos, bits_pk_zero .., ?_⟩
  rw [decode_20 _ (bits_maj ..)]
  simp [decodeMaj20, bits_pk, bits_pk_zero]

theorem cmpn f n g b a p : Statement (.cmpn f n g b a p) := by
  rintro _ _ ⟨⟩
  refine .inr ⟨rfl, pk_lt _ <| pk_lt _ <| pk_lt _ <| pk_lt _ <| pk_lt _ <| pk_lt _ <| pk_lt _ <| pk_lt _ <| pk_lt _ <| Nat.one_pos, bits_pk_zero .., ?_⟩
  rw [decode_21 _ (bits_maj ..)]
  simp [decodeMaj21, bits_pk, bits_pk_zero]

theorem cvt f n g a d : Statement (.cvt f n g a d) := by
  rintro _ _ ⟨⟩
  refine .inr ⟨rfl, pk_lt _ <| pk_lt _ <| pk_lt _ <| pk_lt _ <| pk_lt _ <| pk_lt _ <| pk_lt _ <| pk_lt _ <| Nat.one_pos, bits_pk_zero .., ?_⟩
  rw [decode_22 _ (bits_maj ..)]
  simp [decodeMaj22, bits_pk, bits_pk_zero]

theorem plane f n g k a d : Statement (.plane f n g k a d) := by
  rintro _ _ ⟨⟩
  refine .inr ⟨rfl, pk_lt _ <| pk_lt _ <| pk_lt _ <| pk_lt _ <| pk_lt _ <| pk_lt _ <| pk_lt _ <| pk_lt _ <| pk_lt _ <| pk_lt _ <| Nat.one_pos, bits_pk_zero .., ?_⟩
  rw [decode_23 _ (bits_maj ..)]
  simp [decodeMaj23, bits_pk, bits_pk_zero]

theorem lrd g i d : Statement (.lrd g i d) := by
  rintro _ _ ⟨⟩
  refine .inr ⟨rfl, pk_lt _ <| pk_lt _ <| pk_lt _ <| pk_lt _ <| pk_lt _ <| pk_lt _ <| Nat.one_pos, bits_pk_zero .., ?_⟩
  rw [decode_24 _ (bits_maj ..)]
  simp [decodeMaj24, bits_pk, bits_pk_zero]

theorem pand n g b a d : Statement (.pand n g b a d) := by
  rintro _ _ ⟨⟩
  refine .inr ⟨rfl, pk_lt _ <| pk_lt _ <| pk_lt _ <| pk_lt _ <| pk_lt _ <| pk_lt _ <| pk_lt _ <| pk_lt _ <| pk_lt _ <| pk_lt _ <| pk_lt _ <| Nat.one_pos, bits_pk_zero .., ?_⟩
  rw [decode_25 _ (bits_maj ..)]
  simp [decodeMaj25, bits_pk, bits_pk_zero]

theorem por n g b a d : Statement (.por n g b a d) := by
  rintro _ _ ⟨⟩
  refine .inr ⟨rfl, pk_lt _ <| pk_lt _ <| pk_lt _ <| pk_lt _ <| pk_lt _ <| pk_lt _ <| pk_lt _ <| pk_lt _ <| pk_lt _ <| pk_lt _ <| pk_lt _ <| Nat.one_pos, bits_pk_zero .., ?_⟩
  rw [decode_25 _ (bits_maj ..)]
  simp [decodeMaj25, bits_pk, bits_pk_zero]

theorem pnot n g a d : Statement (.pnot n g a d) := by
  rintro _ _ ⟨⟩
  refine .inr ⟨rfl, pk_lt _ <| pk_lt _ <| pk_lt _ <| pk_lt _ <| pk_lt _ <| pk_lt _ <| pk_lt _ <| pk_lt _ <| pk_lt _ <| Nat.one_pos, bits_pk_zero .., ?_⟩
  rw [decode_25 _ (bits_maj ..)]
  simp [decodeMaj25, bits_pk, bits_pk_zero]

theorem bfe s n g b a d : Statement (.bfe s n g b a d) := by
  rintro _ _ ⟨⟩
  refine .inr ⟨rfl, pk_lt _ <| pk_lt _ <| pk_lt _ <| pk_lt _ <| pk_lt _ <| pk_lt _ <| pk_lt _ <| pk_lt _ <| pk_lt _ <| Nat.one_pos, bits_pk_zero .., ?_⟩
  rw [decode_26 _ (bits_maj ..)]
  simp [decodeMaj26, bits_pk, bits_pk_zero]

theorem bfi n g b a d : Statement (.bfi n g b a d) := by
  rintro _ _ ⟨⟩
  refine .inr ⟨rfl, pk_lt _ <| pk_lt _ <| pk_lt _ <| pk_lt _ <| pk_lt _ <| pk_lt _ <| pk_lt _ <| pk_lt _ <| Nat.one_pos, bits_pk_zero .., ?_⟩
  rw [decode_26 _ (bits_maj ..)]
  simp [decodeMaj26, bits_pk, bits_pk_zero, show bits (pk 2#2 0) 1 1 = 1#1 by decide]

theorem dot4 f n g b a d : Statement (.dot4 f n g b a d) := by
  rintro _ _ ⟨⟩
  refine .inr ⟨rfl, pk_lt _ <| pk_lt _ <| pk_lt _ <| pk_lt _ <| pk_lt _ <| pk_lt _ <| pk_lt _ <| pk_lt _ <| Nat.one_pos, bits_pk_zero .., ?_⟩
  rw [decode_27 _ (bits_maj ..)]
  simp [decodeMaj27, bits_pk, bits_pk_zero]

theorem fadd n g b a d : Statement (.fadd n g b a d) := by
  rintro _ _ ⟨⟩
  refine .inr ⟨rfl, pk_lt _ <| pk_lt _ <| pk_lt _ <| pk_lt _ <| pk_lt _ <| pk_lt _ <| pk_lt _ <| pk_lt _ <| Nat.one_pos, bits_pk_zero .., ?_⟩
  rw [decode_28 _ (bits_maj ..)]
  simp [decodeMaj28, bits_pk, bits_pk_zero]

theorem fsub n g b a d : Statement (.fsub n g b a d) := by
  rintro _ _ ⟨⟩
  refine .inr ⟨rfl, pk_lt _ <| pk_lt _ <| pk_lt _ <| pk_lt _ <| pk_lt _ <| pk_lt _ <| pk_lt _ <| pk_lt _ <| Nat.one_pos, bits_pk_zero .., ?_⟩
  rw [decode_29 _ (bits_maj ..)]
  simp [decodeMaj29, bits_pk, bits_pk_zero]

theorem fmul n g b a d : Statement (.fmul n g b a d) := by
  rintro _ _ ⟨⟩
  refine .inr ⟨rfl, pk_lt _ <| pk_lt _ <| pk_lt _ <| pk_lt _ <| pk_lt _ <| pk_lt _ <| pk_lt _ <| pk_lt _ <| Nat.one_pos, bits_pk_zero .., ?_⟩
  rw [decode_2A _ (bits_maj ..)]
  simp [decodeMaj2A, bits_pk, bits_pk_zero]

theorem ffma n g b a d : Statement (.ffma n g b a d) := by
  rintro _ _ ⟨⟩
  refine .inr ⟨rfl, pk_lt _ <| pk_lt _ <| pk_lt _ <| pk_lt _ <| pk_lt _ <| pk_lt _ <| pk_lt _ <| pk_lt _ <| Nat.one_pos, bits_pk_zero .., ?_⟩
  rw [decode_2B _ (bits_maj ..)]
  simp [decodeMaj2B, bits_pk, bits_pk_zero]

theorem fmin n g b a d : Statement (.fmin n g b a d) := by
  rintro _ _ ⟨⟩
  refine .inr ⟨rfl, pk_lt _ <| pk_lt _ <| pk_lt _ <| pk_lt _ <| pk_lt _ <| pk_lt _ <| pk_lt _ <| pk_lt _ <| Nat.one_pos, bits_pk_zero .., ?_⟩
  rw [decode_2C _ (bits_maj ..)]
  simp [decodeMaj2C, bits_pk, bits_pk_zero]

theorem fmax n g b a d : Statement (.fmax n g b a d) := by
  rintro _ _ ⟨⟩
  refine .inr ⟨rfl, pk_lt _ <| pk_lt _ <| pk_lt _ <| pk_lt _ <| pk_lt _ <| pk_lt _ <| pk_lt _ <| pk_lt _ <| Nat.one_pos, bits_pk_zero .., ?_⟩
  rw [decode_2C _ (bits_maj ..)]
  simp [decodeMaj2C, bits_pk, bits_pk_zero]

theorem fcmp f n g b a p : Statement (.fcmp f n g b a p) := by
  rintro _ _ ⟨⟩
  refine .inr ⟨rfl, pk_lt _ <| pk_lt _ <| pk_lt _ <| pk_lt _ <| pk_lt _ <| pk_lt _ <| pk_lt _ <| pk_lt _ <| pk_lt _ <| Nat.one_pos, bits_pk_zero .., ?_⟩
  rw [decode_2D _ (bits_maj ..)]
  simp [decodeMaj2D, bits_pk, bits_pk_zero]

theorem frcp n g a d : Statement (.frcp n g a d) := by
  rintro _ _ ⟨⟩
  refine .inr ⟨rfl, pk_lt _ <| pk_lt _ <| pk_lt _ <| pk_lt _ <| pk_lt _ <| pk_lt _ <| pk_lt _ <| pk_lt _ <| Nat.one_pos, bits_pk_zero .., ?_⟩
  rw [decode_2E _ (bits_maj ..)]
  simp [decodeMaj2E, bits_pk, bits_pk_zero]

theorem frsq n g a d : Statement (.frsq n g a d) := by
  rintro _ _ ⟨⟩
  refine .inr ⟨rfl, pk_lt _ <| pk_lt _ <| pk_lt _ <| pk_lt _ <| pk_lt _ <| pk_lt _ <| pk_lt _ <| pk_lt _ <| Nat.one_pos, bits_pk_zero .., ?_⟩
  rw [decode_2F _ (bits_maj ..)]
  simp [decodeMaj2F, bits_pk, bits_pk_zero]

theorem fsqrt n g a d : Statement (.fsqrt n g a d) := by
  rintro _ _ ⟨⟩
  refine .inr ⟨rfl, pk_lt _ <| pk_lt _ <| pk_lt _ <| pk_lt _ <| pk_lt _ <| pk_lt _ <| pk_lt _ <| pk_lt _ <| Nat.one_pos, bits_pk_zero .., ?_⟩
  rw [decode_30 _ (bits_maj ..)]
  simp [decodeMaj30, bits_pk, bits_pk_zero]

theorem fdiv n g b a d : Statement (.fdiv n g b a d) := by
  rintro _ _ ⟨⟩
  refine .inr ⟨rfl, pk_lt _ <| pk_lt _ <| pk_lt _ <| pk_lt _ <| pk_lt _ <| pk_lt _ <| pk_lt _ <| pk_lt _ <| Nat.one_pos, bits_pk_zero .., ?_⟩
  rw [decode_31 _ (bits_maj ..)]
  simp [decodeMaj31, bits_pk, bits_pk_zero]

theorem fexp2 n g a d : Statement (.fexp2 n g a d) := by
  rintro _ _ ⟨⟩
  refine .inr ⟨rfl, pk_lt _ <| pk_lt _ <| pk_lt _ <| pk_lt _ <| pk_lt _ <| pk_lt _ <| pk_lt _ <| pk_lt _ <| Nat.one_pos, bits_pk_zero .., ?_⟩
  rw [decode_32 _ (bits_maj ..)]
  simp [decodeMaj32, bits_pk, bits_pk_zero]

theorem flog2 n g a d : Statement (.flog2 n g a d) := by
  rintro _ _ ⟨⟩
  refine .inr ⟨rfl, pk_lt _ <| pk_lt _ <| pk_lt _ <| pk_lt _ <| pk_lt _ <| pk_lt _ <| pk_lt _ <| pk_lt _ <| Nat.one_pos, bits_pk_zero .., ?_⟩
  rw [decode_33 _ (bits_maj ..)]
  simp [decodeMaj33, bits_pk, bits_pk_zero]

theorem fsin n g a d : Statement (.fsin n g a d) := by
  rintro _ _ ⟨⟩
  refine .inr ⟨rfl, pk_lt _ <| pk_lt _ <| pk_lt _ <| pk_lt _ <| pk_lt _ <| pk_lt _ <| pk_lt _ <| pk_lt _ <| Nat.one_pos, bits_pk_zero .., ?_⟩
  rw [decode_34 _ (bits_maj ..)]
  simp [decodeMaj34, bits_pk, bits_pk_zero]

theorem fcos n g a d : Statement (.fcos n g a d) := by
  rintro _ _ ⟨⟩
  refine .inr ⟨rfl, pk_lt _ <| pk_lt _ <| pk_lt _ <| pk_lt _ <| pk_lt _ <| pk_lt _ <| pk_lt _ <| pk_lt _ <| Nat.one_pos, bits_pk_zero .., ?_⟩
  rw [decode_34 _ (bits_maj ..)]
  simp [decodeMaj34, bits_pk, bits_pk_zero]

theorem fcvt f n g a d : Statement (.fcvt f n g a d) := by
  rintro _ _ ⟨⟩
  refine .inr ⟨rfl, pk_lt _ <| pk_lt _ <| pk_lt _ <| pk_lt _ <| pk_lt _ <| pk_lt _ <| pk_lt _ <| pk_lt _ <| Nat.one_pos, bits_pk_zero .., ?_⟩
  rw [decode_35 _ (bits_maj ..)]
  simp [decodeMaj35, bits_pk, bits_pk_zero]

theorem ncvt u n g j f a d : Statement (.ncvt u n g j f a d) := by
  rintro _ _ ⟨⟩
  refine .inr ⟨rfl, pk_lt _ <| pk_lt _ <| pk_lt _ <| pk_lt _ <| pk_lt _ <| pk_lt _ <| pk_lt _ <| pk_lt _ <| pk_lt _ <| pk_lt _ <| Nat.one_pos, bits_pk_zero .., ?_⟩
  rw [decode_36 _ (bits_maj ..)]
  simp [decodeMaj36, bits_pk, bits_pk_zero]

theorem icvtF32ToInt s n g m a d : Statement (.icvtF32ToInt s n g m a d) := by
  rintro _ _ ⟨⟩
  refine .inr ⟨rfl, pk_lt _ <| pk_lt _ <| pk_lt _ <| pk_lt _ <| pk_lt _ <| pk_lt _ <| pk_lt _ <| pk_lt _ <| pk_lt _ <| pk_lt _ <| Nat.one_pos, bits_pk_zero .., ?_⟩
  rw [decode_37 _ (bits_maj ..)]
  simp [decodeMaj37, bits_pk, bits_pk_zero]

theorem icvtIntToF32 s n g a d : Statement (.icvtIntToF32 s n g a d) := by
  rintro _ _ ⟨⟩
  refine .inr ⟨rfl, pk_lt _ <| pk_lt _ <| pk_lt _ <| pk_lt _ <| pk_lt _ <| pk_lt _ <| pk_lt _ <| pk_lt _ <| pk_lt _ <| Nat.one_pos, bits_pk_zero .., ?_⟩
  rw [decode_37 _ (bits_maj ..)]
  simp [decodeMaj37, bits_pk, bits_pk_zero]

theorem fclass n g a d : Statement (.fclass n g a d) := by
  rintro _ _ ⟨⟩
  refine .inr ⟨rfl, pk_lt _ <| pk_lt _ <| pk_lt _ <| pk_lt _ <| pk_lt _ <| pk_lt _ <| pk_lt _ <| pk_lt _ <| Nat.one_pos, bits_pk_zero .., ?_⟩
  rw [decode_38 _ (bits_maj ..)]
  simp [decodeMaj38, bits_pk, bits_pk_zero]

theorem fscl n g b a d : Statement (.fscl n g b a d) := by
  rintro _ _ ⟨⟩
  refine .inr ⟨rfl, pk_lt _ <| pk_lt _ <| pk_lt _ <| pk_lt _ <| pk_lt _ <| pk_lt _ <| pk_lt _ <| pk_lt _ <| Nat.one_pos, bits_pk_zero .., ?_⟩
  rw [decode_39 _ (bits_maj ..)]
  simp [decodeMaj39, bits_pk, bits_pk_zero]

theorem fabs n g a d : Statement (.fabs n g a d) := by
  rintro _ _ ⟨⟩
  refine .inr ⟨rfl, pk_lt _ <| pk_lt _ <| pk_lt _ <| pk_lt _ <| pk_lt _ <| pk_lt _ <| pk_lt _ <| pk_lt _ <| Nat.one_pos, bits_pk_zero .., ?_⟩
  rw [decode_3A _ (bits_maj ..)]
  simp [decodeMaj3A, bits_pk, bits_pk_zero]

theorem fneg n g a d : Statement (.fneg n g a d) := by
  rintro _ _ ⟨⟩
  refine .inr ⟨rfl, pk_lt _ <| pk_lt _ <| pk_lt _ <| pk_lt _ <| pk_lt _ <| pk_lt _ <| pk_lt _ <| pk_lt _ <| Nat.one_pos, bits_pk_zero .., ?_⟩
  rw [decode_3A _ (bits_maj ..)]
  simp [decodeMaj3A, bits_pk, bits_pk_zero]

theorem fcpys n g b a d : Statement (.fcpys n g b a d) := by
  rintro _ _ ⟨⟩
  refine .inr ⟨rfl, pk_lt _ <| pk_lt _ <| pk_lt _ <| pk_lt _ <| pk_lt _ <| pk_lt _ <| pk_lt _ <| pk_lt _ <| Nat.one_pos, bits_pk_zero .., ?_⟩
  rw [decode_3A _ (bits_maj ..)]
  simp [decodeMaj3A, bits_pk, bits_pk_zero]

theorem frnd n g m a d : Statement (.frnd n g m a d) := by
  rintro _ _ ⟨⟩
  refine .inr ⟨rfl, pk_lt _ <| pk_lt _ <| pk_lt _ <| pk_lt _ <| pk_lt _ <| pk_lt _ <| pk_lt _ <| pk_lt _ <| pk_lt _ <| Nat.one_pos, bits_pk_zero .., ?_⟩
  rw [decode_3B _ (bits_maj ..)]
  simp [decodeMaj3B, bits_pk, bits_pk_zero]

theorem dadd n g b a d : Statement (.dadd n g b a d) := by
  rintro _ _ ⟨⟩
  refine .inr ⟨rfl, pk_lt _ <| pk_lt _ <| pk_lt _ <| pk_lt _ <| pk_lt _ <| pk_lt _ <| pk_lt _ <| pk_lt _ <| Nat.one_pos, bits_pk_zero .., ?_⟩
  rw [decode_3C _ (bits_maj ..)]
  simp [decodeMaj3C, bits_pk, bits_pk_zero]

theorem dsub n g b a d : Statement (.dsub n g b a d) := by
  rintro _ _ ⟨⟩
  refine .inr ⟨rfl, pk_lt _ <| pk_lt _ <| pk_lt _ <| pk_lt _ <| pk_lt _ <| pk_lt _ <| pk_lt _ <| pk_lt _ <| Nat.one_pos, bits_pk_zero .., ?_⟩
  rw [decode_3C _ (bits_maj ..)]
  simp [decodeMaj3C, bits_pk, bits_pk_zero]

theorem dmul n g b a d : Statement (.dmul n g b a d) := by
  rintro _ _ ⟨⟩
  refine .inr ⟨rfl, pk_lt _ <| pk_lt _ <| pk_lt _ <| pk_lt _ <| pk_lt _ <| pk_lt _ <| pk_lt _ <| pk_lt _ <| Nat.one_pos, bits_pk_zero .., ?_⟩
  rw [decode_3D _ (bits_maj ..)]
  simp [decodeMaj3D, bits_pk, bits_pk_zero]

theorem dfma n g b a d : Statement (.dfma n g b a d) := by
  rintro _ _ ⟨⟩
  refine .inr ⟨rfl, pk_lt _ <| pk_lt _ <| pk_lt _ <| pk_lt _ <| pk_lt _ <| pk_lt _ <| pk_lt _ <| pk_lt _ <| Nat.one_pos, bits_pk_zero .., ?_⟩
  rw [decode_3E _ (bits_maj ..)]
  simp [decodeMaj3E, bits_pk, bits_pk_zero]

theorem ddiv n g b a d : Statement (.ddiv n g b a d) := by
  rintro _ _ ⟨⟩
  refine .inr ⟨rfl, pk_lt _ <| pk_lt _ <| pk_lt _ <| pk_lt _ <| pk_lt _ <| pk_lt _ <| pk_lt _ <| pk_lt _ <| Nat.one_pos, bits_pk_zero .., ?_⟩
  rw [decode_3F _ (bits_maj ..)]
  simp [decodeMaj3F, bits_pk, bits_pk_zero]

theorem dsqrt n g a d : Statement (.dsqrt n g a d) := by
  rintro _ _ ⟨⟩
  refine .inr ⟨rfl, pk_lt _ <| pk_lt _ <| pk_lt _ <| pk_lt _ <| pk_lt _ <| pk_lt _ <| pk_lt _ <| pk_lt _ <| Nat.one_pos, bits_pk_zero .., ?_⟩
  rw [decode_3F _ (bits_maj ..)]
  simp [decodeMaj3F, bits_pk, bits_pk_zero]

theorem dcvt s n g a d : Statement (.dcvt s n g a d) := by
  rintro _ _ ⟨⟩
  refine .inr ⟨rfl, pk_lt _ <| pk_lt _ <| pk_lt _ <| pk_lt _ <| pk_lt _ <| pk_lt _ <| pk_lt _ <| pk_lt _ <| pk_lt _ <| Nat.one_pos, bits_pk_zero .., ?_⟩
  rw [decode_3F _ (bits_maj ..)]
  have h : ∀ s : BitVec 1, bits (pk s (pk 1#1 0)) 0 2 ≠ 0#2 ∧ bits (pk s (pk 1#1 0)) 0 2 ≠ 1#2 := by decide
  simp [decodeMaj3F, bits_pk, bits_pk_zero, h]

theorem shfl f b a d : Statement (.shfl f b a d) := by
  rintro _ _ ⟨⟩
  refine .inr ⟨rfl, pk_lt _ <| pk_lt _ <| pk_lt _ <| pk_lt _ <| pk_lt _ <| pk_lt _ <| pk_lt _ <| Nat.one_pos, bits_pk_zero .., ?_⟩
  rw [decode_40 _ (bits_maj ..)]
  simp [decodeMaj40, bits_pk, bits_pk_zero]

theorem vote f a d : Statement (.vote f a d) := by
  rintro _ _ ⟨⟩
  refine .inr ⟨rfl, pk_lt _ <| pk_lt _ <| pk_lt _ <| pk_lt _ <| pk_lt _ <| pk_lt _ <| pk_lt _ <| pk_lt _ <| Nat.one_pos, bits_pk_zero .., ?_⟩
  rw [decode_41 _ (bits_maj ..)]
  simp [decodeMaj41, bits_pk, bits_pk_zero]

theorem voteBallot a d : Statement (.voteBallot a d) := by
  rintro _ _ ⟨⟩
  refine .inr ⟨rfl, pk_lt _ <| pk_lt _ <| pk_lt _ <| pk_lt _ <| pk_lt _ <| Nat.one_pos, bits_pk_zero .., ?_⟩
  rw [decode_41 _ (bits_maj ..)]
  simp [decodeMaj41, bits_pk, bits_pk_zero, show bits (pk 19968#15 0) 14 1 = 1#1 by decide]

theorem redux f t a d : Statement (.redux f t a d) := by
  rintro _ _ ⟨⟩
  refine .inr ⟨rfl, pk_lt _ <| pk_lt _ <| pk_lt _ <| pk_lt _ <| pk_lt _ <| pk_lt _ <| pk_lt _ <| Nat.one_pos, bits_pk_zero .., ?_⟩
  rw [decode_42 _ (bits_maj ..)]
  simp [decodeMaj42, bits_pk, bits_pk_zero]

theorem scan f e t a d : Statement (.scan f e t a d) := by
  rintro _ _ ⟨⟩
  refine .inr ⟨rfl, pk_lt _ <| pk_lt _ <| pk_lt _ <| pk_lt _ <| pk_lt _ <| pk_lt _ <| pk_lt _ <| pk_lt _ <| Nat.one_pos, bits_pk_zero .., ?_⟩
  rw [decode_43 _ (bits_maj ..)]
  simp [decodeMaj43, bits_pk, bits_pk_zero]

theorem matchLanes h a d : Statement (.matchLanes h a d) := by
  rintro _ _ ⟨⟩
  refine .inr ⟨rfl, pk_lt _ <| pk_lt _ <| pk_lt _ <| pk_lt _ <| pk_lt _ <| pk_lt _ <| pk_lt _ <| Nat.one_pos, bits_pk_zero .., ?_⟩
  rw [decode_44 _ (bits_maj ..)]
  simp [decodeMaj44, bits_pk, bits_pk_zero]

theorem perm n g b a d : Statement (.perm n g b a d) := by
  rintro _ _ ⟨⟩
  refine .inr ⟨rfl, pk_lt _ <| pk_lt _ <| pk_lt _ <| pk_lt _ <| pk_lt _ <| pk_lt _ <| pk_lt _ <| pk_lt _ <| Nat.one_pos, bits_pk_zero .., ?_⟩
  rw [decode_45 _ (bits_maj ..)]
  simp [decodeMaj45, bits_pk, bits_pk_zero]

theorem elect d : Statement (.elect d) := by
  rintro _ _ ⟨⟩
  refine .inr ⟨rfl, pk_lt _ <| pk_lt _ <| pk_lt _ <| pk_lt _ <| Nat.one_pos, bits_pk_zero .., ?_⟩
  rw [decode_46 _ (bits_maj ..)]
  simp [decodeMaj46, bits_pk, bits_pk_zero]

theorem gsync : Statement (.gsync) := by
  rintro _ _ ⟨⟩
  refine .inr ⟨rfl, pk_lt _ <| pk_lt _ <| pk_lt _ <| Nat.one_pos, bits_pk_zero .., ?_⟩
  rw [decode_47 _ (bits_maj ..)]
  simp [decodeMaj47, bits_pk, bits_pk_zero]

theorem bra o n g : Statement (.bra o n g) := by
  rintro _ _ ⟨⟩
  refine .inr ⟨rfl, pk_lt _ <| pk_lt _ <| pk_lt _ <| pk_lt _ <| pk_lt _ <| Nat.one_pos, bits_pk_zero .., ?_⟩
  rw [decode_48 _ (bits_maj ..)]
  simp [decodeMaj48, bits_pk, bits_pk_zero]

theorem jmp a : Statement (.jmp a) := by
  rintro _ _ ⟨⟩
  refine .inr ⟨rfl, pk_lt _ <| pk_lt _ <| pk_lt _ <| pk_lt _ <| pk_lt _ <| Nat.one_pos, bits_pk_zero .., ?_⟩
  rw [decode_49 _ (bits_maj ..)]
  simp [decodeMaj49, bits_pk, bits_pk_zero]

theorem call o n g : Statement (.call o n g) := by
  rintro _ _ ⟨⟩
  refine .inr ⟨rfl, pk_lt _ <| pk_lt _ <| pk_lt _ <| pk_lt _ <| pk_lt _ <| Nat.one_pos, bits_pk_zero .., ?_⟩
  rw [decode_4A _ (bits_maj ..)]
  simp [decodeMaj4A, bits_pk, bits_pk_zero]

theorem callv a b : Statement (.callv a b) := by
  rintro _ _ ⟨⟩
  refine .inr ⟨rfl, pk_lt _ <| pk_lt _ <| pk_lt _ <| pk_lt _ <| pk_lt _ <| pk_lt _ <| Nat.one_pos, bits_pk_zero .., ?_⟩
  rw [decode_4B _ (bits_maj ..)]
  simp [decodeMaj4B, bits_pk, bits_pk_zero]

theorem ret n g : Statement (.ret n g) := by
  rintro _ _ ⟨⟩
  refine .inr ⟨rfl, pk_lt _ <| pk_lt _ <| pk_lt _ <| pk_lt _ <| pk_lt _ <| Nat.one_pos, bits_pk_zero .., ?_⟩
  rw [decode_4C _ (bits_maj ..)]
  simp [decodeMaj4C, bits_pk, bits_pk_zero]

theorem exit n g : Statement (.exit n g) := by
  rintro _ _ ⟨⟩
  refine .inr ⟨rfl, pk_lt _ <| pk_lt _ <| pk_lt _ <| pk_lt _ <| pk_lt _ <| Nat.one_pos, bits_pk_zero .., ?_⟩
  rw [decode_4D _ (bits_maj ..)]
  simp [decodeMaj4D, bits_pk, bits_pk_zero]

theorem refill n g : Statement (.refill n g) := by
  rintro _ _ ⟨⟩
  refine .inr ⟨rfl, pk_lt _ <| pk_lt _ <| pk_lt _ <| pk_lt _ <| pk_lt _ <| Nat.one_pos, bits_pk_zero .., ?_⟩
  rw [decode_4D _ (bits_maj ..)]
  simp [decodeMaj4D, bits_pk, bits_pk_zero]

theorem nop n g : Statement (.nop n g) := by
  rintro _ _ ⟨⟩
  refine .inr ⟨rfl, pk_lt _ <| pk_lt _ <| pk_lt _ <| pk_lt _ <| pk_lt _ <| Nat.one_pos, bits_pk_zero .., ?_⟩
  rw [decode_4E _ (bits_maj ..)]
  simp [decodeMaj4E, bits_pk, bits_pk_zero]

theorem yield n g : Statement (.yield n g) := by
  rintro _ _ ⟨⟩
  refine .inr ⟨rfl, pk_lt _ <| pk_lt _ <| pk_lt _ <| pk_lt _ <| pk_lt _ <| Nat.one_pos, bits_pk_zero .., ?_⟩
  rw [decode_4E _ (bits_maj ..)]
  simp [decodeMaj4E, bits_pk, bits_pk_zero]

theorem sleep k n g : Statement (.sleep k n g) := by
  rintro _ _ ⟨⟩
  refine .inr ⟨rfl, pk_lt _ <| pk_lt _ <| pk_lt _ <| pk_lt _ <| pk_lt _ <| pk_lt _ <| Nat.one_pos, bits_pk_zero .., ?_⟩
  rw [decode_4E _ (bits_maj ..)]
  have h0 : bits (pk k (pk 8#4 0)) 0 20 ≠ 0#20 := bits_ne _ _ _ 16 4 _ (by decide) (by simp [bits_pk, bits_pk_zero])
  have h262144 : bits (pk k (pk 8#4 0)) 0 20 ≠ 262144#20 := bits_ne _ _ _ 16 4 _ (by decide) (by simp [bits_pk, bits_pk_zero])
  simp [decodeMaj4E, bits_pk, bits_pk_zero, h0, h262144]

theorem trap k n g : Statement (.trap k n g) := by
  rintro _ _ ⟨⟩
  refine .inr ⟨rfl, pk_lt _ <| pk_lt _ <| pk_lt _ <| pk_lt _ <| pk_lt _ <| pk_lt _ <| Nat.one_pos, bits_pk_zero .., ?_⟩
  rw [decode_4F _ (bits_maj ..)]
  simp [decodeMaj4F, bits_pk, bits_pk_zero]

theorem brk k n g : Statement (.brk k n g) := by
  rintro _ _ ⟨⟩
  refine .inr ⟨rfl, pk_lt _ <| pk_lt _ <| pk_lt _ <| pk_lt _ <| pk_lt _ <| pk_lt _ <| Nat.one_pos, bits_pk_zero .., ?_⟩
  rw [decode_4F _ (bits_maj ..)]
  simp [decodeMaj4F, bits_pk, bits_pk_zero]

theorem ld f l a b d : Statement (.ld f l a b d) := by
  rintro _ _ ⟨⟩
  refine .inr ⟨rfl, pk_lt _ <| pk_lt _ <| pk_lt _ <| pk_lt _ <| pk_lt _ <| pk_lt _ <| pk_lt _ <| Nat.one_pos, bits_pk_zero .., ?_⟩
  rw [decode_50 _ (bits_maj ..)]
  simp [decodeMaj50, bits_pk, bits_pk_zero]

theorem st f l a b d : Statement (.st f l a b d) := by
  rintro _ _ ⟨⟩
  refine .inr ⟨rfl, pk_lt _ <| pk_lt _ <| pk_lt _ <| pk_lt _ <| pk_lt _ <| pk_lt _ <| pk_lt _ <| Nat.one_pos, bits_pk_zero .., ?_⟩
  rw [decode_51 _ (bits_maj ..)]
  simp [decodeMaj51, bits_pk, bits_pk_zero]

theorem ldw l a b d : Statement (.ldw l a b d) := by
  rintro _ _ ⟨⟩
  refine .inr ⟨rfl, pk_lt _ <| pk_lt _ <| pk_lt _ <| pk_lt _ <| pk_lt _ <| pk_lt _ <| pk_lt _ <| Nat.one_pos, bits_pk_zero .., ?_⟩
  rw [decode_52 _ (bits_maj ..)]
  simp [decodeMaj52, bits_pk, bits_pk_zero]

theorem ldc l a b d : Statement (.ldc l a b d) := by
  rintro _ _ ⟨⟩
  refine .inr ⟨rfl, pk_lt _ <| pk_lt _ <| pk_lt _ <| pk_lt _ <| pk_lt _ <| pk_lt _ <| pk_lt _ <| Nat.one_pos, bits_pk_zero .., ?_⟩
  rw [decode_52 _ (bits_maj ..)]
  simp [decodeMaj52, bits_pk, bits_pk_zero]

theorem ldq l a b d : Statement (.ldq l a b d) := by
  rintro _ _ ⟨⟩
  refine .inr ⟨rfl, pk_lt _ <| pk_lt _ <| pk_lt _ <| pk_lt _ <| pk_lt _ <| pk_lt _ <| pk_lt _ <| Nat.one_pos, bits_pk_zero .., ?_⟩
  rw [decode_52 _ (bits_maj ..)]
  simp [decodeMaj52, bits_pk, bits_pk_zero]

theorem ldqw l a b d : Statement (.ldqw l a b d) := by
  rintro _ _ ⟨⟩
  refine .inr ⟨rfl, pk_lt _ <| pk_lt _ <| pk_lt _ <| pk_lt _ <| pk_lt _ <| pk_lt _ <| pk_lt _ <| Nat.one_pos, bits_pk_zero .., ?_⟩
  rw [decode_52 _ (bits_maj ..)]
  simp [decodeMaj52, bits_pk, bits_pk_zero]

theorem stf l a b d : Statement (.stf l a b d) := by
  rintro _ _ ⟨⟩
  refine .inr ⟨rfl, pk_lt _ <| pk_lt _ <| pk_lt _ <| pk_lt _ <| pk_lt _ <| pk_lt _ <| pk_lt _ <| Nat.one_pos, bits_pk_zero .., ?_⟩
  rw [decode_53 _ (bits_maj ..)]
  simp [decodeMaj53, bits_pk, bits_pk_zero]

theorem ste l a b d : Statement (.ste l a b d) := by
  rintro _ _ ⟨⟩
  refine .inr ⟨rfl, pk_lt _ <| pk_lt _ <| pk_lt _ <| pk_lt _ <| pk_lt _ <| pk_lt _ <| pk_lt _ <| Nat.one_pos, bits_pk_zero .., ?_⟩
  rw [decode_53 _ (bits_maj ..)]
  simp [decodeMaj53, bits_pk, bits_pk_zero]

theorem stq l a b d : Statement (.stq l a b d) := by
  rintro _ _ ⟨⟩
  refine .inr ⟨rfl, pk_lt _ <| pk_lt _ <| pk_lt _ <| pk_lt _ <| pk_lt _ <| pk_lt _ <| pk_lt _ <| Nat.one_pos, bits_pk_zero .., ?_⟩
  rw [decode_53 _ (bits_maj ..)]
  simp [decodeMaj53, bits_pk, bits_pk_zero]

theorem atom f l a b d : Statement (.atom f l a b d) := by
  rintro _ _ ⟨⟩
  refine .inr ⟨rfl, pk_lt _ <| pk_lt _ <| pk_lt _ <| pk_lt _ <| pk_lt _ <| pk_lt _ <| pk_lt _ <| Nat.one_pos, bits_pk_zero .., ?_⟩
  rw [decode_54 _ (bits_maj ..)]
  simp [decodeMaj54, bits_pk, bits_pk_zero]

theorem atomb f l a b d : Statement (.atomb f l a b d) := by
  rintro _ _ ⟨⟩
  refine .inr ⟨rfl, pk_lt _ <| pk_lt _ <| pk_lt _ <| pk_lt _ <| pk_lt _ <| pk_lt _ <| pk_lt _ <| Nat.one_pos, bits_pk_zero .., ?_⟩
  rw [decode_55 _ (bits_maj ..)]
  simp [decodeMaj55, bits_pk, bits_pk_zero]

theorem atomcCas l a b d : Statement (.atomcCas l a b d) := by
  rintro _ _ ⟨⟩
  refine .inr ⟨rfl, pk_lt _ <| pk_lt _ <| pk_lt _ <| pk_lt _ <| pk_lt _ <| pk_lt _ <| pk_lt _ <| Nat.one_pos, bits_pk_zero .., ?_⟩
  rw [decode_56 _ (bits_maj ..)]
  simp [decodeMaj56, bits_pk, bits_pk_zero]

theorem atomcMinN32 l a b d : Statement (.atomcMinN32 l a b d) := by
  rintro _ _ ⟨⟩
  refine .inr ⟨rfl, pk_lt _ <| pk_lt _ <| pk_lt _ <| pk_lt _ <| pk_lt _ <| pk_lt _ <| pk_lt _ <| Nat.one_pos, bits_pk_zero .., ?_⟩
  rw [decode_56 _ (bits_maj ..)]
  simp [decodeMaj56, bits_pk, bits_pk_zero]

theorem atomcMaxN32 l a b d : Statement (.atomcMaxN32 l a b d) := by
  rintro _ _ ⟨⟩
  refine .inr ⟨rfl, pk_lt _ <| pk_lt _ <| pk_lt _ <| pk_lt _ <| pk_lt _ <| pk_lt _ <| pk_lt _ <| Nat.one_pos, bits_pk_zero .., ?_⟩
  rw [decode_56 _ (bits_maj ..)]
  simp [decodeMaj56, bits_pk, bits_pk_zero]

theorem stc l a b d : Statement (.stc l a b d) := by
  rintro _ _ ⟨⟩
  refine .inr ⟨rfl, pk_lt _ <| pk_lt _ <| pk_lt _ <| pk_lt _ <| pk_lt _ <| pk_lt _ <| pk_lt _ <| Nat.one_pos, bits_pk_zero .., ?_⟩
  rw [decode_56 _ (bits_maj ..)]
  simp [decodeMaj56, bits_pk, bits_pk_zero]

theorem fence c k : Statement (.fence c k) := by
  rintro _ _ ⟨⟩
  refine .inr ⟨rfl, pk_lt _ <| pk_lt _ <| pk_lt _ <| pk_lt _ <| pk_lt _ <| Nat.one_pos, bits_pk_zero .., ?_⟩
  rw [decode_57 _ (bits_maj ..)]
  simp [decodeMaj57, bits_pk, bits_pk_zero]

theorem pref a b : Statement (.pref a b) := by
  rintro _ _ ⟨⟩
  refine .inr ⟨rfl, pk_lt _ <| pk_lt _ <| pk_lt _ <| pk_lt _ <| pk_lt _ <| pk_lt _ <| Nat.one_pos, bits_pk_zero .., ?_⟩
  rw [decode_57 _ (bits_maj ..)]
  have h0 : bits (pk 0#6 (pk b (pk a (pk 16#6 0)))) 4 20 ≠ 0#20 := bits_ne _ _ _ 14 6 _ (by decide) (by simp [bits_pk, bits_pk_zero])
  simp [decodeMaj57, bits_pk, bits_pk_zero, h0]

theorem cflush a b : Statement (.cflush a b) := by
  rintro _ _ ⟨⟩
  refine .inr ⟨rfl, pk_lt _ <| pk_lt _ <| pk_lt _ <| pk_lt _ <| pk_lt _ <| pk_lt _ <| Nat.one_pos, bits_pk_zero .., ?_⟩
  rw [decode_57 _ (bits_maj ..)]
  have h0 : bits (pk 0#6 (pk b (pk a (pk 32#6 0)))) 4 20 ≠ 0#20 := bits_ne _ _ _ 14 6 _ (by decide) (by simp [bits_pk, bits_pk_zero])
  simp [decodeMaj57, bits_pk, bits_pk_zero, h0]

theorem cpyIn l b a t : Statement (.cpyIn l b a t) := by
  rintro _ _ ⟨⟩
  refine .inr ⟨rfl, pk_lt _ <| pk_lt _ <| pk_lt _ <| pk_lt _ <| pk_lt _ <| pk_lt _ <| pk_lt _ <| Nat.one_pos, bits_pk_zero .., ?_⟩
  rw [decode_58 _ (bits_maj ..)]
  simp [decodeMaj58, bits_pk, bits_pk_zero]

theorem cpyOut l b a t : Statement (.cpyOut l b a t) := by
  rintro _ _ ⟨⟩
  refine .inr ⟨rfl, pk_lt _ <| pk_lt _ <| pk_lt _ <| pk_lt _ <| pk_lt _ <| pk_lt _ <| pk_lt _ <| Nat.one_pos, bits_pk_zero .., ?_⟩
  rw [decode_58 _ (bits_maj ..)]
  simp [decodeMaj58, bits_pk, bits_pk_zero]

theorem cpyLocal l b a t : Statement (.cpyLocal l b a t) := by
  rintro _ _ ⟨⟩
  refine .inr ⟨rfl, pk_lt _ <| pk_lt _ <| pk_lt _ <| pk_lt _ <| pk_lt _ <| pk_lt _ <| pk_lt _ <| Nat.one_pos, bits_pk_zero .., ?_⟩
  rw [decode_58 _ (bits_maj ..)]
  simp [decodeMaj58, bits_pk, bits_pk_zero]

theorem cseal : Statement (.cseal) := by
  rintro _ _ ⟨⟩
  refine .inr ⟨rfl, pk_lt _ <| pk_lt _ <| pk_lt _ <| Nat.one_pos, bits_pk_zero .., ?_⟩
  rw [decode_58 _ (bits_maj ..)]
  simp [decodeMaj58, bits_pk, bits_pk_zero, show bits (pk 12582912#24 0) 22 2 = 3#2 by decide]

theorem mma l a : Statement (.mma l a) := by
  rintro _ _ ⟨⟩
  refine .inr ⟨rfl, pk_lt _ <| pk_lt _ <| pk_lt _ <| pk_lt _ <| pk_lt _ <| pk_lt _ <| pk_lt _ <| Nat.one_pos, bits_pk_zero .., ?_⟩
  rw [decode_59 _ (bits_maj ..)]
  simp [decodeMaj59, bits_pk, bits_pk_zero]

theorem mrels l : Statement (.mrels l) := by
  rintro _ _ ⟨⟩
  refine .inr ⟨rfl, pk_lt _ <| pk_lt _ <| pk_lt _ <| pk_lt _ <| pk_lt _ <| Nat.one_pos, bits_pk_zero .., ?_⟩
  rw [decode_59 _ (bits_maj ..)]
  simp [decodeMaj59, bits_pk, bits_pk_zero]

theorem epi l a : Statement (.epi l a) := by
  rintro _ _ ⟨⟩
  refine .inr ⟨rfl, pk_lt _ <| pk_lt _ <| pk_lt _ <| pk_lt _ <| pk_lt _ <| pk_lt _ <| pk_lt _ <| Nat.one_pos, bits_pk_zero .., ?_⟩
  rw [decode_59 _ (bits_maj ..)]
  simp [decodeMaj59, bits_pk, bits_pk_zero]

theorem mstat l t : Statement (.mstat l t) := by
  rintro _ _ ⟨⟩
  refine .inr ⟨rfl, pk_lt _ <| pk_lt _ <| pk_lt _ <| pk_lt _ <| pk_lt _ <| pk_lt _ <| Nat.one_pos, bits_pk_zero .., ?_⟩
  rw [decode_59 _ (bits_maj ..)]
  simp [decodeMaj59, bits_pk, bits_pk_zero]

theorem bar b : Statement (.bar b) := by
  rintro _ _ ⟨⟩
  refine .inr ⟨rfl, pk_lt _ <| pk_lt _ <| pk_lt _ <| pk_lt _ <| Nat.one_pos, bits_pk_zero .., ?_⟩
  rw [decode_5A _ (bits_maj ..)]
  simp [decodeMaj5A, bits_pk, bits_pk_zero]

theorem bara b : Statement (.bara b) := by
  rintro _ _ ⟨⟩
  refine .inr ⟨rfl, pk_lt _ <| pk_lt _ <| pk_lt _ <| pk_lt _ <| Nat.one_pos, bits_pk_zero .., ?_⟩
  rw [decode_5A _ (bits_maj ..)]
  simp [decodeMaj5A, bits_pk, bits_pk_zero]

theorem barw b : Statement (.barw b) := by
  rintro _ _ ⟨⟩
  refine .inr ⟨rfl, pk_lt _ <| pk_lt _ <| pk_lt _ <| pk_lt _ <| Nat.one_pos, bits_pk_zero .., ?_⟩
  rw [decode_5A _ (bits_maj ..)]
  simp [decodeMaj5A, bits_pk, bits_pk_zero]

theorem barx b : Statement (.barx b) := by
  rintro _ _ ⟨⟩
  refine .inr ⟨rfl, pk_lt _ <| pk_lt _ <| pk_lt _ <| pk_lt _ <| Nat.one_pos, bits_pk_zero .., ?_⟩
  rw [decode_5A _ (bits_maj ..)]
  simp [decodeMaj5A, bits_pk, bits_pk_zero]

theorem spanj : Statement (.spanj) := by
  rintro _ _ ⟨⟩
  refine .inr ⟨rfl, pk_lt _ <| pk_lt _ <| pk_lt _ <| Nat.one_pos, bits_pk_zero .., ?_⟩
  rw [decode_5B _ (bits_maj ..)]
  simp [decodeMaj5B, bits_pk, bits_pk_zero]

theorem spanx : Statement (.spanx) := by
  rintro _ _ ⟨⟩
  refine .inr ⟨rfl, pk_lt _ <| pk_lt _ <| pk_lt _ <| Nat.one_pos, bits_pk_zero .., ?_⟩
  rw [decode_5B _ (bits_maj ..)]
  simp [decodeMaj5B, bits_pk, bits_pk_zero]

theorem spanb : Statement (.spanb) := by
  rintro _ _ ⟨⟩
  refine .inr ⟨rfl, pk_lt _ <| pk_lt _ <| pk_lt _ <| Nat.one_pos, bits_pk_zero .., ?_⟩
  rw [decode_5B _ (bits_maj ..)]
  simp [decodeMaj5B, bits_pk, bits_pk_zero]

theorem psend l a c t : Statement (.psend l a c t) := by
  rintro _ _ ⟨⟩
  refine .inr ⟨rfl, pk_lt _ <| pk_lt _ <| pk_lt _ <| pk_lt _ <| pk_lt _ <| pk_lt _ <| pk_lt _ <| Nat.one_pos, bits_pk_zero .., ?_⟩
  rw [decode_5C _ (bits_maj ..)]
  simp [decodeMaj5C, bits_pk, bits_pk_zero]

theorem pput l a c d : Statement (.pput l a c d) := by
  rintro _ _ ⟨⟩
  refine .inr ⟨rfl, pk_lt _ <| pk_lt _ <| pk_lt _ <| pk_lt _ <| pk_lt _ <| pk_lt _ <| pk_lt _ <| Nat.one_pos, bits_pk_zero .., ?_⟩
  rw [decode_5C _ (bits_maj ..)]
  simp [decodeMaj5C, bits_pk, bits_pk_zero]

theorem pget l a c d : Statement (.pget l a c d) := by
  rintro _ _ ⟨⟩
  refine .inr ⟨rfl, pk_lt _ <| pk_lt _ <| pk_lt _ <| pk_lt _ <| pk_lt _ <| pk_lt _ <| pk_lt _ <| Nat.one_pos, bits_pk_zero .., ?_⟩
  rw [decode_5C _ (bits_maj ..)]
  simp [decodeMaj5C, bits_pk, bits_pk_zero]

theorem pmcast l a c t : Statement (.pmcast l a c t) := by
  rintro _ _ ⟨⟩
  refine .inr ⟨rfl, pk_lt _ <| pk_lt _ <| pk_lt _ <| pk_lt _ <| pk_lt _ <| pk_lt _ <| pk_lt _ <| Nat.one_pos, bits_pk_zero .., ?_⟩
  rw [decode_5C _ (bits_maj ..)]
  simp [decodeMaj5C, bits_pk, bits_pk_zero]

theorem parrv l a n : Statement (.parrv l a n) := by
  rintro _ _ ⟨⟩
  refine .inr ⟨rfl, pk_lt _ <| pk_lt _ <| pk_lt _ <| pk_lt _ <| pk_lt _ <| pk_lt _ <| pk_lt _ <| Nat.one_pos, bits_pk_zero .., ?_⟩
  rw [decode_5C _ (bits_maj ..)]
  simp [decodeMaj5C, bits_pk, bits_pk_zero]

theorem phint c : Statement (.phint c) := by
  rintro _ _ ⟨⟩
  refine .inr ⟨rfl, pk_lt _ <| pk_lt _ <| pk_lt _ <| pk_lt _ <| pk_lt _ <| Nat.one_pos, bits_pk_zero .., ?_⟩
  rw [decode_5C _ (bits_maj ..)]
  simp [decodeMaj5C, bits_pk, bits_pk_zero, show bits (pk 5120#13 0) 10 3 = 5#3 by decide]

theorem precv l a : Statement (.precv l a) := by
  rintro _ _ ⟨⟩
  refine .inr ⟨rfl, pk_lt _ <| pk_lt _ <| pk_lt _ <| pk_lt _ <| pk_lt _ <| pk_lt _ <| Nat.one_pos, bits_pk_zero .., ?_⟩
  rw [decode_5C _ (bits_maj ..)]
  have h5120 : bits (pk a (pk l (pk 6#3 0))) 0 13 ≠ 5120#13 := bits_ne _ _ _ 10 3 _ (by decide) (by simp [bits_pk, bits_pk_zero])
  simp [decodeMaj5C, bits_pk, bits_pk_zero, h5120]

theorem pfence l : Statement (.pfence l) := by
  rintro _ _ ⟨⟩
  refine .inr ⟨rfl, pk_lt _ <| pk_lt _ <| pk_lt _ <| pk_lt _ <| pk_lt _ <| Nat.one_pos, bits_pk_zero .., ?_⟩
  rw [decode_5C _ (bits_maj ..)]
  have h5120 : bits (pk 0#17 (pk l (pk 7#3 0))) 11 13 ≠ 5120#13 := bits_ne _ _ _ 10 3 _ (by decide) (by simp [bits_pk, bits_pk_zero])
  simp [decodeMaj5C, bits_pk, bits_pk_zero, h5120]

theorem patom l a c t : Statement (.patom l a c t) := by
  rintro _ _ ⟨⟩
  refine .inr ⟨rfl, pk_lt _ <| pk_lt _ <| pk_lt _ <| pk_lt _ <| pk_lt _ <| pk_lt _ <| pk_lt _ <| Nat.one_pos, bits_pk_zero .., ?_⟩
  rw [decode_5D _ (bits_maj ..)]
  simp [decodeMaj5D, bits_pk, bits_pk_zero]

theorem ppool l a c t : Statement (.ppool l a c t) := by
  rintro _ _ ⟨⟩
  refine .inr ⟨rfl, pk_lt _ <| pk_lt _ <| pk_lt _ <| pk_lt _ <| pk_lt _ <| pk_lt _ <| pk_lt _ <| Nat.one_pos, bits_pk_zero .., ?_⟩
  rw [decode_5D _ (bits_maj ..)]
  simp [decodeMaj5D, bits_pk, bits_pk_zero]

theorem evt : Statement (.evt) := by
  rintro _ _ ⟨⟩
  refine .inr ⟨rfl, pk_lt _ <| pk_lt _ <| pk_lt _ <| Nat.one_pos, bits_pk_zero .., ?_⟩
  rw [decode_5E _ (bits_maj ..)]
  simp [decodeMaj5E, bits_pk, bits_pk_zero]

theorem capq f c t : Statement (.capq f c t) := by
  rintro _ _ ⟨⟩
  refine .inr ⟨rfl, pk_lt _ <| pk_lt _ <| pk_lt _ <| pk_lt _ <| pk_lt _ <| pk_lt _ <| pk_lt _ <| Nat.one_pos, bits_pk_zero .., ?_⟩
  rw [decode_5F _ (bits_maj ..)]
  simp [decodeMaj5F, bits_pk, bits_pk_zero]

theorem registerWrite x1 x2 x3 : Statement (.registerWrite x1 x2 x3) := nofun

theorem lqtailWrite x1 x2 x3 : Statement (.lqtailWrite x1 x2 x3) := nofun

theorem queueEnable x1 x2 x3 : Statement (.queueEnable x1 x2 x3) := nofun

theorem queueDisable x1 x2 x3 : Statement (.queueDisable x1 x2 x3) := nofun

theorem launchRecordRead x1 x2 : Statement (.launchRecordRead x1 x2) := nofun

theorem launchAccept x1 x2 : Statement (.launchAccept x1 x2) := nofun

theorem launchComplete x1 x2 : Statement (.launchComplete x1 x2) := nofun

theorem dispatchTeam x1 : Statement (.dispatchTeam x1) := nofun

theorem teamRetirement x1 : Statement (.teamRetirement x1) := nofun

theorem spanDetachment x1 : Statement (.spanDetachment x1) := nofun

theorem forwardProgressInterval x1 : Statement (.forwardProgressInterval x1) := nofun

theorem saveComplete x1 : Statement (.saveComplete x1) := nofun

theorem teamRestart x1 : Statement (.teamRestart x1) := nofun

theorem vacate x1 : Statement (.vacate x1) := nofun

theorem returnPiers x1 : Statement (.returnPiers x1) := nofun

theorem vacateComplete x1 : Statement (.vacateComplete x1) := nofun

theorem tlbinv x1 x2 : Statement (.tlbinv x1 x2) := nofun

theorem tlbInvalidateComplete x1 : Statement (.tlbInvalidateComplete x1) := nofun

theorem hostAccess x1 x2 x3 : Statement (.hostAccess x1 x2 x3) := nofun

theorem regroup x1 x2 : Statement (.regroup x1 x2) := nofun

theorem waitCountBoost x1 x2 : Statement (.waitCountBoost x1 x2) := nofun

theorem sleepExpiry x1 x2 : Statement (.sleepExpiry x1 x2) := nofun

theorem loadDataLand x1 : Statement (.loadDataLand x1) := nofun

theorem emulationComplete x1 : Statement (.emulationComplete x1) := nofun

theorem copyLineFill x1 : Statement (.copyLineFill x1) := nofun

theorem copyOutLineWrite x1 : Statement (.copyOutLineWrite x1) := nofun

theorem batchComplete x1 : Statement (.batchComplete x1) := nofun

theorem mmaStart x1 : Statement (.mmaStart x1) := nofun

theorem mmaComplete x1 : Statement (.mmaComplete x1) := nofun

theorem epilogueJobStart x1 : Statement (.epilogueJobStart x1) := nofun

theorem epilogueJobComplete x1 : Statement (.epilogueJobComplete x1) := nofun

theorem mrelsFree x1 : Statement (.mrelsFree x1) := nofun

theorem slotStart : Statement .slotStart := nofun

theorem slotEnd : Statement .slotEnd := nofun

theorem writeFlit x1 x2 : Statement (.writeFlit x1 x2) := nofun

theorem getRequest x1 x2 : Statement (.getRequest x1 x2) := nofun

theorem getResponse x1 x2 : Statement (.getResponse x1 x2) := nofun

theorem atomicRequest x1 x2 : Statement (.atomicRequest x1 x2) := nofun

theorem atomicResponse x1 x2 : Statement (.atomicResponse x1 x2) := nofun

theorem poolRequest x1 x2 : Statement (.poolRequest x1 x2) := nofun

theorem poolResponse x1 x2 : Statement (.poolResponse x1 x2) := nofun

theorem acknowledgement x1 x2 : Statement (.acknowledgement x1 x2) := nofun

theorem hint x1 x2 : Statement (.hint x1 x2) := nofun

theorem completion x1 x2 : Statement (.completion x1 x2) := nofun

theorem tagFlit x1 x2 : Statement (.tagFlit x1 x2) := nofun

theorem relayedFlit x1 x2 : Statement (.relayedFlit x1 x2) := nofun

theorem flitDiscard x1 x2 : Statement (.flitDiscard x1 x2) := nofun

theorem ackTimeout x1 x2 : Statement (.ackTimeout x1 x2) := nofun

theorem duplicateSetExpiry x1 x2 x3 : Statement (.duplicateSetExpiry x1 x2 x3) := nofun

theorem flitDrop x1 : Statement (.flitDrop x1) := nofun

theorem lossOfLight x1 x2 : Statement (.lossOfLight x1 x2) := nofun

theorem create : Statement .create := nofun

theorem destroy : Statement .destroy := nofun

theorem ways : Statement .ways := nofun

theorem guest : Statement .guest := nofun

theorem abutmentWrite : Statement .abutmentWrite := nofun

theorem abutmentRewrite : Statement .abutmentRewrite := nofun

theorem keySlotGrant : Statement .keySlotGrant := nofun

theorem keySlotRevokeSeal : Statement .keySlotRevokeSeal := nofun

theorem keySlotRevokeDiscard : Statement .keySlotRevokeDiscard := nofun

theorem allowList : Statement .allowList := nofun

theorem features : Statement .features := nofun

theorem linkKeySlots : Statement .linkKeySlots := nofun

theorem frameRange : Statement .frameRange := nofun

theorem hvCommandComplete : Statement .hvCommandComplete := nofun

theorem getVersion x1 : Statement (.getVersion x1) := nofun

theorem getCapabilities x1 : Statement (.getCapabilities x1) := nofun

theorem negotiateAlgorithms x1 : Statement (.negotiateAlgorithms x1) := nofun

theorem getDigests x1 : Statement (.getDigests x1) := nofun

theorem getCertificate x1 : Statement (.getCertificate x1) := nofun

theorem challenge x1 : Statement (.challenge x1) := nofun

theorem getMeasurements x1 x2 : Statement (.getMeasurements x1 x2) := nofun

theorem keyExchange x1 : Statement (.keyExchange x1) := nofun

theorem finish x1 : Statement (.finish x1) := nofun

theorem endSession x1 : Statement (.endSession x1) := nofun

theorem setKeyGroup x1 x2 : Statement (.setKeyGroup x1 x2) := nofun

theorem setKeyContext x1 x2 x3 : Statement (.setKeyContext x1 x2 x3) := nofun

theorem setKeyStream x1 x2 x3 : Statement (.setKeyStream x1 x2 x3) := nofun

theorem ingressWrite x1 x2 x3 : Statement (.ingressWrite x1 x2 x3) := nofun

theorem ingressRecordVerify x1 x2 : Statement (.ingressRecordVerify x1 x2) := nofun

theorem hostCounterRead x1 x2 : Statement (.hostCounterRead x1 x2) := nofun

theorem powerGood x1 : Statement (.powerGood x1) := nofun

theorem trainingComplete x1 x2 : Statement (.trainingComplete x1 x2) := nofun

theorem trapRecordWrite x1 : Statement (.trapRecordWrite x1) := nofun

theorem cmdResume x1 : Statement (.cmdResume x1) := nofun

theorem cmdEnd x1 : Statement (.cmdEnd x1) := nofun

theorem eventStreamEnable x1 x2 : Statement (.eventStreamEnable x1 x2) := nofun

theorem pcSample x1 x2 : Statement (.pcSample x1 x2) := nofun

theorem clockStep x1 : Statement (.clockStep x1) := nofun

theorem readbackRead : Statement .readbackRead := nofun

theorem readbackWrite : Statement .readbackWrite := nofun

theorem laserModuleReenable : Statement .laserModuleReenable := nofun

theorem illegalInstruction : Statement .illegalInstruction := nofun

theorem tdispInterfaceRequest x1 x2 : Statement (.tdispInterfaceRequest x1 x2) := nofun

end RoundTrip

end Sys2Proof.Laws
end

