-- ==== Sys2Proof/Tests/Slice0.lean ====
section
/-!
SUPPORT. Tests of the model on small states: operand limits, words written out from the spec's encodings, one step of an
instruction, and for each statement a state and operands that meet its hypotheses.
-/

namespace Sys2Proof.Tests

set_option Elab.async false

open Sys2Proof Sys2Proof.Machine Sys2Proof.Claims

/-! ## Helpers -/

/-- Whether an outcome is a next state of which a test holds. -/
def goes (o : Host.Outcome State Fault Refusal) (p : State → Bool) : Bool :=
  match o with
  | .next t => p t
  | _ => false

/-- The hypotheses of `Passes` as a test. -/
def passes (i : Instr) (c : Ctx) (s : State) : Bool :=
  legal s c i && roleOk c i && (!groupWide i || (c.b.broadcast && c.b.mask == liveMask c.g)) && (hazard s c i).isNone &&
    (!operandFaults i || (poisonLanes c i == 0 && !errOperand c i))

theorem passes_of {i : Instr} {c : Ctx} {s : State} (h : passes i c s = true) : Passes i c s := by
  unfold passes at h
  simp only [Bool.and_eq_true] at h
  exact {
    lawful := h.1.1.1.1
    role := h.1.1.1.2
    whole := fun hw => by simpa [hw] using h.1.1.2
    free := Option.isNone_iff_eq_none.1 h.1.2
    clean := fun hp => by
      have h2 := h.2
      simp only [hp, Bool.not_true, Bool.false_or, Bool.and_eq_true, beq_iff_eq] at h2
      exact h2.1
    noErr := fun hp => by
      have h2 := h.2
      simp only [hp, Bool.not_true, Bool.false_or, Bool.and_eq_true, Bool.not_eq_true'] at h2
      exact h2.2 }

theorem ready_of {i : Instr} {c : Ctx} {s : State} (h1 : ctx? s = some c) (h : passes i c s = true) : Ready i c s :=
  ⟨passes_of h, h1⟩

theorem meets_of {i : Instr} {c : Ctx} {s : State} (h1 : ctx? s = some c)
    (h : (converged (metCtx c).g c.b.pc && passes i (metCtx c) (metState c s)) = true) : Meets i c s := by
  rw [Bool.and_eq_true] at h
  exact ⟨h1, h.1, passes_of h.2⟩

/-- Sixteen lanes at the test's instruction: lane k holds k in v1, 4 k in v2, and 1.0 in v3. -/
def lanes0 : List Lane :=
  (List.range 16).map fun k =>
    { placedLane with v := ((placedLane.v.set 1 (BitVec.ofNat 32 k)).set 2 (BitVec.ofNat 32 (4 * k))).set 3 0x3F800000#32 }

/-- A group of them: s1 is the base of the team window, s2 holds 7, s3 holds 5. -/
def group0 : Group :=
  { placedGroup 0 with lanes := lanes0, s := (((Vector.replicate 64 0).set 1 0xFF00000000000000).set 2 7).set 3 5 }

/-- A team with 64 KiB of scratchpad. -/
def team0 : Team := { placedTeam with alloc := 65536, baseA := 0x100000 }

/-- Every lane issues, by the broadcast fetch. -/
def bundle0 : Bundle := { group := 0, pc := placedPc, mask := 0xFFFF, broadcast := true, other := 0, second := false }

/-- A package with one virtual chip in use, whose team has one group. -/
def chip0 : VChip := { VChip.init with used := true, piers := 3, cacheWays := 4 }

def machine (g : Group) (t : Team) : State :=
  { State.reset with groups := [g], teams := [t], bundle := some bundle0, vchips := State.reset.vchips.set 0 chip0, pkgStat := 3 }

def machine0 : State := machine group0 team0

def ctx0 : Ctx := { b := bundle0, g := group0, t := team0, vc := chip0 }

theorem ctx_machine0 : ctx? machine0 = some ctx0 := by rfl

/-- Instructions that pass their checks in the machine of the tests. -/
theorem ready_all {is : List Instr} (h : is.all (passes · ctx0 machine0) = true) : ∀ i ∈ is, Ready i ctx0 machine0 :=
  fun i hi => ready_of ctx_machine0 (List.all_eq_true.1 h i hi)

theorem meets_all {is : List Instr}
    (h : is.all (fun i => converged (metCtx ctx0).g ctx0.b.pc && passes i (metCtx ctx0) (metState ctx0 machine0)) = true) :
    ∀ i ∈ is, Meets i ctx0 machine0 :=
  fun i hi => meets_of ctx_machine0 (List.all_eq_true.1 h i hi)

/-! ## The hypotheses of the statements are met -/

/-- The scalar instructions, with s0, the highest register, and a register that is its own source. -/
theorem witness_ScalarResults : ∀ i ∈ ([.sadd 3 2 4, .sadd 2 2 2, .ssub 3 2 0, .smul 0 63 2 4, .smul 1 3 2 4, .smul 2 3 2 4, .saddi 0xFFF 2 4,
    .sand 3 2 4, .sor 3 2 4, .sxor 3 2 4, .sandn 3 2 4, .sshl 3 2 4, .sshr 3 2 4, .ssra 3 2 63, .smin 0 3 2 4, .smin 1 3 2 4,
    .smax 0 3 2 4, .smax 1 3 2 4, .scmp 0 3 2 4, .scmp 5 3 2 4, .smovi 0xFFFF 3 4, .slane 15 1 4, .slane 0 1 0] : List Instr),
    Ready i ctx0 machine0 := ready_all (by decide +kernel)

theorem witness_SpecialRegisterResults : ∀ i ∈ ([.srd 0x001 4, .srd 0x002 0, .srd 0x003 4, .srd 0x004 4, .srd 0x008 4, .srd 0x00C 4,
    .srd 0x018 4, .srd 0x019 4, .srd 0x020 4, .srd 0x022 4, .srd 0x023 4, .srd 0x030 4, .srd 0x031 4, .srd 0x040 4, .srd 0x041 4, .srd 0x042 4,
    .srd 0x049 4, .srd 0x04B 4, .srd 0x050 63, .swr 0x040 2, .swr 0x041 2, .swr 0x042 2, .swr 0x048 2, .swr 0x049 2, .swr 0x04B 2] : List Instr),
    Ready i ctx0 machine0 := ready_all (by decide +kernel)

theorem witness_AddResultsInEveryForm : ∀ i ∈ ([.add 0 7 2 1 4, .add 1 3 1 1 1, .addi 0 0x100 1 63, .addi 7 0x0FF 1 4, .addCompact 31 31,
    .addCompactImm 16 4] : List Instr), Ready i ctx0 machine0 := ready_all (by decide +kernel)

theorem witness_VectorIntegerResults : ∀ i ∈ ([.sub 0 7 2 1 4, .mul 0 7 2 1 4, .mulhi 0 0 7 2 1 4, .mulhi 1 0 7 2 1 4, .mad 0 7 2 1 1,
    .min 0 0 7 2 1 4, .min 1 0 7 2 1 4, .max 0 0 7 2 1 4, .max 1 0 7 2 1 4, .and 0 7 2 1 4, .or 0 7 2 1 4, .xor 0 7 2 1 4, .andn 0 7 2 1 4,
    .shl 0 7 2 1 4, .shr 0 7 2 1 4, .sra 0 7 2 1 4, .shli 7 31 1 4, .shri 7 31 1 4, .abs 0 7 1 4, .neg 0 7 1 4, .clz 0 7 0 4, .clz 0 7 1 4,
    .popc 0 7 1 4, .brev 1 0 1 4, .subCompact 1 2, .mulCompact 1 2, .minI32Compact 1 2, .maxI32Compact 1 2, .andCompact 1 2, .orCompact 1 2,
    .xorCompact 1 2, .shlCompact 1 2, .shrCompact 1 2, .movCompact 1 2, .subCompactImm 31 2, .andCompactImm 16 2, .orCompactImm 15 2,
    .xorCompactImm 1 2, .shlCompactImm 31 2, .shrCompactImm 31 2, .movCompactImm 16 2] : List Instr), Ready i ctx0 machine0 :=
  ready_all (by decide +kernel)

theorem witness_FieldDotAndConversionResults : ∀ i ∈ ([.bfe 0 0 7 2 1 4, .bfe 1 0 7 2 1 4, .bfi 0 7 2 1 4, .dot4 0 0 7 2 1 4, .dot4 1 0 7 2 1 4,
    .dot4 2 0 7 2 1 4, .cvt 0 0 7 1 4, .cvt 1 0 7 1 4, .cvt 2 0 7 1 4, .cvt 3 0 7 1 4] : List Instr), Ready i ctx0 machine0 :=
  ready_all (by decide +kernel)

theorem witness_PlaneGathersAndScatters : ∀ i ∈ ([.plane 0 0 7 0 1 4, .plane 0 1 3 31 1 4, .plane 1 0 7 0 1 1, .plane 1 0 7 31 1 4] : List Instr),
    Ready i ctx0 machine0 := ready_all (by decide +kernel)

theorem witness_MoveAndLaneResults : ∀ i ∈ ([.mov 0 7 1 4, .movs 0 2 4, .movs 1 1 4, .sel 0 7 2 1 4, .sel 1 3 2 1 4, .lrd 7 0x000 4,
    .lrd 7 0x010 4, .lrd 7 0x011 4, .lrd 7 0x04A 62, .perm 0 7 3 2 1] : List Instr), Ready i ctx0 machine0 := ready_all (by decide +kernel)

theorem witness_PredicateResults : ∀ i ∈ ([.cmp 0 0 7 2 1 3, .cmp 3 0 7 2 1 7, .cmpn 1 0 7 2 1 0, .cmpn 2 1 1 2 1 1, .pand 0 7 2 1 3,
    .por 0 7 2 1 7, .pnot 0 7 2 2] : List Instr), Ready i ctx0 machine0 := ready_all (by decide +kernel)

/-- The float instructions, with every exception's trap off. -/
def floats : List Instr :=
  [.fadd 0 7 2 3 4, .fsub 0 7 2 3 4, .fmul 0 7 2 3 4, .ffma 0 7 2 3 4, .fmin 0 7 2 3 4, .fmax 0 7 2 3 4, .fdiv 0 7 2 3 4, .frcp 0 7 3 4,
   .frsq 0 7 3 4, .fsqrt 0 7 3 4, .faddCompact 3 4, .fmulCompact 3 4, .fsubCompact 3 4, .fmaxCompact 3 4, .fminCompact 3 4,
   .fcvt 0 0 7 3 4, .fcvt 1 0 7 3 4, .fcvt 2 0 7 3 4, .fcvt 3 0 7 3 4, .ncvt 0 0 7 3 0 3 4, .ncvt 0 0 7 3 1 3 4, .ncvt 0 0 7 7 2 3 4,
   .ncvt 1 0 7 3 0 3 4, .ncvt 1 0 7 7 2 3 4, .icvtF32ToInt 0 0 7 0 3 4, .icvtF32ToInt 1 0 7 4 3 4, .icvtIntToF32 0 0 7 3 4,
   .icvtIntToF32 1 0 7 3 4, .frnd 0 7 4 3 4, .fscl 0 7 1 3 4, .fexp2 0 7 3 4, .flog2 0 7 3 4, .fsin 0 7 3 4, .fcos 0 7 3 4, .fcmp 0 0 7 2 3 1,
   .fcmp 1 0 7 2 3 1, .fcmp 2 0 7 2 3 1, .fcmp 3 0 7 2 3 7]

theorem floats_ready : ∀ i ∈ floats, Ready i ctx0 machine0 := ready_all (by decide +kernel)

/-- No exception of theirs is enabled, whatever it is. -/
theorem no_float_traps (i : Instr) (f : Lane → BitVec 5) (k : Nat) : ¬Traps ctx0 i f k := by
  rintro ⟨-, -, j, -, -, h⟩
  have h0 : ctx0.g.fpctl = 0 := rfl
  simp [h0] at h

/-- A machine whose v5 holds a signalling NaN, with the invalid operation's trap enabled. -/
def trapping : Group :=
  { group0 with fpctl := 0x100, lanes := lanes0.map fun l => { l with v := l.v.set 5 0x7F800001 } }

def ctxTrap : Ctx := { ctx0 with g := trapping }

theorem witness_FloatArithmeticActs : (∀ i ∈ floats, Ready i ctx0 machine0) ∧ Ready (.fadd 0 7 5 3 4) ctxTrap (machine trapping team0) ∧
    Traps ctxTrap (.fadd 0 7 5 3 4)
      (fun l => (fAddV f32 (envOf trapping) (operand (envOf trapping) (readV l 3)) (operand (envOf trapping) (readV l 5))).flags) 15 :=
  ⟨floats_ready, ready_of rfl (by decide +kernel), by decide +kernel, by decide +kernel, 0, by decide, by decide +kernel, by decide +kernel⟩

theorem witness_FloatConversionActs : (∀ i ∈ floats, Ready i ctx0 machine0) ∧ Ready (.fcmp 1 0 7 5 3 1) ctxTrap (machine trapping team0) ∧
    Traps ctxTrap (.fcmp 1 0 7 5 3 1)
      (fun l => (fCmp 1 (operand (envOf trapping) (readV l 3)) (operand (envOf trapping) (readV l 5))).2) 0 :=
  ⟨floats_ready, ready_of rfl (by decide +kernel), by decide +kernel, by decide +kernel, 0, by decide, by decide +kernel, by decide +kernel⟩

theorem witness_FloatBitMoves : ∀ i ∈ ([.fabs 0 7 3 4, .fneg 0 7 3 3, .fcpys 0 7 2 3 4, .fclass 0 7 3 4] : List Instr),
    Ready i ctx0 machine0 := ready_all (by decide +kernel)

theorem witness_FloatControlRoundingAndSpecials :
    isSnan (unpack f32 false 0x7F800001) = true ∧ isNan (unpack f64 false 0x7FF8000000000000) = true ∧
    isSnan (unpack f64 false 0x7FF8000000000000) = false ∧ unpack f32 false 0x80000001 = .fin true 1 (-149) ∧
    unpack f16 false 0x7BFF = .fin false 2047 5 := by decide +kernel

/-- A third in binary32, between 2^−2 and 2^−1; the least number that overflows; and one below the least normal number. -/
theorem witness_FloatControlRoundingAndSpecials_rounding :
    ((0 : ℝ) < 1 / 3 ∧ 2 ^ f32.mbits * (2 : ℝ) ^ (-25 : Int) ≤ 1 / 3 ∧ (1 : ℝ) / 3 < 2 ^ (f32.mbits + 1) * (2 : ℝ) ^ (-25 : Int) ∧
      RoundedTo .nearest false (1 / 3) (-25) 11184811) ∧
    (2 ^ f32.mbits * (2 : ℝ) ^ (105 : Int) ≤ 2 ^ 128 ∧ (2 : ℝ) ^ 128 < 2 ^ (f32.mbits + 1) * (2 : ℝ) ^ (105 : Int) ∧
      RoundedTo .zero true (2 ^ 128) 105 8388608 ∧ (2 : ℝ) ^ (2 ^ (f32.ebits - 1)) ≤ (8388608 : Nat) * (2 : ℝ) ^ (105 : Int)) ∧
    (2 ^ f32.mbits * (2 : ℝ) ^ (-150 : Int) ≤ 2 ^ (-127 : Int) ∧ (2 : ℝ) ^ (-127 : Int) < 2 ^ (f32.mbits + 1) * (2 : ℝ) ^ (-150 : Int) ∧
      RoundedTo .up false (2 ^ (-127 : Int)) (-150) 8388608 ∧ RoundedTo .up false (2 ^ (-127 : Int)) (-149) 4194304 ∧
      ((8388608 : Nat) : ℝ) * 2 ^ (-150 : Int) < 2 ^ (2 - 2 ^ (f32.ebits - 1) : Int)) := by
  simp only [RoundedTo, f32, reduceCtorEq]
  norm_num [abs_le]

/-- Two and a half rounds to two whole ones, −0.5 to none; a scale of an NF8 number within its range; and the narrow codes' limits. -/
theorem witness_FloatControlRoundingAndSpecials_conversions :
    (RoundedTo .nearest false (realOf false 5 (-1)) 0 2 ∧ RoundedTo .zero true (realOf false 1 (-1)) 0 0) ∧
    (operand plainEnv 0x40200000 = .fin false 10485760 (-22) ∧ operand plainEnv 0x7F800001 = .nan true ∧ operand plainEnv 0xFF800000 = .inf true ∧
      operand plainEnv 0x80000000 = .fin true 0 (-149) ∧ operand plainEnv 0x43000000 = .fin false 8388608 (-16)) ∧
    (2 ^ 3 * (2 : ℝ) ^ (-3 : Int) ≤ realOf false 5 (-2) ∧ realOf false 5 (-2) < 2 ^ (3 + 1) * (2 : ℝ) ^ (-3 : Int) ∧
      RoundedTo .nearest false (realOf false 5 (-2)) (-3) 10) ∧
    (128 ≤ realOf false 8388608 (-16) ∧ realOf false 8388608 (-16) = 2 ^ (7 : Int) ∧ realOf true 3 0 = ((-3 : Int) : ℝ)) := by
  refine ⟨?_, by decide +kernel, ?_, ?_⟩ <;> simp only [RoundedTo, realOf, reduceCtorEq] <;> norm_num [abs_le]

/-- A group parked at `DADD`, and one parked at `DSQRT` of a negative number with the invalid operation's trap enabled. -/
def parkedAt (i : Instr) (g : Group) : Group := { g with emul := some i, emulMask := 0xFFFF, wait := .emulation, stall := .emulation }

def negatives : Group := { group0 with fpctl := 0x100, lanes := lanes0.map fun l => { l with v := l.v.set 7 0xBFF00000 } }

theorem witness_Fp64Results :
    (∀ i ∈ ([.dadd 0 7 4 2 6, .dsub 0 7 4 2 6, .dmul 0 7 4 2 6, .dfma 0 7 4 2 6, .ddiv 0 7 4 2 6, .dsqrt 0 7 2 6, .dcvt 0 0 7 2 63,
      .dcvt 1 0 7 3 62] : List Instr), Ready i ctx0 machine0) ∧
    (emulCtx (machine (parkedAt (.dadd 0 7 4 2 6) group0) team0) 0).isSome = true ∧
    (∃ c, emulCtx (machine (parkedAt (.dsqrt 0 7 6 8) negatives) team0) 0 = some (.dsqrt 0 7 6 8, c) ∧
      Traps c (.dsqrt 0 7 6 8) (fun l => (fSqrtV f64 (envOf c.g) (operand64 (envOf c.g) l 6)).flags) 3) :=
  ⟨ready_all (by decide +kernel), by decide +kernel, _, rfl, by decide +kernel, by decide +kernel, 0, by decide, by decide +kernel, by decide +kernel⟩

/-! ### Encoding, fetching and the checks before an entry -/

theorem witness_EncodedInstructionsDecodeBack : encode (.add 0 7 5 3 3) = some [0x21, 0xC3, 0x50, 0x1C] ∧
    encode (.fmulCompact 9 4) = some [0x92, 0x24] := by decide

theorem witness_DecodedWordsAreExact : decode [0x21, 0xC3, 0x50, 0x1C, 0xFF] = .ok (.add 0 7 5 3 3, 4) := by decide

/-- A compact unit that is an instruction, one with I = 1 and cop 8, and the first and the last MAJ without a row. -/
theorem witness_LengthsAndIllegalMajors : decode [0x92, 0x24] = .ok (.fmulCompact 9 4, 2) ∧
    ((0x80 : Byte).getLsbD 7 = true ∧ (0x10 : Byte).getLsbD 4 = true ∧ (0x10 : Byte).getLsbD 0 = false) ∧
    (0xC1 : Byte).getLsbD 0 = true ∧ 0x60 ≤ (0xC1 : Byte).toNat / 2 ∧ 0x60 ≤ (0xFF : Byte).toNat / 2 := by decide

/-- The placed word of `ADD`, and of a word that is no instruction; the same place without a translation; a group whose lanes 8 to 15
stand in their loop buffers ahead of the others; an event. -/
def placed (w : Nat) : State := State.reset.withFetchWord 32 w

def looping : Group :=
  { placedGroup 0 with
    loops := [0xFF00]
    lanes := List.replicate 8 placedLane ++ List.replicate 8
      { placedLane with pc := placedPc + 4, loop := [(placedPc + 4, 0xC321), (placedPc + 6, 0x1C50)] } }

/-- A bundle that is not fused. -/
def loneBundle (n : Nat) (m : Mask) (pc : DWord) (b : Bool) : Bundle := { group := n, pc := pc, mask := m, broadcast := b, other := 0, second := false }

/-- Bytes fetched that decode, that do not, and a fetch that fails, by broadcast; and the same instruction from a loop buffer. -/
theorem witness_StepRunsTheDecodedInstruction :
    (Takes (placed 0x1C50C321) (.issue 0 none) [] ∧
      inputBundle (begun (placed 0x1C50C321) (.issue 0 none) []) 0 none = some (loneBundle 0 0xFFFF placedPc true) ∧
      fusedWith (begun (placed 0x1C50C321) (.issue 0 none) []) (loneBundle 0 0xFFFF placedPc true) = none ∧
      (begun (placed 0x1C50C321) (.issue 0 none) []).groups[0]? = some (placedGroup 0) ∧ (begun (placed 0x1C50C321) (.issue 0 none) []).teams[0]? = some placedTeam) ∧
    (∃ u bs, fetchBytes (begun (placed 0x1C50C321) (.issue 0 none) []) 0 (teamDie placedTeam) placedPc = (u, .ok bs) ∧ decode bs = .ok (.add 0 7 5 3 3, 4)) ∧
    (∃ u bs, fetchBytes (begun (placed 0xFFFFFFFF) (.issue 0 none) []) 0 (teamDie placedTeam) placedPc = (u, .ok bs) ∧
      decode bs = .error (.majorUnassigned 0x7F)) ∧
    (∃ u, fetchBytes (begun { placed 0 with tlb := [] } (.issue 0 none) []) 0 (teamDie placedTeam) placedPc = (u, .error 0x05)) ∧
    (let s := { placed 0 with groups := [looping], inputs := [.issue 0 (some 0)] }
     Takes s (.issue 0 (some 0)) [] ∧ inputBundle (begun s (.issue 0 (some 0)) []) 0 (some 0) = some (loneBundle 0 0xFF00 (placedPc + 4) false) ∧
      fusedWith (begun s (.issue 0 (some 0)) []) (loneBundle 0 0xFF00 (placedPc + 4) false) = none ∧
      ∃ l, looping.lanes.find? (fun l => l.pc == placedPc + 4 && (loopInstr l).isSome) = some l ∧
        loopFetch (begun s (.issue 0 (some 0)) []) 0 (teamDie placedTeam) l (placedPc + 4) = some (.ok [0x21, 0xC3, 0x50, 0x1C])) :=
  ⟨⟨⟨rfl, rfl, rfl⟩, by decide +kernel, by decide +kernel, rfl, rfl⟩, ⟨_, _, rfl, by decide +kernel⟩, ⟨_, _, rfl, by decide +kernel⟩, ⟨_, rfl⟩,
    ⟨rfl, rfl, rfl⟩, by decide +kernel, by decide +kernel, _, rfl, rfl⟩

/-- Two groups, each with half of its lanes at the placed instruction, fused there; and loads of theirs that are on the way. -/
def halfGroup (n : Nat) (m : Mask) (f : Fusion) (ls : List Load) : Group :=
  { placedGroup 0 with
    num := n, fused := [f], loads := ls
    lanes := mapFrom (fun k l => { l with st := if has m k then LaneState.running else .exited }) 0 (placedGroup 0).lanes }

def pairedState (a b : List Load) : State :=
  { placed 0x1C50C321 with
    groups := [halfGroup 0 0x00FF { own := 0x00FF, partner := 1, other := 0xFF00 } a, halfGroup 1 0xFF00 { own := 0xFF00, partner := 0, other := 0x00FF } b] }

/-- A load of v5 that is on the way in a lane. -/
def coming (k : Nat) : List Load := [{ lane := k, reg := 5, data := 0, pois := false, ready := false, acq := false, more := false }]

def half0 : Bundle := loneBundle 0 0x00FF placedPc true

def half1 : Bundle := loneBundle 1 0xFF00 placedPc true

theorem witness_StepRunsTheDecodedInstruction_fused :
    (∀ x ∈ ([([], []), (coming 3, []), ([], coming 12)] : List (List Load × List Load)), let s := pairedState x.1 x.2
      inputBundle (begun s (.issue 0 none) []) 0 none = some half0 ∧ fusedWith (begun s (.issue 0 none) []) half0 = some half1) ∧
    (let u := begun (pairedState [] []) (.issue 0 none) []
     getsOn u half0 (attempt u half0) = true ∧ getsOn (attempt u half0) half1 (attempt (attempt u half0) half1) = true) ∧
    (let u := begun (pairedState (coming 3) []) (.issue 0 none) []
     getsOn u half0 (attempt u half0) = false) ∧
    (let u := begun (pairedState [] (coming 12)) (.issue 0 none) []
     getsOn u half0 (attempt u half0) = true ∧ getsOn (attempt u half0) half1 (attempt (attempt u half0) half1) = false) ∧
    (let s := { pairedState [] [] with second := some { half1 with other := 0x00FF, second := true } }
     bundleWith { s with second := none } 1 0xFF00 = some half1) := by
  decide +kernel

/-- An event; a sample and a regroup that are due; and a clock that passes. -/
theorem witness_StepRunsTheDecodedInstruction_events :
    (Takes { State.reset with inputs := [.event .slotEnd] } (.event .slotEnd) [] ∧ encode .slotEnd = none ∧
      waitsBehind (begun { State.reset with inputs := [.event .slotEnd] } (.event .slotEnd) []) .slotEnd = none) ∧
    (let s := { machine0 with acted := true, vchips := State.reset.vchips.set 0 { chip0 with smpEn := true } }
     s.second = none ∧ dueSample s = some (.pcSample 0 0)) ∧
    (let s := { machine0 with acted := true }
     s.second = none ∧ dueSample s = none ∧ dueRegroup s = some (.regroup 0 0)) ∧
    (let s := { State.reset with acted := true }
     s.second = none ∧ dueSample s = none ∧ dueRegroup s = none) :=
  ⟨⟨⟨rfl, rfl, rfl⟩, by decide +kernel, by decide +kernel⟩, ⟨rfl, by decide +kernel⟩, ⟨rfl, by decide +kernel, by decide +kernel⟩,
    ⟨rfl, by decide +kernel, by decide +kernel⟩⟩

/-- A leaf held in die 0 for the page of the placed words, and a loop buffer that holds a unit at an address. -/
def leaf0 (log : Nat) (entry : DWord) : TlbEntry := { die := 0, vc := 0, page := 0x100, log := log, entry := entry, table := none }

def unitAt (a : DWord) : Lane := { placedLane with loop := [(a, 0xFCEE)] }

/-- An odd address, one that is not canonical, one without a translation, a page that is not executable, each with a unit in a loop buffer;
and a word with p7 negated. -/
theorem witness_FetchAndLegalityFaults : (placedPc + 1).getLsbD 0 = true ∧
    (canonical 0x8000000000000000 = false ∧ (loopBytes (unitAt 0x8000000000000000) 0x8000000000000000).isSome = true) ∧
    (canonical 0x200000 = true ∧ topByte 0x200000 = 0 ∧ Machine.translate (placed 0) 0 0x200000 0 = none ∧
      (loopBytes (unitAt 0x200000) 0x200000).isSome = true) ∧
    (∃ l, Machine.translate { placed 0 with tlb := [leaf0 0 0x243] } 0 placedPc 0 = some l ∧
      protectionFails (placed 0) 0 l.entry { bytes := 2, fetch := true } = true ∧ (loopBytes (unitAt placedPc) placedPc).isSome = true) ∧
    (ctx? machine0 = some ctx0 ∧ (encode (.add 1 7 5 3 3)).isSome = true ∧ legal machine0 ctx0 (.add 1 7 5 3 3) = false) ∧
    groupWide (.add 1 7 5 3 3) = false :=
  ⟨by decide, by decide, by decide +kernel, ⟨_, rfl, by decide +kernel, by decide +kernel⟩, ⟨ctx_machine0, by decide +kernel⟩, by decide⟩

/-- Two groups of one bay, the second of higher priority, both at the placed instruction. -/
def rivals : State :=
  { placed 0x1C50C321 with groups := [{ group0 with lanes := group0.lanes.map fun l => { l with waits := 1023 } }, { group0 with num := 1, prio := 5 }] }

theorem witness_ReadyBundleOfHighestPriorityIsNext :
    (nextBundle rivals 0 (freeBundles (tries rivals)) = some { bundle0 with group := 1 } ∧ ReadyBundle rivals bundle0 ∧
      slotOfBundle rivals bundle0 = slotOfBundle rivals { bundle0 with group := 1 }) ∧
    (fusedWith rivals bundle0 = none ∧ (rivals.groups.all fun g => g.lanes.all fun l => decide (l.waits < 1024) && !l.boosted) = true ∧
      fusedWith (pairedState [] []) half0 = some half1) := by
  unfold ReadyBundle
  decide +kernel

theorem witness_ResetMemoryIsCanonical : Safe State.reset := show memWf _ = true by decide

theorem witness_EveryStepKeepsMemoryCanonical : Safe (placed 0x1C50C321) ∧ (goes (step (placed 0x1C50C321)) fun _ => true) = true :=
  ⟨show memWf _ = true by decide +kernel, by decide +kernel⟩

/-- A vector group at `CSEAL`; `CSEAL` away from the broadcast fetch, and without one of its live lanes; a register with a pending token;
a poisoned register; and a register that holds a token with ERR. -/
def vectors : Group := { group0 with role := .vector }

def fewer : Bundle := { bundle0 with mask := 0x7FFF }

def token : Group := { group0 with tokens := [(2, .batch 1)] }

theorem witness_ChecksBeforeAnEntryAndIssueRights :
    (legal machine0 ctx0 .cseal = true ∧ roleOk { ctx0 with g := vectors } .cseal = false) ∧
    (groupWide .cseal = true ∧ ctx? { machine0 with bundle := some { bundle0 with broadcast := false } } =
      some { ctx0 with b := { bundle0 with broadcast := false } }) ∧
    fewer.mask ≠ liveMask group0 ∧
    hazard (machine token team0) { ctx0 with g := token } (.sadd 3 2 4) = some .token ∧
    (operandFaults (.add 0 7 2 1 4) = true ∧ hazard machine0 ctx0 (.add 0 7 2 1 4) = none ∧
      poisonLanes { ctx0 with g := { group0 with lanes := lanes0.map fun l => { l with vpois := 2 } } } (.add 0 7 2 1 4) ≠ 0) ∧
    errOperand { ctx0 with g := { group0 with errTok := 4 } } (.sadd 3 2 4) = true ∧
    roleOk ctx0 (.mma 0 8) = true ∧ roleOk { ctx0 with t := { team0 with holdsA := false } } (.mma 0 8) = false :=
  ⟨by decide +kernel, ⟨by decide, rfl⟩, by decide +kernel, by decide +kernel, by decide +kernel, by decide +kernel, by decide +kernel, by decide +kernel⟩

/-- R343: of the lanes with a poisoned data register the lowest gives ADDR; R443: a scalar access gives its one address. -/
theorem test_poison_address :
    poisonAddr { ctx0 with g := { group0 with lanes := lanes0.mapIdx fun k l => { l with v := l.v.set 2 (BitVec.ofNat 32 (4 * k)) } } }
      (.st 0 0 2 1 5) 0xFFF0 = 0xFF00000000000010 ∧
    poisonAddr ctx0 (.sst 3 0 0 3 1 5) 0xFFFF = 0xFF00000000000018 ∧ poisonAddr ctx0 (.add 0 7 2 1 4) 0xFFFF = 0 := by
  decide +kernel

/-! ### Lane, group and control instructions -/

theorem witness_ConvergentInstructionsHold : Convergent (.elect 1) ∧
    ctx? { machine0 with bundle := some fewer } = some { ctx0 with b := fewer } ∧ legal machine0 { ctx0 with b := fewer } (.elect 1) = true ∧
    converged (metCtx { ctx0 with b := fewer }).g placedPc = false :=
  ⟨.inr (.inr (.inr (.inr (.inr (.inr (.inl ⟨1, rfl⟩)))))), rfl, by decide +kernel, by decide +kernel⟩

theorem witness_ShuffleVoteAndElectResults : ∀ i ∈ ([.shfl 0 1 2 4, .shfl 1 1 2 4, .shfl 2 1 2 4, .shfl 3 1 2 4, .matchLanes 0 1 4,
    .matchLanes 1 1 4, .gsync, .vote 0 1 2, .vote 1 7 7, .elect 3, .voteBallot 1 4, .voteBallot 7 0] : List Instr), Meets i ctx0 machine0 :=
  meets_all (by decide +kernel)

/-- Lanes whose v5 is a signalling NaN, with the invalid operation's trap enabled; no operation takes it as a value. -/
theorem witness_ReductionResults :
    (∀ i ∈ ([.redux 0 0 1 4, .redux 1 1 1 4, .redux 2 2 3 4, .scan 0 0 0 1 4, .scan 1 1 2 3 4] : List Instr), Meets i ctx0 machine0) ∧
    Meets (.redux 0 2 5 4) ctxTrap (machine trapping team0) ∧
    runs (metCtx ctxTrap) 0 ∧ (tree (combine 0 2 (envOf trapping)) (leaf (metCtx ctxTrap) 5) 6 0).2.getLsbD 0 = true ∧
    (metCtx ctxTrap).g.fpctl.getLsbD 8 = true ∧
    has ctx0.b.mask 15 = true :=
  ⟨meets_all (by decide +kernel), meets_of rfl (by decide +kernel), ⟨by decide +kernel, by decide +kernel⟩, by decide +kernel, by decide +kernel,
    by decide⟩

/-- s2 is 7, an odd target; s3 is made even. -/
def targets : Group := { group0 with s := group0.s.set 3 0x100010 }

theorem witness_BranchResults : (∀ i ∈ ([.bra 0x1FFF 0 7, .bra 0 1 3, .sbra 0xFFF 2 0, .sbra 1 0 1, .jmp 2] : List Instr), Ready i ctx0 machine0) ∧
    (readS ctx0.g 2).toNat % 2 = 1 ∧ Ready (.jmp 3) { ctx0 with g := targets } (machine targets team0) ∧ (readS targets 3).toNat % 2 = 0 :=
  ⟨ready_all (by decide +kernel), by decide +kernel, ready_of rfl (by decide +kernel), by decide +kernel⟩

/-- One lane alone acts: its four entries are in use, and `%stack` stands at the top of, or below the limit of, or outside the stack. -/
def deep (top : DWord) (d : Nat) (c : DWord) : Group :=
  { group0 with
    stacklim := 0xFF00000000000100
    lanes := lanes0.set 0 { placedLane with d := d, stack := top, c := c, rs := #v[0x100100, 0x100200, 0x100300, 0x100400] } }

def alone : Bundle := { bundle0 with mask := 1 }

def aloneCtx (g : Group) : Ctx := { ctx0 with b := alone, g := g }

def aloneState (g : Group) : State := { machine g team0 with bundle := some alone }

theorem witness_CallAndReturnResults :
    (∀ i ∈ ([.call 0x100 0 7, .callv 0 3] : List Instr), Ready i (aloneCtx targets) (aloneState targets)) ∧
    (∀ i ∈ ([.call 0x100 0 7, .callv 0 3] : List Instr),
      Ready i (aloneCtx (deep 0xFF00000000000800 4 0)) (aloneState (deep 0xFF00000000000800 4 0))) ∧
    (acting (aloneCtx (deep 0xFF00000000000800 4 0)) (.call 0x100 0 7) = bit64 0 ∧ (0xFF00000000000100 : DWord).toNat ≤ (0xFF00000000000800 - 8 : DWord).toNat ∧
      copyHeld (aloneState (deep 0xFF00000000000800 4 0)) (aloneCtx (deep 0xFF00000000000800 4 0)) [(0xFF00000000000800 - 8, 8)] = false) ∧
    (0xFF00000000000100 - 8 : DWord).toNat < (deep 0xFF00000000000100 4 0).stacklim.toNat ∧
    addrCheck (aloneState group0) team0 (0xFF00000000000104 - 8) { bytes := 8, write := true } = some (4, 0x07) ∧
    (laneAddr (aloneCtx group0) 2 0 0).getLsbD 0 = true ∧
    Ready (.ret 0 7) (aloneCtx (deep 0 1 0)) (aloneState (deep 0 1 0)) ∧ Ready (.ret 0 7) (aloneCtx (deep 0 4 0)) (aloneState (deep 0 4 0)) ∧
    Ready (.ret 0 7) (aloneCtx (deep 0xFF00000000000800 0 1)) (aloneState (deep 0xFF00000000000800 0 1)) ∧
    Ready (.ret 0 7) (aloneCtx (deep 0xFF00000000000800 0 0)) (aloneState (deep 0xFF00000000000800 0 0)) ∧
    (poisonedAt (aloneState group0) (teamKey team0 0x800) 8 = false ∧ (lineAt (aloneState group0) (teamKey team0 0x800)).err = false) ∧
    acting (aloneCtx group0) (.ret 0 7) = bit64 0 :=
  ⟨fun i hi => ready_of rfl (List.all_eq_true.1 (by decide +kernel : List.all _ fun i => passes i (aloneCtx targets) (aloneState targets)) i hi),
    fun i hi => ready_of rfl (List.all_eq_true.1
      (by decide +kernel : List.all _ fun i => passes i (aloneCtx (deep 0xFF00000000000800 4 0)) (aloneState (deep 0xFF00000000000800 4 0))) i hi),
    by decide +kernel, by decide +kernel, by decide +kernel, by decide +kernel, ready_of rfl (by decide +kernel), ready_of rfl (by decide +kernel),
    ready_of rfl (by decide +kernel), ready_of rfl (by decide +kernel), by decide +kernel, by decide +kernel⟩

/-- Two lanes act: each has four entries on chip and an entry of its own at `%stack`. -/
def deepLane (off : Nat) (d : Nat) (n : DWord) : Lane :=
  { placedLane with d := d, c := n, stack := 0xFF00000000000000 + BitVec.ofNat 64 off, rs := #v[0x100100, 0x100200, 0x100300, 0x100400] }

def deepPair (l0 l1 : Lane) : Group := { group0 with stacklim := 0xFF00000000000100, lanes := (lanes0.set 0 l0).set 1 l1 }

def pair : Bundle := { bundle0 with mask := 3 }

def pairCtx (g : Group) : Ctx := { ctx0 with b := pair, g := g }

def pairMachine (g : Group) : State := { machine g team0 with bundle := some pair }

def spillers : Group := deepPair (deepLane 0x800 4 0) (deepLane 0x900 4 0)

/-- Lanes whose pushes fail, the second alone; whose returns come from chip and from the stack; whose stacks are empty; and of which the
second's entry is odd. -/
def overflowing : Group := deepPair (deepLane 0x800 4 0) (deepLane 0x100 4 0)

def returning : Group := deepPair (deepLane 0x800 1 0) (deepLane 0x800 0 1)

def emptied : Group := deepPair (deepLane 0x800 1 0) (deepLane 0x800 0 0)

def oddSecond : Group := deepPair (deepLane 0x800 1 0) { deepLane 0x800 1 0 with rs := #v[0x100101, 0, 0, 0] }

theorem slot_of (c : Ctx) (off : Nat) (h : off % 8 = 0 ∧ off + 8 ≤ c.t.alloc ∧ off < 2 ^ 24) :
    StackSlot c (0xFF00000000000000 + BitVec.ofNat 64 off) off := ⟨rfl, h⟩

theorem witness_CallAndReturnResults_lanes :
    (∀ i ∈ ([.call 0x100 0 7, .callv 0 3] : List Instr), passes i (pairCtx spillers) (pairMachine spillers) = true ∧
      passes i (pairCtx overflowing) (pairMachine overflowing) = true) ∧
    ctx? (pairMachine spillers) = some (pairCtx spillers) ∧ ctx? (pairMachine overflowing) = some (pairCtx overflowing) ∧
    (StackSlot (pairCtx spillers) ((laneAt spillers 0).stack - 8) 0x7F8 ∧ StackSlot (pairCtx spillers) ((laneAt spillers 1).stack - 8) 0x8F8 ∧
      teamKey team0 0x7F8 + 8 ≤ teamKey team0 0x8F8 ∧ unstarted (pairMachine spillers) 0 spillers = []) ∧
    LowestThat (pairCtx overflowing) (acting (pairCtx overflowing) (.call 0x100 0 7))
      (fun k => ∃ r, PushFails (pairMachine overflowing) (pairCtx overflowing) k r) 1 ∧
    PushFails (pairMachine overflowing) (pairCtx overflowing) 1 0x0F ∧
    LowestThat (pairCtx group0) 3 (fun k => (laneAddr (pairCtx group0) 2 0 k).getLsbD 0 = true) 0 := by
  have hp : PushFails (pairMachine overflowing) (pairCtx overflowing) 1 0x0F := ⟨by decide +kernel, .inl ⟨by decide +kernel, rfl⟩⟩
  refine ⟨by decide +kernel, rfl, rfl, ⟨slot_of _ 0x7F8 (by decide), slot_of _ 0x8F8 (by decide), by decide +kernel, by decide +kernel⟩,
    ⟨by decide +kernel, by decide +kernel, ⟨_, hp⟩, fun k hk _ => ?_⟩, hp, by decide +kernel, by decide +kernel, by decide +kernel, by simp⟩
  obtain rfl : k = 0 := by omega
  rintro ⟨r, -, ⟨h, -⟩ | ⟨-, st, h⟩⟩
  · exact absurd h (by decide +kernel)
  · exact absurd (h.symm.trans (by decide +kernel : addrCheck (pairMachine overflowing) team0 ((laneAt overflowing 0).stack - 8)
      { bytes := 8, write := true } = none)) (by simp)

theorem witness_CallAndReturnResults_returns :
    (∀ g ∈ ([returning, emptied, oddSecond] : List Group), ctx? (pairMachine g) = some (pairCtx g) ∧ passes (.ret 0 7) (pairCtx g) (pairMachine g) = true) ∧
    (Pops (pairMachine returning) (pairCtx returning) 0 0x100100 ∧ Pops (pairMachine returning) (pairCtx returning) 1 0) ∧
    ((laneAt emptied 1).d = 0 ∧ (laneAt emptied 1).c = 0) ∧
    (Pops (pairMachine oddSecond) (pairCtx oddSecond) 0 0x100100 ∧ PopFails (pairMachine oddSecond) (pairCtx oddSecond) 1 0x07 0x100101) := by
  refine ⟨?_, ⟨⟨by decide, .inl ⟨by decide +kernel, by decide +kernel⟩⟩, by decide, .inr ⟨by decide +kernel, by decide +kernel, 0x800,
    slot_of _ 0x800 (by decide), by decide +kernel, by decide +kernel, by decide +kernel⟩⟩, by decide +kernel,
    ⟨by decide, .inl ⟨by decide +kernel, by decide +kernel⟩⟩, .inl ⟨by decide +kernel, by decide +kernel, by decide, rfl⟩⟩
  intro g hg
  simp only [List.mem_cons, List.not_mem_nil, or_false] at hg
  obtain rfl | rfl | rfl := hg <;> exact ⟨rfl, by decide +kernel⟩

/-- An odd return address, on chip and on the stack. -/
def oddReturns : Group := { group0 with lanes := lanes0.set 0 { placedLane with d := 1, rs := #v[0x100101, 0, 0, 0] } }

theorem witness_CallAndReturnResults_odd : Ready (.ret 0 7) (aloneCtx oddReturns) (aloneState oddReturns) ∧
    (laneAt oddReturns 0).rs[(laneAt oddReturns 0).d - 1]? = some 0x100101 ∧ (0x100101 : DWord).getLsbD 0 = true :=
  ⟨ready_of rfl (by decide +kernel), by decide +kernel, by decide⟩

/-- A team with three items left in its queue. -/
def items : Team := { team0 with first := 0, next := 2, end_ := 5 }

def itemsCtx (b : Bundle) : Ctx := { ctx0 with b := b, t := items }

def itemsState (b : Bundle) : State := { machine group0 items with bundle := some b }

/-- A group with a store that waits for a joining member. -/
def storing : Group :=
  { group0 with reqs := [{ reg := 0, rank := 1, bytes := 4, lanes := [{ lane := 3, off := 0, data := [1, 0, 0, 0] }], store := true, atom := none,
                           form := 0, rc := 0, old := false }] }

theorem witness_ExitAndRefillResults : Ready (.exit 0 7) (aloneCtx group0) (aloneState group0) ∧
    (15 < group0.lanes.length ∧ live (laneAt group0 15) = true ∧ has (acting (aloneCtx group0) (.exit 0 7)) 15 = false) ∧
    Ready (.exit 0 7) ctx0 machine0 ∧ (∀ k, k < 16 → has (acting ctx0 (.exit 0 7)) k = true) ∧
    (storesOut machine0 0 group0 = false ∧ group0.retired = false) ∧
    (Ready (.exit 0 7) { ctx0 with g := storing } (machine storing team0) ∧ storesOut (machine storing team0) 0 storing = true) ∧
    Ready (.refill 0 7) (itemsCtx alone) (itemsState alone) ∧ Ready (.refill 0 7) (itemsCtx bundle0) (itemsState bundle0) ∧ items.next < items.end_ :=
  ⟨ready_of rfl (by decide +kernel), by decide +kernel, ready_of rfl (by decide +kernel), by decide +kernel, by decide +kernel,
    ⟨ready_of rfl (by decide +kernel), by decide +kernel⟩, ready_of rfl (by decide +kernel), ready_of rfl (by decide +kernel), by decide⟩

/-- The team's queue is empty, and every lane drains; the same with a store that is still to be performed. -/
theorem witness_ExitAndRefillResults_drained : Ready (.refill 0 7) ctx0 machine0 ∧ team0.end_ ≤ team0.next ∧ team0.span = none ∧
    (∀ k, k < 16 → has (acting ctx0 (.refill 0 7)) k = true) ∧ storesOut machine0 0 group0 = false ∧
    Ready (.refill 0 7) { ctx0 with g := storing } (machine storing team0) ∧ storesOut (machine storing team0) 0 storing = true :=
  ⟨ready_of rfl (by decide +kernel), by decide, rfl, by decide +kernel, by decide +kernel, ready_of rfl (by decide +kernel), by decide +kernel⟩

/-- Lane 3 sleeps until a clock that has come. -/
def asleep : Group := { group0 with lanes := lanes0.map fun l => if readV l 1 = 3 then { l with wake := some 0 } else l }

theorem witness_NopSleepTrapResults : (∀ i ∈ ([.nop 0 7, .yield 0 7, .yield 1 7, .sleep 0 0 7, .sleep 0xFFFF 0 7, .trap 0x2A 0 7, .trap 1 0 0, .brk 0 0 7,
    .brk 0xFF 0 0] : List Instr), passes i ctx0 machine0 = !(i == .yield 1 7)) ∧
    (acting ctx0 (.trap 0x2A 0 7) ≠ 0 ∧ acting ctx0 (.trap 1 0 0) = 0) ∧
    ((laneAt asleep 3).wake = some 0 ∧ (0 : DWord).toNat ≤ (coreAt (machine asleep team0) asleep.core).clock.toNat) := by decide +kernel

/-! ### Memory instructions -/

/-- `InTeam` as a test. -/
def inTeam (c : Ctx) (va : DWord) (n : Nat) : Bool :=
  decide (canonical va = true ∧ topByte va = 0xFF ∧ va.toNat % n = 0 ∧ field va 23 0 + n ≤ c.t.alloc)

theorem inTeam_of {c : Ctx} {va : DWord} {n : Nat} (h : inTeam c va n = true) : InTeam c va n := by
  unfold InTeam
  exact of_decide_eq_true h

/-- Something that holds of each of the sixteen lanes. -/
theorem each_lane {P : Nat → Prop} {p : Nat → Bool} (hp : ∀ k, p k = true → P k) (h : ∀ k : Fin 16, p k = true) (k : Nat) (hk : runs ctx0 k) : P k :=
  hp k (h ⟨k, lt_of_lt_of_eq hk.1 (by decide +kernel)⟩)

/-- The places where the checks of an address meet: the last accepted byte and the first beyond, the first address that is not canonical,
pod space, an odd one, the span window of a team without a span, no translation, and a page that may not be written. -/
def readOnly : State := { machine0 with tlb := [leaf0 0 0x241] }

theorem witness_AccessFaults :
    addrCheck machine0 team0 0x0100000000000000 { bytes := 4 } = some (3, 0x14) ∧ canonical 0x0001000000000000 = false ∧
    (topByte 0xFF0000000000FFFC = 0xFF ∧ field 0xFF0000000000FFFC 23 0 + 4 = team0.alloc) ∧
    (team0.alloc < field 0xFF00000000010000 23 0 + 4 ∧ ringPlace team0 (field 0xFF00000000010000 23 0) = none) ∧
    (canonical 0xFE00000000000000 = true ∧ topByte 0xFE00000000000000 = 0xFE ∧ team0.span = none) ∧
    Machine.translate machine0 0 0x100000 0 = none ∧
    (∃ l, Machine.translate readOnly 0 0x100000 0 = some l ∧ protectionFails readOnly 0 l.entry { bytes := 4, write := true } = true ∧
      protectionFails readOnly 0 l.entry { bytes := 4 } = false) ∧
    Ready (.ld 0 0 1 1 4) ctx0 machine0 ∧ Accesses (.ld 0 0 1 1 4) 1 1 { bytes := 4 } ctx0 ∧
    addrCheck machine0 team0 (lanesOff ctx0 1 1 1) { bytes := 4 } = some (4, 0x07) ∧
    addrCheck machine0 team0 (lanesOff ctx0 1 1 0) { bytes := 4 } = none :=
  ⟨by decide +kernel, by decide +kernel, by decide +kernel, by decide +kernel, by decide +kernel, by decide +kernel, ⟨_, rfl, by decide +kernel⟩,
    ready_of rfl (by decide +kernel), .inl ⟨0, 0, 4, rfl, rfl⟩, by decide +kernel, by decide +kernel⟩

/-- A load whose data has come and one whose data is on the way. -/
def loading : Group :=
  { group0 with loads := { lane := 3, reg := 4, data := 77, pois := false, ready := true, acq := false, more := false } :: coming 3 }

/-- Another group of the core has as many requests outstanding as a core may have. -/
def crowded : State :=
  { machine0 with groups := [group0, { group0 with num := 1, loads := (List.replicate 1024 (coming 3)).flatten }] }

theorem room0 : Room ctx0 machine0 (active ctx0).length := .inr (by decide +kernel)

theorem no_room : ¬Room ctx0 crowded (active ctx0).length := (by decide +kernel : ¬((active ctx0).length = 0 ∨ _ ≤ 1024))

theorem witness_LoadAndStoreResults :
    (∀ i ∈ ([.ld 0 0 2 1 4, .ld 1 0 6 1 62, .st 0 0 2 1 3, .st 1 0 6 1 2, .st 2 0 2 1 3, .st 3 0 2 1 3] : List Instr), Ready i ctx0 machine0) ∧
    (∀ k, runs ctx0 k → InTeam ctx0 (lanesOff ctx0 1 2 k) 4) ∧ (∀ k, runs ctx0 k → InTeam ctx0 (lanesOff ctx0 1 6 k) 8) ∧
    (Room ctx0 machine0 (active ctx0).length ∧ ctx? crowded = some ctx0 ∧ passes (.ld 0 0 2 1 4) ctx0 crowded = true ∧
      ¬Room ctx0 crowded (active ctx0).length) ∧
    copyHeld machine0 ctx0 ((active ctx0).map fun k => (lanesOff ctx0 1 2 k, 4)) = false ∧
    (machine loading team0).groups[0]? = some loading :=
  ⟨ready_all (by decide +kernel), each_lane (fun _ => inTeam_of) (by decide +kernel), each_lane (fun _ => inTeam_of) (by decide +kernel),
    ⟨room0, rfl, by decide +kernel, no_room⟩, by decide +kernel, rfl⟩

theorem witness_VectorAtomicResults :
    (∀ i ∈ ([.atom 0 0 2 1 4, .atom 1 0 2 1 4, .atom 2 0 2 1 4, .atom 3 0 2 1 4, .atomb 0 0 2 1 4, .atomb 3 0 2 1 4, .atomcCas 0 2 1 62, .atomcMinN32 0 2 1 4,
      .atomcMaxN32 0 6 1 4] : List Instr), Ready i ctx0 machine0) ∧ VectorAtomic (.atomcMaxN32 0 6 1 4) 6 1 4 ∧
    (∀ k, runs ctx0 k → InTeam ctx0 (lanesOff ctx0 1 6 k) 4) ∧ Room ctx0 machine0 (active ctx0).length ∧
    copyHeld machine0 ctx0 ((active ctx0).map fun k => (lanesOff ctx0 1 2 k, 4)) = false ∧
    (∀ k, runs ctx0 k → spoilt machine0 (at_ ctx0 (lanesOff ctx0 1 2 k)) 4 = false) ∧
    (∀ k, runs ctx0 k → at_ ctx0 (lanesOff ctx0 1 2 k) = at_ ctx0 0xFF00000000000000 + 4 * k) :=
  ⟨ready_all (by decide +kernel), .inr ⟨0, .inr (.inr rfl)⟩, each_lane (fun _ => inTeam_of) (by decide +kernel), room0, by decide +kernel,
    each_lane (p := fun k => !spoilt machine0 (at_ ctx0 (lanesOff ctx0 1 2 k)) 4) (by simp) (by decide +kernel),
    each_lane (p := fun k => at_ ctx0 (lanesOff ctx0 1 2 k) == at_ ctx0 0xFF00000000000000 + 4 * k) (by simp) (by decide +kernel)⟩

theorem witness_ScalarMemoryResults :
    (∀ i ∈ ([.sld 15 0 0 0 1 4, .sld 0 0 1 2 1 0, .sst 15 0 0 0 1 2, .sst 0 0 2 2 1 2, .satom 0 0 0 0 1 4, .satom 9 0 3 2 1 62] : List Instr),
      Ready i ctx0 machine0) ∧ InTeam ctx0 (readS ctx0.g 1 + 120) 8 ∧ spoilt machine0 (at_ ctx0 (readS ctx0.g 1 + 120)) 8 = false ∧
    copyHeld machine0 ctx0 [(readS ctx0.g 1 + 120, 8)] = false ∧
    addrCheck machine0 team0 (readS ctx0.g 2) { bytes := 8 } = some (4, 0x07) ∧
    addrCheck machine0 team0 (readS ctx0.g 0) { bytes := 8, write := true, atomic := true } = some (6, 0x05) :=
  ⟨ready_all (by decide +kernel), inTeam_of (by decide +kernel), by decide +kernel, by decide +kernel, by decide +kernel, by decide +kernel⟩

/-- The first line of the team's scratchpad full with RC = 2 and a sequence; and a ring of two slots of one line, from line 0. -/
def full (seq : BitVec 4) : State := { machine0 with lines := [(teamKey team0 0 / 128, { f := true, rc := 2, seq := seq, err := false })] }

def ringGroup (seq : Nat) : Group :=
  { group0 with s := group0.s.set 6 (BitVec.ofNat 64 (seq * 2 ^ 32 + 1 * 2 ^ 21 + 1 * 2 ^ 13)) }

def ringCtx (seq : Nat) : Ctx := { ctx0 with g := ringGroup seq }

theorem witness_WaitingLoadAndFillingStoreResults :
    (∀ i ∈ ([.ldw 0 2 1 4, .ldc 0 2 1 4, .stf 0 2 1 3, .stc 0 2 1 3, .ste 0 2 1 3] : List Instr), Ready i ctx0 machine0) ∧
    (∀ i ∈ ([.ldw 0 2 1 4, .ldc 0 2 1 4, .stf 0 2 1 3, .stc 0 2 1 3, .ste 0 2 1 3] : List Instr), passes i ctx0 (full 0) = true) ∧
    (∀ k, runs ctx0 k → (lineSeen (full 0) (at_ ctx0 (lanesOff ctx0 1 2 k))).f = true) ∧
    (∀ k, runs ctx0 k → (lineSeen machine0 (at_ ctx0 (lanesOff ctx0 1 2 k))).f = false) ∧
    liveAt (full 0) (at_ ctx0 (lanesOff ctx0 1 2 0)) ∧
    (∀ i ∈ ([.ldq 0 2 6 4, .ldqw 0 2 6 4, .stq 0 2 6 3] : List Instr), Ready i (ringCtx 2) (machine (ringGroup 2) team0)) ∧
    RingOk (ringCtx 2) 6 2 ∧ overRead (full 9) (at_ (ringCtx 2) (ringOff (ringCtx 2) 6 2 0)) 2 ∧
    (∀ k, runs ctx0 k → distance (full 2) (at_ (ringCtx 2) (ringOff (ringCtx 2) 6 2 k)) 2 = 0) ∧
    distance (full 10) (at_ (ringCtx 2) (ringOff (ringCtx 2) 6 2 15)) 2 = 8 :=
  ⟨ready_all (by decide +kernel), by decide +kernel,
    each_lane (p := fun k => (lineSeen (full 0) (at_ ctx0 (lanesOff ctx0 1 2 k))).f) (fun _ h => h) (by decide +kernel),
    each_lane (p := fun k => !(lineSeen machine0 (at_ ctx0 (lanesOff ctx0 1 2 k))).f) (by simp) (by decide +kernel),
    ⟨by decide +kernel, by decide +kernel⟩,
    fun i hi => ready_of rfl (List.all_eq_true.1 (by decide +kernel : List.all _ fun i => passes i (ringCtx 2) (machine (ringGroup 2) team0)) i hi),
    ⟨by decide +kernel, by decide +kernel, by decide +kernel, by decide +kernel, by decide +kernel,
      each_lane (p := fun k => decide ((readV (laneAt group0 k) 2).toNat + 4 ≤ 128) && decide ((readV (laneAt group0 k) 2).toNat % 4 = 0))
        (fun k h => by rw [Bool.and_eq_true, decide_eq_true_eq, decide_eq_true_eq] at h; exact h) (by decide +kernel)⟩,
    ⟨by decide +kernel, by decide +kernel, by decide +kernel⟩,
    each_lane (p := fun k => distance (full 2) (at_ (ringCtx 2) (ringOff (ringCtx 2) 6 2 k)) 2 == 0) (by simp) (by decide +kernel), by decide +kernel⟩

/-- The ring passes its checks, with a poisoned data register, and with a token's error in the descriptor's. -/
def poisonedRing : Group := { ringGroup 2 with lanes := (ringGroup 2).lanes.map fun l => { l with vpois := 8 } }

def tokenRing : Group := { ringGroup 2 with errTok := 64 }

theorem witness_ChecksBeforeAnEntryAndIssueRights_ring :
    operandsFirst (.add 0 7 2 1 4) = true ∧ operandsFirst (.stq 0 2 6 3) = false ∧
    (∀ g ∈ ([poisonedRing, tokenRing] : List Group), let c := { ctx0 with g := g }
      ctx? (machine g team0) = some c ∧ legal (machine g team0) c (.stq 0 2 6 3) = true ∧ hazard (machine g team0) c (.stq 0 2 6 3) = none ∧
        RingPasses c 6 2) ∧
    poisonLanes { ctx0 with g := poisonedRing } (.stq 0 2 6 3) ≠ 0 ∧
    (poisonLanes { ctx0 with g := tokenRing } (.stq 0 2 6 3) = 0 ∧ errOperand { ctx0 with g := tokenRing } (.stq 0 2 6 3) = true) := by
  refine ⟨by decide, by decide, ?_, by decide +kernel, by decide +kernel⟩
  intro g hg
  simp only [List.mem_cons, List.not_mem_nil, or_false] at hg
  obtain rfl | rfl := hg <;>
    exact ⟨rfl, by decide +kernel, by decide +kernel, by decide +kernel, by decide +kernel, by decide +kernel, by decide +kernel, by decide +kernel⟩

/-- A core without room for its requests, over full lines and over empty ones. -/
theorem witness_WaitingLoadAndFillingStoreResults_queue :
    (∀ i ∈ ([.ldw 0 2 1 4, .ldc 0 2 1 4] : List Instr), passes i ctx0 crowded = true) ∧ ctx? crowded = some ctx0 ∧
    ¬Room ctx0 crowded (active ctx0).length ∧
    (let s := { crowded with groups := [ringGroup 2, { group0 with num := 1, loads := (List.replicate 1024 (coming 3)).flatten }] }
     ctx? s = some (ringCtx 2) ∧ passes (.ldq 0 2 6 4) (ringCtx 2) s = true ∧ ¬Room (ringCtx 2) s (active (ringCtx 2)).length) :=
  ⟨by decide +kernel, rfl, no_room, rfl, by decide +kernel, (by decide +kernel : ¬((active (ringCtx 2)).length = 0 ∨ _ ≤ 1024))⟩

/-- One lane at an ordinary page, with a tombstone in its line, and with a counted line. -/
def paged (l : L2Line) : State :=
  { aloneState group0 with tlb := [leaf0 0 0x203], l2 := [(0, l)] }

def pagedGroup : Group := { group0 with s := group0.s.set 1 0x100000 }

theorem witness_FencePrefetchFlush :
    (∀ i ∈ ([.fence 3 3, .fence 0 1, .pref 2 1, .cflush 2 1] : List Instr), Ready i ctx0 machine0) ∧
    (∀ k, runs ctx0 k → InTeam ctx0 (lanesOff ctx0 1 2 k) 1) ∧
    (∀ l ∈ ([{ cleanL2 with tomb := true }, { cleanL2 with counted := some 3 }] : List L2Line), let s := { paged l with groups := [pagedGroup] }
      let c := aloneCtx pagedGroup
      passes (.cflush 6 1) c s = true ∧ ctx? s = some c ∧ addrCheck s team0 (lanesOff c 1 6 0) { bytes := 1 } = none ∧
      (∃ x, Machine.translate s 0 (lanesOff c 1 6 0) 0 = some x ∧ leafBk x.entry = false ∧ leafH x.entry = false ∧ leafMt x.entry < 2 ∧
        l2At s (leafAddr x (lanesOff c 1 6 0)) = l ∧ l.prot = none) ∧ topByte (lanesOff c 1 6 0) = 0) := by
  refine ⟨ready_all (by decide +kernel), each_lane (fun _ => inTeam_of) (by decide +kernel), ?_⟩
  intro l hl
  simp only [List.mem_cons, List.not_mem_nil, or_false] at hl
  obtain rfl | rfl := hl <;>
    exact ⟨by decide +kernel, rfl, by decide +kernel, ⟨_, rfl, by decide +kernel, by decide +kernel, by decide +kernel, by decide +kernel, rfl⟩, by decide +kernel⟩

/-! ### Barriers, spans, copies and the matrix engine -/

/-- Barrier 0 of the team expects two groups, barrier 1 has been reached by this one, barrier 2 expects none, and this group has
withdrawn from barrier 3. -/
def meetingTeam : Team :=
  { team0 with barriers := [{ e := 2, a := 0, p := false, arr := 0, wd := 0 }, { e := 2, a := 1, p := false, arr := 1, wd := 0 },
    { e := 0, a := 0, p := false, arr := 0, wd := 1 }, { e := 1, a := 0, p := false, arr := 0, wd := 1 }, { e := 1, a := 0, p := false, arr := 0, wd := 0 }] }

def meetingCtx (w : Wait) : Ctx := { ctx0 with t := meetingTeam, g := { group0 with wait := w } }

def meetingState (w : Wait) : State := machine { group0 with wait := w } meetingTeam

theorem meetings {is : List Instr} (w : Wait) (hw : ctx? (meetingState w) = some (meetingCtx w))
    (h : is.all (fun i => converged (metCtx (meetingCtx w)).g placedPc && passes i (metCtx (meetingCtx w)) (metState (meetingCtx w) (meetingState w))) = true) :
    ∀ i ∈ is, Meets i (meetingCtx w) (meetingState w) :=
  fun i hi => meets_of hw (List.all_eq_true.1 h i hi)

theorem witness_BarrierResults :
    (∀ i ∈ ([.bar 0, .bar 1, .bar 2, .bar 3, .bar 4, .bara 0, .bara 1, .bara 3, .bara 4, .barw 0, .barw 2, .barx 0, .barx 3, .barx 4] : List Instr),
      Meets i (meetingCtx .none) (meetingState .none)) ∧
    (∀ i ∈ ([.bar 3, .barw 0] : List Instr), Meets i (meetingCtx (.phase 0 true)) (meetingState (.phase 0 true))) ∧
    ((List.range 5).map (takesPart meetingTeam group0) = [true, true, false, false, true]) ∧
    ((meetingTeam.barriers.map fun x => x.arr.getLsbD 0) = [false, true, false, false, false]) ∧
    ((meetingTeam.barriers.map fun x => decide ((arrived x 0).e ≤ (arrived x 0).a)) = [false, true, true, true, true]) :=
  ⟨meetings .none rfl (by decide +kernel), meetings (.phase 0 true) rfl (by decide +kernel), by decide +kernel, by decide +kernel, by decide +kernel⟩

/-- A span of two members, of which the issuing team is the first. -/
def span0 (m : MemberState) : Span :=
  { id := 5, key := none, index := 0, vcns := [0, 1], members := [m, .attached], arrived := [false, false], phase := false,
    reserved := [false, false], saved := [false, false], allocs := [65536, 65536], far := [] }

def spanTeam : Team := { team0 with span := some 0 }

/-- The issuing group alone, or with another group of its team that has not reached the instruction. -/
def spanState (m : MemberState) (others : List Group) : State :=
  { machine group0 spanTeam with spans := [span0 m], groups := group0 :: others }

def spanCtx : Ctx := { ctx0 with t := spanTeam }

def spanSteps : List Instr := [.spanj, .spanx, .spanb]

theorem spanMeets (m : MemberState) (others : List Group) (hc : ctx? (spanState m others) = some spanCtx)
    (h : spanSteps.all (fun i => converged (metCtx spanCtx).g placedPc && passes i (metCtx spanCtx) (metState spanCtx (spanState m others))) = true) :
    ∀ i ∈ spanSteps, Meets i spanCtx (spanState m others) :=
  fun i hi => meets_of hc (List.all_eq_true.1 h i hi)

/-- The member is leaving; and a peer's load that has reached it and waits there. -/
def leaving : State := { spanState .attached [] with groups := [{ group0 with didX := true, wait := .spanStep 1 0xFFFF }] }

def visitor : Held :=
  { flit := bareFlit 1 9 0x100 [] 8 true (.span 5 0 0 1 0 []), slot := none, verified := true, came := none }

theorem witness_SpanStepResults :
    (∀ i ∈ spanSteps, Meets i ctx0 machine0) ∧ ctx0.t.span = none ∧
    (∀ m ∈ ([.joining, .attached, .detached, .released] : List MemberState), (∀ i ∈ spanSteps, Meets i spanCtx (spanState m [])) ∧
      MemberIs spanCtx (spanState m []) 0 (span0 m) m) ∧
    ((∀ i ∈ spanSteps, Meets i spanCtx (spanState .joining [{ group0 with num := 1 }])) ∧
      (spanState .joining [{ group0 with num := 1 }]).groups[1]? = some { group0 with num := 1 }) ∧
    Alone spanCtx (spanState .joining []) ∧ executing spanCtx = liveMask (metCtx spanCtx).g ∧ group0.reqs = [] ∧
    (notDetached (span0 .attached) 1 = true ∧ (span0 .attached).arrived[1]? = some false) ∧
    (detaching leaving 0 spanTeam = true ∧ heldAtMember leaving spanTeam = false ∧ (leaving.groups.all fun g => g.reqs.isEmpty) = true) ∧
    (detaching { leaving with trestle := [visitor] } 0 spanTeam = true ∧ heldAtMember { leaving with trestle := [visitor] } spanTeam = true) := by
  refine ⟨meets_all (by decide +kernel), rfl, ?_, ⟨spanMeets .joining [{ group0 with num := 1 }] rfl (by decide +kernel), rfl⟩,
    ⟨rfl, fun m g h hm => ?_⟩, by decide +kernel, rfl, by decide, by decide +kernel, by decide +kernel⟩
  · intro m hm
    simp only [List.mem_cons, List.not_mem_nil, or_false] at hm
    obtain rfl | rfl | rfl | rfl := hm <;> exact ⟨spanMeets _ [] rfl (by decide +kernel), rfl, rfl, rfl⟩
  · cases m with
    | zero => exact absurd rfl hm
    | succ m => simp [spanState, machine] at h

/-- A copy's record: four words from 0x100000, dense, packed; and one whose format is reserved. -/
def record (fmt : Nat) : List Byte :=
  toLeBytes 8 0x100000 ++ toLeBytes 4 4 ++ toLeBytes 4 1 ++ toLeBytes 2 1 ++ toLeBytes 2 1 ++ toLeBytes 12 0 ++ toLeBytes 12 0 ++
    toLeBytes 2 4 ++ toLeBytes 2 1 ++ toLeBytes 2 1 ++ toLeBytes 2 1 ++ toLeBytes 4 fmt ++ toLeBytes 8 0

def copyGroup (n : Nat) (es : List CopyEntry) : Group :=
  { group0 with role := .copy, num := n, copies := es, s := group0.s.set 8 0xFF00000000001000 }

def copyTeam : Team := { team0 with kernel := { team0.kernel with roles := true } }

def copyState (fmt : Nat) (gs : List Group) : State :=
  writeN { machine group0 copyTeam with groups := gs } (teamKey copyTeam 0) (record fmt)

def copyCtx (g : Group) : Ctx := { ctx0 with g := g, t := copyTeam }

def copyEntry : CopyEntry := { number := 0, record := record 2, sb := 0xFF00000000001000, st := 0, fn := 0, sealed := true, batch := 1, done := true }

theorem witness_CopyIssueResults :
    (∀ i ∈ ([.cpyIn 0 8 1 4, .cpyOut 0 8 1 0, .cpyLocal 0 8 1 4, .cseal] : List Instr),
      Ready i (copyCtx (copyGroup 0 [])) (copyState 2 [copyGroup 0 [], copyGroup 1 []])) ∧ IsCopy (.cpyOut 0 8 1 0) 1 8 1 0 ∧
    recordCause (copyState 2 [copyGroup 0 []]) copyTeam (readS (copyGroup 0 []) 2) = 0x07 ∧
    (inTeam (copyCtx (copyGroup 0 [])) (readS (copyGroup 0 []) 1) 64 = true ∧
      spoilt (copyState 2 [copyGroup 0 []]) (teamKey copyTeam 0) 64 = false) ∧
    readN (copyState 2 [copyGroup 0 []]) (teamKey copyTeam 0) 64 = record 2 ∧
    (shapeOf (record 2)).check 0 0xFF00000000001000 copyTeam.alloc = none ∧
    (shapeOf (record 9)).check 0 0xFF00000000001000 copyTeam.alloc = some (0x01, 0) ∧
    Ready (.cpyIn 0 8 1 4) (copyCtx (copyGroup 0 (List.replicate 16 copyEntry))) (copyState 2 [copyGroup 0 (List.replicate 16 copyEntry)]) ∧
    otherToken (copyGroup 0 []) 4 = false ∧
    ((copyState 2 [copyGroup 0 [], copyGroup 1 []]).groups[1]? = some (copyGroup 1 []) ∧ (copyGroup 1 []).cpys.toNat ≤ (copyGroup 0 []).cpys.toNat) :=
  ⟨fun i hi => ready_of rfl (List.all_eq_true.1
      (by decide +kernel : List.all _ fun i => passes i (copyCtx (copyGroup 0 [])) (copyState 2 [copyGroup 0 [], copyGroup 1 []])) i hi),
    ⟨0, .inr (.inl ⟨rfl, rfl⟩)⟩, by decide +kernel, by decide +kernel, by decide +kernel, by decide +kernel, by decide +kernel,
    ready_of rfl (by decide +kernel), by decide +kernel, rfl, by decide +kernel⟩

/-- A slice that has four bytes to place at the start of the team window, or of a bank page, and one byte on the next line. -/
def slice (fn : BitVec 2) (a : DWord) : CopyJob :=
  { team := 0, group := 0, number := 0, fn := fn, started := true, dm := 0, rc := 1, seq := 0, todo := itemsAt a [1, 2, 3, 4] 0 ++ [(a + 128, 5, 0)] }

def slices (j : CopyJob) : State :=
  { machine group0 team0 with
    cores := State.reset.cores.set 0 { Core.init with jobs := [j] }
    tlb := [leaf0 0 0x243] }

theorem slices_next (fn : BitVec 2) (a : DWord) (ha : a.toNat % 128 = 0) (h : (a + 128).toNat / 128 ≠ a.toNat / 128) :
    NextBytes (slices (slice fn a)) 0 (slice fn a) team0 a [1, 2, 3, 4] [(a + 128, 5, 0)] :=
  ⟨(by decide +kernel : 0 < machine0.cores.length), rfl, rfl, rfl, by simp, rfl, by decide, by simp [ha], by simpa using h⟩

theorem witness_CopyEngineEvents :
    NextBytes (slices (slice 0 0xFF00000000000000)) 0 (slice 0 0xFF00000000000000) team0 0xFF00000000000000 [1, 2, 3, 4] [(0xFF00000000000080, 5, 0)] ∧
    lineLive (slices (slice 0 0xFF00000000000000)) (teamKey team0 0) = false ∧ lineLive (full 0) (teamKey team0 0) = true ∧
    NextBytes (slices (slice 1 0x100000)) 0 (slice 1 0x100000) team0 0x100000 [1, 2, 3, 4] [(0x100080, 5, 0)] ∧
    (∃ l, Machine.translate (slices (slice 1 0x100000)) 0 0x100000 0 = some l ∧ leafBk l.entry = true ∧
      protectionFails (slices (slice 1 0x100000)) 0 l.entry { bytes := 128, write := true } = false) ∧
    (oldestBatch (copyGroup 0 [copyEntry]) = [copyEntry] ∧ typeOn (vchip machine0 0).stream 12 = false) :=
  ⟨slices_next 0 _ (by decide) (by decide), by decide +kernel, by decide +kernel, slices_next 1 _ (by decide) (by decide),
    ⟨_, rfl, by decide +kernel, by decide +kernel⟩, by decide +kernel⟩

/-- Blocks for `MMA` in s8 to s15 (eight planes of A from line 0, of B from line 64), in s16 to s23 for `EPI` (words to the team window); then an
empty block, an odd scale line, and an A tile beyond the allocation. -/
def matrixGroup : Group :=
  { group0 with
    role := .matrix
    s := (((((((group0.s.set 8 0x0008000000000000).set 9 0x40).set 18 0xFF00000000000000).set 19 512).set 24 0x0018000100000000).set 25 0x40).set
      32 0x0008000000000200).set 33 0x40 }

def matrixCtx : Ctx := { ctx0 with g := matrixGroup }

def withEngine (e : Engine) : State := { machine matrixGroup team0 with cores := State.reset.cores.set 0 { Core.init with engine := e } }

def block (a : BitVec 6) : List Byte := blockBytes matrixGroup a

def mmaJob : MmaJob := { group := 0, block := block 8, gather := none, poisoned := none }

def busyEngine : Engine := { Engine.init with holder := some 0, queue := List.replicate 4 mmaJob, claims := List.replicate 4 (release ctx0) }

theorem witness_MatrixIssueResults :
    (∀ i ∈ ([.mma 0 8, .mma 0 24, .mma 0 32, .mma 0 40, .mrels 0, .epi 0 16, .epi 0 48, .mstat 0 4] : List Instr),
      Ready i matrixCtx (withEngine Engine.init)) ∧
    (∀ i ∈ ([.mma 0 8, .mrels 0, .epi 0 16] : List Instr), Ready i matrixCtx (withEngine busyEngine)) ∧
    ([8, 24, 32, 40].map fun a => let p := mmaBlock (block a)
      (p.illegal false false, p.odd, p.beyond team0.alloc)) =
      [(false, false, false), (false, true, false), (false, false, true), (true, false, false)] ∧
    (mmaBlock (block 8)).ix = false ∧ (epiBlock (block 16)).check team0.alloc = none ∧ (epiBlock (block 16)).ofmt = 0 ∧
    ((epiBlock (block 48)).check team0.alloc).isSome = true :=
  ⟨fun i hi => ready_of rfl (List.all_eq_true.1 (by decide +kernel : List.all _ fun i => passes i matrixCtx (withEngine Engine.init)) i hi),
    fun i hi => ready_of rfl (List.all_eq_true.1 (by decide +kernel : List.all _ fun i => passes i matrixCtx (withEngine busyEngine)) i hi),
    by decide +kernel, by decide +kernel, by decide +kernel, by decide +kernel, by decide +kernel⟩

/-- An engine held by the team, with an `MMA` queued whose lines are full; one that runs; and claims on a closed slot. -/
def startState : State :=
  { withEngine { Engine.init with holder := some 0, queue := [mmaJob] } with
    lines := (List.range 128).map fun k => (teamKey team0 0 / 128 + k, { f := true, rc := 0, seq := 0, err := false }) }

def running : MmaRun := { group := 0, rm := 2, poisoned := false, a := [], sa := [], b := [], sb := [] }

theorem witness_MatrixEngineEvents :
    heldEngine startState 0 = some ({ Engine.init with holder := some 0, queue := [mmaJob] }, team0) ∧
    (((mmaBlock mmaJob.block).aLines ++ (mmaBlock mmaJob.block).bLines).all fun q =>
      (lineSeen startState (teamKey team0 (q * 128))).f && !linePoisoned startState team0 q) = true ∧
    (coreAt (withEngine { Engine.init with running := some running }) 0).engine.running = some running ∧
    (coreAt (withEngine { Engine.init with claims := [release ctx0], closed := 1 }) 0).engine.claims = [release ctx0] ∧
    (heldEngine (withEngine { Engine.init with holder := some 0, claims := [plainEpilogue ctx0 (block 16)], closed := 1, jobRunning := true }) 0).isSome = true ∧
    (let p := epiBlock (block 16)
     p.ofmt = 0 ∧ topByte p.dest = 0xFF ∧ p.dstr = 512 ∧ field p.dest 23 0 + 127 * p.dstr + 512 ≤ team0.alloc) ∧
    (∀ k, lineLive (withEngine Engine.init) k = false) :=
  ⟨rfl, by decide +kernel, rfl, rfl, by decide +kernel, by decide +kernel, fun _ => rfl⟩

/-- The lines of the job are distinct; a poisoned product; a B latch that is kept; a job whose rows have been gathered. -/
theorem witness_MatrixEngineEvents_operands :
    (let ls := (mmaBlock mmaJob.block).aLines ++ (mmaBlock mmaJob.block).bLines
     ls.Nodup ∧ ls.all (fun q => teamKey team0 (q * 128) / 128 == teamKey team0 0 / 128 + q) = true) ∧
    ({ running with poisoned := true }.poisoned = true ∧ running.poisoned = false) ∧
    (let b := toLeBytes 16 0x0008000000000000 ++ [4] ++ List.replicate 47 0
     (mmaBlock b).br = true ∧ (mmaBlock b).ix = false ∧ (mmaBlock b).bLines = [] ∧
       { Engine.init with latch := some (fetchB machine0 team0 (mmaBlock mmaJob.block)) }.latch.isSome = true) ∧
    (let b := toLeBytes 16 0x0028000000000000 ++ List.replicate 48 0
     (mmaBlock b).ix = true ∧ ({ mmaJob with block := b, gather := some ([], []) } : MmaJob).gather ≠ none) := by
  decide +kernel

/-! ### Pod instructions -/

/-- A guest of two virtual chips, this one and one of package 1, with label 0 in service and a multicast set 0 of the second. -/
def guest0 : Guest :=
  { Guest.init with vlim := 2, vcns := [(0, 0xC000000000000000), (1, 0xC000010000000000)], labels := [(0, 0x80)], mcast := [(0, 2)] }

/-- Channel 0 as an entry of each kind with every permission: to memory of VCN 1, to endpoint 3, to a queue, to the set, to the pool. -/
def entry (kind : Nat) : Cap :=
  { ctl := BitVec.ofNat 64 (0x7F + kind * 2 ^ 16 + (if kind = 1 ∨ kind = 2 then 3 * 2 ^ 24 else 0) + 2 ^ 38), wbase := 0,
    wsize := if kind = 0 ∨ kind = 4 then 0x10000 else 0, allow := 0x100000, inFlight := 0 }

def podChip (e : Cap) : VChip := { chip0 with caps := List.replicate 32 e }

/-- s8 to s10 name a push, s12 to s14 a pull, s16 to s19 an atomic, s20 to s23 a pool operation, s24 to s26 a region, s27 to s29 a queue,
s32 to s35 a counter; s40 is the first of the last sixteen words of the entry's window, s41 one word on, s42 an address of another peer, and
s43 one that is not aligned. -/
def podRegs : List (Nat × DWord) :=
  [(8, 0xFF00000000000000), (9, 0x0100010000000030), (10, 100), (12, 0x0100010000000030), (13, 0xFF00000000000000), (14, 100),
   (16, 0x0100010000000100), (17, 1), (18, 2), (19, 0), (20, 0), (21, 0x0100010000000000), (22, 7), (23, 8), (24, 5), (25, 0), (26, 128),
   (27, 0x105), (28, 0x100000), (29, 4096), (32, 0xFF00000000000200), (33, 0xFF00000000001000), (34, 4096), (35, 4096),
   (40, 0x010001000000FFC0), (41, 0x010001000000FFC4), (42, 0x0100020000000000), (43, 0x0100010000000002)]

def podGroup : Group := { group0 with s := podRegs.foldl (fun v p => v.setIfInBounds p.1 p.2) group0.s }

def podCtx (kind : Nat) : Ctx := { ctx0 with g := podGroup, vc := podChip (entry kind) }

def podState (kind : Nat) : State :=
  { machine podGroup team0 with
    vchips := State.reset.vchips.set 0 (podChip (entry kind)), guests := State.reset.guests.set 0 guest0, linkKeys := [(0, 1)] }

theorem through_of {i : Instr} {kind : Nat} (hc : ctx? (podState kind) = some (podCtx kind)) (hp : passes i (podCtx kind) (podState kind) = true)
    (hg : ((guestOf (podState kind) 0).paused || capInvalid (guestOf (podState kind) 0) (capAt (podCtx kind) 0) ||
      (capPeers (guestOf (podState kind) 0) (capAt (podCtx kind) 0)).any (peerAbsent (guestOf (podState kind) 0))) = false)
    (ha : Allowed i (podCtx kind)) : Through i (podCtx kind) (podState kind) 0 := by
  simp only [Bool.or_eq_false_iff] at hg
  refine ⟨⟨ready_of hc hp, hg.1.1⟩, hg.1.2, ha, fun n hn => ?_⟩
  have := hg.2
  rw [List.any_eq_false] at this
  exact Bool.eq_false_iff.2 (this n hn)

theorem witness_ChannelChecks : OnChannel (.psend 0 8 0 0) 0 ∧ OnChannel (.phint 0) 0 ∧
    Ready (.psend 0 8 0 0) (podCtx 0) { podState 0 with guests := State.reset.guests.set 0 { guest0 with paused := true } } ∧
    ¬EntryValid ctx0 machine0 0 ∧ ¬Allowed (.pget 0 40 0 4) (podCtx 1) ∧ EntryValid (podCtx 1) (podState 1) 0 ∧
    ¬PeersThere (podCtx 0) { podState 0 with guests := State.reset.guests.set 0 { guest0 with vlim := 1 } } 0 ∧
    Through (.pget 0 40 0 4) (podCtx 0) (podState 0) 0 ∧
    canonical 0x8000000000000000 = false ∧ (canonical (readS podGroup 42) = true ∧ field (readS podGroup 42) 49 40 ≠ capVcn (entry 0)) ∧
    (RemoteOk (podCtx 0) 0 (readS podGroup 40) ∧ InWindow (podCtx 0) 0 (readS podGroup 40) 64) ∧
    (RemoteOk (podCtx 0) 0 (readS podGroup 41) ∧ ¬InWindow (podCtx 0) 0 (readS podGroup 41) 64) ∧
    ¬HasRoom { podCtx 0 with vc := podChip { entry 0 with inFlight := 0xFFFC1 } } 0 64 := by
  refine ⟨.inl ⟨0, 8, 0, .inl rfl⟩, .inr rfl, ready_of rfl (by decide +kernel), (by decide +kernel : ¬capInvalid _ _ = false), ?_,
    (by decide +kernel : capInvalid _ _ = false), fun h => ?_, through_of rfl (by decide +kernel) (by decide +kernel)
      (.inr (.inr (.inl ⟨0, 40, 0, 4, rfl, by decide +kernel, by decide +kernel⟩))), by decide +kernel, by decide +kernel,
    ⟨⟨by decide +kernel, by decide +kernel, by decide +kernel⟩, ⟨by decide +kernel, by decide +kernel⟩⟩,
    ⟨⟨by decide +kernel, by decide +kernel, by decide +kernel⟩, (by decide +kernel : ¬(_ ∧ _))⟩, (by decide +kernel : ¬(_ ∨ _))⟩
  · intro h
    simp only [Allowed, reduceCtorEq, false_and, exists_false, false_or, or_false, Instr.pget.injEq] at h
    obtain ⟨l, a, ch, u, ⟨rfl, rfl, rfl, rfl⟩, hk, -⟩ := h
    exact absurd hk (by decide +kernel)
  · exact absurd (h 1 (by decide +kernel)) (by decide +kernel)

/-- The last active lane's word lies beyond the entry's window, or none does; an address that is not aligned; no allowance. -/
theorem witness_ChannelChecks_words :
    Through (.pput 0 41 0 1) (podCtx 0) (podState 0) 0 ∧ Through (.pput 0 40 0 1) (podCtx 0) (podState 0) 0 ∧
    (RemoteOk (podCtx 0) 0 (readS podGroup 41) ∧ runs (podCtx 0) 15 ∧ ¬WordIn (podCtx 0) 0 (readS podGroup 41) 15 ∧
      WordIn (podCtx 0) 0 (readS podGroup 41) 14 ∧ WordIn (podCtx 0) 0 (readS podGroup 40) 15) ∧
    (RemoteOk (podCtx 0) 0 (readS podGroup 43) ∧ WordIn (podCtx 0) 0 (readS podGroup 43) 15 ∧ (readS podGroup 43).toNat % 4 ≠ 0) ∧
    ¬HasRoom { podCtx 0 with vc := podChip { entry 0 with inFlight := 0xFFFC1 } } 0 (4 * (active (podCtx 0)).length) := by
  refine ⟨through_of rfl (by decide +kernel) (by decide +kernel) (.inr (.inl ⟨0, 41, 0, 1, rfl, by decide +kernel, by decide +kernel⟩)),
    through_of rfl (by decide +kernel) (by decide +kernel) (.inr (.inl ⟨0, 40, 0, 1, rfl, by decide +kernel, by decide +kernel⟩)),
    ⟨⟨by decide +kernel, by decide +kernel, by decide +kernel⟩, ⟨by decide +kernel, by decide +kernel⟩, (by decide +kernel : ¬(_ ∧ _)),
      ⟨by decide +kernel, by decide +kernel⟩, by decide +kernel, by decide +kernel⟩,
    ⟨⟨by decide +kernel, by decide +kernel, by decide +kernel⟩, ⟨by decide +kernel, by decide +kernel⟩, by decide +kernel⟩, (by decide +kernel : ¬(_ ∨ _))⟩

/-- The source of the push and the target of the pull, in the team window. -/
theorem witness_ChannelTransferResults :
    Through (.psend 0 8 0 4) (podCtx 0) (podState 0) 0 ∧ Through (.psend 0 8 0 4) (podCtx 1) (podState 1) 0 ∧
    Through (.psend 0 8 0 4) (podCtx 2) (podState 2) 0 ∧ Through (.psend 0 8 0 4) (podCtx 4) (podState 4) 0 ∧
    Through (.psend 0 12 0 4) (podCtx 0) (podState 0) 0 ∧ Through (.pmcast 0 8 0 4) (podCtx 3) (podState 3) 0 ∧
    Through (.pput 0 40 0 1) (podCtx 0) (podState 0) 0 ∧ Through (.pget 0 40 0 4) (podCtx 0) (podState 0) 0 ∧
    Through (.patom 0 16 0 4) (podCtx 0) (podState 0) 0 ∧ Through (.ppool 0 20 0 4) (podCtx 4) (podState 4) 0 ∧
    (HasRoom (podCtx 0) 0 100 ∧ Reachable (podCtx 0) (podState 0) 0 1) ∧
    (canonical (readS podGroup 8) = true ∧ field (readS podGroup 8) 23 0 + 100 ≤ team0.alloc ∧ (podState 0).poison = [] ∧ (podState 0).lines = []) ∧
    (RemoteOk (podCtx 0) 0 (readS podGroup 9) ∧ InWindow (podCtx 0) 0 (readS podGroup 9) 100) ∧ LocalOk (podCtx 0) (readS podGroup 13) 100 ∧
    copyHeld (podState 0) (podCtx 0) [(readS podGroup 13, 100)] = false ∧
    Cut 0x30 100 [(0x30, 16), (0x40, 64), (0x80, 20)] ∧
    (RemoteOk (podCtx 0) 0 (readS podGroup 16) ∧ InWindow (podCtx 0) 0 (readS podGroup 16) (handlerBytes 0) ∧
      (readS podGroup 16).toNat % handlerBytes 0 = 0) ∧
    (RemoteOk (podCtx 4) 0 (readS podGroup 21) ∧ InWindow (podCtx 4) 0 (readS podGroup 21) 8) := by
  refine ⟨through_of rfl (by decide +kernel) (by decide +kernel) (.inl ⟨0, 8, 0, 4, rfl, by decide +kernel⟩),
    through_of rfl (by decide +kernel) (by decide +kernel) (.inl ⟨0, 8, 0, 4, rfl, by decide +kernel⟩),
    through_of rfl (by decide +kernel) (by decide +kernel) (.inl ⟨0, 8, 0, 4, rfl, by decide +kernel⟩),
    through_of rfl (by decide +kernel) (by decide +kernel) (.inl ⟨0, 8, 0, 4, rfl, by decide +kernel⟩),
    through_of rfl (by decide +kernel) (by decide +kernel) (.inl ⟨0, 12, 0, 4, rfl, by decide +kernel⟩),
    through_of rfl (by decide +kernel) (by decide +kernel) (.inr (.inr (.inr (.inl ⟨0, 8, 0, 4, rfl, by decide +kernel, by decide +kernel⟩)))),
    through_of rfl (by decide +kernel) (by decide +kernel) (.inr (.inl ⟨0, 40, 0, 1, rfl, by decide +kernel, by decide +kernel⟩)),
    through_of rfl (by decide +kernel) (by decide +kernel) (.inr (.inr (.inl ⟨0, 40, 0, 4, rfl, by decide +kernel, by decide +kernel⟩))),
    through_of rfl (by decide +kernel) (by decide +kernel) (.inr (.inr (.inr (.inr (.inl ⟨0, 16, 0, 4, rfl, .inl (by decide +kernel)⟩))))),
    through_of rfl (by decide +kernel) (by decide +kernel)
      (.inr (.inr (.inr (.inr (.inr (.inl ⟨0, 20, 0, 4, rfl, by decide +kernel, by decide +kernel⟩)))))),
    ⟨.inl rfl, (by decide +kernel : (legTo _ _ _ _).2 = true)⟩, ⟨by decide +kernel, by decide +kernel, rfl, rfl⟩,
    ⟨⟨by decide +kernel, by decide +kernel, by decide +kernel⟩, by decide +kernel, by decide +kernel⟩,
    ⟨by decide +kernel, .inl (by decide +kernel)⟩, by decide +kernel, ⟨rfl, by decide, by decide, by decide, .inr rfl, rfl, by decide, by decide, by decide, .inr rfl,
      rfl, by decide, by decide, by decide, .inl rfl, rfl⟩,
    ⟨⟨by decide +kernel, by decide +kernel, by decide +kernel⟩, ⟨by decide +kernel, by decide +kernel⟩, by decide +kernel⟩,
    ⟨by decide +kernel, by decide +kernel, by decide +kernel⟩, by decide +kernel, by decide +kernel⟩

/-- A group with an operation outstanding. -/
def outstanding : PodOp := podOp (podCtx 0) (podState 0) .push 0 100 4 1 [(0x30, 0)] 100 0

theorem witness_ChannelStateResults : Through (.phint 0) (podCtx 0) (podState 0) 0 ∧
    (∀ i ∈ ([.precv 0 24, .precv 0 27, .parrv 0 32 15, .pfence 0, .evt, .capq 0 0 4, .capq 1 31 63] : List Instr), Ready i (podCtx 0) (podState 0)) ∧
    Ready (.pfence 0) (podCtx 0) { podState 0 with ops := [outstanding] } ∧ outstanding.group = bundle0.group ∧
    ((readS podGroup 26).toNat % 128 = 0 ∧ (readS podGroup 29).toNat = 2 ^ 12 ∧ (readS podGroup 28).toNat % 4096 = 0) ∧
    (topByte (readS podGroup 32) = 0xFF ∧ (readS podGroup 32).toNat % 8 = 0 ∧ field (readS podGroup 33) 23 0 + 4096 ≤ team0.alloc) :=
  ⟨through_of rfl (by decide +kernel) (by decide +kernel) (.inr (.inr (.inr (.inr (.inr (.inr ⟨0, rfl, by decide +kernel⟩)))))),
    fun i hi => ready_of rfl (List.all_eq_true.1 (by decide +kernel : List.all _ fun i => passes i (podCtx 0) (podState 0)) i hi),
    ready_of rfl (by decide +kernel), rfl, by decide +kernel, by decide +kernel⟩

/-! ### The fabric -/

/-- A virtual chip with keys, whose export is a bank page. -/
def fabChip : VChip :=
  { podChip (entry 0) with expbase := 0x100000, expsize := 4096, endpoints := [(3, .team 0 0 0 128), (4, .queue 0x100000 4096 0)], resume := [0] }

def fab : State := { podState 0 with vchips := State.reset.vchips.set 0 fabChip, tlb := [leaf0 0 0x243] }

/-- The leaf of its export. -/
def fabLeaf : Leaf := { entry := 0x243, base := leafFrame 0x243, log := 0 }

/-- A flit with the CRC of its bytes. -/
def framed (f : Flit) : Flit := { f with crc := flitCrc f }

theorem framed_crc (f : Flit) : (framed f).crc = flitCrc (framed f) := rfl

/-- A flit from package 1 to this one, sealed. -/
def plain (op : BitVec 4) : Flit := { bareFlit op 9 0x100 [1, 2, 3, 4] 3 true .memory with spkg := 1, sealed := true }

def flit (op : BitVec 4) : Flit := framed (plain op)

def flitRow (op : BitVec 4) : FlitRow :=
  match op.toNat with
  | 0 => .write
  | 1 => .getRequest
  | 2 => .getResponse
  | 3 => .atomicRequest
  | 4 => .atomicResponse
  | 5 => .poolRequest
  | 6 => .poolResponse
  | 7 => .acknowledgement
  | 8 => .hint
  | 9 => .completion
  | _ => .discard

theorem whole (s : State) (f : Flit) (h : f.reserved = 0 ∧ f.dpkg.toNat = s.pkg ∧ f.opened = none) : Whole s (framed f) := ⟨framed_crc f, h⟩

theorem forUs (op : BitVec 4) : ForUs fab (flit op) op := ⟨whole fab (plain op) ⟨rfl, rfl, rfl⟩, rfl, rfl⟩

theorem marked (n : Nat) (h : State.reset.stripes[n]? = some 0xFFFF) : Marked fab n := ⟨0xFFFF, h, by decide⟩

theorem inTurn (op : BitVec 4) : InTurn fab 47 (flit op) := ⟨by decide, marked 47 rfl, rfl, rfl⟩

theorem fromTo (f : Flit) (h : f.dslot.toNat = 0 ∧ sourceVcn fab 0 f = some 1) : FromTo fab f 0 1 := ⟨h.1, rfl, h.2⟩

/-- A trestle buffer that is full of flits of another operation. -/
def crammed : List Held := List.replicate Config.trestleFlits { flit := { plain 0 with tag := 8 }, slot := none, verified := false, came := none }

theorem crammed_filled (s : State) : Filled s crammed := by
  unfold Filled crammed
  rw [List.countP_replicate]
  exact Nat.le_add_right _ _

def crowd : State := { fab with trestle := crammed }

theorem crammed_kept (f : Flit) (h : f.tag = 9) : Filled crowd (withoutCopy crowd f) := by
  have hc : withoutCopy crowd f = crammed := List.filter_eq_self.2 fun x hx => by
    rw [List.eq_of_mem_replicate hx]
    simp [samePiece, sameStream, h]
  rw [hc]
  exact crammed_filled _

theorem witness_FlitsAreTakenInOrder :
    (∀ op : BitVec 4, rowOf fab (flit op) = flitRow op) ∧ ClassRow (.writeFlit 47 (flit 0)) 47 (flit 0) .write ∧ Marked fab 47 ∧
    ¬Marked { fab with stripes := List.replicate 48 0 } 47 ∧
    ((acceptedAt { fab with accepted := [{ port := 47, slot := 0, spkg := 1, next := 3, broken := true, owed := false }] } 47).broken = true ∧
      (flit 0).seq ≠ (acceptedAt { fab with accepted := [{ port := 47, slot := 0, spkg := 1, next := 3, broken := false, owed := false }] } 47).next) ∧
    ({ flit 0 with payload := [] }.crc ≠ flitCrc { flit 0 with payload := [] } ∧ InTurn fab 0 { flit 0 with payload := [] }) ∧
    (let f := framed { plain 0 with dpkg := 2, rly := true }
     f.crc = flitCrc f ∧ f.dpkg.toNat ≠ fab.pkg ∧ InTurn fab 0 f ∧ InTurn crowd 0 f) ∧
    ¬Filled fab fab.trestle ∧ Filled crowd crowd.trestle :=
  ⟨by decide +kernel, .inl ⟨rfl, rfl⟩, marked 47 rfl, fun ⟨_, h, hm⟩ => hm (Option.some.inj h).symm, by decide +kernel,
    ⟨by decide +kernel, by decide, marked 0 rfl, rfl, rfl⟩,
    ⟨framed_crc _, by decide, ⟨by decide, marked 0 rfl, rfl, rfl⟩, ⟨by decide, ⟨0xFFFF, rfl, by decide⟩, rfl, rfl⟩⟩, by unfold Filled; decide, crammed_filled _⟩

/-- A run of one flit that waits for its tag, which came by a port in a slot; and its tag flit. -/
def awaiting (f : Flit) (came : Nat × Nat) : State :=
  { fab with
    trestle := [{ flit := f, slot := none, verified := false, came := some came }]
    accepted := [{ port := 47, slot := 0, spkg := 1, next := 1, broken := false, owed := true }] }

def runKey : List Byte := toLeBytes 32 1

def tagWith (bs : List Byte) : Flit := framed { plain 0 with tg := true, seq := 1, payload := bs, run := some { replies := false, offs := [0x100] } }

def opened (f : Flit) : Flit := { crypt runKey f with sealed := false, opened := some runKey }

/-- The state in which an opened flit is performed. -/
def opening (s : State) : State := dropRun (tallied s 47 { acceptedAt s 47 with owed := true } s) s.trestle

def isDone (d : Delivery) (p : State → Bool) : Bool :=
  match d with
  | .done t => p t
  | _ => false

theorem done_of {d : Delivery} {p : State → Bool} (h : isDone d p = true) : ∃ t, d = .done t ∧ p t = true := by
  cases d with
  | done t => exact ⟨t, rfl, h⟩
  | _ => exact absurd h Bool.false_ne_true

/-- A request to the pool node in a slot that is not in use. -/
def toNode : Flit := framed { plain 5 with dest := .pool, dslot := 7 }

/-- The run of one flit that `tagWith` covers. -/
def oneRun (replies : Bool) : TagRun := { replies := replies, offs := [0x100] }

/-- A piece of a transfer to the queue that is not its last. -/
def queuePiece : Flit := framed { plain 0 with dest := .queue 4, last := false }

/-- A run's tag is 16 bytes, whatever its nonce. -/
theorem tag_not_empty (f : Flit) (h : ((runTag runKey [f]).take 16).length = 16) : (runTag runKey [f]).take 16 ≠ (tagWith []).payload.take 16 := by
  intro e
  rw [e] at h
  exact absurd h (by decide)

theorem witness_FlitResults_sealed :
    (∀ op : BitVec 4, ForUs fab (flit op) op ∧ rowOf fab (flit op) = flitRow op ∧ InTurn fab 47 (flit op) ∧ FromTo fab (flit op) 0 1) ∧
    ((arrivalKey fab 0 1).isSome = true ∧ performed fab (flit 0) = false ∧ fab.trestle = [] ∧ forPool (flit 0) = false) ∧
    (NeedsTag fab (flit 0) ∧ ¬Filled fab (withoutCopy fab (flit 0)) ∧ (∀ h ∈ crammed, h.verified = false) ∧ Filled crowd (withoutCopy crowd (flit 0))) ∧
    (arrivalKey { fab with linkKeys := [] } 0 1 = none ∧ ForUs fab (framed { plain 0 with sealed := false }) 0) ∧
    ((vchip fab 7).used = false ∧ forPool toNode = true ∧ ForUs fab toNode 5 ∧ nodeKey fab toNode = none) ∧
    (sourceVcn fab 0 (framed { plain 0 with sslot := 5 }) = none ∧ ForUs fab (framed { plain 0 with sslot := 5 }) 0) := by
  refine ⟨fun op => ⟨forUs op, ?_, inTurn op, fromTo _ ⟨rfl, by revert op; decide +kernel⟩⟩, by decide +kernel,
    ⟨⟨rfl, by decide, by decide, .inl ⟨by decide, 0, 1, rfl, rfl, by decide +kernel, by decide +kernel⟩⟩, by unfold Filled; decide, ?_, crammed_kept _ rfl⟩,
    ⟨by decide +kernel, whole fab _ ⟨rfl, rfl, rfl⟩, rfl, rfl⟩, ⟨by decide +kernel, by decide +kernel, ⟨whole fab _ ⟨rfl, rfl, rfl⟩, rfl, rfl⟩, by decide +kernel⟩,
    ⟨by decide +kernel, whole fab _ ⟨rfl, rfl, rfl⟩, rfl, rfl⟩⟩
  · revert op
    decide +kernel
  · intro h hh
    rw [List.eq_of_mem_replicate hh]

theorem witness_FlitResults_tags :
    (∀ bs, Whole (awaiting (flit 1) (47, 0)) (tagWith bs) ∧ InTurn (awaiting (flit 1) (47, 0)) 47 (tagWith bs) ∧
      FromTo (awaiting (flit 1) (47, 0)) (tagWith bs) 0 1) ∧
    (arrivalKey (awaiting (flit 1) (47, 0)) 0 1 = some runKey ∧
      runOf (awaiting (flit 1) (47, 0)) (tagWith []) (oneRun false) = (awaiting (flit 1) (47, 0)).trestle ∧
      runOf (awaiting (flit 1) (47, 0)) (tagWith []) (oneRun true) = [] ∧ tagVerified (awaiting (flit 1) (47, 0)) (tagWith []) = false) ∧
    (runTag runKey [flit 1]).take 16 = (tagWith (runTag runKey [flit 1])).payload.take 16 ∧
    (∃ t, perform (opening (awaiting (flit 1) (47, 0))) (opened (flit 1)) = .done t ∧
      (t.accepted == (opening (awaiting (flit 1) (47, 0))).accepted && t.slot == 0) = true) ∧
    isDone (perform (opening (awaiting queuePiece (47, 0))) (opened queuePiece)) (fun _ => true) = false ∧
    (runTag runKey [flit 1]).take 16 ≠ (tagWith []).payload.take 16 ∧
    (awaiting (flit 1) (46, 0)).trestle.map (fun h => h.came) = [some (46, 0)] :=
  ⟨fun bs => ⟨whole _ _ ⟨rfl, rfl, rfl⟩, ⟨by decide, ⟨0xFFFF, rfl, by decide⟩, rfl, rfl⟩, ⟨rfl, rfl, (by decide +kernel : sourceVcn (awaiting (flit 1) (47, 0)) 0 (tagWith []) = some 1)⟩⟩, by decide +kernel, rfl,
    done_of (by decide +kernel), by decide +kernel, tag_not_empty _ (by decide +kernel), rfl⟩

/-- A tag that has come before its run, which its one flit completes. -/
def early : Held := { flit := tagWith (runTag runKey [flit 1]), slot := none, verified := false, came := some (47, 0) }

def expecting : State := { fab with trestle := [early] }

theorem witness_FlitResults_early :
    ForUs expecting (flit 1) 1 ∧ InTurn expecting 47 (flit 1) ∧ rowOf expecting (flit 1) = .getRequest ∧ FromTo expecting (flit 1) 0 1 ∧
    arrivalKey expecting 0 1 = some runKey ∧ performed expecting (flit 1) = false ∧ ¬Filled expecting [early] ∧
    (runTag runKey [flit 1]).take 16 = early.flit.payload.take 16 ∧
    runOf fab (tagWith []) (oneRun false) = [] ∧
    ∃ t, perform { tallied expecting 47 { acceptedAt expecting 47 with owed := true } expecting with trestle := [] } (opened (flit 1)) = .done t ∧
      (t.accepted == (tallied expecting 47 { acceptedAt expecting 47 with owed := true } expecting).accepted && t.slot == 0) = true :=
  ⟨⟨whole expecting (plain 1) ⟨rfl, rfl, rfl⟩, rfl, rfl⟩, ⟨by decide, ⟨0xFFFF, rfl, by decide⟩, rfl, rfl⟩, by decide +kernel,
    ⟨rfl, rfl, (by decide +kernel : sourceVcn expecting 0 (flit 1) = some 1)⟩, by decide +kernel, by decide +kernel, by unfold Filled; decide, rfl, rfl, done_of (by decide +kernel)⟩

theorem witness_FlitResults_open :
    (let f := framed { plain 9 with sealed := false, payload := [3] }
     let s := { fab with ops := [{ outstanding with tag := 9, left := [(0x100, 0)] }] }
     ForUs s f 9 ∧ InTurn s 47 f ∧ f.sealed = false ∧ performed s f = false ∧
      opAt s f.tag = some { outstanding with tag := 9, left := [(0x100, 0)] } ∧ answeredPiece s f = 0x100 ∧ Tokened outstanding ∧
      recField f.payload 0 1 ≠ 0) ∧ ForUs fab (flit 7) 7 ∧ InTurn fab 47 (flit 7) :=
  ⟨⟨⟨whole fab _ ⟨rfl, rfl, rfl⟩, rfl, rfl⟩, ⟨by decide, marked 47 rfl, rfl, rfl⟩, rfl, by decide +kernel, by decide +kernel, by decide +kernel,
    .inl rfl, by decide +kernel⟩, forUs 7, inTurn 7⟩

/-- A recall of the word at 0x100 of the export, made at this clock or before. -/
def recalled (fresh : Bool) : Recall :=
  { flit := plain 3, vc := 0, va := expVa fab 0 0x100, place := expKey fab 0 0x100 fabLeaf, bytes := handlerBytes 0, old := 0, fresh := fresh }

theorem exported (n : Nat) (a : Acc) (h : 0 < n ∧ n ≤ 64) (hp : protectionFails fab 0 0x243 a = false) : Exported fab 0 0x100 n a fabLeaf := by
  refine ⟨h.1, h.2, ?_, ?_, ?_, by decide +kernel, hp, .inl (by decide +kernel)⟩
  · omega
  · have : field (vchip fab 0).expsize 40 12 * 4096 = 4096 := by decide +kernel
    omega
  · have : field (vchip fab 0).expbase 47 12 * 4096 = 0x100000 := by decide +kernel
    omega

theorem witness_PieceAndTransferCompletion_requests :
    (performed { fab with dups := [{ spkg := 1, sslot := 0, tag := 9, offs := [pieceName (flit 0)], tags := [], lastNs := 0 }] } (flit 0) = true ∧
      (∀ op : BitVec 4, performed fab (plain op) = false)) ∧
    (Exported fab 0 0x100 4 { bytes := 4, write := true } fabLeaf ∧ Exported fab 0 0x100 4 { bytes := 4 } fabLeaf ∧
      Exported fab 0 0x100 (handlerBytes 0) { bytes := handlerBytes 0, write := true, atomic := true } fabLeaf) ∧
    (fab.teams.all (fun u => u.counters.isEmpty) = true ∧ (∀ n, poisonedAt fab (expKey fab 0 0x100 fabLeaf) n = false) ∧ fab.recalls = []) ∧
    (∀ b, (recalled b).flit.dslot.toNat = (recalled b).vc ∧ (recalled b).va = expVa fab 0 0x100 ∧ (recalled b).fresh = b ∧
      (recalled b).bytes = handlerBytes (recField (recalled b).flit.payload 16 1 % 32)) ∧
    (tget (vchip fab 0).endpoints 3 = some (.team 0 0 0 128) ∧ tget (vchip fab 0).endpoints 4 = some (.queue 0x100000 4096 0)) :=
  ⟨by decide +kernel, ⟨exported 4 _ (by decide) (by decide +kernel), exported 4 _ (by decide) (by decide +kernel),
      exported (handlerBytes 0) _ (by decide) (by decide +kernel)⟩, ⟨by decide +kernel, fun _ => by simp [poisonedAt, show fab.poison = [] from rfl], rfl⟩, by decide +kernel, by decide +kernel⟩

/-- A request of each pool operation, on ranges of 16 bytes that do not meet; and a handler's operands at their limits. -/
def poolRequest (o : Nat) : Flit :=
  { plain 5 with dest := .pool, dslot := 7, payload := toLeBytes 8 o ++ toLeBytes 8 0x100 ++ toLeBytes 8 0x200 ++ toLeBytes 8 16 }

theorem witness_PieceAndTransferCompletion_pool :
    (∀ o ∈ ([0, 1, 2, 3, 0x13, 0x23, 0x33, 0x43] : List Nat), let f := poolRequest o
      f.op = 5 ∧ performed fab f = false ∧ recField f.payload 0 8 = o ∧ recField f.payload 8 8 = 0x100 ∧ recField f.payload 16 8 = 0x200 ∧
        recField f.payload 24 8 = 16 ∧ o / 16 % 8 ≤ 4) ∧
    (poolKey 7 0x100 + 16 ≤ poolKey 7 0x200 ∧ 4 ∣ 16 ∧ 8 ∣ 16) ∧ (2 ^ 64 - 1 < 2 ^ 64 ∧ 2 ^ 32 - 1 < 2 ^ 32) := by
  decide +kernel

/-- An operation of each kind, whose one piece is at 0x100. -/
def waitingOp (k : PodKind) : PodOp := { outstanding with kind := k, tag := 9, left := [(0x100, 3)] }

theorem witness_PieceAndTransferCompletion_replies :
    (∀ k ∈ ([.get, .atomic, .pool, .push] : List PodKind), opAt { fab with ops := [waitingOp k] } 9 = some (waitingOp k) ∧
      answeredPiece { fab with ops := [waitingOp k] } (plain 9) = 0x100) ∧
    ((plain 2).nb = 3 ∧ 4 ≤ (plain 2).payload.length ∧ { plain 4 with nb := 7 }.nb = 7 ∧ 8 ≤ (plain 4).payload.length) ∧
    (Tokened (waitingOp .push) ∧ (waitingOp .push).err = 0 ∧ (waitingOp .push).eq = false ∧
      opAt { fab with ops := [{ waitingOp .push with left := [(0x100, 3), (0x140, 0)] }] } 9 =
        some { waitingOp .push with left := [(0x100, 3), (0x140, 0)] }) :=
  ⟨by decide +kernel, by decide +kernel, .inl rfl, rfl, rfl, by decide +kernel⟩

/-- A queue whose one flit, to be sealed or not, is for a package; the port that meets package 1 in slot 1 is the lowest one. -/
def queueing (pkg : BitVec 10) (k : Option (List Byte)) (f : Flit) : Egress :=
  { flit := { f with dpkg := pkg, spkg := 0 }, relayable := false, queuedNs := 0, key := k, came := none }

def sending (e : Egress) : State :=
  { fab with time := 2040, egress := [e], guests := State.reset.guests.set 0 { guest0 with vlim := 2 } }

/-- A write to a word that a team which has been saved counts, while the receive log is off. -/
def unlogged : State :=
  { sending (queueing 0 none (plain 0)) with teams := [{ team0 with status := .saved false, counters :=
      [{ armed := true, word := 0, base := 0x100000, len := 4096, target := 4096 }] }] }

/-- A waiting load at a member of another package. -/
def waitingReq : SpanReq := { reg := 1, rank := 1, bytes := 4, lanes := [], store := false, atom := none, form := 1, rc := 0, old := false }

theorem witness_SlotResults :
    (fab.time.toNat < (fab.slot + 1) * 2040 ∧ (fab.slot + 1) * 2040 ≤ (sending (queueing 1 none (plain 0))).time.toNat) ∧
    (∃ k, k < 48 ∧ ∃ j, 1 ≤ j ∧ (fab.pkg + 1 + (48 * (fab.slot + 1) + k) % (fab.order - 1)) % fab.order = j ∧
      (∃ b, fab.lasers[k]? = some b ∧ b ≠ 0) ∧ 2 ≤ fab.order ∧ fab.sent = []) ∧
    ((queueing 1 none (plain 0)).key = none ∧ (queueing 1 (some runKey) (plain 0)).key = some runKey) ∧
    (FromTo (sending (queueing 0 none (plain 0))) (queueing 0 none (plain 0)).flit 0 0 ∧
      isDone (perform { sending (queueing 0 none (plain 0)) with slot := 1, egress := [] } (queueing 0 none (plain 0)).flit) (fun _ => true) = true ∧
      perform { unlogged with slot := 1, egress := [] } (queueing 0 none (plain 0)).flit = .refused) ∧
    (let a : Accepted := { port := 3, slot := 0, spkg := 1, next := 2, broken := false, owed := true }
     ∀ x ∈ [a], (true = true ↔ x.slot * 2040 + 2000 ≤ (sending (queueing 0 none (plain 0))).time.toNat ∧
      ∀ h ∈ (sending (queueing 0 none (plain 0))).trestle, h.verified = false → h.came ≠ some (x.port, x.slot))) ∧
    (0 + (fab.order - 1 + 47) / 48 + 1 < 4 ∧ (0 : Nat) + 2000000 ≤ ({ fab with time := 2000000 } : State).time.toNat) ∧
    (∀ op ∈ ([0, 9] : List (BitVec 4)), let e := queueing 1 none (plain op)
      [e] = [] ++ e :: [] ∧ e.flit.tag = 9 ∧ e.queuedNs + 1000000 ≤ ({ fab with time := 2000000 } : State).time.toNat ∧ e.flit.op ≠ 7 ∧
        e.flit.run = none ∧ e.flit.spkg.toNat = fab.pkg ∧ isReply e.flit.op = decide (op = 9)) ∧
    (wholeOp { fab with ops := [waitingOp .push] } 9 = false ∧
      wholeOp { fab with ops := [{ waitingOp .spanLoad with req := some waitingReq }] } 9 = true) ∧
    (fab.lasers[3]? = some 15 ∧ (15 : BitVec 4).getLsbD (15 / 4) = true) := by
  refine ⟨by decide +kernel, ⟨0, by decide, 49, by decide, by decide +kernel, ⟨15, rfl, by decide⟩, by decide, rfl⟩, by decide +kernel,
    ⟨⟨rfl, rfl, by decide +kernel⟩, by decide +kernel, by decide +kernel⟩, by decide +kernel, by decide +kernel, by decide +kernel, by decide +kernel, by decide +kernel⟩

/-- A flit that this package relays, for package 2, in the trestle buffer since slot 0. -/
def relayed : Held := { flit := framed { plain 0 with dpkg := 2, rly := true }, slot := some 0, verified := false, came := some (47, 0) }

/-- The first slot has not begun; a relayed flit whose slot has come, with light and without; one that has waited 1 ms; and a port that is
stopped already. -/
theorem witness_SlotResults_relay :
    (fab.begun = false ∧ { fab with begun := true }.begun = true) ∧
    (∃ k, k < 48 ∧ (fab.pkg + 1 + (48 * fab.slot + k) % (fab.order - 1)) % fab.order = relayed.flit.dpkg.toNat ∧
      (∃ b, fab.lasers[k]? = some b ∧ b ≠ 0) ∧ ∀ m, m < k → (fab.pkg + 1 + (48 * fab.slot + m) % (fab.order - 1)) % fab.order ≠ 2) ∧
    (∀ m, m < 48 → ¬∃ b, { fab with lasers := List.replicate 48 0 }.lasers[m]? = some b ∧ b ≠ 0) ∧
    (relayed.slot = some 0 ∧ relayed.came = some (47, 0) ∧ 0 * 2040 + 1000000 ≤ ({ fab with time := 1000000 } : State).time.toNat ∧
      relayed.flit.run = none ∧ relayed.flit.tag = 9 ∧ isReply relayed.flit.op = false) ∧
    (3 ∉ fab.stopped ∧ 3 ∈ { fab with stopped := [3] }.stopped) ∧
    (queueing 1 none { plain 0 with run := some (oneRun false) }).flit.run = some { replies := false, offs := [0x100] } := by
  refine ⟨by decide +kernel, ⟨1, by decide, by decide +kernel, ⟨15, rfl, by decide⟩, fun m hm => ?_⟩, fun m hm => ?_, by decide +kernel, by decide +kernel, rfl⟩
  · obtain rfl : m = 0 := by omega
    decide +kernel
  · rintro ⟨b, h, hb⟩
    rw [List.getElem?_replicate_of_lt hm] at h
    exact hb (Option.some.inj h).symm

/-! ### Launches -/

/-- A kernel descriptor of one group of 16 threads with 8 registers, whose entry is at 0x200 of its image. -/
def descriptor : List Byte :=
  toLeBytes 8 0x200 ++ List.replicate 24 0 ++ [16, 8, 1, 0] ++ List.replicate 220 0

/-- An image of that one kernel: header, descriptor at 0x100, one line of code at 0x200. -/
def image : List Byte :=
  [0x41, 0x51, 0x4F, 0x31] ++ toLeBytes 2 1 ++ toLeBytes 2 1 ++ toLeBytes 8 0x280 ++ toLeBytes 8 0x100 ++ toLeBytes 8 0x200 ++ toLeBytes 8 128 ++
    List.replicate 216 0 ++ descriptor

/-- A record of a grid of two teams of it, with a priority of 40 and an argument block; `b` is its flag byte. -/
def launchRecord (b : Byte) : List Byte :=
  toLeBytes 8 0x100000 ++ [0, 0, 40, b, 0, 0, 0, 0] ++ toLeBytes 8 0x100F00 ++ toLeBytes 4 2 ++ toLeBytes 4 1 ++ toLeBytes 4 1 ++ List.replicate 92 0

def queue0 : Queue := { Queue.init with base := 0x100800, size := 4, tail := 1, en := true, everEnabled := true }

/-- A package in full service whose queue 0 holds one record in a bank page. -/
def launching (b : Byte) (x : Queue) : State :=
  writeN (writeN { machine0 with
    vchips := State.reset.vchips.set 0 { chip0 with queues := chip0.queues.set 0 x, bankWays := 1 }
    tlb := [leaf0 0 0x243] } (bankKey 0 0) image) (bankKey 0 0x800) (launchRecord b)

/-- The same with a handler launch of queue 0 pending, whose template is at an address. -/
def handling (b : Byte) (template : DWord) : State :=
  modVc (launching b queue0) 0 fun c => { c with handlers := [(0, 0x100A00)], trhrec := template }

def launch0 : Launch :=
  { id := 1, record := launchRecord 0, kernel := kernelOf 0x100000 0 descriptor, accepted := true, order := 0, n := 0, base := 0, nextTeam := 0,
    retiredTeams := 2, status := 0, spanDesc := none, spanBad := false, matched := none }

/-- The launch as it stands when it has been read, and the machine that holds it. -/
def read0 : Launch := { launch0 with accepted := false, retiredTeams := 0 }

def launched (ls : List Launch) (x : Queue) : State :=
  { machine0 with vchips := State.reset.vchips.set 0 { chip0 with queues := chip0.queues.set 0 x, launches := ls }, teams := [], groups := [] }

theorem witness_LaunchQueueResults :
    (launchable (launching 0 queue0) 0 = true ∧ (queueAt (launching 0 queue0) 0 0).head ≠ (queueAt (launching 0 queue0) 0 0).tail ∧
      (0 : Nat) < 2 ^ queue0.size.toNat ∧ 2 ^ queue0.size.toNat ≤ (16 : BitVec 64).toNat) ∧
    (launching 0 queue0).groups.length = 1 ∧ deviceRead (launching 0 { queue0 with base := 0x200000 }) 0 0x200000 128 = none ∧
    ((deviceRead (launching 0 queue0) 0 0x100800 128).map fun x => x.2) = some (launchRecord 0) ∧
    ((deviceRead (launching 0 queue0) 0 0x100800 128).all fun x => queueAt x.1 0 0 == queue0) = true ∧
    (recordDirty (launchRecord 0) = false ∧ recField (launchRecord 0) 0x0B 1 / 2 % 2 = 0 ∧ recordDirty (launchRecord 16) = true) ∧
    ((vchip (handling 16 0x100800) 0).handlers = [(0, 0x100A00)] ∧ field (vchip (handling 16 0x100800) 0).trhrec 47 7 * 128 = 0x100800 ∧
      deviceRead (handling 16 0x200000) 0 0x200000 128 = none ∧
      ((deviceRead (handling 16 0x100800) 0 0x100800 128).all fun x => x.2 == launchRecord 16 && queueAt x.1 0 0 == queue0 &&
        (vchip x.1 0).handlers == [(0, 0x100A00)] && recordDirty (x.2.take 16 ++ toLeBytes 8 0x100A00 ++ x.2.drop 24)) = true ∧
      (deviceRead (handling 16 0x100800) 0 0x100800 128).isSome = true) ∧
    (readKernel (launching 0 queue0) 0 0x100000 0).2 = some launch0.kernel ∧
    readChecks (launching 0 queue0) 0 0 1 (launchRecord 0) (some launch0.kernel) = 0 ∧
    (launchAt (launched [read0] queue0) 0 1 = some read0 ∧ depsMet (launched [read0] queue0) 0 read0 = true ∧
      depRefused (launched [read0] queue0) 0 read0 = false ∧ (readArgs (launched [read0] queue0) 0 read0).2 = some (0, 0) ∧
      tooFewTeams read0 0 = false) ∧
    (let l := { read0 with id := 2, record := launchRecord 1 }
     let s := launched [l] { queue0 with done := 1, refused := [1] }
     launchAt s 0 2 = some l ∧ depsMet s 0 l = true ∧ depRefused s 0 l = true) ∧
    (launchAt (launched [launch0] queue0) 0 1 = some launch0 ∧ launch0.retiredTeams = recTeams launch0.record ∧
      (vchip (launched [launch0] queue0) 0).reduced = false ∧ QuietEnd (launched [launch0] queue0) 0 launch0 ∧
      InOrderDone (queueAt (launched [launch0] queue0) 0 0) (idSeq launch0.id)) := by
  and_intros <;> decide +kernel

/-- A team of the launch has a store that is not performed yet. -/
theorem witness_LaunchQueueResults_stores :
    let s := { launched [launch0] queue0 with teams := [{ team0 with launch := 1 }], groups := [storing] }
    launchAt s 0 1 = some launch0 ∧ s.groups[0]? = some storing ∧ (s.teams[storing.team]?).map (fun u => (u.vc, u.launch)) = some (0, 1) ∧
      storesOut s 0 storing = true := by
  decide +kernel

/-! ### Teams -/

/-- The launch accepted, with a resume list that holds a saved team of it. -/
def queued (resume : List Nat) (teams : List Team) : State :=
  { machine0 with groups := [], teams := teams,
                  vchips := State.reset.vchips.set 0 { chip0 with launches := [{ read0 with accepted := true }], resume := resume } }

theorem witness_TeamsComeAndGo :
    ((firstResumable (queued [0] [{ placedTeam with status := .saved false }]) 0).map fun x => x.1) = some 0 ∧
    (launchable (queued [] []) 0 = true ∧ (vchip (queued [] []) 0).tdisp ≠ .error ∧ firstResumable (queued [] []) 0 = none ∧
      (startSpan (queued [] []) 0).isNone = true ∧ (takeReserve (queued [] []) 0).isNone = true ∧
      ((firstNew (queued [] []) 0).map fun x => x.1.id) = some 1 ∧ wantsEngine read0.kernel = false) ∧
    (let tm := { team0 with holdsA := false }
     let s := machine { group0 with retired := true } tm
     s.teams[0]? = some tm ∧ tm.status = .resident ∧ tm.span = none ∧ tm.vc < s.vchips.length ∧
       (s.groups.all fun g => g.retired) = true ∧ (s.cores.all fun c => c.jobs.isEmpty) = true ∧ tm.holdsB = false ∧ s.ops = []) :=
  ⟨by decide +kernel, by decide +kernel, by decide +kernel⟩

/-! ### Pre-emption and traps -/

/-- A machine at a clock of core 0, in 64 KiB of bank pages. -/
def atClock (k : DWord) (c : VChip) (g : Group) (tm : Team) : State :=
  { machine g tm with
    vchips := State.reset.vchips.set 0 { c with bankWays := 1 }
    cores := State.reset.cores.set 0 { Core.init with clock := k }
    tlb := [leaf0 4 0x243] }

/-- A team that fills its core while a launch waits for room. -/
def waiting : VChip := { chip0 with fwdctl := 12, launches := [{ read0 with accepted := true, kernel := { read0.kernel with scratch := 524288 } }] }

def idle : Team := { team0 with alloc := 128, holdsA := false, idem := true }

def saving (a : DWord) : Team := { idle with alloc := 0, idem := false, status := .saving false, imageAddr := some a }

/-- Room for images in the bank pages. -/
def roomy : VChip := { waiting with csabase := 0x100000, csasize := 0x10000 }

theorem witness_PreemptionResults :
    (ownerOf (atClock 0 waiting group0 idle) 0 = some 0 ∧ (0 : Nat) < (atClock 0 waiting group0 idle).cores.length ∧
      (coreAt (atClock 0 waiting group0 idle) 0).clock.toNat < (coreAt (atClock 0 waiting group0 idle) 0).fwdStart.toNat + 2 ^ 12) ∧
    (let s := atClock 4096 waiting group0 idle
     (coreAt s 0).fwdStart.toNat + 2 ^ 12 ≤ (coreAt s 0).clock.toNat ∧ (coreAt s 0).heldOff = false ∧ swapCandidates s 0 0 = [(0, idle)] ∧
       (vchip s 0).vacated.getLsbD (pierOf (vchip s 0) 0) = false ∧ lastIssue s 0 ≤ 0 ∧ (s.groups.all fun g => g.emul.isNone) = true) ∧
    (coreAt { atClock 4096 waiting group0 idle with cores := [{ Core.init with heldOff := true }] } 0).heldOff = true ∧
    swapCandidates (atClock 4096 { waiting with launches := [] } group0 idle) 0 0 = [] ∧
    (let tm := { idle with idem := false }
     let s := atClock 4096 roomy group0 tm
     swapCandidates s 0 0 = [(0, tm)] ∧ imagePlace (modCore s 0 fun k => { k with fwdStart := 4096, heldOff := false }) 0 tm = some 0x100000) ∧
    (let s := atClock 0 chip0 group0 (saving 0x100000)
     liveGroups s 0 ≠ [] ∧ atRest s false 0 (saving 0x100000) = true ∧ (saving 0x100000).protKey = none ∧ (saving 0x100000).windowBytes = 0 ∧
       (deviceWrite s 0 0x100000 (imageBytes s 0 (saving 0x100000) false 1 [])).isSome = true) ∧
    (let s := atClock 0 chip0 group0 (saving 0x200000)
     atRest s false 0 (saving 0x200000) = true ∧ deviceWrite s 0 0x200000 (imageBytes s 0 (saving 0x200000) false 1 []) = none ∧
       onPiers s (saving 0x200000) (vchip s 0).vacated = false) ∧
    (let tm := { idle with status := .saving false }
     tm.idem = true ∧ tm.span = none ∧ liveGroups (machine group0 tm) 0 ≠ [] ∧ (machine group0 tm).ops = []) ∧
    (let s := { machine0 with vchips := State.reset.vchips.set 0 { chip0 with vbusy := true, vacated := 1 } }
     (vchip s 0).vbusy = true ∧ ((teamsOn s 0 (vchip s 0).vacated).all fun n => !(s.teams[n]?.any isSaving)) = true) ∧
    ((vchip machine0 0).vbusy = false ∧ (chip0.vmask1 ++ chip0.vmask0).toNat < 2 ^ (vcPiers chip0).length ∧ chip0.reserve = none ∧
      teamsOn machine0 0 (chip0.vmask1 ++ chip0.vmask0) = [] ∧ 2 ^ (vcPiers chip0).length ≤ ((4 : BitVec 128)).toNat) := by
  and_intros <;> decide +kernel

/-- A vacated pier with a team that may restart; with one that is saved, where there is room for its image and where there is none. -/
def vacating (c : VChip) (tm : Team) : State := atClock 0 { c with vmask0 := 1 } group0 tm

theorem witness_PreemptionResults_vacate :
    (let s := vacating chip0 idle
     (vchip s 0).vbusy = false ∧ ((vchip s 0).vmask1 ++ (vchip s 0).vmask0).toNat < 2 ^ (vcPiers (vchip s 0)).length ∧ (vchip s 0).reserve = none ∧
       teamsOn s 0 ((vchip s 0).vmask1 ++ (vchip s 0).vmask0) = [0] ∧ idle.span = none ∧ idle.status = .resident ∧ liveGroups s 0 ≠ []) ∧
    (let tm := { idle with idem := false }
     let s1 (c : VChip) := modVc (vacating c tm) 0 fun x => { x with vacated := x.vacated ||| (x.vmask1 ++ x.vmask0), vbusy := true }
     isSaving tm = false ∧ teamsOn (vacating roomy tm) 0 1 = [0] ∧ (imagePlace (s1 roomy) 0 tm).isSome = true ∧
       imagePlace (s1 { roomy with csasize := 0 }) 0 tm = none) ∧
    (let tm := saving 0x100000
     isSaving tm = true ∧ teamsOn (vacating chip0 tm) 0 1 = [0]) := by
  and_intros <;> decide +kernel

/-- A halted team with a trap in lane 0, and a trap ring of 16 records at an address. -/
def trapGroup : Group := { group0 with fault := some { cause := 0x05, lanes := 1, addr := 0x200000, pc := placedPc, underflow := false, exc := [] } }

def haltedTeam : Team := { idle with idem := false, status := .halted }

def trapRing (base : DWord) (head tail : DWord) (tm : Team) : State :=
  atClock 0 { chip0 with trbase := base, trsize := 4, trhead := head, trtail := tail } trapGroup tm

/-- The same once the record is written, with a command in it. -/
def withCommand (cmd : Byte) : State :=
  writeN (trapRing 0x100000 0 1 { haltedTeam with recordWritten := true, recordAddr := 0x100000 }) (bankKey 0 0x38) [cmd, 0, 0, 0]

theorem witness_TrapRecordResults :
    (atRest (trapRing 0 0 0 haltedTeam) true 0 haltedTeam = true ∧ recordPlace (trapRing 0 0 0 haltedTeam) 0 = none) ∧
    (atRest (trapRing 0x100000 0 16 haltedTeam) true 0 haltedTeam = true ∧ recordPlace (trapRing 0x100000 0 16 haltedTeam) 0 = some 0x100000) ∧
    (let s := trapRing 0x100000 0 0 haltedTeam
     let s1 := { s with groups := s.groups.map fun g => if g.team = 0 then haltGroup g else g }
     atRest s true 0 haltedTeam = true ∧ recordPlace s 0 = some 0x100000 ∧ windowPlace s1 0 haltedTeam = none ∧
       (deviceWrite s1 0 0x100000 (trapRecord s1 0 haltedTeam none)).isSome = true ∧ (vchip s 0).trctl.getLsbD 1 = false ∧
       typeOn (vchip s 0).stream 6 = false) ∧
    (isHalted { haltedTeam with cmd := 1 } = true ∧ ({ haltedTeam with cmd := 1 } : Team).cmd ≠ 0) ∧
    (∀ c ∈ ([0, 2] : List Byte), ((deviceRead (withCommand c) 0 (0x100000 + 0x38) 4).map fun x => leBytes x.2) = some c.toNat) ∧
    (({ haltedTeam with cmd := 1 } : Team).cmd = 1 ∧ (vchip (withCommand 1) 0).tdisp ≠ .error ∧ haltedTeam.windowBytes = 0) ∧
    (2 ≤ ({ haltedTeam with cmd := 2 } : Team).cmd.toNat ∧ haltedTeam.span = none ∧ ((withCommand 2).cores.all fun c => c.jobs.isEmpty) = true) := by
  and_intros <;> decide +kernel

/-! ### Registers, the host and bays -/

/-- One virtual chip in use, with a bank page, an invalidation running, and a stream that records type 1. -/
def hosted (head tail : DWord) : State :=
  { machine0 with
    vchips := State.reset.vchips.set 0 { chip0 with
      bankWays := 1, tlbinv := some { page := 0x100, all := false, size := 1 }, stream := { Stream.init with
        base := 0x100000, size := 8, head := head, tail := tail, ctl := 0x200000003 } }
    pkgStream := { Stream.init with base := 0x100000, size := 8, head := head, tail := tail, ctl := 0x200000003 }
    tlb := [leaf0 4 0x243] }

theorem witness_RegisterWriteResults :
    ((vchip machine0 0).used = true ∧ machine0.pkgStat ≠ 0 ∧ machine0.vchips[0]? = some chip0) ∧ chip0.caps[31]?.isSome = true ∧
    ((11 : DWord).toNat % 32 < 12 ∧ 24 < (25 : DWord).toNat % 32 ∧ 12 ≤ (12 : DWord).toNat % 32 ∧ (24 : DWord).toNat % 32 ≤ 24) := by
  decide +kernel

theorem witness_HostLinkResults :
    (machine0.vchips[0]? = some chip0 ∧ chip0.tlbinv = none ∧ (vchip (hosted 0 0) 0).tlbinv = some { page := 0x100, all := false, size := 1 } ∧
      (hosted 0 0).vchips[0]?.isSome = true) ∧
    (typeOn (hosted 0 0).pkgStream 2 = false ∧ typeOn (hosted 0 0).pkgStream 1 = true ∧ (hosted 0 0).pkgStream.ctl.getLsbD 0 = true ∧
      (hosted 0 0).pkgStream.sinceSummary = 0 ∧ ((0 : DWord) - 0).toNat ≠ 2 ^ (hosted 0 0).pkgStream.size.toNat ∧
      ((256 : DWord) - 0).toNat = 2 ^ (hosted 0 256).pkgStream.size.toNat) ∧
    (answers (hosted 0 0) 0 = true ∧ answers (hosted 0 0) 1 = true) ∧
    (typeOn (vchip (hosted 0 0) 0).stream 2 = false ∧ typeOn (vchip (hosted 0 0) 0).stream 1 = true ∧
      (vchip (hosted 0 0) 0).stream.ctl.getLsbD 0 = true) ∧
    ((0 : DWord) - 0).toNat ≠ 2 ^ (vchip (hosted 0 0) 0).stream.size.toNat ∧
    (deviceWrite (hosted 0 0) 0 (streamSlot (vchip (hosted 0 0) 0).stream) (toLeBytes 32 0)).isSome = true ∧
    ((256 : DWord) - 0).toNat = 2 ^ (vchip (hosted 0 256) 0).stream.size.toNat ∧
    (∃ l, Machine.translate (hosted 0 0) 0 0x100000 = some l ∧ leafBk l.entry = true ∧
      protectionFails (hosted 0 0) 0 l.entry { bytes := 128, write := true } = false ∧
      protectionFails (hosted 0 0) 0 l.entry { bytes := 128 } = false ∧
      poisonedAt (hosted 0 0) (pagedKey (hosted 0 0) 0 l.entry (leafAddr l 0x100000)) 128 = false) :=
  ⟨by decide +kernel, by decide +kernel, by decide +kernel, by decide +kernel, by decide +kernel, by decide +kernel, by decide +kernel,
    ⟨_, rfl, by decide +kernel, by decide +kernel, by decide +kernel, by decide +kernel⟩⟩

/-- Lane 0 stands at the broadcast address, and the others at the next instruction; lane 1 has it in its loop buffer. -/
def strayGroup : Group :=
  { group0 with lanes := mapFrom (fun k l =>
      { l with pc := placedPc + (if k = 0 then 0 else 2), loop := if k = 1 then [(placedPc + 2, 0xFCEE)] else [], waits := 1024 }) 0 lanes0 }

theorem witness_BayEventResults :
    ((coreAt (machine strayGroup team0) 0).clock.toNat % 4 = 0 ∧
      (coreAt (machine strayGroup team0) 0).regrouped[0]? ≠ some (coreAt (machine strayGroup team0) 0).clock ∧
      bayGroups (machine strayGroup team0) 0 0 = [(0, strayGroup)] ∧ (machine strayGroup team0).teams[strayGroup.team]? = some team0 ∧
      mayIssue strayGroup team0 = true ∧ strayGroup.emul = none) ∧
    ((coreAt (atClock 3 chip0 group0 team0) 0).clock.toNat % 4 ≠ 0 ∧ ownerOf machine0 0 = some 0 ∧ sampleDue machine0 0 0 0 = false) ∧
    (strays strayGroup (laneAt strayGroup 0) = false ∧ strays strayGroup (laneAt strayGroup 1) = true ∧ strays strayGroup (laneAt strayGroup 2) = true) ∧
    ((loopBytes (laneAt strayGroup 1) (laneAt strayGroup 1).pc).isSome = true ∧ (loopBytes (laneAt strayGroup 2) (laneAt strayGroup 2).pc).isSome = false) ∧
    (live (laneAt strayGroup 0) = true ∧ 1024 ≤ (laneAt strayGroup 0).waits) ∧
    (let s := { machine0 with vchips := State.reset.vchips.set 0 { chip0 with smpEn := true } }
     ownerOf s 0 = some 0 ∧ (vchip s 0).smpEn = true ∧ placedGroups s 0 0 0 = [(0, group0, team0)] ∧
       (coreAt s 0).clock.toNat % 2 ^ (vchip s 0).smpN.toNat = 0 * 2 ^ ((vchip s 0).smpN.toNat - 3) ∧ (coreAt s 0).sampledAt[0]? ≠ some (coreAt s 0).clock ∧
       lowestPc (fun l => live l && l.st != .held && l.wake.isNone) group0 = some placedPc) := by
  decide +kernel

/-! ### The hypervisor and the device interface -/

/-- Full service, no command running, and four arguments. -/
def commanding (a : Vector DWord 4) (teams : List Team) : State := { machine0 with hvarg := a, teams := teams }

/-- Arguments for slot 1, cores of piers 2 and 3, one way of each kind. -/
def makeArgs : Vector DWord 4 := #v[1, 12, 0, 0x10101]

theorem witness_HypervisorAndAbutmentResults :
    (IsCommand .create ∧ (commanding makeArgs []).pkgStat ≠ 0) ∧ Commandable (commanding makeArgs []) ∧ namedChip (commanding makeArgs []) = 1 ∧
    ((vchip (commanding makeArgs []) 1).used = false ∧ 2 ≤ piersBelow ((hvArg (commanding makeArgs []) 2) ++ (hvArg (commanding makeArgs []) 1)) 128 ∧
      (((commanding makeArgs []).vchips.all fun x => !x.used || x.piers &&& (hvArg (commanding makeArgs []) 2 ++ hvArg (commanding makeArgs []) 1) == 0)) = true ∧
      (commanding makeArgs []).vchips.length ≤ 16 ∧ otherWays (commanding makeArgs []) 16 + 1 + 1 + 1 ≤ 16) ∧
    (piersBelow 1 128 < 2 ∧ (chip0.piers &&& 3 ≠ 0) ∧ 16 < otherWays (commanding makeArgs []) 16 + 4 + 4 + 5) ∧
    ((commanding #v[0, 0, 0, 0x10101] []).vchips[0]? = some chip0 ∧ Unlocked (commanding #v[0, 0, 0, 0x10101] []) 0 ∧
      otherWays (commanding #v[0, 0, 0, 0x10101] []) 0 + 3 ≤ 16) ∧
    ((commanding #v[0, 0, 0, 0] [team0]).teams = [team0] ∧ team0.status = .resident) ∧
    (let s := { machine0 with vchips := State.reset.vchips.set 0 { chip0 with tdisp := .run } }
     ¬Unlocked s 0 ∧ (vchip s 0).tdisp ≠ .error) ∧
    ((State.reset.guests.all fun x => x.linkCount == 0) = true ∧ State.reset.guests[0]? = some Guest.init) ∧
    (State.reset.keys[5]? = some { granted := none, key := none, version := 0 } ∧ slotLines machine0 5 = []) ∧
    (let a : DWord := 0x1000000100
     tableOk machine0 a 1 = true ∧ tableOk machine0 (0x400100) 1 = false) ∧
    ({ fab with hvrun := some (.abutment 0 0x100 1 0) }.hvrun = some (.abutment (field 0x100 3 0) 0x100 1 0) ∧ guestOps fab 0 = [] ∧
      guestOps { fab with ops := [outstanding] } 0 ≠ [] ∧ ((guestChips fab 0).all fun v => (vchip fab v).tdisp != .run) = true) := by
  refine ⟨⟨by simp [IsCommand], by decide +kernel⟩, ⟨by decide +kernel, by decide +kernel⟩, by decide +kernel, by decide +kernel, by decide +kernel,
    ⟨by decide +kernel, .inl (by decide +kernel), by decide +kernel⟩, by decide +kernel, ⟨fun h => ?_, by decide +kernel⟩, by decide +kernel, by decide +kernel,
    by decide +kernel, by decide +kernel⟩
  rcases h with h | h <;> exact absurd h (by decide +kernel)

/-- A virtual chip without teams whose one L2 line is protected, and one whose line is counted; a table entry made invalid; and a slot
granted to it. -/
def oneLine (l : L2Line) : State := { commanding #v[0, 0, 0, 0x00101] [] with l2 := [(5, l)] }

theorem witness_HypervisorAndAbutmentResults_lines :
    ((oneLine { cleanL2 with prot := some 3, dirty := true }).vchips[0]? = some chip0 ∧ field (hvArg (oneLine cleanL2) 3) 20 16 = 0 ∧
      otherWays (oneLine cleanL2) 0 + 2 ≤ 16 ∧ cleanL2.vc = 0 ∧ cleanL2.counted = none ∧ cleanL2.tomb = false) ∧
    ((vchip (oneLine { cleanL2 with counted := some 3 }) 0).used = true ∧ (oneLine cleanL2).owed = [] ∧
      typeOn (vchip (oneLine cleanL2) 0).stream 5 = false ∧ (oneLine cleanL2).teams = []) ∧
    (field 0x10000 9 8 = 0 ∧ vcnV ((0 : DWord) &&& 0xFFFFFF0000000000) = false ∧ fab.guests[0]? = some guest0 ∧ vcnV (vcnEntry guest0 1) = true ∧
      guestOps { fab with hvrun := some (.abutment 0 0x10000 0 0) } 0 = []) ∧
    ({ machine0 with keys := State.reset.keys.set 5 { granted := some 0, key := none, version := 0 } }.keys[5]?).map (fun x => x.granted) = some (some 0) := by
  decide +kernel

/-- Key 7 of a stream, its IV, and the tag of its record of one byte. -/
def streamKey : List Byte := (toLeBytes 64 (7 : BitVec 512).toNat).take 32

def streamTag : List Byte := gcmTag streamKey (toLeBytes 12 (0 ^^^ BitVec.ofNat 96 0 : BitVec 96).toNat) [] [94]

/-- A stream of one byte, with a record and its tag in the window. -/
def ingressOf (t : List Byte) : Ingress :=
  { Ingress.init with dest := 0x100000, len := 1, iv := 0, en := true, window := mapFrom (fun i b => (i, b)) 0 (94 :: t) }

def ingress0 : Ingress := ingressOf streamTag

def streaming (x : Ingress) : State :=
  { machine0 with
    vchips := State.reset.vchips.set 0 { chip0 with protWays := 1, ingress := [x], streamKeys := [(0, 7)] }
    keys := State.reset.keys.set 0 { granted := some 0, key := some 9, version := 1 }
    tlb := [leaf0 4 0x303] }

theorem tget_numbered {α : Type} (l : List α) (k i : Nat) : tget (mapFrom (fun n b => (n, b)) k l) (k + i) = l[i]? := by
  induction l generalizing k i with
  | nil => rfl
  | cons b t ih =>
    cases i with
    | zero => simp [mapFrom, tget]
    | succ j => simpa [mapFrom, tget, show k + (j + 1) = k + 1 + j by omega, show k ≠ k + 1 + j by omega] using ih (k + 1) j

/-- A window of n bytes is read back byte by byte. -/
theorem window_bytes (b : Byte) (t : List Byte) (n : Nat) (h : (b :: t).length = n) :
    (List.range n).map (fun i => (tget (mapFrom (fun i b => (i, b)) 0 (b :: t)) (0 * ingressPlace + i)).getD 0) = b :: t := by
  subst h
  have e (i : Nat) : tget (mapFrom (fun n b => (n, b)) 0 (b :: t)) (0 * ingressPlace + i) = (b :: t)[i]? := by
    rw [Nat.zero_mul, tget_numbered]
  simp only [e]
  exact List.ext_getElem (by simp) fun i h1 h2 => by
    rw [List.getElem_map, List.getElem_range, List.getElem?_eq_getElem h2, Option.getD_some]

theorem ingress0_opens : ∃ bs, openRecord (some 7) ingress0 0 = some bs ∧ bs.length = 1 := by
  have ha : (List.range 17).map (fun i => (tget (ingressOf streamTag).window (0 * ingressPlace + i)).getD 0) = 94 :: streamTag :=
    window_bytes 94 streamTag 17 (by decide +kernel)
  have hn : recordBytesOf ingress0 0 = 1 := by decide +kernel
  refine ⟨gcmCrypt streamKey (toLeBytes 12 (0 ^^^ BitVec.ofNat 96 0 : BitVec 96).toNat) [94], ?_, by decide +kernel⟩
  simp only [openRecord]
  rw [hn, show ingress0 = ingressOf streamTag from rfl, ha]
  exact if_pos (beq_iff_eq.2 rfl)

theorem witness_DeviceInterfaceResults :
    (vchip machine0 0).used = true ∧ (vchip machine0 0).spdm ≠ .versioned ∧
    (∀ a : Spdm, (vchip { machine0 with vchips := State.reset.vchips.set 0 { chip0 with spdm := a } } 0).spdm = a) ∧
    ({ chip0 with exchange := some (0, []) } : VChip).exchange = some (0, []) ∧
    (negotiated machine0 0 = false ∧ negotiated { machine0 with vchips := State.reset.vchips.set 0 { chip0 with spdm := .secured } } 0 = true) ∧
    ((vchip (streaming ingress0) 0).ingress[0]? = some ingress0 ∧ ingress0.done.toNat < ingressRecords ingress0 ∧
      recordArrived ingress0 ingress0.done.toNat = true ∧ ingress0.dest.toNat % 128 = 0) ∧
    (mustHold ingress0 0 1 = true ∧ mustHold { ingress0 with window := [] } 0 1 = false) ∧
    openRecord none ingress0 0 = none ∧
    (∃ bs, openRecord (some 7) ingress0 0 = some bs ∧ onAnyProtected (streaming ingress0) 0 0x100000 bs.length = true ∧
      (deviceWrite (streaming ingress0) 0 0x100000 bs).isSome = true) := by
  obtain ⟨bs, h, hl⟩ := ingress0_opens
  refine ⟨by decide +kernel, by decide +kernel, fun _ => rfl, rfl, by decide +kernel, ⟨rfl, by decide +kernel, by decide +kernel, by decide +kernel⟩,
    by decide +kernel, rfl, bs, h, ?_, ?_⟩
  · rw [hl]
    decide +kernel
  · rw [deviceWrite, hl, if_neg (by decide +kernel), Option.isSome_some]

/-- The scratchpad of core 0, a part of which a protected team holds. -/
theorem witness_PackageResults_scratch :
    let s := { machine group0 { team0 with protKey := some 3 } with rbaddr := 0x0100000000100000 }
    s.pkgStat ≠ 0 ∧ s.rbaddr.toNat / 2 ^ 56 = 1 ∧ s.rbaddr.toNat % 2 ^ 56 / 2 ^ 23 % 2 = 0 ∧
      (s.teams.any fun u => inPlace u && u.protKey.isSome && u.coreA == 0 && decide (u.baseA ≤ 0x100000) && decide (0x100000 < u.baseA + shareBytes u)) = true ∧
      (machine0.teams.all fun u => u.protKey.isNone) = true := by
  decide +kernel

theorem witness_PackageResults :
    (State.reset.pkgStat = 0 ∧ 0 < State.reset.vchips.length) ∧
    (({ State.reset with mhz := 300 } : State).mhz - 100 ≤ 1200 ∧ (1200 : Nat) < State.reset.mhz + 100 ∧ atRegroup State.reset = true) ∧
    (vchip (modVc State.reset 0 fun _ => reducedChip) 0).reduced = true ∧
    (let image : BootImage := { version := 0, config := [], image := [], keyX := 0, keyY := 0, sigR := 0, sigS := 0 }
     ecdsaVerify image.keyX image.keyY image.sigR image.sigS 0 = false ∧ { State.reset with olzer := some image }.olzer = some image) ∧
    (counterRead machine0 1 0x300 = some (0, 0x100) ∧ readAllowed machine0 0 0x100 = false ∧ counterRead machine0 1 0 = none ∧
      readAllowed { machine0 with guests := State.reset.guests.set 0 { Guest.init with allow := [(4, 1)] } } 0 0x100 = true) ∧
    ((0x0500000000000100 : DWord).toNat / 2 ^ 56 = 5 ∧ tableOk machine0 0x0500000000000100 1 = true) ∧ State.reset.lasers[47]?.isSome = true := by
  decide +kernel

/-! ## Operand limits: one term that each check refuses, beside one that it admits (R328) -/

theorem test_pred_limit : Instr.wellFormed (.add 1 7 3 2 1) = false ∧ Instr.wellFormed (.add 1 6 3 2 1) = true := by decide
theorem test_even_limit : Instr.wellFormed (.dadd 0 7 4 3 6) = false ∧ Instr.wellFormed (.dadd 0 7 4 2 6) = true := by decide
theorem test_load_order : Instr.wellFormed (.sld 0 0 2 0 1 4) = false ∧ Instr.wellFormed (.sld 0 0 0 1 1 4) = false ∧
    Instr.wellFormed (.sld 0 0 1 3 1 4) = true := by decide
theorem test_store_order : Instr.wellFormed (.sst 0 0 1 0 1 4) = false ∧ Instr.wellFormed (.sst 0 0 2 3 1 4) = true := by decide
theorem test_atom_order : Instr.wellFormed (.satom 0 0 0 2 4 5) = false ∧ Instr.wellFormed (.satom 0 0 3 2 4 5) = true := by decide
theorem test_satom_limits : Instr.wellFormed (.satom 10 0 3 2 4 5) = false ∧ Instr.wellFormed (.satom 9 0 3 2 4 63) = false := by decide
theorem test_ncvt_element : Instr.wellFormed (.ncvt 0 0 7 4 0 2 1) = false ∧ Instr.wellFormed (.ncvt 0 0 7 7 2 2 1) = true ∧
    Instr.wellFormed (.ncvt 0 0 7 0 3 2 1) = false := by decide
theorem test_block_base : Instr.wellFormed (.mma 0 12) = false ∧ Instr.wellFormed (.mma 0 0) = false ∧ Instr.wellFormed (.epi 0 56) = true := by decide
theorem test_pod_block : Instr.wellFormed (.psend 0 0 0 4) = false ∧ Instr.wellFormed (.psend 0 62 0 4) = false ∧
    Instr.wellFormed (.psend 0 61 0 4) = true := by decide
theorem test_special_limits : Instr.wellFormed (.srd 0x005 4) = false ∧ Instr.wellFormed (.swr 0x001 4) = false ∧
    Instr.wellFormed (.srd 0x048 5) = true := by decide
theorem test_scalar_limits : Instr.wellFormed (.smul 3 3 2 4) = false ∧ Instr.wellFormed (.scmp 6 3 2 4) = false := by decide
theorem test_lane_special_limits : Instr.wellFormed (.lrd 7 1 4) = false ∧ Instr.wellFormed (.lrd 7 0x04A 63) = false := by decide
theorem test_vector_limits : Instr.wellFormed (.dot4 3 0 7 3 2 1) = false ∧ Instr.wellFormed (.icvtF32ToInt 0 0 7 5 2 1) = false ∧
    Instr.wellFormed (.frnd 0 7 5 2 1) = false ∧ Instr.wellFormed (.dcvt 0 0 7 3 4) = false ∧ Instr.wellFormed (.redux 3 0 2 1) = false ∧
    Instr.wellFormed (.scan 0 0 3 2 1) = false := by decide
theorem test_pair_limits : Instr.wellFormed (.ld 1 0 2 1 63) = false ∧ Instr.wellFormed (.st 1 0 2 1 63) = false ∧
    Instr.wellFormed (.atomcCas 0 2 1 63) = false ∧ Instr.wellFormed (.st 2 0 2 1 63) = true := by decide
theorem test_kind_limits : Instr.wellFormed (.fence 3 0) = false ∧ Instr.wellFormed (.mstat 0 0) = false ∧ Instr.wellFormed (.capq 0 0 0) = false := by decide

/-! ## Words written out field by field from R306 and R309, and words that the spec prints -/

/-- A 32-bit word of the table. -/
def word (w : BitVec 32) : Option Instr := decodeTableWord 32 w.toNat

theorem test_decode_compact : decodeTableWord 16 (0#1 ++ 5#5 ++ 3#5 ++ 0#4 ++ 0#1 : BitVec 16).toNat = some (.addCompact 5 3) ∧
    decodeTableWord 16 0x1460 = some (.addCompact 5 3) ∧ decodeTableWord 16 0xFCEE = some (.movCompactImm 31 7) ∧
    decodeTableWord 16 0x8C4A = some (.shlCompactImm 3 2) ∧ decodeTableWord 16 0x2492 = some (.fmulCompact 9 4) := by decide +kernel
theorem test_decode_scalar : word (1#6 ++ 3#6 ++ 2#6 ++ 4#6 ++ 0x03#7 ++ 1#1) = some (.sor 3 2 4) ∧ word 0xFF81850D = some (.saddi 0xFF8 6 5) ∧
    word (0xBEEF#16 ++ 2#2 ++ 9#6 ++ 0x07#7 ++ 1#1) = some (.smovi 0xBEEF 2 9) ∧ word 0x0110861B = some (.slane 17 2 6) := by decide +kernel
theorem test_decode_scalar_memory : word (15#4 ++ 2#4 ++ 1#2 ++ 3#2 ++ 1#6 ++ 4#6 ++ 0x09#7 ++ 1#1) = some (.sld 15 2 1 3 1 4) ∧
    word 0x00E1051F = some (.satom 0 0 3 2 4 5) ∧ word 0x0001051F = some (.satom 0 0 0 0 4 5) := by decide +kernel
theorem test_decode_special : word 0x04800517 = some (.srd 0x048 5) ∧ word 0xE1000149 = some (.lrd 7 0x010 1) ∧
    word (0x049#12 ++ 6#6 ++ 0#6 ++ 0x0C#7 ++ 1#1) = some (.swr 0x049 6) := by decide +kernel
theorem test_decode_vector_integer : word 0x1C50C321 = some (.add 0 7 5 3 3) ∧ word 0x5FD18635 = some (.addi 2 0x1FD 6 6) ∧
    word 0x5C30814D = some (.bfe 1 0 7 3 2 1) ∧ word 0xE1F08139 = some (.shri 7 31 2 1) ∧ word 0x84510241 = some (.cmp 2 0 1 5 4 2) := by decide +kernel
theorem test_decode_vector_float : word 0x04308457 = some (.ffma 0 1 3 2 4) ∧ word 0x1C308163 = some (.fdiv 0 7 3 2 1) ∧
    word 0xDC00C47F = some (.dcvt 1 0 7 3 4) ∧ word (1#2 ++ 0#1 ++ 7#3 ++ 4#6 ++ 2#6 ++ 1#6 ++ 0x37#7 ++ 1#1) = some (.icvtF32ToInt 1 0 7 4 2 1) := by
  decide +kernel
theorem test_decode_convergent : word 0x1C00008F = some .gsync ∧ word (2#2 ++ 0#1 ++ 7#3 ++ 6#6 ++ 2#6 ++ 1#6 ++ 0x43#7 ++ 1#1) = some (.scan 2 1 2 2 1) := by
  decide +kernel
theorem test_decode_control : word 0xFFFF6791 = some (.bra 0xFFFF6 0 7) ∧ word 0x0200C11D = some (.sbra 32 3 1) ∧
    word (1#20 ++ 1#1 ++ 2#3 ++ 0x4D#7 ++ 1#1) = some (.refill 1 2) := by decide +kernel
theorem test_decode_memory : word (1#2 ++ 5#4 ++ 3#6 ++ 2#6 ++ 6#6 ++ 0x50#7 ++ 1#1) = some (.ld 1 5 3 2 6) ∧ word 0x00000FAF = some (.fence 3 3) ∧
    word (3#2 ++ 5#4 ++ 3#6 ++ 2#6 ++ 6#6 ++ 0x56#7 ++ 1#1) = some (.stc 5 3 2 6) := by decide +kernel
theorem test_decode_engines : word (1#2 ++ 5#4 ++ 8#6 ++ 2#6 ++ 6#6 ++ 0x58#7 ++ 1#1) = some (.cpyOut 5 8 2 6) ∧ word 0xC00000B3 = some (.mstat 0 0) ∧
    word 0x800003B5 = some (.barw 3) := by decide +kernel
theorem test_decode_pod : word (0#3 ++ 5#4 ++ 8#6 ++ 31#5 ++ 4#6 ++ 0x5C#7 ++ 1#1) = some (.psend 5 8 31 4) ∧ word 0x200149BF = some (.capq 1 5 9) ∧
    word (1#3 ++ 0#4 ++ 20#6 ++ 0#5 ++ 4#6 ++ 0x5D#7 ++ 1#1) = some (.ppool 0 20 0 4) := by decide +kernel
theorem test_decode_illegal : word 0x000000C1 = none ∧ word 0x40000051 = none ∧ decodeTableWord 16 0x8010 = none ∧
    ((word 0xA0E1051F).all fun i => !i.wellFormed) = true ∧ ((word 0x0021051F).all fun i => !i.wellFormed) = true := by decide +kernel

/-! ## One step each, on the spec's own figures -/

/-- One lane with d, a, b in v1, v2, v3. -/
def given (d a b : Word) : State :=
  machine { group0 with lanes := lanes0.map fun l => { l with v := ((l.v.set 1 d).set 2 a).set 3 b } } team0

/-- What lane 0 holds in v1 after an instruction, with the group's flags (NV 1, DZ 2, OF 4, UF 8, NX 16). -/
def yields (i : Instr) (d a b : Word) : Option (Nat × Nat) :=
  match exec i (given d a b) with
  | .next t => (t.groups[0]?).map fun g => ((readV (laneAt g 0) 1).toNat, g.fpflags.toNat)
  | _ => none

/-- What s4 holds after a scalar instruction on s2 and s3. -/
def scalarYields (i : Instr) (a b : DWord) : Option Nat :=
  match exec i (machine { group0 with s := (group0.s.set 2 a).set 3 b } team0) with
  | .next t => (t.groups[0]?).map fun g => (readS g 4).toNat
  | _ => none

/-- R450's figures: −1 and 2. -/
theorem test_smul_hi_signed : scalarYields (.smul 1 3 2 4) 0xFFFFFFFFFFFFFFFF 2 = some 0xFFFFFFFFFFFFFFFF := by decide +kernel
theorem test_smul_hi_unsigned : scalarYields (.smul 2 3 2 4) 0xFFFFFFFFFFFFFFFF 2 = some 1 := by decide +kernel
theorem test_ssra_past_width : scalarYields (.ssra 3 2 4) 0xFFFFFFFFFFFFFFFF 66 = some 0xFFFFFFFFFFFFFFFF := by decide +kernel
theorem test_sshr_past_width : scalarYields (.sshr 3 2 4) 0xFFFFFFFFFFFFFFFF 66 = some 0x3FFFFFFFFFFFFFFF := by decide +kernel
theorem test_abs_of_lowest : yields (.abs 0 7 2 1) 0 0x80000000 0 = some (0x80000000, 0) := by decide +kernel
theorem test_neg_of_lowest : yields (.neg 0 7 2 1) 0 0x80000000 0 = some (0x80000000, 0) := by decide +kernel
theorem test_mulhi_signed : yields (.mulhi 0 0 7 3 2 1) 0 0xFFFFFFFF 2 = some (0xFFFFFFFF, 0) := by decide +kernel
theorem test_sra_past_width : yields (.sra 0 7 3 2 1) 0 0x80000010 36 = some (0xF8000001, 0) := by decide +kernel
theorem test_min_signed : yields (.min 0 0 7 3 2 1) 0 0xFFFFFFFF 1 = some (0xFFFFFFFF, 0) := by decide +kernel
theorem test_min_unsigned : yields (.min 1 0 7 3 2 1) 0 0xFFFFFFFF 1 = some (1, 0) := by decide +kernel
theorem test_cvt_saturates : yields (.cvt 2 0 7 2 1) 0 300 0 = some (0x7F, 0) ∧ yields (.cvt 2 0 7 2 1) 0 0xFFFFFF38 0 = some (0xFFFFFF80, 0) := by
  decide +kernel
theorem test_cvt_extends : yields (.cvt 0 0 7 2 1) 0 0x000001F0 0 = some (0xFFFFFFF0, 0) := by decide +kernel
theorem test_bfe : yields (.bfe 0 0 7 3 2 1) 0 0x0F50 0x0804 = some (0xF5, 0) ∧ yields (.bfe 1 0 7 3 2 1) 0 0x0F50 0x0804 = some (0xFFFFFFF5, 0) := by
  decide +kernel
theorem test_bfi_drops_high_bits : yields (.bfi 0 7 3 2 1) 0xFFFFFFFF 0 0x081C = some (0x0FFFFFFF, 0) := by decide +kernel
theorem test_dot4_signed : yields (.dot4 0 0 7 3 2 1) 0x7FFFFFFF 0xFF017F80 0x80030201 = some (0x80000100, 0) := by decide +kernel
theorem test_dot4_mixed : yields (.dot4 2 0 7 3 2 1) 0 0xFF017F80 0x80030201 = some (1, 0) := by decide +kernel
theorem test_fclass : yields (.fclass 0 7 2 1) 0 0x80000001 0 = some (4, 0) ∧ yields (.fclass 0 7 2 1) 0 0x7F800001 0 = some (0x100, 0) := by decide +kernel
theorem test_fneg_of_nan : yields (.fneg 0 7 2 1) 0 0x7FC00000 0 = some (0xFFC00000, 0) := by decide +kernel
theorem test_fdiv : yields (.fdiv 0 7 3 2 1) 0 0x3F800000 0x40400000 = some (0x3EAAAAAB, 16) := by decide +kernel
theorem test_frcp_overflows : yields (.frcp 0 7 2 1) 0 0x00200000 0 = some (0x7F800000, 20) := by decide +kernel
theorem test_frsq_exact : yields (.frsq 0 7 2 1) 0 0x40800000 0 = some (0x3F000000, 0) := by decide +kernel
theorem test_fscl_underflows : yields (.fscl 0 7 3 2 1) 0 0x3FC00000 0xFFFFFF6B = some (2, 24) := by decide +kernel
theorem test_fscl_overflows : yields (.fscl 0 7 3 2 1) 0 0x3F800000 200 = some (0x7F800000, 20) := by decide +kernel
theorem test_icvt_rounds : yields (.icvtF32ToInt 0 0 7 1 2 1) 0 0x40200000 0 = some (2, 16) := by decide +kernel
theorem test_icvt_saturates : yields (.icvtF32ToInt 0 0 7 0 2 1) 0 0x4F32D05E 0 = some (0x7FFFFFFF, 1) := by decide +kernel
theorem test_icvt_unsigned : yields (.icvtF32ToInt 1 0 7 0 2 1) 0 0xBF800000 0 = some (0, 1) := by decide +kernel
theorem test_icvt_back : yields (.icvtIntToF32 1 0 7 2 1) 0 0xFFFFFFFF 0 = some (0x4F800000, 16) := by decide +kernel
theorem test_ncvt_pack : yields (.ncvt 0 0 7 5 2 2 1) 0 0x3F000000 0 = some (0x00100000, 16) := by decide +kernel
theorem test_ncvt_unpack : yields (.ncvt 1 0 7 3 0 2 1) 0 0x7E000000 0 = some (0x43E00000, 0) := by decide +kernel

/-- R406's lanes: 5, 3, 5, 7, 3, 5, 9, 7, and no other is live. -/
def matchLane (k : Nat) (l : Lane) : Lane :=
  { l with v := l.v.set 2 (([5, 3, 5, 7, 3, 5, 9, 7][k]?).getD 100), st := if k < 8 then l.st else .exited }

def matchState : State :=
  { machine { group0 with lanes := mapFrom matchLane 0 lanes0 } team0 with bundle := some { bundle0 with mask := 0xFF } }

theorem test_match : goes (exec (.matchLanes 0 2 1) matchState) (fun t =>
    ((t.groups[0]?).map fun g => (List.range 8).map fun k => (readV (laneAt g k) 1).toNat) ==
      some [0x25, 0x12, 0x25, 0x88, 0x12, 0x25, 0x40, 0x88]) = true := by decide +kernel

end Sys2Proof.Tests
end

section
/-!
The register spaces on the host link: what a write changes, and what a read returns after it (R8, R253, R280, R300, R301).
-/

namespace Sys2Proof.Laws

open Sys2Proof.Machine Sys2Proof.Claims

/-! ## A virtual chip in its place -/

theorem listMod_eq_set {α : Type} {l : List α} {n : Nat} {a : α} (h : l[n]? = some a) (f : α → α) : listMod f n l = l.set n (f a) := by
  refine List.ext_getElem? fun m => ?_
  rw [listMod_getElem?, List.getElem?_set]
  by_cases hm : m = n
  · rw [hm, h, if_pos rfl, if_pos rfl, if_pos (List.getElem?_eq_some_iff.mp h).1, Option.map_some]
  · rw [if_neg hm, if_neg (Ne.symm hm)]

theorem vchip_eq {s : State} {v : Nat} {c : VChip} (h : s.vchips[v]? = some c) : vchip s v = c := by simp [vchip, h]

/-- A slot in use exists. -/
theorem getElem?_of_used {s : State} {v : Nat} (h : (vchip s v).used = true) : s.vchips[v]? = some (vchip s v) := by
  cases hc : s.vchips[v]? with
  | none => simp [vchip, hc, VChip.init] at h
  | some c => rw [vchip_eq hc]

theorem vchip_modVc_self {s : State} {v : Nat} {c : VChip} (h : s.vchips[v]? = some c) (f : VChip → VChip) : vchip (modVc s v f) v = f c := by
  simp [vchip, modVc, h]

theorem vchip_modVc_ne {s : State} {v w : Nat} (h : w ≠ v) (f : VChip → VChip) : vchip (modVc s v f) w = vchip s w := by
  simp [vchip, modVc, listMod_getElem?_ne _ h]

theorem onlyChip_modVc {s : State} {v : Nat} {c : VChip} (h : s.vchips[v]? = some c) (f : VChip → VChip) : OnlyChip v (f c) s (modVc s v f) :=
  ⟨(List.getElem?_eq_some_iff.mp h).1, by rw [modVc, listMod_eq_set h]⟩

/-- A change that leaves the virtual chip as it is changes nothing. -/
theorem modVc_eq_self {s : State} {v : Nat} {c : VChip} (h : s.vchips[v]? = some c) {f : VChip → VChip} (hf : f c = c) : modVc s v f = s := by
  obtain ⟨hv, rfl⟩ := List.getElem?_eq_some_iff.mp h
  rw [modVc, listMod_eq_set h, hf, List.set_getElem_self]

/-! ## Fields of a written value -/

theorem keepBits_eq_and (x : DWord) (hi lo : Nat) : keepBits x hi lo = x &&& BitVec.ofNat 64 ((2 ^ (hi + 1 - lo) - 1) * 2 ^ lo) := by
  refine BitVec.eq_of_getLsbD_eq fun i hi64 => ?_
  simp only [keepBits, field, BitVec.getLsbD_and, BitVec.getLsbD_ofNat, hi64, decide_true, Bool.true_and, Nat.testBit_mul_two_pow,
    Nat.testBit_mod_two_pow, Nat.testBit_div_two_pow, Nat.testBit_two_pow_sub_one]
  by_cases h : lo ≤ i
  · simp [h, Nat.sub_add_cancel h, BitVec.getLsbD, Bool.and_comm]
  · simp [h]

/-- A size field takes the values of its range (log 22). -/
theorem sizeField_eq (x : DWord) (lo hi : Nat) (old : BitVec 5) :
    sizeField x lo hi old = if lo ≤ x.toNat % 32 ∧ x.toNat % 32 ≤ hi then x.truncate 5 else old := by
  have hx : BitVec.ofNat 5 (x.toNat % 32) = x.truncate 5 := BitVec.eq_of_toNat_eq (by simp)
  simp [sizeField, field, hx]

/-! ## The single registers of a device interface -/

/-- The places below 0x140 of the registers that are no command and of no event stream. -/
abbrev IsHeld (off : Nat) : Prop := off % 8 = 0 ∧ off ≠ 0x18 ∧ off ≠ 0x38 ∧ (off < 0x100 ∨ 0x130 ≤ off ∧ off < 0x140)

/-- What a write of such a register does to its virtual chip. -/
def writeHeld (off : Nat) (x : DWord) (c : VChip) : VChip := if 0x90 ≤ off ∧ off < 0xF0 then writeTrapReg off x c else writePlainReg off x c

/-- What such a register reads as. -/
def readHeld (off : Nat) (c : VChip) : DWord := if 0x90 ≤ off ∧ off < 0xF0 then readTrapReg off c else readPlainReg off c

theorem writeVcReg_held {s : State} {v off : Nat} (hu : (vchip s v).used = true) (ho : IsHeld off) (x : DWord) :
    writeVcReg s v off x =
      if off = 0x90 ∨ off = 0x98 ∨ off = 0xA0 then retryRecords (modVc s v (writeHeld off x)) v else modVc s v (writeHeld off x) := by
  obtain ⟨h8, h18, h38, hr⟩ := ho
  by_cases ht : 0x90 ≤ off ∧ off < 0xF0
  · simp [writeVcReg, hu, h8, h18, h38, ht, or_assoc, show writeHeld off x = writeTrapReg off x from funext fun _ => if_pos ht]
  · have hq : ¬(off = 0x90 ∨ off = 0x98 ∨ off = 0xA0) := by omega
    have hs : ¬(0x100 ≤ off ∧ off < 0x130) := by omega
    have hl : off < 0x140 := by omega
    simp [writeVcReg, hu, h8, h18, h38, ht, hq, hs, hl, show writeHeld off x = writePlainReg off x from funext fun _ => if_neg ht]

theorem readVcReg_held {s : State} {v off : Nat} (hu : (vchip s v).used = true) (ho : IsHeld off) :
    readVcReg s v off = readHeld off (vchip s v) := by
  obtain ⟨h8, -, -, hr⟩ := ho
  by_cases ht : 0x90 ≤ off ∧ off < 0xF0
  · simp [readVcReg, readHeld, hu, h8, ht]
  · have hs : ¬(0x100 ≤ off ∧ off < 0x130) := by omega
    have hl : off < 0x140 := by omega
    simp [readVcReg, readHeld, hu, h8, ht, hs, hl]

/-- What the reads of the other registers look at. -/
def tables (c : VChip) : Bool × Stream × List DWord × List Queue × List Launch × List Cap × List Ingress × Table (DWord × DWord) :=
  (c.used, c.stream, c.counters, c.queues, c.launches, c.caps, c.ingress, c.bayCounters)

@[simp] theorem tables_writeHeld (off : Nat) (x : DWord) (c : VChip) : tables (writeHeld off x c) = tables c := by
  unfold writeHeld
  split
  · unfold writeTrapReg
    split <;> rfl
  · unfold writePlainReg
    split <;> rfl

@[simp] theorem writeHeld_used (off : Nat) (x : DWord) (c : VChip) : (writeHeld off x c).used = c.used :=
  congrArg Prod.fst (tables_writeHeld off x c)

theorem readTrapReg_writePlainReg (o off : Nat) (x : DWord) (c : VChip) : readTrapReg o (writePlainReg off x c) = readTrapReg o c := by
  unfold writePlainReg
  split <;> rfl

theorem readPlainReg_writeTrapReg (o off : Nat) (x : DWord) (c : VChip) : readPlainReg o (writeTrapReg off x c) = readPlainReg o c := by
  unfold writeTrapReg
  split <;> rfl

/-- Each trap register has a field of its own. -/
theorem readTrapReg_writeTrapReg_ne {o off : Nat} (h : o ≠ off) (x : DWord) (c : VChip) :
    readTrapReg o (writeTrapReg off x c) = readTrapReg o c := by
  unfold writeTrapReg
  split <;> (unfold readTrapReg; split <;> first | rfl | contradiction)

/-- Each of the other single registers has fields of its own. -/
theorem readPlainReg_writePlainReg_ne {o off : Nat} (h : o ≠ off) (x : DWord) (c : VChip) :
    readPlainReg o (writePlainReg off x c) = readPlainReg o c := by
  unfold writePlainReg
  split <;> (unfold readPlainReg; split <;> first | rfl | contradiction)

theorem readHeld_writeHeld_ne {o off : Nat} (h : o ≠ off) (x : DWord) (c : VChip) : readHeld o (writeHeld off x c) = readHeld o c := by
  unfold readHeld writeHeld
  split
  · split
    · exact readTrapReg_writeTrapReg_ne h x c
    · exact readTrapReg_writePlainReg o off x c
  · split
    · exact readPlainReg_writeTrapReg o off x c
    · exact readPlainReg_writePlainReg_ne h x c

/-- A plain register reads as the bits that it keeps of the value written. -/
theorem readHeld_writeHeld_plain (x : DWord) (c : VChip) : ∀ p ∈ plainRegisters, readHeld p.1 (writeHeld p.1 x c) = x &&& p.2 := by
  have hones : x &&& 0xFFFFFFFFFFFFFFFF#64 = x := BitVec.and_allOnes
  simp [plainRegisters, readHeld, writeHeld, readTrapReg, writeTrapReg, readPlainReg, writePlainReg, keepBits_eq_and, hones]

theorem isHeld_of_plain : ∀ p ∈ plainRegisters, IsHeld p.1 := by decide

/-! ## Reads that a write does not change -/

/-- A read looks at the tables of its virtual chip and at the single register in its place. -/
theorem readVcReg_congr {s t : State} {v w o : Nat} (ht : tables (vchip t w) = tables (vchip s v))
    (hh : readHeld o (vchip t w) = readHeld o (vchip s v)) : readVcReg t w o = readVcReg s v o := by
  simp only [tables, Prod.mk.injEq] at ht
  obtain ⟨hu, hs, hn, hq, hl, hc, hi, hb⟩ := ht
  have hqueue (q k : Nat) : readQueue t w q k = readQueue s v q k := by simp only [readQueue, queueAt, hq, hl]
  simp only [readVcReg, hu, hs, hn, hc, hi, hb, hqueue]
  by_cases hr : 0x90 ≤ o ∧ o < 0xF0
  · rw [readHeld, readHeld, if_pos hr, if_pos hr] at hh
    simp [hr, hh]
  · rw [readHeld, readHeld, if_neg hr, if_neg hr] at hh
    simp [hr, hh]

/-- A write of a single register is seen in its place, and nowhere else. -/
theorem readReg_writeHeld_ne {s : State} {v off f o : Nat} (hu : (vchip s v).used = true) (x : DWord) (h : f ≠ v + 1 ∨ o ≠ off) :
    readReg (modVc s v (writeHeld off x)) f o = readReg s f o := by
  match f with
  | 0 => rfl
  | w + 1 =>
    by_cases hw : w = v
    · subst hw
      have ho : o ≠ off := h.resolve_left fun hf => hf rfl
      have hc : vchip (modVc s w (writeHeld off x)) w = writeHeld off x (vchip s w) := vchip_modVc_self (getElem?_of_used hu) _
      exact readVcReg_congr (by rw [hc, tables_writeHeld]) (by rw [hc, readHeld_writeHeld_ne ho])
    · have hc : vchip (modVc s v (writeHeld off x)) w = vchip s w := vchip_modVc_ne hw _
      exact readVcReg_congr (by rw [hc]) (by rw [hc])

/-- Registers show nothing of the teams. -/
theorem readReg_teams (s : State) (ts : List Team) (f o : Nat) : readReg { s with teams := ts } f o = readReg s f o := by
  cases f <;> rfl

/-! ## The arguments and the mailbox of the management interface -/

theorem hvArg_update (s : State) (k n : Nat) (x : DWord) (hk : k < 4) :
    hvArg { s with hvarg := Vector.ofFn fun i => if i.val = k then x else s.hvarg[i.val] } n = if n = k then x else hvArg s n := by
  by_cases hn : n < 4
  · simp [hvArg, hn]
  · have hne : n ≠ k := by omega
    simp [hvArg, hn, hne]

/-- What a write of a management register does: an argument of a command (0x08 to 0x20), or a word of the mailbox. -/
def writeMgmtHeld (s : State) (off : Nat) (x : DWord) : State :=
  if off = 0x1C0 then { s with rbaddr := x }
  else if off = 0x1D0 then { s with rbdata := x }
  else { s with hvarg := Vector.ofFn fun i => if i.val = off / 8 - 1 then x else s.hvarg[i.val] }

theorem plainMgmt_cases {off : Nat} (h : off ∈ plainMgmt) :
    off = 0x1C0 ∨ off = 0x1D0 ∨ off % 8 = 0 ∧ 0x08 ≤ off ∧ off ≤ 0x20 := by
  revert off
  decide

theorem writeMgmt_plain {s : State} {off : Nat} (hs : s.pkgStat ≠ 0#3) (h : off ∈ plainMgmt) (x : DWord) :
    writeMgmt s off x = writeMgmtHeld s off x := by
  obtain rfl | rfl | ⟨h8, hlo, hhi⟩ := plainMgmt_cases h
  · simp [writeMgmt, writeMgmtHeld, hs]
  · simp [writeMgmt, writeMgmtHeld, hs]
  · have h0 : off ≠ 0 := by omega
    have hm : off ≠ 0x1C0 ∧ off ≠ 0x1D0 := by omega
    simp [writeMgmt, writeMgmtHeld, hs, h8, hlo, hhi, h0, hm]

theorem readMgmt_writeMgmtHeld_self {s : State} {off : Nat} (hs : s.pkgStat ≠ 0#3) (h : off ∈ plainMgmt) (x : DWord) :
    readMgmt (writeMgmtHeld s off x) off = x := by
  obtain rfl | rfl | ⟨h8, hlo, hhi⟩ := plainMgmt_cases h
  · simp [readMgmt, writeMgmtHeld, hs]
  · simp [readMgmt, writeMgmtHeld, hs]
  · have hm : off ≠ 0x1C0 ∧ off ≠ 0x1D0 := by omega
    simp [readMgmt, writeMgmtHeld, hs, h8, hlo, hhi, hm, hvArg_update _ _ _ _ (show off / 8 - 1 < 4 by omega)]

theorem readMgmt_writeMgmtHeld_ne {s : State} {off o : Nat} (h : off ∈ plainMgmt) (ho : o ≠ off) (x : DWord) :
    readMgmt (writeMgmtHeld s off x) o = readMgmt s o := by
  obtain rfl | rfl | ⟨h8, hlo, hhi⟩ := plainMgmt_cases h
  · simp [readMgmt, writeMgmtHeld, ho, hvArg]
  · simp [readMgmt, writeMgmtHeld, ho, hvArg]
  · have hm : off ≠ 0x1C0 ∧ off ≠ 0x1D0 := by omega
    by_cases hr : o % 8 = 0 ∧ 0x08 ≤ o ∧ o ≤ 0x20
    · have harg : o / 8 - 1 ≠ off / 8 - 1 := by omega
      simp [readMgmt, writeMgmtHeld, hm, hr, hvArg_update _ _ _ _ (show off / 8 - 1 < 4 by omega), harg]
    · by_cases ho8 : o % 8 = 0
      · have ho2 : ¬(0x08 ≤ o ∧ o ≤ 0x20) := fun h2 => hr ⟨ho8, h2⟩
        simp [readMgmt, writeMgmtHeld, hm, ho8, ho2]
      · simp [readMgmt, ho8]

/-! ## Capabilities -/

/-- Where the words of the capability table stand (R237, R300). -/
theorem capability_place {ch k : Nat} (hch : ch < 32) (hk : k < 4) :
    (0x2000 + 0x20 * ch + 8 * k) % 8 = 0 ∧ (0x2000 + 0x20 * ch + 8 * k - 0x2000) / 0x20 = ch ∧ (0x2000 + 0x20 * ch + 8 * k) % 0x20 = 8 * k ∧
      0x2000 ≤ 0x2000 + 0x20 * ch + 8 * k ∧ 0x2000 + 0x20 * ch + 8 * k < 0x2400 := by
  omega

theorem writeVcReg_cap {s : State} {v ch k : Nat} (hu : (vchip s v).used = true) (hch : ch < 32) (hk : k < 4) (x : DWord) :
    writeVcReg s v (0x2000 + 0x20 * ch + 8 * k) x = modVc s v fun c => { c with caps := listMod (writeCap (8 * k) x) ch c.caps } := by
  obtain ⟨h8, hi, hr, hlo, hhi⟩ := capability_place hch hk
  generalize 0x2000 + 0x20 * ch + 8 * k = off at *
  have hpast {n : Nat} (hn : n < 0x2000) : off ≠ n ∧ ¬off < n := by omega
  simp [writeVcReg, hu, h8, hi, hr, hlo, hhi, hpast]

theorem readVcReg_cap {s : State} {v ch k : Nat} {e : Cap} (hu : (vchip s v).used = true) (hch : ch < 32) (hk : k < 4)
    (he : (vchip s v).caps[ch]? = some e) : readVcReg s v (0x2000 + 0x20 * ch + 8 * k) = readCap (8 * k) e := by
  obtain ⟨h8, hi, hr, hlo, hhi⟩ := capability_place hch hk
  generalize 0x2000 + 0x20 * ch + 8 * k = off at *
  have hpast {n : Nat} (hn : n < 0x2000) : off ≠ n ∧ ¬off < n := by omega
  simp [readVcReg, hu, h8, hi, hr, he, hlo, hhi, hpast]

/-! ## Register writes -/

theorem exec_registerWrite_chip (s : State) (v off : Nat) (x : DWord) :
    exec (.registerWrite (v + 1) off x) s = .next (writeVcReg s v off x) := by
  show execRegisterWrite (v + 1) off x s = _
  simp [execRegisterWrite, writeReg]

theorem exec_registerWrite_mgmt {off : Nat} (h : off ≠ 0x1C8) (s : State) (x : DWord) :
    exec (.registerWrite 0 off x) s = .next (writeMgmt s off x) := by
  show execRegisterWrite 0 off x s = _
  simp [execRegisterWrite, h, writeReg]

/-- A plain register of a device interface holds the bits that it keeps; beside its virtual chip, only teams are touched, whose
records are tried again (R281). -/
theorem registerWrite_plain (s : State) (v off : Nat) (m x : DWord) (hu : (vchip s v).used = true) (hp : (off, m) ∈ plainRegisters) :
    ∃ t, exec (.registerWrite (v + 1) off x) s = .next t ∧ readReg t (v + 1) off = x &&& m ∧
      (∀ f o, f ≠ v + 1 ∨ o ≠ off → readReg t f o = readReg s f o) ∧
      t = { s with vchips := t.vchips, teams := t.teams } ∧ ∀ w, w ≠ v → t.vchips[w]? = s.vchips[w]? := by
  have ho : IsHeld off := isHeld_of_plain _ hp
  obtain ⟨ts, ht⟩ : ∃ ts, writeVcReg s v off x = { modVc s v (writeHeld off x) with teams := ts } := by
    rw [writeVcReg_held hu ho]
    split
    · exact ⟨_, rfl⟩
    · exact ⟨s.teams, rfl⟩
  have hc : vchip (modVc s v (writeHeld off x)) v = writeHeld off x (vchip s v) := vchip_modVc_self (getElem?_of_used hu) _
  refine ⟨_, (exec_registerWrite_chip s v off x).trans (congrArg _ ht), ?_, fun f o h => ?_, rfl, fun w hw => listMod_getElem?_ne _ hw _⟩
  · calc readReg _ (v + 1) off = readVcReg (modVc s v (writeHeld off x)) v off := readReg_teams _ ts _ _
      _ = readHeld off (writeHeld off x (vchip s v)) := by rw [readVcReg_held (by rw [hc, writeHeld_used, hu]) ho, hc]
      _ = x &&& m := readHeld_writeHeld_plain x _ _ hp
  · rw [readReg_teams, readReg_writeHeld_ne hu x h]

theorem registerWrite_mgmt (s : State) (off : Nat) (x : DWord) (hs : s.pkgStat ≠ 0#3) (hp : off ∈ plainMgmt) :
    ∃ t, exec (.registerWrite 0 off x) s = .next t ∧ readReg t 0 off = x ∧ (∀ f o, f ≠ 0 ∨ o ≠ off → readReg t f o = readReg s f o) ∧
      t = { s with hvarg := t.hvarg, rbaddr := t.rbaddr, rbdata := t.rbdata } := by
  have hcmd : off ≠ 0x1C8 := by
    rintro rfl
    exact absurd hp (by decide)
  have hexec := exec_registerWrite_mgmt hcmd s x
  rw [writeMgmt_plain hs hp] at hexec
  refine ⟨_, hexec, readMgmt_writeMgmtHeld_self hs hp x, fun f o h => ?_, ?_⟩
  · match f with
    | 0 => exact readMgmt_writeMgmtHeld_ne hp (h.resolve_left fun hf => hf rfl) x
    | v + 1 =>
      unfold writeMgmtHeld
      split_ifs <;> rfl
  · unfold writeMgmtHeld
    split_ifs <;> rfl

/-- A write of a single register that has no trap record tried again changes its virtual chip alone. -/
theorem registerWrite_held {s : State} {v off : Nat} {c : VChip} (hc : s.vchips[v]? = some c) (hu : c.used = true) (ho : IsHeld off)
    (hr : ¬(off = 0x90 ∨ off = 0x98 ∨ off = 0xA0)) (x : DWord) :
    ∃ t, exec (.registerWrite (v + 1) off x) s = .next t ∧ OnlyChip v (writeHeld off x c) s t := by
  refine ⟨_, exec_registerWrite_chip s v off x, ?_⟩
  rw [writeVcReg_held (by rw [vchip_eq hc, hu]) ho, if_neg hr]
  exact onlyChip_modVc hc _

theorem registerWrite_cap {s : State} {v ch k : Nat} {c : VChip} {e : Cap} (hc : s.vchips[v]? = some c) (hu : c.used = true)
    (hch : ch < 32) (hk : k < 4) (he : c.caps[ch]? = some e) (x : DWord) :
    ∃ t, exec (.registerWrite (v + 1) (0x2000 + 0x20 * ch + 8 * k) x) s = .next t ∧
      OnlyChip v { c with caps := c.caps.set ch (writeCap (8 * k) x e) } s t := by
  refine ⟨_, exec_registerWrite_chip s v _ x, ?_⟩
  rw [writeVcReg_cap (by rw [vchip_eq hc, hu]) hch hk, ← listMod_eq_set he]
  exact onlyChip_modVc hc _

/-- A value out of its range leaves FWDCTL, and with it the state, as it was. -/
theorem registerWrite_fwdctl_ignored {s : State} {v : Nat} {c : VChip} {x : DWord} (hc : s.vchips[v]? = some c) (hu : c.used = true)
    (hx : x.toNat % 32 < 12 ∨ 24 < x.toNat % 32) : exec (.registerWrite (v + 1) 0x00 x) s = .next s := by
  have hsame : writeHeld 0x00 x c = c := by
    show { c with fwdctl := sizeField x 12 24 c.fwdctl } = c
    rw [sizeField_eq, if_neg (by omega)]
  rw [exec_registerWrite_chip, writeVcReg_held (by rw [vchip_eq hc, hu]) (by decide), if_neg (by decide), modVc_eq_self hc hsame]

/-- Settles O55: a write of a single register is `writeHeld` on its virtual chip, and a read sees it in its own place only. -/
theorem registerWriteResults : Obligations.RegisterWriteResults := by
  refine ⟨registerWrite_plain, registerWrite_mgmt, fun s v c x hc hu => ⟨registerWrite_fwdctl_ignored hc hu, fun hlo hhi => ?_, ?_, ?_, ?_⟩,
    fun s v c ch e x hc hu hch he => ?_⟩
  · have hw := registerWrite_held hc hu (off := 0x00) (by decide) (by decide) x
    have hsize : sizeField x 12 24 c.fwdctl = x.truncate 5 := by rw [sizeField_eq, if_pos ⟨hlo, hhi⟩]
    rwa [show writeHeld 0x00 x c = { c with fwdctl := x.truncate 5 } by rw [← hsize]; rfl] at hw
  · exact registerWrite_held hc hu (by decide) (by decide) x
  · exact registerWrite_held hc hu (by decide) (by decide) x
  · rw [← sizeField_eq]
    exact registerWrite_held hc hu (by decide) (by decide) x
  · have hu' : (vchip s v).used = true := by rw [vchip_eq hc, hu]
    have hwrite (k : Nat) (hk : k < 4) := registerWrite_cap hc hu hch hk he x
    have hread (k : Nat) (hk : k < 4) : readReg s (v + 1) (0x2000 + 0x20 * ch + 8 * k) = readCap (8 * k) e :=
      readVcReg_cap hu' hch hk (by rw [vchip_eq hc, he])
    exact ⟨hwrite 0 (by decide), hwrite 1 (by decide), hwrite 2 (by decide), hwrite 3 (by decide),
      hread 0 (by decide), hread 1 (by decide), hread 2 (by decide), hread 3 (by decide)⟩

end Sys2Proof.Laws
end

section
/-!
Fetch faults, illegal instructions, convergent instructions that hold their lanes, and the order of ready bundles (R24, R44, R51,
R52, R58, R59, R305, R328).
-/

namespace Sys2Proof.Laws

open Sys2Proof.Machine Sys2Proof.Claims

/-! ## Fetch faults -/

/-- A unit that neither path can fetch fails the fetch at its address, by broadcast and from a loop buffer. -/
theorem fetch_error_of_cause {s : State} {v die : Nat} {a : DWord} {l : Lane} {bs : List Byte} {e : BitVec 8} (ha : a.getLsbD 0 = false)
    (hb : loopBytes l a = some bs) (hc : fetchCause s v die a = some e) :
    (fetchBytes s v die a).2 = .error e ∧ loopFetch s v die l a = some (.error e) := by
  have hu : fetchUnit s v die a = (s, .error e) := by rw [fetchUnit, hc]
  refine ⟨?_, ?_⟩
  · rw [fetchBytes, ha, hu]
    rfl
  · rw [loopFetch, hb, hc]
    rfl

theorem fetchCause_outside {s : State} {v die : Nat} {a : DWord} (h : canonical a = false ∨ topByte a ≠ 0) :
    fetchCause s v die a = some 0x04 := by
  rw [fetchCause, if_pos (by simpa using h)]
  rfl

section Paged

variable {s : State} {v die : Nat} {a : DWord} (hc : canonical a = true) (ht : topByte a = 0)
include hc ht

theorem fetchCause_untranslated (h : translate s v a die = none) : fetchCause s v die a = some 0x05 := by
  rw [fetchCause, if_neg (by simp [hc, ht]), h]
  rfl

theorem fetchCause_protected {f : Leaf} (h : translate s v a die = some f)
    (hp : protectionFails s v f.entry { bytes := 2, fetch := true } = true) : fetchCause s v die a = some 0x06 := by
  rw [fetchCause, if_neg (by simp [hc, ht]), h]
  exact if_pos hp

end Paged

theorem fetchFaults : FetchFaults := by
  refine fun s v die a => ⟨fun ho => ?_, fun l bs ha hb => ⟨fun h => ?_, fun hc ht h => ?_, fun f hc ht h hp => ?_⟩⟩
  · rw [fetchBytes, if_pos ho]
    rfl
  · exact fetch_error_of_cause ha hb (fetchCause_outside h)
  · exact fetch_error_of_cause ha hb (fetchCause_untranslated hc ht h)
  · exact fetch_error_of_cause ha hb (fetchCause_protected hc ht h hp)

/-! ## Illegal instructions -/

theorem illegalInstructionsFault : IllegalInstructionsFault := by
  intro i c s hc hi hb
  refine ⟨_, ?_, fault_takes hc _ _ _⟩
  obtain ⟨he, hl⟩ | rfl := hi
  · exact exec_illegal hc (.inl he) hb hl
  · exact exec_illegal hc (.inr rfl) hb (illegal_never_legal s c)

/-- Settles O22: whatever keeps the first unit from being fetched fails both paths, and an illegal instruction is refused by the first check
of its issue. -/
theorem fetchAndLegalityFaults : Obligations.FetchAndLegalityFaults := ⟨fetchFaults, illegalInstructionsFault⟩

/-! ## Convergent instructions -/

/-- Settles O24: `issueConv` is how every convergent instruction issues, and it holds lanes that have not converged. -/
theorem convergentInstructionsHold : Obligations.ConvergentInstructionsHold := by
  intro i c s hi hc hl hn
  obtain ⟨k, hk⟩ := exec_converges i s hi
  rw [hk]
  exact issueConv_holds hc hl hn k

/-! ## The order of ready bundles -/

section Halves

variable {s : State} {b p : Bundle} {g h : Group}

theorem halves_alone (hg : s.groups[b.group]? = some g) (hf : fusedWith s b = none) : halves s b = [(g, b)] := by
  simp [halves, hf, hg]

theorem halves_fused (hg : s.groups[b.group]? = some g) (hh : s.groups[p.group]? = some h) (hf : fusedWith s b = some p) :
    halves s b = [(g, b), (h, p)] := by
  simp [halves, hf, hg, hh]

end Halves

/-- A bundle with a thread that is boosted, or due to be, has priority 31 (R51). -/
theorem ownPrio_waited {g : Group} {b : Bundle} {k : Nat} {l : Lane} (hl : g.lanes[k]? = some l) (hk : has b.mask k = true)
    (hw : 1024 ≤ l.waits) : ownPrio g b = 31 := by
  refine if_pos (List.any_eq_true.mpr ⟨(l, k), ?_, ?_⟩)
  · exact List.mem_zipIdx_iff_getElem?.mpr hl
  · simp [hk, hw]

theorem ownPrio_unwaited {g : Group} {b : Bundle}
    (h : ∀ (k : Nat) (l : Lane), g.lanes[k]? = some l → has b.mask k = true → l.waits < 1024 ∧ l.boosted = false) :
    ownPrio g b = g.prio.toNat := by
  refine if_neg fun hany => ?_
  obtain ⟨⟨l, k⟩, hmem, hx⟩ := List.any_eq_true.mp hany
  simp only [Bool.and_eq_true, Bool.or_eq_true, decide_eq_true_eq] at hx
  obtain ⟨hw, hb⟩ := h k l (List.mem_zipIdx_iff_getElem?.mp hmem) hx.1
  rcases hx.2 with hb' | hw'
  · simp [hb] at hb'
  · omega

/-- Bundle y of group h is not before bundle x of group g (R51). -/
def NotBefore (s : State) (x y : Bundle) (g h : Group) : Prop :=
  effectivePrio s y ≤ effectivePrio s x ∧
    (effectivePrio s y = effectivePrio s x → effectiveAge s x ≤ effectiveAge s y ∧ (effectiveAge s x = effectiveAge s y → g.num ≤ h.num))

theorem before_eq_false_iff {s : State} {x y : Bundle} {g h : Group} (hg : s.groups[x.group]? = some g) (hh : s.groups[y.group]? = some h) :
    before s y x = false ↔ NotBefore s x y g h := by
  unfold before NotBefore
  rw [hg, hh]
  simp only [bne_iff_ne, ne_eq]
  split_ifs with hp ha
  all_goals
    simp only [decide_eq_false_iff_not]
    omega

theorem NotBefore.trans {s : State} {x y z : Bundle} {g h k : Group} (hxy : NotBefore s x y g h) (hyz : NotBefore s y z h k) :
    NotBefore s x z g k := by
  unfold NotBefore at *
  omega

/-- Of two bundles with groups, one is not before the other. -/
theorem NotBefore.of_before {s : State} {x y : Bundle} {g h : Group} (hg : s.groups[x.group]? = some g) (hh : s.groups[y.group]? = some h)
    (hb : before s x y = true) : NotBefore s x y g h := by
  unfold before at hb
  rw [hg, hh] at hb
  simp only [bne_iff_ne, ne_eq] at hb
  unfold NotBefore
  split_ifs at hb <;> simp only [decide_eq_true_eq] at hb <;> omega

theorem NotBefore.refl (s : State) (x : Bundle) (g : Group) : NotBefore s x x g g :=
  ⟨Nat.le_refl _, fun _ => ⟨Nat.le_refl _, fun _ => Nat.le_refl _⟩⟩

theorem firstBundle_eq_none {s : State} {bs : List Bundle} (h : firstBundle s bs = none) : bs = [] := by
  cases bs with
  | nil => rfl
  | cons x xs =>
    rw [firstBundle] at h
    split at h
    · cases h
    · split at h <;> cases h

/-- The first of some bundles is one of them, and none of them is before it. -/
theorem firstBundle_first {s : State} {bs : List Bundle} (hgs : ∀ x ∈ bs, ∃ g, s.groups[x.group]? = some g) {b : Bundle}
    (hb : firstBundle s bs = some b) :
    b ∈ bs ∧ ∀ y ∈ bs, ∀ g h, s.groups[b.group]? = some g → s.groups[y.group]? = some h → NotBefore s b y g h := by
  induction bs generalizing b with
  | nil => cases hb
  | cons x xs ih =>
    rw [firstBundle] at hb
    cases hc : firstBundle s xs with
    | none =>
      cases firstBundle_eq_none hc
      cases hb
      refine ⟨List.mem_cons_self .., fun y hy g h hg hh => ?_⟩
      cases List.mem_singleton.mp hy
      cases hg.symm.trans hh
      exact NotBefore.refl s _ g
    | some c =>
      obtain ⟨hmem, hfirst⟩ := ih (fun y hy => hgs y (List.mem_cons_of_mem _ hy)) hc
      obtain ⟨gx, hgx⟩ := hgs x (List.mem_cons_self ..)
      obtain ⟨gc, hgc⟩ := hgs c (List.mem_cons_of_mem _ hmem)
      rw [hc] at hb
      simp only at hb
      split at hb
      · rename_i hcx
        cases hb
        refine ⟨List.mem_cons_of_mem _ hmem, fun y hy g h hg hh => ?_⟩
        rcases List.mem_cons.mp hy with rfl | hy
        · exact NotBefore.of_before hg hh hcx
        · exact hfirst y hy g h hg hh
      · rename_i hcx
        cases hb
        refine ⟨List.mem_cons_self .., fun y hy g h hg hh => ?_⟩
        rcases List.mem_cons.mp hy with rfl | hy
        · cases hg.symm.trans hh
          exact NotBefore.refl s _ g
        · have hxc : NotBefore s x c g gc := (before_eq_false_iff hg hgc).mp (by simpa using hcx)
          exact hxc.trans (hfirst y hy gc h hgc hh)

/-- Every bundle of a group names it. -/
theorem group_of_mem_bundlesOf {n : Nat} {g : Group} {b : Bundle} (h : b ∈ bundlesOf n g) : b.group = n := by
  rcases List.mem_append.mp h with h | h
  · rw [Option.mem_toList, broadcastBundle] at h
    split at h
    · simp only at h
      split at h
      · cases h
      · cases h
        rfl
    · split at h
      · cases h
      · split at h <;> cases h
        rfl
  · obtain ⟨k, -, hk⟩ := List.mem_filterMap.mp h
    rw [loopBundle] at hk
    split at hk
    · cases hk
    · simp only at hk
      split at hk <;> cases hk
      rfl

theorem mem_numbered {α : Type} {l : List α} {n : Nat} {x : α} : (n, x) ∈ mapFrom (fun i a => (i, a)) 0 l ↔ l[n]? = some x := by
  rw [List.mem_iff_getElem?]
  constructor
  · rintro ⟨k, hk⟩
    rw [mapFrom_getElem?, Nat.zero_add, Option.map_eq_some_iff] at hk
    obtain ⟨a, ha, he⟩ := hk
    cases he
    exact ha
  · intro h
    exact ⟨n, by rw [mapFrom_getElem?, Nat.zero_add, h, Option.map_some]⟩

theorem group_of_candidate {s : State} {b : Bundle} (h : b ∈ candidates s) : ∃ g, s.groups[b.group]? = some g := by
  obtain ⟨⟨n, g⟩, hp, hb⟩ := List.mem_flatMap.mp h
  have hg := mem_numbered.mp hp
  simp only at hb
  split at hb
  · rw [group_of_mem_bundlesOf hb]
    exact ⟨_, hg⟩
  · cases hb

/-- The bundles among which the next one is chosen are the ready ones. -/
theorem mem_freeBundles_tries {s : State} {b : Bundle} : b ∈ freeBundles (tries s) ↔ ReadyBundle s b := by
  simp only [freeBundles, tries, ReadyBundle, List.mem_map, List.mem_filter, Option.isNone_iff_eq_none]
  constructor
  · rintro ⟨x, ⟨⟨y, hy, rfl⟩, hn⟩, rfl⟩
    exact ⟨hy, hn⟩
  · rintro ⟨hb, hn⟩
    exact ⟨(b, waitsFor s b), ⟨⟨b, hb, rfl⟩, hn⟩, rfl⟩

/-- Settles O18: the next bundle is the first of the ready ones of its slot, and R51's order is a total preorder on bundles with groups. -/
theorem readyBundleOfHighestPriorityIsNext : Obligations.ReadyBundleOfHighestPriorityIsNext := by
  refine ⟨fun s turn b hb => ?_, fun s b g hg hf => ⟨?_, ?_, ?_⟩, fun s b p g h hg hh hf => ?_⟩
  · obtain ⟨hmem, hfirst⟩ := firstBundle_first
      (fun x hx => group_of_candidate (mem_freeBundles_tries.mp (List.mem_filter.mp hx).1).1) hb
    obtain ⟨hfree, hslot⟩ := List.mem_filter.mp hmem
    refine ⟨mem_freeBundles_tries.mp hfree, fun b' hr hs g g' hg hg' => hfirst b' ?_ g g' hg hg'⟩
    exact List.mem_filter.mpr ⟨mem_freeBundles_tries.mpr hr, by rwa [hs]⟩
  · simp [effectiveAge, halves_alone hg hf]
  · rintro ⟨k, l, hl, hk, hw⟩
    simp [effectivePrio, halves_alone hg hf, ownPrio_waited hl hk hw]
  · intro hall
    simp [effectivePrio, halves_alone hg hf, ownPrio_unwaited hall]
  · refine ⟨?_, ?_⟩
    · simp [effectivePrio, halves_fused hg hh hf]
    · simp only [effectiveAge, halves_fused hg hh hf, List.map_cons, List.map_nil, List.foldl_cons, List.foldl_nil]

end Sys2Proof.Laws
end

section
/-!
A bay beside its issues: regroups, boosts and samples (R46, R48, R51, R52, R296, R467).
-/

namespace Sys2Proof.Laws

open Sys2Proof.Machine Sys2Proof.Claims

/-! ## Settled lanes -/

/-- A lane that a regroup or a new clock has settled: parked where it has no loop-buffer bundle to run in, running where the broadcast
address has reached it (R43, R46). -/
def settledLane (g : Group) (l : Lane) : Lane :=
  if (strays g l && (loopInstr l).all groupWide) = true then { l with st := .parked }
  else if l.st = .parked ∧ l.wake = none ∧ lowestPc fetchable g = some l.pc then { l with st := .running } else l

theorem misses_or_groupWide (g : Group) (l : Lane) :
    (loopMiss g l || (strays g l && ((loopInstr l).map groupWide).getD false)) = (strays g l && (loopInstr l).all groupWide) := by
  unfold loopMiss
  cases loopInstr l <;> simp

theorem settleGroup_lanes (sent : Mask) (g : Group) : (settleGroup sent g).lanes = g.lanes.map (settledLane g) := by
  refine List.map_congr_left fun l _ => ?_
  simp only [misses_or_groupWide, settledLane, Bool.and_eq_true, beq_iff_eq, Option.isNone_iff_eq_none, and_assoc]

@[simp] theorem settledLane_pc (g : Group) (l : Lane) : (settledLane g l).pc = l.pc := by
  unfold settledLane
  split_ifs <;> rfl

@[simp] theorem settledLane_loop (g : Group) (l : Lane) : (settledLane g l).loop = l.loop := by
  unfold settledLane
  split_ifs <;> rfl

@[simp] theorem settledLane_wake (g : Group) (l : Lane) : (settledLane g l).wake = l.wake := by
  unfold settledLane
  split_ifs <;> rfl

theorem loopInstr_settledLane (g : Group) (l : Lane) : loopInstr (settledLane g l) = loopInstr l := by
  simp [loopInstr, loopBytes, loopUnit]

theorem strays_iff (g : Group) (l : Lane) :
    strays g l = true ↔ l.st = .running ∧ l.wake = none ∧ lowestPc fetchable g ≠ some l.pc := by
  simp [strays, and_assoc]

/-- Settling parks and runs lanes, and a lane of either state is fetched for. -/
theorem fetchable_settledLane (g : Group) (l : Lane) : fetchable (settledLane g l) = fetchable l := by
  unfold settledLane
  split_ifs with hp hr
  · obtain ⟨hst, -, -⟩ := (strays_iff g l).mp (Bool.and_eq_true_iff.mp hp).1
    simp [fetchable, hst]
  · simp [fetchable, hr.1]
  · rfl

theorem lowestPc_settleGroup (sent : Mask) (g : Group) : lowestPc fetchable (settleGroup sent g) = lowestPc fetchable g := by
  simp only [lowestPc, settleGroup_lanes, List.foldl_map, fetchable_settledLane, settledLane_pc]

/-- The lanes that run in loop-buffer bundles once a group has settled are those that strayed, had their instruction in their loop
buffer, and may issue it from there. -/
theorem strays_settledLane (sent : Mask) (g : Group) (l : Lane) :
    (strays (settleGroup sent g) (settledLane g l) && (loopInstr (settledLane g l)).isSome) =
      (strays g l && !(loopInstr l).all groupWide) := by
  rw [loopInstr_settledLane, strays, lowestPc_settleGroup, settledLane_wake, settledLane_pc]
  unfold settledLane
  split_ifs with hp hr
  · simp [(Bool.and_eq_true_iff.mp hp).2]
  · simp [strays, hr.2.2]
  · cases hs : strays g l
    · rw [strays] at hs
      rw [hs]
      rfl
    · have hall : (loopInstr l).all groupWide = false := by simpa [hs] using hp
      rw [strays] at hs
      rw [hs, hall]
      cases hi : loopInstr l
      · simp [hi] at hall
      · rfl

/-! ## Bundles by address -/

theorem has_bundlesBy {f : Nat → Lane → Bool} {g : Group} {m : Mask} (h : m ∈ bundlesBy f g) :
    ∃ pc, ∀ k, k < 64 → k < g.lanes.length → (has m k = true ↔ f k (laneAt g k) = true ∧ (laneAt g k).pc = pc) := by
  obtain ⟨pc, -, rfl⟩ := List.mem_map.mp h
  exact ⟨pc, fun k hk hl => by simp [has_laneMask_lt g _ k hk hl]⟩

/-- Each lane that is picked stands in the bundle of its address. -/
theorem exists_bundlesBy {f : Nat → Lane → Bool} {g : Group} {k : Nat} (hk : k < 64) (hl : k < g.lanes.length)
    (h : f k (laneAt g k) = true) : ∃ m, m ∈ bundlesBy f g ∧ has m k = true := by
  have hlane : g.lanes[k]? = some (laneAt g k) := by simp [laneAt, hl]
  have hpc : (laneAt g k).pc ∈ pcsOf f g := by
    rw [pcsOf, List.mem_eraseDups]
    refine List.mem_map.mpr ⟨(laneAt g k, k), List.mem_filter.mpr ⟨?_, h⟩, rfl⟩
    exact List.mem_zipIdx_iff_getElem?.mpr hlane
  exact ⟨_, List.mem_map.mpr ⟨_, hpc, rfl⟩, by simp [has_laneMask_lt g _ k hk hl, h]⟩

/-! ## A bay with one group -/

theorem getElem?_of_bayGroups {s : State} {core bay n : Nat} {g : Group} (h : bayGroups s core bay = [(n, g)]) : s.groups[n]? = some g := by
  have hmem : (n, g) ∈ bayGroups s core bay := h ▸ List.mem_singleton_self _
  exact mem_numbered.mp (List.mem_filter.mp hmem).1

/-- A group that is as it was stands where it stood. -/
theorem mem_bayGroups_congr {s u : State} {core bay n : Nat} {g : Group} (h : (n, g) ∈ bayGroups u core bay) (ht : u.teams = s.teams)
    (hg : u.groups[n]? = s.groups[n]?) : (n, g) ∈ bayGroups s core bay := by
  obtain ⟨hmem, hin⟩ := List.mem_filter.mp h
  rw [mem_numbered, hg] at hmem
  exact List.mem_filter.mpr ⟨mem_numbered.mpr hmem, by rwa [ht] at hin⟩

/-- Bundles of one group do not fuse (R53). -/
theorem fusedPairs_one_group {s : State} {n : Nat} {bs : List Bundle} (h : ∀ b ∈ bs, b.group = n) : fusedPairs s bs [] = [] := by
  induction bs with
  | nil => rfl
  | cons a as ih =>
    have hnone : (as.find? fun b => !([] : List Bundle).contains b && fuses s a b) = none := by
      refine List.find?_eq_none.mpr fun b hb => ?_
      have hab : a.group = b.group := (h a (List.mem_cons_self ..)).trans (h b (List.mem_cons_of_mem _ hb)).symm
      unfold fuses
      split
      · split <;> simp [hab]
      · simp
    rw [fusedPairs, hnone]
    exact ih fun b hb => h b (List.mem_cons_of_mem _ hb)

/-- The groups of a bay as a regroup settles them, before any bundles fuse. -/
def regroupedOne (s : State) (g : Group) (tm : Team) (n : Nat) : State :=
  modGroup (modGroup (countBay s tm.vc g.core g.bay 0x020 (g.lanes.countP (loopMiss g))) n (settleGroup 0)) n regroupOne

theorem execRegroup_one {s : State} {core bay n : Nat} {g : Group} {tm : Team} (hd : regroupDue s core bay = true)
    (hb : bayGroups s core bay = [(n, g)]) (ht : s.teams[g.team]? = some tm) (hm : mayIssue g tm = true) (he : g.emul = none) :
    execRegroup core bay s = .next (modCore (regroupedOne s g tm n) core fun c =>
      { c with regrouped := listMod (fun _ => c.clock) bay c.regrouped }) := by
  have hg : s.groups[n]? = some g := getElem?_of_bayGroups hb
  have hsettle : modGroup (settleOne (fun _ => 0) s n) n regroupOne = regroupedOne s g tm n := by
    simp only [settleOne, hg, ht, hm, he, Option.isNone_none, Bool.and_true, if_true]
    rfl
  have hone : ∀ p ∈ bayGroups (regroupedOne s g tm n) core bay, p.1 = n := by
    rintro ⟨m, x⟩ hp
    by_contra hne
    have hsame : (regroupedOne s g tm n).groups[m]? = s.groups[m]? := by
      show (listMod regroupOne n (listMod (settleGroup 0) n s.groups))[m]? = _
      rw [listMod_getElem?_ne _ hne, listMod_getElem?_ne _ hne]
    have hmem : (m, x) ∈ bayGroups s core bay := mem_bayGroups_congr hp rfl hsame
    rw [hb, List.mem_singleton] at hmem
    exact hne (Prod.mk.inj hmem).1
  rw [execRegroup, hd, hb]
  simp only [Bool.not_true, Bool.false_eq_true, if_false, List.foldl_cons, List.foldl_nil, hsettle]
  rw [fusedPairs_one_group (n := n)]
  · rfl
  · intro b hbm
    obtain ⟨p, hp, hbp⟩ := List.mem_flatMap.mp hbm
    split at hbp
    · exact (group_of_mem_bundlesOf hbp).trans (hone p hp)
    · cases hbp

/-- A group after a regroup: its priority, yield and fusions, its lanes, and a loop-buffer bundle for each address away from the broadcast
address (R46, R48, R52, R467). -/
theorem regroupOne_settleGroup (g : Group) :
    let g' := regroupOne (settleGroup 0 g)
    g' = { g with prio := g.prioNext.getD g.prio, prioNext := none, yielded := 0, fused := [], lanes := g'.lanes, loops := g'.loops } ∧
    g'.lanes = g.lanes.map (settledLane g) ∧
    let loops (k : Nat) : Prop := strays g (laneAt g k) = true ∧ (loopInstr (laneAt g k)).all groupWide = false
    (∀ m, m ∈ g'.loops → ∃ pc, ∀ k, k < 64 → k < g.lanes.length → (m.getLsbD k = true ↔ loops k ∧ (laneAt g k).pc = pc)) ∧
    ∀ k, k < 64 → k < g.lanes.length → loops k → ∃ m, m ∈ g'.loops ∧ m.getLsbD k = true := by
  have hlen : (settleGroup 0 g).lanes.length = g.lanes.length := by rw [settleGroup_lanes, List.length_map]
  have hlane (k : Nat) (hl : k < g.lanes.length) : laneAt (settleGroup 0 g) k = settledLane g (laneAt g k) := by
    simp [laneAt, settleGroup_lanes, hl]
  have hloops (k : Nat) (hl : k < g.lanes.length) :
      (strays (settleGroup 0 g) (laneAt (settleGroup 0 g) k) && (loopInstr (laneAt (settleGroup 0 g) k)).isSome) = true ↔
        strays g (laneAt g k) = true ∧ (loopInstr (laneAt g k)).all groupWide = false := by
    rw [hlane k hl, strays_settledLane, Bool.and_eq_true, Bool.not_eq_true']
  refine ⟨rfl, settleGroup_lanes 0 g, fun m hm => ?_, fun k hk hl h => ?_⟩
  · obtain ⟨pc, hpc⟩ := has_bundlesBy hm
    exact ⟨pc, fun k hk hl => (hpc k hk (hlen.symm ▸ hl)).trans
      (and_congr (hloops k hl) (by rw [hlane k hl, settledLane_pc]))⟩
  · exact exists_bundlesBy hk (hlen.symm ▸ hl) ((hloops k hl).mpr h)

/-! ## The events of a bay -/

theorem regroupDue_iff (s : State) (core bay : Nat) :
    regroupDue s core bay = true ↔ (coreAt s core).clock.toNat % 4 = 0 ∧ (coreAt s core).regrouped[bay]? ≠ some (coreAt s core).clock := by
  simp [regroupDue]

theorem waitCountBoost_boosts {s : State} {n k : Nat} {g : Group} {l : Lane} (hg : s.groups[n]? = some g) (hl : g.lanes[k]? = some l)
    (hlive : live l = true) (hw : 1024 ≤ l.waits) : exec (.waitCountBoost n k) s =
      .next { s with groups := s.groups.set n { g with lanes := g.lanes.set k { l with boosted := true } } } := by
  show execWaitCountBoost n k s = _
  rw [execWaitCountBoost, modGroup, listMod_eq_set hg, listMod_eq_set hl, if_pos (by simp [hlive, hw])]

theorem pcSample_one {s : State} {core bay v n : Nat} {g : Group} {tm : Team} {pc : DWord} (ho : ownerOf s core = some v)
    (hd : sampleDue s v core bay = true) (hp : placedGroups s v core bay = [(n, g, tm)])
    (hpc : lowestPc (fun l => live l && l.st != .held && l.wake.isNone) g = some pc) :
    let s1 := modCore s core fun c => { c with
      sampled := listMod (fun _ => g.place) bay c.sampled, sampledAt := listMod (fun _ => c.clock) bay c.sampledAt }
    exec (.pcSample core bay) s = .next (event s1 v 1 (sampleFields s1 g tm (sampleReason s n g tm) pc)) := by
  show execPcSample core bay s = _
  have hnext (last : Nat) : nextSample last [(n, g, tm)] = some (n, g, tm) := rfl
  simp only [execPcSample, ho, hd, hp, hnext, broadcastPc, hpc]
  rfl

/-- Settles O57: the one group of a bay is settled and its bundles are formed again, with none to fuse with; boosts and samples change the
fields that they name. -/
theorem bayEventResults : Obligations.BayEventResults := by
  refine ⟨fun s core bay h => ?_, fun s core bay n g tm hclock hnot hb ht hm he => ?_, fun s n k g l => waitCountBoost_boosts,
    fun s core bay v ho hn => ?_, fun s core bay v n g tm pc ho hen hbay hp hclock hnot hpc => ?_⟩
  · show execRegroup core bay s = _
    have hd : regroupDue s core bay = false := by
      rw [← Bool.not_eq_true, regroupDue_iff]
      exact fun hd => h.elim (fun hc => hc hd.1) hd.2
    rw [execRegroup, hd]
    rfl
  · have hg : s.groups[n]? = some g := getElem?_of_bayGroups hb
    refine ⟨_, _, execRegroup_one ((regroupDue_iff s core bay).mpr ⟨hclock, hnot⟩) hb ht hm he, rfl,
      (Elsewhere.countBay n s tm.vc g.core g.bay 0x020 _).chips, fun m hne => ?_, ?_, regroupOne_settleGroup g⟩
    · show (listMod regroupOne n (listMod (settleGroup 0) n s.groups))[m]? = _
      rw [listMod_getElem?_ne _ hne, listMod_getElem?_ne _ hne]
    · show (listMod regroupOne n (listMod (settleGroup 0) n s.groups))[n]? = _
      simp [hg]
  · show execPcSample core bay s = _
    simp [execPcSample, ho, hn]
  · exact pcSample_one ho (by simp [sampleDue, hen, hbay, hclock, hnot]) hp hpc

end Sys2Proof.Laws
end

section
/-!
Calls and returns: which lanes fail and how, the spills of full return stacks, and the pops of R63 (R62 to R65, R442).
-/

namespace Sys2Proof.Laws

open Sys2Proof.Machine Sys2Proof.Claims

/-! ## Lanes of a mask, and the fault of the lowest -/

theorem lt_of_has {m : Mask} {k : Nat} (h : has m k = true) : k < 64 := by
  by_contra hk
  rw [has, BitVec.getLsbD_of_ge _ _ (Nat.le_of_not_lt hk)] at h
  cases h

theorem mem_lanesIn {g : Group} {m : Mask} {k : Nat} : k ∈ lanesIn g m ↔ k < g.lanes.length ∧ has m k = true := by
  simp [lanesIn]

theorem lanesIn_ascending (g : Group) (m : Mask) : (lanesIn g m).Pairwise (· < ·) := List.pairwise_lt_range.filter _

theorem has_foldl_bit64 {α : Type} (f : α → Nat) (ls : List α) (m : Mask) (k : Nat) :
    has (ls.foldl (fun m q => m ||| bit64 (f q)) m) k = true ↔ has m k = true ∨ (k < 64 ∧ ∃ q ∈ ls, f q = k) := by
  induction ls generalizing m with
  | nil => simp
  | cons q ls ih =>
    rw [List.foldl_cons, ih, has_or, has_bit64]
    simp only [Bool.or_eq_true, Bool.and_eq_true, decide_eq_true_eq, beq_iff_eq, List.mem_cons, exists_eq_or_imp]
    tauto

/-- The lanes of a mask, as a mask. -/
theorem has_foldl_filter_lanesIn (g : Group) (m : Mask) (p : Nat → Bool) (k : Nat) :
    has (((lanesIn g m).filter p).foldl (fun m q => m ||| bit64 q) 0) k = true ↔ (k < g.lanes.length ∧ has m k = true) ∧ p k = true := by
  rw [has_foldl_bit64 fun q => q]
  simp only [BitVec.ofNat_eq_ofNat, zero_has, Bool.false_eq_true, false_or, List.mem_filter, exists_eq_right, mem_lanesIn, and_iff_right_iff_imp]
  exact fun h => lt_of_has h.1.2

/-- Where no lane fails there is no fault. -/
theorem firstFault_none {ls : List Nat} {f : Nat → Option (Nat × BitVec 8 × DWord)} (h : ∀ k ∈ ls, f k = none) :
    firstFault (ls.filterMap f) = none := by
  rw [List.filterMap_eq_nil_iff.mpr h]
  rfl

/-- The failures of some lanes, lowest first, begin with that of the lowest lane that fails. -/
theorem filterMap_lowest {f : Nat → Option (Nat × BitVec 8 × DWord)} {ls : List Nat} (hs : ls.Pairwise (· < ·)) {j : Nat} (hj : j ∈ ls)
    {q : Nat × BitVec 8 × DWord} (hq : f j = some q) (hlow : ∀ k ∈ ls, k < j → f k = none) : ∃ qs, ls.filterMap f = q :: qs := by
  induction ls with
  | nil => cases hj
  | cons k ks ih =>
    obtain ⟨hk, hs⟩ := List.pairwise_cons.mp hs
    rcases List.mem_cons.mp hj with rfl | hj
    · exact ⟨_, List.filterMap_cons_some hq⟩
    · rw [List.filterMap_cons_none (hlow k (List.mem_cons_self ..) (hk j hj))]
      exact ih hs hj fun i hi => hlow i (List.mem_cons_of_mem _ hi)

/-- The fault of a mask's lanes is that of the lowest lane that fails, and reports the lanes that fail for its cause. -/
theorem firstFault_lowest {c : Ctx} {m : Mask} {f : Nat → Option (Nat × BitVec 8 × DWord)} (hf : ∀ k q, f k = some q → q.1 = k) {j : Nat}
    {r : BitVec 8} {a : DWord} (hj : LowestThat c m (fun k => (f k).isSome = true) j) (hq : f j = some (j, r, a)) :
    ∃ x, firstFault ((lanesIn c.g m).filterMap f) = some (r, x, a) ∧
      ∀ k, has x k = true ↔ (k < c.g.lanes.length ∧ has m k = true) ∧ ∃ b, f k = some (k, r, b) := by
  obtain ⟨hlen, hmask, -, hlow⟩ := hj
  obtain ⟨qs, hqs⟩ := filterMap_lowest (lanesIn_ascending c.g m) (mem_lanesIn.mpr ⟨hlen, hmask⟩) hq
    fun k hk hkj => Option.not_isSome_iff_eq_none.mp (hlow k hkj (mem_lanesIn.mp hk).2)
  refine ⟨_, by rw [hqs]; rfl, fun k => ?_⟩
  rw [← hqs, has_foldl_bit64 fun q : Nat × BitVec 8 × DWord => q.1]
  simp only [BitVec.ofNat_eq_ofNat, zero_has, Bool.false_eq_true, false_or, List.mem_filter, List.mem_filterMap, mem_lanesIn, beq_iff_eq]
  constructor
  · rintro ⟨-, ⟨i, r', b⟩, ⟨⟨i', hi, hfi⟩, rfl⟩, rfl⟩
    cases hf _ _ hfi
    exact ⟨hi, b, hfi⟩
  · rintro ⟨hk, b, hfk⟩
    exact ⟨lt_of_has hk.2, _, ⟨⟨k, hk, hfk⟩, rfl⟩, rfl⟩

/-! ## Entries of return stacks in the team window -/

section Slots

variable {c : Ctx} {a : DWord} {off : Nat}

theorem toNat_stackSlot (h : StackSlot c a off) : a.toNat = 0xFF * 2 ^ 56 + off := by
  obtain ⟨rfl, -, -, hlt⟩ := h
  rw [BitVec.toNat_add, BitVec.toNat_ofNat, show (0xFF00000000000000 : DWord).toNat = 0xFF00000000000000 from rfl]
  omega

theorem topByte_stackSlot (h : StackSlot c a off) : topByte a = 0xFF := by
  have hn := toNat_stackSlot h
  obtain ⟨-, -, -, hlt⟩ := h
  rw [Machine.topByte, field, hn]
  omega

theorem offset_stackSlot (h : StackSlot c a off) : field a 23 0 = off := by
  have hn := toNat_stackSlot h
  obtain ⟨-, -, -, hlt⟩ := h
  rw [field, hn]
  omega

theorem canonical_stackSlot (h : StackSlot c a off) : canonical a = true := by
  have hn := toNat_stackSlot h
  have hf : field a 55 24 = 0 := by
    obtain ⟨-, -, -, hlt⟩ := h
    rw [field, hn]
    omega
  simp [Machine.canonical, topByte_stackSlot h, hf]

/-- An access to an entry passes its checks (R343). -/
theorem addrCheck_stackSlot (h : StackSlot c a off) (s : State) (write : Bool) : addrCheck s c.t a (stackAcc write) = none := by
  have hn := toNat_stackSlot h
  have ho := offset_stackSlot h
  have ht := topByte_stackSlot h
  have hcan := canonical_stackSlot h
  obtain ⟨-, h8, hfit, -⟩ := h
  have hal : a.toNat % (stackAcc write).bytes = 0 := by
    show a.toNat % 8 = 0
    omega
  have hcause : teamWindowCause c.t off (stackAcc write) = 0 := if_pos hfit
  simp [Machine.addrCheck, hcan, ht, hal, ho, hcause]

theorem placeOf_stackSlot (h : StackSlot c a off) (s : State) : placeOf s c.t a = .scratch (teamKey c.t off) := by
  have ho := offset_stackSlot h
  have ht := topByte_stackSlot h
  obtain ⟨-, -, hfit, -⟩ := h
  simp [Machine.placeOf, ht, ho, show off < c.t.alloc by omega]

theorem beyondTeam_stackSlot (h : StackSlot c a off) : beyondTeam a = false := by simp [Machine.beyondTeam, topByte_stackSlot h]

end Slots

/-! ## Lanes that go to addresses of their own -/

theorem relTarget_eq_target (c : Ctx) {w : Nat} (off : BitVec w) : relTarget c off = target c off := by
  rw [relTarget, nextPc, target, BitVec.ofInt_add, BitVec.ofInt_add, BitVec.ofInt_mul, BitVec.ofInt_natCast, BitVec.ofNat_toNat,
    BitVec.setWidth_eq, BitVec.shiftLeft_eq_mul_twoPow, BitVec.mul_comm]
  rfl

/-- The lanes of a group that moved on, and of which some then changed. -/
theorem lanesDid_onLanes_advance {i : Instr} {c : Ctx} {m : Mask} (hm : ∀ k, has m k = true → has c.b.mask k = true)
    {f : Nat → Lane → Lane} {W : Nat → Lane → Lane → Prop} (clock : DWord)
    (hW : ∀ k, k < c.g.lanes.length → has m k = true →
      W k (laneAt c.g k) (f k (movedTo (c.b.pc + BitVec.ofNat 64 (instrBytes i)) (laneAt c.g k)))) :
    LanesDid i c m W (onLanes m f (advance i c clock c.g)) := by
  refine ⟨by simp, fun k hk => ?_⟩
  rw [laneAt_onLanes _ _ _ _ (by simpa using hk), advance_lanes _ _ _ _ _ hk]
  by_cases h : has m k = true
  · simpa only [h, if_true, hm k h] using hW k hk h
  · simp [h]

theorem lanesDid_congr {i : Instr} {c : Ctx} {m : Mask} {W : Nat → Lane → Lane → Prop} {g g' : Group} (h : LanesDid i c m W g)
    (e : g'.lanes = g.lanes) : LanesDid i c m W g' := by
  unfold LanesDid laneAt at *
  rwa [e]

/-! ## Pushes -/

section Pushes

variable {s : State} {c : Ctx} {k : Nat}

theorem pushFails_fst {q : Nat × BitVec 8 × DWord} (h : pushFails s c k = some q) : q.1 = k := by
  unfold pushFails at h
  simp only at h
  split_ifs at h
  · cases h
    rfl
  · obtain ⟨r, -, rfl⟩ := Option.map_eq_some_iff.mp h
    rfl

theorem pushFails_eq_some_iff {r : BitVec 8} {a : DWord} :
    pushFails s c k = some (k, r, a) ↔ PushFails s c k r ∧ a = (laneAt c.g k).stack - 8 := by
  unfold pushFails PushFails
  simp only
  split_ifs with hd hl
  · simp [show ¬4 ≤ (laneAt c.g k).d by omega]
  · simp only [Option.some.injEq, Prod.mk.injEq, true_and, hl, show ¬c.g.stacklim.toNat ≤ ((laneAt c.g k).stack - 8).toNat by omega,
      false_and, or_false, show 4 ≤ (laneAt c.g k).d by omega]
    exact and_congr eq_comm eq_comm
  · simp only [Option.map_eq_some_iff, Prod.mk.injEq, true_and, hl, false_and, false_or, show 4 ≤ (laneAt c.g k).d by omega,
      show c.g.stacklim.toNat ≤ ((laneAt c.g k).stack - 8).toNat by omega, Prod.exists]
    constructor
    · rintro ⟨st, r', h, rfl, rfl⟩
      exact ⟨⟨st, h⟩, rfl⟩
    · rintro ⟨⟨st, h⟩, rfl⟩
      exact ⟨st, r, h, rfl, rfl⟩

theorem pushFails_isSome_iff : (pushFails s c k).isSome = true ↔ ∃ r, PushFails s c k r := by
  rw [Option.isSome_iff_exists]
  constructor
  · rintro ⟨⟨k', r, a⟩, h⟩
    cases pushFails_fst h
    exact ⟨r, (pushFails_eq_some_iff.mp h).1⟩
  · rintro ⟨r, h⟩
    exact ⟨_, pushFails_eq_some_iff.mpr ⟨h, rfl⟩⟩

/-- A push onto a free entry passes (R63). -/
theorem pushFails_onChip (h : (laneAt c.g k).d < 4) : pushFails s c k = none := if_pos h

theorem pushFails_slot {off : Nat} (h : StackSlot c ((laneAt c.g k).stack - 8) off)
    (hl : c.g.stacklim.toNat ≤ ((laneAt c.g k).stack - 8).toNat) : pushFails s c k = none := by
  unfold pushFails
  simp only
  split_ifs
  · rfl
  · omega
  · rw [addrCheck_stackSlot h]
    rfl

end Pushes

theorem pushLane_pushed {l : Lane} (h : l.d < 4) (ret x p : DWord) : Pushed ret x l { pushLane ret (movedTo p l) with pc := x } := by
  have hrs : (pushLane ret (movedTo p l)).rs = l.rs.setIfInBounds l.d ret := by
    rw [pushLane, if_pos (show (movedTo p l).d < 4 from h)]
    rfl
  refine ⟨?_, ?_, fun k hk => ?_⟩
  · rw [pushLane, if_pos (show (movedTo p l).d < 4 from h)]
    rfl
  · show (pushLane ret (movedTo p l)).rs[l.d]? = _
    simp [hrs, h]
  · show (pushLane ret (movedTo p l)).rs[k]? = _
    rw [hrs]
    exact Vector.getElem?_setIfInBounds_ne (Nat.ne_of_gt hk)

theorem pushLane_spilled {l : Lane} (h : l.d = 4) (ret x p : DWord) : Spilled ret x l { pushLane ret (movedTo p l) with pc := x } := by
  rw [Spilled, pushLane, if_neg (show ¬(movedTo p l).d < 4 by simp [movedTo, h])]
  rfl

/-! ## Spills -/

theorem toLeBytes_length (n x : Nat) : (toLeBytes n x).length = n := by
  induction n generalizing x with
  | zero => rfl
  | succ n ih => simp [toLeBytes, ih]

theorem memReadN_congr {m m' : Memory} {k n : Nat} (h : ∀ i, i < n → memRead m (k + i) = memRead m' (k + i)) :
    memReadN m k n = memReadN m' k n := by
  induction n generalizing k with
  | zero => rfl
  | succ n ih =>
    rw [memReadN, memReadN, show memRead m k = memRead m' k from h 0 (Nat.succ_pos n), ih fun i hi => ?_]
    rw [Nat.add_assoc, Nat.add_comm 1 i]
    exact h (i + 1) (by omega)

theorem readN_writeN_same (s : State) (k : Nat) {bs : List Byte} {n : Nat} (h : bs.length = n) : readN (writeN s k bs) k n = bs := by
  subst h
  exact memReadN_memWriteN _ _ _

theorem memRead_writeN_outside (s : State) {k q : Nat} {bs : List Byte} (h : q < k ∨ k + bs.length ≤ q) :
    memRead (writeN s k bs).mem q = memRead s.mem q := by
  show memRead (memWriteN s.mem k bs) q = _
  rw [memRead_memWriteN]
  split_ifs
  · rw [List.getElem?_eq_none (by omega), Option.getD_none]
  · rfl

section Spills

variable {c : Ctx} {off : Nat → Nat}

/-- The bytes of a lane's oldest entry, as it is spilled. -/
def spillBytes (c : Ctx) (k : Nat) : List Byte := toLeBytes 8 (laneAt c.g k).rs[0].toNat

/-- A spill to the team window is a write there (R64). -/
theorem spillLane_slot {k : Nat} (hd : ¬(laneAt c.g k).d < 4) (h : StackSlot c ((laneAt c.g k).stack - 8) (off k)) (u : State) :
    spillLane c u k = writeN u (teamKey c.t (off k)) (spillBytes c k) := by
  rw [spillLane, if_neg hd, storeAt, placeOf_stackSlot h]
  rfl

/-- Spills to the team window change memory and its poison alone, and no byte outside their entries. -/
theorem foldl_spillLane_frame (ls : List Nat) (hslot : ∀ k ∈ ls, ¬(laneAt c.g k).d < 4 → StackSlot c ((laneAt c.g k).stack - 8) (off k))
    (u : State) : let t := ls.foldl (spillLane c) u
    t = { u with mem := t.mem, poison := t.poison } ∧
      ∀ q, (∀ k ∈ ls, ¬(laneAt c.g k).d < 4 → q < teamKey c.t (off k) ∨ teamKey c.t (off k) + 8 ≤ q) →
        memRead t.mem q = memRead u.mem q := by
  induction ls generalizing u with
  | nil => exact ⟨rfl, fun _ _ => rfl⟩
  | cons k ks ih =>
    obtain ⟨hrest, hmem⟩ := ih (fun j hj => hslot j (List.mem_cons_of_mem _ hj)) (spillLane c u k)
    rw [List.foldl_cons]
    have hstep : spillLane c u k = { u with mem := (spillLane c u k).mem, poison := (spillLane c u k).poison } ∧
        ∀ q, (¬(laneAt c.g k).d < 4 → q < teamKey c.t (off k) ∨ teamKey c.t (off k) + 8 ≤ q) →
          memRead (spillLane c u k).mem q = memRead u.mem q := by
      by_cases hd : (laneAt c.g k).d < 4
      · rw [show spillLane c u k = u from if_pos hd]
        exact ⟨rfl, fun _ _ => rfl⟩
      · rw [spillLane_slot hd (hslot k (List.mem_cons_self ..) hd)]
        refine ⟨rfl, fun q hq => memRead_writeN_outside u ?_⟩
        rw [spillBytes, toLeBytes_length]
        exact hq hd
    refine ⟨hrest.trans ?_, fun q hq => (hmem q fun j hj => hq j (List.mem_cons_of_mem _ hj)).trans
      (hstep.2 q (hq k (List.mem_cons_self ..)))⟩
    rw [hstep.1]

/-- Entries that do not meet hold what was spilled to them. -/
theorem readN_foldl_spillLane {ls : List Nat} (hs : ls.Pairwise (· < ·))
    (hslot : ∀ k ∈ ls, ¬(laneAt c.g k).d < 4 → StackSlot c ((laneAt c.g k).stack - 8) (off k))
    (hapart : ∀ k ∈ ls, ∀ j ∈ ls, ¬(laneAt c.g k).d < 4 → ¬(laneAt c.g j).d < 4 → k < j →
      teamKey c.t (off k) + 8 ≤ teamKey c.t (off j) ∨ teamKey c.t (off j) + 8 ≤ teamKey c.t (off k))
    (u : State) {k : Nat} (hk : k ∈ ls) (hd : ¬(laneAt c.g k).d < 4) :
    readN (ls.foldl (spillLane c) u) (teamKey c.t (off k)) 8 = spillBytes c k := by
  induction ls generalizing u with
  | nil => cases hk
  | cons i is ih =>
    obtain ⟨hi, hs⟩ := List.pairwise_cons.mp hs
    have hslot' : ∀ j ∈ is, ¬(laneAt c.g j).d < 4 → StackSlot c ((laneAt c.g j).stack - 8) (off j) :=
      fun j hj => hslot j (List.mem_cons_of_mem _ hj)
    rw [List.foldl_cons]
    rcases List.mem_cons.mp hk with rfl | hk
    · rw [spillLane_slot hd (hslot k (List.mem_cons_self ..) hd)]
      refine Eq.trans (memReadN_congr fun n hn => ?_) (readN_writeN_same u _ (toLeBytes_length 8 _))
      refine (foldl_spillLane_frame is hslot' _).2 _ fun j hj hdj => ?_
      have := hapart k (List.mem_cons_self ..) j (List.mem_cons_of_mem _ hj) hd hdj (hi j hj)
      omega
    · exact ih hs hslot' (fun a ha b hb => hapart a (List.mem_cons_of_mem _ ha) b (List.mem_cons_of_mem _ hb)) _ hk

end Spills

/-! ## Calls -/

theorem copyHeld_nil (s : State) (c : Ctx) : copyHeld s c [] = false := by simp [copyHeld]

section Calls

variable {i : Instr} {c : Ctx} {s : State} {f : Nat → Lane → DWord}

/-- The fault of a call is that of the lowest lane whose push fails (R63). -/
theorem callLanes_fault {j : Nat} {r : BitVec 8} (hj : LowestThat c (acting c i) (fun k => ∃ r, PushFails s c k r) j)
    (hr : PushFails s c j r) : ∃ m, callLanes i c f s = fault s c r m ((laneAt c.g j).stack - 8) ∧
      ∀ k, has m k = true ↔ k < c.g.lanes.length ∧ has (acting c i) k = true ∧ PushFails s c k r := by
  obtain ⟨m, hm, hmask⟩ := firstFault_lowest (f := pushFails s c) (fun _ _ => pushFails_fst)
    (by simpa only [pushFails_isSome_iff] using hj) (pushFails_eq_some_iff.mpr ⟨hr, rfl⟩)
  refine ⟨m, by rw [callLanes]; simp only [hm], fun k => ?_⟩
  rw [hmask]
  simp only [pushFails_eq_some_iff, exists_eq_right, and_assoc]

/-- A lane that has pushed and jumped. -/
def calledLane (c : Ctx) (f : Nat → Lane → DWord) (k : Nat) (l : Lane) : Lane :=
  { pushLane (nextPc c) l with pc := f k (laneAt c.g k) }

/-- A call none of whose pushes fails, with its spills in the team window. -/
theorem callLanes_done (hpush : ∀ k ∈ lanesIn c.g (acting c i), pushFails s c k = none)
    (hslot : ∀ k ∈ lanesIn c.g (acting c i), (laneAt c.g k).d = 4 → ∃ off, StackSlot c ((laneAt c.g k).stack - 8) off)
    (hheld : copyHeld s c (((lanesIn c.g (acting c i)).filter fun k => (laneAt c.g k).d == 4).map fun k => ((laneAt c.g k).stack - 8, 8)) = false) :
    callLanes i c f s =
      onGroup ((lanesIn c.g (acting c i)).foldl (spillLane c) (issued i c s)) c (onLanes (acting c i) (calledLane c f)) := by
  have hspill : ∀ a ∈ ((lanesIn c.g (acting c i)).filter fun k => (laneAt c.g k).d == 4).map fun k => (laneAt c.g k).stack - 8,
      isPeer (placeOf s c.t a) = false ∧ beyondTeam a = false := by
    intro a ha
    obtain ⟨k, hk, rfl⟩ := List.mem_map.mp ha
    obtain ⟨hk, hd⟩ := List.mem_filter.mp hk
    obtain ⟨off, ho⟩ := hslot k hk (beq_iff_eq.mp hd)
    exact ⟨by rw [placeOf_stackSlot ho]; rfl, beyondTeam_stackSlot ho⟩
  have hcount := List.countP_eq_zero.mpr fun a ha => Bool.not_eq_true _ ▸ (hspill a ha).1
  have hany := List.any_eq_false.mpr fun a ha => Bool.not_eq_true _ ▸ (hspill a ha).2
  have hmap : (((lanesIn c.g (acting c i)).filter fun k => (laneAt c.g k).d == 4).map fun k => (laneAt c.g k).stack - 8).map (fun a => (a, 8)) =
      ((lanesIn c.g (acting c i)).filter fun k => (laneAt c.g k).d == 4).map fun k => ((laneAt c.g k).stack - 8, 8) := List.map_map
  rw [callLanes]
  simp only [firstFault_none hpush, hcount, hany, hmap, hheld, queueFull, withdrawIdem, bne_self_eq_false, Bool.false_and, Bool.false_eq_true,
    if_false]
  rfl

/-- A call that spills nothing. -/
theorem callLanes_onChip (hd : ∀ k, k < c.g.lanes.length → has (acting c i) k = true → (laneAt c.g k).d < 4) :
    callLanes i c f s = onGroup (issued i c s) c (onLanes (acting c i) (calledLane c f)) := by
  have hlanes : ∀ k ∈ lanesIn c.g (acting c i), (laneAt c.g k).d < 4 := fun k hk => hd k (mem_lanesIn.mp hk).1 (mem_lanesIn.mp hk).2
  have hnone : ((lanesIn c.g (acting c i)).filter fun k => (laneAt c.g k).d == 4) = [] :=
    List.filter_eq_nil_iff.mpr fun k hk => by simp [Nat.ne_of_lt (hlanes k hk)]
  have hspill (ls : List Nat) (h : ∀ k ∈ ls, (laneAt c.g k).d < 4) (u : State) : ls.foldl (spillLane c) u = u := by
    induction ls with
    | nil => rfl
    | cons k ks ih =>
      rw [List.foldl_cons, show spillLane c u k = u from if_pos (h k (List.mem_cons_self ..))]
      exact ih fun j hj => h j (List.mem_cons_of_mem _ hj)
  rw [callLanes_done (fun k hk => pushFails_onChip (hlanes k hk)) (fun k hk h4 => absurd h4 (Nat.ne_of_lt (hlanes k hk)))
    (by rw [hnone]; exact copyHeld_nil s c), hspill _ hlanes]

/-- A lane whose push spills its oldest entry (R63). -/
def Spills (i : Instr) (c : Ctx) (k : Nat) : Prop := k < c.g.lanes.length ∧ has (acting c i) k = true ∧ (laneAt c.g k).d = 4

theorem spills_of_full (hd : ∀ k, k < c.g.lanes.length → has (acting c i) k = true → (laneAt c.g k).d ≤ 4) {k : Nat}
    (hk : k ∈ lanesIn c.g (acting c i)) (hn : ¬(laneAt c.g k).d < 4) : Spills i c k :=
  have ⟨hlen, hm⟩ := mem_lanesIn.mp hk
  ⟨hlen, hm, Nat.le_antisymm (hd k hlen hm) (Nat.not_lt.mp hn)⟩

/-- A call whose spills all go to entries at or above `%stacklim`, and meet the source of no slice (R63, R191). -/
theorem callLanes_slots {off : Nat → Nat} (hd : ∀ k, k < c.g.lanes.length → has (acting c i) k = true → (laneAt c.g k).d ≤ 4)
    (hslot : ∀ k, Spills i c k →
      StackSlot c ((laneAt c.g k).stack - 8) (off k) ∧ c.g.stacklim.toNat ≤ ((laneAt c.g k).stack - 8).toNat)
    (hheld : ∀ ws, (∀ w, w ∈ ws → ∃ k, Spills i c k ∧ w = ((laneAt c.g k).stack - 8, 8)) → copyHeld s c ws = false) :
    callLanes i c f s =
      onGroup ((lanesIn c.g (acting c i)).foldl (spillLane c) (issued i c s)) c (onLanes (acting c i) (calledLane c f)) := by
  refine callLanes_done (fun k hk => ?_) (fun k hk h4 => ?_) (hheld _ fun w hw => ?_)
  · by_cases hn : (laneAt c.g k).d < 4
    · exact pushFails_onChip hn
    · obtain ⟨hs, hlim⟩ := hslot k (spills_of_full hd hk hn)
      exact pushFails_slot hs hlim
  · exact ⟨off k, (hslot k (spills_of_full hd hk (by omega))).1⟩
  · obtain ⟨k, hk, rfl⟩ := List.mem_map.mp hw
    obtain ⟨hk, h4⟩ := List.mem_filter.mp hk
    exact ⟨k, spills_of_full hd hk (by simp [beq_iff_eq.mp h4]), rfl⟩

end Calls

theorem issued_rest (i : Instr) (c : Ctx) (s : State) :
    (issued i c s).mem = s.mem ∧ (issued i c s).teams = s.teams ∧ (issued i c s).lines = s.lines := by
  rw [(Elsewhere.issued i c s).rest]
  exact ⟨rfl, rfl, rfl⟩

/-- What a call does, from how it issues where no target is odd. -/
theorem calls_of_callLanes {i : Instr} {x : Ctx → Nat → DWord} (f : Ctx → Nat → Lane → DWord) (hx : ∀ c k, f c k (laneAt c.g k) = x c k)
    (hexec : ∀ c s, Ready i c s → (∀ k, k < c.g.lanes.length → has (acting c i) k = true → (x c k).toNat % 2 = 0) →
      exec i s = .next (callLanes i c (f c) s)) : Calls i x := by
  intro c s h heven
  rw [hexec c s h heven]
  have hlane (k : Nat) (p : DWord) : calledLane c (f c) k (movedTo p (laneAt c.g k)) =
      { pushLane (c.b.pc + 4) (movedTo p (laneAt c.g k)) with pc := x c k } := by
    rw [calledLane, hx, nextPc]
  refine ⟨fun hd => ?_, fun j r hj hr => ?_, fun off hd hslot hapart hheld => ?_⟩
  · refine ⟨_, rfl, ?_⟩
    rw [callLanes_onChip hd]
    refine lanesGo h.group _ (acting_sub c i) _ _ fun k hk hm => ?_
    rw [hlane]
    exact pushLane_pushed (hd k hk hm) _ _ _
  · obtain ⟨m, hm, hmask⟩ := callLanes_fault (f := f c) hj hr
    rw [hm]
    exact ⟨_, m, rfl, hmask, h.fault _ _ _⟩
  · have hfull {k : Nat} (hk : k ∈ lanesIn c.g (acting c i)) (hn : ¬(laneAt c.g k).d < 4) : Spills i c k := spills_of_full hd hk hn
    have hslots : ∀ k ∈ lanesIn c.g (acting c i), ¬(laneAt c.g k).d < 4 → StackSlot c ((laneAt c.g k).stack - 8) (off k) :=
      fun k hk hn => (hslot k (hfull hk hn)).1
    obtain ⟨hrest, hframe⟩ := foldl_spillLane_frame (lanesIn c.g (acting c i)) hslots (issued i c s)
    obtain ⟨hmem, hteams, hlines⟩ := issued_rest i c s
    have hteams' := (congrArg State.teams hrest).trans hteams
    have hlines' := (congrArg State.lines hrest).trans hlines
    rw [callLanes_slots hd hslot hheld]
    refine ⟨_, rfl, ⟨onLanes (acting c i) (calledLane c (f c)) (advance i c (coreAt s c.g.core).clock c.g), onGroup_self ?_ _, rfl, ?_⟩,
      hteams', hlines', ?_, fun q hq => ?_⟩
    · rw [hrest]
      exact issued_group i c s c.g h.group
    · refine lanesDid_onLanes_advance (acting_sub c i) _ fun k hk hm => ?_
      rw [hlane]
      exact ⟨fun hl => pushLane_pushed hl _ _ _, fun hl => pushLane_spilled hl _ _ _⟩
    · rintro k ⟨hk, hm, h4⟩
      exact readN_foldl_spillLane (lanesIn_ascending c.g _) hslots
        (fun a ha b hb hna hnb => hapart a b (hfull ha hna) (hfull hb hnb)) _ (mem_lanesIn.mpr ⟨hk, hm⟩) (by omega)
    · rw [← hmem]
      exact hframe q fun k hk hn => hq k (hfull hk hn)

theorem call_calls (o : BitVec 20) (n : BitVec 1) (g : BitVec 3) : Calls (.call o n g) fun c _ => target c o :=
  calls_of_callLanes (fun c _ _ => relTarget c o) (fun c _ => relTarget_eq_target c o) fun _ _ h _ => h.issue _

/-! ## Indirect calls -/

section Callv

variable {c : Ctx} {a b : BitVec 6}

/-- A lane whose indirect target is odd, with its fault (R65). -/
def oddTarget (c : Ctx) (a b : BitVec 6) (k : Nat) : Option (Nat × BitVec 8 × DWord) :=
  if (laneAddr c b a k).getLsbD 0 then some (k, cMisaligned, laneAddr c b a k) else none

theorem oddTarget_eq_some_iff {k : Nat} {q : Nat × BitVec 8 × DWord} :
    oddTarget c a b k = some q ↔ (laneAddr c b a k).getLsbD 0 = true ∧ q = (k, 0x07, laneAddr c b a k) := by
  unfold oddTarget
  split_ifs with h
  · rw [Option.some.injEq, and_iff_right h]
    exact eq_comm
  · exact ⟨nofun, fun hq => absurd hq.1 h⟩

theorem oddTarget_isSome_iff {k : Nat} : (oddTarget c a b k).isSome = true ↔ (laneAddr c b a k).getLsbD 0 = true := by
  simp [Option.isSome_iff_exists, oddTarget_eq_some_iff]

theorem laneAddr_eq (c : Ctx) (a b : BitVec 6) (k : Nat) :
    laneAddr c b a k = readS c.g b + BitVec.ofNat 64 (readV (laneAt c.g k) a).toNat := by
  rw [BitVec.ofNat_toNat]
  rfl

theorem getLsbD_zero_eq_false_iff (x : DWord) : x.getLsbD 0 = false ↔ x.toNat % 2 = 0 := by
  rw [BitVec.getLsbD, Nat.testBit_zero]
  simp

/-- An indirect call: the fault of its odd targets, or the call (R65). -/
theorem exec_callv {s : State} (h : Ready (.callv a b) c s) : exec (.callv a b) s =
    .next (((firstFault ((lanesIn c.g c.b.mask).filterMap (oddTarget c a b))).map fun q => fault s c q.1 q.2.1 q.2.2).getD
      (callLanes (.callv a b) c (fun k _ => laneAddr c b a k) s)) := by
  refine (h.issue _).trans (congrArg _ ?_)
  dsimp only
  rw [show (fun k => if (laneAddr c b a k).getLsbD 0 then some (k, cMisaligned, laneAddr c b a k) else none) = oddTarget c a b from rfl]
  cases firstFault ((lanesIn c.g c.b.mask).filterMap (oddTarget c a b)) <;> rfl

theorem callv_even {s : State} (h : Ready (.callv a b) c s)
    (heven : ∀ k, k < c.g.lanes.length → has c.b.mask k = true → (laneAddr c b a k).toNat % 2 = 0) :
    exec (.callv a b) s = .next (callLanes (.callv a b) c (fun k _ => laneAddr c b a k) s) := by
  have hnone : firstFault ((lanesIn c.g c.b.mask).filterMap (oddTarget c a b)) = none := by
    refine firstFault_none fun k hk => Option.not_isSome_iff_eq_none.mp ?_
    rw [oddTarget_isSome_iff, Bool.not_eq_true, getLsbD_zero_eq_false_iff]
    exact heven k (mem_lanesIn.mp hk).1 (mem_lanesIn.mp hk).2
  rw [exec_callv h, hnone]
  rfl

theorem callv_odd {s : State} {j : Nat} (h : Ready (.callv a b) c s)
    (hj : LowestThat c c.b.mask (fun k => (laneAddr c b a k).getLsbD 0 = true) j) : ∃ m,
    exec (.callv a b) s = .next (fault s c 0x07 m (laneAddr c b a j)) ∧
      ∀ k, has m k = true ↔ k < c.g.lanes.length ∧ has c.b.mask k = true ∧ (laneAddr c b a k).getLsbD 0 = true := by
  obtain ⟨-, -, hodd, -⟩ := id hj
  obtain ⟨m, hm, hmask⟩ := firstFault_lowest (f := oddTarget c a b) (fun k q hq => by rw [(oddTarget_eq_some_iff.mp hq).2])
    (by simpa only [oddTarget_isSome_iff] using hj) (oddTarget_eq_some_iff.mpr ⟨hodd, rfl⟩)
  refine ⟨m, by rw [exec_callv h, hm]; rfl, fun k => ?_⟩
  rw [hmask]
  simp [oddTarget_eq_some_iff, and_assoc]

end Callv

theorem callResults : CallResults := by
  refine ⟨call_calls, fun a b => ?_, fun a b c s j h hj => ?_⟩
  · refine calls_of_callLanes (fun c k _ => laneAddr c b a k) (fun c k => laneAddr_eq c a b k) fun c s h heven => callv_even h fun k hk hm => ?_
    rw [laneAddr_eq]
    exact heven k hk hm
  · obtain ⟨m, hexec, hmask⟩ := callv_odd h hj
    exact ⟨_, m, hexec, hmask, h.fault _ _ _⟩

/-! ## Pops -/

section Pops

variable {s : State} {c : Ctx} {k : Nat}

/-- What a lane's pop answers, its odd addresses refused (R63). -/
def popOf (s : State) (c : Ctx) (k : Nat) : Popped := popChecked (popLane s c k).2

theorem popLane_chip (hd : (laneAt c.g k).d ≠ 0) :
    popLane s c k = (s, .value (((laneAt c.g k).rs[(laneAt c.g k).d - 1]?).getD 0)) := if_pos (bne_iff_ne.mpr hd)

theorem popLane_fault (hd : (laneAt c.g k).d = 0) {st : Nat} {r : BitVec 8}
    (h : addrCheck s c.t (laneAt c.g k).stack (stackAcc false) = some (st, r)) : popLane s c k = (s, .fails r (laneAt c.g k).stack) := by
  rw [popLane]
  simp [hd, h]

/-- A pop from the team window reads the bytes there (R64). -/
theorem popLane_slot (hd : (laneAt c.g k).d = 0) {off : Nat} (h : StackSlot c (laneAt c.g k).stack off) :
    popLane s c k = (s, poppedData (laneAt c.g k).stack (BitVec.ofNat 64 (leBytes (readN s (teamKey c.t off) 8)))
      (poisonedAt s (teamKey c.t off) 8 || (lineAt s (teamKey c.t off)).err)) := by
  rw [popLane]
  simp only [hd, bne_self_eq_false, Bool.false_eq_true, if_false, addrCheck_stackSlot h, placeOf_stackSlot h]
  rfl

theorem popChecked_even {x : DWord} (h : x.getLsbD 0 = false) : popChecked (.value x) = .value x := by
  rw [popChecked, if_neg (Bool.eq_false_iff.mp h)]

theorem popChecked_odd {x : DWord} (h : x.getLsbD 0 = true) : popChecked (.value x) = .fails 0x07 x := by
  rw [popChecked, if_pos h]
  rfl

theorem popOf_pops {x : DWord} (h : Pops s c k x) : (popLane s c k).1 = s ∧ popOf s c k = .value x := by
  obtain ⟨heven, ⟨hd, hx⟩ | ⟨hd, -, off, hslot, hp, he, rfl⟩⟩ := h
  · rw [popOf, popLane_chip hd, hx]
    exact ⟨rfl, popChecked_even heven⟩
  · rw [popOf, popLane_slot hd hslot, hp, he]
    exact ⟨rfl, popChecked_even heven⟩

theorem popOf_fails {r : BitVec 8} {a : DWord} (h : PopFails s c k r a) : (popLane s c k).1 = s ∧ popOf s c k = .fails r a := by
  obtain ⟨hd, ha, hodd, rfl⟩ | ⟨hd, -, rfl, st, hr⟩ | ⟨hd, -, off, hslot, ⟨hp, rfl, rfl⟩ | ⟨hp, he, hodd, rfl, ha⟩⟩ := h
  · rw [popOf, popLane_chip hd, ha]
    exact ⟨rfl, popChecked_odd hodd⟩
  · rw [popOf, popLane_fault hd hr]
    exact ⟨rfl, rfl⟩
  · rw [popOf, popLane_slot hd hslot, (Bool.or_eq_true _ _).mpr hp]
    exact ⟨rfl, rfl⟩
  · rw [popOf, popLane_slot hd hslot, hp, he, ← ha]
    exact ⟨rfl, popChecked_odd hodd⟩

/-- A lane that pops, or fails to, has an entry to pop. -/
theorem pops_notEmpty {x : DWord} (h : Pops s c k x) : ¬((laneAt c.g k).d = 0 ∧ (laneAt c.g k).c = 0) := by
  obtain ⟨-, ⟨hd, -⟩ | ⟨-, hc, -⟩⟩ := h
  · exact fun he => hd he.1
  · exact fun he => hc he.2

theorem popFails_notEmpty {r : BitVec 8} {a : DWord} (h : PopFails s c k r a) : ¬((laneAt c.g k).d = 0 ∧ (laneAt c.g k).c = 0) := by
  obtain ⟨hd, -⟩ | ⟨-, hc, -⟩ | ⟨-, hc, -⟩ := h
  · exact fun he => hd he.1
  · exact fun he => hc he.2
  · exact fun he => hc he.2

/-- The pops of some lanes, each of which leaves the state alone. -/
theorem popAll_stays {ls : List Nat} (h : ∀ k ∈ ls, (popLane s c k).1 = s) : popAll c ls s = (s, ls.map fun k => (k, popOf s c k)) := by
  induction ls with
  | nil => rfl
  | cons k ks ih =>
    rw [popAll]
    simp only [h k (List.mem_cons_self ..), ih fun j hj => h j (List.mem_cons_of_mem _ hj)]
    rfl

/-- A lane's failure to pop, with its fault. -/
def popFailure (s : State) (c : Ctx) (k : Nat) : Option (Nat × BitVec 8 × DWord) :=
  match popOf s c k with
  | .fails cause a => some (k, cause, a)
  | _ => none

theorem popFailure_of_fails {r : BitVec 8} {a : DWord} (h : popOf s c k = .fails r a) : popFailure s c k = some (k, r, a) := by
  rw [popFailure, h]

theorem popFailure_of_value {x : DWord} (h : popOf s c k = .value x) : popFailure s c k = none := by
  rw [popFailure, h]

theorem popFailure_fst {q : Nat × BitVec 8 × DWord} (h : popFailure s c k = some q) : q.1 = k := by
  unfold popFailure at h
  split at h <;> cases h
  rfl

/-- Pops that are answered at once: an address, or a fault. -/
def Answered (s : State) (c : Ctx) (k : Nat) : Prop := (∃ x, Pops s c k x) ∨ ∃ r a, PopFails s c k r a

theorem Answered.notEmpty (h : Answered s c k) : ¬((laneAt c.g k).d = 0 ∧ (laneAt c.g k).c = 0) := by
  obtain ⟨x, hx⟩ | ⟨r, a, hr⟩ := h
  · exact pops_notEmpty hx
  · exact popFails_notEmpty hr

theorem Answered.stays (h : Answered s c k) : (popLane s c k).1 = s ∧ popOf s c k ≠ .waits := by
  obtain ⟨x, hx⟩ | ⟨r, a, hr⟩ := h
  · exact ⟨(popOf_pops hx).1, by rw [(popOf_pops hx).2]; nofun⟩
  · exact ⟨(popOf_fails hr).1, by rw [(popOf_fails hr).2]; nofun⟩

theorem Answered.popFailure_iff (h : Answered s c k) {q : Nat × BitVec 8 × DWord} :
    popFailure s c k = some q ↔ q.1 = k ∧ PopFails s c k q.2.1 q.2.2 := by
  constructor
  · intro hq
    obtain ⟨x, hx⟩ | ⟨r, a, hr⟩ := h
    · rw [popFailure_of_value (popOf_pops hx).2] at hq
      cases hq
    · rw [popFailure_of_fails (popOf_fails hr).2] at hq
      cases hq
      exact ⟨rfl, hr⟩
  · rintro ⟨rfl, hr⟩
    exact popFailure_of_fails (popOf_fails hr).2

end Pops

/-! ## Returns -/

theorem find?_map_self {α : Type} (f : Nat → α) {ls : List Nat} {k : Nat} (h : k ∈ ls) :
    (ls.map fun i => (i, f i)).find? (fun q => q.1 == k) = some (k, f k) := by
  have hsome : (ls.find? fun i => i == k).isSome = true := List.find?_isSome.mpr ⟨k, h, beq_self_eq_true k⟩
  obtain ⟨i, hi⟩ := Option.isSome_iff_exists.mp hsome
  have hik : i = k := beq_iff_eq.mp (List.find?_some (p := fun i => i == k) hi)
  have hk : ls.find? (fun i => i == k) = some k := hik ▸ hi
  rw [List.find?_map]
  exact congrArg (Option.map _) hk

section Ret

variable {n : BitVec 1} {g : BitVec 3} {c : Ctx} {s : State}

/-- The lanes whose return stacks are empty (R63). -/
def underflows (c : Ctx) (i : Instr) : List Nat :=
  (lanesIn c.g (acting c i)).filter fun k => (laneAt c.g k).d == 0 && (laneAt c.g k).c == 0

theorem mem_underflows {i : Instr} {k : Nat} : k ∈ underflows c i ↔
    (k < c.g.lanes.length ∧ has (acting c i) k = true) ∧ (laneAt c.g k).d = 0 ∧ (laneAt c.g k).c = 0 := by
  simp [underflows, mem_lanesIn]

theorem popped_chip {l : Lane} (h : l.d ≠ 0) : popped l = { l with d := l.d - 1 } := if_pos (bne_iff_ne.mpr h)

theorem popped_memory {l : Lane} (h : l.d = 0) : popped l = { l with stack := l.stack + 8, c := l.c - 1 } := if_neg (by simp [h])

/-- A lane that has returned to the address that some pops hold for it. -/
def returnedLane (ps : List (Nat × Popped)) (k : Nat) (l : Lane) : Lane :=
  { popped l with pc := match ps.find? fun q => q.1 == k with
      | some (_, .value x) => x
      | _ => l.pc }

theorem returnedLane_value {f : Nat → Popped} {ls : List Nat} {k : Nat} (hk : k ∈ ls) {x : DWord} (hf : f k = .value x) (l : Lane) :
    returnedLane (ls.map fun i => (i, f i)) k l = { popped l with pc := x } := by
  rw [returnedLane, find?_map_self f hk, hf]

/-- The issuing group once its acting lanes have returned. -/
def returned (s : State) (c : Ctx) (i : Instr) (g : Group) : Group :=
  { onLanes (acting c i) (returnedLane ((lanesIn c.g (acting c i)).map fun k => (k, popOf s c k))) g with
    fills := g.fills.filter fun f => !(lanesIn c.g (acting c i)).contains f.lane }

theorem returned_lanes (s : State) (c : Ctx) (i : Instr) (g : Group) : (returned s c i g).lanes =
    (onLanes (acting c i) (returnedLane ((lanesIn c.g (acting c i)).map fun k => (k, popOf s c k))) g).lanes := rfl

theorem ret_underflow (h : Ready (.ret n g) c s) (hu : underflows c (.ret n g) ≠ []) : exec (.ret n g) s = .next (takeTrap s c.b.group
    { cause := 0x0F, lanes := (underflows c (.ret n g)).foldl (fun m k => m ||| bit64 k) 0, addr := 0, pc := c.b.pc,
      underflow := true, exc := [] }) :=
  (h.issue _).trans (congrArg _ (if_pos (by rw [Bool.not_eq_true', List.isEmpty_eq_false_iff]; exact hu)))

/-- A return whose pops are all answered at once: the fault of those that fail, or the return (R442). -/
theorem ret_answered (h : Ready (.ret n g) c s) (hu : underflows c (.ret n g) = [])
    (hstay : ∀ k ∈ lanesIn c.g (acting c (.ret n g)), (popLane s c k).1 = s ∧ popOf s c k ≠ .waits) : exec (.ret n g) s =
    .next (((firstFault ((lanesIn c.g (acting c (.ret n g))).filterMap (popFailure s c))).map fun q => fault s c q.1 q.2.1 q.2.2).getD
      (onGroup (issued (.ret n g) c s) c (returned s c (.ret n g)))) := by
  have hpops := popAll_stays fun k hk => (hstay k hk).1
  have hlate : (((lanesIn c.g (acting c (.ret n g))).map fun k => (k, popOf s c k)).filter fun q => q.2 == .waits) = [] := by
    refine List.filter_eq_nil_iff.mpr fun q hq => ?_
    obtain ⟨k, hk, rfl⟩ := List.mem_map.mp hq
    simp [(hstay k hk).2]
  refine (h.issue _).trans (congrArg _ ((if_neg (by rw [← underflows, hu]; decide)).trans ?_))
  dsimp only
  rw [hpops]
  dsimp only
  rw [hlate]
  simp only [List.map_nil, List.countP_nil, List.isEmpty_nil, queueFull, bne_self_eq_false, Bool.false_and, Bool.false_eq_true, if_false,
    Bool.not_true]
  rw [List.filterMap_map]
  show (match firstFault (List.filterMap (popFailure s c) (lanesIn c.g (acting c (.ret n g)))) with
    | some (cause, m, a) => fault s c cause m a
    | none => onGroup (issued (.ret n g) c s) c (returned s c (.ret n g))) = _
  cases firstFault (List.filterMap (popFailure s c) (lanesIn c.g (acting c (.ret n g)))) <;> rfl

theorem contains_lanesIn (g : Group) (m : Mask) (k : Nat) :
    (lanesIn g m).contains k = (decide (k < g.lanes.length) && has m k) := by
  rw [Bool.eq_iff_iff, List.contains_iff_mem, mem_lanesIn, Bool.and_eq_true, decide_eq_true_eq]

theorem ret_pops (h : Ready (.ret n g) c s) (x : Nat → DWord)
    (hx : ∀ k, k < c.g.lanes.length ∧ has (acting c (.ret n g)) k = true → Pops s c k (x k)) : ∃ t, exec (.ret n g) s = .next t ∧
      LanesGo (.ret n g) c (acting c (.ret n g)) (noFills c (.ret n g)) (fun k l l' =>
        (l.d ≠ 0 → l' = { movedTo (x k) l with d := l.d - 1 }) ∧
        (l.d = 0 → l' = { movedTo (x k) l with stack := l.stack + 8, c := l.c - 1 })) s t := by
  have hpop : ∀ k ∈ lanesIn c.g (acting c (.ret n g)), (popLane s c k).1 = s ∧ popOf s c k = .value (x k) :=
    fun k hk => popOf_pops (hx k (mem_lanesIn.mp hk))
  have hunder : underflows c (.ret n g) = [] := List.eq_nil_iff_forall_not_mem.mpr fun k hk =>
    have ⟨hk, he⟩ := mem_underflows.mp hk
    pops_notEmpty (hx k hk) he
  rw [ret_answered h hunder fun k hk => ⟨(hpop k hk).1, by rw [(hpop k hk).2]; nofun⟩,
    firstFault_none fun k hk => popFailure_of_value (hpop k hk).2]
  obtain ⟨he, hu⟩ := issued_then (i := .ret n g) h.group (returned s c (.ret n g))
  refine ⟨_, rfl, he, _, hu, ?_, ?_⟩
  · unfold GroupKept noFills
    simp only [← contains_lanesIn]
    rfl
  · refine lanesDid_congr (lanesDid_onLanes_advance (f := returnedLane _) (acting_sub c _) (coreAt s c.g.core).clock fun k hk hm => ?_)
      (returned_lanes s c (.ret n g) _)
    have hmem := mem_lanesIn.mpr ⟨hk, hm⟩
    rw [returnedLane_value hmem (hpop k hmem).2]
    refine ⟨fun hd => ?_, fun hd => ?_⟩
    · rw [popped_chip (show (movedTo _ _).d ≠ 0 from hd)]
      rfl
    · rw [popped_memory (show (movedTo _ _).d = 0 from hd)]
      rfl

theorem ret_fails (h : Ready (.ret n g) c s) {j : Nat} {r : BitVec 8} {a : DWord}
    (hall : ∀ k, k < c.g.lanes.length ∧ has (acting c (.ret n g)) k = true → Answered s c k)
    (hj : LowestThat c (acting c (.ret n g)) (fun k => ∃ r a, PopFails s c k r a) j) (hr : PopFails s c j r a) : ∃ m,
      exec (.ret n g) s = .next (fault s c r m a) ∧
      ∀ k, has m k = true ↔ (k < c.g.lanes.length ∧ has (acting c (.ret n g)) k = true) ∧ ∃ b, PopFails s c k r b := by
  have hunder : underflows c (.ret n g) = [] := List.eq_nil_iff_forall_not_mem.mpr fun k hk =>
    have ⟨hk, he⟩ := mem_underflows.mp hk
    (hall k hk).notEmpty he
  obtain ⟨hlen, hmask, -, hlow⟩ := hj
  have hjf : popFailure s c j = some (j, r, a) := (hall j ⟨hlen, hmask⟩).popFailure_iff.mpr ⟨rfl, hr⟩
  have hfirst : LowestThat c (acting c (.ret n g)) (fun k => (popFailure s c k).isSome = true) j := by
    refine ⟨hlen, hmask, Option.isSome_iff_exists.mpr ⟨_, hjf⟩, fun k hkj hk hsome => hlow k hkj hk ?_⟩
    obtain ⟨q, hq⟩ := Option.isSome_iff_exists.mp hsome
    exact ⟨_, _, ((hall k ⟨hkj.trans hlen, hk⟩).popFailure_iff.mp hq).2⟩
  obtain ⟨m, hm, hmem⟩ := firstFault_lowest (fun _ _ => popFailure_fst) hfirst hjf
  refine ⟨m, ?_, fun k => (hmem k).trans (and_congr_right fun hk => exists_congr fun b => ?_)⟩
  · rw [ret_answered h hunder fun k hk => (hall k (mem_lanesIn.mp hk)).stays, hm]
    rfl
  · rw [(hall k hk).popFailure_iff]
    exact and_iff_right rfl

end Ret

theorem returnResults : ReturnResults := by
  intro n g c s h i acts under
  refine ⟨fun ⟨k, ⟨hk, hd, hc⟩⟩ => ?_, fun x hx => ret_pops h x hx, fun j r a hall hj hr => ?_⟩
  · have hmem := mem_underflows.mpr ⟨hk, hd, hc⟩
    refine ⟨_, _, ret_underflow h (List.ne_nil_of_mem hmem), fun k => ?_, takeTrap_takes h.now _ _ _ _ _⟩
    rw [underflows, has_foldl_filter_lanesIn, Bool.and_eq_true, beq_iff_eq, beq_iff_eq]
  · obtain ⟨m, hexec, hmask⟩ := ret_fails h hall hj hr
    exact ⟨_, m, hexec, hmask, h.fault _ _ _⟩

/-- Settles O29: a call checks every push before it has an effect, and its spills do not meet; a return answers every pop before it has
one. -/
theorem callAndReturnResults : Obligations.CallAndReturnResults := ⟨callResults, returnResults⟩

end Sys2Proof.Laws
end

section
/-!
The end of an item where a bundle names a lane that is not live (R41, R74, R77, R80).
-/

namespace Sys2Proof.Laws

open Sys2Proof.Machine Sys2Proof.Claims

theorem liveMask_ne_zero {g : Group} {k : Nat} (h64 : k < 64) (hk : k < g.lanes.length) (hl : live (laneAt g k) = true) : liveMask g ≠ 0 := by
  intro h0
  have hhas := has_laneMask_lt g (fun _ l => live l) k h64 hk
  rw [show laneMask g (fun _ l => live l) = 0#64 from h0, zero_has, hl] at hhas
  cases hhas

/-- A group with a live lane does not retire (R80). -/
theorem retireIfDone_live {s : State} {n : Nat} {g : Group} (hg : s.groups[n]? = some g) (h : liveMask g ≠ 0) : retireIfDone s n = s := by
  have hlive : (liveMask g == 0) = false := beq_eq_false_iff_ne.mpr h
  simp only [retireIfDone, hg, hlive, Bool.and_false, Bool.false_and, Bool.false_eq_true, if_false]

/-- A lane of the bundle that does not act goes on and runs, whatever its state was, so that the group of an `EXIT` stays. -/
theorem exit_stays {n : BitVec 1} {g : BitVec 3} {c : Ctx} {s : State} (h : Ready (.exit n g) c s) {k : Nat} (h64 : k < 64)
    (hk : k < c.g.lanes.length) (hb : has c.b.mask k = true) (ha : has (acting c (.exit n g)) k = false) :
    ∃ t g', exec (.exit n g) s = .next t ∧ t.groups[c.b.group]? = some g' ∧ g'.retired = c.g.retired := by
  obtain ⟨-, g', hg', hkept, hlen, hlanes⟩ := lanesGo (i := .exit n g) h.group (acting c (.exit n g)) (acting_sub c _)
    (fun _ l => { l with st := .exited, pc := c.b.pc }) (fun _ _ _ => True) fun _ _ _ => trivial
  have hlane := hlanes k hk
  rw [ha, if_neg Bool.false_ne_true, if_pos hb] at hlane
  have hlive : liveMask g' ≠ 0 := liveMask_ne_zero h64 (hlen.symm ▸ hk) (by rw [hlane]; rfl)
  exact ⟨_, g', (h.issue _).trans (congrArg _ (retireIfDone_live hg' hlive)), hg', by rw [hkept]⟩

/-- Lane 0 runs, with p0 set; lane 1 has exited, with p0 clear. -/
def halfExited : Group := { placedGroup 0 with lanes := [{ placedLane with p := 1 }, { placedLane with st := .exited }] }

/-- A bundle of both lanes, though the second is not live. -/
def bothLanes : Bundle := { group := 0, pc := placedPc, mask := 3, broadcast := true, other := 0, second := false }

def halfExitedChip : VChip := { VChip.init with used := true }

def halfExitedState : State :=
  { State.reset with groups := [halfExited], teams := [placedTeam], vchips := [halfExitedChip], bundle := some bothLanes, pkgStat := 3 }

def halfExitedCtx : Ctx := { b := bothLanes, g := halfExited, t := placedTeam, vc := halfExitedChip }

theorem ready_halfExited : Ready (.exit 0 0) halfExitedCtx halfExitedState where
  now := rfl
  lawful := by decide +kernel
  role := by decide +kernel
  whole := fun h => absurd h (by decide)
  free := by decide +kernel
  clean := fun _ => by decide +kernel
  noErr := fun _ => by decide +kernel

/-- Refutes O30: nothing keeps an exited lane out of the bundle, and there, with its predicate clear, it goes on and runs: the group of
an `EXIT` by its one live lane has a live lane again and does not retire. -/
theorem not_exitAndRefillResults : ¬Obligations.ExitAndRefillResults := by
  rintro ⟨hexit, -⟩
  obtain ⟨-, -, hretires⟩ := hexit 0 0 halfExitedCtx halfExitedState ready_halfExited
  have hall : ∀ k, k < halfExited.lanes.length → live (laneAt halfExited k) = true → has (acting halfExitedCtx (.exit 0 0)) k = true := by
    decide +kernel
  obtain ⟨⟨t, g', hexec, hg, hretired, -⟩, -⟩ := hretires hall (by decide +kernel) rfl
  obtain ⟨u, x, hexec', hx, hstays⟩ := exit_stays ready_halfExited (k := 1) (by decide) (by decide) (by decide) (by decide +kernel)
  cases hexec.symm.trans hexec'
  cases hg.symm.trans hx
  rw [hretired] at hstays
  cases hstays

end Sys2Proof.Laws
end

section
/-!
What writes of the device itself and event records change: memory with its lines, translations that are held, and what is reported
(R141 to R144, R154, R155, R269, R292 to R295).
-/

namespace Sys2Proof.Laws

open Sys2Proof.Machine Sys2Proof.Claims

/-! ## Lists of machine parts -/

theorem mapFrom_map_eq {α β : Type} {f : Nat → α → α} {p : α → β} (h : ∀ i x, p (f i x) = p x) (i : Nat) (l : List α) :
    (mapFrom f i l).map p = l.map p := by
  induction l generalizing i with
  | nil => rfl
  | cons x xs ih => simp [mapFrom, h, ih]

/-- What can be read of a virtual chip, from what can be read of them all. -/
theorem apply_vchip {β : Type} (p : VChip → β) (s : State) (v : Nat) : p (vchip s v) = ((s.vchips.map p)[v]?).getD (p VChip.init) := by
  rw [vchip, List.getElem?_map]
  cases s.vchips[v]? <;> rfl

theorem apply_coreAt {β : Type} (p : Core → β) (s : State) (n : Nat) : p (coreAt s n) = ((s.cores.map p)[n]?).getD (p Core.init) := by
  rw [coreAt, List.getElem?_map]
  cases s.cores[n]? <;> rfl

/-! ## Serving memory -/

/-- A virtual chip but for the errors, counters and interrupts that an access of its memory can bring about. -/
def withoutErrors (c : VChip) : VChip := { c with memUe := false, memUr := false, counters := [], raised := [] }

/-- A virtual chip but for these and its event stream. -/
def withoutReports (c : VChip) : VChip := { withoutErrors c with stream := Stream.init }

/-- A core but for the translations that it holds. -/
def withoutTags (c : Core) : Core := { c with tlb1 := [] }

/-- Memory was served, and nothing has changed but memory with its lines, the translations that are held, free values drawn, the package's
event stream, and of the virtual chips what e leaves out. -/
structure Served (e : VChip → VChip) (s t : State) : Prop where
  rest : t = { s with
    mem := t.mem, poison := t.poison, l2 := t.l2, tlb := t.tlb, tags := t.tags, cores := t.cores, vchips := t.vchips
    owed := t.owed, draws := t.draws, pkgStream := t.pkgStream, raised0 := t.raised0 }
  cores : t.cores.map withoutTags = s.cores.map withoutTags
  chips : t.vchips.map e = s.vchips.map e

section Served

variable {e : VChip → VChip} {s t u : State}

theorem Served.refl (s : State) : Served e s s := ⟨rfl, rfl, rfl⟩

theorem Served.trans (h : Served e s t) (k : Served e t u) : Served e s u where
  rest := by
    have hst := h.rest
    have htu := k.rest
    rw [hst] at htu
    exact htu
  cores := k.cores.trans h.cores
  chips := k.chips.trans h.chips

theorem Served.reports (h : Served withoutErrors s t) : Served withoutReports s t where
  rest := h.rest
  cores := h.cores
  chips := by
    have hmap := congrArg (List.map fun c : VChip => { c with stream := Stream.init }) h.chips
    rwa [List.map_map, List.map_map] at hmap

theorem Served.modVc {f : VChip → VChip} (h : ∀ c, e (f c) = e c) (s : State) (v : Nat) : Served e s (modVc s v f) :=
  ⟨rfl, rfl, listMod_map f e h v s.vchips⟩

theorem Served.foldl {α : Type} {f : State → α → State} (h : ∀ u x, Served e u (f u x)) (l : List α) (s : State) :
    Served e s (l.foldl f s) := by
  induction l generalizing s with
  | nil => exact .refl s
  | cons x xs ih => exact (h s x).trans (ih _)

theorem Served.ite {p : Prop} [Decidable p] (ht : Served e s t) (hu : Served e s u) : Served e s (if p then t else u) := by
  split
  · exact ht
  · exact hu

theorem Served.groups (h : Served e s t) : t.groups = s.groups := by rw [h.rest]

theorem Served.teams (h : Served e s t) : t.teams = s.teams := by rw [h.rest]

theorem Served.chip (h : Served e s t) (v : Nat) : e (vchip t v) = e (vchip s v) := by
  rw [apply_vchip e, h.chips, ← apply_vchip e]

theorem Served.chipCount (h : Served e s t) : t.vchips.length = s.vchips.length := by
  simpa using congrArg List.length h.chips

theorem Served.core (h : Served e s t) (n : Nat) : withoutTags (coreAt t n) = withoutTags (coreAt s n) := by
  rw [apply_coreAt withoutTags, h.cores, ← apply_coreAt withoutTags]

/-- A field of a virtual chip that e keeps. -/
theorem Served.chipField (h : Served e s t) {β : Type} (p : VChip → β) (hp : ∀ c, p (e c) = p c) (v : Nat) : p (vchip t v) = p (vchip s v) := by
  rw [← hp (vchip t v), h.chip, hp]

theorem Served.queue (h : Served e s t) (n : Nat) : (coreAt t n).engine.queue = (coreAt s n).engine.queue := by
  have hengine := congrArg Core.engine (h.core n)
  exact congrArg Engine.queue hengine

theorem Served.jobs (h : Served e s t) : t.cores.map (·.jobs) = s.cores.map (·.jobs) := by
  have hmap := congrArg (List.map Core.jobs) h.cores
  rwa [List.map_map, List.map_map] at hmap

end Served

theorem served_writeN {e : VChip → VChip} (s : State) (k : Nat) (bs : List Byte) : Served e s (writeN s k bs) := ⟨rfl, rfl, rfl⟩

theorem served_poisonUnit {e : VChip → VChip} (s : State) (k : Nat) : Served e s (poisonUnit s k) := ⟨rfl, rfl, rfl⟩

theorem served_setL2 {e : VChip → VChip} (s : State) (pa : Nat) (l : L2Line) : Served e s (setL2 s pa l) := ⟨rfl, rfl, rfl⟩

theorem served_owe {e : VChip → VChip} (s : State) (v type : Nat) (fs : List (Nat × Nat)) : Served e s (owe s v type fs) := ⟨rfl, rfl, rfl⟩

theorem served_countVc (s : State) (v k n : Nat) : Served withoutErrors s (countVc s v k n) := .modVc (fun _ => by rfl) s v

theorem served_raise (s : State) (v n : Nat) : Served withoutErrors s (raise s v n) := .modVc (fun _ => by rfl) s v

/-! ## Lines -/

theorem served_copyPoison {e : VChip → VChip} (s : State) (src dst : Nat) : Served e s (copyPoison s src dst) :=
  .foldl (fun u _ => .ite (served_poisonUnit u _) (.refl u)) _ s

theorem served_copyLine {e : VChip → VChip} (s : State) (src dst : Nat) : Served e s (copyLine s src dst) :=
  (served_writeN s _ _).trans (.foldl (fun u _ => .ite (served_poisonUnit u _) (.refl u)) _ _)

theorem served_sealLine {e : VChip → VChip} (s : State) (pa slot : Nat) : Served e s (sealLine s pa slot) :=
  ((served_writeN s _ _).trans (served_copyPoison _ _ _)).trans ⟨rfl, rfl, rfl⟩

theorem served_dropProt {e : VChip → VChip} (s : State) (pa : Nat) : Served e s (dropProt s pa) :=
  (served_writeN s _ _).trans (served_setL2 _ _ _)

theorem served_settleCounted {e : VChip → VChip} (s : State) (pa : Nat) : Served e s (settleCounted s pa) := by
  unfold settleCounted
  dsimp only
  split
  · exact .refl s
  · exact ((served_copyLine s _ _).trans (served_writeN _ _ _)).trans (served_setL2 _ _ _)

theorem served_underRead (s : State) (pa : Nat) : Served withoutErrors s (underRead s pa) := by
  unfold underRead
  dsimp only
  split
  · exact .refl s
  · exact (((served_settleCounted s pa).trans (.modVc (fun _ => by rfl) _ _)).trans (served_countVc _ _ _ _)).trans (served_owe _ _ _ _)

theorem served_endTomb {e : VChip → VChip} (s : State) (pa : Nat) : Served e s (endTomb s pa) := .ite (served_setL2 s _ _) (.refl s)

theorem served_endCounting {e : VChip → VChip} (s : State) (pa : Nat) : Served e s (endCounting s pa) :=
  (served_settleCounted s pa).trans (served_endTomb _ pa)

theorem served_leaveProt (s : State) (pa : Nat) : Served withoutErrors s (leaveProt s pa) := by
  unfold leaveProt
  split
  · exact .refl s
  · exact ((served_underRead s pa).trans (.ite (served_sealLine _ _ _) (.refl _))).trans (served_dropProt _ _)

theorem served_evictLine (s : State) (pa : Nat) : Served withoutErrors s (evictLine s pa) :=
  ((served_underRead s pa).trans (served_endTomb _ pa)).trans (served_leaveProt _ pa)

theorem served_displace (used : State → List Nat) (room n : Nat) (s : State) : Served withoutErrors s (displace used room n s) := by
  induction n generalizing s with
  | zero => exact .refl s
  | succ n ih =>
    have hdraw : Served withoutErrors s (draw s).2 := ⟨rfl, rfl, rfl⟩
    unfold displace
    dsimp only
    split
    · exact .refl s
    · split
      · exact (hdraw.trans (served_evictLine _ _)).trans (ih _)
      · exact .refl s

theorem served_makeRoom (s : State) (v pa : Nat) (prot : Bool) : Served withoutErrors s (makeRoom s v pa prot) := served_displace _ _ _ s

theorem served_moveLine (s : State) (v pa : Nat) : Served withoutErrors s (moveLine s v pa) :=
  .ite (.refl s) ((served_makeRoom s v pa _).trans (served_setL2 _ _ _))

theorem served_tagFailed (s : State) (v pa : Nat) : Served withoutErrors s (tagFailed s v pa) := by
  have hue : Served withoutErrors s (raise (modVc s v fun c => { c with memUe := true }) v 19) :=
    (Served.modVc (fun _ => by rfl) s v).trans (served_raise _ v 19)
  exact ((Served.ite (.refl s) hue).trans (served_countVc _ _ _ _)).trans (served_owe _ _ _ _)

/-- A line that is placed with the poison of another. -/
theorem served_placedLine {e : VChip → VChip} (s : State) (k src pa : Nat) (bs : List Byte) (l : L2Line) :
    Served e s (setL2 (copyPoison (writeN s k bs) src k) pa l) :=
  ((served_writeN s k bs).trans (served_copyPoison _ src k)).trans (served_setL2 _ pa l)

theorem served_openLine (s : State) (v pa slot : Nat) : Served withoutErrors s (openLine s v pa slot) :=
  .ite (served_placedLine s _ _ pa _ _)
    (((served_placedLine s _ _ pa _ _).trans (.foldl (fun u _ => served_poisonUnit u _) _ _)).trans (served_tagFailed _ v pa))

theorem served_fillProt (s : State) (v pa slot : Nat) : Served withoutErrors s (fillProt s v pa slot) :=
  .ite (served_moveLine s v pa) (((served_evictLine s pa).trans (served_makeRoom _ v pa true)).trans (served_openLine _ v pa slot))

/-! ## Translations that are held -/

theorem served_dropTlb {e : VChip → VChip} (s : State) (bad : TlbEntry → Bool) : Served e s (dropTlb s bad) where
  rest := rfl
  cores := mapFrom_map_eq (fun _ _ => by rfl) 0 s.cores
  chips := rfl

theorem served_holdEntry {e : VChip → VChip} (s : State) (x : TlbEntry) : Served e s (holdEntry s x) := by
  unfold holdEntry
  split
  · exact .refl s
  · dsimp only
    split
    · exact ⟨rfl, rfl, rfl⟩
    · split
      · exact (served_dropTlb s _).trans ⟨rfl, rfl, rfl⟩
      · exact ⟨rfl, rfl, rfl⟩

theorem served_holdLeaf {e : VChip → VChip} (s : State) (v : Nat) (va : DWord) (l : Leaf) (die : Nat) : Served e s (holdLeaf s v va l die) :=
  .ite (.refl s) ((Served.foldl served_holdEntry _ s).trans (served_holdEntry _ _))

theorem served_readyLine (s : State) (v : Nat) (va : DWord) (l : Leaf) (die : Nat) : Served withoutErrors s (readyLine s v va l die) :=
  (served_holdLeaf s v va l die).trans (.ite (.refl _) (.ite (served_leaveProt _ _)
    (.ite (served_fillProt _ _ _ _) ((served_leaveProt _ _).trans (served_moveLine _ _ _)))))

/-! ## Writes of the device itself -/

theorem served_pagedStore {e : VChip → VChip} (s : State) (v : Nat) (l : Leaf) (pa : Nat) (bs : List Byte) :
    Served e s (pagedStore s v l pa bs) :=
  .ite (served_writeN s _ _) (((served_endCounting s _).trans (served_writeN _ _ _)).trans (.ite (served_setL2 _ _ _) (.refl _)))

theorem served_pagedWrite (fuel : Nat) (s : State) (v a : Nat) (bs : List Byte) : Served withoutErrors s (pagedWrite fuel s v a bs) := by
  induction fuel generalizing s a bs with
  | zero => exact .refl s
  | succ fuel ih =>
    unfold pagedWrite
    dsimp only
    split
    · exact .refl s
    · split
      · exact ih _ _ _
      · exact ((served_readyLine s v _ _ _).trans (served_pagedStore _ _ _ _ _)).trans (ih _ _ _)

theorem served_deviceWrite {s t : State} {v a : Nat} {bs : List Byte} (h : deviceWrite s v a bs = some t) : Served withoutErrors s t := by
  unfold deviceWrite at h
  split at h <;> cases h
  exact served_pagedWrite _ s v a bs

/-! ## Event records -/

theorem served_streamPut {e : VChip → VChip} {s : State} {x : Stream} {w : Nat → List Byte → Option State} {r : List Byte}
    (hw : ∀ a bs u, w a bs = some u → Served e s u) {q : State × Stream} (h : streamPut x w r = some q) : Served e s q.1 := by
  unfold streamPut at h
  split at h
  · cases h
  · obtain ⟨u, hu, rfl⟩ := Option.map_eq_some_iff.mp h
    exact hw _ _ u hu

theorem served_streamWrite {e : VChip → VChip} {w : State → Nat → List Byte → Option State}
    (hw : ∀ s a bs u, w s a bs = some u → Served e s u) (s : State) (time : DWord) (x : Stream) (r : List Byte) :
    Served e s (streamWrite s time x w r).1 := by
  have hput (u : State) (y : Stream) {b : List Byte} {q : State × Stream} (h : streamPut y (w u) b = some q) : Served e u q.1 :=
    served_streamPut (hw u) h
  unfold streamWrite
  extract_lets a
  have hsummary : Served e s a.1 := by
    unfold a
    split
    · exact .refl s
    · split
      next q hq => exact hput (q := q) s x hq
      next => exact .refl s
  split
  next q hq => exact hsummary.trans (hput (q := q) a.1 a.2 hq)
  next => exact hsummary

theorem served_pkgRecord {e : VChip → VChip} (s : State) (time : DWord) (type : Nat) (r : List Byte) : Served e s (pkgRecord s time type r) :=
  .ite (.refl s) ((served_streamWrite (fun s a bs u h => by cases h; exact served_writeN s _ bs) s time _ r).trans ⟨rfl, rfl, rfl⟩)

theorem served_eventAt (s : State) (time : DWord) (v type : Nat) (fs : List (Nat × Nat)) : Served withoutReports s (eventAt s time v type fs) := by
  unfold eventAt
  extract_lets x q s1 s2
  have hq : Served withoutReports s q.1 := served_streamWrite (fun s a bs u h => (served_deviceWrite h).reports) s time x _
  have h1 : Served withoutReports s s1 := hq.trans (.modVc (fun _ => by rfl) q.1 v)
  have h2 : Served withoutReports s s2 := h1.trans (.ite (.refl s1) (served_countVc s1 v 3 1).reports)
  exact .ite (.refl s) (.ite (served_pkgRecord s time type _) (.ite (h2.trans (served_raise s2 v 18).reports) h2))

theorem served_event (s : State) (v type : Nat) (fs : List (Nat × Nat)) : Served withoutReports s (event s v type fs) := served_eventAt s _ v type fs

theorem event_masked {s : State} {v type : Nat} (h : typeOn (vchip s v).stream type = false) (fs : List (Nat × Nat)) : event s v type fs = s := by
  simp [event, eventAt, h]

theorem served_teamEvent (s : State) (tm : Team) (kind core : Nat) : Served withoutReports s (teamEvent s tm kind core) := served_event s _ _ _

end Sys2Proof.Laws
end

section
/-!
Pre-emption: the forward-progress interval, saves and restarts, and spatial pre-emption (R100 to R104, R287 to R291).
-/

namespace Sys2Proof.Laws

open Sys2Proof.Machine Sys2Proof.Claims

/-! ## Teams and groups that change -/

theorem teamIs_of_teams {s t : State} {n : Nat} {tm : Team} (h : s.teams[n]? = some tm) {f : Team → Team}
    (ht : t.teams = listMod f n s.teams) : TeamIs n (f tm) s t :=
  ⟨(List.getElem?_eq_some_iff.mp h).1, by rw [ht, listMod_length], by rw [ht, listMod_getElem?_self, h, Option.map_some],
    fun m hm => by rw [ht, listMod_getElem?_ne _ hm]⟩

theorem vchip_of_vchips {s t : State} {v : Nat} (hv : v < s.vchips.length) {f : VChip → VChip} (ht : t.vchips = listMod f v s.vchips) :
    vchip t v = f (vchip s v) := by
  rw [vchip, vchip, ht, listMod_getElem?_self, List.getElem?_eq_getElem hv]
  rfl

/-- Two changes of a team that agree on it. -/
theorem modTeam_congr {s : State} {n : Nat} {tm : Team} (h : s.teams[n]? = some tm) {f g : Team → Team} (hfg : f tm = g tm) :
    modTeam s n f = modTeam s n g := by
  rw [modTeam, modTeam, listMod_eq_set h, listMod_eq_set h, hfg]

theorem modTeam_eq_self {s : State} {n : Nat} {tm : Team} (h : s.teams[n]? = some tm) {f : Team → Team} (hf : f tm = tm) :
    modTeam s n f = s := by
  obtain ⟨hn, rfl⟩ := List.getElem?_eq_some_iff.mp h
  rw [modTeam, listMod_eq_set h, hf, List.set_getElem_self]

theorem foldl_listMod_getElem? {α : Type} {f : α → α} (hf : ∀ x, f (f x) = f x) (ns : List Nat) (l : List α) (m : Nat) :
    (ns.foldl (fun l n => listMod f n l) l)[m]? = (l[m]?).map fun x => if m ∈ ns then f x else x := by
  induction ns generalizing l with
  | nil => simp
  | cons n ns ih =>
    rw [List.foldl_cons, ih, listMod_getElem?]
    by_cases hm : m = n
    · subst hm
      cases l[m]? <;> simp [hf]
    · simp [hm]

theorem foldl_modTeam {f : Team → Team} (ns : List Nat) (s : State) :
    ns.foldl (fun s n => modTeam s n f) s = { s with teams := ns.foldl (fun l n => listMod f n l) s.teams } := by
  induction ns generalizing s with
  | nil => rfl
  | cons n ns ih => exact ih _

theorem foldl_modGroup {f : Group → Group} (ps : List (Nat × Group)) (s : State) :
    ps.foldl (fun s p => modGroup s p.1 f) s = { s with groups := (ps.map (·.1)).foldl (fun l n => listMod f n l) s.groups } := by
  induction ps generalizing s with
  | nil => rfl
  | cons p ps ih => exact ih _

theorem mem_teamGroups {s : State} {n m : Nat} {g : Group} : (m, g) ∈ teamGroups s n ↔ s.groups[m]? = some g ∧ g.team = n := by
  simp [teamGroups, mem_numbered]

/-- A change of every group of a team. -/
theorem foldl_teamGroups {f : Group → Group} (hf : ∀ g, f (f g) = f g) {s u : State} (hu : u.groups = s.groups) (n : Nat) :
    (teamGroups s n).foldl (fun s p => modGroup s p.1 f) u = { u with groups := s.groups.map fun g => if g.team = n then f g else g } := by
  rw [foldl_modGroup, hu]
  congr 1
  refine List.ext_getElem? fun m => ?_
  rw [foldl_listMod_getElem? hf, List.getElem?_map]
  refine Option.map_congr fun g hg => ?_
  have hmem : m ∈ (teamGroups s n).map (·.1) ↔ g.team = n := by
    rw [List.mem_map]
    constructor
    · rintro ⟨⟨_, x⟩, hx, rfl⟩
      obtain ⟨hx, hteam⟩ := mem_teamGroups.mp hx
      cases hx.symm.trans hg
      exact hteam
    · exact fun ht => ⟨(m, g), mem_teamGroups.mpr ⟨hg, ht⟩, rfl⟩
  simp only [hmem]

/-! ## Choosing a team -/

section Choose

variable {s : State} {n : Nat} {tm : Team}

theorem chooseTeam_alone (h : s.teams[n]? = some tm) (hs : tm.span = none) : chooseTeam s n = chooseOne s n := by
  simp [chooseTeam, h, hs]

/-- A team that is leaving already, or whose groups have all retired, is left as it is (R104). -/
theorem chooseOne_leaves (h : s.teams[n]? = some tm) (hl : isSaving tm = true ∨ liveGroups s n = []) : chooseOne s n = some s := by
  obtain hl | hl := hl <;> simp [chooseOne, h, hl]

theorem chooseOne_restarts (h : s.teams[n]? = some tm) (hp : inPlace tm = true) (hn : isSaving tm = false) (hl : liveGroups s n ≠ [])
    (hr : restarts tm = true) : chooseOne s n = some (modTeam s n fun x => { x with status := .saving false }) := by
  simp [chooseOne, h, hp, hn, hl, hr]

theorem chooseOne_saves (h : s.teams[n]? = some tm) (hp : inPlace tm = true) (hn : isSaving tm = false) (hl : liveGroups s n ≠ [])
    (hr : restarts tm = false) : chooseOne s n = (imagePlace s n tm).map fun a =>
      modTeam s n fun x => { x with status := .saving (isHalted x), imageAddr := some (BitVec.ofNat 64 a) } := by
  simp [chooseOne, h, hp, hn, hl, hr]

end Choose

/-! ## The forward-progress interval -/

section Interval

variable {s : State} {core v : Nat}

/-- A core whose interval begins again (R100). -/
def intervalBegins (s : State) (core : Nat) : State := modCore s core fun k => { k with fwdStart := k.clock, heldOff := false }

theorem intervalBegins_eq (hc : core < s.cores.length) : intervalBegins s core =
    { s with cores := s.cores.set core { coreAt s core with fwdStart := (coreAt s core).clock, heldOff := false } } := by
  have hk : s.cores[core]? = some (coreAt s core) := by simp [coreAt, hc]
  rw [intervalBegins, modCore, listMod_eq_set hk]

theorem interval_runs (ho : ownerOf s core = some v)
    (h : (coreAt s core).clock.toNat < (coreAt s core).fwdStart.toNat + 2 ^ (vchip s v).fwdctl.toNat) :
    exec (.forwardProgressInterval core) s = .next s := by
  show execForwardProgressInterval core s = _
  simp [execForwardProgressInterval, ho, h]

theorem interval_heldOff (ho : ownerOf s core = some v)
    (h : (coreAt s core).fwdStart.toNat + 2 ^ (vchip s v).fwdctl.toNat ≤ (coreAt s core).clock.toNat) (hh : (coreAt s core).heldOff = true) :
    exec (.forwardProgressInterval core) s = .next (intervalBegins s core) := by
  show execForwardProgressInterval core s = _
  simp [execForwardProgressInterval, ho, Nat.not_lt.mpr h, hh, intervalBegins]

theorem interval_idle (ho : ownerOf s core = some v)
    (h : (coreAt s core).fwdStart.toNat + 2 ^ (vchip s v).fwdctl.toNat ≤ (coreAt s core).clock.toNat) (hc : swapCandidates s v core = []) :
    exec (.forwardProgressInterval core) s = .next (intervalBegins s core) := by
  show execForwardProgressInterval core s = _
  simp [execForwardProgressInterval, ho, Nat.not_lt.mpr h, hc, chosenTeam, intervalBegins]

theorem interval_chooses {n : Nat} {tm : Team} (ho : ownerOf s core = some v)
    (h : (coreAt s core).fwdStart.toNat + 2 ^ (vchip s v).fwdctl.toNat ≤ (coreAt s core).clock.toNat) (hh : (coreAt s core).heldOff = false)
    (hc : swapCandidates s v core = [(n, tm)]) (hv : (vchip s v).vacated.getLsbD (pierOf (vchip s v) core) = false)
    (hi : lastIssue s n ≤ (coreAt s core).fwdStart.toNat) (he : ∀ g, g ∈ s.groups → g.team = n → g.emul = none) :
    exec (.forwardProgressInterval core) s = .next ((chooseTeam (intervalBegins s core) n).getD (intervalBegins s core)) := by
  have hemul : ((liveGroups s n).all fun g => g.2.emul.isNone) = true := by
    refine List.all_eq_true.mpr fun p hp => ?_
    obtain ⟨hg, ht⟩ := mem_teamGroups.mp (List.mem_filter.mp hp).1
    rw [he p.2 (List.mem_of_getElem? hg) ht]
    rfl
  show execForwardProgressInterval core s = _
  simp only [execForwardProgressInterval, ho, Nat.not_lt.mpr h, hh, hc, hv, hi, hemul, chosenTeam, if_false, List.all_cons, List.all_nil,
    decide_true, Bool.and_true, Bool.not_true, Bool.or_false, Bool.false_eq_true]
  rfl

/-- A candidate is resident, of no span, and has a live group. -/
theorem candidate_resident {n : Nat} {tm : Team} (h : (n, tm) ∈ swapCandidates s v core) :
    tm.status = .resident ∧ tm.span = none ∧ liveGroups s n ≠ [] := by
  obtain ⟨-, hp⟩ := List.mem_filter.mp (List.mem_filter.mp h).1
  simp only [Bool.and_eq_true, beq_iff_eq, Option.isNone_iff_eq_none, Bool.not_eq_true', List.isEmpty_eq_false_iff] at hp
  obtain ⟨⟨⟨hst, hs⟩, hl⟩, -⟩ := hp
  exact ⟨hst, hs, hl⟩

end Interval

/-! ## Saves and restarts -/

section Leaving

variable {s : State} {n : Nat} {tm : Team}

theorem completeLeaving_alone (h : s.teams[n]? = some tm) (hs : tm.span = none) (hm : mayLeave s n = true) :
    completeLeaving s n tm = (leaveOneTeam s n).getD (leaveInPlace s n tm) := by
  cases hl : leaveOneTeam s n <;> simp [completeLeaving, leavingWith, hs, hm, leaveTogether, stayTogether, hl, h]

theorem restarts_saving {b : Bool} (hst : tm.status = .saving b) : restarts tm = (tm.idem && !b) := by simp [restarts, isHalted, hst]

theorem isSaving_saving {b : Bool} (hst : tm.status = .saving b) : isSaving tm = true := by simp [isSaving, hst]

theorem saveComplete_alone {b : Bool} (h : s.teams[n]? = some tm) (hst : tm.status = .saving b) (hi : tm.idem = false ∨ b = true)
    (hs : tm.span = none) (hl : liveGroups s n ≠ []) (hr : atRest s false n tm = true) :
    exec (.saveComplete n) s = .next ((saveTeam s n tm).getD (leaveInPlace s n tm)) := by
  have hno : restarts tm = false := by
    rw [restarts_saving hst]
    obtain hi | hi := hi <;> simp [hi]
  have hleave : mayLeave s n = true := by simp [mayLeave, h, hno, hr]
  show execSaveComplete n s = _
  simp [execSaveComplete, h, isSaving_saving hst, hno, hl, completeLeaving_alone h hs hleave, leaveOneTeam]

theorem saveTeam_written {a : DWord} (ha : tm.imageAddr = some a) (hk : tm.protKey = none) (hw : tm.windowBytes = 0) :
    let ctr := (vchip s tm.vc).savectr + 1
    saveTeam s n tm = (deviceWrite s tm.vc a.toNat (imageBytes s n tm false ctr.toNat [])).map fun s1 => joinResume s1 n tm ctr a := by
  simp [saveTeam, savePlace, ha, imageFor, hk, hw]

theorem leaveInPlace_off {b : Bool} (hst : tm.status = .saving b) (h : s.teams[n]? = some tm)
    (hp : onPiers s tm (vchip s tm.vc).vacated = false) :
    leaveInPlace s n tm = modTeam (if b = true then s else { s with groups := s.groups.map fun g => if g.team = n then { g with skid := 0 } else g })
      n fun x => { x with status := if b then .halted else .resident, imageAddr := none } := by
  have hb : isHalted tm = b := by simp [isHalted, hst]
  have hskid := foldl_teamGroups (f := fun g => { g with skid := 0 }) (fun _ => rfl) (rfl : s.groups = s.groups) n
  simp only [leaveInPlace, hp, hb, hskid, Bool.false_eq_true, if_false]
  refine modTeam_congr (tm := tm) ?_ (by rw [hb])
  split <;> exact h

/-! ### Off the cores -/

theorem foldl_freeEngine (n : Nat) (cs : List Nat) (u : State) :
    let t := cs.foldl (fun s c => modEngine s c fun e => if e.holder == some n then Engine.init else e) u
    t = { u with cores := t.cores } ∧ t.cores.map (·.jobs) = u.cores.map (·.jobs) := by
  induction cs generalizing u with
  | nil => exact ⟨rfl, rfl⟩
  | cons c cs ih =>
    obtain ⟨hrest, hjobs⟩ := ih (modEngine u c fun e => if e.holder == some n then Engine.init else e)
    exact ⟨hrest, hjobs.trans (listMod_map _ _ (fun _ => by rfl) _ _)⟩

theorem leaveCores_eq (s : State) (n : Nat) (tm : Team) : leaveCores s n tm = { s with cores := (leaveCores s n tm).cores } :=
  (foldl_freeEngine n (heldCores tm) _).1

/-- No copy of a team that has left its cores is there any more. -/
theorem leaveCores_jobs (s : State) (n : Nat) (tm : Team) :
    (leaveCores s n tm).cores.map (·.jobs) = s.cores.map fun c => c.jobs.filter fun j => j.team != n := by
  refine (foldl_freeEngine n (heldCores tm) _).2.trans ?_
  rw [List.map_map]
  rfl

theorem not_mem_jobs {t : State} (h : t.cores.map (·.jobs) = s.cores.map fun c => c.jobs.filter fun j => j.team != n) :
    ∀ c, c ∈ t.cores → ∀ j, j ∈ c.jobs → j.team ≠ n := by
  intro c hc j hj
  have hmem : c.jobs ∈ s.cores.map fun c => c.jobs.filter fun j => j.team != n := h ▸ List.mem_map_of_mem hc
  obtain ⟨c0, -, hjobs⟩ := List.mem_map.mp hmem
  rw [← hjobs] at hj
  simpa using (List.mem_filter.mp hj).2

/-! ### A save -/

/-- A team that joins the resume list with its image at a. -/
def savedTeam (s : State) (n : Nat) (ctr a : DWord) (x : Team) : Team := { x with
  status := .saved (isHalted x), saveCtr := ctr, imageAddr := some a, imageLen := (layoutOf s n x).len, placed := false
  mmas := (heldCores x).map fun c => (coreAt s c).engine.queue }

/-- The state of a team that has joined the resume list, before the save's event record. -/
def savedState (s : State) (n : Nat) (tm : Team) (ctr a : DWord) : State :=
  countVc (ageReqs (modTeam (modVc (leaveCores s n tm) tm.vc fun c => { c with resume := c.resume ++ [n], savectr := ctr }) n
    (savedTeam s n ctr a)) n) tm.vc 6 1

theorem savedState_mem (s : State) (n : Nat) (tm : Team) (ctr a : DWord) : (savedState s n tm ctr a).mem = s.mem := by
  show (leaveCores s n tm).mem = _
  rw [leaveCores_eq]

theorem savedState_teams (s : State) (n : Nat) (tm : Team) (ctr a : DWord) :
    (savedState s n tm ctr a).teams = listMod (savedTeam s n ctr a) n s.teams := by
  show listMod _ n (leaveCores s n tm).teams = _
  rw [leaveCores_eq]

theorem savedState_groups (s : State) (n : Nat) (tm : Team) (ctr a : DWord) : (savedState s n tm ctr a).groups =
    s.groups.map fun g => if g.team = n then { g with reqs := g.reqs.map fun q => { q with old := true } } else g := by
  show (leaveCores s n tm).groups.map _ = _
  rw [leaveCores_eq]
  simp only [beq_iff_eq]

theorem savedState_vchips (s : State) (n : Nat) (tm : Team) (ctr a : DWord) : (savedState s n tm ctr a).vchips = listMod (fun c => { c with
    resume := c.resume ++ [n], savectr := ctr, counters := listMod (fun x => x + BitVec.ofNat 64 1) 6 c.counters }) tm.vc s.vchips := by
  show listMod _ _ (listMod _ _ (leaveCores s n tm).vchips) = _
  rw [listMod_comp, leaveCores_eq]

theorem joinResume_saves {s1 : State} {b : Bool} {ctr a : DWord} (hserved : Served withoutErrors s s1) (h : s.teams[n]? = some tm)
    (hst : tm.status = .saving b) (ha : tm.imageAddr = some a) (hv : tm.vc < s.vchips.length) :
    let t := joinResume s1 n tm ctr a
    TeamIs n { tm with
        status := .saved b, saveCtr := ctr, placed := false, imageLen := (layoutOf s1 n tm).len
        mmas := (heldCores tm).map fun c => (coreAt s c).engine.queue } s t ∧
      (vchip t tm.vc).resume = (vchip s tm.vc).resume ++ [n] ∧ (vchip t tm.vc).savectr = ctr ∧
      (typeOn (vchip s tm.vc).stream 11 = false → t.mem = s1.mem) ∧
      TeamGroupsAre n (fun g => { g with reqs := g.reqs.map fun q => { q with old := true } }) s t ∧
      ∀ c, c ∈ t.cores → (∀ j, j ∈ c.jobs → j.team ≠ n) := by
  intro t
  have hevent : Served withoutReports (savedState s1 n tm ctr a) t := served_teamEvent _ tm 0 tm.coreA
  have hchip := vchip_of_vchips (hserved.chipCount ▸ hv) (savedState_vchips s1 n tm ctr a)
  refine ⟨?_, ?_, ?_, fun hoff => ?_, ?_, ?_⟩
  · have hteams : t.teams = listMod _ n s.teams := (hevent.teams.trans (savedState_teams s1 n tm ctr a)).trans (by rw [hserved.teams])
    have hb : isHalted tm = b := by simp [isHalted, hst]
    have hteam := teamIs_of_teams h hteams
    simp only [savedTeam, hb, hserved.queue, ← ha] at hteam
    exact hteam
  · rw [hevent.chipField VChip.resume fun _ => rfl, hchip, hserved.chipField VChip.resume fun _ => rfl]
  · rw [hevent.chipField VChip.savectr fun _ => rfl, hchip]
  · have hstream : (vchip (savedState s1 n tm ctr a) tm.vc).stream = (vchip s tm.vc).stream := by
      rw [hchip, hserved.chipField VChip.stream fun _ => rfl]
    have hmasked : t = savedState s1 n tm ctr a := event_masked (hstream ▸ hoff) _
    rw [hmasked, savedState_mem]
  · rw [TeamGroupsAre, hevent.groups, savedState_groups, hserved.groups]
  · exact not_mem_jobs (hevent.jobs.trans (leaveCores_jobs s1 n tm))

/-! ### A restart -/

/-- A group whose state is discarded (R83). -/
def discardedGroup (g : Group) : Group := { g with
  retired := true, wait := .none, loads := [], reqs := [], fills := [], tokens := [], copies := [], emul := none, emulMask := 0
  fault := none, stall := .drained }

/-- A virtual chip of which a team joins the resume list under incarnation i. -/
def restartedChip (n : Nat) (i : BitVec 48) (c : VChip) : VChip := { c with
  incarn := i
  resume := c.resume ++ [n]
  rlowner := dropOwner n c.rlowner
  endpoints := c.endpoints.filter fun e => match e.2 with
    | .team m _ _ _ => m != n
    | .queue _ _ _ => true }

/-- A team that starts again under incarnation i. -/
def restartedTeam (i : BitVec 48) (x : Team) : Team := { x with
  status := .restarted, incarn := i, next := x.first, idem := x.kernel.idem, counters := [], barriers := newBarriers x.kernel, placed := false }

/-- The state of a team that has been restarted, before the event record (R83, R291). -/
def restartedState (s : State) (n : Nat) (tm : Team) : State :=
  countVc (modTeam (modVc { leaveCores s n tm with groups := s.groups.map fun g => if g.team = n then discardedGroup g else g } tm.vc
    (restartedChip n ((vchip s tm.vc).incarn + 1))) n (restartedTeam ((vchip s tm.vc).incarn + 1))) tm.vc 7 1

theorem restartTeam_eq (s : State) (n : Nat) (tm : Team) : restartTeam s n tm = teamEvent (restartedState s n tm) tm 2 tm.coreA := by
  have hleft : (leaveCores s n tm).groups = s.groups := by rw [leaveCores_eq]
  have hgroups := foldl_teamGroups (f := discardedGroup) (fun _ => rfl) hleft n
  have hchip : vchip { leaveCores s n tm with groups := s.groups.map fun g => if g.team = n then discardedGroup g else g } tm.vc = vchip s tm.vc := by
    rw [leaveCores_eq]
    rfl
  unfold discardedGroup at hgroups hchip
  rw [restartTeam, hgroups]
  simp only [drawIncarn, hchip, modVc, listMod_comp]
  rfl

theorem restartedState_mem (s : State) (n : Nat) (tm : Team) : (restartedState s n tm).mem = s.mem := by
  show (leaveCores s n tm).mem = _
  rw [leaveCores_eq]

theorem restartedState_teams (s : State) (n : Nat) (tm : Team) :
    (restartedState s n tm).teams = listMod (restartedTeam ((vchip s tm.vc).incarn + 1)) n s.teams := by
  show listMod _ n (leaveCores s n tm).teams = _
  rw [leaveCores_eq]

theorem restartedState_vchips (s : State) (n : Nat) (tm : Team) :
    (restartedState s n tm).vchips = listMod (fun c => { restartedChip n ((vchip s tm.vc).incarn + 1) c with
      counters := listMod (fun x => x + BitVec.ofNat 64 1) 7 c.counters }) tm.vc s.vchips := by
  show listMod _ _ (listMod _ _ (leaveCores s n tm).vchips) = _
  rw [listMod_comp, leaveCores_eq]
  rfl

theorem restartTeam_restarts (h : s.teams[n]? = some tm) (hv : tm.vc < s.vchips.length) :
    let t := restartTeam s n tm
    TeamIs n (restartedTeam ((vchip s tm.vc).incarn + 1) tm) s t ∧
      TeamGroupsAre n discardedGroup s t ∧
      (vchip t tm.vc).resume = (vchip s tm.vc).resume ++ [n] ∧ (vchip t tm.vc).incarn = (vchip s tm.vc).incarn + 1 ∧
      (typeOn (vchip s tm.vc).stream 11 = false → t.mem = s.mem) := by
  intro t
  have ht : t = teamEvent (restartedState s n tm) tm 2 tm.coreA := restartTeam_eq s n tm
  have hevent : Served withoutReports (restartedState s n tm) t := ht ▸ served_teamEvent _ tm 2 tm.coreA
  have hchip := vchip_of_vchips hv (restartedState_vchips s n tm)
  refine ⟨teamIs_of_teams h (hevent.teams.trans (restartedState_teams s n tm)), ?_, ?_, ?_, fun hoff => ?_⟩
  · rw [TeamGroupsAre, hevent.groups]
    rfl
  · rw [hevent.chipField VChip.resume fun _ => rfl, hchip]
    rfl
  · rw [hevent.chipField VChip.incarn fun _ => rfl, hchip]
    rfl
  · have hstream : (vchip (restartedState s n tm) tm.vc).stream = (vchip s tm.vc).stream := by
      rw [hchip]
      rfl
    have hmasked : t = restartedState s n tm := ht.trans (event_masked (hstream ▸ hoff) _)
    rw [hmasked, restartedState_mem]

theorem teamRestart_alone (h : s.teams[n]? = some tm) (hst : tm.status = .saving false) (hi : tm.idem = true) (hs : tm.span = none)
    (hl : liveGroups s n ≠ []) (ho : ∀ o g, o ∈ s.ops → s.groups[o.group]? = some g → g.team ≠ n) :
    exec (.teamRestart n) s = .next (restartTeam s n tm) := by
  have hr : restarts tm = true := by rw [restarts_saving hst, hi]; rfl
  have hops : opsBusy s n = false := by
    refine List.any_eq_false.mpr fun o hmem hbusy => ?_
    obtain ⟨⟨m, g⟩, hp, hm⟩ := List.any_eq_true.mp hbusy
    obtain ⟨hg, hteam⟩ := mem_teamGroups.mp hp
    exact ho o g hmem (beq_iff_eq.mp hm ▸ hg) hteam
  have hleave : mayLeave s n = true := by simp [mayLeave, h, hr, hops]
  show execTeamRestart n s = _
  simp [execTeamRestart, h, isSaving_saving hst, hr, hl, completeLeaving_alone h hs hleave, leaveOneTeam]

end Leaving

/-! ## Vacating piers -/

section Vacate

variable {s : State} {v : Nat}

theorem mem_teamsOn {m : BitVec 128} {n : Nat} :
    n ∈ teamsOn s v m ↔ ∃ tm, s.teams[n]? = some tm ∧ tm.vc = v ∧ inPlace tm = true ∧ onPiers s tm m = true := by
  simp [teamsOn, mem_numbered, and_assoc]

theorem onPiers_congr {u : State} (h : ∀ w, (vchip u w).piers = (vchip s w).piers) (tm : Team) (m : BitVec 128) :
    onPiers u tm m = onPiers s tm m := by
  simp only [onPiers, pierOf, vcCore, h]

theorem teamsOn_congr {u : State} (ht : u.teams = s.teams) (h : ∀ w, (vchip u w).piers = (vchip s w).piers) (m : BitVec 128) :
    teamsOn u v m = teamsOn s v m := by
  simp only [teamsOn, ht, onPiers_congr h]

theorem piers_modVc {f : VChip → VChip} (hf : ∀ c, (f c).piers = c.piers) (s : State) (v w : Nat) :
    (vchip (modVc s v f) w).piers = (vchip s w).piers := by
  rw [apply_vchip VChip.piers, modVc, listMod_map f VChip.piers hf, ← apply_vchip VChip.piers]

theorem teamsOn_modVc {f : VChip → VChip} (hf : ∀ c, (f c).piers = c.piers) (s : State) (v w : Nat) (m : BitVec 128) :
    teamsOn (modVc s w f) v m = teamsOn s v m := teamsOn_congr (modVc_teams s w f) (piers_modVc hf s w) m

theorem teamsOn_dropReserve (s : State) (v : Nat) (m : BitVec 128) : teamsOn (dropReserve s v) v m = teamsOn s v m := by
  unfold dropReserve
  split
  · rfl
  · exact teamsOn_modVc (f := fun c => { c with reserve := none }) (fun _ => by rfl) s v v m

/-- A command that is ignored sets VERR (R101). -/
theorem vcmd_ignored (hu : (vchip s v).used = true) (hb : badVcmd (vchip s v) = true) :
    exec (.vacate v) s = .next (modVc s v fun c => { c with verr := true }) ∧
      exec (.returnPiers v) s = .next (modVc s v fun c => { c with verr := true }) := by
  constructor
  · show execVacate v s = _
    simp [execVacate, hu, hb]
  · show execReturnPiers v s = _
    simp [execReturnPiers, hu, hb]

theorem returnPiers_gives (hu : (vchip s v).used = true) (hb : badVcmd (vchip s v) = false) :
    exec (.returnPiers v) s = .next (modVc s v fun c => { c with vacated := c.vacated &&& ~~~namedPiers (vchip s v) }) := by
  have hc := getElem?_of_used hu
  show execReturnPiers v s = _
  simp only [execReturnPiers, hu, hb, Bool.not_true, Bool.false_eq_true, if_false, modVc, listMod_eq_set hc]

/-- A virtual chip whose named piers are being vacated. -/
def vacatingChip (named : BitVec 128) (c : VChip) : VChip := { c with vacated := c.vacated ||| named, vbusy := true }

/-- A team chosen for `VACATE`; VERR where its save cannot be made (R102). -/
def vacateOne (v : Nat) (s : State) (n : Nat) : State := (chooseTeam s n).getD (modVc s v fun c => { c with verr := true })

/-- `VACATE` chooses the teams of the named piers, in the state that a dropped reservation leaves. -/
theorem vacate_chooses (hu : (vchip s v).used = true) (hb : badVcmd (vchip s v) = false) {u : State}
    (hd : u = if ((vchip s v).reserve.map fun r => (namedPiers (vchip s v)).getLsbD (pierOf (vchip s v) r.core)).getD false = true
      then dropReserve s v else s) : exec (.vacate v) s =
    .next ((teamsOn s v (namedPiers (vchip s v))).foldl (vacateOne v) (modVc u v (vacatingChip (namedPiers (vchip s v))))) := by
  have hteams : teamsOn (modVc u v (vacatingChip (namedPiers (vchip s v)))) v (namedPiers (vchip s v)) = teamsOn s v (namedPiers (vchip s v)) := by
    rw [teamsOn_modVc (f := vacatingChip _) fun _ => by rfl, hd]
    split
    · exact teamsOn_dropReserve s v _
    · rfl
  rw [← hteams, hd]
  show execVacate v s = _
  simp only [execVacate, hu, hb, Bool.not_true, Bool.false_eq_true, if_false]
  refine congrArg Host.Outcome.next (congrArg (fun f => List.foldl f _ _) ?_)
  funext u n
  unfold vacateOne
  cases chooseTeam u n <;> rfl

theorem vacate_unreserved (hu : (vchip s v).used = true) (hb : badVcmd (vchip s v) = false) (hr : (vchip s v).reserve = none) :
    exec (.vacate v) s =
      .next ((teamsOn s v (namedPiers (vchip s v))).foldl (vacateOne v) (modVc s v (vacatingChip (namedPiers (vchip s v))))) :=
  vacate_chooses hu hb (by rw [hr]; rfl)

theorem vacate_reserved (hu : (vchip s v).used = true) (hb : badVcmd (vchip s v) = false) {r : Reserve} (hr : (vchip s v).reserve = some r)
    (hp : (namedPiers (vchip s v)).getLsbD (pierOf (vchip s v) r.core) = true) (ht : teamsOn s v (namedPiers (vchip s v)) = []) :
    exec (.vacate v) s = .next (modVc (dropReserve s v) v (vacatingChip (namedPiers (vchip s v)))) := by
  rw [vacate_chooses hu hb (u := dropReserve s v) (by simp [hr, hp]), ht]
  rfl

/-- A team that is restarted when it is chosen, or has been chosen so. -/
def MayRestart (tm : Team) : Prop := tm.span = none ∧ tm.idem = true ∧ (tm.status = .resident ∨ tm.status = .saving false)

/-- A team that leaves for a restart. -/
def leavingTeam (tm : Team) : Team := { tm with status := .saving false }

theorem chooseTeam_mayRestart {u : State} {n : Nat} {tm : Team} (h : u.teams[n]? = some tm) (hm : MayRestart tm) (hl : liveGroups u n ≠ []) :
    chooseTeam u n = some (modTeam u n leavingTeam) := by
  obtain ⟨hs, hi, hst | hst⟩ := hm
  · exact (chooseTeam_alone h hs).trans (chooseOne_restarts h (by simp [inPlace, hst]) (by simp [isSaving, hst]) hl
      (by simp [restarts, isHalted, hst, hi]))
  · rw [chooseTeam_alone h hs, chooseOne_leaves h (.inl (isSaving_saving hst)),
      modTeam_eq_self h (show leavingTeam tm = tm by rw [leavingTeam, ← hst])]

/-- The teams that may restart all leave, whatever their number. -/
theorem foldl_vacateOne_restarts (ns : List Nat) (u : State)
    (h : ∀ n, n ∈ ns → liveGroups u n ≠ [] ∧ ∃ tm, u.teams[n]? = some tm ∧ MayRestart tm) :
    ns.foldl (vacateOne v) u = ns.foldl (fun s n => modTeam s n leavingTeam) u := by
  induction ns generalizing u with
  | nil => rfl
  | cons n ns ih =>
    obtain ⟨hl, tm, htm, hm⟩ := h n (List.mem_cons_self ..)
    have hstep : vacateOne v u n = modTeam u n leavingTeam := by rw [vacateOne, chooseTeam_mayRestart htm hm hl]; rfl
    rw [List.foldl_cons, List.foldl_cons, hstep]
    refine ih _ fun m hmem => ?_
    obtain ⟨hlm, x, hx, hmx⟩ := h m (List.mem_cons_of_mem _ hmem)
    refine ⟨hlm, ?_⟩
    rw [show (modTeam u n leavingTeam).teams = listMod leavingTeam n u.teams from rfl, listMod_getElem?, hx]
    split
    · obtain ⟨hs, hi, -⟩ := hmx
      exact ⟨leavingTeam x, rfl, hs, hi, .inr rfl⟩
    · exact ⟨x, rfl, hmx⟩

theorem vacateComplete_ends (hb : (vchip s v).vbusy = true)
    (h : ∀ n tm, n ∈ teamsOn s v (vchip s v).vacated → s.teams[n]? = some tm → isSaving tm = false) :
    exec (.vacateComplete v) s = .next (modVc s v fun c => { c with vbusy := false, raised := c.raised ++ [16] }) := by
  have hidle : ((teamsOn s v (vchip s v).vacated).any fun n => ((s.teams[n]?).map isSaving) == some true) = false := by
    refine List.any_eq_false.mpr fun n hn hbusy => ?_
    obtain ⟨tm, htm, -⟩ := mem_teamsOn.mp hn
    rw [htm, Option.map_some, h n tm hn htm] at hbusy
    cases hbusy
  show execVacateComplete v s = _
  simp only [execVacateComplete, hb, hidle, Bool.not_true, Bool.or_false, Bool.false_eq_true, if_false, raise, modVc, listMod_comp]

/-! ### The named piers -/

theorem badVcmd_iff (c : VChip) : badVcmd c = true ↔ c.vbusy = true ∨ 2 ^ (vcPiers c).length ≤ (c.vmask1 ++ c.vmask0).toNat := by
  rw [badVcmd, namedPiers, Bool.or_eq_true, decide_eq_true_eq]

/-- The teams of the named piers leave for a restart, all of them. -/
theorem vacate_restarts (hu : (vchip s v).used = true) (hb : badVcmd (vchip s v) = false) (hr : (vchip s v).reserve = none)
    (h : ∀ n tm, n ∈ teamsOn s v (namedPiers (vchip s v)) → s.teams[n]? = some tm →
      tm.span = none ∧ tm.idem = true ∧ tm.status = .resident ∧ liveGroups s n ≠ []) :
    ∃ t, exec (.vacate v) s = .next t ∧ t = { modVc s v (vacatingChip (namedPiers (vchip s v))) with teams := t.teams } ∧
      ∀ n : Nat, t.teams[n]? = (s.teams[n]?).map fun x => if n ∈ teamsOn s v (namedPiers (vchip s v)) then leavingTeam x else x := by
  have hleave : ∀ n, n ∈ teamsOn s v (namedPiers (vchip s v)) → liveGroups s n ≠ [] ∧ ∃ tm, s.teams[n]? = some tm ∧ MayRestart tm := by
    intro n hn
    obtain ⟨tm, htm, -⟩ := mem_teamsOn.mp hn
    obtain ⟨hs, hi, hst, hl⟩ := h n tm hn htm
    exact ⟨hl, tm, htm, hs, hi, .inl hst⟩
  refine ⟨_, vacate_unreserved hu hb hr, ?_⟩
  rw [foldl_vacateOne_restarts _ (modVc s v (vacatingChip (namedPiers (vchip s v)))) hleave, foldl_modTeam]
  exact ⟨rfl, fun n => foldl_listMod_getElem? (fun _ => by rfl) _ s.teams n⟩

/-- The one team of the named piers, which is not restarted. -/
theorem vacate_saves {n : Nat} {tm : Team} (hu : (vchip s v).used = true) (hb : badVcmd (vchip s v) = false) (hr : (vchip s v).reserve = none)
    (hon : teamsOn s v (namedPiers (vchip s v)) = [n]) (h : s.teams[n]? = some tm) (hs : tm.span = none)
    (hi : tm.idem = false ∨ tm.status = .halted) :
    let s1 := modVc s v (vacatingChip (namedPiers (vchip s v)))
    (isSaving tm = true ∨ liveGroups s n = [] → exec (.vacate v) s = .next s1) ∧
    (isSaving tm = false → liveGroups s n ≠ [] →
      (∀ a, imagePlace s1 n tm = some a → exec (.vacate v) s = .next (modTeam s1 n fun x => { x with
        status := .saving (isHalted tm), imageAddr := some (BitVec.ofNat 64 a) })) ∧
      (imagePlace s1 n tm = none → exec (.vacate v) s = .next (modVc s1 v fun c => { c with verr := true }))) := by
  intro s1
  have h1 : s1.teams[n]? = some tm := h
  have hplace : inPlace tm = true := by
    obtain ⟨x, hx, -, hp, -⟩ := mem_teamsOn.mp (hon ▸ List.mem_singleton_self n : n ∈ teamsOn s v (namedPiers (vchip s v)))
    cases hx.symm.trans h
    exact hp
  have hrestart : restarts tm = false := by obtain hi | hi := hi <;> simp [restarts, isHalted, hi]
  have hexec : exec (.vacate v) s = .next (vacateOne v s1 n) := by rw [vacate_unreserved hu hb hr, hon]; rfl
  rw [hexec, vacateOne, chooseTeam_alone h1 hs]
  refine ⟨fun hl => by rw [chooseOne_leaves h1 hl]; rfl, fun hn hl => ?_⟩
  rw [chooseOne_saves h1 hplace hn hl hrestart]
  refine ⟨fun a ha => ?_, fun ha => by rw [ha]; rfl⟩
  rw [ha]
  exact congrArg Host.Outcome.next (modTeam_congr h1 rfl)

end Vacate

/-! ## The statement -/

/-- A core's one candidate is chosen at the end of its interval: it is restarted, or its image's place is taken. -/
theorem interval_choice {s : State} {core v n : Nat} {tm : Team} (hc : swapCandidates s v core = [(n, tm)]) (h : s.teams[n]? = some tm) :
    (tm.idem = true → chooseTeam (intervalBegins s core) n = some (modTeam (intervalBegins s core) n leavingTeam)) ∧
    ∀ a, tm.idem = false → imagePlace (intervalBegins s core) n tm = some a → chooseTeam (intervalBegins s core) n =
      some (modTeam (intervalBegins s core) n fun x => { x with status := .saving false, imageAddr := some (BitVec.ofNat 64 a) }) := by
  obtain ⟨hst, hs, hl⟩ := candidate_resident (hc ▸ List.mem_singleton_self (n, tm) : (n, tm) ∈ swapCandidates s v core)
  have h1 : (intervalBegins s core).teams[n]? = some tm := h
  refine ⟨fun hi => chooseTeam_mayRestart h1 ⟨hs, hi, .inl hst⟩ hl, fun a hi ha => ?_⟩
  rw [chooseTeam_alone h1 hs, chooseOne_saves h1 (by simp [inPlace, hst]) (by simp [isSaving, hst]) hl (by simp [restarts, hi]), ha, Option.map_some]
  exact congrArg some (modTeam_congr h1 (by simp [isHalted, hst]))

/-- Settles O53: an interval's end and a command choose their teams one at a time, and what a team that leaves its cores writes changes
nothing that the other clauses speak of. -/
theorem preemptionResults : Obligations.PreemptionResults := by
  refine ⟨?interval, ?save, ?restart, ?command, fun s v => vacateComplete_ends⟩
  case interval =>
    intro s core v ho hc k begun
    have hbegins : begun s = intervalBegins s core := (intervalBegins_eq hc).symm
    refine ⟨interval_runs ho, fun hdue => ⟨fun hh => hbegins ▸ interval_heldOff ho hdue hh,
      fun _ hnone => hbegins ▸ interval_idle ho hdue hnone, fun n tm hh hone h hvac hissue hemul => ?_⟩⟩
    obtain ⟨hrestart, hsave⟩ := interval_choice hone h
    rw [interval_chooses ho hdue hh hone hvac hissue hemul, ← hbegins]
    rw [← hbegins] at hrestart hsave
    exact ⟨fun hi => by rw [hrestart hi]; rfl, fun a hi ha => by rw [hsave a hi ha]; rfl⟩
  case save =>
    intro s n tm b a h hst hi hs hl hr hk hw ha ctr image
    rw [saveComplete_alone h hst hi hs hl hr, saveTeam_written ha hk hw]
    refine ⟨fun s1 hd hv => ?_, fun hd hp => ?_⟩
    · rw [hd]
      exact ⟨_, rfl, joinResume_saves (served_deviceWrite hd) h hst ha hv⟩
    · rw [hd]
      exact congrArg Host.Outcome.next (leaveInPlace_off hst h hp)
  case restart =>
    intro s n tm h hst hi hs hl ho hv
    exact ⟨_, teamRestart_alone h hst hi hs hl ho, restartTeam_restarts h hv⟩
  case command =>
    intro s v hu c named
    refine ⟨fun hb => vcmd_ignored hu ((badVcmd_iff _).mpr hb), fun hb hn => ?_⟩
    have hok : badVcmd c = false := by
      rw [← Bool.not_eq_true, badVcmd_iff, hb]
      simpa using hn
    exact ⟨fun hr => ⟨fun hon => by rw [vacate_unreserved hu hok hr, namedPiers, hon]; rfl, vacate_restarts hu hok hr,
      fun n tm => vacate_saves hu hok hr⟩, fun r hr hp hon => vacate_reserved hu hok hr hp hon, returnPiers_gives hu hok⟩

end Sys2Proof.Laws
end

section
/-!
Launch queues: what is read and refused, what is accepted, and what the end of a launch changes (R84 to R95).
-/

namespace Sys2Proof.Laws

open Sys2Proof.Machine Sys2Proof.Claims

/-! ## Changes of a virtual chip and of its queues -/

theorem modVc_comp (s : State) (v : Nat) (f g : VChip → VChip) : modVc (modVc s v f) v g = modVc s v fun c => g (f c) := by
  simp [modVc, listMod_comp]

/-- Two changes of a virtual chip that agree on it. -/
theorem modVc_congr {s : State} {v : Nat} {f g : VChip → VChip} (h : f (vchip s v) = g (vchip s v)) : modVc s v f = modVc s v g := by
  rw [modVc, modVc]
  congr 1
  refine List.ext_getElem? fun m => ?_
  rw [listMod_getElem?, listMod_getElem?]
  split
  next hm =>
    subst hm
    refine Option.map_congr fun c hc => ?_
    rwa [vchip_eq hc] at h
  next => rfl

theorem modVc_id (s : State) (v : Nat) : modVc s v (fun c => c) = s := by
  have hsame : listMod (fun c => c) v s.vchips = s.vchips := List.ext_getElem? fun m => by simp [listMod_getElem?]
  rw [modVc, hsame]

/-- A field of a virtual chip that a change leaves as it is. -/
theorem chipField_modVc {β : Type} {p : VChip → β} {f : VChip → VChip} (hp : ∀ c, p (f c) = p c) (s : State) (v w : Nat) :
    p (vchip (modVc s v f) w) = p (vchip s w) := by
  rw [apply_vchip p, apply_vchip p, modVc, listMod_map f p hp]

@[simp] theorem launches_modQueue (s : State) (v q w : Nat) (f : Queue → Queue) : (vchip (modQueue s v q f) w).launches = (vchip s w).launches :=
  chipField_modVc (fun _ => by rfl) s v w

theorem modQueue_comp (s : State) (v q : Nat) (f g : Queue → Queue) : modQueue (modQueue s v q f) v q g = modQueue s v q fun x => g (f x) := by
  simp [modQueue, modVc_comp, listMod_comp]

/-- A field of a queue that a change leaves as it is. -/
theorem queueField_modQueue {β : Type} {p : Queue → β} {f : Queue → Queue} (hp : ∀ x, p (f x) = p x) (s : State) (v q r : Nat) :
    p (queueAt (modQueue s v q f) v r) = p (queueAt s v r) := by
  have happly (c : VChip) : p ((c.queues[r]?).getD Queue.init) = ((c.queues.map p)[r]?).getD (p Queue.init) := by
    rw [List.getElem?_map]
    cases c.queues[r]? <;> rfl
  simp only [queueAt, happly]
  rw [modQueue, chipField_modVc (p := fun c => c.queues.map p) fun c => listMod_map f p hp q c.queues]

/-- A launch that is found is one of its virtual chip, which so exists. -/
theorem getElem?_of_launchAt {s : State} {v : Nat} {id : DWord} {l : Launch} (h : launchAt s v id = some l) :
    s.vchips[v]? = some (vchip s v) := by
  cases hc : s.vchips[v]? with
  | none => simp [launchAt, vchip, hc, VChip.init] at h
  | some c => rw [vchip_eq hc]

/-! ## Reading stops (R84, R93, R95) -/

section Stops

variable {s : State} {v : Nat}

/-- Where no span launch waits, nothing is cancelled. -/
theorem cancelSpans_none (h : ∀ l ∈ (vchip s v).launches, l.spanDesc = none) (q : Nat) : cancelSpans s v q = s := by
  have hnone : ((vchip s v).launches.filter fun l => idQueue l.id == q && l.spanDesc.isSome && !spanStarted s l) = [] :=
    List.filter_eq_nil_iff.mpr fun l hl => by simp [h l hl]
  rw [cancelSpans, hnone, List.foldl_nil]

theorem stopQueue_modQueue (h : ∀ l ∈ (vchip s v).launches, l.spanDesc = none) (q : Nat) (f : Queue → Queue) :
    stopQueue (modQueue s v q f) v q = modQueue s v q fun x => { f x with en := false } := by
  rw [stopQueue, modQueue_comp, cancelSpans_none]
  simpa using h

theorem unreadRecord_eq (h : ∀ l ∈ (vchip s v).launches, l.spanDesc = none) (q : Nat) :
    unreadRecord s v q = modQueue s v q fun y => { y with rderr := true, en := false } := stopQueue_modQueue h q _

end Stops

/-! ## A record taken (R86, R90, R93) -/

/-- A launch as it stands when its record has been read. -/
def readLaunch (id : DWord) (r : List Byte) (k : Kernel) : Launch :=
  { id := id, record := r, kernel := k, accepted := false, order := 0, n := 0, base := 0, nextTeam := 0, retiredTeams := 0,
    status := 0, spanDesc := none, spanBad := false, matched := none }

/-- A launch ID: its queue and its sequence (R86). -/
def launchId (q seq : Nat) : DWord := BitVec.ofNat 64 (q * 2 ^ 60 + seq)

/-- A queue has given a sequence to its next record, and its event of type 10 has been asked for. -/
def sequenced (s : State) (v q seq : Nat) : State :=
  event (modQueue s v q fun x => { x with seq := BitVec.ofNat 60 seq }) v 10 [(9, 0), (16, (launchId q seq).toNat)]

section Taken

variable {s s1 : State} {v q seq : Nat} {r : List Byte} {k : Kernel}

theorem takeRecord_dirty (hseq : (queueAt s v q).seq.toNat + 1 = seq) (hd : recordDirty r = true) :
    takeRecord s v q r = endLaunch (sequenced s v q seq) v (readLaunch (launchId q seq) r noKernel) 0x01 true := by
  subst hseq
  simp [takeRecord, hd, sequenced, readLaunch, launchId]

theorem takeRecord_reads (hseq : (queueAt s v q).seq.toNat + 1 = seq) (hd : recordDirty r = false) (hspan : recSpan r = false)
    (hk : readKernel (sequenced s v q seq) v (recField r 0 8) (recField r 8 2) = (s1, some k)) (hc : readChecks s1 v q seq r (some k) = 0) :
    takeRecord s v q r = modVc s1 v fun c => { c with launches := c.launches ++ [readLaunch (launchId q seq) r k] } := by
  subst hseq
  unfold sequenced launchId at hk
  simp only [takeRecord, hd, hspan, hk, hc, Bool.false_eq_true, if_false, bne_self_eq_false, Bool.not_false, if_true]
  rfl

end Taken

/-! ## `LAUNCH_RECORD_READ` (R85, R90, R283) -/

/-- A queue reads records: its virtual chip's launches are served and leave room for one more, and EN is 1. -/
structure ReadsRecords (s : State) (v q : Nat) : Prop where
  served : launchable s v = true
  isQueue : q < 16
  room : (vchip s v).launches.length < 64
  enabled : (queueAt s v q).en = true

section Reads

variable {s : State} {v q : Nat}

/-- The next record is that of the queue where no trap handler's launch waits for it. -/
theorem launchRecordRead_queue (h : ReadsRecords s v q) (hh : ∀ x ∈ (vchip s v).handlers, x.1 ≠ q)
    (ht : (queueAt s v q).head ≠ (queueAt s v q).tail) {read : Option (State × List Byte)}
    (hread : deviceRead s v (((queueAt s v q).base + (queueAt s v q).head * 128).toNat) 128 = read) :
    exec (.launchRecordRead v q) s = .next
      (read.elim (unreadRecord s v q) fun p =>
        takeRecord (modQueue p.1 v q fun y => { y with head := BitVec.ofNat 64 ((y.head.toNat + 1) % 2 ^ y.size.toNat) }) v q p.2) := by
  have hfind : ((vchip s v).handlers.find? fun x => x.1 == q) = none := List.find?_eq_none.mpr fun x hx => by simpa using hh x hx
  change execLaunchRecordRead v q s = _
  simp only [execLaunchRecordRead, h.served, h.enabled, hfind, Nat.not_le.mpr h.isQueue, Nat.not_le.mpr h.room, beq_false_of_ne ht, hread]
  cases read <;> rfl

/-- A trap handler's launch that waits for the queue goes first: its record is the template with the event record's address in it (R283). -/
theorem launchRecordRead_handler (h : ReadsRecords s v q) {a : DWord} {hs : List (Nat × DWord)} (hh : (vchip s v).handlers = (q, a) :: hs)
    {read : Option (State × List Byte)} (hread : deviceRead s v (field (vchip s v).trhrec 47 7 * 128) 128 = read) :
    exec (.launchRecordRead v q) s = .next
      (read.elim (unreadRecord s v q) fun p =>
        takeRecord (modVc p.1 v fun c => { c with handlers := c.handlers.erase (q, a) }) v q
          (p.2.take 16 ++ toLeBytes 8 a.toNat ++ p.2.drop 24)) := by
  have hfind : ((vchip s v).handlers.find? fun x => x.1 == q) = some (q, a) := by simp [hh]
  change execLaunchRecordRead v q s = _
  simp only [execLaunchRecordRead, h.served, h.enabled, hfind, Nat.not_le.mpr h.isQueue, Nat.not_le.mpr h.room, hread]
  cases read <;> rfl

end Reads

/-! ## `LAUNCH_ACCEPT` (R90, R91) -/

section Accepts

variable {s s1 : State} {v : Nat} {id : DWord} {l : Launch}

theorem launchAccept_alone (hl : launchable s v = true) (h : launchAt s v id = some l) (ha : l.accepted = false) (hs : l.spanDesc = none)
    (hd : depsMet s v l = true) : exec (.launchAccept v id) s = .next (acceptAll s [(v, l)]) := by
  change execLaunchAccept v id s = _
  simp [execLaunchAccept, h, acceptMembers, hs, ha, hl, hd]

theorem acceptAll_refused (h : depRefused s v l = true) : acceptAll s [(v, l)] = endLaunch s v l 0x08 true := by
  simp [acceptAll, refuseAll, h]

theorem acceptAll_accepted {a : Nat × DWord} (h : depRefused s v l = false) (ha : readArgs s v l = (s1, some a))
    (ht : tooFewTeams l a.1 = false) : acceptAll s [(v, l)] = acceptOne s1 v l a := by
  simp [acceptAll, h, readAllArgs, ha, ht]

theorem acceptOne_eq (s : State) (v : Nat) (l : Launch) (n : Nat) (b : DWord) :
    acceptOne s v l (n, b) = event (modVc s v fun c => { c with
      acceptCount := c.acceptCount + 1
      launches := c.launches.map fun x => if x.id = l.id then { x with accepted := true, order := c.acceptCount, n := n, base := b } else x })
      v 10 [(9, 1), (16, l.id.toNat)] := by
  rw [acceptOne, modLaunch, modVc_comp]
  congr 1
  exact modVc_congr (by simp)

end Accepts

/-! ## The end of a launch (R87, R92, R93) -/

/-- A queue with a sequence complete, or refused with a code. -/
def endSequence (seq status : Nat) (refused : Bool) (x : Queue) : Queue :=
  advanceDone (x.finished.length + 2) { x with
    finished := seq :: x.finished
    refused := if refused then seq :: x.refused else x.refused
    lastcode := if refused then BitVec.ofNat 8 status else x.lastcode }

/-- The watermark comes to a sequence that completes in its order. -/
theorem endSequence_inOrder {x : Queue} {seq : Nat} (h : InOrderDone x seq) (status : Nat) (refused : Bool) :
    endSequence seq status refused x = { x with
      done := BitVec.ofNat 64 seq
      refused := if refused then seq :: x.refused else x.refused
      lastcode := if refused then BitVec.ofNat 8 status else x.lastcode } := by
  obtain ⟨hf, rfl, -⟩ := h
  simp [endSequence, hf, advanceDone, BitVec.ofNat_add]

/-- Interrupts of a launch's end: that of its queue, where its record and the queue ask for it. -/
def endRaises (s : State) (v : Nat) (l : Launch) (status : Nat) (refused : Bool) : List Nat :=
  let q := idQueue l.id
  if recInterrupt l.record && (queueAt (modQueue s v q (endSequence (idSeq l.id) status refused)) v q).ie then [q] else []

/-- The virtual chip whose launch has ended, with the interrupts that are raised for it. -/
def endedChip (l : Launch) (status : Nat) (refused : Bool) (raised : List Nat) (c : VChip) : VChip := { c with
  queues := listMod (endSequence (idSeq l.id) status refused) (idQueue l.id) c.queues
  raised := c.raised ++ raised
  launches := c.launches.filter fun x => x.id != l.id }

/-- The cores of a virtual chip without the pins of a launch. -/
def unpinned (s : State) (v : Nat) (id : DWord) : List Core :=
  mapFrom (fun n c => if (vchip s v).piers.getLsbD (n / 2) then { c with pins := c.pins.filter fun p => p.1 != id } else c) 0 s.cores

/-- A launch is gone from its virtual chip, with its pins. -/
def launchGone (s : State) (v : Nat) (l : Launch) (status : Nat) (refused : Bool) : State :=
  { modVc s v (endedChip l status refused (endRaises s v l status refused)) with cores := unpinned s v l.id }

theorem settleLaunchLines_none {s : State} {v : Nat} {id : DWord} (h : ∀ e ∈ s.l2, e.2.lowered ≠ some (v, id)) :
    settleLaunchLines s v id = s := by
  have hnone : (s.l2.filter fun e => e.2.lowered == some (v, id) && e.2.counted.isSome) = [] :=
    List.filter_eq_nil_iff.mpr fun e he => by simp [h e he]
  rw [settleLaunchLines, hnone, List.foldl_nil]

theorem writeCompletion_none {l : Launch} (h : recDone l.record = 0) (s : State) (v status : Nat) : writeCompletion s v l status = s := by
  simp [writeCompletion, h]

theorem endReduced_stays {s : State} {v : Nat} (h : (vchip s v).reduced = false ∨ s.pkgStat ≠ 3) : endReduced s v = s := by
  have hstays : ((vchip s v).reduced && s.pkgStat == 3) = false := by
    obtain h | h := h
    · rw [h, Bool.false_and]
    · rw [beq_false_of_ne h, Bool.and_false]
  rw [endReduced, hstays, Bool.false_and, if_neg Bool.false_ne_true]

/-- A raise that a flag guards. -/
theorem raise_ite_eq (b : Bool) (s : State) (v q : Nat) :
    (if b then raise s v q else s) = modVc s v fun c => { c with raised := c.raised ++ if b then [q] else [] } := by
  cases b with
  | true => rfl
  | false => simp [modVc_id]

section Ends

variable {s : State} {v : Nat} {l : Launch}

/-- A field of a virtual chip that the end of a launch leaves as it is. -/
theorem chipField_launchGone {β : Type} (p : VChip → β) {status : Nat} {refused : Bool}
    (hp : ∀ raised c, p (endedChip l status refused raised c) = p c) : p (vchip (launchGone s v l status refused) v) = p (vchip s v) :=
  chipField_modVc (hp _) s v v

/-- Where the end of a launch writes nothing to memory itself, it only asks for an event of type 10 once the launch is gone. -/
theorem endLaunch_eq (hrec : recDone l.record = 0) (hlines : ∀ e ∈ s.l2, e.2.lowered ≠ some (v, l.id)) (status : Nat) (refused : Bool) :
    endLaunch s v l status refused = endReduced (event (launchGone s v l status refused) v 10
      [(9, if refused then 3 else 2), (10, status), (16, l.id.toNat)]) v := by
  let ended := modQueue s v (idQueue l.id) (endSequence (idSeq l.id) status refused)
  let chip := endedChip l status refused (endRaises s v l status refused)
  have hchip : modVc (if recInterrupt l.record && (queueAt ended v (idQueue l.id)).ie then raise ended v (idQueue l.id) else ended) v
      (fun c => { c with launches := c.launches.filter fun x => x.id != l.id }) = modVc s v chip := by
    rw [raise_ite_eq, modVc_comp]
    exact modVc_comp s v _ _
  have hpiers : (vchip (modVc s v chip) v).piers = (vchip s v).piers := chipField_modVc (fun _ => by rfl) s v v
  rw [launchGone, unpinned, ← hpiers, ← modVc_cores s v chip, ← hchip, endLaunch, settleLaunchLines_none hlines, writeCompletion_none hrec]
  rfl

theorem endLaunch_quiet (h : QuietEnd s v l) (status : Nat) (refused : Bool) :
    endLaunch s v l status refused = launchGone s v l status refused := by
  obtain ⟨hrec, hmask, hlines, hfull⟩ := h
  have hstream : (vchip (launchGone s v l status refused) v).stream = _ := chipField_launchGone VChip.stream fun _ _ => by rfl
  have hreduced : (vchip (launchGone s v l status refused) v).reduced = _ := chipField_launchGone VChip.reduced fun _ _ => by rfl
  rw [endLaunch_eq hrec hlines, event_masked (by rwa [hstream]), endReduced_stays (by rw [hreduced]; exact hfull)]

theorem launchEnds_launchGone (hc : s.vchips[v]? = some (vchip s v)) (status : Nat) (refused : Bool) :
    LaunchEnds s v l status refused (launchGone s v l status refused) := by
  have hchip : vchip (launchGone s v l status refused) v = endedChip l status refused (endRaises s v l status refused) (vchip s v) :=
    vchip_modVc_self hc _
  refine ⟨by rw [hchip]; rfl, ?others, ?queue, ?pins, rfl, rfl⟩
  case others =>
    intro q hq
    simp [queueAt, hchip, endedChip, listMod_getElem?_ne _ hq]
  case queue =>
    rintro x rfl hq hdone
    rw [← endSequence_inOrder hdone, queueAt, hchip, queueAt, List.getElem?_eq_getElem hq]
    simp only [endedChip, listMod_getElem?_self, List.getElem?_eq_getElem hq]
    rfl
  case pins =>
    intro n k hk
    simp [launchGone, unpinned, mapFrom_getElem?, hk]

end Ends

/-! ## `LAUNCH_COMPLETE` (R92) -/

theorem launchStores_iff {s : State} {v : Nat} {id : DWord} : launchStores s v id = true ↔
    ∃ n g, s.groups[n]? = some g ∧ (∃ u, s.teams[g.team]? = some u ∧ u.vc = v ∧ u.launch = id) ∧ storesOut s n g = true := by
  simp [launchStores, List.any_eq_true, mem_numbered]

theorem launchComplete_eq {s : State} {v : Nat} {id : DWord} {l : Launch} (h : launchAt s v id = some l) (ha : l.accepted = true)
    (ht : l.retiredTeams = recTeams l.record) : exec (.launchComplete v id) s =
      .next (if launchStores s v id then s else endLaunch s v l l.status.toNat false) := by
  change execLaunchComplete v id s = _
  cases hs : launchStores s v id <;> simp [execLaunchComplete, h, ha, ht, hs]

/-! ## The statement -/

/-- Settles O51: a record gets its sequence before it is checked, whichever way it comes to its queue, and a launch that ends quietly changes
nothing but its virtual chip and the pins. -/
theorem launchQueueResults : Obligations.LaunchQueueResults := by
  refine ⟨?enable, ?tail, ?disable, ?record, ?handler, ?accept, ?complete, ?refused⟩
  case enable =>
    intro s v q ie hu hq
    change execQueueEnable v q ie s = _
    simp [execQueueEnable, hu, Nat.not_le.mpr hq]
  case tail =>
    intro s v q x hu hq
    refine ⟨fun hx => ?_, fun hx => ?_⟩ <;> change execLqtailWrite v q x s = _
    · simp only [execLqtailWrite, hu, Nat.not_le.mpr hq, Nat.not_le.mpr hx]; rfl
    · simp [execLqtailWrite, hx]
  case disable =>
    intro s v q ie hu hq hs
    change execQueueDisable v q ie s = _
    rw [← stopQueue_modQueue hs q fun x => { x with ie := ie }]
    simp [execQueueDisable, hu, Nat.not_le.mpr hq]
  case record =>
    intro s v q hl hq hroom hh x hen ht read
    have hread {p} := launchRecordRead_queue (read := p) ⟨hl, hq, hroom, hen⟩ hh ht
    refine ⟨fun hnone hs => (hread hnone).trans (congrArg _ (unreadRecord_eq hs q)), ?_⟩
    intro s1 r hsome seq id s2 _ hx
    let s1' := modQueue s1 v q fun y => { y with head := BitVec.ofNat 64 ((y.head.toNat + 1) % 2 ^ y.size.toNat) }
    have hseq : (queueAt s1' v q).seq.toNat + 1 = seq := by
      rw [queueField_modQueue (p := fun y => y.seq.toNat + 1) (fun _ => by rfl), hx]
    have hs2 : sequenced s1' v q seq = s2 := by
      rw [sequenced, modQueue_comp]
      rfl
    refine ⟨fun s3 k hd hspan hk hc => (hread hsome).trans (congrArg _ ?_), fun hd => (hread hsome).trans (congrArg _ ?_)⟩
    · exact takeRecord_reads hseq hd (by simp [recSpan, recFlags, hspan]) (by rw [hs2, hk]) hc
    · rw [← hs2]
      exact takeRecord_dirty hseq hd
  case handler =>
    intro s v q h hs hl hq hroom hen hspan hh read
    have hread {p} := launchRecordRead_handler (read := p) ⟨hl, hq, hroom, hen⟩ hh
    refine ⟨fun hnone => (hread hnone).trans (congrArg _ (unreadRecord_eq hspan q)), ?_⟩
    intro s1 r hsome hx hh1 seq id record _ hd
    have herase : modVc s1 v (fun c => { c with handlers := c.handlers.erase (q, h) }) = modVc s1 v fun c => { c with handlers := hs } :=
      modVc_congr (by simp [hh1])
    have hseq : (queueAt (modVc s1 v fun c => { c with handlers := hs }) v q).seq.toNat + 1 = seq := by
      rw [queueAt, chipField_modVc (p := VChip.queues) (fun _ => by rfl), ← queueAt, hx]
    refine (hread hsome).trans (congrArg _ ?_)
    rw [Option.elim_some, herase]
    exact takeRecord_dirty hseq hd
  case accept =>
    intro s v id l hl h ha hs hd
    rw [launchAccept_alone hl h ha hs hd]
    refine ⟨fun hr => by rw [acceptAll_refused hr], fun s1 n b hr hargs ht => ?_⟩
    rw [acceptAll_accepted hr hargs ht, acceptOne_eq]
  case complete =>
    intro s v id l h ha ht storing
    rw [launchComplete_eq h ha ht]
    refine ⟨fun hstores => by rw [launchStores_iff.mpr hstores]; rfl, fun hnone hquiet => ?_⟩
    have hstores : launchStores s v id = false :=
      Bool.eq_false_iff.mpr fun htrue => (launchStores_iff.mp htrue).elim fun n ⟨g, hg, hst⟩ => hnone n g hg hst
    refine ⟨launchGone s v l l.status.toNat false, ?_, launchEnds_launchGone (getElem?_of_launchAt h) _ false, rfl⟩
    rw [hstores, if_neg Bool.false_ne_true, endLaunch_quiet hquiet]
  case refused =>
    rintro s v l code ⟨c, hc⟩ hquiet
    rw [endLaunch_quiet hquiet]
    exact launchEnds_launchGone (by rw [hc, vchip_eq hc]) code true

end Sys2Proof.Laws
end

section
/-!
Reductions and scans over the lanes of a group: the tree of R127, the blocks of R128, and the integer results of R440.
-/

namespace Sys2Proof.Laws

open Sys2Proof.Machine Sys2Proof.Claims

/-! ## The tree over a list of leaves -/

section Tree

variable {f : Word → Word → Word × BitVec 5}

/-- Node j of a list: an absent leaf past its end (R127). -/
def nodeAt (l : List Node) (j : Nat) : Node := (l[j]?).getD (none, 0)

theorem joinNodes_absent (x : Node) : joinNodes f x (none, 0) = x := by
  obtain ⟨v, fl⟩ := x
  cases v <;> simp [joinNodes]

theorem nodeAt_pairNodes (l : List Node) (j : Nat) : nodeAt (pairNodes f l) j = joinNodes f (nodeAt l (2 * j)) (nodeAt l (2 * j + 1)) := by
  induction l using pairNodes.induct generalizing j with
  | case1 a b t ih =>
    cases j with
    | zero => simp [pairNodes, nodeAt]
    | succ j => simpa [pairNodes, nodeAt, Nat.mul_succ] using ih j
  | case2 l hl =>
    match l, hl with
    | [], _ => simp [pairNodes, nodeAt, joinNodes]
    | [a], _ =>
      cases j with
      | zero => exact (joinNodes_absent a).symm
      | succ j => simp [pairNodes, nodeAt, joinNodes, Nat.mul_succ]
    | a :: b :: t, hl => exact absurd rfl (hl a b t)

/-- The root over nodes that are themselves the trees of level k: k levels more (R127). -/
theorem treeRoot_eq_tree (leaf : Nat → Option Word) (n : Nat) {k p : Nat} {l : List Node}
    (h : ∀ j, j < 2 ^ n → nodeAt l j = tree f leaf k (p + j * 2 ^ k)) : treeRoot f n l = tree f leaf (n + k) p := by
  induction n generalizing k l with
  | zero =>
    rw [Nat.zero_add, treeRoot, List.head?_eq_getElem?]
    simpa [nodeAt] using h 0 (by simp)
  | succ n ih =>
    rw [treeRoot, ih (k := k + 1), Nat.add_right_comm]
    · rfl
    intro j hj
    rw [nodeAt_pairNodes, h _ (by omega), h _ (by omega), tree]
    congr 2 <;> ring

/-- The tree over the leaves of a list from a place on. -/
theorem treeRoot_take_drop {leaf : Nat → Option Word} {leaves : List Node} (h : ∀ j, nodeAt leaves j = (leaf j, 0)) (k pos : Nat) :
    treeRoot f k ((leaves.drop pos).take (2 ^ k)) = tree f leaf k pos := by
  refine treeRoot_eq_tree leaf k (k := 0) fun j hj => ?_
  have hleaf := h (pos + j)
  simpa [nodeAt, List.getElem?_take, hj, tree] using hleaf

/-- The blocks that `SCAN` combines are those of the set bits of n (R128). -/
theorem scanBlocks_eq_foldl {leaf : Nat → Option Word} {leaves : List Node} (h : ∀ j, nodeAt leaves j = (leaf j, 0)) (n k : Nat) (acc : Node) :
    scanBlocks f leaves n k (n / 2 ^ (k + 1) * 2 ^ (k + 1)) acc = ((List.range (k + 1)).reverse.filter fun m => n.testBit m).foldl
      (fun a m => joinNodes f a (tree f leaf m (n / 2 ^ (m + 1) * 2 ^ (m + 1)))) acc := by
  induction k generalizing acc with
  | zero =>
    have hroot := treeRoot_take_drop (f := f) h 0 (n / 2 * 2)
    by_cases hn : n % 2 = 1 <;> simp [scanBlocks, Nat.testBit_zero, hn]
    rw [← hroot, pow_zero]
  | succ k ih =>
    have hpos : n / 2 ^ (k + 1) * 2 ^ (k + 1) = n / 2 ^ (k + 1 + 1) * 2 ^ (k + 1 + 1) + n / 2 ^ (k + 1) % 2 * 2 ^ (k + 1) := by
      have hsplit := Nat.div_add_mod (n / 2 ^ (k + 1)) 2
      rw [Nat.div_div_eq_div_mul, ← pow_succ] at hsplit
      conv_lhs => rw [← hsplit]
      ring
    rw [scanBlocks, List.range_succ, List.reverse_append, List.reverse_singleton, List.singleton_append, List.filter_cons,
      Nat.testBit_eq_decide_div_mod_eq, treeRoot_take_drop h]
    by_cases hbit : n / 2 ^ (k + 1) % 2 = 1
    · rw [hbit, one_mul] at hpos
      simp only [hbit, if_true, decide_true, List.foldl_cons, ← hpos, ih]
    · rw [(Nat.mod_two_eq_zero_or_one _).resolve_right hbit, zero_mul, add_zero] at hpos
      simp only [hbit, if_false, decide_false, Bool.false_eq_true, ← hpos, ih]

/-- `SCAN` over the first n leaves of a group (R128). -/
theorem scanBlocks_eq_firstLeaves {leaf : Nat → Option Word} {leaves : List Node} (h : ∀ j, nodeAt leaves j = (leaf j, 0)) {n : Nat}
    (hn : n ≤ 64) : scanBlocks f leaves n 6 0 (none, 0) = firstLeaves f leaf n := by
  have hblocks := scanBlocks_eq_foldl (f := f) h n 6 (none, 0)
  rwa [Nat.div_eq_of_lt (by omega), zero_mul] at hblocks

end Tree

/-! ## The instructions -/

section Combine

variable {i : Instr} {c : Ctx} {s : State}

/-- A lane of the executing mask exists. -/
theorem lt_of_has_executing {k : Nat} (h : has (executing c) k = true) : k < (metCtx c).g.lanes.length := by
  have hk := has_laneMask (metCtx c).g (fun _ l => l.st == .held && l.wake.isNone && l.pc == c.b.pc) k (lt_of_has h)
  by_contra hlen
  rw [List.getElem?_eq_none (Nat.le_of_not_lt hlen)] at hk
  exact absurd (hk.symm.trans h) (by simp)

/-- The leaves of a register, in the context of a convergent instruction. -/
theorem nodeAt_leavesOf (c : Ctx) (a : BitVec 6) (j : Nat) : nodeAt (leavesOf (metCtx c) a) j = (leaf (metCtx c) a j, 0) := by
  simp only [nodeAt, leavesOf, mapFrom_getElem?, leaf, laneAt, Nat.zero_add]
  by_cases hj : j < (metCtx c).g.lanes.length
  · simp [List.getElem?_eq_getElem hj]
  · have hout : has (metCtx c).b.mask j = false := Bool.eq_false_iff.mpr fun h => hj (lt_of_has_executing h)
    simp [List.getElem?_eq_none (Nat.le_of_not_lt hj), hout]

/-- The exceptions that the lanes of a combination gather. -/
theorem orFlags_lanesOfMask (c : Ctx) (node : Nat → Node) (j : Nat) :
    (orFlags ((convCombine.lanesOfMask c).map fun k => (node k).2)).getLsbD j = true ↔ ∃ k, runs c k ∧ (node k).2.getLsbD j = true := by
  simp [orFlags_getLsbD, convCombine.lanesOfMask, runs, and_assoc]

/-- The arithmetic fault of a combination, at all executing lanes. -/
theorem arithFault_met (h : Meets i c s) (exc : List (BitVec 5)) :
    TakesFault (metCtx c) 0x10 (executing c) 0 false exc (metState c s) (arithFault (metState c s) (metCtx c) (executing c) exc) := by
  have hg := h.group
  have key : arithFault (metState c s) (metCtx c) (executing c) exc = modTeam (modGroup (metState c s) (metCtx c).b.group fun g => { g with
      fault := some { cause := cArithmetic, lanes := executing c, addr := 0, pc := c.b.pc, underflow := false, exc := exc }
      stall := .trapHalt }) (metCtx c).g.team (haltedBy c.b.group) := by
    rw [arithFault, takeTrap, hg]
    rfl
  rw [key]
  refine ⟨rfl, by simp [modTeam, modGroup], fun m hm => ?_, ?_, by simp [modTeam, modGroup], fun m hm => ?_, ?_⟩
  · simp only [modTeam, modGroup, listMod_getElem?_ne _ hm]
  · simp only [modTeam, modGroup, listMod_getElem?_self, hg, Option.map_some]
    rfl
  · simp only [modTeam, modGroup, listMod_getElem?_ne _ hm]
  · simp only [modTeam, modGroup, listMod_getElem?_self]
    rw [show (metState c s).teams[(metCtx c).g.team]? = some c.t from h.team, Option.map_some,
      haltedBy_issuing (ctx?_cases h.now).2.2.2.2]
    rfl

/-- The lanes and flags of a combination without an enabled exception. -/
theorem combined_did (h : Meets i c s) (d : BitVec 6) (w : Nat → Word) (v : Group → BitVec 5) :
    let t := issued i (metCtx c) (onGroup (metState c s) (metCtx c) fun g =>
      { onLanes (executing c) (fun k l => writeV l d (w k)) g with fpflags := v g })
    Elsewhere c.b.group s t ∧ ∃ g', t.groups[c.b.group]? = some g' ∧ GroupKept { (metCtx c).g with fpflags := v (metCtx c).g } g' ∧
      LanesDid i (metCtx c) (executing c) (fun k l l' => LaneWrote d (w k) ((metCtx c).b.pc + BitVec.ofNat 64 (instrBytes i)) l l') g' := by
  obtain ⟨helse, hgroup⟩ := issued_onGroup (i := i) h.group fun g =>
    { onLanes (executing c) (fun k l => writeV l d (w k)) g with fpflags := v g }
  refine ⟨(Elsewhere.metState c s).trans helse, _, hgroup, rfl, by simp, fun k hk => ?_⟩
  rw [advance_lanes _ _ _ _ _ (by simpa using hk)]
  have hlane : laneAt { onLanes (executing c) (fun k l => writeV l d (w k)) (metCtx c).g with fpflags := v (metCtx c).g } k =
      if has (executing c) k then writeV (laneAt (metCtx c).g k) d (w k) else laneAt (metCtx c).g k := laneAt_onLanes _ _ _ _ hk
  rw [hlane]
  by_cases hm : has (executing c) k = true
  · rw [if_pos hm, if_pos hm, if_pos (show has (metCtx c).b.mask k = true from hm)]
    exact laneWrote _ _ _ _
  · rw [if_neg hm, if_neg hm]

/-- What an instruction does that combines the lanes' values as `convCombine` has it (R440, R447). -/
theorem combines_of_convCombine {t : BitVec 2} {d : BitVec 6} {f node : Ctx → Nat → Node} {empty : Word}
    (hexec : ∀ s, exec i s = convCombine i t d f empty s) (hnode : ∀ c k, runs (metCtx c) k → f (metCtx c) k = node (metCtx c) k) :
    Combines i (t = 2#2) d node empty := by
  intro c s h x
  let gathered := orFlags ((convCombine.lanesOfMask x).map fun k => (f x k).2)
  have hgathered (j : Nat) : gathered.getLsbD j = true ↔ ∃ k, runs x k ∧ (node x k).2.getLsbD j = true := by
    rw [orFlags_lanesOfMask]
    exact exists_congr fun k => and_congr_right fun hk => by rw [hnode c k hk]
  have henabled : (t == 2#2 && (gathered &&& fpEnables x.g) != 0) = true ↔
      t = 2#2 ∧ ∃ k j, runs x k ∧ j ≤ 4 ∧ (node x k).2.getLsbD j = true ∧ x.g.fpctl.getLsbD (8 + j) = true := by
    rw [Bool.and_eq_true, beq_iff_eq, bne_iff_ne, and_ne_zero_iff]
    refine and_congr_right fun _ => ⟨fun ⟨j, hj, hx, he⟩ => ?_, fun ⟨k, j, hk, hj, hx, he⟩ => ?_⟩
    · obtain ⟨k, hk, hx⟩ := (hgathered j).mp hx
      exact ⟨k, j, hk, hj, hx, fpEnables_getLsbD _ _ hj ▸ he⟩
    · exact ⟨j, hj, (hgathered j).mpr ⟨k, hk, hx⟩, (fpEnables_getLsbD _ _ hj).symm ▸ he⟩
  rw [hexec, convCombine, h.issue]
  refine ⟨fun hno => ?_, fun htrap => ?_⟩
  · refine ⟨_, if t == 2#2 then x.g.fpflags ||| gathered else x.g.fpflags, congrArg Host.Outcome.next (if_neg (henabled.not.mpr hno)), ?_⟩
    obtain ⟨helse, g', hg', hkept, hlen, hlanes⟩ := combined_did h d (fun k => (f x k).1.getD empty)
      fun g => if t == 2#2 then g.fpflags ||| gathered else g.fpflags
    refine ⟨helse, fun j => ?_, g', hg', hkept, hlen, fun k hk => ?_⟩
    · by_cases ht : t = 2#2 <;> simp [ht, hgathered]
    · have hlane := hlanes k hk
      by_cases hm : has (executing c) k = true
      · rw [if_pos hm] at hlane ⊢
        have heq : f x k = node x k := hnode c k ⟨hk, hm⟩
        rwa [heq] at hlane
      · rw [if_neg hm] at hlane ⊢
        exact hlane
  · refine ⟨_, _, congrArg Host.Outcome.next (if_pos (henabled.mpr htrap)), arithFault_met h _, mapFrom_length _ _ _, fun k hk =>
      ⟨if has x.b.mask k then gathered else 0, ?_, fun hr => ?_, fun hr => ?_⟩⟩
    · rw [mapFrom_getElem?, Nat.zero_add, List.getElem?_eq_getElem hk]
      rfl
    · exact if_neg fun hm => hr ⟨hk, hm⟩
    · rw [if_pos hr.2]
      exact hgathered

/-- How `SCAN` combines: over the leaves to the lane itself, or over those below it (R447). -/
theorem scan_convCombine (o : BitVec 2) (e : BitVec 1) (t : BitVec 2) (a d : BitVec 6) (s : State) :
    exec (.scan o e t a d) s = convCombine (.scan o e t a d) t d
      (fun c k => scanBlocks (combine o t (envOf c.g)) (leavesOf c a) (if e = 1#1 then k else k + 1) 6 0 (none, 0)) (emptyScan o t) s := rfl

/-- How `REDUX` combines: over all leaves (R440). -/
theorem redux_convCombine (o t : BitVec 2) (a d : BitVec 6) (s : State) : exec (.redux o t a d) s =
    convCombine (.redux o t a d) t d (fun c _ => treeRoot (combine o t (envOf c.g)) 6 (leavesOf c a)) 0 s := rfl

theorem reduxCombines (o t : BitVec 2) (a d : BitVec 6) :
    Combines (.redux o t a d) (t = 2#2) d (fun c _ => tree (combine o t (envOf c.g)) (leaf c a) 6 0) 0 := by
  refine combines_of_convCombine (redux_convCombine o t a d) fun c k _ => ?_
  refine treeRoot_eq_tree (leaf (metCtx c) a) 6 (k := 0) (p := 0) fun j _ => ?_
  rw [nodeAt_leavesOf, pow_zero, Nat.mul_one, Nat.zero_add, tree]

theorem scanCombines (o : BitVec 2) (e : BitVec 1) (t : BitVec 2) (a d : BitVec 6) : Combines (.scan o e t a d) (t = 2#2) d
    (fun c k => firstLeaves (combine o t (envOf c.g)) (leaf c a) (if e = 1#1 then k else k + 1)) (emptyScan o t) := by
  refine combines_of_convCombine (scan_convCombine o e t a d) fun c k hk => ?_
  have hlt := lt_of_has hk.2
  exact scanBlocks_eq_firstLeaves (nodeAt_leavesOf c a) (by split <;> omega)

/-- `REDUX` and `SCAN` combine over the tree and its blocks. -/
theorem reductionsFollowTheTree : ReductionsFollowTheTree :=
  ⟨reduxCombines, fun o => scanCombines o 0, fun o => scanCombines o 1, by decide⟩

end Combine

/-! ## The integer results -/

section Integer

variable {f : Word → Word → Word × BitVec 5} {leaf : Nat → Option Word}

/-- A node has a value exactly where some leaf below it is present (R127). -/
theorem tree_isSome_iff (l p : Nat) : (tree f leaf l p).1.isSome = true ↔ ∃ j, p ≤ j ∧ j < p + 2 ^ l ∧ (leaf j).isSome = true := by
  induction l generalizing p with
  | zero =>
    refine ⟨fun h => ⟨p, le_refl p, by simp, h⟩, fun ⟨j, hlo, hhi, h⟩ => ?_⟩
    rw [pow_zero] at hhi
    rwa [tree, show p = j by omega]
  | succ l ih =>
    have hjoin (x y : Node) : (joinNodes f x y).1.isSome = true ↔ x.1.isSome = true ∨ y.1.isSome = true := by
      obtain ⟨_ | _, _⟩ := x <;> obtain ⟨_ | _, _⟩ := y <;> simp [joinNodes]
    rw [tree, hjoin, ih, ih, pow_succ]
    constructor
    · rintro (⟨j, hlo, hhi, h⟩ | ⟨j, hlo, hhi, h⟩) <;> exact ⟨j, by omega, by omega, h⟩
    · rintro ⟨j, hlo, hhi, h⟩
      rcases Nat.lt_or_ge j (p + 2 ^ l) with hj | hj
      · exact .inl ⟨j, hlo, hj, h⟩
      · exact .inr ⟨j, hj, by omega, h⟩

/-- A tree of sums, absent leaves counting as 0. -/
theorem tree_getD_sum (hf : ∀ x y, (f x y).1 = x + y) (l p : Nat) : (tree f leaf l p).1.getD 0 =
    BitVec.ofNat 32 ((List.range (2 ^ l)).map fun j => ((leaf (p + j)).getD 0).toNat).sum := by
  induction l generalizing p with
  | zero => simp [tree]
  | succ l ih =>
    have hjoin (x y : Node) : (joinNodes f x y).1.getD 0 = x.1.getD 0 + y.1.getD 0 := by
      obtain ⟨_ | _, _⟩ := x <;> obtain ⟨_ | _, _⟩ := y <;> simp [joinNodes, hf]
    rw [tree, hjoin, ih, ih, pow_succ, Nat.mul_two, List.range_add, List.map_append, List.sum_append, BitVec.ofNat_add, List.map_map]
    simp only [Function.comp_def, Nat.add_assoc]

/-- A value picked from the leaves between two places: it is one of them and stands in order R to each; none where all are absent. -/
def Picked (R : Word → Word → Prop) (leaf : Nat → Option Word) (lo hi : Nat) : Option Word → Prop
  | none => ∀ j, lo ≤ j → j < hi → leaf j = none
  | some x => (∃ j, lo ≤ j ∧ j < hi ∧ leaf j = some x) ∧ ∀ j y, lo ≤ j → j < hi → leaf j = some y → R x y

variable {R : Word → Word → Prop}

/-- Of two values picked from neighbouring leaves, one that stands in order to both is picked from all of them. -/
theorem Picked.of_both {lo mid hi : Nat} {x y z : Word} (htrans : ∀ x y z, R x y → R y z → R x z)
    (hx : Picked R leaf lo mid (some x)) (hy : Picked R leaf mid hi (some y)) (hz : z = x ∨ z = y) (hzx : R z x) (hzy : R z y) :
    Picked R leaf lo hi (some z) := by
  obtain ⟨⟨j, hj, hj', hjx⟩, hxall⟩ := hx
  obtain ⟨⟨k, hk, hk', hky⟩, hyall⟩ := hy
  refine ⟨?_, fun i v hi hi' hv => ?_⟩
  · rcases hz with rfl | rfl
    · exact ⟨j, hj, by omega, hjx⟩
    · exact ⟨k, by omega, hk', hky⟩
  · rcases Nat.lt_or_ge i mid with hmid | hmid
    · exact htrans z x v hzx (hxall i v hi hmid hv)
    · exact htrans z y v hzy (hyall i v hmid hi' hv)

/-- A picked value is picked from more leaves where those are absent. -/
theorem Picked.extend {lo hi lo' hi' : Nat} {v : Option Word} (hlo : lo' ≤ lo) (hhi : hi ≤ hi') (h : Picked R leaf lo hi v)
    (habsent : ∀ j, lo' ≤ j → j < hi' → ¬(lo ≤ j ∧ j < hi) → leaf j = none) : Picked R leaf lo' hi' v := by
  cases v with
  | none => exact fun j hj hj' => by_cases (fun hin : lo ≤ j ∧ j < hi => h j hin.1 hin.2) (habsent j hj hj')
  | some x =>
    obtain ⟨⟨j, hj, hj', hleaf⟩, hall⟩ := h
    refine ⟨⟨j, by omega, by omega, hleaf⟩, fun k z hk hk' hz => ?_⟩
    by_cases hin : lo ≤ k ∧ k < hi
    · exact hall k z hin.1 hin.2 hz
    · rw [habsent k hk hk' hin] at hz
      cases hz

/-- A join of nodes picked from neighbouring leaves is picked from all of them. -/
theorem Picked.join {lo mid hi : Nat} {x y : Node} (hf : ∀ x y, ((f x y).1 = x ∨ (f x y).1 = y) ∧ R (f x y).1 x ∧ R (f x y).1 y)
    (htrans : ∀ x y z, R x y → R y z → R x z) (hlo : lo ≤ mid) (hhi : mid ≤ hi) (hx : Picked R leaf lo mid x.1)
    (hy : Picked R leaf mid hi y.1) : Picked R leaf lo hi (joinNodes f x y).1 := by
  match x, y with
  | (none, _), (_, _) => exact hy.extend hlo le_rfl fun j hj hj' hout => hx j hj (by omega)
  | (some _, _), (none, _) => exact hx.extend le_rfl hhi fun j hj hj' hout => hy j (by omega) hj'
  | (some a, _), (some b, _) =>
    obtain ⟨hpick, ha, hb⟩ := hf a b
    exact hx.of_both htrans hy hpick ha hb

/-- The tree of an operation that gives one of its operands, in order to both, picks one of its leaves, in order to all. -/
theorem tree_picked (hf : ∀ x y, ((f x y).1 = x ∨ (f x y).1 = y) ∧ R (f x y).1 x ∧ R (f x y).1 y) (hrefl : ∀ x, R x x)
    (htrans : ∀ x y z, R x y → R y z → R x z) (l p : Nat) : Picked R leaf p (p + 2 ^ l) (tree f leaf l p).1 := by
  induction l generalizing p with
  | zero =>
    have hj {j : Nat} (hlo : p ≤ j) (hhi : j < p + 2 ^ 0) : j = p := by rw [pow_zero] at hhi; omega
    rw [tree]
    cases hleaf : leaf p with
    | none => exact fun j hlo hhi => hj hlo hhi ▸ hleaf
    | some x =>
      refine ⟨⟨p, le_refl p, by simp, hleaf⟩, fun j y hlo hhi hy => ?_⟩
      rw [hj hlo hhi, hleaf] at hy
      exact Option.some.inj hy ▸ hrefl x
  | succ l ih =>
    rw [tree, pow_succ, Nat.mul_two, ← Nat.add_assoc]
    exact (ih p).join hf htrans (Nat.le_add_right _ _) (Nat.le_add_right _ _) (ih (p + 2 ^ l))

/-- The order of an integer minimum or maximum, as its sign selects it (R440). -/
theorem less_iff_below {t : BitVec 2} (ht : t = 0#2 ∨ t = 1#2) (x y : Word) :
    (if t = 0#2 then x.slt y else x.ult y) = true ↔ below (t == 1#2) x y := by
  rcases ht with rfl | rfl
  · simp [below, BitVec.slt_iff_toInt_lt]
  · simp [below, BitVec.ult_iff_toNat_lt]

theorem not_below_trans {u : Bool} {x y z : Word} (h : ¬below u y x) (h' : ¬below u z y) : ¬below u z x := by
  cases u <;> simp only [below, Bool.false_eq_true, if_true, if_false] at * <;> omega

theorem not_below_self {u : Bool} (x : Word) : ¬below u x x := by
  cases u <;> simp [below]

theorem below_asymm {u : Bool} {x y : Word} (h : below u x y) : ¬below u y x := by
  cases u <;> simp only [below, Bool.false_eq_true, if_true, if_false] at * <;> omega

theorem combine_least {t : BitVec 2} (ht : t = 0#2 ∨ t = 1#2) (e : FpEnv) (x y : Word) : Least (t == 1#2) x y (combine 1 t e x y).1 := by
  have hnot : t ≠ 2#2 := by rcases ht with rfl | rfl <;> decide
  by_cases hless : below (t == 1#2) x y <;>
    simp [Least, combine, hnot, less_iff_below ht, hless, below_asymm, not_below_self]

theorem combine_greatest {t : BitVec 2} (ht : t = 0#2 ∨ t = 1#2) (e : FpEnv) (x y : Word) :
    Greatest (t == 1#2) x y (combine 2 t e x y).1 := by
  have hnot : t ≠ 2#2 := by rcases ht with rfl | rfl <;> decide
  by_cases hless : below (t == 1#2) x y <;>
    simp [Greatest, combine, hnot, less_iff_below ht, hless, below_asymm, not_below_self]

/-- What is picked from the leaves of a register is the value of an executing lane, in order to every one of theirs. -/
theorem exists_lane_of_picked {c : Ctx} {a : BitVec 6} {v : Option Word} (h : Picked R (Claims.leaf c a) 0 64 v)
    (hsome : ∃ k, k < 64 ∧ has c.b.mask k = true) : ∃ x k, v = some x ∧ k < 64 ∧ has c.b.mask k = true ∧ x = readV (laneAt c.g k) a ∧
      ∀ j, j < 64 → has c.b.mask j = true → R x (readV (laneAt c.g j) a) := by
  have hleaf {j : Nat} (hj : has c.b.mask j = true) : Claims.leaf c a j = some (readV (laneAt c.g j) a) := if_pos hj
  cases v with
  | none =>
    obtain ⟨k, hk, hm⟩ := hsome
    cases (hleaf hm).symm.trans (h k k.zero_le hk)
  | some x =>
    obtain ⟨⟨k, -, hk, hx⟩, hall⟩ := h
    have hm : has c.b.mask k = true := by
      by_contra hm
      cases (if_neg hm).symm.trans hx
    exact ⟨x, k, rfl, hk, hm, Option.some.inj (hx.symm.trans (hleaf hm)), fun j hj hm => hall j _ j.zero_le hj (hleaf hm)⟩

theorem integerReductionResults : IntegerReductionResults := by
  intro t a ht c hsome e
  refine ⟨?sum, ?least, ?greatest⟩
  case sum =>
    have hnot : t ≠ 2#2 := by rcases ht with rfl | rfl <;> decide
    have hpresent : (tree (combine 0 t e) (Claims.leaf c a) 6 0).1.isSome = true := by
      obtain ⟨k, hk, hm⟩ := hsome
      exact (tree_isSome_iff 6 0).mpr ⟨k, k.zero_le, hk, by simp [Claims.leaf, hm]⟩
    obtain ⟨x, hx⟩ := Option.isSome_iff_exists.mp hpresent
    have hsum := tree_getD_sum (f := combine 0 t e) (leaf := Claims.leaf c a) (fun x y => by simp [combine, hnot]) 6 0
    rw [hx, Option.getD_some] at hsum
    rw [hx, hsum]
    refine congrArg (fun l => some (BitVec.ofNat 32 (List.sum l))) (List.map_congr_left fun j _ => ?_)
    rw [Nat.zero_add, Claims.leaf]
    split <;> rfl
  case least =>
    exact exists_lane_of_picked
      (tree_picked (f := combine 1 t e) (R := fun z x => ¬below (t == 1#2) x z) (combine_least ht e) not_below_self
        (fun _ _ _ => not_below_trans) 6 0)
      hsome
  case greatest =>
    exact exists_lane_of_picked
      (tree_picked (f := combine 2 t e) (R := fun z x => ¬below (t == 1#2) z x) (combine_greatest ht e) not_below_self
        (fun _ _ _ h h' => not_below_trans h' h) 6 0)
      hsome

end Integer

/-- Settles O27: the list of lanes that the machine pairs up level by level is the tree of R127 from its leaves up, and the integer
operations give one value however the leaves stand. -/
theorem reductionResults : Obligations.ReductionResults := ⟨reductionsFollowTheTree, integerReductionResults⟩

end Sys2Proof.Laws
end

section
/-!
Rounding in terms of reals: what `roundAt` and `roundPack` give for a value that they are told rounded down and whether it is more
(R111, R114, R118, R369).
-/

namespace Sys2Proof.Laws

open Sys2Proof.Machine Sys2Proof.Claims

/-! ## Powers of two and lengths -/

theorem two_zpow_pos (e : Int) : (0 : ℝ) < 2 ^ e := zpow_pos two_pos e

theorem bitLen_le_iff {n k : Nat} : bitLen n ≤ k ↔ n < 2 ^ k := by
  unfold bitLen
  split
  · simp_all
  · rename_i h
    exact Nat.log2_lt h

theorem lt_bitLen_iff {n k : Nat} : k < bitLen n ↔ 2 ^ k ≤ n := by
  rw [← not_le, bitLen_le_iff, not_lt]

theorem bitLen_pos {n : Nat} (h : n ≠ 0) : 0 < bitLen n := lt_bitLen_iff.mpr (by rw [pow_zero]; omega)

/-- The length of a magnitude says below which power of two it is. -/
theorem bitLen_add_le_iff {n : Nat} {q b : Int} (h : n ≠ 0 ∨ q ≤ b) : bitLen n + q ≤ b ↔ (n : ℝ) * 2 ^ q < 2 ^ b := by
  rcases le_or_gt q b with hq | hq
  · obtain ⟨k, rfl⟩ := Int.le.dest hq
    rw [add_comm q, zpow_add₀ two_ne_zero, mul_lt_mul_iff_left₀ (two_zpow_pos q), zpow_natCast, add_le_add_iff_right, Nat.cast_le, bitLen_le_iff]
    exact_mod_cast Iff.rfl
  · have hn : n ≠ 0 := h.resolve_right (not_le.mpr hq)
    have hpos := bitLen_pos hn
    refine ⟨fun hle => by omega, fun hlt => absurd hlt (not_lt.mpr ?_)⟩
    calc (2 : ℝ) ^ b ≤ 2 ^ q := zpow_le_zpow_right₀ one_le_two hq.le
      _ ≤ n * 2 ^ q := le_mul_of_one_le_left (two_zpow_pos q).le (by exact_mod_cast Nat.one_le_iff_ne_zero.mpr hn)

/-- A value lies between one power of two and the next in one way only. -/
theorem binade_unique {x : ℝ} {a b : Int} (ha : 2 ^ a ≤ x) (ha' : x < 2 ^ (a + 1)) (hb : 2 ^ b ≤ x) (hb' : x < 2 ^ (b + 1)) : a = b := by
  have hab := (zpow_lt_zpow_iff_right₀ (one_lt_two (α := ℝ))).mp (ha.trans_lt hb')
  have hba := (zpow_lt_zpow_iff_right₀ (one_lt_two (α := ℝ))).mp (hb.trans_lt ha')
  omega

/-! ## The modes -/

/-- A mode rounds a magnitude of a sign toward zero, or away from it (R111). -/
def TowardZero (rm : Rm) (neg : Bool) : Prop := rm = .zero ∨ (rm = .up ∧ neg = true) ∨ (rm = .down ∧ neg = false)

def Away (rm : Rm) (neg : Bool) : Prop := (rm = .up ∧ neg = false) ∨ (rm = .down ∧ neg = true)

theorem mode_cases (rm : Rm) (neg : Bool) : rm = .nearest ∨ TowardZero rm neg ∨ Away rm neg := by
  cases rm <;> cases neg <;> simp [TowardZero, Away]

variable {rm : Rm} {neg : Bool} {x : ℝ} {q : Int} {n n' k : Nat}

theorem roundedTo_nearest : RoundedTo .nearest neg x q n ↔ |n * 2 ^ q - x| ≤ 2 ^ q / 2 ∧ (|n * 2 ^ q - x| = 2 ^ q / 2 → n % 2 = 0) := by
  simp [RoundedTo]

theorem roundedTo_towardZero (h : TowardZero rm neg) : RoundedTo rm neg x q n ↔ n * 2 ^ q ≤ x ∧ x < (n + 1) * 2 ^ q := by
  rcases h with rfl | ⟨rfl, rfl⟩ | ⟨rfl, rfl⟩ <;> simp [RoundedTo]

theorem roundedTo_away (h : Away rm neg) : RoundedTo rm neg x q n ↔ x ≤ n * 2 ^ q ∧ n * 2 ^ q < x + 2 ^ q := by
  rcases h with ⟨rfl, rfl⟩ | ⟨rfl, rfl⟩ <;> simp [RoundedTo]

/-- A rounding lies within a unit of the value. -/
theorem roundedTo_near (h : RoundedTo rm neg x q n) : n * 2 ^ q < x + 2 ^ q ∧ x < (n + 1) * 2 ^ q := by
  have hu := two_zpow_pos q
  rcases mode_cases rm neg with rfl | hz | ha
  · obtain ⟨hlo, hhi⟩ := abs_le.mp (roundedTo_nearest.mp h).1
    constructor <;> nlinarith
  · obtain ⟨hlo, hhi⟩ := (roundedTo_towardZero hz).mp h
    constructor <;> nlinarith
  · obtain ⟨hlo, hhi⟩ := (roundedTo_away ha).mp h
    constructor <;> nlinarith

/-- A rounding keeps to the side of a multiple of its unit on which the value lies. -/
theorem roundedTo_le (h : RoundedTo rm neg x q n) (hx : x ≤ k * 2 ^ q) : n ≤ k := by
  have hlt : (n : ℝ) * 2 ^ q < (k + 1) * 2 ^ q := by linarith [(roundedTo_near h).1]
  exact Nat.lt_succ_iff.mp (by exact_mod_cast lt_of_mul_lt_mul_right hlt (two_zpow_pos q).le)

theorem le_roundedTo (h : RoundedTo rm neg x q n) (hx : k * 2 ^ q ≤ x) : k ≤ n := by
  have hlt : (k : ℝ) * 2 ^ q < (n + 1) * 2 ^ q := hx.trans_lt (roundedTo_near h).2
  exact Nat.lt_succ_iff.mp (by exact_mod_cast lt_of_mul_lt_mul_right hlt (two_zpow_pos q).le)

/-- A multiple of the unit rounds to itself. -/
theorem roundedTo_of_eq (h : n * 2 ^ q = x) : RoundedTo rm neg x q n := by
  have hu := two_zpow_pos q
  subst h
  rcases mode_cases rm neg with rfl | hz | ha
  · rw [roundedTo_nearest, sub_self, abs_zero]
    exact ⟨by linarith, fun h => by linarith⟩
  · rw [roundedTo_towardZero hz]
    exact ⟨le_rfl, by linarith⟩
  · rw [roundedTo_away ha]
    exact ⟨le_rfl, by linarith⟩

/-- To nearest, two neighbours are not both a value's rounding: both would be ties, and one of them is odd. -/
theorem not_roundedTo_nearest_succ (h : RoundedTo .nearest neg x q n) (h' : RoundedTo .nearest neg x q (n + 1)) : False := by
  obtain ⟨hle, htie⟩ := roundedTo_nearest.mp h
  obtain ⟨hle', htie'⟩ := roundedTo_nearest.mp h'
  have hlo := (abs_le.mp hle).1
  have hhi := (abs_le.mp hle').2
  push_cast at hhi htie'
  have hu := two_zpow_pos q
  have heven := htie (by rw [abs_of_neg (by linarith)]; linarith)
  have heven' := htie' (by rw [abs_of_pos (by linarith)]; linarith)
  omega

/-- A mode gives a value one rounding. -/
theorem roundedTo_unique (h : RoundedTo rm neg x q n) (h' : RoundedTo rm neg x q n') : n = n' := by
  rcases mode_cases rm neg with rfl | hz | ha
  · have hu := two_zpow_pos q
    have hdist : ((n : ℝ) - n') * 2 ^ q ≤ 1 * 2 ^ q ∧ ((n' : ℝ) - n) * 2 ^ q ≤ 1 * 2 ^ q := by
      obtain ⟨hlo, hhi⟩ := abs_le.mp (roundedTo_nearest.mp h).1
      obtain ⟨hlo', hhi'⟩ := abs_le.mp (roundedTo_nearest.mp h').1
      constructor <;> linarith
    have hle : n ≤ n' + 1 := by exact_mod_cast sub_le_iff_le_add'.mp (le_of_mul_le_mul_right hdist.1 hu)
    have hle' : n' ≤ n + 1 := by exact_mod_cast sub_le_iff_le_add'.mp (le_of_mul_le_mul_right hdist.2 hu)
    rcases Nat.lt_trichotomy n n' with hlt | heq | hlt
    · obtain rfl : n' = n + 1 := by omega
      exact (not_roundedTo_nearest_succ h h').elim
    · exact heq
    · obtain rfl : n = n' + 1 := by omega
      exact (not_roundedTo_nearest_succ h' h).elim
  · have hfloor := (roundedTo_towardZero hz).mp h
    have hfloor' := (roundedTo_towardZero hz).mp h'
    exact le_antisymm (le_roundedTo h' hfloor.1) (le_roundedTo h hfloor'.1)
  · have hceil := (roundedTo_away ha).mp h
    have hceil' := (roundedTo_away ha).mp h'
    exact le_antisymm (roundedTo_le h hceil'.1) (roundedTo_le h' hceil.1)

theorem roundedTo_scale (e : Int) : RoundedTo rm neg (x * 2 ^ e) (q + e) n ↔ RoundedTo rm neg x q n := by
  have hs := two_zpow_pos e
  have hmul (a b : ℝ) : a * (2 ^ q * 2 ^ e) ≤ b * 2 ^ e ↔ a * 2 ^ q ≤ b := by
    rw [← mul_assoc, mul_le_mul_iff_left₀ hs]
  rcases mode_cases rm neg with rfl | hz | ha
  · have habs : |(n : ℝ) * 2 ^ (q + e) - x * 2 ^ e| = |n * 2 ^ q - x| * 2 ^ e := by
      rw [zpow_add₀ two_ne_zero, ← mul_assoc, ← sub_mul, abs_mul, abs_of_pos hs]
    rw [roundedTo_nearest, roundedTo_nearest, habs, zpow_add₀ two_ne_zero, mul_div_right_comm, mul_le_mul_iff_left₀ hs, mul_left_inj' hs.ne']
  · rw [roundedTo_towardZero hz, roundedTo_towardZero hz, zpow_add₀ two_ne_zero, ← mul_assoc, ← mul_assoc, mul_le_mul_iff_left₀ hs,
      mul_lt_mul_iff_left₀ hs]
  · rw [roundedTo_away ha, roundedTo_away ha, zpow_add₀ two_ne_zero, ← mul_assoc, ← add_mul, mul_le_mul_iff_left₀ hs,
      mul_lt_mul_iff_left₀ hs]

/-! ## Rounding at a place -/

/-- m units of 2^e are x rounded down, and `sticky` says whether x is more. -/
structure Truncates (m : Nat) (e : Int) (sticky : Bool) (x : ℝ) : Prop where
  le : m * 2 ^ e ≤ x
  lt : x < (m + 1) * 2 ^ e
  sticky_iff : sticky = true ↔ m * 2 ^ e ≠ x

theorem truncates_exact (m : Nat) (e : Int) : Truncates m e false (m * 2 ^ e) :=
  ⟨le_rfl, mul_lt_mul_of_pos_right (lt_add_one _) (two_zpow_pos e), by simp⟩

/-- Of a value between n and n + 1 units, where it is known how it lies to the middle, `roundsUp` chooses the rounding. -/
theorem roundedTo_roundsUp {rest : Ordering} {inexact : Bool} (hlo : n * 2 ^ q ≤ x) (hhi : x < (n + 1) * 2 ^ q)
    (hrest : rest = .lt ∧ x < (n + 1 / 2) * 2 ^ q ∨ rest = .eq ∧ x = (n + 1 / 2) * 2 ^ q ∨ rest = .gt ∧ (n + 1 / 2) * 2 ^ q < x)
    (hinexact : inexact = true ↔ n * 2 ^ q ≠ x) :
    RoundedTo rm neg x q (if roundsUp rm neg (n % 2 = 1) rest inexact = true then n + 1 else n) := by
  have hu := two_zpow_pos q
  rcases mode_cases rm neg with rfl | hz | ha
  · rw [roundedTo_nearest]
    rcases hrest with ⟨rfl, hx⟩ | ⟨rfl, hx⟩ | ⟨rfl, hx⟩
    · have habs : |n * 2 ^ q - x| = x - n * 2 ^ q := by rw [abs_sub_comm, abs_of_nonneg (by linarith)]
      simp only [roundsUp, reduceCtorEq, decide_false, Bool.false_and, Bool.or_self, Bool.false_eq_true, if_false, habs]
      exact ⟨by linarith, fun h => by linarith⟩
    · by_cases hodd : n % 2 = 1
      · have habs : |((n + 1 : Nat) : ℝ) * 2 ^ q - x| = 2 ^ q / 2 := by
          rw [hx, abs_of_nonneg (by push_cast; linarith)]
          push_cast
          ring
        simp only [roundsUp, reduceCtorEq, decide_false, decide_true, hodd, Bool.and_self, Bool.or_true, if_true, habs]
        exact ⟨le_rfl, fun _ => by omega⟩
      · have habs : |(n : ℝ) * 2 ^ q - x| = 2 ^ q / 2 := by
          rw [hx, abs_sub_comm, abs_of_nonneg (by linarith)]
          ring
        simp only [roundsUp, reduceCtorEq, decide_false, hodd, Bool.and_false, Bool.or_self, Bool.false_eq_true, if_false, habs]
        exact ⟨le_rfl, fun _ => by omega⟩
    · have habs : |((n + 1 : Nat) : ℝ) * 2 ^ q - x| = (n + 1) * 2 ^ q - x := by rw [abs_of_nonneg (by push_cast; linarith)]; push_cast; rfl
      simp only [roundsUp, decide_true, Bool.true_or, if_true, habs]
      exact ⟨by linarith, fun h => by linarith⟩
  · have hup : roundsUp rm neg (n % 2 = 1) rest inexact = false := by
      rcases hz with rfl | ⟨rfl, rfl⟩ | ⟨rfl, rfl⟩ <;> simp [roundsUp]
    rw [hup, if_neg Bool.false_ne_true, roundedTo_towardZero hz]
    exact ⟨hlo, hhi⟩
  · have hup : roundsUp rm neg (n % 2 = 1) rest inexact = inexact := by
      rcases ha with ⟨rfl, rfl⟩ | ⟨rfl, rfl⟩ <;> simp [roundsUp]
    rw [hup, roundedTo_away ha]
    split
    · rename_i h
      have hlt := lt_of_le_of_ne hlo (hinexact.mp h)
      push_cast
      constructor <;> linarith
    · rename_i h
      have heq := not_not.mp (mt hinexact.mpr h)
      constructor <;> linarith

/-- A rounding is the value itself where the multiple below it is. -/
theorem rounded_eq_iff (h : RoundedTo rm neg x q n') (hlo : n * 2 ^ q ≤ x) (hhi : x < (n + 1) * 2 ^ q) :
    n' * 2 ^ q = x ↔ n * 2 ^ q = x := by
  refine ⟨fun heq => ?_, fun heq => by rwa [roundedTo_unique h (roundedTo_of_eq heq)]⟩
  have hfloor : RoundedTo .zero neg (n' * 2 ^ q) q n := (roundedTo_towardZero (.inl rfl)).mpr (heq ▸ ⟨hlo, hhi⟩)
  rwa [roundedTo_unique hfloor (roundedTo_of_eq rfl)]

/-- How the part that `roundAt` drops compares with half of its unit says how the value lies to the middle. -/
theorem compare_middle {m N r h : Nat} {u X : ℝ} {sticky : Bool} (hle : m ≤ X) (hlt : X < m + 1) (hsticky : sticky = true ↔ (m : ℝ) ≠ X)
    (hm : (m : ℝ) = N * u + r) (hu : u = 2 * (h : Nat)) :
    let rest : Ordering := if r < h then .lt else if (r = h && !sticky) = true then .eq else .gt
    rest = .lt ∧ X < (N + 1 / 2) * u ∨ rest = .eq ∧ X = (N + 1 / 2) * u ∨ rest = .gt ∧ (N + 1 / 2) * u < X := by
  have hmid : (N + 1 / 2) * u = N * u + h := by rw [hu]; ring
  rw [hmid]
  intro rest
  by_cases hless : r < h
  · have hle' : (r : ℝ) + 1 ≤ h := by exact_mod_cast hless
    exact .inl ⟨if_pos hless, by linarith⟩
  by_cases hmiddle : (r = h && !sticky) = true
  · refine .inr (.inl ⟨(if_neg hless).trans (if_pos hmiddle), ?_⟩)
    simp only [Bool.and_eq_true, decide_eq_true_eq, Bool.not_eq_true'] at hmiddle
    have heq : (m : ℝ) = X := not_not.mp (mt hsticky.mpr (by simp [hmiddle.2]))
    rw [← heq, hm, hmiddle.1]
  · refine .inr (.inr ⟨(if_neg hless).trans (if_neg hmiddle), ?_⟩)
    rcases Nat.eq_or_lt_of_le (Nat.le_of_not_lt hless) with heq | hgt
    · have hs : sticky = true := by simpa [heq] using hmiddle
      have hne := lt_of_le_of_ne hle (hsticky.mp hs)
      rwa [hm, ← heq] at hne
    · have hgt' : (h : ℝ) < r := by exact_mod_cast hgt
      linarith

/-- `roundAt` rounds the value at a place, above the last place of a value rounded down, and says whether it has changed it. -/
theorem roundAt_roundedTo {m : Nat} {e : Int} {sticky : Bool} (h : Truncates m e sticky x) (hs : sticky = true → e < q) :
    RoundedTo rm neg x q (roundAt rm neg m e sticky q).1 ∧
      ((roundAt rm neg m e sticky q).2 = true ↔ (roundAt rm neg m e sticky q).1 * 2 ^ q ≠ x) := by
  rcases le_or_gt q e with hqe | hqe
  · have hexact : (m : ℝ) * 2 ^ e = x := not_not.mp fun hne => not_lt.mpr hqe (hs (h.sticky_iff.mpr hne))
    have hsticky : sticky = false := Bool.eq_false_iff.mpr fun ht => h.sticky_iff.mp ht hexact
    have hval : ((shiftBy m (e - q) : Nat) : ℝ) * 2 ^ q = x := by
      have hpow : (2 : ℝ) ^ (e - q).toNat * 2 ^ q = 2 ^ e := by
        rw [← zpow_natCast, ← zpow_add₀ two_ne_zero]
        congr 1
        omega
      rw [shiftBy, if_pos (by omega), Nat.cast_mul, Nat.cast_pow, Nat.cast_ofNat, mul_assoc, hpow, hexact]
    simp only [roundAt, if_pos hqe, hsticky, hval]
    exact ⟨roundedTo_of_eq hval, by simp⟩
  · obtain ⟨X, rfl⟩ : ∃ X, x = X * 2 ^ e := ⟨x / 2 ^ e, (div_mul_cancel₀ x (two_zpow_pos e).ne').symm⟩
    obtain ⟨hle, hlt, hsticky⟩ := h
    rw [mul_le_mul_iff_left₀ (two_zpow_pos e)] at hle
    rw [mul_lt_mul_iff_left₀ (two_zpow_pos e)] at hlt
    rw [Ne, mul_left_inj' (two_zpow_pos e).ne'] at hsticky
    obtain ⟨s, hs1, rfl⟩ : ∃ s : Nat, 1 ≤ s ∧ q = s + e := ⟨(q - e).toNat, by omega, by omega⟩
    have hshift : ((s : Int) + e - e).toNat = s := by omega
    have hm : (m : ℝ) = (m / 2 ^ s : Nat) * 2 ^ (s : Int) + (m % 2 ^ s : Nat) := by
      rw [zpow_natCast]
      exact_mod_cast (Nat.div_add_mod' m (2 ^ s)).symm
    have hhalf : (2 : ℝ) ^ (s : Int) = 2 * (2 ^ (s - 1) : Nat) := by
      rw [zpow_natCast, Nat.cast_pow, Nat.cast_ofNat, ← pow_succ', Nat.sub_add_cancel hs1]
    have hr : ((m % 2 ^ s : Nat) : ℝ) + 1 ≤ 2 ^ (s : Int) := by
      rw [zpow_natCast]
      exact_mod_cast Nat.mod_lt m (Nat.two_pow_pos s)
    have hr0 : (0 : ℝ) ≤ (m % 2 ^ s : Nat) := Nat.cast_nonneg _
    have hinexact : ((m % 2 ^ s != 0 || sticky) = true) ↔ (m / 2 ^ s : Nat) * 2 ^ (s : Int) ≠ X := by
      rw [Bool.or_eq_true, bne_iff_ne, hsticky, hm, ← Nat.cast_ne_zero (R := ℝ)]
      refine ⟨fun h heq => ?_, fun h => ?_⟩
      · rcases h with h | h
        · exact h (le_antisymm (by linarith) hr0)
        · exact h (le_antisymm (by linarith) (by linarith))
      · by_cases h0 : ((m % 2 ^ s : Nat) : ℝ) = 0
        · rw [h0, add_zero]
          exact .inr h
        · exact .inl h0
    have hrest := compare_middle (h := 2 ^ (s - 1)) hle hlt hsticky hm hhalf
    have hlo : ((m / 2 ^ s : Nat) : ℝ) * 2 ^ (s : Int) ≤ X := by linarith
    have hhi : X < ((m / 2 ^ s : Nat) + 1) * 2 ^ (s : Int) := by linarith
    have hround := roundedTo_roundsUp (rm := rm) (neg := neg) hlo hhi hrest hinexact
    rw [roundAt, if_neg (not_le.mpr hqe), hshift, roundedTo_scale, zpow_add₀ two_ne_zero, ← mul_assoc, Ne, mul_left_inj' (two_zpow_pos e).ne']
    exact ⟨hround, hinexact.trans (not_congr (rounded_eq_iff hround hlo hhi).symm)⟩

/-! ## Values and codes -/

/-- A format of R106 in numbers: a code of it has an exponent of ebits and a mantissa of mbits below its sign. -/
theorem isFormat_bias {f : Fmt} (hf : IsFormat f) : 2 ^ f.ebits = 2 * (fmtBias f + 1) ∧ expMax f = 2 * fmtBias f + 1 ∧ 1 ≤ fmtBias f ∧
    2 ^ (f.ebits - 1) = fmtBias f + 1 ∧ 2 * 2 ^ (f.mbits - 1) = 2 ^ f.mbits := by
  rcases hf with rfl | rfl | rfl | rfl <;> decide

/-- The code of an exponent and a mantissa. -/
def codeOf (f : Fmt) (neg : Bool) (ex ma : Nat) : Nat := signBit f neg + (ex * 2 ^ f.mbits + ma)

section Codes

variable {f : Fmt} {ex ma : Nat}

theorem codeOf_lt (hex : ex < 2 ^ f.ebits) (hma : ma < 2 ^ f.mbits) : ex * 2 ^ f.mbits + ma < 2 ^ (f.ebits + f.mbits) := by
  rw [pow_add]
  calc ex * 2 ^ f.mbits + ma < (ex + 1) * 2 ^ f.mbits := by rw [Nat.succ_mul]; omega
    _ ≤ 2 ^ f.ebits * 2 ^ f.mbits := Nat.mul_le_mul_right _ hex

/-- What a code holds: its sign, exponent and mantissa. -/
theorem unpack_codeOf (neg daz : Bool) (hex : ex < 2 ^ f.ebits) (hma : ma < 2 ^ f.mbits) : unpack f daz (codeOf f neg ex ma) =
    if ex = expMax f then if ma = 0 then .inf neg else .nan (ma < 2 ^ (f.mbits - 1))
    else if ex = 0 then .fin neg (if daz then 0 else ma) (1 - (fmtBias f : Int) - f.mbits)
    else .fin neg (2 ^ f.mbits + ma) ((ex : Int) - fmtBias f - f.mbits) := by
  have hlt := codeOf_lt hex hma
  have hsign : signBit f neg = 2 ^ f.mbits * (2 ^ f.ebits * neg.toNat) := by cases neg <;> simp [signBit, pow_add, mul_comm]
  have hbit : codeOf f neg ex ma / 2 ^ (f.ebits + f.mbits) % 2 = neg.toNat := by
    cases neg
    · simp [codeOf, signBit, Nat.div_eq_of_lt hlt]
    · simp only [codeOf, signBit, if_true, Nat.add_div_left _ (Nat.two_pow_pos _), Nat.div_eq_of_lt hlt]
      rfl
  have hexp : codeOf f neg ex ma / 2 ^ f.mbits % 2 ^ f.ebits = ex := by
    rw [codeOf, hsign, mul_comm ex, ← Nat.add_assoc, ← Nat.mul_add, Nat.mul_add_div (Nat.two_pow_pos _), Nat.div_eq_of_lt hma, Nat.add_zero,
      Nat.mul_add_mod, Nat.mod_eq_of_lt hex]
  have hman : codeOf f neg ex ma % 2 ^ f.mbits = ma := by
    rw [codeOf, hsign, mul_comm ex, ← Nat.add_assoc, ← Nat.mul_add, Nat.mul_add_mod, Nat.mod_eq_of_lt hma]
  have hneg : decide (neg.toNat = 1) = neg := by cases neg <;> rfl
  simp only [unpack, hbit, hexp, hman, hneg]

/-- Every code has an exponent and a mantissa. -/
theorem exists_codeOf {x : Nat} (hx : x < 2 ^ (1 + f.ebits + f.mbits)) :
    ∃ neg ex ma, ex < 2 ^ f.ebits ∧ ma < 2 ^ f.mbits ∧ x = codeOf f neg ex ma := by
  refine ⟨decide (x / 2 ^ (f.ebits + f.mbits) = 1), x / 2 ^ f.mbits % 2 ^ f.ebits, x % 2 ^ f.mbits, Nat.mod_lt _ (Nat.two_pow_pos _),
    Nat.mod_lt _ (Nat.two_pow_pos _), ?_⟩
  have htop : x / 2 ^ (f.ebits + f.mbits) < 2 := Nat.div_lt_of_lt_mul (by rwa [add_assoc, pow_add, pow_one, mul_comm] at hx)
  have hsplit := Nat.div_add_mod x (2 ^ f.mbits)
  have hsplit' := Nat.div_add_mod (x / 2 ^ f.mbits) (2 ^ f.ebits)
  rw [Nat.div_div_eq_div_mul, ← pow_add, add_comm f.mbits] at hsplit'
  have hsign : signBit f (decide (x / 2 ^ (f.ebits + f.mbits) = 1)) = 2 ^ (f.ebits + f.mbits) * (x / 2 ^ (f.ebits + f.mbits)) := by
    rcases Nat.lt_succ_iff_lt_or_eq.mp htop with h | h
    · simp [signBit, Nat.lt_one_iff.mp h]
    · simp [signBit, h]
  rw [codeOf, hsign]
  conv_lhs => rw [← hsplit, ← hsplit']
  ring

end Codes

/-! ## One rounding into a format -/

section Pack

variable {f : Fmt} {env : FpEnv} {m n₀ : Nat} {e q₀ : Int} {sticky : Bool}

/-- The least place of a format, that of its subnormals. -/
def leastPlace (f : Fmt) : Int := 1 - (fmtBias f : Int) - f.mbits

/-- The magnitude's code of n units of 2^q. -/
def magnitudeCode (f : Fmt) (n : Nat) (q : Int) : Nat :=
  if n < 2 ^ f.mbits then n
  else
    let n' := if n = 2 ^ (f.mbits + 1) then 2 ^ f.mbits else n
    let q' := if n = 2 ^ (f.mbits + 1) then q + 1 else q
    (q' + f.mbits + fmtBias f).toNat * 2 ^ f.mbits + (n' - 2 ^ f.mbits)

theorem magnitudeCode_subnormal (h : n < 2 ^ f.mbits) : magnitudeCode f n q = n := if_pos h

theorem magnitudeCode_normal (hlo : 2 ^ f.mbits ≤ n) (hhi : n < 2 ^ (f.mbits + 1)) :
    magnitudeCode f n q = (q + f.mbits + fmtBias f).toNat * 2 ^ f.mbits + (n - 2 ^ f.mbits) := by
  simp only [magnitudeCode, if_neg (not_lt.mpr hlo), if_neg hhi.ne]

/-- A mantissa that rounds up to the next power of two has the next exponent. -/
theorem magnitudeCode_carry (f : Fmt) (q : Int) : magnitudeCode f (2 ^ (f.mbits + 1)) q = (q + 1 + f.mbits + fmtBias f).toNat * 2 ^ f.mbits := by
  have hpow : 2 ^ f.mbits ≤ 2 ^ (f.mbits + 1) := Nat.pow_le_pow_right two_pos (Nat.le_succ _)
  simp only [magnitudeCode, if_neg (not_lt.mpr hpow), if_true, Nat.sub_self, Nat.add_zero]

/-- Whether an overflow gives infinity, and not the largest number (R114). -/
def toInfinity (rm : Rm) (neg : Bool) : Bool := rm == .nearest || (rm == .up && !neg) || (rm == .down && neg)

/-- What the rounding of a value to n units of 2^q gives. -/
def packRounded (f : Fmt) (env : FpEnv) (neg tiny : Bool) (n : Nat) (q : Int) (inexact : Bool) : FRes :=
  if (bitLen n : Int) + q > fmtBias f + 1 then
    { code := if toInfinity env.rm neg then infCode f neg else maxCode f neg, flags := fOF ||| fNX }
  else if tiny && env.ftz then { code := signBit f neg, flags := fUF ||| fNX }
  else { code := signBit f neg + magnitudeCode f n q, flags := (if inexact then fNX else 0) ||| (if tiny && inexact then fUF else 0) }

theorem packRounded_exact {tiny : Bool} (hlim : (bitLen n : Int) + q ≤ fmtBias f + 1) (hflush : ¬(tiny && env.ftz) = true) :
    packRounded f env neg tiny n q false = { code := signBit f neg + magnitudeCode f n q, flags := 0 } := by
  rw [packRounded, if_neg (not_lt.mpr hlim), if_neg hflush, Bool.and_false]
  rfl

theorem roundPack_zero (f : Fmt) (env : FpEnv) (neg : Bool) (e : Int) : roundPack f env neg 0 e false = { code := signBit f neg, flags := 0 } := by
  simp [roundPack]

/-- `roundPack` rounds at the last place of the format, and decides tininess with as many places as the format has. -/
theorem roundPack_eq (hm : m ≠ 0) (hq₀ : q₀ = e + bitLen m - (f.mbits + 1)) : roundPack f env neg m e sticky =
    packRounded f env neg (decide ((bitLen (roundAt env.rm neg m e sticky q₀).1 : Int) + q₀ ≤ 1 - (fmtBias f : Int)))
      (roundAt env.rm neg m e sticky (max q₀ (leastPlace f))).1 (max q₀ (leastPlace f))
      (roundAt env.rm neg m e sticky (max q₀ (leastPlace f))).2 := by
  obtain ⟨rm, daz, ftz⟩ := env
  subst hq₀
  rw [roundPack, if_neg (by simp [hm])]
  cases rm <;> cases neg <;> rfl

/-- The places of a magnitude: its length puts it between one power of two and the next. -/
theorem binade_of_bitLen (hm : m ≠ 0) (k : Nat) (e : Int) : 2 ^ k * (2 : ℝ) ^ (e + bitLen m - (k + 1)) ≤ m * 2 ^ e ∧
    (m : ℝ) * 2 ^ e < 2 ^ (k + 1) * (2 : ℝ) ^ (e + bitLen m - (k + 1)) := by
  have hpos := bitLen_pos hm
  have hge : 2 ^ (bitLen m - 1) ≤ m := lt_bitLen_iff.mp (by omega)
  have hlt : m < 2 ^ bitLen m := bitLen_le_iff.mp le_rfl
  have hpow (j l : Nat) (h : (k : Int) + 1 + l = j + bitLen m) : (2 : ℝ) ^ j * 2 ^ (e + bitLen m - (k + 1)) = 2 ^ l * 2 ^ e := by
    rw [← zpow_natCast, ← zpow_natCast, ← zpow_add₀ two_ne_zero, ← zpow_add₀ two_ne_zero]
    congr 1
    omega
  rw [hpow k (bitLen m - 1) (by omega), hpow (k + 1) (bitLen m) (by omega)]
  exact ⟨mul_le_mul_of_nonneg_right (by exact_mod_cast hge) (two_zpow_pos e).le, mul_lt_mul_of_pos_right (by exact_mod_cast hlt) (two_zpow_pos e)⟩

/-- Where a value has its places, from the length of what it is rounded down to. -/
theorem place_of_binade {k : Nat} (hx : Truncates m e sticky x) (hm : m ≠ 0) (hlo : 2 ^ k * (2 : ℝ) ^ q₀ ≤ x)
    (hhi : x < 2 ^ (k + 1) * (2 : ℝ) ^ q₀) : q₀ = e + bitLen m - (k + 1) := by
  have hpos := bitLen_pos hm
  have hlo' : (2 : ℝ) ^ (e + bitLen m - 1) ≤ x := by
    have hge : 2 ^ (bitLen m - 1) ≤ m := lt_bitLen_iff.mp (by omega)
    refine le_trans ?_ hx.le
    rw [show e + bitLen m - 1 = (bitLen m - 1 : Nat) + e by omega, zpow_add₀ two_ne_zero, zpow_natCast]
    exact mul_le_mul_of_nonneg_right (by exact_mod_cast hge) (two_zpow_pos e).le
  have hhi' : x < (2 : ℝ) ^ (e + bitLen m - 1 + 1) := by
    have hlt : (m : ℝ) + 1 ≤ 2 ^ bitLen m := by exact_mod_cast bitLen_le_iff.mp (le_refl (bitLen m))
    refine lt_of_lt_of_le hx.lt ?_
    rw [sub_add_cancel, add_comm e, zpow_add₀ two_ne_zero, zpow_natCast]
    exact mul_le_mul_of_nonneg_right hlt (two_zpow_pos e).le
  rw [← zpow_natCast, ← zpow_add₀ two_ne_zero] at hlo hhi
  have hsame := binade_unique hlo (by rwa [Nat.cast_succ, add_right_comm] at hhi) hlo' hhi'
  omega

/-- The same, for any two roundings of the value that stand where R114 has them. -/
theorem roundPack_rounded (hx : Truncates m e sticky x) (hm : m ≠ 0) (hs : sticky = true → f.mbits + 1 < bitLen m)
    (hlo : 2 ^ f.mbits * (2 : ℝ) ^ q₀ ≤ x) (hhi : x < 2 ^ (f.mbits + 1) * (2 : ℝ) ^ q₀) (h₀ : RoundedTo env.rm neg x q₀ n₀)
    (hn : RoundedTo env.rm neg x (max q₀ (leastPlace f)) n) : ∃ tiny inexact : Bool,
      (tiny = true ↔ (n₀ : ℝ) * 2 ^ q₀ < 2 ^ (1 - (fmtBias f : Int))) ∧ (inexact = true ↔ (n : ℝ) * 2 ^ max q₀ (leastPlace f) ≠ x) ∧
      roundPack f env neg m e sticky = packRounded f env neg tiny n (max q₀ (leastPlace f)) inexact := by
  have hplace : q₀ = e + bitLen m - (f.mbits + 1) := place_of_binade hx hm hlo hhi
  have habove : sticky = true → e < q₀ := fun h => by have := hs h; omega
  obtain ⟨hround₀, -⟩ := roundAt_roundedTo (rm := env.rm) (neg := neg) hx habove
  obtain ⟨hround, hexact⟩ := roundAt_roundedTo (rm := env.rm) (neg := neg) (q := max q₀ (leastPlace f)) hx fun h => lt_max_of_lt_left (habove h)
  have hn₀ : n₀ ≠ 0 := fun h => by
    have hge := le_roundedTo (k := 2 ^ f.mbits) h₀ (by exact_mod_cast hlo)
    have := Nat.two_pow_pos f.mbits
    omega
  rw [roundPack_eq hm hplace, roundedTo_unique hround₀ h₀, roundedTo_unique hround hn]
  rw [roundedTo_unique hround hn] at hexact
  exact ⟨_, _, by rw [decide_eq_true_iff, bitLen_add_le_iff (.inl hn₀)], hexact, rfl⟩

/-- A rounding that reaches the least place or a full mantissa, below the limit of the format, is the value of its code. -/
theorem unpack_normal (hf : IsFormat f) (daz : Bool) (hlo : 2 ^ f.mbits ≤ n) (hhi : n < 2 ^ (f.mbits + 1)) (hq : leastPlace f ≤ q)
    (hlim : (n : ℝ) * 2 ^ q < 2 ^ (fmtBias f + 1 : Int)) : (q + f.mbits + fmtBias f).toNat < expMax f ∧
      unpack f daz (codeOf f neg (q + f.mbits + fmtBias f).toNat (n - 2 ^ f.mbits)) = .fin neg n q := by
  obtain ⟨hsize, hmax, hbias, -, -⟩ := isFormat_bias hf
  have htop : q + f.mbits ≤ fmtBias f := by
    have hle := (bitLen_add_le_iff (.inl (by have := Nat.two_pow_pos f.mbits; omega))).mpr hlim
    have hlen : f.mbits < bitLen n := lt_bitLen_iff.mpr hlo
    omega
  rw [leastPlace] at hq
  have hex : (q + f.mbits + fmtBias f).toNat < expMax f := by omega
  refine ⟨hex, ?_⟩
  rw [unpack_codeOf neg daz (by omega) (by rw [pow_succ] at hhi; omega), if_neg hex.ne, if_neg (by omega), Nat.add_sub_cancel' hlo]
  congr 1
  omega

theorem unpack_magnitudeCode (hf : IsFormat f) (hn : n ≤ 2 ^ (f.mbits + 1)) (hsub : n < 2 ^ f.mbits → q = leastPlace f) (hq : leastPlace f ≤ q)
    (hlim : (n : ℝ) * 2 ^ q < 2 ^ (fmtBias f + 1 : Int)) : signBit f neg + magnitudeCode f n q < 2 ^ (1 + f.ebits + f.mbits) ∧
      ∃ m k, unpack f false (signBit f neg + magnitudeCode f n q) = .fin neg m k ∧ (m : ℝ) * 2 ^ k = n * 2 ^ q := by
  obtain ⟨hsize, hmax, hbias, -, -⟩ := isFormat_bias hf
  have hbound {ex ma : Nat} (hex : ex < 2 ^ f.ebits) (hma : ma < 2 ^ f.mbits) : codeOf f neg ex ma < 2 ^ (1 + f.ebits + f.mbits) := by
    have hlt := codeOf_lt hex hma
    have hsign : signBit f neg ≤ 2 ^ (f.ebits + f.mbits) := by cases neg <;> simp [signBit]
    rw [add_assoc, pow_add, codeOf]
    omega
  have hpow := pow_succ 2 f.mbits
  have hpos := Nat.two_pow_pos f.mbits
  rcases Nat.lt_or_ge n (2 ^ f.mbits) with hless | hge
  · have hcode : signBit f neg + magnitudeCode f n q = codeOf f neg 0 n := by
      rw [magnitudeCode_subnormal hless, codeOf, Nat.zero_mul, Nat.zero_add]
    rw [hcode, hsub hless]
    refine ⟨hbound (by omega) hless, n, leastPlace f, ?_, rfl⟩
    rw [unpack_codeOf neg false (by omega) hless, if_neg (by omega), if_pos rfl]
    rfl
  rcases Nat.lt_or_eq_of_le hn with hlt | rfl
  · obtain ⟨hex, hval⟩ := unpack_normal (neg := neg) hf false hge hlt hq hlim
    rw [magnitudeCode_normal hge hlt]
    exact ⟨hbound (by omega) (by omega), n, q, hval, rfl⟩
  · have hsame : ((2 ^ f.mbits : Nat) : ℝ) * 2 ^ (q + 1) = (2 ^ (f.mbits + 1) : Nat) * 2 ^ q := by
      rw [zpow_add₀ two_ne_zero, zpow_one, pow_succ]
      push_cast
      ring
    obtain ⟨hex, hval⟩ := unpack_normal (n := 2 ^ f.mbits) (q := q + 1) (neg := neg) hf false le_rfl (by omega) (by omega) (by rwa [hsame])
    rw [Nat.sub_self] at hval
    rw [magnitudeCode_carry, ← Nat.add_zero (_ * _)]
    exact ⟨hbound (by omega) (by omega), _, _, hval, hsame⟩

theorem toInfinity_iff {rm : Rm} : toInfinity rm neg = true ↔ rm = .nearest ∨ Away rm neg := by
  cases rm <;> cases neg <;> simp [toInfinity, Away]

theorem toInfinity_towardZero {rm : Rm} (h : TowardZero rm neg) : toInfinity rm neg = false := by
  rcases h with rfl | ⟨rfl, rfl⟩ | ⟨rfl, rfl⟩ <;> rfl

/-- The flags of a value in range. -/
theorem roundingFlags_getLsbD (tiny inexact : Bool) (j : Nat) :
    ((if inexact then fNX else 0) ||| (if tiny && inexact then fUF else 0)).getLsbD j = true ↔
      (j = 4 ∧ inexact = true) ∨ (j = 3 ∧ tiny = true ∧ inexact = true) := by
  have hNX : fNX.getLsbD j = decide (j = 4) := by
    rw [show fNX = BitVec.twoPow 5 4 from rfl, BitVec.getLsbD_twoPow]
    simp [eq_comm (a := j)]
  have hUF : fUF.getLsbD j = decide (j = 3) := by
    rw [show fUF = BitVec.twoPow 5 3 from rfl, BitVec.getLsbD_twoPow]
    simp [eq_comm (a := j)]
  cases inexact <;> cases tiny <;> simp [hNX, hUF]

/-- A positive value that `roundPack` is told rounded down, with places enough for any rounding to see what is beyond them, it rounds
once. -/
theorem roundPack_roundsOnce (hf : IsFormat f) (hx : Truncates m e sticky x) (hm : m ≠ 0) (hs : sticky = true → f.mbits + 1 < bitLen m) :
    RoundsOnce f env neg x (roundPack f env neg m e sticky) := by
  intro q₀ n₀ n hlo hhi emin q h₀ hn tiny y limit
  obtain ⟨hsize, hmax, hbias, hhalf, -⟩ := isFormat_bias hf
  have hemin : emin = 1 - (fmtBias f : Int) := by
    have hcast : (2 : Int) ^ (f.ebits - 1) = fmtBias f + 1 := by exact_mod_cast hhalf
    simp only [emin, hcast]
    ring
  have hplace : max q₀ (leastPlace f) = q := by rw [leastPlace, ← hemin]
  have hlimit : limit = 2 ^ ((fmtBias f : Int) + 1) := by
    simp only [limit, hhalf]
    exact_mod_cast rfl
  obtain ⟨tiny', inexact, htiny, hinexact, hpack⟩ := roundPack_rounded hx hm hs hlo hhi h₀ (hplace ▸ hn)
  rw [hplace] at hinexact hpack
  rw [← hemin] at htiny
  have hq : leastPlace f ≤ q := hplace ▸ le_max_right _ _
  have hn' : n ≤ 2 ^ (f.mbits + 1) := roundedTo_le hn <| by
    refine hhi.le.trans ?_
    push_cast
    exact mul_le_mul_of_nonneg_left (zpow_le_zpow_right₀ one_le_two (le_max_left _ _)) (by positivity)
  have hsub : n < 2 ^ f.mbits → q = leastPlace f := fun hless => by
    rcases max_choice q₀ (leastPlace f) with heq | heq
    · rw [← hplace, heq] at hn
      exact absurd (le_roundedTo (k := 2 ^ f.mbits) hn (by exact_mod_cast hlo)) (not_le.mpr hless)
    · exact hplace.symm.trans heq
  have hover : (bitLen n : Int) + q > fmtBias f + 1 ↔ limit ≤ y := by
    have hzero : n ≠ 0 ∨ q ≤ fmtBias f + 1 := by
      by_cases h0 : n = 0
      · rw [hsub (by rw [h0]; exact Nat.two_pow_pos _), leastPlace]
        exact .inr (by omega)
      · exact .inl h0
    rw [gt_iff_lt, ← not_le, bitLen_add_le_iff hzero, hlimit, not_lt]
  rw [hpack, packRounded]
  refine ⟨fun hge => ?_, fun hlt ht hftz => ?_, fun hlt hno => ?_⟩
  · rw [if_pos (hover.mpr hge)]
    exact ⟨fun h => by rw [toInfinity_iff.mpr h]; rfl, fun h => by rw [toInfinity_towardZero h]; rfl⟩
  · rw [if_neg (mt hover.mp (not_le.mpr hlt)), htiny.mpr ht, hftz]
    rfl
  · have hnot : ¬(tiny' && env.ftz) = true := by rw [Bool.and_eq_true, htiny]; exact hno
    rw [if_neg (mt hover.mp (not_le.mpr hlt)), if_neg hnot]
    obtain ⟨hcode, hval⟩ := unpack_magnitudeCode (neg := neg) hf hn' hsub hq (hlimit ▸ hlt)
    refine ⟨hcode, hval, fun j => ?_⟩
    rw [roundingFlags_getLsbD, htiny, hinexact]

/-! ## Exact values -/

theorem roundAt_of_le (h : q ≤ e) : roundAt rm neg m e false q = (shiftBy m (e - q), false) := by rw [roundAt, if_pos h]

theorem shiftBy_natCast (m k : Nat) : shiftBy m k = m * 2 ^ k := by simp [shiftBy]

/-- A magnitude of no more places than the format has, in its normal range, is the value of its code, without a flag. -/
theorem roundPack_exact (hf : IsFormat f) (hm : m ≠ 0) (hlen : bitLen m ≤ f.mbits + 1) (hlo : (2 : ℝ) ^ (1 - (fmtBias f : Int)) ≤ m * 2 ^ e)
    (hhi : (m : ℝ) * 2 ^ e < 2 ^ (fmtBias f + 1 : Int)) : (roundPack f env neg m e false).flags = 0 ∧
      ∃ m' k, unpack f false (roundPack f env neg m e false).code = .fin neg m' k ∧ (m' : ℝ) * 2 ^ k = m * 2 ^ e := by
  obtain ⟨s, hs⟩ := Nat.exists_eq_add_of_le hlen
  have hpos := bitLen_pos hm
  have hval : ((m * 2 ^ s : Nat) : ℝ) * 2 ^ (e - s) = m * 2 ^ e := by
    rw [Nat.cast_mul, mul_assoc, Nat.cast_pow, Nat.cast_ofNat, ← zpow_natCast, ← zpow_add₀ two_ne_zero, add_sub_cancel]
  have hge : 2 ^ f.mbits ≤ m * 2 ^ s := by
    rw [show f.mbits = bitLen m - 1 + s by omega, pow_add]
    exact Nat.mul_le_mul_right _ (lt_bitLen_iff.mp (by omega))
  have hlt : m * 2 ^ s < 2 ^ (f.mbits + 1) := by
    rw [hs, pow_add]
    exact Nat.mul_lt_mul_of_pos_right (bitLen_le_iff.mp le_rfl) (Nat.two_pow_pos s)
  have hlen' : bitLen (m * 2 ^ s) = f.mbits + 1 := le_antisymm (bitLen_le_iff.mpr hlt) (lt_bitLen_iff.mpr hge)
  have hn : m * 2 ^ s ≠ 0 := by have := Nat.two_pow_pos f.mbits; omega
  rw [← hval] at hlo hhi
  have hnot : ¬((bitLen (m * 2 ^ s) : Int) + (e - s) ≤ 1 - (fmtBias f : Int)) := by
    rw [bitLen_add_le_iff (.inl hn)]
    exact not_lt.mpr hlo
  have hover : (bitLen (m * 2 ^ s) : Int) + (e - s) ≤ fmtBias f + 1 := (bitLen_add_le_iff (.inl hn)).mpr hhi
  have hplace : leastPlace f ≤ e - s := by rw [leastPlace]; omega
  have hround : roundAt env.rm neg m e false (e - s) = (m * 2 ^ s, false) := by
    rw [roundAt_of_le (by omega), sub_sub_cancel, shiftBy_natCast]
  have hpack : roundPack f env neg m e false = { code := signBit f neg + magnitudeCode f (m * 2 ^ s) (e - s), flags := 0 } := by
    rw [roundPack_eq hm (q₀ := e - s) (by omega), max_eq_left hplace, hround, decide_eq_false hnot, packRounded_exact hover (by simp)]
  obtain ⟨-, m', k, hunpack, hsame⟩ := unpack_magnitudeCode (neg := neg) hf hlt.le (fun h => absurd h (not_lt.mpr hge)) hplace hhi
  rw [hpack]
  exact ⟨rfl, m', k, hunpack, hsame.trans hval⟩

/-- A finite value of a code rounds to that code without a flag. -/
theorem roundPack_unpack (hf : IsFormat f) (hftz : env.ftz = false) {x : Nat} (hx : x < 2 ^ (1 + f.ebits + f.mbits))
    (h : unpack f false x = .fin neg m e) : roundPack f env neg m e false = { code := x, flags := 0 } := by
  obtain ⟨hsize, hmax, hbias, -, -⟩ := isFormat_bias hf
  obtain ⟨neg', ex, ma, hex, hma, rfl⟩ := exists_codeOf hx
  have hpow := pow_succ 2 f.mbits
  have hpack (n : Nat) (q : Int) (hn : n ≠ 0) (hlen : bitLen n ≤ f.mbits + 1) (hq : q = max (q + bitLen n - (f.mbits + 1)) (leastPlace f))
      (hlim : q + f.mbits ≤ fmtBias f) : roundPack f env neg n q false = { code := signBit f neg + magnitudeCode f n q, flags := 0 } := by
    have hround : roundAt env.rm neg n q false q = (n, false) := by
      rw [roundAt_of_le (le_refl q), sub_self, ← Nat.cast_zero, shiftBy_natCast, pow_zero, mul_one]
    rw [roundPack_eq hn rfl, ← hq, hround, packRounded_exact (by simp only; omega) (by simp [hftz])]
  rw [unpack_codeOf neg' false hex hma] at h
  by_cases hspecial : ex = expMax f
  · rw [if_pos hspecial] at h
    split at h <;> cases h
  rw [if_neg hspecial] at h
  by_cases hzero : ex = 0
  · rw [if_pos hzero] at h
    simp only [Bool.false_eq_true, if_false, FVal.fin.injEq] at h
    obtain ⟨rfl, rfl, rfl⟩ := h
    rw [codeOf, hzero, Nat.zero_mul, Nat.zero_add]
    by_cases hma0 : ma = 0
    · rw [hma0, roundPack_zero, Nat.add_zero]
    · have hlen : bitLen ma ≤ f.mbits := bitLen_le_iff.mpr hma
      rw [hpack ma _ hma0 (by omega) (by rw [leastPlace]; omega) (by omega), magnitudeCode_subnormal hma]
  · rw [if_neg hzero] at h
    simp only [FVal.fin.injEq] at h
    obtain ⟨rfl, rfl, rfl⟩ := h
    have hlen : bitLen (2 ^ f.mbits + ma) = f.mbits + 1 :=
      le_antisymm (bitLen_le_iff.mpr (by omega)) (lt_bitLen_iff.mpr (Nat.le_add_right _ _))
    rw [hpack _ _ (by have := Nat.two_pow_pos f.mbits; omega) hlen.le (by rw [leastPlace]; omega) (by omega),
      magnitudeCode_normal (Nat.le_add_right _ _) (by omega), codeOf, Nat.add_sub_cancel_left]
    congr 4
    omega

end Pack

/-! ## The rounding of R111 in whole numbers -/

/-- The rounding of a whole number of halves. -/
theorem roundedTo_halves {rm : Rm} {neg : Bool} {x k n : Nat} (h : RoundedTo rm neg ((x : ℝ) / 2) (k : Int) n) : let u := 2 * 2 ^ k
    (n * 2 ^ (k : Int) ≠ (x : ℝ) / 2 ↔ ¬u ∣ x) ∧
    (rm = .nearest → 2 * x ≤ 2 * (n * u) + u ∧ 2 * (n * u) ≤ 2 * x + u ∧ (2 * x = 2 * (n * u) + u ∨ 2 * (n * u) = 2 * x + u → n % 2 = 0)) ∧
    (TowardZero rm neg → n * u ≤ x ∧ x < (n + 1) * u) ∧ (Away rm neg → x ≤ n * u ∧ n * u < x + u) := by
  intro u
  have hu : (u : ℝ) = 2 * 2 ^ (k : Int) := by simp [u]
  refine ⟨not_congr ⟨fun heq => ?_, fun ⟨c, hc⟩ => ?_⟩, fun hnear => ?_, fun hz => ?_, fun ha => ?_⟩
  · exact ⟨n, by exact_mod_cast show (x : ℝ) = u * n by rw [hu]; linarith⟩
  · have heq : (c : ℝ) * 2 ^ (k : Int) = x / 2 := by rw [hc]; push_cast; rw [hu]; ring
    rwa [roundedTo_unique h (roundedTo_of_eq heq)]
  · subst hnear
    obtain ⟨hle, htie⟩ := roundedTo_nearest.mp h
    obtain ⟨hlo, hhi⟩ := abs_le.mp hle
    refine ⟨?_, ?_, fun h => htie ?_⟩
    · exact_mod_cast show (2 * x : ℝ) ≤ 2 * (n * u) + u by rw [hu]; linarith
    · exact_mod_cast show (2 * (n * u) : ℝ) ≤ 2 * x + u by rw [hu]; linarith
    · have hpos := two_zpow_pos (k : Int)
      rcases h with h | h
      · have hR : (2 * x : ℝ) = 2 * (n * u) + u := by exact_mod_cast h
        rw [hu] at hR
        rw [abs_of_neg (by linarith)]
        linarith
      · have hR : (2 * (n * u) : ℝ) = 2 * x + u := by exact_mod_cast h
        rw [hu] at hR
        rw [abs_of_pos (by linarith)]
        linarith
  · obtain ⟨hlo, hhi⟩ := (roundedTo_towardZero hz).mp h
    constructor
    · exact_mod_cast show (n * u : ℝ) ≤ x by rw [hu]; linarith
    · exact_mod_cast show (x : ℝ) < (n + 1) * u by rw [hu]; linarith
  · obtain ⟨hlo, hhi⟩ := (roundedTo_away ha).mp h
    constructor
    · exact_mod_cast show (x : ℝ) ≤ n * u by rw [hu]; linarith
    · exact_mod_cast show (n * u : ℝ) < x + u by rw [hu]; linarith

/-- A sticky magnitude stands for one with a half beyond it. -/
theorem truncates_halves (m : Nat) (e : Int) (sticky : Bool) : Truncates m e sticky (((2 * m + sticky.toNat : Nat) : ℝ) / 2 * 2 ^ e) := by
  have he := two_zpow_pos e
  cases sticky
  · have hx : ((2 * m + false.toNat : Nat) : ℝ) / 2 * 2 ^ e = m * 2 ^ e := by simp
    rw [hx]
    exact truncates_exact m e
  · have hx : ((2 * m + true.toNat : Nat) : ℝ) / 2 = m + 1 / 2 := by simp; ring
    rw [hx]
    exact ⟨by nlinarith, by nlinarith, iff_of_true rfl (by nlinarith)⟩

theorem roundingResults : RoundingResults := by
  refine ⟨?_, fun f hf env x neg m q hftz hx h => roundPack_unpack hf hftz hx h⟩
  intro rm neg m e sticky k hk n x u
  obtain ⟨hround, hinexact⟩ := roundAt_roundedTo (rm := rm) (neg := neg) (q := k + e) (truncates_halves m e sticky) fun _ => by omega
  rw [roundedTo_scale] at hround
  rw [zpow_add₀ two_ne_zero, ← mul_assoc, Ne, mul_left_inj' (two_zpow_pos e).ne', add_comm (k : Int)] at hinexact
  rw [add_comm (k : Int)] at hround
  obtain ⟨hdvd, hnear, hzero, haway⟩ := roundedTo_halves hround
  exact ⟨hinexact.trans hdvd, hnear, hzero, haway⟩

end Sys2Proof.Laws
end

section
/-!
The arithmetic of floats in terms of reals: sums, products, quotients, roots, comparisons and the special operands (R108 to R118, R369,
R371, R381 to R392).
-/

namespace Sys2Proof.Laws

open Sys2Proof.Machine Sys2Proof.Claims

/-! ## One rounding of a result -/

section Results

variable {f : Fmt} {env : FpEnv} {neg zero : Bool} {m : Nat} {e : Int} {x : ℝ} {r : FRes}

theorem realOf_eq (n : Bool) (m : Nat) (e : Int) : realOf n m e = if n then -((m : ℝ) * 2 ^ e) else (m : ℝ) * 2 ^ e := by
  cases n <;> simp [realOf]

theorem realOf_false (m : Nat) (e : Int) : realOf false m e = (m : ℝ) * 2 ^ e := by simp [realOf_eq]

theorem realOf_pos {m : Nat} (hm : m ≠ 0) (e : Int) : 0 < realOf false m e := by
  rw [realOf_false]
  exact mul_pos (by exact_mod_cast Nat.pos_of_ne_zero hm) (two_zpow_pos e)

theorem realOf_not (n : Bool) (m : Nat) (e : Int) : realOf (!n) m e = -realOf n m e := by
  cases n <;> simp [realOf_eq]

@[simp] theorem realOf_zero (n : Bool) (e : Int) : realOf n 0 e = 0 := by simp [realOf]

theorem realOf_mul (n z : Bool) (m k : Nat) (e d : Int) : realOf (n != z) (m * k) (e + d) = realOf n m e * realOf z k d := by
  rw [realOf, realOf, realOf, zpow_add₀ two_ne_zero]
  cases n <;> cases z <;> push_cast <;> simp <;> ring

/-- A whole number of units, as its sign and magnitude. -/
theorem realOf_natAbs (v : Int) (e : Int) : realOf (v < 0) v.natAbs e = v * 2 ^ e := by
  rw [realOf_eq, Nat.cast_natAbs, Int.cast_abs]
  by_cases hneg : v < 0
  · have hR : (v : ℝ) < 0 := by exact_mod_cast hneg
    simp [hneg, abs_of_neg hR]
  · have hR : (0 : ℝ) ≤ v := by exact_mod_cast not_lt.mp hneg
    simp [hneg, abs_of_nonneg hR]

/-- A result of a sign and a positive magnitude, rounded once. -/
theorem resultIs_signed (hx : 0 < x) (h : RoundsOnce f env neg x r) : ResultIs f env (if neg then -x else x) zero r := by
  cases neg
  · exact ⟨fun _ => h, fun hlt => absurd hlt (not_lt.mpr hx.le), fun heq => absurd heq hx.ne'⟩
  · refine ⟨fun hlt => absurd hlt (by simp [hx.le]), fun _ => ?_, fun heq => absurd heq (by simp [hx.ne'])⟩
    simpa using h

/-- An exact value, rounded once. -/
theorem resultIs_roundPack (hf : IsFormat f) (hz : m = 0 → neg = zero) : ResultIs f env (realOf neg m e) zero (roundPack f env neg m e false) := by
  by_cases hm : m = 0
  · rw [hm, roundPack_zero, realOf_zero, hz hm]
    exact ⟨fun h => absurd h (lt_irrefl _), fun h => absurd h (lt_irrefl _), fun _ => rfl⟩
  · rw [realOf_eq, ← realOf_false]
    exact resultIs_signed (realOf_pos hm e) (roundPack_roundsOnce hf (realOf_false m e ▸ truncates_exact m e) hm (by simp))

/-- A value rounded down with places to spare, rounded once. -/
theorem resultIs_of_truncates (hf : IsFormat f) {sticky : Bool} (hx : Truncates m e sticky x) (hlen : f.mbits + 1 < bitLen m) :
    ResultIs f env (if neg then -x else x) zero (roundPack f env neg m e sticky) := by
  have hm : m ≠ 0 := by rintro rfl; simp [bitLen] at hlen
  have hpos : 0 < x := lt_of_lt_of_le (realOf_false m e ▸ realOf_pos hm e) hx.le
  exact resultIs_signed hpos (roundPack_roundsOnce hf hx hm fun _ => hlen)

end Results

/-! ## Sums and products -/

section Sums

variable {f : Fmt} {env : FpEnv} {an bn : Bool} {am bm : Nat} {ae be : Int}

/-- A signed magnitude in units of 2^e, at or below its own place. -/
def unitsAt (n : Bool) (m : Nat) (k e : Int) : Int := if n then -(shiftBy m (k - e) : Int) else shiftBy m (k - e)

theorem unitsAt_mul (n : Bool) (m : Nat) {k e : Int} (h : e ≤ k) : (unitsAt n m k e : ℝ) * 2 ^ e = realOf n m k := by
  obtain ⟨s, rfl⟩ := Int.le.dest h
  rw [unitsAt, add_sub_cancel_left, shiftBy_natCast, realOf_eq, zpow_add₀ two_ne_zero, zpow_natCast, mul_comm ((2 : ℝ) ^ e), ← mul_assoc]
  cases n <;> simp

/-- The sum that `addFin` gives is exact, and has the sign of R369 where it is zero. -/
theorem addFin_eq (rm : Rm) (an : Bool) (am : Nat) (ae : Int) (bn : Bool) (bm : Nat) (be : Int) :
    let r := addFin rm an am ae bn bm be
    realOf r.1 r.2.1 r.2.2 = realOf an am ae + realOf bn bm be ∧ (r.2.1 = 0 → r.1 = zeroSum rm an bn) := by
  have hsum : ((unitsAt an am ae (min ae be) + unitsAt bn bm be (min ae be) : Int) : ℝ) * 2 ^ min ae be = realOf an am ae + realOf bn bm be := by
    rw [Int.cast_add, add_mul, unitsAt_mul _ _ (min_le_left _ _), unitsAt_mul _ _ (min_le_right _ _)]
  have hadd : addFin rm an am ae bn bm be = let s : Int := unitsAt an am ae (min ae be) + unitsAt bn bm be (min ae be)
      if s = 0 then (zeroSum rm an bn, 0, min ae be) else (s < 0, s.natAbs, min ae be) := rfl
  rw [hadd, ← hsum]
  generalize unitsAt an am ae (min ae be) + unitsAt bn bm be (min ae be) = s
  dsimp only
  split
  · rename_i h
    exact ⟨by rw [h]; simp, fun _ => rfl⟩
  · rename_i h
    exact ⟨realOf_natAbs s _, fun h0 => absurd (Int.natAbs_eq_zero.mp h0) h⟩

theorem resultIs_addFin (hf : IsFormat f) : let r := addFin env.rm an am ae bn bm be
    ResultIs f env (realOf an am ae + realOf bn bm be) (zeroSum env.rm an bn) (roundPack f env r.1 r.2.1 r.2.2 false) := by
  obtain ⟨hsum, hzero⟩ := addFin_eq env.rm an am ae bn bm be
  rw [← hsum]
  exact resultIs_roundPack hf hzero

end Sums

/-! ## Quotients and roots -/

section Quotients

variable {f : Fmt} {env : FpEnv}

/-- A quotient of whole numbers, rounded down. -/
theorem truncates_div (n : Nat) {d : Nat} (hd : d ≠ 0) (e : Int) : Truncates (n / d) e (n % d != 0) ((n : ℝ) / d * 2 ^ e) := by
  have he := two_zpow_pos e
  have hdpos : (0 : ℝ) < d := by exact_mod_cast Nat.pos_of_ne_zero hd
  have hsplit : (n : ℝ) = d * (n / d : Nat) + (n % d : Nat) := by exact_mod_cast (Nat.div_add_mod n d).symm
  have hmod : ((n % d : Nat) : ℝ) < d := by exact_mod_cast Nat.mod_lt n (Nat.pos_of_ne_zero hd)
  refine ⟨?_, ?_, ?_⟩
  · rw [mul_le_mul_iff_left₀ he, le_div_iff₀ hdpos]
    linarith [Nat.cast_nonneg (α := ℝ) (n % d)]
  · rw [mul_lt_mul_iff_left₀ he, div_lt_iff₀ hdpos]
    linarith
  · rw [bne_iff_ne, Ne, Ne, mul_left_inj' he.ne', eq_div_iff hdpos.ne', ← Nat.cast_eq_zero (R := ℝ)]
    exact not_congr ⟨fun h => by linarith, fun h => by linarith⟩

theorem resultIs_div (hf : IsFormat f) {an bn zero : Bool} {am bm : Nat} {ae be : Int} (hb : bm ≠ 0) (hz : am = 0 → zero = (an != bn)) :
    ResultIs f env (realOf an am ae / realOf bn bm be) zero (fDivV f env (.fin an am ae) (.fin bn bm be)) := by
  by_cases ha : am = 0
  · subst ha
    have hres : fDivV f env (.fin an 0 ae) (.fin bn bm be) = { code := signBit f zero, flags := 0 } := by simp [fDivV, hb, signV, hz rfl]
    rw [hres, realOf_zero, zero_div]
    exact ⟨fun h => absurd h (lt_irrefl _), fun h => absurd h (lt_irrefl _), fun _ => rfl⟩
  · have hval : realOf an am ae / realOf bn bm be = if an != bn then -(((am * 2 ^ (bitLen bm + f.mbits + 4) : Nat) : ℝ) / bm *
        2 ^ (ae - be - (bitLen bm + f.mbits + 4 : Nat))) else ((am * 2 ^ (bitLen bm + f.mbits + 4) : Nat) : ℝ) / bm *
        2 ^ (ae - be - (bitLen bm + f.mbits + 4 : Nat)) := by
      have hb' : (bm : ℝ) ≠ 0 := by exact_mod_cast hb
      rw [realOf_eq, realOf_eq, zpow_sub₀ two_ne_zero, zpow_sub₀ two_ne_zero, zpow_natCast]
      push_cast
      cases an <;> cases bn <;> simp <;> field_simp
    have hlen : f.mbits + 1 < bitLen (am * 2 ^ (bitLen bm + f.mbits + 4) / bm) := by
      rw [lt_bitLen_iff, Nat.le_div_iff_mul_le (Nat.pos_of_ne_zero hb)]
      calc 2 ^ (f.mbits + 1) * bm ≤ 2 ^ (f.mbits + 1) * 2 ^ bitLen bm := Nat.mul_le_mul_left _ (bitLen_le_iff.mp le_rfl).le
        _ = 2 ^ (bitLen bm + f.mbits + 1) := by rw [← pow_add]; congr 1; omega
        _ ≤ 2 ^ (bitLen bm + f.mbits + 4) := Nat.pow_le_pow_right two_pos (by omega)
        _ ≤ am * 2 ^ (bitLen bm + f.mbits + 4) := Nat.le_mul_of_pos_left _ (Nat.pos_of_ne_zero ha)
    have hres := resultIs_of_truncates (env := env) (neg := an != bn) (zero := zero) hf (truncates_div _ hb (ae - be - (bitLen bm + f.mbits + 4 : Nat))) hlen
    rw [← hval] at hres
    simpa only [fDivV, if_neg hb, if_neg ha, signV] using hres

/-- `isqrtFrom` finds the root, bit by bit: it keeps it between acc and acc + 2^(k + 1). -/
theorem isqrtFrom_spec (n k acc : Nat) (hlo : acc * acc ≤ n) (hhi : n < (acc + 2 ^ (k + 1)) * (acc + 2 ^ (k + 1))) :
    isqrtFrom n k acc * isqrtFrom n k acc ≤ n ∧ n < (isqrtFrom n k acc + 1) * (isqrtFrom n k acc + 1) := by
  induction k generalizing acc with
  | zero =>
    rw [isqrtFrom]
    split
    · rename_i h
      exact ⟨h, hhi⟩
    · rename_i h
      exact ⟨hlo, not_le.mp h⟩
  | succ k ih =>
    rw [isqrtFrom]
    refine ih _ ?_ ?_
    · split
      · assumption
      · exact hlo
    · split
      · rwa [pow_succ 2 (k + 1), Nat.mul_two, ← Nat.add_assoc] at hhi
      · rename_i h
        exact not_le.mp h

theorem isqrt_spec (n : Nat) : isqrt n * isqrt n ≤ n ∧ n < (isqrt n + 1) * (isqrt n + 1) := by
  refine isqrtFrom_spec n _ 0 (Nat.zero_le n) ?_
  rw [Nat.zero_add, ← pow_add]
  exact (bitLen_le_iff.mp (le_refl (bitLen n))).trans_le (Nat.pow_le_pow_right two_pos (by omega))

/-- The root of a power's multiple has as many places as half the power. -/
theorem lt_bitLen_isqrt {n k : Nat} (h : 2 ^ (2 * k) ≤ n) : k < bitLen (isqrt n) := by
  rw [lt_bitLen_iff]
  by_contra hlt
  have hle : isqrt n + 1 ≤ 2 ^ k := not_le.mp hlt
  have hsq := Nat.mul_le_mul hle hle
  rw [← pow_add, ← two_mul] at hsq
  exact absurd ((isqrt_spec n).2.trans_le hsq) (not_lt.mpr h)

/-- A root, rounded down, in units of 2^e. -/
theorem truncates_sqrt {r : Nat} {y : ℝ} {sticky : Bool} (hlo : (r * r : ℝ) ≤ y) (hhi : y < (r + 1) * (r + 1))
    (hs : sticky = true ↔ (r * r : ℝ) ≠ y) (e : Int) : Truncates r e sticky (√y * 2 ^ e) := by
  have he := two_zpow_pos e
  have hr : (0 : ℝ) ≤ r := Nat.cast_nonneg r
  have hy : 0 ≤ y := (mul_nonneg hr hr).trans hlo
  refine ⟨?_, ?_, ?_⟩
  · rw [mul_le_mul_iff_left₀ he]
    exact Real.le_sqrt_of_sq_le (by rwa [sq])
  · rw [mul_lt_mul_iff_left₀ he, Real.sqrt_lt' (by linarith), sq]
    exact hhi
  · rw [hs, Ne, Ne, mul_left_inj' he.ne']
    refine not_congr ⟨fun h => ?_, fun h => ?_⟩
    · rw [← h, Real.sqrt_mul_self hr]
    · rw [h, Real.mul_self_sqrt hy]

theorem sqrt_sq_mul (x : ℝ) (j : Int) : √(x * 2 ^ (2 * j)) = √x * 2 ^ j := by
  rw [mul_comm 2 j, zpow_mul, zpow_ofNat, Real.sqrt_mul' x (sq_nonneg _), Real.sqrt_sq (two_zpow_pos j).le]

theorem resultIs_sqrt (hf : IsFormat f) {m : Nat} (hm : m ≠ 0) (e : Int) :
    ResultIs f env (√(realOf false m e)) false (fSqrtV f env (.fin false m e)) := by
  obtain ⟨k, hk⟩ : ∃ k, k = 2 * (f.mbits + 4) + if (e - 2 * (f.mbits + 4 : Int)) % 2 = 0 then 0 else 1 := ⟨_, rfl⟩
  obtain ⟨j, hj⟩ : ∃ j, e - k = 2 * j := ⟨(e - k) / 2, by rw [hk]; split <;> omega⟩
  have hroot : √(realOf false m e) = √((m * 2 ^ k : Nat) : ℝ) * 2 ^ j := by
    rw [realOf_false, ← sqrt_sq_mul, ← hj, zpow_sub₀ two_ne_zero, zpow_natCast]
    push_cast
    field_simp
  have hlen : f.mbits + 1 < bitLen (isqrt (m * 2 ^ k)) := lt_bitLen_isqrt <| calc
    2 ^ (2 * (f.mbits + 1)) ≤ 2 ^ k := Nat.pow_le_pow_right two_pos (by omega)
    _ ≤ m * 2 ^ k := Nat.le_mul_of_pos_left _ (Nat.pos_of_ne_zero hm)
  have htrunc : Truncates (isqrt (m * 2 ^ k)) j (isqrt (m * 2 ^ k) * isqrt (m * 2 ^ k) != m * 2 ^ k) (√((m * 2 ^ k : Nat) : ℝ) * 2 ^ j) := by
    obtain ⟨hlo, hhi⟩ := isqrt_spec (m * 2 ^ k)
    exact truncates_sqrt (by exact_mod_cast hlo) (by exact_mod_cast hhi) (by rw [bne_iff_ne]; exact_mod_cast Iff.rfl) j
  have hres := resultIs_of_truncates (env := env) (neg := false) (zero := false) hf htrunc hlen
  rw [if_neg Bool.false_ne_true, ← hroot, show j = (e - k) / 2 by omega, hk] at hres
  simpa only [fSqrtV, if_neg hm, Bool.false_eq_true, if_false] using hres

/-- The reciprocal root of a number of an even exponent. -/
theorem resultIs_rsq_even (hf : IsFormat f) {m k : Nat} (hm : m ≠ 0) (hk : k = bitLen m + f.mbits + 6) (j : Int) :
    ResultIs f env (1 / √(m * 2 ^ (2 * j))) false (roundPack f env false (isqrt (2 ^ (2 * k) / m)) (-j - k)
      (isqrt (2 ^ (2 * k) / m) * isqrt (2 ^ (2 * k) / m) * m != 2 ^ (2 * k))) := by
  have hmpos : (0 : ℝ) < m := by exact_mod_cast Nat.pos_of_ne_zero hm
  have hroot : 1 / √(m * 2 ^ (2 * j)) = √(((2 ^ (2 * k) : Nat) : ℝ) / m) * 2 ^ (-j - k) := by
    have hsq : √(((2 ^ (2 * k) : Nat) : ℝ) / m) = 2 ^ k / √m := by
      rw [Real.sqrt_div (Nat.cast_nonneg _), Nat.cast_pow, Nat.cast_ofNat, mul_comm, pow_mul, Real.sqrt_sq (by positivity)]
    rw [sqrt_sq_mul, hsq, zpow_sub₀ two_ne_zero, zpow_neg, zpow_natCast]
    field_simp
  obtain ⟨hlo, hhi⟩ := isqrt_spec (2 ^ (2 * k) / m)
  generalize hr : isqrt (2 ^ (2 * k) / m) = r at hlo hhi ⊢
  have hlen : f.mbits + 1 < bitLen r := hr ▸ lt_bitLen_isqrt <| by
    rw [Nat.le_div_iff_mul_le (Nat.pos_of_ne_zero hm)]
    calc 2 ^ (2 * (f.mbits + 1)) * m ≤ 2 ^ (2 * (f.mbits + 1)) * 2 ^ bitLen m := Nat.mul_le_mul_left _ (bitLen_le_iff.mp le_rfl).le
      _ = 2 ^ (2 * (f.mbits + 1) + bitLen m) := (pow_add _ _ _).symm
      _ ≤ 2 ^ (2 * k) := Nat.pow_le_pow_right two_pos (by omega)
  rw [Nat.le_div_iff_mul_le (Nat.pos_of_ne_zero hm)] at hlo
  rw [Nat.div_lt_iff_lt_mul (Nat.pos_of_ne_zero hm)] at hhi
  have htrunc : Truncates r (-j - k) (r * r * m != 2 ^ (2 * k)) (√(((2 ^ (2 * k) : Nat) : ℝ) / m) * 2 ^ (-j - k)) := by
    refine truncates_sqrt ?_ ?_ ?_ _
    · rw [le_div_iff₀ hmpos]
      exact_mod_cast hlo
    · rw [div_lt_iff₀ hmpos]
      exact_mod_cast hhi
    · rw [bne_iff_ne, Ne, Ne, eq_div_iff hmpos.ne']
      exact_mod_cast Iff.rfl
  rw [hroot]
  simpa using resultIs_of_truncates (env := env) (neg := false) (zero := false) hf htrunc hlen

theorem resultIs_rsq (hf : IsFormat f) {m : Nat} (hm : m ≠ 0) (e : Int) :
    ResultIs f env (1 / √(realOf false m e)) false (fRsqV f env (.fin false m e)) := by
  rcases Int.emod_two_eq_zero_or_one e with he | he
  · have hres := resultIs_rsq_even (env := env) hf hm rfl (e / 2)
    rw [show 2 * (e / 2) = e by omega, ← realOf_false] at hres
    simpa only [fRsqV, if_neg hm, Bool.false_eq_true, if_false, he, if_true] using hres
  · have hres := resultIs_rsq_even (env := env) hf (m := m * 2) (by omega) rfl ((e - 1) / 2)
    have hval : ((m * 2 : Nat) : ℝ) * 2 ^ (2 * ((e - 1) / 2)) = realOf false m e := by
      rw [show 2 * ((e - 1) / 2) = e - 1 by omega, realOf_false, zpow_sub₀ two_ne_zero, zpow_one]
      push_cast
      field_simp
    rw [hval] at hres
    simpa only [fRsqV, if_neg hm, Bool.false_eq_true, if_false, if_neg (show ¬e % 2 = 0 by omega)] using hres

end Quotients

/-! ## Order -/

section Order

variable {a b : FVal}

/-- The order of values is that of the extended reals. -/
theorem ltV_iff (ha : isNan a = false) (hb : isNan b = false) : ltV a b = true ↔ extReal a < extReal b := by
  match a, b with
  | .nan _, _ => cases ha
  | _, .nan _ => cases hb
  | .inf x, .inf y => cases x <;> cases y <;> simp [ltV, extReal]
  | .inf x, .fin bn bm be => cases x <;> simp [ltV, extReal]
  | .fin an am ae, .inf y => cases y <;> simp [ltV, extReal]
  | .fin an am ae, .fin bn bm be =>
    have hlt : ltV (.fin an am ae) (.fin bn bm be) = decide (unitsAt an am ae (min ae be) < unitsAt bn bm be (min ae be)) := rfl
    rw [hlt, decide_eq_true_iff, extReal, extReal, EReal.coe_lt_coe_iff, ← unitsAt_mul an am (min_le_left ae be),
      ← unitsAt_mul bn bm (min_le_right ae be), mul_lt_mul_iff_left₀ (two_zpow_pos _), Int.cast_lt]

theorem eqV_iff (ha : isNan a = false) (hb : isNan b = false) : eqV a b = true ↔ extReal a = extReal b := by
  simp only [eqV, ha, hb, Bool.not_false, Bool.true_and, Bool.and_eq_true, Bool.not_eq_true', ← Bool.not_eq_true, ltV_iff ha hb, ltV_iff hb ha]
  exact ⟨fun h => le_antisymm (not_lt.mp h.2) (not_lt.mp h.1), fun h => by simp [h]⟩

/-- A binary32 operand that is no NaN has its value as its code, and no flag. -/
theorem codeV_operand {e : FpEnv} {x : Word} (hftz : e.ftz = false) (h : isNan (operand e x) = false) :
    unpack f32 false (codeV f32 e (operand e x)).code = operand e x ∧ (codeV f32 e (operand e x)).flags = 0 := by
  have hf : IsFormat f32 := .inl rfl
  obtain ⟨neg, ex, ma, hex, hma, hx⟩ := exists_codeOf (f := f32) (x := x.toNat) x.isLt
  have hval := unpack_codeOf neg e.daz hex hma
  have hzero : unpack f32 false (codeOf f32 neg 0 0) = .fin neg 0 (leastPlace f32) := unpack_codeOf neg false (by decide) (by decide)
  rw [operand, hx] at h ⊢
  by_cases hspecial : ex = expMax f32
  · rw [hval, if_pos hspecial] at h ⊢
    split at h
    · rename_i hma0
      rw [if_pos hma0, codeV]
      refine ⟨?_, rfl⟩
      have hinf : infCode f32 neg = codeOf f32 neg (expMax f32) 0 := rfl
      rw [hinf, unpack_codeOf neg false (by decide) (by decide), if_pos rfl, if_pos rfl]
    · cases h
  by_cases hsub : ex = 0 ∧ e.daz = true
  · rw [hval, if_neg hspecial, if_pos hsub.1, if_pos hsub.2, codeV, roundPack_zero]
    exact ⟨hzero, rfl⟩
  · have hsame : unpack f32 e.daz (codeOf f32 neg ex ma) = unpack f32 false (codeOf f32 neg ex ma) := by
      rw [hval, unpack_codeOf neg false hex hma]
      by_cases h0 : ex = 0
      · simp only [h0, true_and, Bool.not_eq_true] at hsub
        simp [h0, hsub]
      · simp [h0]
    rw [hsame] at h ⊢
    obtain ⟨n, m, k, hfin⟩ : ∃ n m k, unpack f32 false (codeOf f32 neg ex ma) = .fin n m k := by
      rw [unpack_codeOf neg false hex hma, if_neg hspecial]
      split <;> exact ⟨_, _, _, rfl⟩
    rw [hfin, codeV, roundPack_unpack hf hftz (hx ▸ x.isLt) hfin]
    exact ⟨hfin, rfl⟩

theorem not_isSnan_of_not_isNan (h : isNan a = false) : isSnan a = false := by cases a <;> simp_all [isNan, isSnan]

theorem isNan_of_isSnan (h : isSnan a = true) : isNan a = true := by cases a <;> simp_all [isNan, isSnan]

end Order

/-- The operand that a minimum or a maximum gives (R109, R391). -/
def minMaxPick (most : Bool) (a b : FVal) : FVal :=
  if isNan a then b
  else if isNan b then a
  else if most then (if ltV a b || (eqV a b && signV a && !signV b) then b else a)
  else if ltV a b || (eqV a b && signV a && !signV b) then a else b

theorem fMinMaxV_eq (f : Fmt) (e : FpEnv) (most : Bool) (a b : FVal) : fMinMaxV f e most a b =
    { code := (codeV f e (minMaxPick most a b)).code
      flags := (codeV f e (minMaxPick most a b)).flags ||| if isSnan a || isSnan b then fNV else 0 } := rfl

theorem minMaxPick_cases (most : Bool) (a b : FVal) : minMaxPick most a b = a ∨ minMaxPick most a b = b := by
  unfold minMaxPick
  split_ifs <;> simp

/-- Of two numbers the pick goes by their order, −0 below +0. -/
theorem minMaxPick_numbers {a b : FVal} (ha : isNan a = false) (hb : isNan b = false) (most : Bool) :
    let less : Prop := extReal a < extReal b ∨ (extReal a = extReal b ∧ signV a = true ∧ signV b = false)
    (less → minMaxPick most a b = if most = true then b else a) ∧ (¬less → minMaxPick most a b = if most = true then a else b) := by
  intro less
  have hless : (ltV a b || (eqV a b && signV a && !signV b)) = true ↔ less := by
    simp only [Bool.or_eq_true, Bool.and_eq_true, Bool.not_eq_true', ltV_iff ha hb, eqV_iff ha hb, and_assoc, less]
  rw [minMaxPick, ha, hb, if_neg Bool.false_ne_true, if_neg Bool.false_ne_true]
  exact ⟨fun h => by rw [if_pos (hless.mpr h), if_pos (hless.mpr h)], fun h => by rw [if_neg (mt hless.mp h), if_neg (mt hless.mp h)]⟩

/-- The minimum and the maximum of binary32 operands (R109). -/
theorem minMax_values (e : FpEnv) (most : Bool) (x y : Word) (hftz : e.ftz = false) :
    let a := operand e x
    let b := operand e y
    let r := fMinMaxV f32 e most a b
    let less : Prop := extReal a < extReal b ∨ (extReal a = extReal b ∧ signV a = true ∧ signV b = false)
    (r.flags = if isSnan a = true ∨ isSnan b = true then 1 else 0) ∧
    (isNan a = true → isNan b = true → r.code = 0x7FC00000) ∧
    (isNan a = true → isNan b = false → unpack f32 false r.code = b) ∧ (isNan a = false → isNan b = true → unpack f32 false r.code = a) ∧
    (isNan a = false → isNan b = false → (less → unpack f32 false r.code = if most = true then b else a) ∧
      (¬less → unpack f32 false r.code = if most = true then a else b)) := by
  intro a b r less
  have hcode {p : FVal} (h : minMaxPick most a b = p) (hp : p = a ∨ p = b) (hn : isNan p = false) : unpack f32 false r.code = p := by
    show unpack f32 false (codeV f32 e (minMaxPick most a b)).code = p
    rw [h]
    rcases hp with rfl | rfl <;> exact (codeV_operand hftz hn).1
  have hflags : (codeV f32 e (minMaxPick most a b)).flags = 0 := by
    have hop (z : Word) : (codeV f32 e (operand e z)).flags = 0 := by
      cases hz : operand e z with
      | nan s => rfl
      | inf n => rfl
      | fin n m k => exact hz ▸ (codeV_operand hftz (by rw [hz]; rfl)).2
    rcases minMaxPick_cases most a b with h | h <;> rw [h] <;> exact hop _
  refine ⟨?flags, fun ha hb => ?nans, fun ha hb => ?leftNan, fun ha hb => ?rightNan, fun ha hb => ?numbers⟩
  case flags =>
    show (codeV f32 e (minMaxPick most a b)).flags ||| _ = _
    rw [hflags]
    cases isSnan a <;> cases isSnan b <;> rfl
  case nans =>
    have hpick : minMaxPick most a b = b := if_pos ha
    show (codeV f32 e (minMaxPick most a b)).code = _
    rw [hpick]
    cases hb' : b with
    | nan s => rfl
    | inf n => rw [hb'] at hb; cases hb
    | fin n m k => rw [hb'] at hb; cases hb
  case leftNan => exact hcode (if_pos ha) (.inr rfl) hb
  case rightNan => exact hcode ((if_neg (by simp [ha])).trans (if_pos hb)) (.inl rfl) ha
  case numbers =>
    obtain ⟨hless, hnot⟩ := minMaxPick_numbers ha hb most
    cases most
    · exact ⟨fun h => hcode (hless h) (.inl rfl) ha, fun h => hcode (hnot h) (.inr rfl) hb⟩
    · exact ⟨fun h => hcode (hless h) (.inr rfl) hb, fun h => hcode (hnot h) (.inl rfl) ha⟩

theorem floatArithmeticValues : FloatArithmeticValues := by
  refine ⟨?_, minMax_values⟩
  intro f hf e an am ae bn bm be a b zero
  refine ⟨?sum, ?product, fun hb => ?quotient, fun cn cm ce => ?fused, fun ha => ⟨?root, ?reciprocalRoot⟩⟩
  case sum => exact resultIs_addFin hf
  case product =>
    rw [← realOf_mul]
    exact resultIs_roundPack hf fun _ => rfl
  case quotient => exact resultIs_div hf hb fun _ => rfl
  case fused =>
    rw [← realOf_mul]
    exact resultIs_addFin hf
  case root => exact resultIs_sqrt hf ha ae
  case reciprocalRoot => exact resultIs_rsq hf ha ae

/-! ## Special operands -/

section Specials

variable {f : Fmt} {e : FpEnv} {a b c : FVal}

/-- Any NaN among the operands of an operation gives the canonical one, with NV for a signalling one (R108). -/
theorem fAddV_nan (h : isNan a = true ∨ isNan b = true) : fAddV f e a b = nanRes f (isSnan a || isSnan b) := by
  cases a <;> cases b <;> simp_all [isNan, fAddV]

theorem fMulV_nan (h : isNan a = true ∨ isNan b = true) : fMulV f e a b = nanRes f (isSnan a || isSnan b) := by
  cases a <;> cases b <;> simp_all [isNan, fMulV]

theorem fDivV_nan (h : isNan a = true ∨ isNan b = true) : fDivV f e a b = nanRes f (isSnan a || isSnan b) := by
  cases a <;> cases b <;> simp_all [isNan, fDivV]

theorem fFmaV_nan (h : isNan a = true ∨ isNan b = true) : fFmaV f e a b c = nanRes f (isSnan a || isSnan b || isSnan c) := by
  cases a <;> cases b <;> simp_all [isNan, fFmaV]

/-- An infinite operand of a product that is fused with a sum meets no zero: the product is infinite, and so is the sum unless the addend is
the other infinity. -/
theorem fmaInf_number {z : Bool} (nv : Bool) :
    (c = .inf (!z) → fFmaV.fmaInf f z nv c = nanRes f true) ∧
      (isNan c = false → c ≠ .inf (!z) → fFmaV.fmaInf f z nv c = { code := infCode f z, flags := 0 }) := by
  cases c with
  | nan s => simp [isNan]
  | inf y => cases y <;> cases z <;> simp [fFmaV.fmaInf]
  | fin n m k => simp [fFmaV.fmaInf]

theorem fFmaV_inf_left {n : Bool} (hb : isNan b = false) (hz : isZeroV b = false) :
    fFmaV f e (.inf n) b c = fFmaV.fmaInf f (n != signV b) (isSnan c) c := by
  cases b with
  | nan s => cases hb
  | inf y => rfl
  | fin y m k => simp only [fFmaV, hz]; rfl

theorem fFmaV_inf_right {n : Bool} (ha : isNan a = false) (hz : isZeroV a = false) :
    fFmaV f e a (.inf n) c = fFmaV.fmaInf f (n != signV a) (isSnan c) c := by
  rw [bne_comm]
  cases a with
  | nan s => cases ha
  | inf y => rfl
  | fin y m k => simp only [fFmaV, hz]; rfl

theorem isZeroV_fin {n : Bool} {m : Nat} {x : Int} (hm : m ≠ 0) : isZeroV (.fin n m x) = false := by
  cases m with
  | zero => exact absurd rfl hm
  | succ m => rfl

/-- A signalling NaN as the addend of numbers gives NV, whether or not the product is infinity times zero. -/
theorem fFmaV_addend_snan (ha : isNan a = false) (hb : isNan b = false) (hc : isSnan c = true) : fFmaV f e a b c = nanRes f true := by
  obtain rfl : c = .nan true := by cases c <;> simp_all [isSnan]
  match a, b with
  | .nan _, _ => cases ha
  | _, .nan _ => cases hb
  | .inf x, .inf y => rfl
  | .fin x m k, .fin y l d => rfl
  | .inf x, .fin y l d => cases hz : isZeroV (.fin y l d) <;> simp only [fFmaV, hz] <;> rfl
  | .fin x m k, .inf y => cases hz : isZeroV (.fin x m k) <;> simp only [fFmaV, hz] <;> rfl

theorem floatSpecialOperands : FloatSpecialOperands := by
  intro f hf e a b c invalid quiet infinite
  refine ⟨fun n => ⟨?sumUnlike, ?differenceLike, ?sumLike⟩, fun n z m x => ⟨rfl, rfl⟩, fun n z x => ⟨rfl, rfl, rfl, rfl⟩,
    fun n z m x hm => ⟨?productLeft, ?productRight⟩, fun n z => ⟨rfl, rfl⟩, ?fmaInf, fun n z m x k y w => rfl,
    fun n z m x k y => ⟨rfl, rfl, rfl, fun hm => ?byZero, fun hk => ?zeroBy⟩, fun m x hm => ⟨?sqrtNegative, ?rsqNegative⟩, rfl, rfl, rfl, rfl,
    fun n x => ⟨rfl, rfl⟩, fun h => ?signalling, fun h ha hb => ?quietNan, fun r hr => ?rootNan, fun h => ?fmaSignalling,
    fun h ha hb hc => ?fmaQuiet, fun ha hb hc hsa hsb hsc => ?fmaAddendNan⟩
  case sumUnlike => cases n <;> rfl
  case differenceLike => cases n <;> rfl
  case sumLike => cases n <;> rfl
  case productLeft =>
    simp only [fMulV, isZeroV_fin hm]
    rfl
  case productRight =>
    simp only [fMulV, isZeroV_fin hm]
    exact congrArg infinite (bne_comm (a := z))
  case fmaInf =>
    intro x hx hz n z p hp
    have hinf : p = fFmaV.fmaInf f z (isSnan c) c := hp.elim (·.trans (fFmaV_inf_left hx hz)) (·.trans (fFmaV_inf_right hx hz))
    rw [hinf]
    exact fmaInf_number _
  case byZero => simp only [fDivV, if_true, if_neg hm]; rfl
  case zeroBy => simp only [fDivV, if_true, if_neg hk]; rfl
  case sqrtNegative => simp only [fSqrtV, if_neg hm, if_true]; rfl
  case rsqNegative => simp only [fRsqV, if_neg hm, if_true]; rfl
  case signalling =>
    have hnan := h.imp isNan_of_isSnan isNan_of_isSnan
    have hs : (isSnan a || isSnan b) = true := by simpa using h
    rw [fAddV_nan hnan, fMulV_nan hnan, fDivV_nan hnan, hs]
    exact ⟨rfl, rfl, rfl⟩
  case quietNan =>
    rw [fAddV_nan h, fMulV_nan h, fDivV_nan h, ha, hb]
    exact ⟨rfl, rfl, rfl⟩
  case rootNan =>
    cases a with
    | nan s =>
      obtain rfl : r = nanRes f s := hr.elim id id
      exact ⟨fun h => congrArg (nanRes f) h, fun _ h => congrArg (nanRes f) h⟩
    | inf n => exact ⟨fun h => absurd h (by simp [isSnan]), fun h => absurd h (by simp [isNan])⟩
    | fin n m k => exact ⟨fun h => absurd h (by simp [isSnan]), fun h => absurd h (by simp [isNan])⟩
  case fmaSignalling =>
    by_cases hnan : isNan a = true ∨ isNan b = true
    · have hs : (isSnan a || isSnan b || isSnan c) = true := by simpa [or_assoc] using h
      rw [fFmaV_nan hnan, hs]
      rfl
    · obtain ⟨ha, hb⟩ := not_or.mp hnan
      have hc : isSnan c = true := (h.resolve_left (mt isNan_of_isSnan ha)).resolve_left (mt isNan_of_isSnan hb)
      exact fFmaV_addend_snan (Bool.eq_false_iff.mpr ha) (Bool.eq_false_iff.mpr hb) hc
  case fmaQuiet =>
    rw [fFmaV_nan h, ha, hb, hc]
    rfl
  case fmaAddendNan =>
    by_cases hnan : isNan a = true ∨ isNan b = true
    · rw [fFmaV_nan hnan, hsa, hsb, hsc]
      rfl
    · obtain ⟨hna, hnb⟩ := not_or.mp hnan
      match a, b, c with
      | .nan _, _, _ => exact absurd rfl hna
      | _, .nan _, _ => exact absurd rfl hnb
      | .inf x, _, _ => exact absurd rfl (ha x)
      | _, .inf y, _ => exact absurd rfl (hb y)
      | .fin x m k, .fin y l d, .nan s => cases hsc; rfl
      | .fin x m k, .fin y l d, .inf z => cases hc
      | .fin x m k, .fin y l d, .fin z n i => cases hc

end Specials

/-! ## Control fields -/

theorem rmOf_iff (c : BitVec 2) : (rmOf c = .nearest ↔ c = 0) ∧ (rmOf c = .zero ↔ c = 1) ∧ (rmOf c = .up ↔ c = 2) ∧ (rmOf c = .down ↔ c = 3) := by
  revert c
  decide

theorem floatControlFields : FloatControlFields := by
  intro g
  have hmode (k : BitVec 2) : g.fpctl.extractLsb' 0 2 = k ↔ g.fpctl.toNat % 4 = k.toNat := by
    rw [← BitVec.toNat_inj, BitVec.extractLsb'_toNat, Nat.shiftRight_zero]
  obtain ⟨hnearest, hzero, hup, hdown⟩ := rmOf_iff (g.fpctl.extractLsb' 0 2)
  exact ⟨rfl, rfl, hnearest.trans (hmode 0), hzero.trans (hmode 1), hup.trans (hmode 2), hdown.trans (hmode 3)⟩

end Sys2Proof.Laws
end

section
/-!
Comparisons, conversions, rounding to whole numbers and scaling, in terms of reals (R118, R119, R383, R385, R393, R394, R397).
-/

namespace Sys2Proof.Laws

open Sys2Proof.Machine Sys2Proof.Claims

/-! ## Comparisons -/

theorem eqV_iff_of_any (a b : FVal) : eqV a b = true ↔ ¬(isNan a = true ∨ isNan b = true) ∧ extReal a = extReal b := by
  by_cases h : isNan a = true ∨ isNan b = true
  · have hno : eqV a b = false := by rcases h with h | h <;> simp [eqV, h]
    simp [hno, h]
  · obtain ⟨ha, hb⟩ := not_or.mp h
    rw [eqV_iff (Bool.eq_false_iff.mpr ha) (Bool.eq_false_iff.mpr hb)]
    simp [h]

/-- The relations of `FCMP` (R383). -/
theorem fCmp_relates (a b : FVal) : let nan : Prop := isNan a = true ∨ isNan b = true
    let bad : Prop := isSnan a = true ∨ isSnan b = true
    let relates (rel : BitVec 2) (p : Prop) (nv : Prop) : Prop := ((fCmp rel a b).1 = true ↔ p) ∧ (nv → (fCmp rel a b).2 = 1) ∧ (¬nv → (fCmp rel a b).2 = 0)
    relates 0 (¬nan ∧ extReal a = extReal b) bad ∧ relates 1 (¬nan ∧ extReal a < extReal b) nan ∧ relates 2 (¬nan ∧ extReal a ≤ extReal b) nan ∧
      relates 3 nan bad := by
  intro nan bad relates
  have hflag {c : Bool} {p : Prop} (h : c = true ↔ p) : (p → (if c then fNV else 0) = 1) ∧ (¬p → (if c then fNV else 0) = 0) :=
    ⟨fun hp => if_pos (h.mpr hp), fun hp => if_neg (mt h.mp hp)⟩
  have hnan : (isNan a || isNan b) = true ↔ nan := by rw [Bool.or_eq_true]
  have hbad : (isSnan a || isSnan b) = true ↔ bad := by rw [Bool.or_eq_true]
  have hand {c : Bool} {p : Prop} (h : ¬nan → (c = true ↔ p)) : (!(isNan a || isNan b) && c) = true ↔ ¬nan ∧ p := by
    rw [Bool.and_eq_true, Bool.not_eq_true', ← Bool.not_eq_true, hnan]
    exact and_congr_right h
  have hnumbers (h : ¬nan) : isNan a = false ∧ isNan b = false := (not_or.mp h).imp Bool.eq_false_iff.mpr Bool.eq_false_iff.mpr
  refine ⟨⟨eqV_iff_of_any a b, hflag hbad⟩, ⟨hand fun h => ltV_iff (hnumbers h).1 (hnumbers h).2, hflag hnan⟩, ⟨hand fun h => ?_, hflag hnan⟩,
    hnan, hflag hbad⟩
  rw [Bool.not_eq_true', ← Bool.not_eq_true, ltV_iff (hnumbers h).2 (hnumbers h).1, not_lt]

/-! ## Finite values of a code -/

section Finite

variable {f : Fmt} {env : FpEnv} {neg : Bool} {m : Nat} {e : Int}

/-- What a finite value of a code is bounded by. -/
theorem unpack_bounds (hf : IsFormat f) {daz : Bool} {x : Nat} (hx : x < 2 ^ (1 + f.ebits + f.mbits)) (h : unpack f daz x = .fin neg m e) :
    m < 2 ^ (f.mbits + 1) ∧ leastPlace f ≤ e ∧ e + f.mbits ≤ fmtBias f ∧ (leastPlace f < e → 2 ^ f.mbits ≤ m) := by
  obtain ⟨hsize, hmax, hbias, -, -⟩ := isFormat_bias hf
  obtain ⟨neg', ex, ma, hex, hma, rfl⟩ := exists_codeOf hx
  have hpow := pow_succ 2 f.mbits
  rw [unpack_codeOf neg' daz hex hma] at h
  rw [leastPlace]
  by_cases hspecial : ex = expMax f
  · rw [if_pos hspecial] at h
    split at h <;> cases h
  rw [if_neg hspecial] at h
  by_cases hzero : ex = 0
  · rw [if_pos hzero] at h
    obtain ⟨-, rfl, rfl⟩ := FVal.fin.inj h
    have hm : (if daz = true then 0 else ma) ≤ ma := by split <;> omega
    exact ⟨by omega, le_rfl, by omega, fun h => absurd h (lt_irrefl _)⟩
  · rw [if_neg hzero] at h
    obtain ⟨-, rfl, rfl⟩ := FVal.fin.inj h
    exact ⟨by omega, by omega, by omega, fun _ => Nat.le_add_right _ _⟩

/-- A magnitude that no format holds overflows the same way wherever it lies. -/
theorem roundPack_overflow (hm : m ≠ 0) (h : (fmtBias f : Int) + 1 < e + bitLen m) : roundPack f env neg m e false =
    { code := if toInfinity env.rm neg then infCode f neg else maxCode f neg, flags := fOF ||| fNX } := by
  have hpos := bitLen_pos hm
  obtain ⟨q₀, hq₀⟩ : ∃ q₀ : Int, q₀ = e + bitLen m - (f.mbits + 1) := ⟨_, rfl⟩
  have hplace : max q₀ (leastPlace f) = q₀ := max_eq_left (by rw [leastPlace]; omega)
  have hlen : f.mbits < bitLen (roundAt env.rm neg m e false q₀).1 := by
    obtain ⟨hround, -⟩ := roundAt_roundedTo (rm := env.rm) (neg := neg) (q := q₀) (truncates_exact m e) (by simp)
    exact lt_bitLen_iff.mpr (le_roundedTo hround (by rw [hq₀]; exact_mod_cast (binade_of_bitLen hm f.mbits e).1))
  rw [roundPack_eq hm hq₀, hplace, packRounded, if_pos (by omega)]

/-- A magnitude below half of the least place rounds to nothing or to one unit, by its mode alone. -/
theorem roundPack_underflow (hm : m ≠ 0) (h : e + bitLen m < leastPlace f) (hf : IsFormat f) : roundPack f env neg m e false =
    packRounded f env neg true (if roundsUp env.rm neg false .lt true then 1 else 0) (leastPlace f) true := by
  obtain ⟨-, -, hbias, -, -⟩ := isFormat_bias hf
  obtain ⟨q₀, hq₀⟩ : ∃ q₀ : Int, q₀ = e + bitLen m - (f.mbits + 1) := ⟨_, rfl⟩
  obtain ⟨s, hs⟩ : ∃ s, s = (leastPlace f - e).toNat := ⟨_, rfl⟩
  have hless : m < 2 ^ (s - 1) := bitLen_le_iff.mp (by omega)
  have hless' : m < 2 ^ s := hless.trans_le (Nat.pow_le_pow_right two_pos (by omega))
  have hround : roundAt env.rm neg m e false (leastPlace f) = (if roundsUp env.rm neg false .lt true then 1 else 0, true) := by
    rw [roundAt, if_neg (by omega), ← hs]
    simp only [Nat.div_eq_of_lt hless', Nat.mod_eq_of_lt hless', if_pos hless, bne_iff_ne.mpr hm, Bool.true_or]
    rfl
  have htiny : (bitLen (roundAt env.rm neg m e false q₀).1 : Int) + q₀ ≤ 1 - (fmtBias f : Int) := by
    obtain ⟨hnear, -⟩ := roundAt_roundedTo (rm := env.rm) (neg := neg) (q := q₀) (truncates_exact m e) (by simp)
    have hle : (roundAt env.rm neg m e false q₀).1 ≤ 2 ^ (f.mbits + 1) := by
      exact roundedTo_le hnear (by rw [hq₀]; exact_mod_cast (binade_of_bitLen hm f.mbits e).2.le)
    have hlen : bitLen (roundAt env.rm neg m e false q₀).1 ≤ f.mbits + 2 :=
      bitLen_le_iff.mpr (hle.trans_lt (Nat.pow_lt_pow_right Nat.one_lt_two (by omega)))
    rw [leastPlace] at h
    omega
  rw [roundPack_eq hm hq₀, max_eq_right (by rw [leastPlace] at *; omega), hround, decide_eq_true htiny]

end Finite

/-! ## Conversions -/

theorem operand_bounds {e : FpEnv} {x : Word} {n : Bool} {m : Nat} {k : Int} (h : operand e x = .fin n m k) :
    m < 2 ^ 24 ∧ -149 ≤ k ∧ k ≤ 104 ∧ (-149 < k → 2 ^ 23 ≤ m) := by
  have hb := unpack_bounds (.inl rfl) x.isLt h
  simp only [leastPlace, f32, fmtBias] at hb
  norm_num at hb ⊢
  omega

/-- A whole rounding is what `roundAt` finds at the units, with whether it is the value. -/
theorem roundAt_whole {rm : Rm} {n : Bool} {m : Nat} {k : Int} {w : Nat} (h : RoundedTo rm n (realOf false m k) 0 w) :
    (roundAt rm n m k false 0).1 = w ∧ ((roundAt rm n m k false 0).2 = true ↔ realOf false m k ≠ w) := by
  rw [realOf_false] at h ⊢
  obtain ⟨hround, hinexact⟩ := roundAt_roundedTo (rm := rm) (neg := n) (q := 0) (truncates_exact m k) (by simp)
  have hw := roundedTo_unique hround h
  rw [hw, zpow_zero, mul_one, ne_comm] at hinexact
  exact ⟨hw, hinexact⟩

theorem fToInt_values (unsigned : Bool) (rm : Rm) : let lo : Int := if unsigned = true then 0 else -2 ^ 31
    let hi : Int := if unsigned = true then 2 ^ 32 - 1 else 2 ^ 31 - 1
    let r := fToInt unsigned rm
    (∀ b, r (.nan b) = (0, 1)) ∧ (∀ n, r (.inf n) = (BitVec.ofInt 32 (if n then lo else hi), 1)) ∧
    ∀ n m k (w : Nat), RoundedTo rm n (realOf false m k) 0 w → let v : Int := if n then -w else w
      (v < lo → r (.fin n m k) = (BitVec.ofInt 32 lo, 1)) ∧ (hi < v → r (.fin n m k) = (BitVec.ofInt 32 hi, 1)) ∧
      (lo ≤ v → v ≤ hi → r (.fin n m k) = (BitVec.ofInt 32 v, if (v : ℝ) = realOf n m k then 0 else 16)) := by
  intro lo hi r
  have hlo : (if unsigned = true then (0 : Int) else -2147483648) = lo := by cases unsigned <;> rfl
  have hhi : (if unsigned = true then (4294967295 : Int) else 2147483647) = hi := by cases unsigned <;> rfl
  refine ⟨fun b => rfl, fun n => ?_, fun n m k w hw => ?_⟩
  · simp only [r, fToInt, hlo, hhi]
    rfl
  intro v
  obtain ⟨hround, hinexact⟩ := roundAt_whole hw
  have hr : r (.fin n m k) = if v < lo then (BitVec.ofInt 32 lo, fNV) else if v > hi then (BitVec.ofInt 32 hi, fNV)
      else (BitVec.ofInt 32 v, if (roundAt rm n m k false 0).2 then fNX else 0) := by
    simp only [r, fToInt, hlo, hhi, hround]
    rfl
  have hle : lo ≤ hi := by cases unsigned <;> decide
  rw [hr]
  refine ⟨fun h => if_pos h, fun h => ?_, fun h h' => ?_⟩
  · rw [if_neg (by omega), if_pos h]
    rfl
  · have hval : (v : ℝ) = realOf n m k ↔ realOf false m k = w := by
      cases n
      · simp [v, eq_comm]
      · rw [← Bool.not_false, realOf_not]
        simp [v, eq_comm]
    rw [if_neg (by omega), if_neg (by omega)]
    by_cases heq : realOf false m k = w
    · rw [if_pos (hval.mpr heq), if_neg (mt hinexact.mp (not_not.mpr heq))]
    · rw [if_neg (mt hval.mp heq), if_pos (hinexact.mpr heq)]
      rfl

/-- A whole number of no more places than binary32 has, or zero, is the value of its code. -/
theorem unpack_roundPack_whole {env : FpEnv} {n : Bool} {w : Nat} (hw : w < 2 ^ 24) : ∃ m k,
    unpack f32 false (roundPack f32 env n w 0 false).code = .fin n m k ∧ (m : ℝ) * 2 ^ k = w := by
  by_cases h0 : w = 0
  · rw [h0, roundPack_zero]
    exact ⟨0, leastPlace f32, unpack_codeOf (f := f32) (ex := 0) (ma := 0) n false (by decide) (by decide), by simp⟩
  · have hone : (1 : ℝ) ≤ w := by exact_mod_cast Nat.one_le_iff_ne_zero.mpr h0
    have hlen : bitLen w ≤ 24 := bitLen_le_iff.mpr hw
    obtain ⟨-, m, k, hunpack, hval⟩ := roundPack_exact (f := f32) (env := env) (neg := n) (e := 0) (.inl rfl) h0 hlen
      (by rw [zpow_zero, mul_one]; exact (zpow_le_one_of_nonpos₀ one_le_two (by decide)).trans hone)
      ((bitLen_add_le_iff (.inl h0)).mp (by have : (fmtBias f32 : Int) = 127 := rfl; omega))
    exact ⟨m, k, hunpack, by rw [hval, zpow_zero, mul_one]⟩

theorem fRound_values (rm : Rm) (e : FpEnv) (x : Word) :
    (∀ b, operand e x = .nan b → fRound rm e (operand e x) = { code := 0x7FC00000, flags := if b then 1 else 0 }) ∧
    (∀ n, operand e x = .inf n → fRound rm e (operand e x) = { code := infCode f32 n, flags := 0 }) ∧
    ∀ n m k (w : Nat), operand e x = .fin n m k → RoundedTo rm n (realOf false m k) 0 w → let r := fRound rm e (operand e x)
      (∃ m' k', unpack f32 false r.code = .fin n m' k' ∧ realOf n m' k' = if n then -(w : ℝ) else w) ∧
      r.flags = if realOf false m k = w then 0 else 16 := by
  refine ⟨fun b h => by rw [h]; rfl, fun n h => by rw [h]; rfl, fun n m k w h hw => ?_⟩
  intro r
  obtain ⟨hm, hlo, hhi, hfull⟩ := operand_bounds h
  have hr : r = if k ≥ 0 then roundPack f32 e n m k false
      else { roundPack f32 plainEnv n (roundAt rm n m k false 0).1 0 false with flags := if (roundAt rm n m k false 0).2 then fNX else 0 } := by
    simp only [r, h, fRound]
  rcases le_or_gt 0 k with hk | hk
  · have h0 : m ≠ 0 := by have := hfull (by omega); omega
    have hlen : bitLen m ≤ 24 := bitLen_le_iff.mpr hm
    have hwhole : realOf false m k = w := by
      obtain ⟨s, rfl⟩ := Int.eq_ofNat_of_zero_le hk
      have hint : ((m * 2 ^ s : Nat) : ℝ) * 2 ^ (0 : Int) = realOf false m s := by rw [realOf_false]; simp
      rw [roundedTo_unique hw (roundedTo_of_eq hint), ← hint, zpow_zero, mul_one]
    have hone : (1 : ℝ) ≤ m * 2 ^ k :=
      one_le_mul_of_one_le_of_one_le (by exact_mod_cast Nat.one_le_iff_ne_zero.mpr h0) (one_le_zpow₀ one_le_two hk)
    obtain ⟨hflags, m', k', hunpack, hval⟩ := roundPack_exact (f := f32) (env := e) (neg := n) (.inl rfl) h0 hlen
      ((zpow_le_one_of_nonpos₀ one_le_two (by decide)).trans hone)
      ((bitLen_add_le_iff (.inl h0)).mp (by have : (fmtBias f32 : Int) = 127 := rfl; omega))
    rw [hr, if_pos hk]
    refine ⟨⟨m', k', hunpack, ?_⟩, ?_⟩
    · rw [realOf_eq, hval, ← realOf_false, hwhole]
    · rw [hflags, if_pos hwhole]
  · obtain ⟨hround, hinexact⟩ := roundAt_whole hw
    have hle : w ≤ m := by
      refine roundedTo_le hw ?_
      rw [realOf_false]
      exact mul_le_mul_of_nonneg_left (zpow_le_zpow_right₀ one_le_two hk.le) (Nat.cast_nonneg m)
    obtain ⟨m', k', hunpack, hval⟩ := unpack_roundPack_whole (env := plainEnv) (n := n) (hle.trans_lt hm)
    rw [hr, if_neg (by omega), hround]
    refine ⟨⟨m', k', hunpack, by rw [realOf_eq, hval]⟩, ?_⟩
    by_cases heq : realOf false m k = w
    · rw [if_pos heq, if_neg (mt hinexact.mp (not_not.mpr heq))]
    · rw [if_neg heq, if_pos (hinexact.mpr heq)]
      rfl

/-- Scales beyond ±1000 give what ±1000 give (R394). -/
theorem roundPack_scale_clamp {env : FpEnv} {b : Bool} {m : Nat} {k : Int} (hm : m < 2 ^ 24) (hlo : -149 ≤ k) (hhi : k ≤ 104) (n : Int) :
    roundPack f32 env b m (k + max (-1000) (min 1000 n)) false = roundPack f32 env b m (k + n) false := by
  by_cases h0 : m = 0
  · rw [h0, roundPack_zero, roundPack_zero]
  have hpos := bitLen_pos h0
  have hlen : bitLen m ≤ 24 := bitLen_le_iff.mpr hm
  have hbias : (fmtBias f32 : Int) = 127 := rfl
  have hleast : leastPlace f32 = -149 := rfl
  rcases lt_or_ge n (-1000) with hn | hn
  · rw [roundPack_underflow h0 (by omega) (.inl rfl), roundPack_underflow h0 (by omega) (.inl rfl)]
  rcases lt_or_ge 1000 n with hn' | hn'
  · rw [roundPack_overflow h0 (by omega), roundPack_overflow h0 (by omega)]
  · rw [min_eq_right hn', max_eq_right hn]

theorem fScale_values (e : FpEnv) (x : Word) (n : Int) :
    (∀ b, operand e x = .nan b → fScale e (operand e x) n = { code := 0x7FC00000, flags := if b then 1 else 0 }) ∧
    (∀ b, operand e x = .inf b → fScale e (operand e x) n = { code := infCode f32 b, flags := 0 }) ∧
    ∀ b m k, operand e x = .fin b m k → ResultIs f32 e (realOf b m k * 2 ^ n) b (fScale e (operand e x) n) := by
  refine ⟨fun b h => by rw [h]; rfl, fun b h => by rw [h]; rfl, fun b m k h => ?_⟩
  obtain ⟨hm, hlo, hhi, -⟩ := operand_bounds h
  have hval : realOf b m k * 2 ^ n = realOf b m (k + n) := by rw [realOf, realOf, zpow_add₀ two_ne_zero, mul_assoc]
  rw [h, hval, fScale, roundPack_scale_clamp hm hlo hhi]
  exact resultIs_roundPack (.inl rfl) fun _ => rfl

theorem floatConversionValues : FloatConversionValues := by
  refine ⟨fCmp_relates, fun f g hf hg e x => ⟨fun n m k h => ?_, fun n h => ?_, fun b h => ?_⟩, fun e v => ?_, fToInt_values, fRound_values,
    fScale_values⟩
  · rw [fConv, h]
    exact resultIs_roundPack hg fun _ => rfl
  · rw [fConv, h]
  · rw [fConv, h]
    rfl
  · have hval : ((v : Int) : ℝ) = realOf (v < 0) v.natAbs 0 := by rw [realOf_natAbs, zpow_zero, mul_one]
    rw [hval, fFromInt]
    exact resultIs_roundPack (.inl rfl) fun h => by simp [Int.natAbs_eq_zero.mp h]

end Sys2Proof.Laws
end

section
/-!
The narrow formats: the value of a code, packing with its one rounding and its limits, and elements of containers (R120 to R122, R417).
-/

namespace Sys2Proof.Laws

open Sys2Proof.Machine Sys2Proof.Claims

/-! ## Codes and values -/

/-- One of the three narrow formats (R120). -/
def IsNarrow (f : Narrow) : Prop := f = nf8 ∨ f = nf6 ∨ f = nf4

section Values

variable {f : Narrow} {c : Nat}

/-- Code c is a NaN of the format (R120). -/
def NarrowNan (f : Narrow) (c : Nat) : Prop := f = nf8 ∧ c % 128 = 127

/-- The value of a code: (−1)^sign × (1 + mantissa ÷ 2^m) × 2^(exponent − bias) (R120). -/
noncomputable def narrowValue (f : Narrow) (c : Nat) : ℝ :=
  (if 2 ^ (f.width - 1) ≤ c then -1 else 1) * (1 + (c % 2 ^ f.mbits : Nat) / 2 ^ f.mbits) *
    2 ^ ((c % 2 ^ (f.width - 1) / 2 ^ f.mbits : Nat) - (f.bias : Int))

/-- The magnitude of a code without its sign. -/
noncomputable def narrowMag (f : Narrow) (c : Nat) : ℝ :=
  ((2 ^ f.mbits + c % 2 ^ f.mbits : Nat) : ℝ) * 2 ^ ((c / 2 ^ f.mbits : Nat) - (f.bias : Int) - f.mbits)

/-- A code of a sign and a magnitude's code. -/
def narrowCode (f : Narrow) (neg : Bool) (c : Nat) : Nat := (if neg then 2 ^ (f.width - 1) else 0) + c

theorem isNarrow_sizes (hf : IsNarrow f) : 2 ^ f.width = 2 * 2 ^ (f.width - 1) ∧ 2 ^ f.mbits ∣ 2 ^ (f.width - 1) ∧ f.maxCode < 2 ^ (f.width - 1) ∧
    1 ≤ f.maxCode ∧ 2 ≤ 2 ^ f.mbits ∧ f.mbits ≤ f.width - 1 := by
  rcases hf with rfl | rfl | rfl <;> decide

theorem narrowNan_iff (hf : IsNarrow f) (hc : c < 2 ^ f.width) :
    NarrowNan f c ↔ (f.hasNan && decide (c % 2 ^ (f.width - 1) = 2 ^ (f.width - 1) - 1)) = true := by
  rcases hf with rfl | rfl | rfl
  · simp only [NarrowNan, true_and]
    exact (decide_eq_true_iff (p := c % 128 = 127)).symm
  · simp [NarrowNan, nf6, nf8]
  · simp [NarrowNan, nf4, nf8]

/-- Codes other than NaN, in order of their magnitudes, from the least. -/
theorem narrowMag_strictMono (hf : IsNarrow f) : StrictMono (narrowMag f) := by
  obtain ⟨-, -, -, -, hm, -⟩ := isNarrow_sizes hf
  refine strictMono_nat_of_lt_succ fun c => ?_
  have hsplit := Nat.div_add_mod c (2 ^ f.mbits)
  have hlt := Nat.mod_lt c (Nat.two_pow_pos f.mbits)
  rcases Nat.lt_or_ge (c % 2 ^ f.mbits + 1) (2 ^ f.mbits) with hin | hout
  · have hdiv : (c + 1) / 2 ^ f.mbits = c / 2 ^ f.mbits := by
      rw [← hsplit, Nat.add_assoc, Nat.mul_add_div (Nat.two_pow_pos _), Nat.div_eq_of_lt hin, hsplit, Nat.add_zero]
    have hmod : (c + 1) % 2 ^ f.mbits = c % 2 ^ f.mbits + 1 := by
      rw [← hsplit, Nat.add_assoc, Nat.mul_add_mod, Nat.mod_eq_of_lt hin, hsplit]
    rw [narrowMag, narrowMag, hdiv, hmod]
    exact mul_lt_mul_of_pos_right (by exact_mod_cast Nat.lt_succ_self _) (two_zpow_pos _)
  · have hnext : c + 1 = 2 ^ f.mbits * (c / 2 ^ f.mbits + 1) := by rw [Nat.mul_succ]; omega
    have hdiv : (c + 1) / 2 ^ f.mbits = c / 2 ^ f.mbits + 1 := by rw [hnext, Nat.mul_div_cancel_left _ (Nat.two_pow_pos _)]
    have hmod : (c + 1) % 2 ^ f.mbits = 0 := by rw [hnext, Nat.mul_mod_right]
    have hexp : (((c / 2 ^ f.mbits + 1 : Nat) : Int) - f.bias - f.mbits) = ((c / 2 ^ f.mbits : Nat) - (f.bias : Int) - f.mbits) + 1 := by
      push_cast
      ring
    rw [narrowMag, narrowMag, hdiv, hmod, hexp, zpow_add₀ two_ne_zero, zpow_one, mul_comm (2 ^ _) (2 : ℝ), ← mul_assoc]
    refine mul_lt_mul_of_pos_right ?_ (two_zpow_pos _)
    have hnat : 2 ^ f.mbits + c % 2 ^ f.mbits < (2 ^ f.mbits + 0) * 2 := by omega
    exact_mod_cast hnat

/-- The value of a code is its magnitude with its sign. -/
theorem narrowValue_narrowCode (hf : IsNarrow f) (neg : Bool) (hc : c < 2 ^ (f.width - 1)) :
    narrowValue f (narrowCode f neg c) = if neg then -narrowMag f c else narrowMag f c := by
  obtain ⟨-, hdvd, -, -, -, -⟩ := isNarrow_sizes hf
  have hmag : (1 + ((c % 2 ^ f.mbits : Nat) : ℝ) / 2 ^ f.mbits) * 2 ^ ((c / 2 ^ f.mbits : Nat) - (f.bias : Int)) = narrowMag f c := by
    rw [narrowMag, zpow_sub₀ two_ne_zero _ (f.mbits : Int), zpow_natCast]
    push_cast
    field_simp
  have hsign : 2 ^ (f.width - 1) ≤ narrowCode f neg c ↔ neg = true := by cases neg <;> simp [narrowCode, hc]
  have hmod : narrowCode f neg c % 2 ^ (f.width - 1) = c := by cases neg <;> simp [narrowCode, Nat.mod_eq_of_lt hc]
  have hmod' : narrowCode f neg c % 2 ^ f.mbits = c % 2 ^ f.mbits := by rw [← Nat.mod_mod_of_dvd _ hdvd, hmod]
  rw [narrowValue, hmod, hmod', mul_assoc, hmag]
  cases neg <;> simp [hsign]

/-- Every code has a sign and a magnitude's code. -/
theorem exists_narrowCode (hf : IsNarrow f) (hc : c < 2 ^ f.width) : ∃ neg d, d < 2 ^ (f.width - 1) ∧ c = narrowCode f neg d := by
  obtain ⟨hwidth, -⟩ := isNarrow_sizes hf
  rcases Nat.lt_or_ge c (2 ^ (f.width - 1)) with h | h
  · exact ⟨false, c, h, (Nat.zero_add c).symm⟩
  · exact ⟨true, c - 2 ^ (f.width - 1), by omega, (Nat.add_sub_cancel' h).symm⟩

/-- What a code other than 0 and NaN unpacks to. -/
theorem unpackNarrow_narrowCode (neg : Bool) {d : Nat} (hd : d < 2 ^ (f.width - 1)) (h0 : narrowCode f neg d ≠ 0) :
    unpackNarrow f (narrowCode f neg d) = if f.hasNan && decide (d = 2 ^ (f.width - 1) - 1) then .nan false
      else .fin neg (2 ^ f.mbits + d % 2 ^ f.mbits) ((d / 2 ^ f.mbits : Nat) - (f.bias : Int) - f.mbits) := by
  have hsign : decide (narrowCode f neg d / 2 ^ (f.width - 1) % 2 = 1) = neg := by
    cases neg
    · simp [narrowCode, Nat.div_eq_of_lt hd]
    · simp [narrowCode, Nat.add_div_left _ (Nat.two_pow_pos _), Nat.div_eq_of_lt hd]
  have hmod : narrowCode f neg d % 2 ^ (f.width - 1) = d := by cases neg <;> simp [narrowCode, Nat.mod_eq_of_lt hd]
  simp only [unpackNarrow, hsign, hmod, if_neg h0]

/-- A code unpacks to its value exactly. -/
theorem unpackNarrow_values (hf : IsNarrow f) (h0 : 0 < c) (hc : c < 2 ^ f.width) :
    (NarrowNan f c → ∃ b, unpackNarrow f c = .nan b) ∧
      (¬NarrowNan f c → ∃ n m k, unpackNarrow f c = .fin n m k ∧ realOf n m k = narrowValue f c) := by
  have hnan := narrowNan_iff hf hc
  obtain ⟨neg, d, hd, rfl⟩ := exists_narrowCode hf hc
  have hmod : narrowCode f neg d % 2 ^ (f.width - 1) = d := by cases neg <;> simp [narrowCode, Nat.mod_eq_of_lt hd]
  rw [hmod] at hnan
  rw [unpackNarrow_narrowCode neg hd (by omega), narrowValue_narrowCode hf neg hd]
  refine ⟨fun h => ⟨false, if_pos (hnan.mp h)⟩, fun h => ⟨neg, _, _, if_neg (mt hnan.mpr h), ?_⟩⟩
  rw [realOf_eq, narrowMag]

end Values

/-! ## Packing -/

section Packing

variable {f : Narrow} {rm : Rm} {n b : Bool} {m w : Nat} {e q : Int}

/-- The least magnitude of a sign, that of code 1, or of code 0 below the sign (R121). -/
noncomputable def narrowLeast (f : Narrow) (n : Bool) : ℝ := (2 ^ f.mbits + if n then 0 else 1) * 2 ^ (-(f.bias : Int) - f.mbits)

theorem narrowMag_least (hf : IsNarrow f) (n : Bool) : narrowMag f (if n then 0 else 1) = narrowLeast f n := by
  obtain ⟨-, -, -, -, hm, -⟩ := isNarrow_sizes hf
  have hdiv : (if n then 0 else 1) / 2 ^ f.mbits = 0 := Nat.div_eq_of_lt (by split <;> omega)
  have hmod : (if n then 0 else 1) % 2 ^ f.mbits = if n then 0 else 1 := Nat.mod_eq_of_lt (by split <;> omega)
  rw [narrowMag, narrowLeast, hdiv, hmod, Nat.cast_zero, zero_sub]
  cases n <;> simp

/-- A magnitude and the least of its sign, in units of a common place. -/
theorem narrowLeast_units (f : Narrow) (n : Bool) {k : Int} (h : k ≤ -(f.bias : Int) - f.mbits) :
    (((if n then 2 ^ f.mbits else 2 ^ f.mbits + 1) * 2 ^ (-(f.bias : Int) - f.mbits - k).toNat : Nat) : ℝ) * 2 ^ k = narrowLeast f n := by
  obtain ⟨s, hs⟩ := Int.le.dest h
  rw [narrowLeast, ← hs, add_sub_cancel_left, Int.toNat_natCast, add_comm k, zpow_add₀ two_ne_zero, zpow_natCast]
  cases n <;> push_cast <;> simp [mul_assoc]

theorem realOf_units (m : Nat) {e k : Int} (h : k ≤ e) : (shiftBy m (e - k) : ℝ) * 2 ^ k = realOf false m e := by
  have hunits := unitsAt_mul false m h
  rwa [unitsAt, if_neg Bool.false_ne_true, Int.cast_natCast] at hunits

/-- A magnitude below the least of its sign gives that or 0, by how it lies to the middle between them (R121). -/
theorem packNarrow_below (hm : m ≠ 0) (hx : realOf false m e < narrowLeast f n) : ∃ rest : Ordering,
    (rest = .gt ↔ narrowLeast f n < 2 * realOf false m e) ∧ packNarrow f rm (.fin n m e) b =
      if roundsUp rm n false rest true then { code := narrowCode f n (if n then 0 else 1), flags := fNX } else { code := 0, flags := fUF ||| fNX } := by
  have hk := two_zpow_pos (min e (-(f.bias : Int) - f.mbits))
  have hX := realOf_units m (min_le_left e (-(f.bias : Int) - f.mbits))
  have hY := narrowLeast_units f n (min_le_right e (-(f.bias : Int) - f.mbits))
  have hbelow : shiftBy m (e - min e (-(f.bias : Int) - f.mbits)) <
      (if n then 2 ^ f.mbits else 2 ^ f.mbits + 1) * 2 ^ (-(f.bias : Int) - f.mbits - min e (-(f.bias : Int) - f.mbits)).toNat := by
    rw [← hX, ← hY, mul_lt_mul_iff_left₀ hk] at hx
    exact_mod_cast hx
  refine ⟨_, ?_, (if_neg hm).trans (if_pos hbelow)⟩
  rw [← hX, ← hY, ← mul_assoc, mul_lt_mul_iff_left₀ hk]
  generalize shiftBy m _ = X
  generalize (if n then 2 ^ f.mbits else 2 ^ f.mbits + 1) * 2 ^ (_ : Nat) = Y
  have hcast : (Y : ℝ) < 2 * X ↔ Y < 2 * X := by exact_mod_cast Iff.rfl
  rw [hcast]
  split_ifs with hlt heq
  · exact iff_of_false (by simp) (by omega)
  · exact iff_of_false (by simp) (by omega)
  · exact iff_of_true rfl (by omega)

/-- From the least of its sign on, a magnitude has its places in the format. -/
theorem narrow_place (hx : narrowLeast f n ≤ realOf false m e) (hhi : realOf false m e < 2 ^ (f.mbits + 1) * (2 : ℝ) ^ q) :
    -(f.bias : Int) - f.mbits ≤ q := by
  have hlo : (2 : ℝ) ^ f.mbits * 2 ^ (-(f.bias : Int) - f.mbits) ≤ narrowLeast f n := by
    refine mul_le_mul_of_nonneg_right ?_ (two_zpow_pos _).le
    cases n <;> simp
  have hlt := hlo.trans_lt (hx.trans_lt hhi)
  rw [← zpow_natCast, ← zpow_natCast, ← zpow_add₀ two_ne_zero, ← zpow_add₀ two_ne_zero, zpow_lt_zpow_iff_right₀ one_lt_two] at hlt
  push_cast at hlt
  omega

/-- The magnitude's code of w units of 2^q. -/
def narrowMagCode (f : Narrow) (w : Nat) (q : Int) : Nat :=
  if w = 2 ^ (f.mbits + 1) then (q + 1 + f.mbits + f.bias).toNat * 2 ^ f.mbits else (q + f.mbits + f.bias).toNat * 2 ^ f.mbits + (w - 2 ^ f.mbits)

theorem narrowMag_narrowMagCode (hlo : 2 ^ f.mbits ≤ w) (hhi : w ≤ 2 ^ (f.mbits + 1)) (hq : -(f.bias : Int) - f.mbits ≤ q) :
    narrowMag f (narrowMagCode f w q) = w * 2 ^ q := by
  have hpos := Nat.two_pow_pos f.mbits
  rw [narrowMagCode, narrowMag]
  split
  · rename_i h
    rw [Nat.mul_mod_left, Nat.mul_div_cancel _ hpos, h, show (((q + 1 + f.mbits + f.bias).toNat : Int) - f.bias - f.mbits) = q + 1 by omega,
      zpow_add₀ two_ne_zero, zpow_one, pow_succ]
    push_cast
    ring
  · rename_i h
    have hlt : w - 2 ^ f.mbits < 2 ^ f.mbits := by rw [pow_succ] at hhi h; omega
    rw [Nat.mul_comm, Nat.mul_add_mod, Nat.mod_eq_of_lt hlt, Nat.mul_add_div hpos, Nat.div_eq_of_lt hlt, Nat.add_zero, Nat.add_sub_cancel' hlo,
      show (((q + f.mbits + f.bias).toNat : Int) - f.bias - f.mbits) = q by omega]

/-- A magnitude from the least on is rounded at the last place of the format, and saturates (R121). -/
theorem packNarrow_rounded (hm : m ≠ 0) (hx : narrowLeast f n ≤ realOf false m e) (hlo : 2 ^ f.mbits * (2 : ℝ) ^ q ≤ realOf false m e)
    (hhi : realOf false m e < 2 ^ (f.mbits + 1) * (2 : ℝ) ^ q) (hw : RoundedTo rm n (realOf false m e) q w) : ∃ inexact : Bool,
      (inexact = true ↔ (w : ℝ) * 2 ^ q ≠ realOf false m e) ∧ packNarrow f rm (.fin n m e) b =
        if f.maxCode < narrowMagCode f w q then { code := narrowCode f n f.maxCode, flags := fOF ||| fNX }
        else { code := narrowCode f n (narrowMagCode f w q), flags := if inexact then fNX else 0 } := by
  have hq := narrow_place hx hhi
  have hplace : q = e + bitLen m - (f.mbits + 1) := place_of_binade (realOf_false m e ▸ truncates_exact m e) hm hlo hhi
  rw [realOf_false] at hw ⊢
  obtain ⟨hround, hinexact⟩ := roundAt_roundedTo (rm := rm) (neg := n) (q := q) (truncates_exact m e) (by simp)
  have hsame := roundedTo_unique hround hw
  rw [hsame] at hinexact
  refine ⟨_, hinexact, ?_⟩
  have hk := two_zpow_pos (min e (-(f.bias : Int) - f.mbits))
  have hbelow : ¬shiftBy m (e - min e (-(f.bias : Int) - f.mbits)) <
      (if n then 2 ^ f.mbits else 2 ^ f.mbits + 1) * 2 ^ (-(f.bias : Int) - f.mbits - min e (-(f.bias : Int) - f.mbits)).toNat := by
    rw [← realOf_units m (min_le_left e (-(f.bias : Int) - f.mbits)), ← narrowLeast_units f n (min_le_right e (-(f.bias : Int) - f.mbits)),
      mul_le_mul_iff_left₀ hk] at hx
    exact not_lt.mpr (by exact_mod_cast hx)
  have hcode : ((if w = 2 ^ (f.mbits + 1) then q + 1 else q) + f.mbits + f.bias) * 2 ^ f.mbits +
      ((if w = 2 ^ (f.mbits + 1) then 2 ^ f.mbits else w) - 2 ^ f.mbits : Nat) = (narrowMagCode f w q : Int) := by
    rw [narrowMagCode]
    split <;> push_cast <;> rw [Int.toNat_of_nonneg (by omega)]
    simp
  have hpack : packNarrow f rm (.fin n m e) b = if ((narrowMagCode f w q : Nat) : Int) > f.maxCode then
        { code := narrowCode f n f.maxCode, flags := fOF ||| fNX }
      else { code := narrowCode f n ((narrowMagCode f w q : Nat) : Int).toNat, flags := if (roundAt rm n m e false q).2 then fNX else 0 } := by
    rw [← hcode, ← hsame, hplace]
    exact (if_neg hm).trans (if_neg hbelow)
  rw [hpack]
  simp only [gt_iff_lt, Nat.cast_lt, Int.toNat_natCast]

/-- A rounding of a magnitude from the least of its sign on does not fall below that. -/
theorem narrowLeast_le_rounded (hf : IsNarrow f) (hx : narrowLeast f n ≤ realOf false m e) (hlo : 2 ^ f.mbits * (2 : ℝ) ^ q ≤ realOf false m e)
    (hhi : realOf false m e < 2 ^ (f.mbits + 1) * (2 : ℝ) ^ q) (hw : RoundedTo rm n (realOf false m e) q w) : narrowLeast f n ≤ w * 2 ^ q := by
  obtain ⟨-, -, -, -, hm, -⟩ := isNarrow_sizes hf
  have hleast : narrowLeast f n = ((2 ^ f.mbits + if n then 0 else 1 : Nat) : ℝ) * 2 ^ (-(f.bias : Int) - f.mbits) := by
    rw [narrowLeast]
    cases n <;> push_cast <;> rfl
  rcases (narrow_place hx hhi).eq_or_lt with heq | hlt
  · rw [hleast, heq] at hx
    rw [hleast, heq]
    exact mul_le_mul_of_nonneg_right (by exact_mod_cast le_roundedTo hw hx) (two_zpow_pos q).le
  · have hge : ((2 ^ f.mbits : Nat) : ℝ) ≤ w := by exact_mod_cast le_roundedTo (k := 2 ^ f.mbits) hw (by exact_mod_cast hlo)
    have hnat : (2 ^ f.mbits + if n then 0 else 1) ≤ 2 ^ f.mbits * 2 := by split <;> omega
    calc narrowLeast f n ≤ ((2 ^ f.mbits * 2 : Nat) : ℝ) * 2 ^ (-(f.bias : Int) - f.mbits) := by
          rw [hleast]
          exact mul_le_mul_of_nonneg_right (by exact_mod_cast hnat) (two_zpow_pos _).le
      _ = (2 ^ f.mbits : Nat) * 2 ^ (-(f.bias : Int) - f.mbits + 1) := by
          rw [zpow_add₀ two_ne_zero, zpow_one]
          push_cast
          ring
      _ ≤ w * 2 ^ q := mul_le_mul hge (zpow_le_zpow_right₀ one_le_two hlt) (two_zpow_pos _).le (Nat.cast_nonneg w)

theorem narrowCode_lt (hf : IsNarrow f) {c : Nat} (hc : c < 2 ^ (f.width - 1)) : narrowCode f n c < 2 ^ f.width := by
  obtain ⟨hwidth, -⟩ := isNarrow_sizes hf
  rw [narrowCode, hwidth]
  split <;> omega

theorem not_narrowNan_narrowCode {c : Nat} (hc : c ≤ f.maxCode) : ¬NarrowNan f (narrowCode f n c) := by
  rintro ⟨rfl, h⟩
  have hmax : nf8.maxCode = 126 := rfl
  have hsign : 2 ^ (nf8.width - 1) = 128 := rfl
  rw [narrowCode, hsign] at h
  cases n <;> simp at h <;> omega

/-- Packing a finite operand: the least of its sign or 0 below that, else one rounding, which saturates above the largest (R121). -/
theorem packNarrow_values (hf : IsNarrow f) (rm : Rm) (b n : Bool) (m : Nat) (k : Int) (hm : m ≠ 0) : let x := realOf false m k
    let r := packNarrow f rm (.fin n m k) b
    let least := narrowLeast f n
    (x < least → let up : Prop := (rm = .nearest ∧ least < 2 * x) ∨ (rm = .up ∧ n = false) ∨ (rm = .down ∧ n = true)
      (up → r.flags = 16 ∧ 0 < r.code ∧ narrowValue f r.code = if n then -least else least) ∧ (¬up → r = { code := 0, flags := 24 })) ∧
    ∀ (q : Int) (w : Nat), least ≤ x → 2 ^ f.mbits * (2 : ℝ) ^ q ≤ x → x < 2 ^ (f.mbits + 1) * (2 : ℝ) ^ q → RoundedTo rm n x q w →
      let y : ℝ := w * 2 ^ q
      let top := narrowMag f f.maxCode
      (top < y → r.flags = 20 ∧ narrowValue f r.code = if n then -top else top) ∧
      (y ≤ top → r.flags = (if y = x then 0 else 16) ∧ 0 < r.code ∧ r.code < 2 ^ f.width ∧ ¬NarrowNan f r.code ∧
        narrowValue f r.code = if n then -y else y) := by
  intro x r least
  obtain ⟨-, -, hmax, hmax', hsize, -⟩ := isNarrow_sizes hf
  have hpos := Nat.two_pow_pos (f.width - 1)
  refine ⟨fun hx => ?below, fun q w hx hlo hhi hw => ?rounded⟩
  case below =>
    intro up
    obtain ⟨rest, hrest, hr⟩ := packNarrow_below (rm := rm) (b := b) hm hx
    have hup : roundsUp rm n false rest true = true ↔ up := by
      simp only [up, least, x, ← hrest]
      cases rm <;> cases n <;> simp [roundsUp]
    simp only [r, hr]
    refine ⟨fun h => ?_, fun h => ?_⟩
    · rw [if_pos (hup.mpr h), narrowValue_narrowCode hf n (by split <;> omega), narrowMag_least hf]
      exact ⟨rfl, by cases n <;> simp [narrowCode], rfl⟩
    · rw [if_neg (mt hup.mp h)]
      rfl
  case rounded =>
    intro y top
    obtain ⟨inexact, hinexact, hr⟩ := packNarrow_rounded (b := b) hm hx hlo hhi hw
    have hge : 2 ^ f.mbits ≤ w := le_roundedTo hw (by exact_mod_cast hlo)
    have hle : w ≤ 2 ^ (f.mbits + 1) := roundedTo_le hw (by exact_mod_cast hhi.le)
    have hmag := narrowMag_narrowMagCode hge hle (narrow_place hx hhi)
    have hleast := narrowLeast_le_rounded hf hx hlo hhi hw
    rw [← hmag, ← narrowMag_least hf, (narrowMag_strictMono hf).le_iff_le] at hleast
    have hover : f.maxCode < narrowMagCode f w q ↔ top < y := by
      simp only [top, y, ← hmag]
      exact (narrowMag_strictMono hf).lt_iff_lt.symm
    simp only [r, hr]
    refine ⟨fun h => ?_, fun h => ?_⟩
    · rw [if_pos (hover.mpr h)]
      exact ⟨rfl, narrowValue_narrowCode hf n hmax⟩
    · have hcode : narrowMagCode f w q ≤ f.maxCode := not_lt.mp (mt hover.mp (not_lt.mpr h))
      rw [if_neg (not_lt.mpr hcode), narrowValue_narrowCode hf n (hcode.trans_lt hmax), hmag]
      refine ⟨?_, ?_, narrowCode_lt hf (hcode.trans_lt hmax), not_narrowNan_narrowCode hcode, rfl⟩
      · by_cases heq : y = x
        · rw [if_pos heq]
          exact if_neg (mt hinexact.mp (not_not.mpr heq))
        · rw [if_neg heq]
          exact if_pos (hinexact.mpr heq)
      · cases n
        · exact hleast.trans_eq (Nat.zero_add _).symm
        · simp [narrowCode]

/-- Every packed code is one of the format. -/
theorem packNarrow_lt (hf : IsNarrow f) (rm : Rm) (a : FVal) (b : Bool) : (packNarrow f rm a b).code < 2 ^ f.width := by
  obtain ⟨-, -, hmax, hmax', -, -⟩ := isNarrow_sizes hf
  have hzero := Nat.two_pow_pos f.width
  have hsign := Nat.two_pow_pos (f.width - 1)
  cases a with
  | nan s =>
    rw [packNarrow]
    dsimp only
    split
    · exact narrowCode_lt (n := b) hf (by omega)
    · exact hzero
  | inf n => exact narrowCode_lt (n := n) hf hmax
  | fin n m e =>
    by_cases hm : m = 0
    · have hpack : packNarrow f rm (.fin n m e) b = { code := 0, flags := 0 } := if_pos hm
      rwa [hpack]
    rcases lt_or_ge (realOf false m e) (narrowLeast f n) with hx | hx
    · obtain ⟨rest, -, hpack⟩ := packNarrow_below (rm := rm) (b := b) hm hx
      rw [hpack]
      split
      · exact narrowCode_lt hf (by split <;> omega)
      · exact hzero
    · obtain ⟨hlo, hhi⟩ := binade_of_bitLen hm f.mbits e
      rw [← realOf_false] at hlo hhi
      have hround := (roundAt_roundedTo (rm := rm) (neg := n) (q := e + bitLen m - (f.mbits + 1)) (truncates_exact m e) (by simp)).1
      obtain ⟨inexact, -, hpack⟩ := packNarrow_rounded (b := b) hm hx hlo hhi (realOf_false m e ▸ hround)
      rw [hpack]
      split
      · exact narrowCode_lt hf hmax
      · exact narrowCode_lt hf (by omega)

end Packing

/-! ## Elements of containers -/

section Containers

theorem isNarrow_narrowOf (f : BitVec 2) : IsNarrow (narrowOf f) := by
  rw [narrowOf]
  split_ifs <;> simp [IsNarrow]

theorem unpackNarrow_bounds {f : Narrow} (hf : IsNarrow f) {c m : Nat} {n : Bool} {k : Int} (h : unpackNarrow f c = .fin n m k) :
    m < 16 ∧ -10 ≤ k ∧ k ≤ 5 := by
  rw [unpackNarrow] at h
  split at h
  · obtain ⟨-, rfl, rfl⟩ := FVal.fin.inj h
    decide
  split at h
  · cases h
  · obtain ⟨-, rfl, rfl⟩ := FVal.fin.inj h
    rcases hf with rfl | rfl | rfl <;> simp only [nf8, nf6, nf4] <;> omega

/-- An element unpacks into binary32 exactly (R121, R417). -/
theorem ncvtUnpack_values (f : BitVec 2) (j : Nat) (x : Word) : let c := narrowAt f j x
    (∀ n m k, unpackNarrow (narrowOf f) c = .fin n m k → (ncvtUnpack f j x).flags = 0 ∧ ∃ m' k', unpack f32 false (ncvtUnpack f j x).code = .fin n m' k' ∧
      realOf n m' k' = realOf n m k) ∧
    ∀ b, unpackNarrow (narrowOf f) c = .nan b → ncvtUnpack f j x = { code := 0x7FC00000, flags := 0 } := by
  intro c
  refine ⟨fun n m k h => ⟨rfl, ?_⟩, fun b h => ?_⟩
  · obtain ⟨hm, hlo, hhi⟩ := unpackNarrow_bounds (isNarrow_narrowOf f) h
    have hcode : (ncvtUnpack f j x).code = (roundPack f32 plainEnv n m k false).code := by rw [ncvtUnpack, h, codeV]
    rw [hcode]
    by_cases h0 : m = 0
    · rw [h0, roundPack_zero]
      exact ⟨0, leastPlace f32, unpack_codeOf (f := f32) (ex := 0) (ma := 0) n false (by decide) (by decide), by simp⟩
    · have hlen : bitLen m ≤ 4 := bitLen_le_iff.mpr hm
      have hone : (1 : ℝ) ≤ m := by exact_mod_cast Nat.one_le_iff_ne_zero.mpr h0
      have hbias : (fmtBias f32 : Int) = 127 := rfl
      obtain ⟨-, m', k', hunpack, hval⟩ := roundPack_exact (f := f32) (env := plainEnv) (neg := n) (.inl rfl) h0
        (hlen.trans (by decide))
        ((zpow_le_zpow_right₀ one_le_two (by omega)).trans (le_mul_of_one_le_left (two_zpow_pos k).le hone))
        ((bitLen_add_le_iff (.inl h0)).mp (by omega))
      exact ⟨m', k', hunpack, by rw [realOf_eq, realOf_eq, hval]⟩
  · rw [ncvtUnpack, h]
    rfl

/-- A number with the w bits from place k on replaced. -/
theorem testBit_replace (z : Nat) {c w : Nat} (hc : c < 2 ^ w) (k i : Nat) :
    (z - z / 2 ^ k % 2 ^ w * 2 ^ k + c * 2 ^ k).testBit i = if k ≤ i ∧ i < k + w then c.testBit (i - k) else z.testBit i := by
  have hlow := Nat.mod_lt z (Nat.two_pow_pos k)
  have hsplit := Nat.div_add_mod z (2 ^ k)
  have hsplit' := Nat.div_add_mod (z / 2 ^ k) (2 ^ w)
  have hval : z - z / 2 ^ k % 2 ^ w * 2 ^ k + c * 2 ^ k = 2 ^ k * (2 ^ w * (z / 2 ^ k / 2 ^ w) + c) + z % 2 ^ k := by
    have hz : z = 2 ^ k * (2 ^ w * (z / 2 ^ k / 2 ^ w)) + z / 2 ^ k % 2 ^ w * 2 ^ k + z % 2 ^ k := by
      conv_lhs => rw [← hsplit, ← hsplit']
      ring
    have hrest : z - z / 2 ^ k % 2 ^ w * 2 ^ k = 2 ^ k * (2 ^ w * (z / 2 ^ k / 2 ^ w)) + z % 2 ^ k := by omega
    rw [hrest]
    ring
  rw [hval, Nat.testBit_two_pow_mul_add _ hlow, Nat.testBit_two_pow_mul_add _ hc]
  by_cases hk : i < k
  · rw [if_pos hk, if_neg (by omega), Nat.testBit_mod_two_pow, decide_eq_true hk, Bool.true_and]
  · rw [if_neg hk]
    by_cases hw : i - k < w
    · rw [if_pos hw, if_pos (by omega)]
    · rw [if_neg hw, if_neg (by omega), Nat.testBit_div_two_pow, Nat.testBit_div_two_pow]
      congr 1
      omega

/-- Packing an element keeps the container's others (R417). -/
theorem ncvtPack_values (f : BitVec 2) (j : Nat) (e : FpEnv) (x z : Word) : let width := if f = 0 then 8 else if f = 1 then 6 else 4
    j < (if f = 0 then 4 else if f = 1 then 4 else 8) →
    let r := ncvtPack f j e x z
    r.flags = (packNarrow (narrowOf f) e.rm (operand e x) x.msb).flags ∧
    ∀ i, i < 32 → r.code.testBit i = if width * j ≤ i ∧ i < width * j + width
      then (packNarrow (narrowOf f) e.rm (operand e x) x.msb).code.testBit (i - width * j)
      else if f = 1 ∧ 24 ≤ i then false else z.getLsbD i := by
  intro width hj r
  refine ⟨rfl, fun i hi => ?_⟩
  have hwidth : (narrowOf f).width = width := by
    have hall : ∀ f : BitVec 2, (narrowOf f).width = if f = 0 then 8 else if f = 1 then 6 else 4 := by decide
    exact hall f
  have hlt := packNarrow_lt (isNarrow_narrowOf f) e.rm (operand e x) x.msb
  rw [hwidth] at hlt
  have hcode : r.code = (if f = 1#2 then (z.toNat - z.toNat / 2 ^ (width * j) % 2 ^ width * 2 ^ (width * j) +
      (packNarrow (narrowOf f) e.rm (operand e x) x.msb).code * 2 ^ (width * j)) % 2 ^ 24
      else z.toNat - z.toNat / 2 ^ (width * j) % 2 ^ width * 2 ^ (width * j) +
      (packNarrow (narrowOf f) e.rm (operand e x) x.msb).code * 2 ^ (width * j)) % 2 ^ 32 := by
    rw [← hwidth]
    rfl
  have hfit : f = 1#2 → width * j + width ≤ 24 := by
    rintro rfl
    have hw : width = 6 := rfl
    have hj' : j < 4 := hj
    rw [hw]
    omega
  rw [hcode, Nat.testBit_mod_two_pow, decide_eq_true hi, Bool.true_and]
  by_cases hf : f = 1#2
  · have hend := hfit hf
    rw [if_pos hf, Nat.testBit_mod_two_pow, testBit_replace _ hlt]
    by_cases h24 : i < 24
    · rw [decide_eq_true h24, Bool.true_and, if_neg (show ¬(f = 1 ∧ 24 ≤ i) from fun h => absurd h.2 (not_le.mpr h24))]
      rfl
    · rw [decide_eq_false h24, Bool.false_and, if_neg (by omega), if_pos ⟨hf, by omega⟩]
  · rw [if_neg hf, testBit_replace _ hlt, if_neg (show ¬(f = 1 ∧ 24 ≤ i) from fun h => hf h.1)]
    rfl

end Containers

/-- A NaN or an infinity packs to the NaN, to 0 or to the largest magnitude (R121). -/
theorem packNarrow_specials {f : Narrow} (hf : IsNarrow f) (rm : Rm) (b : Bool) :
    (∀ q, packNarrow f rm (.nan q) b = { code := if f = nf8 then (if b then 0xFF else 0x7F) else 0, flags := 1 }) ∧
    ∀ n, (packNarrow f rm (.inf n) b).flags = 20 ∧
      narrowValue f (packNarrow f rm (.inf n) b).code = if n then -narrowMag f f.maxCode else narrowMag f f.maxCode := by
  refine ⟨fun q => ?_, fun n => ⟨rfl, narrowValue_narrowCode hf n (isNarrow_sizes hf).2.2.1⟩⟩
  rcases hf with rfl | rfl | rfl <;> cases b <;> rfl

theorem narrowFloatValues : NarrowFloatValues := by
  refine ⟨?_, ncvtUnpack_values, ncvtPack_values⟩
  intro f bias mb width top h
  obtain ⟨hf, rfl, rfl, rfl, rfl⟩ : IsNarrow f ∧ bias = f.bias ∧ mb = f.mbits ∧ width = f.width ∧ top = narrowMag f f.maxCode := by
    rcases h with ⟨rfl, rfl, rfl, rfl, rfl⟩ | ⟨rfl, rfl, rfl, rfl, rfl⟩ | ⟨rfl, rfl, rfl, rfl, rfl⟩
    · exact ⟨.inl rfl, rfl, rfl, rfl, by norm_num [narrowMag, nf8]⟩
    · exact ⟨.inr (.inl rfl), rfl, rfl, rfl, by norm_num [narrowMag, nf6]⟩
    · exact ⟨.inr (.inr rfl), rfl, rfl, rfl, by norm_num [narrowMag, nf4]⟩
  exact ⟨rfl, fun c h0 hc => unpackNarrow_values hf h0 hc, fun rm b => ⟨(packNarrow_specials hf rm b).1, fun n k => rfl,
    (packNarrow_specials hf rm b).2, fun n m k hm => packNarrow_values hf rm b n m k hm⟩⟩

end Sys2Proof.Laws
end

section
/-!
The exact points and the special operands of the transcendental functions (R117), and the whole of what the float functions give.
-/

namespace Sys2Proof.Laws

open Sys2Proof.Machine Sys2Proof.Claims

/-! ## Exact points -/

section Points

variable {e : FpEnv} {x : Word} {n : Bool} {m : Nat} {k i : Int}

/-- `shiftBy` rounds down. -/
theorem le_shiftBy_iff {c m : Nat} {k : Int} : c ≤ shiftBy m k ↔ (c : ℝ) ≤ m * 2 ^ k := by
  rcases le_or_gt 0 k with hk | hk
  · obtain ⟨s, rfl⟩ := Int.eq_ofNat_of_zero_le hk
    rw [shiftBy_natCast, zpow_natCast]
    exact_mod_cast Iff.rfl
  · obtain ⟨s, rfl⟩ : ∃ s : Nat, k = -s := ⟨(-k).toNat, by omega⟩
    rw [shiftBy, if_neg (by omega), neg_neg, Int.toNat_natCast, Nat.le_div_iff_mul_le (Nat.two_pow_pos s), zpow_neg, zpow_natCast,
      ← div_eq_mul_inv, le_div_iff₀ (by positivity)]
    exact_mod_cast Iff.rfl

/-- From 128 on `FEXP2` overflows. -/
theorem fExp2_overflow (h : operand e x = .fin false m k) (hx : 128 ≤ realOf false m k) : fExp2 e x = { code := infCode f32 false, flags := 20 } := by
  have h' : unpack f32 e.daz x.toNat = .fin false m k := h
  obtain ⟨hm, -, -, -⟩ := operand_bounds h
  have h0 : m ≠ 0 := by
    rintro rfl
    norm_num at hx
  rw [realOf_false] at hx
  have hk : -30 ≤ k := by
    have hlen : bitLen m ≤ 24 := bitLen_le_iff.mpr hm
    have hnot : ¬(bitLen m + k ≤ 7) := by
      rw [bitLen_add_le_iff (.inl h0)]
      norm_num
      exact hx
    omega
  have hshift : 128 ≤ shiftBy m (max k (-30)) := by
    rw [max_eq_left hk]
    exact le_shiftBy_iff.mpr (by exact_mod_cast hx)
  simp only [fExp2, h', if_neg h0, Bool.not_false, ge_iff_le, hk, hshift, decide_true, Bool.and_self, if_true]
  rfl

/-- A whole operand is found by `roundAt`, without a remainder. -/
theorem roundAt_int (h : realOf n m k = i) : roundAt .zero n m k false 0 = (i.natAbs, false) := by
  have hval : ((i.natAbs : Nat) : ℝ) * 2 ^ (0 : Int) = realOf false m k := by
    have hpos : 0 ≤ realOf false m k := by rw [realOf_false]; positivity
    rw [zpow_zero, mul_one, Nat.cast_natAbs, Int.cast_abs, ← h, realOf_eq, ← realOf_false]
    cases n <;> simp [abs_of_nonneg hpos]
  obtain ⟨hround, hinexact⟩ := roundAt_whole (rm := .zero) (roundedTo_of_eq hval)
  rw [zpow_zero, mul_one] at hval
  exact Prod.ext hround (Bool.eq_false_iff.mpr fun hs => hinexact.mp hs hval.symm)

/-- At a whole operand in range `FEXP2` is exact. -/
theorem fExp2_whole (hm : m ≠ 0) (h : operand e x = .fin n m k) (hi : realOf n m k = i) (hlo : -126 ≤ i) (hhi : i < 128) :
    (fExp2 e x).flags = 0 ∧ ∃ m' k', unpack f32 false (fExp2 e x).code = .fin false m' k' ∧ realOf false m' k' = 2 ^ i := by
  have h' : unpack f32 e.daz x.toNat = .fin n m k := h
  have hsign : (if n then -(i.natAbs : Int) else i.natAbs) = i := by
    have hpos := realOf_pos hm k
    cases n
    · have hR : (0 : ℝ) < i := hi ▸ hpos
      have hnonneg : 0 < i := by exact_mod_cast hR
      simp [abs_of_pos hnonneg]
    · rw [← Bool.not_false, realOf_not] at hi
      have hR : (i : ℝ) < 0 := by rw [← hi]; linarith
      have hneg : i < 0 := by exact_mod_cast hR
      simp [abs_of_neg hneg]
  have hover : ¬(!n && decide (shiftBy m (max k (-30)) ≥ 128) && decide (k ≥ -30)) = true := by
    cases n
    · simp only [Bool.not_false, Bool.true_and, Bool.and_eq_true, decide_eq_true_iff]
      rintro ⟨hge, hk⟩
      rw [max_eq_left hk, ge_iff_le, le_shiftBy_iff, ← realOf_false, hi] at hge
      exact absurd hhi (not_lt.mpr (by exact_mod_cast hge))
    · simp
  have hwhole : (!false && decide (i.natAbs ≤ 149) && (n || decide (i.natAbs < 128))) = true := by
    cases n <;> simp at hsign ⊢ <;> omega
  have hexp : fExp2 e x = { code := (roundPack f32 plainEnv false 1 i false).code, flags := 0 } := by
    simp only [fExp2, h', if_neg hm, if_neg hover, roundAt_int hi, hwhole, if_true, hsign]
    exact if_neg (by simp [hlo])
  have hbias : (fmtBias f32 : Int) = 127 := rfl
  obtain ⟨-, m', k', hunpack, hval⟩ := roundPack_exact (f := f32) (env := plainEnv) (neg := false) (m := 1) (e := i) (.inl rfl) one_ne_zero
    (by decide) (by rw [Nat.cast_one, one_mul]; exact zpow_le_zpow_right₀ one_le_two (by omega))
    (by rw [Nat.cast_one, one_mul]; exact zpow_lt_zpow_right₀ one_lt_two (by omega))
  rw [hexp]
  exact ⟨rfl, m', k', hunpack, by rw [realOf_false, hval, Nat.cast_one, one_mul]⟩

/-- A magnitude that is a power of two has one bit. -/
theorem eq_two_pow_of_mul (hi : (m : ℝ) * 2 ^ k = 2 ^ i) : m = 2 ^ (bitLen m - 1) ∧ k + bitLen m - 1 = i := by
  have h0 : m ≠ 0 := by
    rintro rfl
    rw [Nat.cast_zero, zero_mul] at hi
    exact absurd hi (two_zpow_pos i).ne
  have hpos := bitLen_pos h0
  obtain ⟨hlo, hhi⟩ := binade_of_bitLen h0 0 k
  rw [hi, pow_zero, one_mul] at hlo
  rw [hi, zero_add, pow_one, mul_comm, ← zpow_add_one₀ two_ne_zero] at hhi
  have hplace := binade_unique (le_refl ((2 : ℝ) ^ i)) (zpow_lt_zpow_right₀ one_lt_two (lt_add_one i)) hlo hhi
  rw [Nat.cast_zero, zero_add] at hplace
  have hpow : (m : ℝ) = 2 ^ (bitLen m - 1) := by
    rw [← mul_left_inj' (two_zpow_pos k).ne', hi, ← zpow_natCast, ← zpow_add₀ two_ne_zero]
    congr 1
    omega
  exact ⟨by exact_mod_cast hpow, hplace.symm⟩

/-- At a power of two `FLOG2` is exact. -/
theorem fLog2_power (h : operand e x = .fin false m k) (hi : realOf false m k = 2 ^ i) : (fLog2 e x).flags = 0 ∧
    ∃ n m' k', unpack f32 false (fLog2 e x).code = .fin n m' k' ∧ realOf n m' k' = i := by
  have h' : unpack f32 e.daz x.toNat = .fin false m k := h
  obtain ⟨hm, hlo, hhi, -⟩ := operand_bounds h
  rw [realOf_false] at hi
  obtain ⟨hpow, hplace⟩ := eq_two_pow_of_mul hi
  have h0 : m ≠ 0 := by have := Nat.two_pow_pos (bitLen m - 1); omega
  have hlen : bitLen m ≤ 24 := bitLen_le_iff.mpr hm
  have hlog : fLog2 e x = { code := (roundPack f32 plainEnv (i < 0) i.natAbs 0 false).code, flags := 0 } := by
    simp only [fLog2, h', if_neg h0, Bool.false_eq_true, if_false, if_pos hpow, hplace, fFromInt]
  obtain ⟨m', k', hunpack, hval⟩ := unpack_roundPack_whole (env := plainEnv) (n := i < 0) (w := i.natAbs) (by omega)
  rw [hlog]
  refine ⟨rfl, _, m', k', hunpack, ?_⟩
  rw [realOf_eq, hval, ← mul_one (i.natAbs : ℝ), ← zpow_zero 2, ← realOf_eq, realOf_natAbs, zpow_zero, mul_one]

theorem transcendentalPoints : TranscendentalPoints := by
  intro e x
  have hunpack {v : FVal} (h : operand e x = v) : unpack f32 e.daz x.toNat = v := h
  refine ⟨fun b h r hr => ?nan, fun n h => ⟨?expInf, ?logInf, fun b => ?sinInf⟩, fun n k h => ⟨?expZero, ?logZero, ?sinZero, ?cosZero⟩,
    fun m k hm h => ?logNegative, fun m k h hx => fExp2_overflow h hx, fun n m k i hm h hi hlo hhi => fExp2_whole hm h hi hlo hhi,
    fun m k i h hi => fLog2_power h hi⟩
  case nan =>
    have hr' : r = nanRes f32 b := by rcases hr with rfl | rfl | rfl | rfl <;> simp only [fExp2, fLog2, fSinCos, hunpack h]
    exact hr'
  case expInf => simp only [fExp2, hunpack h]
  case logInf =>
    simp only [fLog2, hunpack h]
    rfl
  case sinInf =>
    simp only [fSinCos, hunpack h]
    rfl
  case expZero => simp only [fExp2, hunpack h, if_true]
  case logZero =>
    simp only [fLog2, hunpack h, if_true]
    rfl
  case sinZero => simp only [fSinCos, hunpack h, if_true, Bool.false_eq_true, if_false]
  case cosZero => simp only [fSinCos, hunpack h, if_true]
  case logNegative =>
    simp only [fLog2, hunpack h, if_neg hm, if_true]
    rfl

end Points

/-- Settles O11: every value is one rounding of an exact real, since `roundAt` is told the magnitude rounded down and whether it is more. -/
theorem floatControlRoundingAndSpecials : Obligations.FloatControlRoundingAndSpecials :=
  ⟨floatControlFields, roundingResults, floatSpecialOperands, floatArithmeticValues, floatConversionValues, narrowFloatValues,
    transcendentalPoints⟩

end Sys2Proof.Laws
end

section
/-!
Canonical memory, the memory system: lines, pages, streams and events keep it (R141 to R161, R292 to R295).
All memory is written by `writeN`, `writeLe` and `clearN`, which keep the form. So each operation of the model has one lemma: one that writes
nothing leaves `mem` as it is (an equation `_mem`), and one that writes keeps the form (an implication `_wf`).
-/

namespace Sys2Proof.Laws

open Sys2Proof.Machine

section Parts

variable {α : Type} {s t : State}

@[simp] theorem ite_mem {p : Prop} [Decidable p] : (if p then s else t).mem = if p then s.mem else t.mem := apply_ite State.mem ..

/-- A choice of two states that both have the form. -/
theorem ite_wf {p : Prop} [Decidable p] (hs : memWf s.mem = true) (ht : memWf t.mem = true) : memWf (if p then s else t).mem = true := by
  split
  · exact hs
  · exact ht

@[simp] theorem memWf_ite {p : Prop} [Decidable p] {m n : Memory} : memWf (if p then m else n) = if p then memWf m else memWf n :=
  apply_ite memWf ..

@[simp] theorem foldl_mem {f : State → α → State} (hf : ∀ s a, (f s a).mem = s.mem) (l : List α) (s : State) :
    (l.foldl f s).mem = s.mem := by
  induction l generalizing s with
  | nil => rfl
  | cons a l ih => rw [List.foldl_cons, ih, hf]

@[simp] theorem foldl_modGroup_mem (n : α → Nat) (f : α → Group → Group) (l : List α) (s : State) :
    (l.foldl (fun s a => modGroup s (n a) (f a)) s).mem = s.mem := by
  refine foldl_mem (fun _ _ => ?_) l s
  rfl

theorem foldl_wf {f : State → α → State} (hf : ∀ s a, memWf s.mem = true → memWf (f s a).mem = true) (h : memWf s.mem = true) (l : List α) :
    memWf (l.foldl f s).mem = true := by
  induction l generalizing s with
  | nil => exact h
  | cons a l ih => exact ih (hf s a h)

/-- A change in steps that each answer a state and what has been read so far. -/
theorem foldl_fst_wf {β : Type} {f : State × β → α → State × β} {r : State × β}
    (hf : ∀ r a, memWf r.1.mem = true → memWf (f r a).1.mem = true) (h : memWf r.1.mem = true) (l : List α) :
    memWf (l.foldl f r).1.mem = true := by
  induction l generalizing r with
  | nil => exact h
  | cons a l ih => exact ih (hf r a h)

/-- The state that an instruction or event ends in, if it ends in one, has its memory in canonical form. -/
def EndsWf : Out → Prop
  | .next t => memWf t.mem = true
  | .fault _ => True
  | .refused _ => True

@[simp] theorem endsWf_next  : EndsWf (.next t) ↔ memWf t.mem = true := Iff.rfl

@[simp] theorem endsWf_ite {p : Prop} [Decidable p] {x y : Out} : EndsWf (if p then x else y) ↔ if p then EndsWf x else EndsWf y := by
  split <;> rfl

end Parts

@[simp] theorem fillLine_mem (s : State) (k : Nat) (rc : BitVec 6) (seq : BitVec 4) : (fillLine s k rc seq).mem = s.mem := by rfl

@[simp] theorem emptyLine_mem (s : State) (k : Nat) : (emptyLine s k).mem = s.mem := by rfl

@[simp] theorem consumeLine_mem (s : State) (k : Nat) : (consumeLine s k).mem = s.mem := by
  simp [consumeLine]

@[simp] theorem draw_mem (s : State) : (draw s).2.mem = s.mem := by rfl

@[simp] theorem drawBytes_mem (s : State) (n : Nat) : (drawBytes s n).2.mem = s.mem := by rfl

@[simp] theorem owe_mem (s : State) (v type : Nat) (fs : List (Nat × Nat)) : (owe s v type fs).mem = s.mem := by rfl

@[simp] theorem dropTlb_mem (s : State) (bad : TlbEntry → Bool) : (dropTlb s bad).mem = s.mem := by rfl

@[simp] theorem holdEntry_mem (s : State) (e : TlbEntry) : (holdEntry s e).mem = s.mem := by
  unfold holdEntry
  repeat' split <;> simp

@[simp] theorem holdLeaf_mem (s : State) (v : Nat) (va : DWord) (l : Leaf) (die : Nat) : (holdLeaf s v va l die).mem = s.mem := by
  simp [holdLeaf]

@[simp] theorem copyLine_wf {s : State} (h : memWf s.mem = true) (src dst : Nat) : memWf (copyLine s src dst).mem = true := by
  simp [copyLine, h, writeN_wf]

@[simp] theorem copyPoison_mem (s : State) (src dst : Nat) : (copyPoison s src dst).mem = s.mem := by
  simp [copyPoison]

@[simp] theorem sealLine_wf {s : State} (h : memWf s.mem = true) (pa slot : Nat) : memWf (sealLine s pa slot).mem = true := by
  simp [sealLine, h, writeN_wf]

@[simp] theorem dropProt_wf {s : State} (h : memWf s.mem = true) (pa : Nat) : memWf (dropProt s pa).mem = true := by
  simp [dropProt, h, writeN_wf]

@[simp] theorem settleCounted_wf {s : State} (h : memWf s.mem = true) (pa : Nat) : memWf (settleCounted s pa).mem = true := by
  unfold settleCounted
  dsimp only
  split <;> simp [h, writeN_wf]

@[simp] theorem underRead_wf {s : State} (h : memWf s.mem = true) (pa : Nat) : memWf (underRead s pa).mem = true := by
  unfold underRead
  dsimp only
  split <;> simp [h]

@[simp] theorem endTomb_mem (s : State) (pa : Nat) : (endTomb s pa).mem = s.mem := by
  simp [endTomb]

@[simp] theorem endCounting_wf {s : State} (h : memWf s.mem = true) (pa : Nat) : memWf (endCounting s pa).mem = true := by
  simp [endCounting, h]

@[simp] theorem leaveProt_wf {s : State} (h : memWf s.mem = true) (pa : Nat) : memWf (leaveProt s pa).mem = true := by
  unfold leaveProt
  split
  · exact h
  · have h1 := underRead_wf h pa
    refine dropProt_wf ?_ pa
    split
    · exact sealLine_wf h1 _ _
    · exact h1

@[simp] theorem evictLine_wf {s : State} (h : memWf s.mem = true) (pa : Nat) : memWf (evictLine s pa).mem = true := by
  simp [evictLine, h]

@[simp] theorem displace_wf {s : State} (h : memWf s.mem = true) (used : State → List Nat) (room n : Nat) :
    memWf (displace used room n s).mem = true := by
  induction n generalizing s with
  | zero => exact h
  | succ n ih =>
    unfold displace
    split
    · exact h
    · dsimp only
      split
      · exact ih (evictLine_wf (s := (draw s).2) h _)
      · exact h

@[simp] theorem makeRoom_wf {s : State} (h : memWf s.mem = true) (v pa : Nat) (prot : Bool) : memWf (makeRoom s v pa prot).mem = true := by
  simp [makeRoom, h]

@[simp] theorem fitWays_wf {s : State} (h : memWf s.mem = true) (v : Nat) : memWf (fitWays s v).mem = true :=
  foldl_wf (fun _ _ h => foldl_wf (fun _ _ h => displace_wf h _ _ _) h _) h _

@[simp] theorem moveLine_wf {s : State} (h : memWf s.mem = true) (v pa : Nat) : memWf (moveLine s v pa).mem = true := by
  simp [moveLine, h]

@[simp] theorem tagFailed_mem (s : State) (v pa : Nat) : (tagFailed s v pa).mem = s.mem := by
  simp [tagFailed]

@[simp] theorem openLine_wf {s : State} (h : memWf s.mem = true) (v pa slot : Nat) : memWf (openLine s v pa slot).mem = true := by
  unfold openLine
  dsimp only
  split
  · simp [h, writeN_wf]
  · rw [tagFailed_mem, foldl_mem fun _ _ => poisonUnit_mem ..]
    simp [h, writeN_wf]

@[simp] theorem fillProt_wf {s : State} (h : memWf s.mem = true) (v pa slot : Nat) : memWf (fillProt s v pa slot).mem = true := by
  unfold fillProt
  split
  · exact moveLine_wf h v pa
  · exact openLine_wf (makeRoom_wf (evictLine_wf h pa) v pa true) v pa slot

@[simp] theorem readyLine_wf {s : State} (h : memWf s.mem = true) (v : Nat) (va : DWord) (l : Leaf) (die : Nat) :
    memWf (readyLine s v va l die).mem = true := by
  simp [readyLine, h]

@[simp] theorem ready_wf {s : State} (h : memWf s.mem = true) (v : Nat) (va : DWord) (die : Nat) : memWf (ready s v va die).mem = true := by
  unfold ready
  split <;> simp [h]

@[simp] theorem pagedStore_wf {s : State} (h : memWf s.mem = true) (v : Nat) (l : Leaf) (pa : Nat) (bs : List Byte) :
    memWf (pagedStore s v l pa bs).mem = true := by
  simp [pagedStore, h, writeN_wf]

theorem flushAt_wf {s : State} (h : memWf s.mem = true) (e : DWord) (pa : Nat) : memWf (flushAt s e pa).mem = true := by
  have h2 : memWf (endTomb (underRead s pa) pa).mem = true := by simp [h]
  unfold flushAt
  split
  · exact h
  · dsimp only
    split
    · split
      · exact sealLine_wf h2 pa _
      · exact h2
    · exact h2

@[simp] theorem readPiece_wf {s : State} (h : memWf s.mem = true) (v a n : Nat) : memWf (readPiece s v a n).1.mem = true := by
  unfold readPiece
  split <;> simp [h]

@[simp] theorem pagedRead_wf {s : State} (h : memWf s.mem = true) (v a n : Nat) : memWf (pagedRead s v a n).1.mem = true := by
  refine foldl_fst_wf (fun _ _ h => ?_) h _
  exact readPiece_wf h _ _ _

@[simp] theorem pagedWrite_wf {s : State} (h : memWf s.mem = true) (fuel v a : Nat) (bs : List Byte) :
    memWf (pagedWrite fuel s v a bs).mem = true := by
  induction fuel generalizing s a bs with
  | zero => exact h
  | succ fuel ih =>
    unfold pagedWrite
    split
    · exact h
    · refine ih ?_ _ _
      split
      · exact h
      · exact pagedStore_wf (readyLine_wf h _ _ _ _) _ _ _ _

theorem deviceLoad_wf {s : State} {r : State × List Byte × Bool} (h : memWf s.mem = true) {v a n : Nat} (e : deviceLoad s v a n = some r) :
    memWf r.1.mem = true := by
  unfold deviceLoad at e
  split at e <;> cases e
  exact pagedRead_wf h v a n

theorem deviceRead_wf {s : State} {r : State × List Byte} (h : memWf s.mem = true) {v a n : Nat} (e : deviceRead s v a n = some r) :
    memWf r.1.mem = true := by
  unfold deviceRead at e
  split at e
  · rename_i q hq
    split at e <;> cases e
    exact deviceLoad_wf h hq
  · cases e

theorem deviceWrite_wf {s t : State} (h : memWf s.mem = true) {v a : Nat} {bs : List Byte} (e : deviceWrite s v a bs = some t) :
    memWf t.mem = true := by
  unfold deviceWrite at e
  split at e <;> cases e
  exact pagedWrite_wf h _ v a bs

/-- A record written to a stream, by any way of writing that keeps the form. -/
theorem streamWrite_wf {s : State} {w : State → Nat → List Byte → Option State}
    (hw : ∀ s a bs t, memWf s.mem = true → w s a bs = some t → memWf t.mem = true) (h : memWf s.mem = true) (time : DWord)
    (x : Machine.Stream) (r : List Byte) :
    memWf (streamWrite s time x w r).1.mem = true := by
  have put : ∀ {s : State} {x : Machine.Stream} {r : List Byte} {q : State × Machine.Stream}, memWf s.mem = true →
      streamPut x (w s) r = some q → memWf q.1.mem = true := by
    intro s x r q h e
    unfold streamPut at e
    split at e
    · cases e
    · obtain ⟨t, ht, rfl⟩ := Option.map_eq_some_iff.mp e
      exact hw _ _ _ _ h ht
  unfold streamWrite
  dsimp only
  split
  · rename_i q hq
    refine put ?_ hq
    split
    · exact h
    · split
      · rename_i hq
        have h1 := put h hq
        exact h1
      · exact h
  · split
    · exact h
    · split
      · rename_i hq
        have h1 := put h hq
        exact h1
      · exact h

@[simp] theorem pkgRecord_wf {s : State} (h : memWf s.mem = true) (time : DWord) (type : Nat) (r : List Byte) :
    memWf (pkgRecord s time type r).mem = true := by
  unfold pkgRecord
  split
  · exact h
  · refine streamWrite_wf (fun s a bs t h e => ?_) h _ _ _
    cases e
    exact writeN_wf h _ bs

@[simp] theorem eventAt_wf {s : State} (h : memWf s.mem = true) (time : DWord) (v type : Nat) (fs : List (Nat × Nat)) :
    memWf (eventAt s time v type fs).mem = true := by
  have hw := streamWrite_wf (w := fun s a bs => deviceWrite s v a bs) (fun _ _ _ _ h e => deviceWrite_wf h e) h time (vchip s v).stream
    (recordBytes time type fs)
  unfold eventAt
  dsimp only
  split
  · exact h
  · split
    · exact pkgRecord_wf h ..
    · simp [hw]

@[simp] theorem event_wf {s : State} (h : memWf s.mem = true) (v type : Nat) (fs : List (Nat × Nat)) :
    memWf (event s v type fs).mem = true := by
  simp [event, h]

@[simp] theorem pkgEvent_wf {s : State} (h : memWf s.mem = true) (type : Nat) (fs : List (Nat × Nat)) :
    memWf (pkgEvent s type fs).mem = true := by
  simp [pkgEvent, h]

@[simp] theorem payOwed_wf {s : State} (h : memWf s.mem = true) : memWf (payOwed s).mem = true :=
  foldl_wf (fun _ _ h => eventAt_wf h _ _ _ _) (s := { s with owed := [] }) h _

end Sys2Proof.Laws
end

section
/-!
Canonical memory, the issue of an instruction: its checks, its accesses, traps and operations in flight (R25, R234, R276 to R279).
-/

namespace Sys2Proof.Laws

open Sys2Proof.Machine

@[simp] theorem putBarrier_mem (s : State) (team b : Nat) (r : Barrier × Bool) : (putBarrier s team b r).mem = s.mem := by
  simp [putBarrier]

@[simp] theorem leaveOne_mem (s : State) (team : Nat) (g : Group) (b : Nat) : (leaveOne team g s b).mem = s.mem := by
  unfold leaveOne
  repeat' split <;> simp

@[simp] theorem retireGroup_mem (s : State) (n : Nat) : (retireGroup s n).mem = s.mem := by
  unfold retireGroup
  split <;> simp

@[simp] theorem takeTrap_mem (s : State) (n : Nat) (f : FaultMark) : (takeTrap s n f).mem = s.mem := by
  unfold takeTrap
  split <;> simp

@[simp] theorem fault_mem (s : State) (c : Ctx) (cause : BitVec 8) (lanes : Mask) (addr : DWord) :
    (fault s c cause lanes addr).mem = s.mem := by
  simp [fault]

@[simp] theorem stallFor_mem (s : State) (c : Ctx) (r : Stall) : (stallFor s c r).mem = s.mem := by rfl

@[simp] theorem countIssue_mem (s : State) (i : Instr) (c : Ctx) : (countIssue i c s).mem = s.mem := by
  refine foldl_mem (fun _ _ => ?_) _ _
  rfl

@[simp] theorem issued_mem (s : State) (i : Instr) (c : Ctx) : (issued i c s).mem = s.mem := by
  simp [issued]

@[simp] theorem missLookahead_mem (s : State) (i : Instr) (c : Ctx) : (missLookahead i c s).mem = s.mem := by
  simp [missLookahead]

@[simp] theorem applyBlock_mem (s : State) (i : Instr) (c : Ctx) (x1 : Block) : (applyBlock i c s x1).mem = s.mem := by
  unfold applyBlock
  split <;> simp

/-- An instruction that issues, whatever its own effect is, if that keeps the form. -/
theorem issue_wf {s : State} (h : memWf s.mem = true) (i : Instr) {k : Ctx → State} (hk : ∀ c, memWf (k c).mem = true) :
    EndsWf (issue i s k) := by
  unfold issue
  split
  · trivial
  split
  · simp [h]
  · exact hk _

theorem issueConv_wf {s : State} (h : memWf s.mem = true) (i : Instr) {k : Ctx → State → State}
    (hk : ∀ c u, memWf u.mem = true → memWf (k c u).mem = true) :
    EndsWf (issueConv i s k) := by
  unfold issueConv
  split
  · trivial
  split
  · simp [h]
  dsimp only
  split
  · split
    · simp [h]
    · exact hk _ _ h
  · exact h

@[simp] theorem readyPlace_wf {s : State} (h : memWf s.mem = true) (t : Team) (x1 : Place) : memWf (readyPlace s t x1).mem = true := by
  unfold readyPlace
  split <;> simp [h]

@[simp] theorem usePlace_mem (s : State) (v core bay : Nat) (load : Bool) (p : Place) : (usePlace s v core bay load p).mem = s.mem := by
  unfold usePlace
  split <;> simp

@[simp] theorem corePlace_wf {s : State} (h : memWf s.mem = true) (c : Ctx) (load : Bool) (p : Place) :
    memWf (corePlace s c load p).mem = true := by
  simp [corePlace, h]

@[simp] theorem writePlace_wf {s : State} (h : memWf s.mem = true) (t : Team) (p : Place) (bs : List Byte) :
    memWf (writePlace s t p bs).mem = true := by
  unfold writePlace
  split <;> simp [h, writeN_wf]

@[simp] theorem withdrawIdem_mem (s : State) (c : Ctx) (yes : Bool) : (withdrawIdem s c yes).mem = s.mem := by
  simp [withdrawIdem]

@[simp] theorem sendLeg_mem (s : State) (v : Nat) (l : Leg) (fs : List Flit) : (sendLeg s v l fs).mem = s.mem := by rfl

@[simp] theorem modOp_mem (s : State) (tag : BitVec 32) (f : PodOp → PodOp) : (modOp s tag f).mem = s.mem := by rfl

@[simp] theorem pieceFailed_wf {s : State} (h : memWf s.mem = true) (o : PodOp) (kind : Nat) (p : Nat × DWord) :
    memWf (pieceFailed s o kind p).mem = true := by
  unfold pieceFailed
  dsimp only
  split
  · exact h
  · split <;> exact event_wf h ..

@[simp] theorem finishOp_mem (s : State) (o : PodOp) : (finishOp s o).mem = s.mem := by
  unfold finishOp
  split <;> rfl

@[simp] theorem endPiece_wf {s : State} (h : memWf s.mem = true) (tag : BitVec 32) (key kind : Nat) (bs : List Byte) (pois : Bool) :
    memWf (endPiece s tag key kind bs pois).mem = true := by
  unfold endPiece
  split
  · exact h
  · split
    · exact h
    · rename_i o _ _ p _
      have hr : memWf (if kind != 0 && bs.isEmpty then drawBytes s (resultBytes o) else (bs, s)).2.mem = true := by
        split <;> simp [h]
      generalize (if kind != 0 && bs.isEmpty then drawBytes s (resultBytes o) else (bs, s)) = r at hr ⊢
      dsimp only
      have h2 : ∀ s1, memWf s1.mem = true → memWf (if kind == 0 then s1 else pieceFailed s1 o kind p).mem = true := fun s1 h => by
        split
        · exact h
        · exact pieceFailed_wf h ..
      split
      · exact (finishOp_mem ..).symm ▸ h2 (modGroup _ _ _) hr
      · exact h2 (modGroup _ _ _) hr

@[simp] theorem failOp_wf {s : State} (h : memWf s.mem = true) (tag : BitVec 32) (kind : Nat) : memWf (failOp s tag kind).mem = true := by
  unfold failOp
  split
  · exact h
  · exact foldl_wf (fun _ _ h => endPiece_wf h ..) h _

@[simp] theorem failPiece_wf {s : State} (h : memWf s.mem = true) (tag : BitVec 32) (key kind : Nat) :
    memWf (failPiece s tag key kind).mem = true := by
  simp [failPiece, h]

@[simp] theorem beginOp_mem (s : State) (mk : BitVec 32 → PodOp) : (beginOp s mk).1.mem = s.mem := by
  simp [beginOp]

@[simp] theorem sendTo_wf {s : State} (h : memWf s.mem = true) (v vcn label : Nat) (tag : BitVec 32) (fs : List Flit) :
    memWf (sendTo s v vcn label tag fs).mem = true := by
  unfold sendTo
  dsimp only
  split
  · simp [h]
  · exact foldl_wf (fun _ _ h => failPiece_wf h ..) h _

end Sys2Proof.Laws
end

section
/-!
Canonical memory, accesses of lanes, spans, calls, fetch and time (R36, R48, R61 to R66, R149 to R152).
-/

namespace Sys2Proof.Laws

open Sys2Proof.Machine

@[simp] theorem laneOp_mem (s : State) (i : Instr) (f : Nat → Lane → Lane) (c : Ctx) : (laneOp i f c s).mem = s.mem := by
  simp [laneOp]

@[simp] theorem vecOp_wf {s : State} (h : memWf s.mem = true) (i : Instr) (d : BitVec 6) (f : Lane → Word) : EndsWf (vecOp i d f s) := by
  refine issue_wf h _ fun c => ?_
  simp [h]

@[simp] theorem predOp_wf {s : State} (h : memWf s.mem = true) (i : Instr) (d : BitVec 3) (f : Lane → Bool) : EndsWf (predOp i d f s) := by
  refine issue_wf h _ fun c => ?_
  simp [h]

@[simp] theorem vec3_wf {s : State} (h : memWf s.mem = true) (i : Instr) (d a b : BitVec 6) (f : Word → Word → Word) :
    EndsWf (vec3 i d a b f s) := vecOp_wf h ..

@[simp] theorem vec2_wf {s : State} (h : memWf s.mem = true) (i : Instr) (d a : BitVec 6) (f : Word → Word) :
    EndsWf (vec2 i d a f s) := vecOp_wf h ..

@[simp] theorem arithFault_mem (s : State) (c : Ctx) (lanes : Mask) (exc : List (BitVec 5)) : (arithFault s c lanes exc).mem = s.mem := by
  simp [arithFault]

@[simp] theorem floatOp_wf {s : State} (h : memWf s.mem = true) (i : Instr) (f : FpEnv → Lane → Lane × BitVec 5) :
    EndsWf (floatOp i f s) := by
  refine issue_wf h _ fun c => ?_
  simp [h]

@[simp] theorem float3_wf {s : State} (h : memWf s.mem = true) (i : Instr) (d a b : BitVec 6) (f : FpEnv → FVal → FVal → FRes) :
    EndsWf (float3 i d a b f s) := floatOp_wf h ..

@[simp] theorem float2_wf {s : State} (h : memWf s.mem = true) (i : Instr) (d a : BitVec 6) (f : FpEnv → FVal → FRes) :
    EndsWf (float2 i d a f s) := floatOp_wf h ..

@[simp] theorem loadLane_wf {s : State} (h : memWf s.mem = true) (c : Ctx) (p : Place) (lane : Nat) (r : BitVec 6) (n : Nat) :
    memWf (loadLane s c p lane r n).mem = true := by
  simp [loadLane, h]

@[simp] theorem atomicPlace_wf {s : State} (h : memWf s.mem = true) (t : Team) (p : Place) (i : Instr) (d c : DWord) :
    memWf (atomicPlace s t p i d c).1.mem = true := by
  unfold atomicPlace
  dsimp only
  split
  · split
    · split <;> simp [h]
    · exact h
  · exact writePlace_wf h ..

@[simp] theorem setFar_mem (s : State) (k rank n : Nat) (l : LineMeta) : (setFar s k rank n l).mem = s.mem := by rfl

@[simp] theorem onFar_mem (s : State) (t : Team) (rank n : Nat) (f : LineMeta → LineMeta) : (onFar s t rank n f).mem = s.mem := by
  unfold onFar
  split <;> simp

@[simp] theorem sendReq_wf {s : State} (h : memWf s.mem = true) (n : Nat) (t : Team) (sp : Span) (q : SpanReq) :
    memWf (sendReq s n t sp q).mem = true := by
  simp [sendReq, h]

@[simp] theorem unpoison_mem (s : State) (ks : List Nat) : (unpoison ks s).mem = s.mem := by rfl

@[simp] theorem reqLane_wf {s : State} (h : memWf s.mem = true) (t : Team) (q : SpanReq) (k : Nat) (l : SpanLane) :
    memWf (reqLane t q s k l).1.mem = true := by
  unfold reqLane
  (repeat' split) <;> simp [h, writeN_wf]

@[simp] theorem reqLanes_wf {s : State} (h : memWf s.mem = true) (t : Team) (q : SpanReq) (ps : List (Nat × SpanLane)) :
    memWf (reqLanes t q ps s).1.mem = true := by
  induction ps generalizing s with
  | nil => exact h
  | cons p ps ih => exact ih (reqLane_wf h t q p.1 p.2)

@[simp] theorem reqLine_mem (s : State) (q : SpanReq) (k : Nat) : (reqLine q s k).mem = s.mem := by
  simp [reqLine]

@[simp] theorem reqFailed_wf {s : State} (h : memWf s.mem = true) (t : Team) (sp : Span) (q : SpanReq) (kind : Nat) :
    memWf (reqFailed s t sp q kind).mem = true := foldl_wf (fun _ _ h => event_wf h _ _ _) h _

@[simp] theorem openOuts_mem (s : State) (q : SpanReq) (ls : List SpanLane) : (openOuts q ls s).1.mem = s.mem := by
  induction ls generalizing s with
  | nil => rfl
  | cons l ls ih => exact (ih _).trans (drawBytes_mem s _)

@[simp] theorem failReq_wf {s : State} (h : memWf s.mem = true) (n : Nat) (t : Team) (sp : Span) (q : SpanReq) :
    memWf (failReq s n t sp q).mem = true := by
  unfold failReq
  split <;> simp [h]

/-- An access performed at a member of this package. -/
theorem atLines_wf {s u : State} (h : memWf s.mem = true) {t : Team} {q : SpanReq} {outs : List (List Byte × Bool)}
    (e : atLines s t q = .did u outs) :
    memWf u.mem = true := by
  unfold atLines at e
  dsimp only at e
  split at e
  · cases e
  · split at e
    · cases e
    · cases e
      rw [foldl_mem fun _ _ => reqLine_mem ..]
      split
      · exact (unpoison_mem _ _).symm ▸ reqLanes_wf h ..
      · exact reqLanes_wf h ..

theorem performReq_wf {s u : State} (h : memWf s.mem = true) {n : Nat} {q : SpanReq} (e : performReq s n q = some u) :
    memWf u.mem = true := by
  unfold performReq at e
  split at e
  · cases e; exact h
  · split at e
    · cases e; exact h
    · split at e
      · cases e; exact h
      · split at e
        · cases e
        · split at e
          · cases e; exact failReq_wf h ..
          · split at e
            · cases e
            · split at e
              · split at e <;> cases e
                exact sendReq_wf h ..
              · split at e
                · cases e
                · split at e
                  · cases e
                  · split at e <;> cases e
                    · exact reqFailed_wf h ..
                    · rename_i hu
                      have h1 := atLines_wf h hu
                      exact h1

@[simp] theorem submitReq_wf {s : State} (h : memWf s.mem = true) (n : Nat) (q : SpanReq) : memWf (submitReq s n q).mem = true := by
  unfold submitReq
  split
  · exact performReq_wf h ‹_›
  · exact h

@[simp] theorem retryReqs_wf {s : State} (h : memWf s.mem = true) (pick : SpanReq → Bool) (n : Nat) :
    memWf (retryReqs pick s n).mem = true := by
  unfold retryReqs
  split
  · exact h
  · split
    · exact h
    · exact foldl_wf (fun _ _ h => submitReq_wf h _ _) (s := modGroup s n fun g => { g with reqs := [] }) h _

@[simp] theorem retryAll_wf {s : State} (h : memWf s.mem = true) : memWf (retryAll s).mem = true :=
  foldl_wf (fun _ _ h => retryReqs_wf h _ _) (foldl_wf (fun _ _ h => retryReqs_wf h _ _) h _) _

@[simp] theorem ageReqs_mem (s : State) (team : Nat) : (ageReqs s team).mem = s.mem := by rfl

/-- An access of some lanes, whatever each lane's effect is, if that keeps the form. -/
theorem memLanes_wf {s : State} (h : memWf s.mem = true) (i : Instr) (a : Acc) (addr : Ctx → Nat → DWord)
    {eff : Ctx → State → Nat → DWord → State} (he : ∀ c u k va, memWf u.mem = true → memWf (eff c u k va).mem = true)
    (reqs : Ctx → List (Nat × DWord) → List SpanReq) :
    EndsWf (memLanes i a addr eff s reqs) := by
  refine issue_wf h _ fun c => ?_
  dsimp only
  split
  · simp [h]
  generalize (if (a.write && !a.atomic) = true then (_ : Nat) else _) = n
  split
  · simp [h]
  split
  · simp [h]
  · refine foldl_wf (fun _ _ h => submitReq_wf h _ _) (foldl_wf (fun _ _ h => he _ _ _ _ h) ?_ _) _
    simp [h]

@[simp] theorem loadAt_wf {s : State} (h : memWf s.mem = true) (c : Ctx) (r : BitVec 6) (n lane : Nat) (va : DWord) :
    memWf (loadAt c r n s lane va).mem = true := by
  unfold loadAt
  split <;> simp [h]

@[simp] theorem storeAt_wf {s : State} (h : memWf s.mem = true) (c : Ctx) (bs : List Byte) (lane : Nat) (va : DWord) :
    memWf (storeAt c bs s lane va).mem = true := by
  unfold storeAt
  split <;> simp [h]

@[simp] theorem atomAt_wf {s : State} (h : memWf s.mem = true) (c : Ctx) (i : Instr) (r : BitVec 6) (d cmp : Word) (lane : Nat)
    (va : DWord) :
    memWf (atomAt c i r d cmp s lane va).mem = true := by
  unfold atomAt
  split <;> simp [h]

@[simp] theorem releaseTeam_mem (s : State) (team k : Nat) : (releaseTeam s team k).mem = s.mem := by rfl

@[simp] theorem checkSpanb_mem (s : State) (k : Nat) : (checkSpanb s k).mem = s.mem := by
  unfold checkSpanb
  split <;> simp

@[simp] theorem arriveMember_mem (s : State) (k rank : Nat) : (arriveMember s k rank).mem = s.mem := by
  simp [arriveMember]

@[simp] theorem attachMember_wf {s : State} (h : memWf s.mem = true) (k rank : Nat) : memWf (attachMember s k rank).mem = true := by
  simp [attachMember, h]

@[simp] theorem releaseSpan_mem (s : State) (k : Nat) : (releaseSpan s k).mem = s.mem := by
  unfold releaseSpan
  split <;> simp

@[simp] theorem detachMember_wf {s : State} (h : memWf s.mem = true) (k rank : Nat) : memWf (detachMember s k rank).mem = true := by
  unfold detachMember
  split <;> simp [h]

@[simp] theorem settleSpan_wf {s : State} (h : memWf s.mem = true) (team : Nat) : memWf (settleSpan s team).mem = true := by
  unfold settleSpan
  (repeat' split) <;> simp [h]

@[simp] theorem execSpanDetachment_wf {s : State} (h : memWf s.mem = true) (team : Nat) : EndsWf (execSpanDetachment team s) := by
  unfold execSpanDetachment
  (repeat' split) <;> simp [h]

@[simp] theorem peerStep_wf {s : State} (h : memWf s.mem = true) (k rank : Nat) (p : PeerStep) :
    memWf (peerStep s k rank p).mem = true := by
  unfold peerStep
  (repeat' split) <;> simp [h]

@[simp] theorem execBra_wf {s : State} (h : memWf s.mem = true) (o : BitVec 20) (n : BitVec 1) (g : BitVec 3) :
    EndsWf (execBra o n g s) := by
  refine issue_wf h _ fun c => ?_
  simp [h]

@[simp] theorem execSbra_wf {s : State} (h : memWf s.mem = true) (k : BitVec 12) (a : BitVec 6) (z : BitVec 1) :
    EndsWf (execSbra k a z s) := by
  refine issue_wf h _ fun c => ?_
  simp [h]

@[simp] theorem execJmp_wf {s : State} (h : memWf s.mem = true) (a : BitVec 6) : EndsWf (execJmp a s) := by
  refine issue_wf h _ fun c => ?_
  simp [h]

@[simp] theorem spillLane_wf {s : State} (h : memWf s.mem = true) (c : Ctx) (i : Nat) : memWf (spillLane c s i).mem = true := by
  simp [spillLane, h]

@[simp] theorem callLanes_wf {s : State} (h : memWf s.mem = true) (i : Instr) (c : Ctx) (target : Nat → Lane → DWord) :
    memWf (callLanes i c target s).mem = true := by
  unfold callLanes
  dsimp only
  split
  · simp [h]
  · split
    · simp [h]
    · split
      · simp [h]
      · exact foldl_wf (fun _ _ h => spillLane_wf h c _) (by simp [h]) _

@[simp] theorem execCall_wf {s : State} (h : memWf s.mem = true) (o : BitVec 20) (n : BitVec 1) (g : BitVec 3) :
    EndsWf (execCall o n g s) := by
  refine issue_wf h _ fun c => ?_
  simp [h]

@[simp] theorem execCallv_wf {s : State} (h : memWf s.mem = true) (a b : BitVec 6) : EndsWf (execCallv a b s) := by
  refine issue_wf h _ fun c => ?_
  dsimp only
  split <;> simp [h]

@[simp] theorem popLane_wf {s : State} (h : memWf s.mem = true) (c : Ctx) (i : Nat) : memWf (popLane s c i).1.mem = true := by
  unfold popLane
  dsimp only
  split
  · exact h
  · split
    · exact h
    · split
      · exact h
      · exact corePlace_wf h c true _

@[simp] theorem popAll_wf {s : State} (h : memWf s.mem = true) (c : Ctx) (is : List Nat) : memWf (popAll c is s).1.mem = true := by
  induction is generalizing s with
  | nil => exact h
  | cons i is ih => exact ih (popLane_wf h c i)

@[simp] theorem askFill_wf {s : State} (h : memWf s.mem = true) (c : Ctx) (i : Nat) : memWf (askFill c s i).mem = true := by
  unfold askFill
  dsimp only
  split
  · exact h
  · split
    · exact submitReq_wf (s := onGroup s c _) h _ _
    · exact h

@[simp] theorem execRet_wf {s : State} (h : memWf s.mem = true) (n : BitVec 1) (g : BitVec 3) : EndsWf (execRet n g s) := by
  refine issue_wf h _ fun c => ?_
  have h1 := popAll_wf h c (lanesIn c.g (acting c (.ret n g)))
  dsimp only
  split
  · simp [h]
  split
  · simp [h]
  split
  · refine foldl_wf (fun _ _ h => askFill_wf h _ _) ?_ _
    simp [h]
  split
  · simp [h]
  · simp [h1]

@[simp] theorem leaveSpan_wf {s : State} (h : memWf s.mem = true) (team : Nat) : memWf (leaveSpan s team).mem = true := by
  unfold leaveSpan
  (repeat' split) <;> simp [h]

@[simp] theorem retireIfDone_wf {s : State} (h : memWf s.mem = true) (n : Nat) : memWf (retireIfDone s n).mem = true := by
  unfold retireIfDone
  split <;> simp [h]

@[simp] theorem execExit_wf {s : State} (h : memWf s.mem = true) (n : BitVec 1) (g : BitVec 3) : EndsWf (execExit n g s) := by
  refine issue_wf h _ fun c => ?_
  simp [h]

@[simp] theorem execRefill_wf {s : State} (h : memWf s.mem = true) (n : BitVec 1) (g : BitVec 3) : EndsWf (execRefill n g s) := by
  refine issue_wf h _ fun c => ?_
  simp [h]

@[simp] theorem execNop_wf {s : State} (h : memWf s.mem = true) (n : BitVec 1) (g : BitVec 3) : EndsWf (execNop n g s) := by
  refine issue_wf h _ fun c => ?_
  simp [h]

@[simp] theorem execYield_wf {s : State} (h : memWf s.mem = true) (n : BitVec 1) (g : BitVec 3) : EndsWf (execYield n g s) := by
  refine issue_wf h _ fun c => ?_
  simp [h]

@[simp] theorem execSleep_wf {s : State} (h : memWf s.mem = true) (k : BitVec 16) (n : BitVec 1) (g : BitVec 3) :
    EndsWf (execSleep k n g s) := by
  refine issue_wf h _ fun c => ?_
  simp [h]

@[simp] theorem execTrap_wf {s : State} (h : memWf s.mem = true) (k : BitVec 16) (n : BitVec 1) (g : BitVec 3) :
    EndsWf (execTrap k n g s) := by
  refine issue_wf h _ fun c => ?_
  simp [h]

@[simp] theorem execBrk_wf {s : State} (h : memWf s.mem = true) (k : BitVec 16) (n : BitVec 1) (g : BitVec 3) :
    EndsWf (execBrk k n g s) := by
  refine issue_wf h _ fun c => ?_
  simp [h]

@[simp] theorem execSleepExpiry_wf {s : State} (h : memWf s.mem = true) (n lane : Nat) : EndsWf (execSleepExpiry n lane s) := by
  unfold execSleepExpiry
  (repeat' split) <;> simp [h]

@[simp] theorem execIllegalInstruction_wf {s : State} (h : memWf s.mem = true) : EndsWf (execIllegalInstruction s) := by
  refine issue_wf h _ fun c => ?_
  simp [h]

@[simp] theorem waitPhase_mem (s : State) (c : Ctx) (b : Nat) : (waitPhase c b s).mem = s.mem := by rfl

@[simp] theorem holdArrived_mem (s : State) (c : Ctx) (w : Wait) : (holdArrived c w s).mem = s.mem := by rfl

@[simp] theorem execBar_wf {s : State} (h : memWf s.mem = true) (b : BitVec 4) : EndsWf (execBar b s) := by
  refine issueConv_wf h _ fun c u h => ?_
  simp [h]

@[simp] theorem execBara_wf {s : State} (h : memWf s.mem = true) (b : BitVec 4) : EndsWf (execBara b s) := by
  refine issueConv_wf h _ fun c u h => ?_
  simp [h]

@[simp] theorem execBarw_wf {s : State} (h : memWf s.mem = true) (b : BitVec 4) : EndsWf (execBarw b s) := by
  refine issueConv_wf h _ fun c u h => ?_
  simp [h]

@[simp] theorem execBarx_wf {s : State} (h : memWf s.mem = true) (b : BitVec 4) : EndsWf (execBarx b s) := by
  refine issueConv_wf h _ fun c u h => ?_
  simp [h]

@[simp] theorem spanStep_wf {s : State} (h : memWf s.mem = true) (i : Instr) (k : Nat) (mark : Group → Group) (c : Ctx) :
    memWf (spanStep i k mark c s).mem = true := by
  simp [spanStep, h]

@[simp] theorem execSpanj_wf {s : State} (h : memWf s.mem = true) : EndsWf (execSpanj s) := by
  refine issueConv_wf h _ fun c u h => ?_
  simp [h]

@[simp] theorem execSpanx_wf {s : State} (h : memWf s.mem = true) : EndsWf (execSpanx s) := by
  refine issueConv_wf h _ fun c u h => ?_
  simp [h]

@[simp] theorem execSpanb_wf {s : State} (h : memWf s.mem = true) : EndsWf (execSpanb s) := by
  refine issueConv_wf h _ fun c u h => ?_
  simp [h]

end Sys2Proof.Laws
end

section
/-!
Canonical memory, the copy engine and the matrix engine (R187 to R221).
-/

namespace Sys2Proof.Laws

open Sys2Proof.Machine

@[simp] theorem fetchUnit_wf {s : State} (h : memWf s.mem = true) (v die : Nat) (a : DWord) : memWf (fetchUnit s v die a).1.mem = true := by
  unfold fetchUnit
  split <;> simp [h]

@[simp] theorem fetchBytes_wf {s : State} (h : memWf s.mem = true) (v die : Nat) (a : DWord) :
    memWf (fetchBytes s v die a).1.mem = true := by
  have h1 := fetchUnit_wf h v die a
  unfold fetchBytes
  split
  · exact h
  · split <;> rename_i e <;> rw [e] at h1
    · exact h1
    · have h2 := fetchUnit_wf h1 v die (a + 2)
      split
      · exact h1
      · split <;> rename_i e <;> rw [e] at h2 <;> exact h2

@[simp] theorem fetchFor_wf {s : State} (h : memWf s.mem = true) (g : Group) (v die : Nat) (b : Bundle) :
    memWf (fetchFor s g v die b).1.mem = true := by
  unfold fetchFor
  (repeat' split) <;> simp [h]

@[simp] theorem useCode_mem (s : State) (v die core bay : Nat) (a : DWord) : (useCode v die core bay s a).mem = s.mem := by
  unfold useCode
  split <;> simp

@[simp] theorem countClocks_mem (s : State) : (countClocks s).mem = s.mem := by
  refine foldl_mem (fun u p => ?_) _ _
  split
  · rfl
  · simp

@[simp] theorem settleOne_mem (s : State) (sent : Nat → Mask) (n : Nat) : (settleOne sent s n).mem = s.mem := by
  unfold settleOne
  repeat' split <;> simp

@[simp] theorem splitFusions_wf {s : State} (h : memWf s.mem = true) : memWf (splitFusions s).mem = true := by
  simp [splitFusions, h]

@[simp] theorem tick_wf {s : State} (h : memWf s.mem = true) : memWf (tick s).mem = true := by
  simp [tick, h]

@[simp] theorem issueBundle_wf {s : State} (h : memWf s.mem = true) (b : Bundle) : memWf (issueBundle s b).1.mem = true := by
  unfold issueBundle
  split
  · exact h
  · split
    · exact h
    · have h1 := fetchFor_wf h ‹_› (‹Team› : Team).vc (teamDie ‹Team›) b
      dsimp only
      split
      · simp [h1]
      · exact (foldl_mem (fun _ _ => useCode_mem ..) _ _).symm ▸ h1

@[simp] theorem addArrived_wf {s : State} (h : memWf s.mem = true) (t : Team) (c : Arrival) (k : Nat) :
    memWf (addArrived s t c k).mem = true := by
  unfold addArrived
  dsimp only
  split
  · exact h
  · split
    · exact (setLine_mem ..).symm ▸ writeLe_wf h _ _ _
    · exact writeLe_wf h _ _ _

@[simp] theorem arriveTeam_wf {s : State} (h : memWf s.mem = true) (va : DWord) (n : Nat) (owner : Option Nat) (i : Nat) :
    memWf (arriveTeam va n owner s i).mem = true := by
  unfold arriveTeam
  split
  · exact h
  · split
    · exact h
    · refine foldl_wf (fun s j h => ?_) h _
      split
      · exact addArrived_wf h ..
      · exact h

@[simp] theorem arrive_wf {s : State} (h : memWf s.mem = true) (v : Nat) (owner : Option Nat) (va : DWord) (n : Nat) :
    memWf (arrive s v owner va n).mem = true := foldl_wf (fun _ _ h => arriveTeam_wf h _ _ _ _) h _

@[simp] theorem startCounted_wf {s : State} (h : memWf s.mem = true) (v : Nat) (e : DWord) (pa : Nat) (rc : BitVec 6) :
    memWf (startCounted s v e pa rc).mem = true := by
  simp [startCounted, h]

@[simp] theorem lowerCounted_wf {s : State} (h : memWf s.mem = true) (v : Nat) (launch : DWord) (pa : Nat) :
    memWf (lowerCounted s v launch pa).mem = true := by
  unfold lowerCounted
  dsimp only
  split <;> simp [h, writeN_wf]

@[simp] theorem readSource_wf {s : State} (h : memWf s.mem = true) (fn : BitVec 2) (t : Team) (va : DWord) (n : Nat) :
    memWf (readSource fn t s va n).1.mem = true := by
  unfold readSource
  (repeat' split) <;> simp [h]

@[simp] theorem readElement_wf {s : State} (h : memWf s.mem = true) (fn : BitVec 2) (t : Team) (sb : DWord) (x : Shape) (n : Nat) :
    memWf (readElement fn t sb x s n).1.mem = true := by
  unfold readElement
  dsimp only
  split
  · exact readSource_wf h ..
  · split
    · exact readSource_wf h ..
    · exact h

@[simp] theorem readElements_wf {s : State} (h : memWf s.mem = true) (fn : BitVec 2) (t : Team) (sb : DWord) (x : Shape) (k n : Nat) :
    memWf (readElements fn t sb x k n s).1.mem = true := by
  induction k generalizing s n with
  | zero => exact h
  | succ k ih => exact ih (readElement_wf h fn t sb x n) _

@[simp] theorem sliceItems_wf {s : State} (h : memWf s.mem = true) (t : Team) (e : CopyEntry) : memWf (sliceItems s t e).1.mem = true := by
  simp [sliceItems, h]

@[simp] theorem startSlice_wf {s : State} (h : memWf s.mem = true) (core : Nat) (j : CopyJob) : memWf (startSlice core s j).mem = true := by
  unfold startSlice
  split <;> simp [h]

@[simp] theorem finishSlices_mem (s : State) (core : Nat) : (finishSlices s core).mem = s.mem := by
  refine foldl_mem (fun _ _ => ?_) _ s
  rfl

@[simp] theorem settleJobs_wf {s : State} (h : memWf s.mem = true) (core : Nat) : memWf (settleJobs s core).mem = true := by
  rw [settleJobs, finishSlices_mem]
  exact foldl_wf (fun _ _ h => startSlice_wf h _ _) h _

@[simp] theorem addCopy_mem (s : State) (c : Ctx) (fn : BitVec 2) (rec : List Byte) (sb : DWord) (st : BitVec 6) :
    (addCopy c fn rec sb st s).mem = s.mem := by rfl

@[simp] theorem issueCopy_wf {s : State} (h : memWf s.mem = true) (i : Instr) (fn : BitVec 2) (b a t : BitVec 6) :
    EndsWf (issueCopy i fn b a t s) := by
  refine issue_wf h _ fun c => ?_
  dsimp only
  (repeat' split) <;> simp [h]

@[simp] theorem execCseal_wf {s : State} (h : memWf s.mem = true) : EndsWf (execCseal s) := by
  refine issue_wf h _ fun c => ?_
  simp [h]

@[simp] theorem copyError_wf {s : State} (h : memWf s.mem = true) (core v : Nat) (j : CopyJob) (kind line : Nat) :
    memWf (copyError s core v j kind line).mem = true := by
  simp [copyError, h]

/-- Bytes stored in runs. -/
theorem storeRuns_wf {s : State} (h : memWf s.mem = true) (k : DWord → Nat) (rs : List (DWord × List Byte)) :
    memWf (rs.foldl (fun s r => writeN s (k r.1) r.2) s).mem = true := foldl_wf (fun _ _ h => writeN_wf h _ _) h _

@[simp] theorem fillOne_wf {s : State} (h : memWf s.mem = true) (core : Nat) (t : Team) (j : CopyJob) :
    memWf (fillOne s core t j).mem = true := by
  unfold fillOne
  dsimp only
  generalize (if lineKind (firstLine j) != 0 then lineKind (firstLine j) else if lineLive s _ then 1 else 0) = kind
  split
  · exact copyError_wf h ..
  · rw [fillLine_mem]
    exact storeRuns_wf h (fun a => teamKey t (field a 23 0)) _

/-- Bytes stored to memory in runs, as counted lines or as they are. -/
theorem pagedRuns_wf {s : State} (h : memWf s.mem = true) (counts : Bool) (v : Nat) (l : Leaf) (rs : List (DWord × List Byte)) :
    memWf (rs.foldl (fun s r => if counts then writeN s (key .counted (leafAddr l r.1)) r.2
      else pagedStore s v l (leafAddr l r.1) r.2) s).mem = true := by
  refine foldl_wf (fun s r h => ?_) h _
  split
  · exact writeN_wf h _ _
  · exact pagedStore_wf h v l _ _

@[simp] theorem outOne_wf {s : State} (h : memWf s.mem = true) (core : Nat) (t : Team) (j : CopyJob) :
    memWf (outOne s core t j).mem = true := by
  unfold outOne
  dsimp only
  split
  · exact copyError_wf h ..
  · split
    · exact h
    · have h1 := ready_wf h t.vc (lineBase (firstLine j)) (teamDie t)
      refine foldl_wf (fun _ _ h => arrive_wf h _ _ _ _) (pagedRuns_wf ?_ _ _ _ _) _
      split
      · exact startCounted_wf h1 ..
      · exact h1

theorem nextLine_wf {s : State} {one : State → Nat → Team → CopyJob → State}
    (ho : ∀ {s} core t j, memWf s.mem = true → memWf (one s core t j).mem = true) (h : memWf s.mem = true) (core : Nat) (out : Bool) :
    memWf (nextLine core out one s).mem = true := by
  have h0 := settleJobs_wf h core
  unfold nextLine
  dsimp only
  split
  · exact h0
  · split
    · exact h0
    · exact settleJobs_wf (s := modJob _ _ _ _) (ho _ _ _ h0) _

@[simp] theorem execCopyLineFill_wf {s : State} (h : memWf s.mem = true) (core : Nat) : EndsWf (execCopyLineFill core s) :=
  nextLine_wf (fun _ _ _ h => fillOne_wf h ..) h core false

@[simp] theorem execCopyOutLineWrite_wf {s : State} (h : memWf s.mem = true) (core : Nat) : EndsWf (execCopyOutLineWrite core s) :=
  nextLine_wf (fun _ _ _ h => outOne_wf h ..) h core true

@[simp] theorem execBatchComplete_wf {s : State} (h : memWf s.mem = true) (n : Nat) : EndsWf (execBatchComplete n s) := by
  unfold execBatchComplete
  split
  · exact h
  rename_i g _
  have h0 := settleJobs_wf h g.core
  dsimp only
  split
  · exact h0
  split
  · exact h0
  split
  · exact h0
  · rw [endsWf_next]
    refine event_wf ?_ _ _ _
    exact h0

@[simp] theorem consumeLines_mem (s : State) (t : Team) (ls : List Nat) : (consumeLines s t ls).mem = s.mem := by
  simp [consumeLines]

@[simp] theorem queueMma_mem (s : State) (i : Instr) (c : Ctx) (p : MmaBlock) (j : MmaJob) : (queueMma i c p j s).mem = s.mem := by
  simp [queueMma]

@[simp] theorem execMma_wf {s : State} (h : memWf s.mem = true) (l : BitVec 4) (a : BitVec 6) : EndsWf (execMma l a s) := by
  refine issue_wf h _ fun c => ?_
  simp [h]

@[simp] theorem engineError_wf {s : State} (h : memWf s.mem = true) (core v kind line : Nat) :
    memWf (engineError s core v kind line).mem = true := by
  simp [engineError, h]

@[simp] theorem startMma_wf {s : State} (h : memWf s.mem = true) (core : Nat) (t : Team) (e : Engine) (j : MmaJob) :
    memWf (startMma s core t e j).mem = true := by
  have hc : ∀ (u : State) (fresh : Bool), memWf u.mem = true → memWf (if fresh then clearN u (slotKey core e.head) 65536 else u).mem = true :=
    fun u fresh h => by
      split
      · exact clearN_wf h _ _
      · exact h
  have h1 := hc _ ((mmaBlock j.block).rm == 0 || (mmaBlock j.block).rm == 3 || !e.opened)
    ((consumeLines_mem s t (consumedLines (mmaBlock j.block) j.gather.isSome)).symm ▸ h)
  unfold startMma
  dsimp only
  split
  · exact engineError_wf (s := modEngine _ _ _) h1 ..
  · exact h1

@[simp] theorem execMmaStart_wf {s : State} (h : memWf s.mem = true) (core : Nat) : EndsWf (execMmaStart core s) := by
  unfold execMmaStart
  (repeat' split) <;> simp [h]

@[simp] theorem addProduct_wf {s : State} (h : memWf s.mem = true) (core slot : Nat) (r : MmaRun) :
    memWf (addProduct s core slot r).1.mem = true := by
  simp [addProduct, h, writeN_wf]

@[simp] theorem setMflags_mem (s : State) (n : Nat) (f : BitVec 3) : (setMflags s n f).mem = s.mem := by rfl

@[simp] theorem execMmaComplete_wf {s : State} (h : memWf s.mem = true) (core : Nat) : EndsWf (execMmaComplete core s) := by
  unfold execMmaComplete
  dsimp only
  split
  · exact h
  · rw [endsWf_next, modEngine_mem, setMflags_mem]
    split
    · exact h
    · exact addProduct_wf h ..

@[simp] theorem execMrels_wf {s : State} (h : memWf s.mem = true) (l : BitVec 4) : EndsWf (execMrels l s) := by
  refine issue_wf h _ fun c => ?_
  simp [h]

@[simp] theorem execMrelsFree_wf {s : State} (h : memWf s.mem = true) (core : Nat) : EndsWf (execMrelsFree core s) := by
  unfold execMrelsFree
  dsimp only
  split <;> simp [h]

@[simp] theorem loadWords_wf {s : State} (h : memWf s.mem = true) (t : Team) (as : List DWord) : memWf (loadWords t as s).1.mem = true := by
  induction as generalizing s with
  | nil => exact h
  | cons a as ih => exact ih (readyPlace_wf h t _)

@[simp] theorem execEpi_wf {s : State} (h : memWf s.mem = true) (l : BitVec 4) (a : BitVec 6) : EndsWf (execEpi l a s) := by
  refine issue_wf h _ fun c => ?_
  dsimp only
  (repeat' split) <;> simp [h]

@[simp] theorem execMstat_wf {s : State} (h : memWf s.mem = true) (l : BitVec 4) (t : BitVec 6) : EndsWf (execMstat l t s) := by
  refine issue_wf h _ fun c => ?_
  simp [h]

@[simp] theorem execEpilogueJobStart_wf {s : State} (h : memWf s.mem = true) (core : Nat) : EndsWf (execEpilogueJobStart core s) := by
  unfold execEpilogueJobStart
  dsimp only
  split <;> simp [h]

@[simp] theorem epiLine_wf {s : State} (h : memWf s.mem = true) (core : Nat) (t : Team) (rc : BitVec 6) (xs : List (DWord × Byte × Nat)) :
    memWf (epiLine core t rc s xs).mem = true := by
  unfold epiLine
  dsimp only
  split
  · split
    · exact engineError_wf h ..
    · rw [fillLine_mem]
      exact storeRuns_wf h (fun a => teamKey t (field a 23 0)) _
  · split
    · exact engineError_wf h ..
    · split
      · exact h
      · have h1 := ready_wf h t.vc (lineBase xs) (teamDie t)
        refine pagedRuns_wf ?_ _ _ _ _
        split
        · exact startCounted_wf h1 ..
        · exact h1

@[simp] theorem epiLines_wf {s : State} (h : memWf s.mem = true) (core : Nat) (t : Team) (rc : BitVec 6) (n : Nat)
    (xs : List (DWord × Byte × Nat)) :
    memWf (epiLines core t rc n xs s).mem = true := by
  induction n generalizing s xs with
  | zero => exact h
  | succ n ih =>
    cases xs with
    | nil => exact h
    | cons x xs => exact ih (epiLine_wf h core t rc _) _

@[simp] theorem runJob_wf {s : State} (h : memWf s.mem = true) (core : Nat) (t : Team) (e : Engine) (c : Claim) :
    memWf (runJob s core t e c).mem = true := by
  simp [runJob, h]

@[simp] theorem execEpilogueJobComplete_wf {s : State} (h : memWf s.mem = true) (core : Nat) : EndsWf (execEpilogueJobComplete core s) := by
  unfold execEpilogueJobComplete
  (repeat' split) <;> simp [h]

end Sys2Proof.Laws
end

section
/-!
Canonical memory, pod instructions and the delivery of flits (R225 to R268).
-/

namespace Sys2Proof.Laws

open Sys2Proof.Machine

theorem podIssue_wf {s : State} (h : memWf s.mem = true) (i : Instr) (checks : Ctx → List Check) {eff : Ctx → State → State}
    (he : ∀ c, memWf (eff c s).mem = true) :
    EndsWf (podIssue i checks eff s) := by
  refine issue_wf h _ fun c => ?_
  split
  · simp [h]
  split
  · simp [h]
  · exact he c

@[simp] theorem pendPod_mem (s : State) (c : Ctx) (st : BitVec 6) (tag : BitVec 32) : (pendPod c st tag s).mem = s.mem := by rfl

@[simp] theorem readLocal_wf {s : State} (h : memWf s.mem = true) (t : Team) (a : DWord) (n : Nat) :
    memWf (readLocal t s a n).1.mem = true := by
  refine foldl_fst_wf (fun _ _ h => ?_) h _
  exact readSource_wf h _ _ _ _

@[simp] theorem pushPieces_wf {s : State} (h : memWf s.mem = true) (t : Team) (src : DWord) (base : Nat) (ps : List (Nat × Nat)) :
    memWf (pushPieces t src base ps s).1.mem = true := by
  induction ps generalizing s with
  | nil => exact h
  | cons p ps ih => exact ih (readLocal_wf h t _ _)

@[simp] theorem failPieces_wf {s : State} (h : memWf s.mem = true) (tag : BitVec 32) (key : Nat → Nat) (ps : List (Nat × List Byte × Nat)) :
    memWf (failPieces tag key ps s).mem = true := by
  refine foldl_wf (fun s p h => ?_) h _
  split
  · exact h
  · exact endPiece_wf h ..

@[simp] theorem push_wf {s : State} (h : memWf s.mem = true) (i : Instr) (c : Ctx) (ch : BitVec 5) (st : BitVec 6) (src dst : DWord)
    (n : Nat) :
    memWf (push i c ch st src dst n s).mem = true := by
  have h0 : memWf (withdrawIdem (issued i c s) c true).mem = true := by simp [h]
  have hb : ∀ {u : State} (mk : BitVec 32 → PodOp) (tag : BitVec 32), memWf u.mem = true →
      memWf (pendPod c st tag (beginOp u mk).1).mem = true :=
    fun _ _ h => by simp [h]
  unfold push
  dsimp only
  generalize (if capKind _ == 0 || capKind _ == 4 then podOff dst else if capKind _ == 1 then dst.toNat else 0) = base
  split
  · exact failOp_wf (hb _ _ (pushPieces_wf h0 ..)) _ _
  · exact failPieces_wf (sendTo_wf (hb _ _ (pushPieces_wf h0 ..)) _ _ _ _ _) _ _ _

@[simp] theorem pull_wf {s : State} (h : memWf s.mem = true) (i : Instr) (c : Ctx) (ch : BitVec 5) (st : BitVec 6) (src dst : DWord)
    (n : Nat) :
    memWf (pull i c ch st src dst n s).mem = true := by
  simp [pull, h]

@[simp] theorem execPsend_wf {s : State} (h : memWf s.mem = true) (l : BitVec 4) (a : BitVec 6) (ch : BitVec 5) (t : BitVec 6) :
    EndsWf (execPsend l a ch t s) := by
  unfold execPsend
  refine podIssue_wf h _ _ fun c => ?_
  dsimp only
  exact ite_wf (by simp [h]) (ite_wf (by simp [h]) (ite_wf (pull_wf h ..) (push_wf h ..)))

@[simp] theorem execPmcast_wf {s : State} (h : memWf s.mem = true) (l : BitVec 4) (a : BitVec 6) (ch : BitVec 5) (t : BitVec 6) :
    EndsWf (execPmcast l a ch t s) := by
  unfold execPmcast
  refine podIssue_wf h _ _ fun c => ?_
  dsimp only
  refine ite_wf (by simp [h]) ?_
  refine foldl_wf (fun _ _ h => failPieces_wf (sendTo_wf h ..) ..) ?_ _
  have h0 : memWf (withdrawIdem (issued (.pmcast l a ch t) c s) c true).mem = true := by simp [h]
  rw [pendPod_mem, beginOp_mem]
  exact pushPieces_wf h0 ..

@[simp] theorem execPput_wf {s : State} (h : memWf s.mem = true) (l : BitVec 4) (a : BitVec 6) (ch : BitVec 5) (d : BitVec 6) :
    EndsWf (execPput l a ch d s) := by
  unfold execPput
  refine podIssue_wf h _ _ fun c => ?_
  dsimp only
  refine ite_wf (by simp [h]) ?_
  refine sendTo_wf (foldl_wf (fun _ _ h => endPiece_wf h ..) ?_ _) ..
  simp [h]

@[simp] theorem execPget_wf {s : State} (h : memWf s.mem = true) (l : BitVec 4) (a : BitVec 6) (ch : BitVec 5) (d : BitVec 6) :
    EndsWf (execPget l a ch d s) := by
  unfold execPget
  refine podIssue_wf h _ _ fun c => ?_
  dsimp only
  refine ite_wf (by simp [h]) (sendTo_wf ?_ ..)
  rw [beginOp_mem, foldl_mem fun _ _ => onGroup_mem .., issued_mem]
  exact h

@[simp] theorem execParrv_wf {s : State} (h : memWf s.mem = true) (l : BitVec 4) (a : BitVec 6) (n : BitVec 4) :
    EndsWf (execParrv l a n s) := by
  unfold execParrv
  refine podIssue_wf h _ _ fun c => ?_
  dsimp only
  refine ite_wf (by simp [h]) ?_
  rw [modTeam_mem, setLine_mem]
  refine writeLe_wf ?_ _ _ _
  simp [h]

@[simp] theorem execPrecv_wf {s : State} (h : memWf s.mem = true) (l : BitVec 4) (a : BitVec 6) : EndsWf (execPrecv l a s) := by
  refine issue_wf h _ fun c => ?_
  dsimp only
  (repeat' split) <;> simp [h]

@[simp] theorem execPatom_wf {s : State} (h : memWf s.mem = true) (l : BitVec 4) (a : BitVec 6) (ch : BitVec 5) (t : BitVec 6) :
    EndsWf (execPatom l a ch t s) := by
  unfold execPatom
  refine podIssue_wf h _ _ fun c => ?_
  dsimp only
  refine ite_wf (by simp [h]) (sendTo_wf ?_ ..)
  simp [h]

@[simp] theorem execPpool_wf {s : State} (h : memWf s.mem = true) (l : BitVec 4) (a : BitVec 6) (ch : BitVec 5) (t : BitVec 6) :
    EndsWf (execPpool l a ch t s) := by
  unfold execPpool
  refine podIssue_wf h _ _ fun c => ?_
  dsimp only
  refine ite_wf (by simp [h]) (sendTo_wf ?_ ..)
  simp [h]

@[simp] theorem execPhint_wf {s : State} (h : memWf s.mem = true) (ch : BitVec 5) : EndsWf (execPhint ch s) := by
  unfold execPhint
  refine podIssue_wf h _ _ fun c => ?_
  dsimp only
  simp [h]

@[simp] theorem execPfence_wf {s : State} (h : memWf s.mem = true) (l : BitVec 4) : EndsWf (execPfence l s) := by
  unfold execPfence
  refine podIssue_wf h _ _ fun c => ?_
  simp [h]

@[simp] theorem execEvt_wf {s : State} (h : memWf s.mem = true) : EndsWf (execEvt s) := by
  refine issue_wf h _ fun c => ?_
  simp [h]

@[simp] theorem execCapq_wf {s : State} (h : memWf s.mem = true) (f : BitVec 1) (ch : BitVec 5) (t : BitVec 6) :
    EndsWf (execCapq f ch t s) := by
  refine issue_wf h _ fun c => ?_
  simp [h]

@[simp] theorem reply_mem (s : State) (f : Flit) (op : BitVec 4) (bs : List Byte) : (reply s f op bs).mem = s.mem := by rfl

@[simp] theorem completeWith_mem (s : State) (f : Flit) (kind n : Nat) : (completeWith s f kind n).mem = s.mem := by rfl

@[simp] theorem complete_mem (s : State) (f : Flit) (kind : Nat) : (complete s f kind).mem = s.mem := by rfl

@[simp] theorem sentBytes_mem (s : State) (v n : Nat) : (sentBytes s v n).mem = s.mem := by rfl

@[simp] theorem receivedBytes_mem (s : State) (v n : Nat) : (receivedBytes s v n).mem = s.mem := by rfl

@[simp] theorem sentHere_mem (s : State) (f : Flit) (n : Nat) : (sentHere s f n).mem = s.mem := by
  simp [sentHere]

@[simp] theorem sentThere_mem (s : State) (f : Flit) (n : Nat) : (sentThere s f n).mem = s.mem := by
  simp [sentThere]

@[simp] theorem completeDone_mem (s : State) (f : Flit) : (completeDone s f).mem = s.mem := by
  simp [completeDone]

theorem logPut_wf {s t : State} (h : memWf s.mem = true) {v : Nat} {f : Flit} {inc ep flags : Nat} {teams : List Nat} {addr : DWord}
    (e : logPut s v f inc ep flags teams addr = some t) :
    memWf t.mem = true := by
  unfold logPut at e
  dsimp only at e
  split at e
  · cases e
  · split at e
    · cases e
    · rename_i hw
      cases e
      have h1 := deviceWrite_wf h hw
      exact h1

theorem land_wf {s t : State} (h : memWf s.mem = true) {v : Nat} {f : Flit} {va : DWord} {bs : List Byte} (e : land s v f va bs = some t) :
    memWf t.mem = true := by
  unfold land at e
  split at e
  · cases e
    exact (receivedBytes_mem ..).symm ▸ arrive_wf (pagedWrite_wf h ..) ..
  · exact logPut_wf h e

@[simp] theorem noteDup_mem (s : State) (f : Flit) (add : DupSet → DupSet) : (noteDup s f add).mem = s.mem := by
  simp [noteDup]

@[simp] theorem notePerformed_mem (s : State) (f : Flit) : (notePerformed s f).mem = s.mem := by
  simp [notePerformed]

@[simp] theorem noteTag_mem (s : State) (f : Flit) : (noteTag s f).mem = s.mem := by
  simp [noteTag]

theorem writeRing_wf {s t : State} (h : memWf s.mem = true) {v base size pos : Nat} {ps : List Flit}
    (e : writeRing v base size pos ps s = some t) :
    memWf t.mem = true := by
  induction ps generalizing s with
  | nil => cases e; exact h
  | cons p ps ih =>
    obtain ⟨u, hu, e⟩ := Option.bind_eq_some_iff.mp e
    exact ih (land_wf h hu) e

@[simp] theorem answerLane_mem (s : State) (f : Flit) (q : SpanReq) (k : Nat) (out : List Byte × Bool) :
    (answerLane f q s k out).mem = s.mem := by
  simp [answerLane]

@[simp] theorem answerLanes_mem (s : State) (f : Flit) (q : SpanReq) (k : Nat) (outs : List (List Byte × Bool)) :
    (answerLanes f q k outs s).mem = s.mem := by
  induction outs generalizing s k with
  | nil => rfl
  | cons out outs ih => exact (ih _ _).trans (answerLane_mem s f q k out)

@[simp] theorem reduceElements_wf {s : State} (h : memWf s.mem = true) (kind w n dst src : Nat) :
    memWf (reduceElements kind w n dst src s).mem = true := by
  induction n generalizing s dst src with
  | zero => exact h
  | succ n ih => exact ih (writeLe_wf h _ _ _) _ _

@[simp] theorem poolOperation_wf {s : State} (h : memWf s.mem = true) (node o dst src len : Nat) :
    memWf (poolOperation s node o dst src len).1.mem = true := by
  unfold poolOperation
  dsimp only
  generalize (if (o / 16 % 8 == 2) = true then 8 else 4) = w
  split
  · exact writeN_wf h _ _
  · split
    · exact writeN_wf h _ _
    · split
      · exact h
      · exact reduceElements_wf h ..

@[simp] theorem finishAtomic_wf {s : State} (h : memWf s.mem = true) (v : Nat) (f : Flit) (va : DWord) (n old : Nat) :
    memWf (finishAtomic s v f va n old).mem = true := by
  simp [finishAtomic, h]

@[simp] theorem finishRecalls_wf {s : State} (h : memWf s.mem = true) : memWf (finishRecalls s).mem = true := by
  refine foldl_wf (fun _ _ h => ?_) ?_ _
  · exact finishAtomic_wf h ..
  · exact h

@[simp] theorem atomicPool_wf {s : State} (h : memWf s.mem = true) (f : Flit) : memWf (atomicPool s f).mem = true := by
  simp [atomicPool, writeLe_wf, h]

@[simp] theorem holdSaves_mem (s : State) (v : Nat) : (holdSaves s v).mem = s.mem := by rfl

@[simp] theorem doHint_mem (s : State) (f : Flit) : (doHint s f).mem = s.mem := by
  unfold doHint
  repeat' split <;> simp

/-! ### What the delivery of a flit leads to (R234) -/

/-- The state that a delivery leads to, if it leads to one, has its memory in canonical form. -/
def LandsWf : Delivery → Prop
  | .done s => memWf s.mem = true
  | .failed s => memWf s.mem = true
  | .held => True
  | .refused => True

@[simp] theorem landsWf_done (s : State) : LandsWf (.done s) ↔ memWf s.mem = true := Iff.rfl

theorem toLog_wf {s : State} (h : memWf s.mem = true) (v : Nat) (f : Flit) (inc ep flags : Nat) (teams : List Nat) (addr : DWord) :
    LandsWf (toLog s v f inc ep flags teams addr) := by
  unfold toLog
  split
  · trivial
  · rename_i hp
    have h1 := logPut_wf h hp
    simp [h1]

theorem writeExport_wf {s : State} (h : memWf s.mem = true) (v : Nat) (f : Flit) : LandsWf (writeExport s v f) := by
  unfold writeExport
  dsimp only
  split
  · simp [h]
  · split
    · trivial
    · rename_i hl
      have h1 := land_wf h hl
      simp [h1]

theorem toQueue_wf {s : State} (h : memWf s.mem = true) (v e base size : Nat) (tail : DWord) (f : Flit) :
    LandsWf (toQueue s v e base size tail f) := by
  have h0 : ∀ ps : List Flit,
      memWf (ps.foldl notePerformed { s with trestle := s.trestle.filter fun h => !samePieces ps h }).mem = true := fun ps => by
    rw [foldl_mem notePerformed_mem]
    exact h
  unfold toQueue
  dsimp only
  split
  · trivial
  · split
    · rw [landsWf_done, foldl_mem fun _ _ => complete_mem ..]
      exact h0 _
    · split
      · trivial
      · rename_i hw
        rw [landsWf_done, foldl_mem completeDone_mem, modVc_mem]
        exact pagedWrite_wf (writeRing_wf (h0 _) hw) ..

theorem writeQueueEnd_wf {s : State} (h : memWf s.mem = true) (v e : Nat) (f : Flit) : LandsWf (writeQueueEnd s v e f) := by
  unfold writeQueueEnd
  split
  · exact toQueue_wf h ..
  · exact toLog_wf h ..

theorem writeEndpoint_wf {s : State} (h : memWf s.mem = true) (v e : Nat) (inc : BitVec 64) (f : Flit) :
    LandsWf (writeEndpoint s v e inc f) := by
  unfold writeEndpoint
  dsimp only
  split
  · exact toLog_wf h ..
  · exact toLog_wf h ..
  · split
    · exact toLog_wf h ..
    · split
      · simp [h]
      · split
        · exact toLog_wf h ..
        · split
          · simp [writeN_wf, h]
          · exact toLog_wf h ..

theorem atMember_wf {s : State} (h : memWf s.mem = true) (f : Flit) (id : DWord) (index : Nat) (q : SpanReq) :
    LandsWf (atMember s f id index q) := by
  unfold atMember
  split
  · exact h
  · split
    · exact h
    · split
      · trivial
      · split
        · exact h
        · split
          · trivial
          · exact h
          · rename_i hd
            have h1 := atLines_wf h hd
            simp [h1]

theorem wholeAccess_wf {s : State} (f : Flit) {make : List Byte → Delivery} (hm : ∀ bs, LandsWf (make bs)) :
    LandsWf (wholeAccess s f make) := by
  unfold wholeAccess
  dsimp only
  split
  · trivial
  · rename_i n _
    have h1 := hm ((List.range n).map (transferByte (queuePieces s f)))
    split
    · rename_i hd
      rw [hd] at h1
      rw [landsWf_done, foldl_mem notePerformed_mem]
      exact h1
    · exact h1

theorem spanStore_wf {s : State} (h : memWf s.mem = true) (f : Flit) (id : DWord) (index rank form : Nat) (rc : BitVec 6)
    (offs : List Nat) :
    LandsWf (spanStore s f id index rank form rc offs) := by
  unfold spanStore
  split
  · exact atMember_wf h ..
  · exact wholeAccess_wf f fun _ => atMember_wf h ..

theorem atomicAtMember_wf {s : State} (h : memWf s.mem = true) (f : Flit) (id : DWord) (index rank form : Nat) (offs : List Nat)
    (word data : List Byte) :
    LandsWf (atomicAtMember s f id index rank form offs word data) := by
  unfold atomicAtMember
  split
  · exact h
  · exact atMember_wf h ..

theorem spanAtomic_wf {s : State} (h : memWf s.mem = true) (f : Flit) (id : DWord) (index rank form : Nat) (offs : List Nat) :
    LandsWf (spanAtomic s f id index rank form offs) := by
  unfold spanAtomic
  split
  · exact atomicAtMember_wf h ..
  · exact wholeAccess_wf f fun _ => atomicAtMember_wf h ..

theorem atomicExport_wf {s : State} (h : memWf s.mem = true) (v : Nat) (f : Flit) : LandsWf (atomicExport s v f) := by
  unfold atomicExport
  dsimp only
  split
  · exact h
  · split
    · trivial
    · split
      · exact pagedRead_wf h ..
      · split
        · exact finishAtomic_wf (pagedRead_wf h ..) ..
        · exact pagedRead_wf h ..

theorem doWrite_wf {s : State} (h : memWf s.mem = true) (f : Flit) : LandsWf (doWrite s f) := by
  unfold doWrite
  dsimp only
  split
  · exact writeExport_wf h ..
  · exact writeExport_wf h ..
  · simp [writeN_wf, h]
  · exact writeEndpoint_wf h ..
  · exact writeQueueEnd_wf h ..
  · exact spanStore_wf h ..

theorem doGet_wf {s : State} (h : memWf s.mem = true) (f : Flit) : LandsWf (doGet s f) := by
  unfold doGet
  dsimp only
  split
  · exact h
  · exact atMember_wf h ..
  · split
    · exact h
    · simp [h]

theorem doAtomic_wf {s : State} (h : memWf s.mem = true) (f : Flit) : LandsWf (doAtomic s f) := by
  unfold doAtomic
  split
  · exact atomicPool_wf h f
  · exact spanAtomic_wf h ..
  · exact atomicExport_wf h ..

theorem doPool_wf {s : State} (h : memWf s.mem = true) (f : Flit) : LandsWf (doPool s f) := by
  simp [doPool, h]

theorem landPull_wf {s : State} {r : State × Nat} (h : memWf s.mem = true) {o : PodOp} {f : Flit} {bs : List Byte}
    (e : landPull s o f bs = some r) :
    memWf r.1.mem = true := by
  unfold landPull at e
  dsimp only at e
  split at e
  · cases e; exact h
  · split at e
    · cases e
      exact arrive_wf (writeN_wf h _ _) _ _ _ _
    · split at e
      · obtain ⟨u, hu, rfl⟩ := Option.map_eq_some_iff.mp e
        exact land_wf h hu
      · cases e; exact h

theorem doGetResponse_wf {s : State} (h : memWf s.mem = true) (f : Flit) : LandsWf (doGetResponse s f) := by
  unfold doGetResponse
  dsimp only
  split
  · exact h
  · split
    · exact h
    · split
      · split
        · trivial
        · rename_i hl
          exact endPiece_wf (landPull_wf h hl) ..
      · refine endPiece_wf ?_ ..
        split <;> exact h

@[simp] theorem doPoolResponse_wf {s : State} (h : memWf s.mem = true) (f : Flit) : memWf (doPoolResponse s f).mem = true := by
  simp [doPoolResponse, h]

@[simp] theorem doCompletion_wf {s : State} (h : memWf s.mem = true) (f : Flit) : memWf (doCompletion s f).mem = true := by
  simp [doCompletion, h]

@[simp] theorem takeBack_mem (s : State) (xs : List Sent) : (takeBack s xs).mem = s.mem := by rfl

@[simp] theorem requeue_mem (s : State) (xs : List Sent) : (requeue s xs).mem = s.mem := by rfl

@[simp] theorem doAck_mem (s : State) (f : Flit) : (doAck s f).mem = s.mem := by rfl

@[simp] theorem failFlit_wf {s : State} (h : memWf s.mem = true) (f : Flit) : memWf (failFlit s f).mem = true := by
  simp [failFlit, h]

theorem act_wf {s : State} (h : memWf s.mem = true) (f : Flit) : LandsWf (act s f) := by
  unfold act
  split
  · exact doWrite_wf h f
  split
  · exact doGet_wf h f
  split
  · exact doAtomic_wf h f
  split
  · exact doPool_wf h f
  split
  · exact doGetResponse_wf h f
  split
  · simp [h]
  split
  · exact doPoolResponse_wf h f
  split
  · exact doCompletion_wf h f
  split
  · simp [h]
  · exact h

theorem perform_wf {s : State} (h : memWf s.mem = true) (f : Flit) : LandsWf (perform s f) := by
  have h1 := act_wf h f
  unfold perform
  split
  · simp [h]
  split
  · exact h
  split
  · rename_i ha
    rw [ha] at h1
    simpa using h1
  · exact h1

theorem settle_wf {s : State} (h : memWf s.mem = true) (f : Flit) {d : Delivery} (hd : LandsWf d) : memWf (settle s f d).mem = true := by
  cases d with
  | done s1 => exact hd
  | failed s1 => exact hd
  | held => exact h
  | refused => exact h

theorem performRun_wf {s t : State} (h : memWf s.mem = true) {k : List Byte} {fs : List Flit} (e : performRun k fs s = some t) :
    memWf t.mem = true := by
  induction fs generalizing s with
  | nil => cases e; exact h
  | cons f fs ih =>
    unfold performRun at e
    dsimp only at e
    split at e
    · cases e
    · exact ih (settle_wf h _ (perform_wf h _)) e

@[simp] theorem failRun_mem (s : State) (run : List Held) : (failRun s run).mem = s.mem := by rfl

theorem tryTag_wf {s : State} {r : State × Bool} (h : memWf s.mem = true) {k : List Byte} {f : Flit} (e : tryTag s k f = some r) :
    memWf r.1.mem = true := by
  unfold tryTag at e
  dsimp only at e
  split at e
  · cases e; exact h
  split at e
  · cases e
  split at e
  · cases e; exact (failRun_mem ..).symm ▸ h
  split at e <;> cases e
  · rename_i hr
    exact (noteTag_mem ..).symm ▸ performRun_wf (s := dropRun s _) h hr
  · exact (failRun_mem ..).symm ▸ h

theorem holdFlit_mem (s : State) {t : State} (came : Option (Nat × Nat)) (f : Flit) (e : holdFlit s came f = some t) : t.mem = s.mem := by
  grind [holdFlit]

@[simp] theorem doTag_wf {s : State} (h : memWf s.mem = true) (came : Nat × Nat) (f : Flit) : memWf (doTag s came f).1.mem = true := by
  unfold doTag
  split
  · exact h
  split
  · exact h
  split
  · rename_i ht
    exact tryTag_wf h ht
  split
  · rename_i hf
    exact (holdFlit_mem _ _ _ hf).symm ▸ h
  · exact h

theorem holdSealed_wf {s : State} (h : memWf s.mem = true) (came : Option (Nat × Nat)) (f : Flit) : LandsWf (holdSealed s came f) := by
  unfold holdSealed
  split
  · exact h
  split
  · trivial
  rename_i u hf
  have hu : memWf u.mem = true := (holdFlit_mem _ _ _ hf).symm ▸ h
  split
  · exact hu
  split
  · exact hu
  all_goals
    rename_i ht
    obtain ⟨k, -, ht⟩ := Option.bind_eq_some_iff.mp ht
    exact tryTag_wf (s := dropRun u _) hu ht

theorem deliver_wf {s : State} (h : memWf s.mem = true) (came : Option (Nat × Nat)) (f : Flit) : LandsWf (deliver s came f) := by
  unfold deliver
  dsimp only
  split
  · exact perform_wf h f
  split
  · split
    · exact failFlit_wf h f
    split
    · exact perform_wf h f
    split
    · exact failFlit_wf h f
    · exact holdSealed_wf h came f
  · split
    · refine failFlit_wf ?_ f
      split
      · exact h
      · exact event_wf h ..
    split
    · exact failFlit_wf h f
    split
    · exact perform_wf h f
    split
    · exact failFlit_wf h f
    · exact holdSealed_wf h came f

@[simp] theorem retryHeld_wf {s : State} (h : memWf s.mem = true) : memWf (retryHeld s).mem = true := by
  refine foldl_wf (fun u x h => ?_) h _
  split
  · exact h
  have h0 : memWf ({ u with trestle := u.trestle.filter fun y => y != x } : State).mem = true := h
  dsimp only
  split
  · exact h
  · exact settle_wf h0 _ (perform_wf h0 _)

end Sys2Proof.Laws
end

section
/-!
Canonical memory, images, launches and dispatch (R84 to R99, R287 to R291).
-/

namespace Sys2Proof.Laws

open Sys2Proof.Machine

@[simp] theorem restoreLine_wf {s : State} (h : memWf s.mem = true) (data : List Byte) (w k : Nat) :
    memWf (restoreLine data w s k).mem = true := by
  simp [restoreLine, h, writeN_wf]

@[simp] theorem restoreScratch_wf {s : State} (h : memWf s.mem = true) (t : Team) (b : List Byte) :
    memWf (restoreScratch t b s).mem = true := by
  refine foldl_wf (fun _ _ h => ?_) h _
  exact restoreLine_wf h ..

@[simp] theorem restoreBody_wf {s : State} (h : memWf s.mem = true) (window : Bool) (n : Nat) (t : Team) (l : Layout) (b : List Byte) :
    memWf (restoreBody window n t l b s).mem = true := by
  refine restoreScratch_wf ?_ t _
  rw [foldl_modGroup_mem]
  exact h

@[simp] theorem requeueCopies_mem (s : State) (n : Nat) : (requeueCopies s n).mem = s.mem := by
  unfold requeueCopies
  split <;> simp

@[simp] theorem restoreImage_wf {s : State} (h : memWf s.mem = true) (n : Nat) (t : Team) (l : Layout) (b : List Byte) :
    memWf (restoreImage n t l b s).mem = true := by
  have h1 := restoreBody_wf h false n t l b
  unfold restoreImage
  dsimp only
  rw [foldl_mem fun _ _ => requeueCopies_mem ..]
  split
  all_goals
    refine foldl_wf (fun _ _ h => ?_) ?_ _
    · exact writeN_wf h _ _
    · exact h1

@[simp] theorem endGrant_mem (s : State) (slot : Nat) : (endGrant s slot).mem = s.mem := by rfl

@[simp] theorem revokeSeal_wf {s : State} (h : memWf s.mem = true) (slot : Nat) : memWf (revokeSeal s slot).mem = true := by
  rw [revokeSeal, endGrant_mem]
  exact foldl_wf (fun _ _ h => leaveProt_wf h _) h _

@[simp] theorem discardLine_wf {s : State} (h : memWf s.mem = true) (pa : Nat) : memWf (discardLine s pa).mem = true := by
  simp [discardLine, h, writeN_wf]

@[simp] theorem revokeDiscard_wf {s : State} (h : memWf s.mem = true) (slot : Nat) : memWf (revokeDiscard s slot).mem = true := by
  rw [revokeDiscard, endGrant_mem]
  exact foldl_wf (fun _ _ h => discardLine_wf h _) h _

@[simp] theorem endTeamOf_wf {s : State} (h : memWf s.mem = true) (n : Nat) : memWf (endTeamOf s n).mem = true := by
  unfold endTeamOf
  split
  · exact h
  · dsimp only
    split
    · rw [releaseSpan_mem]
      refine detachMember_wf ?_ _ _
      rw [modTeam_mem, foldl_modGroup_mem]
      exact h
    · rw [modTeam_mem, foldl_modGroup_mem]
      exact h

@[simp] theorem settleChipLines_wf {s : State} (h : memWf s.mem = true) (v : Nat) : memWf (settleChipLines s v).mem = true :=
  payOwed_wf (foldl_wf (fun _ _ h => evictLine_wf h _) h _)

@[simp] theorem destroyVc_wf {s : State} (h : memWf s.mem = true) (v : Nat) : memWf (destroyVc s v).mem = true := by
  have h1 : memWf ((grantedSlots s v).foldl revokeSeal (settleChipLines s v)).mem = true :=
    foldl_wf (fun _ _ h => revokeSeal_wf h _) (settleChipLines_wf h v) _
  unfold destroyVc
  dsimp only
  rw [modVc_mem]
  dsimp only
  rw [dropTlb_mem]
  exact foldl_wf (fun _ _ h => endTeamOf_wf h _) h1 _

@[simp] theorem endReduced_wf {s : State} (h : memWf s.mem = true) (v : Nat) : memWf (endReduced s v).mem = true := by
  simp [endReduced, h]

@[simp] theorem modQueue_mem (s : State) (v q : Nat) (f : Queue → Queue) : (modQueue s v q f).mem = s.mem := by rfl

@[simp] theorem modLaunch_mem (s : State) (v : Nat) (id : DWord) (f : Launch → Launch) : (modLaunch s v id f).mem = s.mem := by rfl

@[simp] theorem readKernel_wf {s : State} (h : memWf s.mem = true) (v code index : Nat) :
    memWf (readKernel s v code index).1.mem = true := by
  unfold readKernel
  split
  · exact h
  split
  · exact h
  rename_i h1
  have h1 := deviceRead_wf h h1
  split
  · exact h1
  split
  · exact h1
  rename_i h2
  exact deviceRead_wf h1 h2

@[simp] theorem settleLaunchLines_wf {s : State} (h : memWf s.mem = true) (v : Nat) (id : DWord) :
    memWf (settleLaunchLines s v id).mem = true := foldl_wf (fun _ _ h => underRead_wf h _) h _

@[simp] theorem writeCompletion_wf {s : State} (h : memWf s.mem = true) (v : Nat) (l : Launch) (status : Nat) :
    memWf (writeCompletion s v l status).mem = true := by
  unfold writeCompletion
  dsimp only
  split
  · exact h
  · cases hw : deviceWrite s v (recDone l.record) (toLeBytes 8 l.id.toNat ++ toLeBytes 4 status ++ toLeBytes 4 0) with
    | none => exact h
    | some u => exact deviceWrite_wf h hw

@[simp] theorem endLaunch_wf {s : State} (h : memWf s.mem = true) (v : Nat) (l : Launch) (status : Nat) (refused : Bool) :
    memWf (endLaunch s v l status refused).mem = true := by
  have h1 := writeCompletion_wf (settleLaunchLines_wf h v l.id) v l status
  have h3 : ∀ (u : State) (p : Bool), memWf u.mem = true → memWf (if p then raise u v (idQueue l.id) else u).mem = true := fun u p h => by
    simp [h]
  unfold endLaunch
  dsimp only
  refine endReduced_wf (event_wf ?_ _ _ _) v
  exact h3 (modQueue _ _ _ _) _ h1

@[simp] theorem readSpanDesc_wf {s : State} (h : memWf s.mem = true) (v a : Nat) : memWf (readSpanDesc s v a).1.mem = true := by
  unfold readSpanDesc
  split
  · exact h
  rename_i h1
  have h1 := deviceRead_wf h h1
  dsimp only
  split
  · exact h1
  split
  · exact h1
  rename_i h2
  exact deviceRead_wf h1 h2

@[simp] theorem refuseAll_wf {s : State} (h : memWf s.mem = true) (ls : List (Nat × Launch)) (status : Nat) :
    memWf (refuseAll s ls status).mem = true := foldl_wf (fun _ _ h => endLaunch_wf h ..) h _

@[simp] theorem matchSpan_wf {s : State} (h : memWf s.mem = true) (v : Nat) (id : DWord) : memWf (matchSpan s v id).mem = true := by
  simp [matchSpan, h]

@[simp] theorem takeRecord_wf {s : State} (h : memWf s.mem = true) (v q : Nat) (r : List Byte) : memWf (takeRecord s v q r).mem = true := by
  unfold takeRecord
  dsimp only
  generalize hu : event (modQueue s v q _) v 10 _ = u
  have h0 : memWf u.mem = true := by
    rw [← hu]
    exact event_wf (s := modQueue _ _ _ _) h ..
  generalize hk : (if recordDirty r then (u, none) else readKernel u v _ _) = rk
  have h1 : memWf rk.1.mem = true := by
    rw [← hk]
    split
    · exact h0
    · exact readKernel_wf h0 ..
  generalize (if recordDirty r then (_ : Nat) else readChecks _ _ _ _ _ _) = code
  split
  · exact endLaunch_wf h1 ..
  split
  · exact h1
  have h2 := readSpanDesc_wf h1 v (recField r 0x60 8)
  split <;> rename_i hd <;> rw [hd] at h2
  · exact endLaunch_wf h2 ..
  · exact matchSpan_wf (s := modVc _ _ _) h2 ..

@[simp] theorem cancelSpans_wf {s : State} (h : memWf s.mem = true) (v q : Nat) : memWf (cancelSpans s v q).mem = true := by
  refine foldl_wf (fun s l h => ?_) h _
  split
  · exact h
  split
  · exact h
  · exact refuseAll_wf h ..

@[simp] theorem stopQueue_wf {s : State} (h : memWf s.mem = true) (v q : Nat) : memWf (stopQueue s v q).mem = true := by
  simp [stopQueue, h]

@[simp] theorem unreadRecord_wf {s : State} (h : memWf s.mem = true) (v q : Nat) : memWf (unreadRecord s v q).mem = true := by
  simp [unreadRecord, h]

@[simp] theorem execLaunchRecordRead_wf {s : State} (h : memWf s.mem = true) (v q : Nat) : EndsWf (execLaunchRecordRead v q s) := by
  unfold execLaunchRecordRead
  dsimp only
  split
  · exact h
  split
  · split
    · exact unreadRecord_wf h ..
    · rename_i hr
      have h1 := deviceRead_wf h hr
      exact takeRecord_wf (s := modVc _ _ _) h1 ..
  · split
    · exact h
    split
    · exact unreadRecord_wf h ..
    · rename_i hr
      have h1 := deviceRead_wf h hr
      exact takeRecord_wf (s := modQueue _ _ _ _) h1 ..

@[simp] theorem readArgs_wf {s : State} (h : memWf s.mem = true) (v : Nat) (l : Launch) : memWf (readArgs s v l).1.mem = true := by
  unfold readArgs
  split
  · exact h
  split
  · exact h
  rename_i h1
  have h1 := deviceRead_wf h h1
  split
  · exact h1
  rename_i h2
  exact deviceRead_wf h1 h2

@[simp] theorem readAllArgs_wf {s : State} (h : memWf s.mem = true) (ls : List (Nat × Launch)) : memWf (readAllArgs ls s).1.mem = true := by
  refine foldl_fst_wf (fun _ _ h => ?_) h _
  exact readArgs_wf h ..

@[simp] theorem acceptOne_wf {s : State} (h : memWf s.mem = true) (v : Nat) (l : Launch) (a : Nat × DWord) :
    memWf (acceptOne s v l a).mem = true := by
  simp [acceptOne, h]

@[simp] theorem acceptAll_wf {s : State} (h : memWf s.mem = true) (ls : List (Nat × Launch)) : memWf (acceptAll s ls).mem = true := by
  have h1 := readAllArgs_wf h ls
  unfold acceptAll
  dsimp only
  split
  · exact refuseAll_wf h ..
  split
  · exact refuseAll_wf h1 ..
  split
  · exact refuseAll_wf h1 ..
  · exact foldl_wf (fun _ _ h => acceptOne_wf h ..) h1 _

@[simp] theorem execLaunchAccept_wf {s : State} (h : memWf s.mem = true) (v : Nat) (id : BitVec 64) : EndsWf (execLaunchAccept v id s) := by
  unfold execLaunchAccept
  split <;> simp [h]

@[simp] theorem execLaunchComplete_wf {s : State} (h : memWf s.mem = true) (v : Nat) (id : BitVec 64) :
    EndsWf (execLaunchComplete v id s) := by
  unfold execLaunchComplete
  split <;> simp [h]

@[simp] theorem execLqtailWrite_wf {s : State} (h : memWf s.mem = true) (v q : Nat) (value : BitVec 64) :
    EndsWf (execLqtailWrite v q value s) := by
  simp [execLqtailWrite, h]

@[simp] theorem execQueueEnable_wf {s : State} (h : memWf s.mem = true) (v q : Nat) (ie : Bool) : EndsWf (execQueueEnable v q ie s) := by
  simp [execQueueEnable, h]

@[simp] theorem execQueueDisable_wf {s : State} (h : memWf s.mem = true) (v q : Nat) (ie : Bool) : EndsWf (execQueueDisable v q ie s) := by
  simp [execQueueDisable, h]

@[simp] theorem spanFor_mem (s : State) (p : Pending) : (spanFor s p).1.mem = s.mem := by
  unfold spanFor
  split <;> simp

@[simp] theorem setReserve_mem (s : State) (v k : Nat) (r : Option Reserve) : (setReserve s v k r).mem = s.mem := by rfl

@[simp] theorem dropReserve_mem (s : State) (v : Nat) : (dropReserve s v).mem = s.mem := by
  unfold dropReserve
  split <;> simp

theorem takeReserve_mem {s t : State} {v : Nat} (e : takeReserve s v = some t) : t.mem = s.mem := by
  unfold takeReserve at e
  split at e
  · split at e <;> cases e
    exact dropReserve_mem s v
  · cases e
  · obtain ⟨q, -, rfl⟩ := Option.map_eq_some_iff.mp e
    exact (setReserve_mem _ v _ _).trans (spanFor_mem s _)

@[simp] theorem clearRoom_wf {s : State} (h : memWf s.mem = true) (core base bytes : Nat) :
    memWf (clearRoom s core base bytes).mem = true :=
  clearN_wf h _ _

@[simp] theorem takeEngine_wf {s : State} (h : memWf s.mem = true) (n core : Nat) : memWf (takeEngine n s core).mem = true :=
  clearN_wf h _ _

@[simp] theorem takePins_mem (s : State) (v : Nat) (t : Team) (x : Seat) : (takePins s v t x).mem = s.mem := by
  simp [takePins]

@[simp] theorem pinPlan_mem (s : State) (v : Nat) (t : Team) (p : Plan) : (pinPlan s v t p).mem = s.mem := by
  refine foldl_mem (fun u c => ?_) _ s
  split <;> simp

@[simp] theorem openPlan_wf {s : State} (h : memWf s.mem = true) (n : Nat) (t : Team) (p : Plan) : memWf (openPlan s n t p).mem = true := by
  have h2 : memWf (match p.coreB with
      | some c => clearRoom (clearRoom s p.coreA p.baseA (shareBytes { t with coreB := p.coreB })) c p.baseB (shareBytes { t with coreB := p.coreB })
      | none => clearRoom s p.coreA p.baseA (shareBytes { t with coreB := p.coreB })).mem = true := by
    split <;> simp [h]
  unfold openPlan
  dsimp only
  rw [pinPlan_mem]
  split
  · exact foldl_wf (fun _ _ h => takeEngine_wf h _ _) h2 _
  · exact h2

@[simp] theorem drawIncarn_mem (s : State) (v : Nat) : (drawIncarn s v).2.mem = s.mem := by rfl

@[simp] theorem startTeam_wf {s : State} (h : memWf s.mem = true) (v : Nat) (l : Launch) (p : Plan) (span : Option Nat) (rank : Nat) :
    memWf (startTeam s v l p span rank).mem = true := by
  simp [startTeam, h]

@[simp] theorem applyRecord_wf {s : State} (h : memWf s.mem = true) (n : Nat) (r : Nat × LogOwner) :
    memWf (applyRecord n s r).mem = true := by
  unfold applyRecord
  split
  · exact h
  dsimp only
  split
  · exact h
  split
  · exact h
  rename_i h1
  have h1 := deviceRead_wf (s := modVc _ _ _) h h1
  split
  · exact arriveTeam_wf h1 ..
  split
  · exact arrive_wf (writeN_wf h1 _ _) _ _ _ _
  · refine arrive_wf ?_ _ _ _ _
    split <;> exact pagedWrite_wf h1 ..

@[simp] theorem applyLog_wf {s : State} (h : memWf s.mem = true) (n : Nat) : memWf (applyLog s n).mem = true := by
  unfold applyLog
  split
  · exact h
  · exact foldl_wf (fun _ _ h => applyRecord_wf h _ _) h _

@[simp] theorem readImage_wf {s : State} (h : memWf s.mem = true) (n : Nat) (t : Team) : memWf (readImage s n t).1.mem = true := by
  unfold readImage
  dsimp only
  split
  · exact h
  rename_i h1
  have h1 := deviceLoad_wf h h1
  split
  · exact h1
  split
  · exact h1
  rename_i h2
  have h2 := deviceLoad_wf h1 h2
  split
  · exact h2
  split
  · exact h2
  split
  · exact h2
  split <;> exact h2

@[simp] theorem seatGroups_mem (s : State) (n : Nat) (p : Plan) : (seatGroups s n p).mem = s.mem := by
  refine foldl_mem (fun u x => ?_) _ s
  split <;> rfl

@[simp] theorem teamEvent_wf {s : State} (h : memWf s.mem = true) (t : Team) (kind core : Nat) :
    memWf (teamEvent s t kind core).mem = true := by
  simp [teamEvent, h]

@[simp] theorem retireTeam_wf {s : State} (h : memWf s.mem = true) (n : Nat) (t : Team) (status : Nat) :
    memWf (retireTeam s n t status).mem = true := by
  have h1 : memWf ((heldCores t).foldl (fun s c => modEngine s c fun e =>
      if e.holder == some n then { Engine.init with err := e.err } else e) s).mem = true :=
    foldl_wf (fun s c h => (modEngine_mem s c _).symm ▸ h) h _
  unfold retireTeam
  dsimp only
  split
  · exact h1
  · rw [releaseSpan_mem]
    refine detachMember_wf ?_ _ _
    exact h1

@[simp] theorem endAway_wf {s : State} (h : memWf s.mem = true) (n : Nat) (t : Team) (status : Nat) :
    memWf (endAway s n t status).mem = true := by
  simp [endAway, h]

@[simp] theorem execTeamRetirement_wf {s : State} (h : memWf s.mem = true) (n : Nat) : EndsWf (execTeamRetirement n s) := by
  unfold execTeamRetirement
  split <;> simp [h]

@[simp] theorem resumeTeam_wf {s : State} (h : memWf s.mem = true) (n : Nat) (p : Plan) : memWf (resumeTeam s n p).mem = true := by
  unfold resumeTeam
  split
  · exact h
  rename_i t ht
  have seat : ∀ (u : State) (f : Team → Team), memWf u.mem = true → memWf (seatGroups (modTeam (openPlan u n t p) n f) n p).mem = true :=
    fun u f h => by simp [h]
  dsimp only
  split
  · refine teamEvent_wf ?_ ..
    refine foldl_wf (fun u x h => ?_) (seat (modVc s _ _) _ h) _
    split <;> exact h
  · have h1 := readImage_wf h n t
    split
    · exact endAway_wf (event_wf h1 ..) ..
    · have h2 := seat (modVc (readImage s n t).1 t.vc fun c => { c with resume := c.resume.filter fun m => m != n })
      split
      · exact h2 _ h1
      · refine teamEvent_wf (retryAll_wf (applyLog_wf ?_ _)) ..
        split
        · exact restoreImage_wf (h2 _ h1) ..
        · exact restoreBody_wf (restoreImage_wf (h2 _ h1) ..) ..
  · exact h

@[simp] theorem startMember_wf {s : State} (h : memWf s.mem = true) (k : Nat) (x : Nat × Pending × Plan) :
    memWf (startMember k s x).mem = true := by
  unfold startMember
  dsimp only
  split
  · exact resumeTeam_wf (s := modVc _ _ _) h ..
  split
  · exact startTeam_wf (s := modVc _ _ _) h ..
  · exact h

theorem startSpan_wf {s t : State} (h : memWf s.mem = true) {v : Nat} (e : startSpan s v = some t) : memWf t.mem = true := by
  unfold startSpan at e
  split at e
  · cases e
  split at e
  · cases e
  dsimp only at e
  split at e
  · cases e
  obtain ⟨ps, -, rfl⟩ := Option.map_eq_some_iff.mp e
  exact foldl_wf (fun _ _ h => startMember_wf h _ _) h _

@[simp] theorem execDispatchTeam_wf {s : State} (h : memWf s.mem = true) (v : Nat) : EndsWf (execDispatchTeam v s) := by
  unfold execDispatchTeam
  split
  · exact h
  split
  · exact resumeTeam_wf h ..
  split
  · exact startSpan_wf h ‹_›
  split
  · rename_i hr
    rw [endsWf_next, takeReserve_mem hr]
    exact h
  split
  · exact startTeam_wf h ..
  · exact h

end Sys2Proof.Laws
end

section
/-!
Canonical memory, forward progress, saving, vacating and trap records (R100 to R104, R277 to R285).
-/

namespace Sys2Proof.Laws

open Sys2Proof.Machine

theorem chooseOne_mem {s t : State} {n : Nat} (e : chooseOne s n = some t) : t.mem = s.mem := by
  unfold chooseOne at e
  split at e
  · cases e
  · split at e
    · cases e; rfl
    · split at e
      · cases e; rfl
      · obtain ⟨a, -, rfl⟩ := Option.map_eq_some_iff.mp e
        rfl

theorem chooseAll_mem {ns : List Nat} {s t : State} (e : chooseAll ns s = some t) : t.mem = s.mem := by
  induction ns generalizing s with
  | nil => cases e; rfl
  | cons n ns ih =>
    obtain ⟨u, hu, e⟩ := Option.bind_eq_some_iff.mp e
    exact (ih e).trans (chooseOne_mem hu)

theorem chooseTeam_mem {s t : State} {n : Nat} (e : chooseTeam s n = some t) : t.mem = s.mem := by
  unfold chooseTeam at e
  split at e
  · exact chooseOne_mem e
  · exact chooseAll_mem e

@[simp] theorem leaveInPlace_mem (s : State) (n : Nat) (t : Team) : (leaveInPlace s n t).mem = s.mem := by
  have h := foldl_mem (f := fun s (p : Nat × Group) => modGroup s p.1 fun g => { g with skid := 0 }) (fun _ _ => rfl) (teamGroups s n) s
  simp [leaveInPlace, h]

@[simp] theorem leaveCores_mem (s : State) (n : Nat) (t : Team) : (leaveCores s n t).mem = s.mem := by
  refine foldl_mem (fun _ _ => ?_) _ _
  rfl

@[simp] theorem joinResume_wf {s : State} (h : memWf s.mem = true) (n : Nat) (t : Team) (ctr a : DWord) :
    memWf (joinResume s n t ctr a).mem = true := by
  simp [joinResume, h]

theorem saveTeam_wf {s u : State} (h : memWf s.mem = true) {n : Nat} {t : Team} (e : saveTeam s n t = some u) : memWf u.mem = true := by
  obtain ⟨a, -, e⟩ := Option.bind_eq_some_iff.mp e
  obtain ⟨s1, hw, rfl⟩ := Option.map_eq_some_iff.mp e
  obtain ⟨b, -, hw⟩ := Option.bind_eq_some_iff.mp hw
  exact joinResume_wf (deviceWrite_wf h hw) ..

@[simp] theorem restartTeam_wf {s : State} (h : memWf s.mem = true) (n : Nat) (t : Team) : memWf (restartTeam s n t).mem = true := by
  simp [restartTeam, h]

theorem leaveOneTeam_wf {s u : State} (h : memWf s.mem = true) {n : Nat} (e : leaveOneTeam s n = some u) : memWf u.mem = true := by
  unfold leaveOneTeam at e
  split at e
  · cases e; exact h
  split at e
  · cases e; exact h
  split at e
  · cases e; exact restartTeam_wf h ..
  · exact saveTeam_wf h e

theorem leaveTogether_wf {s u : State} (h : memWf s.mem = true) {ns : List Nat} (e : leaveTogether ns s = some u) : memWf u.mem = true := by
  induction ns generalizing s with
  | nil => cases e; exact h
  | cons n ns ih =>
    obtain ⟨s1, h1, e⟩ := Option.bind_eq_some_iff.mp e
    exact ih (leaveOneTeam_wf h h1) e

@[simp] theorem stayTogether_mem (s : State) (ns : List Nat) : (stayTogether s ns).mem = s.mem := by
  refine foldl_mem (fun u n => ?_) _ s
  split <;> simp

@[simp] theorem completeLeaving_wf {s : State} (h : memWf s.mem = true) (n : Nat) (t : Team) :
    memWf (completeLeaving s n t).mem = true := by
  unfold completeLeaving
  dsimp only
  split
  · exact h
  · cases hl : leaveTogether (leavingWith s n t) s with
    | none => simp [h]
    | some u => exact leaveTogether_wf h hl

@[simp] theorem execSaveComplete_wf {s : State} (h : memWf s.mem = true) (n : Nat) : EndsWf (execSaveComplete n s) := by
  unfold execSaveComplete
  split <;> simp [h]

@[simp] theorem execTeamRestart_wf {s : State} (h : memWf s.mem = true) (n : Nat) : EndsWf (execTeamRestart n s) := by
  unfold execTeamRestart
  split <;> simp [h]

@[simp] theorem execForwardProgressInterval_wf {s : State} (h : memWf s.mem = true) (core : Nat) :
    EndsWf (execForwardProgressInterval core s) := by
  unfold execForwardProgressInterval
  split
  · exact h
  dsimp only
  split
  · exact h
  split
  · exact h
  split
  · exact h
  generalize hc : chooseTeam _ _ = o
  cases o with
  | none => exact h
  | some u =>
    rw [endsWf_next]
    exact (chooseTeam_mem hc).symm ▸ h

@[simp] theorem execVacate_wf {s : State} (h : memWf s.mem = true) (v : Nat) : EndsWf (execVacate v s) := by
  unfold execVacate
  dsimp only
  split
  · exact h
  split
  · exact h
  · rw [endsWf_next]
    refine foldl_wf (fun u n h => ?_) ?_ _
    · split
      · rename_i hc
        rw [chooseTeam_mem hc]
        exact h
      · exact h
    · simp [h]

@[simp] theorem execReturnPiers_wf {s : State} (h : memWf s.mem = true) (v : Nat) : EndsWf (execReturnPiers v s) := by
  simp [execReturnPiers, h]

@[simp] theorem execVacateComplete_wf {s : State} (h : memWf s.mem = true) (v : Nat) : EndsWf (execVacateComplete v s) := by
  simp [execVacateComplete, h]

@[simp] theorem peerInput_wf {s : State} (h : memWf s.mem = true) (k rank : Nat) (p : PeerStep) :
    memWf (peerInput s k rank p).mem = true := by
  have h1 := peerStep_wf h k rank
  unfold peerInput
  split
  · dsimp only
    generalize hc : chooseAll _ _ = o
    cases o with
    | none => exact h1 .save
    | some u =>
      show memWf u.mem = true
      rw [chooseAll_mem hc]
      exact h1 .save
  · exact h1 _

@[simp] theorem haltEvent_wf {s : State} (h : memWf s.mem = true) (t : Team) (addr : Nat) : memWf (haltEvent s t addr).mem = true := by
  simp [haltEvent, h]

@[simp] theorem writeWindow_wf {s : State} (h : memWf s.mem = true) (n : Nat) (t : Team) : memWf (writeWindow s n t).1.mem = true := by
  unfold writeWindow
  split
  · exact h
  dsimp only
  split
  · exact h
  · rename_i hw
    exact deviceWrite_wf h hw

@[simp] theorem postRecord_wf {s : State} (h : memWf s.mem = true) (n : Nat) (t : Team) (a : Nat) :
    memWf (postRecord s n t a).mem = true := by
  have h0 := writeWindow_wf h n t
  have hr : ∀ (u : State) (p : Bool), memWf u.mem = true → memWf (if p then raise u t.vc 17 else u).mem = true := fun u p h => by
    simp [h]
  unfold postRecord
  dsimp only
  split
  · exact h0
  · rename_i hw
    have h1 := deviceWrite_wf h0 hw
    split
    · exact hr (modVc _ _ _) _ h1
    · exact haltEvent_wf (s := modTeam _ _ _) (hr (modVc _ _ _) _ h1) ..

@[simp] theorem execTrapRecordWrite_wf {s : State} (h : memWf s.mem = true) (n : Nat) : EndsWf (execTrapRecordWrite n s) := by
  have h1 : memWf ((teamGroups s n).foldl (fun s p => modGroup s p.1 haltGroup) s).mem = true := by
    rw [foldl_modGroup_mem]
    exact h
  unfold execTrapRecordWrite
  split
  · exact h
  split
  · exact h
  dsimp only
  split
  · rw [endsWf_next]
    split
    · exact h1
    · exact haltEvent_wf (s := modTeam _ _ _) h1 ..
  · split
    · exact h1
    · exact postRecord_wf h1 ..

@[simp] theorem retryRecords_mem (s : State) (v : Nat) : (retryRecords s v).mem = s.mem := by rfl

@[simp] theorem latchCommand_wf {s : State} (h : memWf s.mem = true) (n : Nat) : memWf (latchCommand s n).mem = true := by
  unfold latchCommand
  split
  · exact h
  split
  · exact h
  split
  · exact h
  · rename_i hl
    split at hl
    · cases hl
    · have h1 := deviceLoad_wf h hl
      exact h1

@[simp] theorem latchCommands_wf {s : State} (h : memWf s.mem = true) : memWf (latchCommands s).mem = true :=
  foldl_wf (fun _ _ h => latchCommand_wf h _) h _

@[simp] theorem clearHalt_mem (s : State) (n : Nat) (st : TeamStatus) : (clearHalt s n st).mem = s.mem := by
  refine foldl_mem (fun _ _ => ?_) _ s
  rfl

@[simp] theorem endGroups_wf {s : State} (h : memWf s.mem = true) (n : Nat) (t : Team) : memWf (endGroups s n t).mem = true := by
  have h1 : memWf ((liveGroups s n).foldl (fun s p => retireGroup s p.1) s).mem = true := by
    rw [foldl_mem fun _ _ => retireGroup_mem ..]
    exact h
  refine foldl_wf (fun _ _ h => settleJobs_wf h _) ?_ _
  split
  · exact detachMember_wf h1 _ _
  · exact h1

@[simp] theorem noteStatus_mem (s : State) (t : Team) (status : Nat) : (noteStatus s t status).mem = s.mem := by rfl

@[simp] theorem endHalted_wf {s : State} (h : memWf s.mem = true) (n : Nat) (t : Team) (status : Nat) :
    memWf (endHalted s n t status).mem = true := by
  simp [endHalted, h]

@[simp] theorem execCmdResume_wf {s : State} (h : memWf s.mem = true) (n : Nat) : EndsWf (execCmdResume n s) := by
  unfold execCmdResume
  split <;> simp [h]

@[simp] theorem execCmdEnd_wf {s : State} (h : memWf s.mem = true) (n : Nat) : EndsWf (execCmdEnd n s) := by
  unfold execCmdEnd
  split <;> simp [h]

@[simp] theorem fuse_mem (s : State) (p : Bundle × Bundle) : (fuse s p).mem = s.mem := by rfl

@[simp] theorem execRegroup_wf {s : State} (h : memWf s.mem = true) (core bay : Nat) : EndsWf (execRegroup core bay s) := by
  simp [execRegroup, h]

@[simp] theorem execWaitCountBoost_wf {s : State} (h : memWf s.mem = true) (n lane : Nat) : EndsWf (execWaitCountBoost n lane s) := by
  simp [execWaitCountBoost, h]

@[simp] theorem broadcastPc_mem (s : State) (g : Group) : (broadcastPc s g).1.mem = s.mem := by
  unfold broadcastPc
  split <;> simp

@[simp] theorem execPcSample_wf {s : State} (h : memWf s.mem = true) (core bay : Nat) : EndsWf (execPcSample core bay s) := by
  unfold execPcSample
  (repeat' split) <;> simp [h]

@[simp] theorem execTlbinv_wf {s : State} (h : memWf s.mem = true) (v : Nat) (value : BitVec 64) : EndsWf (execTlbinv v value s) := by
  simp [execTlbinv, h]

@[simp] theorem dropLeaves_mem (s : State) (v : Nat) : (dropLeaves s v).mem = s.mem := by rfl

@[simp] theorem execTlbInvalidateComplete_wf {s : State} (h : memWf s.mem = true) (v : Nat) : EndsWf (execTlbInvalidateComplete v s) := by
  unfold execTlbInvalidateComplete
  split <;> simp [h]

@[simp] theorem freeBytes_mem (s : State) (n : Nat) : (freeBytes n s).1.mem = s.mem := by
  induction n generalizing s with
  | zero => rfl
  | succ n ih => exact ih _

@[simp] theorem frameRead_wf {s : State} (h : memWf s.mem = true) (v : Nat) (host : Bool) (a n : Nat) :
    memWf (frameRead v host a n s).1.mem = true := by
  refine foldl_fst_wf (fun _ _ h => ?_) h _
  dsimp only
  split
  · exact leaveProt_wf h _
  · exact moveLine_wf (leaveProt_wf h _) _ _

@[simp] theorem frameWrite_wf {s : State} (h : memWf s.mem = true) (v : Nat) (host : Bool) (fuel a : Nat) (bs : List Byte) :
    memWf (frameWrite v host fuel a bs s).mem = true := by
  induction fuel generalizing s a bs with
  | zero => exact h
  | succ fuel ih =>
    unfold frameWrite
    split
    · exact h
    · refine ih (pagedStore_wf ?_ ..) _ _
      split
      · exact leaveProt_wf h _
      · exact moveLine_wf (leaveProt_wf h _) _ _

@[simp] theorem execHostAccess_wf {s : State} (h : memWf s.mem = true) (v : Nat) (addr : BitVec 64) (access : HostAccess) :
    EndsWf (execHostAccess v addr access s) := by
  unfold execHostAccess
  split
  · exact h
  cases access with
  | store bs =>
    cases hw : deviceWrite s v addr.toNat bs with
    | none => simp [hw, h]
    | some u =>
      have h1 := deviceWrite_wf h hw
      simp [hw, h1]
  | load n =>
    dsimp only
    split
    · rename_i hr
      have h1 := deviceRead_wf h hr
      exact h1
    · rw [endsWf_next]
      exact (freeBytes_mem s n).symm ▸ h
  | flush =>
    rw [endsWf_next]
    split
    · split
      · exact flushAt_wf ((holdLeaf_mem ..).symm ▸ h) ..
      · exact h
    · exact h
  | storeFrame host bs => exact frameWrite_wf h ..
  | loadFrame host n => exact frameRead_wf h ..

@[simp] theorem spoil_mem (s : State) (x : StorageSpot) : (spoil s x).mem = s.mem := by
  cases x with
  | lineMeta k => exact foldl_mem (fun _ _ => poisonUnit_mem ..) _ (setLine s k _)
  | held die v page => exact dropTlb_mem s _
  | _ => rfl

@[simp] theorem spotAddr_mem (s : State) (spot : StorageSpot) : (spotAddr s spot).1.mem = s.mem := by
  unfold spotAddr
  repeat' split <;> simp

@[simp] theorem storageError_wf {s : State} (h : memWf s.mem = true) (v : Nat) (unc : Bool) (spot : StorageSpot) :
    memWf (storageError s v unc spot).mem = true := by
  simp [storageError, h]

@[simp] theorem modStream_mem (s : State) (fn : Nat) (f : Stream → Stream) : (modStream s fn f).mem = s.mem := by
  unfold modStream
  split <;> simp

end Sys2Proof.Laws
end

section
/-!
Canonical memory, telemetry, host accesses, the hypervisor, vector accesses, registers and slots (R141, R253, R272, R292 to R303).
-/

namespace Sys2Proof.Laws

open Sys2Proof.Machine

@[simp] theorem execEventStreamEnable_wf {s : State} (h : memWf s.mem = true) (fn : Nat) (value : BitVec 64) :
    EndsWf (execEventStreamEnable fn value s) := by
  simp [execEventStreamEnable, h]

@[simp] theorem parkFp64_wf {s : State} (h : memWf s.mem = true) (i : Instr) : EndsWf (parkFp64 i s) := by
  refine issue_wf h _ fun c => ?_
  simp [h]

@[simp] theorem execEmulationComplete_wf {s : State} (h : memWf s.mem = true) (n : Nat) : EndsWf (execEmulationComplete n s) := by
  unfold execEmulationComplete
  split <;> simp [h]

@[simp] theorem hvDone_mem (s : State) : (hvDone s).mem = s.mem := by rfl

@[simp] theorem hvFail_mem (s : State) (err : Nat) : (hvFail s err).mem = s.mem := by rfl

@[simp] theorem execHvCommandComplete_wf {s : State} (h : memWf s.mem = true) : EndsWf (execHvCommandComplete s) := by
  unfold execHvCommandComplete
  split <;> simp [h]

@[simp] theorem makeVc_wf {s : State} (h : memWf s.mem = true) (v g : Nat) (piers : BitVec 128) (w : Nat × Nat × Nat)
    (features : BitVec 4) :
    memWf (makeVc s v g piers w features).mem = true := clearN_wf h _ _

/-- A command that completes keeps what it has done. -/
theorem hvDone_wf {s : State} (h : memWf s.mem = true) : memWf (hvDone s).mem = true := h

theorem hvFail_wf {s : State} (h : memWf s.mem = true) (e : Nat) : memWf (hvFail s e).mem = true := h

@[simp] theorem hvCreate_wf {s : State} (h : memWf s.mem = true) : memWf (hvCreate s).mem = true := by
  unfold hvCreate
  dsimp only
  split
  · exact hvFail_wf h _
  split
  · exact hvFail_wf h _
  split
  · exact hvFail_wf h _
  split
  · exact hvDone_wf (makeVc_wf h ..)
  · exact hvFail_wf h _

/-- A command of the hypervisor's registers keeps the form, if its own effect does. -/
theorem hvCommand_wf {s : State} {k : State → State} (hk : memWf (k s).mem = true) (h : memWf s.mem = true) :
    memWf (hvCommand s k).mem = true := by
  unfold hvCommand
  split
  · exact h
  split
  · exact h
  split
  · exact h
  · exact hk

@[simp] theorem hvDestroy_wf {s : State} (h : memWf s.mem = true) : memWf (hvDestroy s).mem = true := by
  simp [hvDestroy, h]

@[simp] theorem execDestroy_wf {s : State} (h : memWf s.mem = true) : EndsWf (execDestroy s) := hvCommand_wf (hvDestroy_wf h) h

@[simp] theorem haltTeam_mem (s : State) (n : Nat) : (haltTeam s n).mem = s.mem := by
  unfold haltTeam
  split
  · split
    · refine foldl_mem (fun _ _ => ?_) _ s
      rfl
    · rfl
  · rfl

@[simp] theorem enterError_wf {s : State} (h : memWf s.mem = true) (v : Nat) : memWf (enterError s v).mem = true := by
  refine foldl_wf (fun _ _ h => revokeDiscard_wf h _) ?_ _
  rw [modVc_mem, foldl_mem haltTeam_mem]
  exact h

@[simp] theorem breakLock_wf {s : State} (h : memWf s.mem = true) (v : Nat) : memWf (breakLock s v).mem = true := by
  simp [breakLock, h]

@[simp] theorem hvWays_wf {s : State} (h : memWf s.mem = true) : memWf (hvWays s).mem = true := by
  unfold hvWays
  dsimp only
  split
  · exact hvFail_wf h _
  split
  · exact hvDone_wf (breakLock_wf (fitWays_wf (s := modVc _ _ _) h _) _)
  · exact hvFail_wf h _

@[simp] theorem execWays_wf {s : State} (h : memWf s.mem = true) : EndsWf (execWays s) := hvCommand_wf (hvWays_wf h) h

@[simp] theorem hvFeatures_wf {s : State} (h : memWf s.mem = true) : memWf (hvFeatures s).mem = true := by
  simp [hvFeatures, h]

@[simp] theorem execFeatures_wf {s : State} (h : memWf s.mem = true) : EndsWf (execFeatures s) := hvCommand_wf (hvFeatures_wf h) h

@[simp] theorem hvFrames_wf {s : State} (h : memWf s.mem = true) : memWf (hvFrames s).mem = true := by
  simp [hvFrames, h]

@[simp] theorem execFrameRange_wf {s : State} (h : memWf s.mem = true) : EndsWf (execFrameRange s) := hvCommand_wf (hvFrames_wf h) h

@[simp] theorem hvGrant_wf {s : State} (h : memWf s.mem = true) : memWf (hvGrant s).mem = true := by
  unfold hvGrant
  dsimp only
  split
  · exact hvFail_wf h _
  split
  · split
    · exact hvDone_wf h
    · exact hvFail_wf h _
  · refine hvDone_wf (breakLock_wf ?_ _)
    exact h

theorem hvRevoke_wf {s : State} {f : State → Nat → State} (hf : ∀ n, memWf (f s n).mem = true) (h : memWf s.mem = true) :
    memWf (hvRevoke f s).mem = true := by
  unfold hvRevoke
  dsimp only
  split
  · exact hvFail_wf h _
  split
  · exact hvFail_wf h _
  · exact hvDone_wf (hf _)

@[simp] theorem execKeySlotGrant_wf {s : State} (h : memWf s.mem = true) : EndsWf (execKeySlotGrant s) := hvCommand_wf (hvGrant_wf h) h

@[simp] theorem execKeySlotRevokeSeal_wf {s : State} (h : memWf s.mem = true) : EndsWf (execKeySlotRevokeSeal s) :=
  hvCommand_wf (hvRevoke_wf (revokeSeal_wf h) h) h

@[simp] theorem execKeySlotRevokeDiscard_wf {s : State} (h : memWf s.mem = true) : EndsWf (execKeySlotRevokeDiscard s) :=
  hvCommand_wf (hvRevoke_wf (revokeDiscard_wf h) h) h

@[simp] theorem hvKeySlot_wf {s : State} (h : memWf s.mem = true) : memWf (hvKeySlot s).mem = true := by
  unfold hvKeySlot
  split
  · exact hvGrant_wf h
  · exact hvRevoke_wf (revokeSeal_wf h) h
  · exact hvRevoke_wf (revokeDiscard_wf h) h
  · split <;> exact hvFail_wf h _

@[simp] theorem modGuest_mem (s : State) (g : Nat) (f : Guest → Guest) : (modGuest s g f).mem = s.mem := by rfl

@[simp] theorem hvGuest_mem (s : State) : (hvGuest s).mem = s.mem := by
  simp [hvGuest]

@[simp] theorem execGuest_wf {s : State} (h : memWf s.mem = true) : EndsWf (execGuest s) := by
  exact hvCommand_wf (by simp [h]) h

@[simp] theorem hvAllow_mem (s : State) : (hvAllow s).mem = s.mem := by
  simp [hvAllow]

@[simp] theorem execAllowList_wf {s : State} (h : memWf s.mem = true) : EndsWf (execAllowList s) := by
  exact hvCommand_wf (by simp [h]) h

@[simp] theorem eraseLink_mem (s : State) (slot : Nat) : (eraseLink s slot).mem = s.mem := by rfl

@[simp] theorem fillLink_mem (s : State) (slot b v : Nat) : (fillLink slot b s v).mem = s.mem := by
  unfold fillLink
  split <;> simp

@[simp] theorem fillSlot_mem (s : State) (g b : Nat) (e : DWord) : (fillSlot s g b e).mem = s.mem := by
  simp [fillSlot]

@[simp] theorem refillLinks_mem (s : State) (g : Nat) : (refillLinks s g).mem = s.mem := by
  simp [refillLinks]

@[simp] theorem hvLinks_mem (s : State) : (hvLinks s).mem = s.mem := by
  simp [hvLinks]

@[simp] theorem execLinkKeySlots_wf {s : State} (h : memWf s.mem = true) : EndsWf (execLinkKeySlots s) := by
  exact hvCommand_wf (by simp [h]) h

@[simp] theorem hvAbutment_mem (s : State) : (hvAbutment s).mem = s.mem := by
  simp [hvAbutment]

@[simp] theorem execAbutmentWrite_wf {s : State} (h : memWf s.mem = true) : EndsWf (execAbutmentWrite s) := by
  exact hvCommand_wf (by simp [h]) h

@[simp] theorem putTable_mem (s : State) (a value : DWord) : (putTable s a value).mem = s.mem := by
  unfold putTable
  dsimp only
  split <;> simp

@[simp] theorem cutOp_wf {s : State} (h : memWf s.mem = true) (o : PodOp) : memWf (cutOp s o).mem = true := by
  simp [cutOp, h]

@[simp] theorem changeRecords_wf {s : State} (h : memWf s.mem = true) (g index : Nat) : memWf (changeRecords s g index).mem = true := by
  refine foldl_wf (fun _ _ h => ?_) h _
  exact event_wf h ..

@[simp] theorem execAbutmentRewrite_wf {s : State} (h : memWf s.mem = true) : EndsWf (execAbutmentRewrite s) := by
  unfold execAbutmentRewrite
  split
  · dsimp only
    split
    · exact h
    · refine hvDone_wf (s := modGuest _ _ _) (changeRecords_wf ?_ _ _)
      rw [putTable_mem]
      exact foldl_wf (fun _ _ h => cutOp_wf h _) h _
  · exact h

@[simp] theorem convLanes_wf {s : State} (h : memWf s.mem = true) (i : Instr) (f : Ctx → Nat → Lane → Lane) : EndsWf (convLanes i f s) := by
  refine issueConv_wf h _ fun c u h => ?_
  simp [h]

@[simp] theorem execVoteBallot_wf {s : State} (h : memWf s.mem = true) (a : BitVec 3) (d : BitVec 6) : EndsWf (execVoteBallot a d s) := by
  refine issueConv_wf h _ fun c u h => ?_
  simp [h]

@[simp] theorem convCombine_wf {s : State} (h : memWf s.mem = true) (i : Instr) (t : BitVec 2) (d : BitVec 6) (f : Ctx → Nat → Node)
    (empty : Word) :
    EndsWf (convCombine i t d f empty s) := by
  refine issueConv_wf h _ fun c u h => ?_
  simp [h]

@[simp] theorem execMatchLanes_wf {s : State} (h : memWf s.mem = true) (x : BitVec 1) (a d : BitVec 6) : EndsWf (execMatchLanes x a d s) :=
  convLanes_wf h _ _

@[simp] theorem execGsync_wf {s : State} (h : memWf s.mem = true) : EndsWf (execGsync s) := by
  refine issueConv_wf h _ fun c u h => ?_
  simp [h]

@[simp] theorem execLd_wf {s : State} (h : memWf s.mem = true) (f : BitVec 2) (l : BitVec 4) (a b d : BitVec 6) :
    EndsWf (execLd f l a b d s) := by
  unfold execLd
  exact memLanes_wf h _ _ _ (fun c u k va h => loadAt_wf h ..) _

@[simp] theorem execSt_wf {s : State} (h : memWf s.mem = true) (f : BitVec 2) (l : BitVec 4) (a b d : BitVec 6) :
    EndsWf (execSt f l a b d s) := by
  exact memLanes_wf h _ _ _ (fun c u k va h => by simp [h]) _

@[simp] theorem atomLanes_wf {s : State} (h : memWf s.mem = true) (i : Instr) (a b d : BitVec 6) : EndsWf (atomLanes i a b d s) := by
  exact memLanes_wf h _ _ _ (fun c u k va h => by simp [h]) _

@[simp] theorem consume_wf {s : State} (h : memWf s.mem = true) (t : Team) (x1 : LineId) : memWf (consume t s x1).mem = true := by
  unfold consume
  split <;> simp [h]

@[simp] theorem waitLoadAt_wf {s : State} (h : memWf s.mem = true) (c : Ctx) (r : BitVec 6) (lane : Nat) (va : DWord) :
    memWf (waitLoadAt c r s lane va).mem = true := by
  unfold waitLoadAt
  split <;> simp [h]

@[simp] theorem waitLoad_wf {s : State} (h : memWf s.mem = true) (i : Instr) (consumes : Bool) (d : BitVec 6) (c : Ctx)
    (ls : List (Nat × DWord)) :
    memWf (waitLoad i consumes d c s ls).mem = true := by
  have h0 : memWf (issued i c s).mem = true := by simp [h]
  have h2 : ∀ reqs : List SpanReq, memWf (reqs.foldl (fun s q => submitReq s c.b.group q)
      (ls.foldl (fun t p => waitLoadAt c d t p.1 p.2) (issued i c s))).mem = true := fun reqs =>
    foldl_wf (fun _ _ h => submitReq_wf h _ _) (foldl_wf (fun _ _ h => waitLoadAt_wf h ..) h0 _) _
  unfold waitLoad
  dsimp only
  split
  · simp [h]
  split
  · simp [h]
  generalize memberReqs _ _ _ _ _ _ _ _ = reqs
  split
  · simp [h]
  split
  · exact foldl_wf (fun _ _ h => consume_wf h ..) (h2 _) _
  · exact h2 _

@[simp] theorem waitLoads_wf {s : State} (h : memWf s.mem = true) (i : Instr) (consumes : Bool) (a b d : BitVec 6) :
    EndsWf (waitLoads i consumes a b d s) := by
  refine issue_wf h _ fun c => ?_
  dsimp only
  split <;> simp [h]

@[simp] theorem ringLoads_wf {s : State} (h : memWf s.mem = true) (i : Instr) (consumes : Bool) (a b d : BitVec 6) :
    EndsWf (ringLoads i consumes a b d s) := by
  refine issue_wf h _ fun c => ?_
  dsimp only
  split
  · simp [h]
  split
  · simp [h]
  split
  · simp [h]
  split
  · simp [h]
  split
  · simp [h]
  · have h1 : memWf ((lanesAt c (ringAddr c (ringOf (readS c.g b)) a)).foldl
        (fun t p => loadLane t c (placeOf t c.t p.2) p.1 d 4) (issued i c s)).mem = true :=
      foldl_wf (fun _ _ h => loadLane_wf h ..) ((issued_mem ..).symm ▸ h) _
    split
    · exact foldl_wf (fun _ _ h => consume_wf h _ _) h1 _
    · exact h1

@[simp] theorem fillAt_wf {s : State} (h : memWf s.mem = true) (c : Ctx) (d : BitVec 6) (lane : Nat) (va : DWord) :
    memWf (fillAt c d s lane va).mem = true := by
  unfold fillAt
  split <;> simp [h]

@[simp] theorem markLine_mem (s : State) (t : Team) (empties : Bool) (rc : BitVec 6) (seq : BitVec 4) (x1 : LineId) :
    (markLine t empties rc seq s x1).mem = s.mem := by
  unfold markLine
  split <;> simp

@[simp] theorem fillStores_wf {s : State} (h : memWf s.mem = true) (i : Instr) (empties : Bool) (d : BitVec 6) (seq : BitVec 4) (c : Ctx)
    (ls : List (Nat × DWord)) :
    memWf (fillStores i empties d seq c s ls).mem = true := by
  unfold fillStores
  dsimp only
  split
  · simp [h]
  split
  · simp [h]
  split
  · simp [h]
  · refine foldl_wf (fun _ _ h => submitReq_wf h _ _) ?_ _
    rw [foldl_mem fun _ _ => markLine_mem .., unpoison_mem]
    refine foldl_wf (fun _ _ h => fillAt_wf h ..) ?_ _
    simp [h]

@[simp] theorem fillStore_wf {s : State} (h : memWf s.mem = true) (i : Instr) (empties : Bool) (a b d : BitVec 6) :
    EndsWf (fillStore i empties a b d s) := by
  refine issue_wf h _ fun c => ?_
  dsimp only
  split <;> simp [h]

@[simp] theorem execStq_wf {s : State} (h : memWf s.mem = true) (l : BitVec 4) (a b d : BitVec 6) : EndsWf (execStq l a b d s) := by
  refine issue_wf h _ fun c => ?_
  dsimp only
  (repeat' split) <;> simp [h]

@[simp] theorem beginCounted_wf {s : State} (h : memWf s.mem = true) (v : Nat) (rc : BitVec 6) (x1 : LineId) :
    memWf (beginCounted v rc s x1).mem = true := by
  unfold beginCounted
  split <;> simp [h]

@[simp] theorem stcAt_wf {s : State} (h : memWf s.mem = true) (c : Ctx) (d rc : BitVec 6) (lane : Nat) (va : DWord) :
    memWf (stcAt c d rc s lane va).mem = true := by
  unfold stcAt
  split <;> simp [h, writeN_wf]

@[simp] theorem execStc_wf {s : State} (h : memWf s.mem = true) (l : BitVec 4) (a b d : BitVec 6) : EndsWf (execStc l a b d s) := by
  refine issue_wf h _ fun c => ?_
  dsimp only
  split
  · simp [h]
  split
  · simp [h]
  split
  · simp [h]
  split
  · simp [h]
  · refine foldl_wf (fun _ _ h => submitReq_wf h _ _) ?_ _
    rw [foldl_mem fun _ _ => markLine_mem .., unpoison_mem]
    refine foldl_wf (fun _ _ h => stcAt_wf h ..) (foldl_wf (fun _ _ h => beginCounted_wf h ..)
      (foldl_wf (fun _ _ h => corePlace_wf h ..) ?_ _) _) _
    simp [h]

@[simp] theorem execFence_wf {s : State} (h : memWf s.mem = true) (sc k : BitVec 2) : EndsWf (execFence sc k s) := by
  refine issue_wf h _ fun c => ?_
  simp [h]

@[simp] theorem prefAt_mem (s : State) (c : Ctx) (bad : Mask) (lane : Nat) (va : DWord) : (prefAt c bad s lane va).mem = s.mem := by
  unfold prefAt
  split
  · rfl
  · split <;> simp

@[simp] theorem execPref_wf {s : State} (h : memWf s.mem = true) (a b : BitVec 6) : EndsWf (execPref a b s) := by
  refine issue_wf h _ fun c => ?_
  simp [h]

@[simp] theorem flushLine_wf {s : State} (h : memWf s.mem = true) (x : LineId) : memWf (flushLine s x).mem = true := by
  cases x with
  | l2 n e => exact flushAt_wf h e _
  | _ => exact h

@[simp] theorem execCflush_wf {s : State} (h : memWf s.mem = true) (a b : BitVec 6) : EndsWf (execCflush a b s) := by
  refine issue_wf h _ fun c => ?_
  dsimp only
  split
  · simp [h]
  · exact foldl_wf (fun _ _ h => flushLine_wf h _) ((issued_mem ..).symm ▸ h) _

@[simp] theorem pendSpan_mem (s : State) (c : Ctx) (acq : Bool) (d : BitVec 6) : (pendSpan c acq d s).mem = s.mem := by rfl

@[simp] theorem execSld_wf {s : State} (h : memWf s.mem = true) (k l : BitVec 4) (r sc : BitVec 2) (a d : BitVec 6) :
    EndsWf (execSld k l r sc a d s) := by
  refine issue_wf h _ fun c => ?_
  dsimp only
  (repeat' split) <;> simp [h]

@[simp] theorem execSst_wf {s : State} (h : memWf s.mem = true) (k l : BitVec 4) (r sc : BitVec 2) (a d : BitVec 6) :
    EndsWf (execSst k l r sc a d s) := by
  refine issue_wf h _ fun c => ?_
  dsimp only
  (repeat' split) <;> simp [h]

@[simp] theorem execSatom_wf {s : State} (h : memWf s.mem = true) (o l : BitVec 4) (r sc : BitVec 2) (a d : BitVec 6) :
    EndsWf (execSatom o l r sc a d s) := by
  refine issue_wf h _ fun c => ?_
  dsimp only
  (repeat' split) <;> simp [h]

@[simp] theorem execLoadDataLand_wf {s : State} (h : memWf s.mem = true) (n : Nat) : EndsWf (execLoadDataLand n s) := by
  simp [execLoadDataLand, h]

@[simp] theorem answer_mem (s : State) (bs : List Byte) : (answer s bs).mem = s.mem := by rfl

@[simp] theorem sessionStep_mem (s : State) (v : Nat) (before after : Spdm) (out : List Byte) :
    (sessionStep v before after out s).mem = s.mem := by
  simp [sessionStep]

@[simp] theorem answerAgreed_mem (s : State) (v : Nat) (out : List Byte) : (answerAgreed v out s).mem = s.mem := by
  simp [answerAgreed]

@[simp] theorem execGetVersion_wf {s : State} (h : memWf s.mem = true) (v : Nat) : EndsWf (execGetVersion v s) := by
  simp [execGetVersion, h]

@[simp] theorem execGetCapabilities_wf {s : State} (h : memWf s.mem = true) (v : Nat) : EndsWf (execGetCapabilities v s) := by
  simp [execGetCapabilities, h]

@[simp] theorem execNegotiateAlgorithms_wf {s : State} (h : memWf s.mem = true) (v : Nat) : EndsWf (execNegotiateAlgorithms v s) := by
  simp [execNegotiateAlgorithms, h]

@[simp] theorem execGetDigests_wf {s : State} (h : memWf s.mem = true) (v : Nat) : EndsWf (execGetDigests v s) := by
  simp [execGetDigests, h]

@[simp] theorem execGetCertificate_wf {s : State} (h : memWf s.mem = true) (v : Nat) : EndsWf (execGetCertificate v s) := by
  simp [execGetCertificate, h]

@[simp] theorem execChallenge_wf {s : State} (h : memWf s.mem = true) (v : Nat) : EndsWf (execChallenge v s) := by
  simp [execChallenge, h]

@[simp] theorem execGetMeasurements_wf {s : State} (h : memWf s.mem = true) (v index : Nat) : EndsWf (execGetMeasurements v index s) := by
  simp [execGetMeasurements, h]

@[simp] theorem execKeyExchange_wf {s : State} (h : memWf s.mem = true) (m : SpdmMessage) : EndsWf (execKeyExchange m s) := by
  simp [execKeyExchange, h]

@[simp] theorem execFinish_wf {s : State} (h : memWf s.mem = true) (m : SpdmMessage) : EndsWf (execFinish m s) := by
  unfold execFinish
  dsimp only
  split <;> simp [h]

@[simp] theorem execEndSession_wf {s : State} (h : memWf s.mem = true) (v : Nat) : EndsWf (execEndSession v s) := by
  simp [execEndSession, h]

@[simp] theorem execTdispInterfaceRequest_wf {s : State} (h : memWf s.mem = true) (v : Nat) (request : TdispRequest) :
    EndsWf (execTdispInterfaceRequest v request s) := by
  unfold execTdispInterfaceRequest
  split <;> simp [h]

@[simp] theorem execSetKeyGroup_wf {s : State} (h : memWf s.mem = true) (v : Nat) (key : BitVec 512) :
    EndsWf (execSetKeyGroup v key s) := by
  simp [execSetKeyGroup, h]

@[simp] theorem execSetKeyContext_wf {s : State} (h : memWf s.mem = true) (v slot : Nat) (key : BitVec 512) :
    EndsWf (execSetKeyContext v slot key s) := by
  simp [execSetKeyContext, h]

@[simp] theorem execSetKeyStream_wf {s : State} (h : memWf s.mem = true) (v stream : Nat) (key : BitVec 512) :
    EndsWf (execSetKeyStream v stream key s) := by
  simp [execSetKeyStream, h]

@[simp] theorem modIngress_mem (s : State) (v n : Nat) (f : Ingress → Ingress) : (modIngress s v n f).mem = s.mem := by rfl

@[simp] theorem execIngressWrite_wf {s : State} (h : memWf s.mem = true) (v off : Nat) (bytes : List Byte) :
    EndsWf (execIngressWrite v off bytes s) := by
  simp [execIngressWrite, h]

@[simp] theorem stopIngress_wf {s : State} (h : memWf s.mem = true) (v n k : Nat) : memWf (stopIngress s v n k).mem = true := by
  simp [stopIngress, h]

@[simp] theorem recordDone_mem (s : State) (v n k : Nat) : (recordDone s v n k).mem = s.mem := by rfl

@[simp] theorem execIngressRecordVerify_wf {s : State} (h : memWf s.mem = true) (v stream : Nat) :
    EndsWf (execIngressRecordVerify v stream s) := by
  unfold execIngressRecordVerify
  dsimp only
  split
  · exact h
  split
  · exact stopIngress_wf h ..
  split
  · exact stopIngress_wf h ..
  split
  · exact stopIngress_wf h ..
  · rename_i hw
    have h1 := deviceWrite_wf h hw
    simp [h1]

@[simp] theorem readDenied_wf {s : State} (h : memWf s.mem = true) (v id : Nat) : memWf (readDenied s v id).mem = true := by
  simp [readDenied, h]

@[simp] theorem execHostCounterRead_wf {s : State} (h : memWf s.mem = true) (v : Nat) (id : BitVec 12) :
    EndsWf (execHostCounterRead v id s) := by
  simp [execHostCounterRead, h]

@[simp] theorem setPkgStat_mem (s : State) (x : BitVec 3) : (setPkgStat s x).mem = s.mem := by rfl

@[simp] theorem execPowerGood_wf {s : State} (h : memWf s.mem = true) (image : BootImage) : EndsWf (execPowerGood image s) := by
  simp [execPowerGood, h]

@[simp] theorem execTrainingComplete_wf {s : State} (h : memWf s.mem = true) (hbm optics : Bool) :
    EndsWf (execTrainingComplete hbm optics s) := by
  simp [execTrainingComplete, h]

@[simp] theorem execClockStep_wf {s : State} (h : memWf s.mem = true) (up : Bool) : EndsWf (execClockStep up s) := by
  simp [execClockStep, h]

theorem after_wf {s : State} {o : Out} (h : memWf s.mem = true) (ho : EndsWf o) : memWf (after s o).mem = true := by
  cases o with
  | next t => exact ho
  | _ => exact h

@[simp] theorem writeQueue_wf {s : State} (h : memWf s.mem = true) (v q off : Nat) (x : DWord) :
    memWf (writeQueue s v q off x).mem = true := by
  unfold writeQueue
  dsimp only
  split
  · exact h
  · exact h
  · exact after_wf h (execLqtailWrite_wf h ..)
  · refine after_wf h ?_
    split
    · exact execQueueEnable_wf h ..
    · exact execQueueDisable_wf h ..
  · exact h
  · exact h

@[simp] theorem writeVcReg_wf {s : State} (h : memWf s.mem = true) (v off : Nat) (x : DWord) : memWf (writeVcReg s v off x).mem = true := by
  unfold writeVcReg
  refine ite_wf h (ite_wf (after_wf h ?_) (ite_wf (after_wf h (execTlbinv_wf h ..)) ?_))
  · split
    · exact execVacate_wf h v
    · exact execReturnPiers_wf h v
    · exact h
  · exact ite_wf (ite_wf ((retryRecords_mem ..).symm ▸ h) h) (ite_wf h (ite_wf h (ite_wf (writeQueue_wf h ..) (ite_wf h (ite_wf h (ite_wf h h))))))

@[simp] theorem rbFail_mem (s : State) : (rbFail s).mem = s.mem := by rfl

@[simp] theorem reenable_mem (s : State) : (reenable s).mem = s.mem := by rfl

@[simp] theorem hvOp_wf {s : State} (h : memWf s.mem = true) (op : Nat) : memWf (hvOp op s).mem = true := by
  unfold hvOp
  split
  · exact hvCreate_wf h
  · exact hvDestroy_wf h
  · exact hvWays_wf h
  · exact (hvGuest_mem s).symm ▸ h
  · exact (hvAbutment_mem s).symm ▸ h
  · exact hvKeySlot_wf h
  · exact (hvAllow_mem s).symm ▸ h
  · exact hvFeatures_wf h
  · exact (hvLinks_mem s).symm ▸ h
  · exact hvFrames_wf h
  · exact h

@[simp] theorem writeMgmt_wf {s : State} (h : memWf s.mem = true) (off : Nat) (x : DWord) : memWf (writeMgmt s off x).mem = true := by
  unfold writeMgmt
  split
  · exact h
  split
  · exact hvCommand_wf (hvOp_wf h _) h
  split
  · exact h
  split
  · exact h
  split
  · exact h
  split
  · exact h
  split <;> exact h

@[simp] theorem writeReg_wf {s : State} (h : memWf s.mem = true) (fn off : Nat) (x : DWord) : memWf (writeReg s fn off x).mem = true := by
  unfold writeReg
  split <;> simp [h]

@[simp] theorem rbReadReg_wf {s : State} (h : memWf s.mem = true) (fn off : Nat) : memWf (rbReadReg s fn off).mem = true := by
  unfold rbReadReg
  split <;> simp [h]

@[simp] theorem rbRead_wf {s : State} (h : memWf s.mem = true) : memWf (rbRead s).mem = true := by
  unfold rbRead
  split <;> simp [h]

@[simp] theorem rbTable_wf {s : State} (h : memWf s.mem = true) : memWf (rbTable s).mem = true := by
  simp [rbTable, h]

@[simp] theorem rbWrite_wf {s : State} (h : memWf s.mem = true) : memWf (rbWrite s).mem = true := by
  unfold rbWrite
  split <;> simp [h]

@[simp] theorem execReadbackRead_wf {s : State} (h : memWf s.mem = true) : EndsWf (execReadbackRead s) := by
  simp [execReadbackRead, h]

@[simp] theorem execReadbackWrite_wf {s : State} (h : memWf s.mem = true) : EndsWf (execReadbackWrite s) := by
  simp [execReadbackWrite, h]

@[simp] theorem execLaserModuleReenable_wf {s : State} (h : memWf s.mem = true) : EndsWf (execLaserModuleReenable s) := by
  simp [execLaserModuleReenable, h]

@[simp] theorem rbCommand_wf {s : State} (h : memWf s.mem = true) (x : DWord) : memWf (rbCommand s x).mem = true := by
  unfold rbCommand
  (repeat' split) <;> simp [h]

@[simp] theorem execRegisterWrite_wf {s : State} (h : memWf s.mem = true) (fn off : Nat) (value : BitVec 64) :
    EndsWf (execRegisterWrite fn off value s) := by
  simp [execRegisterWrite, h]

@[simp] theorem scalarOp_wf {s : State} (h : memWf s.mem = true) (i : Instr) (d : BitVec 6) (f : Group → DWord) :
    EndsWf (scalarOp i d f s) := by
  refine issue_wf h _ fun c => ?_
  simp [h]

@[simp] theorem scalar3_wf {s : State} (h : memWf s.mem = true) (i : Instr) (d a b : BitVec 6) (f : DWord → DWord → DWord) :
    EndsWf (scalar3 i d a b f s) := scalarOp_wf h ..

@[simp] theorem execSrd_wf {s : State} (h : memWf s.mem = true) (n : BitVec 12) (d : BitVec 6) : EndsWf (execSrd n d s) := by
  refine issue_wf h _ fun c => ?_
  simp [h]

@[simp] theorem execSwr_wf {s : State} (h : memWf s.mem = true) (n : BitVec 12) (a : BitVec 6) : EndsWf (execSwr n a s) := by
  refine issue_wf h _ fun c => ?_
  simp [h]

@[simp] theorem route_mem (s : State) (e : Egress) : (route s e).2.mem = s.mem := by
  unfold route
  dsimp only
  split
  · rfl
  · split
    · rfl
    · split
      · rfl
      · split <;> rfl

@[simp] theorem sendOn_mem (s : State) (e : Egress) (k : Nat) (rly : Bool) : (sendOn s e k rly).mem = s.mem := by rfl

@[simp] theorem serve_wf {s : State} (h : memWf s.mem = true) (held : List Nat) (es : List Egress) :
    memWf (serve held es s).mem = true := by
  induction es generalizing s held with
  | nil => exact h
  | cons e es ih =>
    unfold serve
    dsimp only
    split
    · split
      · refine ih ?_ _
        exact h
      · exact ih (settle_wf h _ (deliver_wf h _ _)) _
    · split
      · refine ih ?_ _
        exact h
      · have h1 := (congrArg memWf (route_mem s e)).trans h
        split <;> rename_i hr <;> rw [hr] at h1
        · refine ih ?_ _
          rw [sendOn_mem]
          exact h1
        · refine ih ?_ _
          exact h1

@[simp] theorem serveRelayed_mem (s : State) (hs : List Held) : (serveRelayed hs s).mem = s.mem := by
  induction hs generalizing s with
  | nil => rfl
  | cons x hs ih =>
    unfold serveRelayed
    split
    · exact (ih _).trans (sendOn_mem s _ _ _)
    · exact ih _

@[simp] theorem beginSlot_mem (s : State) : (beginSlot s).mem = s.mem := by
  simp [beginSlot]

@[simp] theorem execSlotStart_wf {s : State} (h : memWf s.mem = true) : EndsWf (execSlotStart s) := by
  simp [execSlotStart, h]

@[simp] theorem execSlotEnd_wf {s : State} (h : memWf s.mem = true) : EndsWf (execSlotEnd s) := by
  simp [execSlotEnd, h]

@[simp] theorem execAckTimeout_wf {s : State} (h : memWf s.mem = true) (port slot : Nat) : EndsWf (execAckTimeout port slot s) := by
  simp [execAckTimeout, h]

@[simp] theorem execDuplicateSetExpiry_wf {s : State} (h : memWf s.mem = true) (spkg sslot : Nat) (tag : BitVec 32) :
    EndsWf (execDuplicateSetExpiry spkg sslot tag s) := by
  simp [execDuplicateSetExpiry, h]

@[simp] theorem dropOwn_wf {s : State} (h : memWf s.mem = true) (f : Flit) : memWf (dropOwn s f).mem = true := by
  unfold dropOwn
  split
  · exact h
  split
  · split
    · exact h
    · exact foldl_wf (fun _ _ h => failPiece_wf h ..) h _
  · split
    · exact failPiece_wf h ..
    · split
      · exact failPiece_wf h ..
      · exact h

@[simp] theorem dropRelayed_mem (s : State) (f : Flit) : (dropRelayed s f).mem = s.mem := by
  simp [dropRelayed]

@[simp] theorem execFlitDrop_wf {s : State} (h : memWf s.mem = true) (tag : BitVec 32) : EndsWf (execFlitDrop tag s) := by
  unfold execFlitDrop
  dsimp only
  rw [endsWf_next, foldl_mem fun _ _ => dropRelayed_mem ..]
  refine foldl_wf (fun _ _ h => dropOwn_wf h _) ?_ _
  exact h

@[simp] theorem lossRecord_wf {s : State} (h : memWf s.mem = true) (port wavelength : Nat) :
    memWf (lossRecord s port wavelength).mem = true := by
  simp [lossRecord, h]

@[simp] theorem stopPort_mem (s : State) (port : Nat) : (stopPort s port).mem = s.mem := by
  simp [stopPort]

@[simp] theorem execLossOfLight_wf {s : State} (h : memWf s.mem = true) (port wavelength : Nat) :
    EndsWf (execLossOfLight port wavelength s) := by
  simp [execLossOfLight, h]

@[simp] theorem darkPort_wf {s : State} (h : memWf s.mem = true) (port wavelength : Nat) :
    memWf (darkPort s port wavelength).mem = true := by
  simp [darkPort, h]

@[simp] theorem putAccepted_mem (s : State) (a : Accepted) : (putAccepted s a).mem = s.mem := by rfl

@[simp] theorem takeClass_wf {s : State} (h : memWf s.mem = true) (port : Nat) (f : Flit) (x : FlitRow) :
    memWf (takeClass s port f x).1.mem = true := by
  have hd := deliver_wf h (some (port, s.slot)) f
  unfold takeClass
  split
  · exact doTag_wf h ..
  · split <;> exact h
  · exact h
  · split
    · exact h
    · rename_i he
      rw [he] at hd
      exact hd
    · exact settle_wf h _ hd

@[simp] theorem takeFlit_wf {s : State} (h : memWf s.mem = true) (port : Nat) (f : Flit) : memWf (takeFlit s port f).mem = true := by
  simp [takeFlit, h]

@[simp] theorem receive_wf {s : State} (h : memWf s.mem = true) (row : FlitRow) (port : Nat) (f : Flit) :
    EndsWf (receive row port f s) := by
  simp [receive, h]

@[simp] theorem execMovs_wf {s : State} (h : memWf s.mem = true) (x : BitVec 1) (b d : BitVec 6) : EndsWf (execMovs x b d s) := by
  refine issue_wf h _ fun c => ?_
  simp [h]

@[simp] theorem execPlane_wf {s : State} (h : memWf s.mem = true) (f n : BitVec 1) (g : BitVec 3) (k : BitVec 5) (a d : BitVec 6) :
    EndsWf (execPlane f n g k a d s) := by
  refine issue_wf h _ fun c => ?_
  simp [h]

@[simp] theorem execLrd_wf {s : State} (h : memWf s.mem = true) (g : BitVec 3) (i : BitVec 9) (d : BitVec 6) :
    EndsWf (execLrd g i d s) := by
  refine issue_wf h _ fun c => ?_
  simp [h]

@[simp] theorem takeEvent_mem (s : State) (i : Instr) : (takeEvent s i).1.mem = s.mem := by
  unfold takeEvent
  split
  · rfl
  · split <;> rfl

end Sys2Proof.Laws
end

section
/-!
Canonical memory: every instruction and event, and with them every step, keeps it.
-/

namespace Sys2Proof.Laws

open Sys2Proof.Machine

@[simp] theorem execCreate_wf {s : State} (h : memWf s.mem = true) : EndsWf (execCreate s) := hvCommand_wf (hvCreate_wf h) h

theorem exec_wf {s : State} (h : memWf s.mem = true) (i : Instr) : EndsWf (exec i s) := by
  cases i with
  | addCompact | subCompact | andCompact | orCompact | xorCompact | shlCompact | shrCompact | mulCompact | minI32Compact | maxI32Compact
  | add | sub | mul | mulhi | and | or | xor | andn | shl | shr | sra | min | max | bfe | fcpys =>
    unfold exec
    exact vec3_wf h ..
  | addCompactImm | subCompactImm | andCompactImm | orCompactImm | xorCompactImm | shlCompactImm | shrCompactImm | movCompact | abs | neg
  | clz | popc | brev | addi | shli | shri | mov | cvt | fclass | fabs | fneg =>
    unfold exec
    exact vec2_wf h ..
  | movCompactImm | mad | sel | bfi | dot4 | perm =>
    unfold exec
    exact vecOp_wf h ..
  | faddCompact | fmulCompact | fsubCompact | fmaxCompact | fminCompact | fadd | fsub | fmul | fmin | fmax | fdiv =>
    unfold exec
    exact float3_wf h ..
  | sadd | ssub | smul | sand | sor | sxor | sandn | sshl | sshr | ssra | smin | smax | scmp =>
    unfold exec
    exact scalar3_wf h ..
  | saddi | smovi | slane =>
    unfold exec
    exact scalarOp_wf h ..
  | sld => exact execSld_wf h ..
  | sst => exact execSst_wf h ..
  | srd => exact execSrd_wf h ..
  | swr => exact execSwr_wf h ..
  | sbra => exact execSbra_wf h ..
  | satom => exact execSatom_wf h ..
  | movs => exact execMovs_wf h ..
  | cmp | cmpn | pand | por | pnot =>
    unfold exec
    exact predOp_wf h ..
  | plane => exact execPlane_wf h ..
  | lrd => exact execLrd_wf h ..
  | ffma | fcmp | fexp2 | flog2 | fsin | fcos | fcvt | ncvt | icvtF32ToInt | icvtIntToF32 | fscl =>
    unfold exec
    exact floatOp_wf h ..
  | frcp | frsq | fsqrt | frnd =>
    unfold exec
    exact float2_wf h ..
  | dadd | dsub | dmul | dfma | ddiv | dsqrt | dcvt =>
    unfold exec
    exact parkFp64_wf h ..
  | shfl | vote | elect =>
    unfold exec
    exact convLanes_wf h ..
  | voteBallot => exact execVoteBallot_wf h ..
  | redux | scan =>
    unfold exec
    exact convCombine_wf h ..
  | matchLanes => exact execMatchLanes_wf h ..
  | gsync => exact execGsync_wf h
  | bra => exact execBra_wf h ..
  | jmp => exact execJmp_wf h ..
  | call => exact execCall_wf h ..
  | callv => exact execCallv_wf h ..
  | ret => exact execRet_wf h ..
  | exit => exact execExit_wf h ..
  | refill => exact execRefill_wf h ..
  | nop => exact execNop_wf h ..
  | yield => exact execYield_wf h ..
  | sleep => exact execSleep_wf h ..
  | trap => exact execTrap_wf h ..
  | brk => exact execBrk_wf h ..
  | ld => exact execLd_wf h ..
  | st => exact execSt_wf h ..
  | ldw | ldc =>
    unfold exec
    exact waitLoads_wf h ..
  | ldq | ldqw =>
    unfold exec
    exact ringLoads_wf h ..
  | stf | ste =>
    unfold exec
    exact fillStore_wf h ..
  | stq => exact execStq_wf h ..
  | atom | atomb | atomcCas | atomcMinN32 | atomcMaxN32 =>
    unfold exec
    exact atomLanes_wf h ..
  | stc => exact execStc_wf h ..
  | fence => exact execFence_wf h ..
  | pref => exact execPref_wf h ..
  | cflush => exact execCflush_wf h ..
  | cpyIn | cpyOut | cpyLocal =>
    unfold exec
    exact issueCopy_wf h ..
  | cseal => exact execCseal_wf h
  | mma => exact execMma_wf h ..
  | mrels => exact execMrels_wf h ..
  | epi => exact execEpi_wf h ..
  | mstat => exact execMstat_wf h ..
  | bar => exact execBar_wf h ..
  | bara => exact execBara_wf h ..
  | barw => exact execBarw_wf h ..
  | barx => exact execBarx_wf h ..
  | spanj => exact execSpanj_wf h
  | spanx => exact execSpanx_wf h
  | spanb => exact execSpanb_wf h
  | psend => exact execPsend_wf h ..
  | pput => exact execPput_wf h ..
  | pget => exact execPget_wf h ..
  | pmcast => exact execPmcast_wf h ..
  | parrv => exact execParrv_wf h ..
  | phint => exact execPhint_wf h ..
  | precv => exact execPrecv_wf h ..
  | pfence => exact execPfence_wf h ..
  | patom => exact execPatom_wf h ..
  | ppool => exact execPpool_wf h ..
  | evt => exact execEvt_wf h
  | capq => exact execCapq_wf h ..
  | registerWrite => exact execRegisterWrite_wf h ..
  | lqtailWrite => exact execLqtailWrite_wf h ..
  | queueEnable => exact execQueueEnable_wf h ..
  | queueDisable => exact execQueueDisable_wf h ..
  | launchRecordRead => exact execLaunchRecordRead_wf h ..
  | launchAccept => exact execLaunchAccept_wf h ..
  | launchComplete => exact execLaunchComplete_wf h ..
  | dispatchTeam => exact execDispatchTeam_wf h ..
  | teamRetirement => exact execTeamRetirement_wf h ..
  | spanDetachment => exact execSpanDetachment_wf h ..
  | forwardProgressInterval => exact execForwardProgressInterval_wf h ..
  | saveComplete => exact execSaveComplete_wf h ..
  | teamRestart => exact execTeamRestart_wf h ..
  | vacate => exact execVacate_wf h ..
  | returnPiers => exact execReturnPiers_wf h ..
  | vacateComplete => exact execVacateComplete_wf h ..
  | tlbinv => exact execTlbinv_wf h ..
  | tlbInvalidateComplete => exact execTlbInvalidateComplete_wf h ..
  | hostAccess => exact execHostAccess_wf h ..
  | regroup => exact execRegroup_wf h ..
  | waitCountBoost => exact execWaitCountBoost_wf h ..
  | sleepExpiry => exact execSleepExpiry_wf h ..
  | loadDataLand => exact execLoadDataLand_wf h ..
  | emulationComplete => exact execEmulationComplete_wf h ..
  | copyLineFill => exact execCopyLineFill_wf h ..
  | copyOutLineWrite => exact execCopyOutLineWrite_wf h ..
  | batchComplete => exact execBatchComplete_wf h ..
  | mmaStart => exact execMmaStart_wf h ..
  | mmaComplete => exact execMmaComplete_wf h ..
  | epilogueJobStart => exact execEpilogueJobStart_wf h ..
  | epilogueJobComplete => exact execEpilogueJobComplete_wf h ..
  | mrelsFree => exact execMrelsFree_wf h ..
  | slotStart => exact execSlotStart_wf h
  | slotEnd => exact execSlotEnd_wf h
  | writeFlit | getRequest | getResponse | atomicRequest | atomicResponse | poolRequest | poolResponse | acknowledgement | hint
  | completion | tagFlit | relayedFlit | flitDiscard =>
    unfold exec
    exact receive_wf h ..
  | ackTimeout => exact execAckTimeout_wf h ..
  | duplicateSetExpiry => exact execDuplicateSetExpiry_wf h ..
  | flitDrop => exact execFlitDrop_wf h ..
  | lossOfLight => exact execLossOfLight_wf h ..
  | create => exact execCreate_wf h
  | destroy => exact execDestroy_wf h
  | ways => exact execWays_wf h
  | guest => exact execGuest_wf h
  | abutmentWrite => exact execAbutmentWrite_wf h
  | abutmentRewrite => exact execAbutmentRewrite_wf h
  | keySlotGrant => exact execKeySlotGrant_wf h
  | keySlotRevokeSeal => exact execKeySlotRevokeSeal_wf h
  | keySlotRevokeDiscard => exact execKeySlotRevokeDiscard_wf h
  | allowList => exact execAllowList_wf h
  | features => exact execFeatures_wf h
  | linkKeySlots => exact execLinkKeySlots_wf h
  | frameRange => exact execFrameRange_wf h
  | hvCommandComplete => exact execHvCommandComplete_wf h
  | getVersion => exact execGetVersion_wf h ..
  | getCapabilities => exact execGetCapabilities_wf h ..
  | negotiateAlgorithms => exact execNegotiateAlgorithms_wf h ..
  | getDigests => exact execGetDigests_wf h ..
  | getCertificate => exact execGetCertificate_wf h ..
  | challenge => exact execChallenge_wf h ..
  | getMeasurements => exact execGetMeasurements_wf h ..
  | keyExchange => exact execKeyExchange_wf h ..
  | finish => exact execFinish_wf h ..
  | endSession => exact execEndSession_wf h ..
  | setKeyGroup => exact execSetKeyGroup_wf h ..
  | setKeyContext => exact execSetKeyContext_wf h ..
  | setKeyStream => exact execSetKeyStream_wf h ..
  | ingressWrite => exact execIngressWrite_wf h ..
  | ingressRecordVerify => exact execIngressRecordVerify_wf h ..
  | hostCounterRead => exact execHostCounterRead_wf h ..
  | powerGood => exact execPowerGood_wf h ..
  | trainingComplete => exact execTrainingComplete_wf h ..
  | trapRecordWrite => exact execTrapRecordWrite_wf h ..
  | cmdResume => exact execCmdResume_wf h ..
  | cmdEnd => exact execCmdEnd_wf h ..
  | eventStreamEnable => exact execEventStreamEnable_wf h ..
  | pcSample => exact execPcSample_wf h ..
  | clockStep => exact execClockStep_wf h ..
  | readbackRead => exact execReadbackRead_wf h
  | readbackWrite => exact execReadbackWrite_wf h
  | laserModuleReenable => exact execLaserModuleReenable_wf h
  | illegalInstruction => exact execIllegalInstruction_wf h
  | tdispInterfaceRequest => exact execTdispInterfaceRequest_wf h ..

/-! ### What a step chooses, and the step -/

@[simp] theorem tryBundle_wf {s : State} (h : memWf s.mem = true) (b : Bundle) : memWf (tryBundle s b).1.mem = true := by
  unfold tryBundle
  split
  · exact issueBundle_wf h b
  · rename_i p _
    dsimp only
    generalize (if b.group ≤ p.group then b else p) = x
    generalize (if b.group ≤ p.group then p else b) = y
    split
    · exact issueBundle_wf h x
    · split
      · exact issueBundle_wf h y
      · refine issueBundle_wf ?_ _
        exact h

@[simp] theorem issueSecond_wf {s : State} (h : memWf s.mem = true) (b : Bundle) : memWf (issueSecond s b).1.mem = true := by
  unfold issueSecond
  split
  · split
    · exact issueBundle_wf h b
    · exact h
  · exact h

@[simp] theorem tryOpt_wf {s : State} (h : memWf s.mem = true) (b : Option Bundle) : memWf (tryOpt s b).1.mem = true := by
  cases b with
  | none => exact h
  | some b => exact tryBundle_wf h b

@[simp] theorem tryNoted_wf {s : State} (h : memWf s.mem = true) (ts : List (Bundle × Option Stall)) (b : Option Bundle) :
    memWf (tryNoted s ts b).1.mem = true := by
  refine tryOpt_wf ?_ b
  exact h

@[simp] theorem chooseAlone_wf {s : State} (h : memWf s.mem = true) : memWf (chooseAlone s).1.mem = true := by
  have h1 : memWf ({ s with turn := s.turn + 1, acted := true } : State).mem = true := h
  unfold chooseAlone
  generalize { s with turn := s.turn + 1, acted := true } = u at h1
  dsimp only
  generalize (List.map (fun x : Bundle × Option Stall => x.1) _)[(_ : Nat)]? = retry
  split
  · exact tryNoted_wf h1 _ _
  split
  · exact h1
  · exact tryNoted_wf h1 _ _
  · split
    · exact h1
    · exact tryNoted_wf h1 _ _

theorem takeInput_wf {s : State} (h : memWf s.mem = true) (x : Input) : memWf (takeInput s x).1.mem = true := by
  cases x with
  | event i => exact (takeEvent_mem s i).symm ▸ h
  | issue n loop => exact tryOpt_wf h _
  | peer k rank p => exact peerInput_wf h k rank p
  | storage v unc spot => exact storageError_wf h v unc spot
  | evict pa => exact evictLine_wf h pa
  | marks port set => exact h
  | dark port wavelength => exact darkPort_wf h port wavelength

theorem passClock_wf {s : State} (h : memWf s.mem = true) : memWf (passClock s).mem = true := by
  refine foldl_wf (fun _ _ h => retireIfDone_wf h _) ?_ _
  exact retryAll_wf (retryHeld_wf (finishRecalls_wf (tick_wf (payOwed_wf (latchCommands_wf h)))))

theorem choose_wf {s : State} (h : memWf s.mem = true) : memWf (choose s).1.mem = true := by
  unfold choose
  split
  · refine issueSecond_wf ?_ _
    exact h
  split
  · split
    · exact h
    · exact h
    · show memWf (passClock s).mem = true
      exact passClock_wf h
  split
  · refine takeInput_wf ?_ _
    exact h
  · split
    · exact h
    · exact chooseAlone_wf h

theorem step_wf {s : State} (h : memWf s.mem = true) : EndsWf (step s) := by
  have h1 := choose_wf h
  unfold step
  split <;> rename_i hc <;> rw [hc] at h1
  · exact exec_wf h1 _
  · exact h1

/-- Settles O20: nothing has been written at reset, so that no byte is listed. -/
theorem resetMemoryIsCanonical : Obligations.ResetMemoryIsCanonical := by
  unfold Obligations.ResetMemoryIsCanonical Safe
  rfl

/-- Settles O21: a step chooses what comes next and then executes it, and both keep the form (`choose_wf`, `exec_wf`). -/
theorem everyStepKeepsMemoryCanonical : Obligations.EveryStepKeepsMemoryCanonical := by
  unfold Obligations.EveryStepKeepsMemoryCanonical
  intro s t h e
  have h1 := step_wf h
  rw [e] at h1
  exact h1

end Sys2Proof.Laws
end

section
/-!
Accesses of the team window, lane by lane and line by line (R132 to R134, R149).
-/

namespace Sys2Proof.Laws

open Sys2Proof.Machine Sys2Proof.Claims

/-! ## Addresses in the team window -/

section InTeam

variable {c : Ctx} {va : DWord} {n : Nat}

/-- An access in the team window passes its checks (R343). -/
theorem addrCheck_inTeam {a : Acc} (h : InTeam c va a.bytes) (s : State) : addrCheck s c.t va a = none := by
  obtain ⟨hcan, htop, hal, hfit⟩ := h
  have hcause : teamWindowCause c.t (field va 23 0) a = 0 := if_pos hfit
  simp [Machine.addrCheck, hcan, htop, hal, hcause]

theorem placeOf_inTeam (h : InTeam c va n) (hn : 0 < n) (s : State) : placeOf s c.t va = .scratch (at_ c va) := by
  obtain ⟨-, htop, -, hfit⟩ := h
  simp [Machine.placeOf, htop, at_, show field va 23 0 < c.t.alloc by omega]

theorem lineOf_inTeam (h : InTeam c va n) (hn : 0 < n) (s : State) : lineOf s c.t va = .scratch (at_ c va / 128) := by
  rw [lineOf, placeOf_inTeam h hn]

theorem beyondTeam_inTeam (h : InTeam c va n) : beyondTeam va = false := by simp [Machine.beyondTeam, h.2.1]

end InTeam

/-! ## Lists of lanes with their addresses -/

section Lanes

variable {c : Ctx} {s : State} {addr : Nat → DWord}

theorem mem_lanesAt {p : Nat × DWord} : p ∈ lanesAt c addr ↔ runs c p.1 ∧ p.2 = addr p.1 := by
  obtain ⟨k, a⟩ := p
  simp only [lanesAt, List.mem_map, mem_lanesIn, Prod.mk.injEq, runs]
  constructor
  · rintro ⟨j, hj, rfl, rfl⟩
    exact ⟨hj, rfl⟩
  · rintro ⟨hk, rfl⟩
    exact ⟨k, hk, rfl, rfl⟩

theorem lanesAt_length (c : Ctx) (addr : Nat → DWord) : (lanesAt c addr).length = (active c).length := List.length_map ..

/-- Lanes whose addresses all pass the checks have no fault. -/
theorem lanesFault_none {t : Team} {a : Acc} {ls : List (Nat × DWord)} (h : ∀ p ∈ ls, addrCheck s t p.2 a = none) :
    lanesFault s t a ls = none := by
  have hnil : (ls.filterMap fun p => (addrCheck s t p.2 a).map fun r => (p.1, p.2, r)) = [] :=
    List.filterMap_eq_nil_iff.mpr fun p hp => by rw [h p hp]; rfl
  simp only [lanesFault, hnil]

theorem linesFault_none {t : Team} {bad : LineId → Bool} {ls : List (Nat × DWord)} (h : ∀ p ∈ ls, bad (lineOf s t p.2) = false) :
    linesFault s t bad ls = none := by
  have hnil : (ls.filter fun p => bad (lineOf s t p.2)) = [] := List.filter_eq_nil_iff.mpr fun p hp => by simp [h p hp]
  simp only [linesFault, hnil]

/-- Lanes whose lines are bad fault together, with the address of the lowest of them. -/
theorem linesFault_lowest {bad : LineId → Bool} {j : Nat} (hj : runs c j) (hb : bad (lineOf s c.t (addr j)) = true)
    (hlow : ∀ k, runs c k → bad (lineOf s c.t (addr k)) = true → j ≤ k) : ∃ m,
      linesFault s c.t bad (lanesAt c addr) = some (m, addr j) ∧
      ∀ k, has m k = true ↔ runs c k ∧ bad (lineOf s c.t (addr k)) = true := by
  have hfilter : (lanesAt c addr).filter (fun p => bad (lineOf s c.t p.2)) =
      ((lanesIn c.g c.b.mask).filter fun k => bad (lineOf s c.t (addr k))).map fun k => (k, addr k) := List.filter_map ..
  have hhead : ∃ ks, ((lanesIn c.g c.b.mask).filter fun k => bad (lineOf s c.t (addr k))) = j :: ks := by
    have hmem : j ∈ (lanesIn c.g c.b.mask).filter fun k => bad (lineOf s c.t (addr k)) := List.mem_filter.mpr ⟨mem_lanesIn.mpr hj, hb⟩
    have hsorted := (lanesIn_ascending c.g c.b.mask).filter fun k => bad (lineOf s c.t (addr k))
    generalize hl : ((lanesIn c.g c.b.mask).filter fun k => bad (lineOf s c.t (addr k))) = l at hmem hsorted
    cases l with
    | nil => cases hmem
    | cons i is =>
      have hi : i ∈ (lanesIn c.g c.b.mask).filter fun k => bad (lineOf s c.t (addr k)) := hl ▸ List.mem_cons_self ..
      obtain ⟨hir, hib⟩ := List.mem_filter.mp hi
      have hji := hlow i (mem_lanesIn.mp hir) hib
      rcases List.mem_cons.mp hmem with rfl | hmem
      · exact ⟨is, rfl⟩
      · have := (List.pairwise_cons.mp hsorted).1 j hmem
        omega
  obtain ⟨ks, hks⟩ := hhead
  refine ⟨((lanesAt c addr).filter fun p => bad (lineOf s c.t p.2)).foldl (fun m q => m ||| bit64 q.1) 0, ?_, fun k => ?_⟩
  · rw [linesFault, hfilter, hks]
    rfl
  · rw [has_foldl_bit64 fun q : Nat × DWord => q.1]
    simp only [BitVec.ofNat_eq_ofNat, zero_has, Bool.false_eq_true, false_or, List.mem_filter, mem_lanesAt]
    constructor
    · rintro ⟨-, p, ⟨⟨hr, ha⟩, hb⟩, rfl⟩
      exact ⟨hr, ha ▸ hb⟩
    · rintro ⟨hr, hb⟩
      exact ⟨lt_of_has hr.2, (k, addr k), ⟨⟨hr, rfl⟩, hb⟩, rfl⟩

section TeamLanes

variable {n : Nat} (h : ∀ k, runs c k → InTeam c (addr k) n) (hn : 0 < n)
include h hn

theorem place_of_mem_lanesAt {p : Nat × DWord} (hp : p ∈ lanesAt c addr) (s : State) : placeOf s c.t p.2 = .scratch (at_ c p.2) := by
  obtain ⟨hr, ha⟩ := mem_lanesAt.mp hp
  rw [ha]
  exact placeOf_inTeam (h _ hr) hn s

theorem line_of_mem_lanesAt {p : Nat × DWord} (hp : p ∈ lanesAt c addr) (s : State) : lineOf s c.t p.2 = .scratch (at_ c p.2 / 128) := by
  rw [lineOf, place_of_mem_lanesAt h hn hp]

/-- The lines that accesses to the team window touch are scratchpad lines. -/
theorem mem_linesOf_lanesAt {x : LineId} : x ∈ linesOf s c.t (lanesAt c addr) ↔ ∃ k, runs c k ∧ x = .scratch (at_ c (addr k) / 128) := by
  simp only [linesOf, List.mem_eraseDups, List.mem_map]
  constructor
  · rintro ⟨p, hp, rfl⟩
    obtain ⟨hr, ha⟩ := mem_lanesAt.mp hp
    exact ⟨p.1, hr, by rw [line_of_mem_lanesAt h hn hp, ha]⟩
  · rintro ⟨k, hr, rfl⟩
    exact ⟨(k, addr k), mem_lanesAt.mpr ⟨hr, rfl⟩, lineOf_inTeam (h k hr) hn s⟩

theorem memberReqs_lanesAt (form : Nat) (r rc : BitVec 6) (atom : Option Instr) (data : Nat → List Byte) :
    memberReqs s c.t form r rc atom data (lanesAt c addr) = [] := by
  refine List.eq_nil_iff_forall_not_mem.mpr fun x hx => ?_
  simp only [memberReqs, List.mem_map, List.mem_eraseDups, List.mem_filterMap] at hx
  obtain ⟨_, ⟨_, ⟨p, hp, hpeer⟩, _⟩, _⟩ := hx
  rw [place_of_mem_lanesAt h hn hp] at hpeer
  cases hpeer

theorem peerCount_lanesAt : peerCount s c.t (lanesAt c addr) = 0 :=
  List.countP_eq_zero.mpr fun p hp => by rw [place_of_mem_lanesAt h hn hp]; exact Bool.false_ne_true

omit hn in
theorem any_beyondTeam_lanesAt : ((lanesAt c addr).any fun p => beyondTeam p.2) = false :=
  List.any_eq_false.mpr fun p hp => by
    obtain ⟨hr, ha⟩ := mem_lanesAt.mp hp
    rw [ha, beyondTeam_inTeam (h _ hr)]
    exact Bool.false_ne_true

end TeamLanes

end Lanes

/-! ## Changes of lines -/

theorem lineAt_congr {s t : State} (h : t.lines = s.lines) (q : Nat) : lineAt t q = lineAt s q := by rw [lineAt, lineAt, h]

theorem lineSeen_congr {s t : State} {p q : Nat} (h : lineAt t p = lineAt s q) : lineSeen t p = lineSeen s q := by rw [lineSeen, lineSeen, h]

theorem lineAt_setLine (s : State) (k : Nat) (l : LineMeta) (q : Nat) :
    lineAt (setLine s k l) q = if q / 128 = k / 128 then l else lineAt s q := by
  unfold lineAt setLine
  by_cases hl : l = freshLine
  · simp only [if_pos hl, tget_tdel]
    split_ifs
    · exact hl.symm
    · rfl
  · simp only [if_neg hl, tget_tput]
    split_ifs <;> rfl

/-- What `g` does to a scratchpad line: its metadata change by `f`, and nothing else. -/
def ChangesLine (f : LineMeta → LineMeta) (g : State → LineId → State) : Prop :=
  ∀ u n, g u (.scratch n) = { u with lines := (g u (.scratch n)).lines } ∧
    ∀ q, lineAt (g u (.scratch n)) q = if q / 128 = n then f (lineAt u q) else lineAt u q

/-- The metadata of a line are those at its first byte. -/
theorem lineAt_start {s : State} {n q : Nat} (h : q / 128 = n) : lineAt s (n * 128) = lineAt s q := by
  rw [lineAt, lineAt, Nat.mul_div_cancel _ (by decide), h]

theorem changesLine_of_setLine {f : LineMeta → LineMeta} {g : State → LineId → State}
    (h : ∀ u n, g u (.scratch n) = setLine u (n * 128) (f (lineAt u (n * 128)))) : ChangesLine f g := by
  intro u n
  rw [h]
  refine ⟨rfl, fun q => ?_⟩
  rw [lineAt_setLine, Nat.mul_div_cancel _ (by decide)]
  split_ifs with hq
  · rw [lineAt_start hq]
  · rfl

theorem changesLine_consume (t : Team) : ChangesLine Claims.consumed (consume t) := by
  have heq : ∀ l, Claims.consumed l = if (l.err || l.rc == 0) = true then l else Machine.consumed l := by
    intro l
    simp only [Claims.consumed, Machine.consumed, Bool.or_eq_true, beq_iff_eq]
    split_ifs <;> simp [bne, beq_eq_decide]
  intro u n
  show consumeLine u (n * 128) = { u with lines := (consumeLine u (n * 128)).lines } ∧
    ∀ q, lineAt (consumeLine u (n * 128)) q = if q / 128 = n then Claims.consumed (lineAt u q) else lineAt u q
  rw [consumeLine]
  split_ifs with hc
  · refine ⟨rfl, fun q => ?_⟩
    split_ifs with hq
    · rw [heq, ← lineAt_start hq, if_pos hc]
    · rfl
  · refine ⟨rfl, fun q => ?_⟩
    rw [lineAt_setLine, Nat.mul_div_cancel _ (by decide)]
    split_ifs with hq
    · rw [heq, ← lineAt_start hq, if_neg hc]
    · rfl

theorem changesLine_fill (t : Team) (rc : BitVec 6) (seq : BitVec 4) : ChangesLine (fun _ => filled rc seq) (markLine t false rc seq) :=
  changesLine_of_setLine fun _ _ => rfl

theorem changesLine_empty (t : Team) (rc : BitVec 6) (seq : BitVec 4) : ChangesLine emptied (markLine t true rc seq) :=
  changesLine_of_setLine fun _ _ => rfl

theorem nodup_eraseDups {α : Type} [BEq α] [LawfulBEq α] (l : List α) : l.eraseDups.Nodup := by
  induction hn : l.length using Nat.strong_induction_on generalizing l with
  | _ n ih =>
    cases l with
    | nil => simp
    | cons a as =>
      rw [List.eraseDups_cons]
      have hle := List.length_filter_le (fun b => !b == a) as
      rw [List.length_cons] at hn
      refine List.nodup_cons.mpr ⟨fun ha => ?_, ih _ (by omega) _ rfl⟩
      simp at ha

/-- Scratchpad lines that are each changed once. -/
theorem foldl_changesLine {f : LineMeta → LineMeta} {g : State → LineId → State} (hg : ChangesLine f g) {ls : List LineId}
    (hs : ∀ x ∈ ls, ∃ n, x = .scratch n) (hd : ls.Nodup) (u : State) :
    ls.foldl g u = { u with lines := (ls.foldl g u).lines } ∧
      ∀ q, lineAt (ls.foldl g u) q = if .scratch (q / 128) ∈ ls then f (lineAt u q) else lineAt u q := by
  induction ls generalizing u with
  | nil => exact ⟨rfl, fun _ => rfl⟩
  | cons x xs ih =>
    obtain ⟨n, rfl⟩ := hs x (List.mem_cons_self ..)
    obtain ⟨hx, hd⟩ := List.nodup_cons.mp hd
    obtain ⟨hrest, hline⟩ := ih (fun y hy => hs y (List.mem_cons_of_mem _ hy)) hd (g u (.scratch n))
    obtain ⟨hrest1, hline1⟩ := hg u n
    rw [List.foldl_cons]
    refine ⟨hrest.trans (by rw [hrest1]), fun q => ?_⟩
    rw [hline, hline1]
    by_cases hq : q / 128 = n
    · rw [hq, if_neg hx, if_pos rfl, if_pos (List.mem_cons_self ..)]
    · have hne : LineId.scratch (q / 128) ≠ .scratch n := fun h => hq (LineId.scratch.inj h)
      rw [if_neg hq]
      simp only [List.mem_cons, hne, false_or]

/-- The lines that lanes touch in the team window, each changed once. -/
theorem linesChange_foldl {c : Ctx} {s u : State} {addr : Nat → DWord} {n : Nat} (h : ∀ k, runs c k → InTeam c (addr k) n) (hn : 0 < n)
    {f : LineMeta → LineMeta} {g : State → LineId → State} (hg : ChangesLine f g) (hu : u.lines = s.lines) :
    (linesOf s c.t (lanesAt c addr)).foldl g u = { u with lines := ((linesOf s c.t (lanesAt c addr)).foldl g u).lines } ∧
      LinesChange c addr f s ((linesOf s c.t (lanesAt c addr)).foldl g u) := by
  obtain ⟨hrest, hline⟩ := foldl_changesLine hg (ls := linesOf s c.t (lanesAt c addr))
    (fun x hx => have ⟨k, _, hk⟩ := (mem_linesOf_lanesAt h hn).mp hx; ⟨_, hk⟩) (nodup_eraseDups _) u
  have hmem : ∀ q, LineId.scratch (q / 128) ∈ linesOf s c.t (lanesAt c addr) ↔ ∃ k, runs c k ∧ at_ c (addr k) / 128 = q / 128 := by
    intro q
    rw [mem_linesOf_lanesAt h hn]
    exact exists_congr fun k => and_congr_right fun _ => by rw [LineId.scratch.injEq, eq_comm]
  refine ⟨hrest, fun q => ⟨fun hq => ?_, fun hq => ?_⟩⟩
  · rw [hline, if_pos ((hmem q).mpr hq), lineAt_congr hu]
  · rw [hline, if_neg fun hm => have ⟨k, hk, he⟩ := (hmem q).mp hm; hq k hk he, lineAt_congr hu]

end Sys2Proof.Laws
end

section
/-!
Waiting and consuming loads in the team window, and through a stage ring (R150, R401 to R403).
-/

namespace Sys2Proof.Laws

open Sys2Proof.Machine Sys2Proof.Claims

/-! ## Loads from the team window -/

theorem memReadN_length (m : Memory) (k n : Nat) : (memReadN m k n).length = n := by
  induction n generalizing k with
  | zero => rfl
  | succ n ih => rw [memReadN, List.length_cons, ih]

/-- The word that a 4-byte load lands in its register. -/
def landed (c : Ctx) (s : State) (d : BitVec 6) (k : Nat) (va : DWord) : Load :=
  { lane := k, reg := d, data := BitVec.ofNat 32 (readLe s (at_ c va) 4), pois := spoilt s (at_ c va) 4, ready := true, acq := false,
    more := false }

theorem landing_words (c : Ctx) (s : State) (d : BitVec 6) (va : Nat → DWord) :
    landing c s d 4 va = (lanesAt c va).map fun p => landed c s d p.1 p.2 := by
  rw [landing, lanesAt, List.map_map]
  show (lanesIn c.g c.b.mask).flatMap _ = _
  rw [← List.flatMap_pure_eq_map]
  refine congrArg (fun f => (lanesIn c.g c.b.mask).flatMap f) (funext fun k => ?_)
  simp [landed]

theorem wordsOf_readN (s : State) (k : Nat) : wordsOf (readN s k 4) = [BitVec.ofNat 32 (readLe s k 4)] := by
  have hlen : (readN s k 4).length = 4 := memReadN_length _ _ _
  rw [wordsOf, hlen]
  simp [readLe, List.take_of_length_le hlen.le]

/-- A load of a word of the team window. -/
theorem loadLane_word {c : Ctx} {s u : State} {va : DWord} (hm : u.mem = s.mem) (hp : u.poison = s.poison) (hl : u.lines = s.lines)
    (k : Nat) (d : BitVec 6) :
    loadLane u c (.scratch (at_ c va)) k d 4 = onGroup u c fun g => { g with loads := g.loads ++ [landed c s d k va] } := by
  have hword : wordsOf (readN u (at_ c va) 4) = [BitVec.ofNat 32 (readLe s (at_ c va) 4)] := by
    rw [wordsOf_readN, readLe, readLe, readN, readN, hm]
  have hspoilt : (poisonedAt u (at_ c va) 4 || (lineAt u (at_ c va)).err) = spoilt s (at_ c va) 4 := by
    rw [spoilt, lineAt_congr hl, poisonedAt, poisonedAt, hp]
  show onGroup u c (addLoads k d (wordsOf (readN u (at_ c va) 4)) (poisonedAt u (at_ c va) 4 || (lineAt u (at_ c va)).err) true) = _
  rw [hword, hspoilt]
  refine congrArg (onGroup u c) (funext fun g => ?_)
  simp [addLoads, landed, mapFrom]

theorem onGroup_onGroup (u : State) (c : Ctx) (f g : Group → Group) : onGroup (onGroup u c f) c g = onGroup u c fun x => g (f x) := by
  simp only [onGroup, modGroup, listMod_comp]

theorem onGroup_id (u : State) (c : Ctx) : onGroup u c (fun g => g) = u := by
  have hid : listMod (fun g : Group => g) c.b.group u.groups = u.groups := List.ext_getElem? fun m => by
    rw [listMod_getElem?]
    split_ifs <;> simp
  rw [onGroup, modGroup, hid]

/-- The loads of some lanes, each of a word of the team window. -/
theorem foldl_loadLane {c : Ctx} {s : State} {ls : List (Nat × DWord)} {step : State → Nat × DWord → State} {d : BitVec 6}
    (hstep : ∀ u, ∀ p ∈ ls, step u p = loadLane u c (.scratch (at_ c p.2)) p.1 d 4) (u : State)
    (hm : u.mem = s.mem) (hp : u.poison = s.poison) (hl : u.lines = s.lines) :
    ls.foldl step u = onGroup u c fun g => { g with loads := g.loads ++ ls.map fun p => landed c s d p.1 p.2 } := by
  induction ls generalizing u with
  | nil =>
    have hid : (fun g : Group => { g with loads := g.loads ++ [] }) = fun g => g := funext fun g => by rw [List.append_nil]
    rw [List.map_nil, hid, onGroup_id]
    rfl
  | cons p ps ih =>
    rw [List.foldl_cons, hstep u p (List.mem_cons_self ..), loadLane_word hm hp hl,
      ih (fun u q hq => hstep u q (List.mem_cons_of_mem _ hq)) _ (by exact hm) (by exact hp) (by exact hl), onGroup_onGroup]
    simp only [List.map_cons, List.append_assoc, List.singleton_append]

theorem waits_stallFor {c : Ctx} {s : State} (h : s.groups[c.b.group]? = some c.g) (r : Stall) : Waits c r s (stallFor s c r) :=
  ⟨Elsewhere.onGroup s c _, onGroup_self h _⟩

theorem elsewhere_withLines {n : Nat} {s t : State} (h : Elsewhere n s t) (x : Table LineMeta) :
    Elsewhere n { s with lines := x } { t with lines := x } where
  bytes := h.bytes
  rest := by conv_lhs => rw [h.rest]
  count := h.count
  groups := h.groups
  chips := h.chips

/-- An instruction that has issued its loads, with changes of lines, has them outstanding. -/
theorem loadsFor_issued {i : Instr} {c : Ctx} {s t : State} {xs : List Load} (h : s.groups[c.b.group]? = some c.g)
    (ht : t = { onGroup (issued i c s) c (fun g => { g with loads := g.loads ++ xs }) with lines := t.lines }) :
    LoadsFor i c xs { s with lines := t.lines } t := by
  obtain ⟨he, hg⟩ := issued_then (i := i) h fun g => { g with loads := g.loads ++ xs }
  rw [ht]
  refine ⟨elsewhere_withLines he _, _, hg, rfl, by simp, fun k hk => ?_⟩
  exact advance_lanes _ _ _ _ _ hk

/-! ## Waiting and consuming loads -/

theorem laneAddr_lanesOff (c : Ctx) (b a : BitVec 6) : laneAddr c b a = lanesOff c b a := funext fun k => laneAddr_eq c a b k

theorem queueFull_eq_false_iff {s : State} {c : Ctx} {n : Nat} : queueFull s c n = false ↔ Room c s n := by
  rw [queueFull, Room, Bool.and_eq_false_iff, bne_eq_false_iff_eq, decide_eq_false_iff_not, Nat.not_lt, Config.memoryRequests]

/-- The metadata of the line of a key, as a reader of the whole line finds them. -/
theorem lineSeen_start (s : State) (q : Nat) : lineSeen s (q / 128 * 128) = lineSeen s q := lineSeen_congr (lineAt_start rfl)

section Loads

variable {i : Instr} {c : Ctx} {s : State} {addr : Nat → DWord} {d : BitVec 6}

/-- The state after a waiting load that has not waited: its words are outstanding, and its lines consumed by a consuming one. -/
def loaded (i : Instr) (consumes : Bool) (c : Ctx) (s : State) (d : BitVec 6) (addr : Nat → DWord) : State :=
  let s1 := onGroup (issued i c s) c fun g => { g with loads := g.loads ++ landing c s d 4 addr }
  if consumes then (linesOf s c.t (lanesAt c addr)).foldl (consume c.t) s1 else s1

theorem foldl_loads (h : ∀ k, runs c k → InTeam c (addr k) 4) {step : State → Nat × DWord → State}
    (hstep : ∀ u, ∀ p ∈ lanesAt c addr, step u p = loadLane u c (placeOf u c.t p.2) p.1 d 4) :
    (lanesAt c addr).foldl step (issued i c s) = onGroup (issued i c s) c fun g => { g with loads := g.loads ++ landing c s d 4 addr } := by
  have hrest := (Elsewhere.issued i c s).rest
  rw [landing_words]
  refine foldl_loadLane (s := s) (fun u p hp => ?_) _ (by rw [hrest]) (by rw [hrest]) (by rw [hrest])
  rw [hstep u p hp, place_of_mem_lanesAt h (by decide) hp]

theorem loaded_results (hg : s.groups[c.b.group]? = some c.g) (h : ∀ k, runs c k → InTeam c (addr k) 4) (consumes : Bool) :
    LoadsFor i c (landing c s d 4 addr) { s with lines := (loaded i consumes c s d addr).lines } (loaded i consumes c s d addr) ∧
      LinesChange c addr (if consumes then Claims.consumed else id) s (loaded i consumes c s d addr) := by
  have hlines : (onGroup (issued i c s) c fun g => { g with loads := g.loads ++ landing c s d 4 addr }).lines = s.lines :=
    (congrArg State.lines (Elsewhere.issued i c s).rest :)
  cases consumes with
  | false => exact ⟨loadsFor_issued hg rfl, fun q => ⟨fun _ => lineAt_congr hlines q, fun _ => lineAt_congr hlines q⟩⟩
  | true =>
    obtain ⟨hrest, hchange⟩ := linesChange_foldl h (by decide) (changesLine_consume c.t) hlines
    exact ⟨loadsFor_issued hg hrest, hchange⟩

theorem any_linesOf_lanesAt (h : ∀ k, runs c k → InTeam c (addr k) 4) (p : LineId → Bool) :
    ((linesOf s c.t (lanesAt c addr)).any p) = true ↔ ∃ k, runs c k ∧ p (.scratch (at_ c (addr k) / 128)) = true := by
  rw [List.any_eq_true]
  constructor
  · rintro ⟨x, hx, hp⟩
    obtain ⟨k, hk, rfl⟩ := (mem_linesOf_lanesAt h (by decide)).mp hx
    exact ⟨k, hk, hp⟩
  · rintro ⟨k, hk, hp⟩
    exact ⟨_, (mem_linesOf_lanesAt h (by decide)).mpr ⟨k, hk, rfl⟩, hp⟩

/-- A line that a waiting load finds empty. -/
theorem any_lineEmpty_iff (h : ∀ k, runs c k → InTeam c (addr k) 4) :
    ((linesOf s c.t (lanesAt c addr)).any (lineEmpty s c.t)) = true ↔ ∃ k, runs c k ∧ (lineSeen s (at_ c (addr k))).f = false := by
  rw [any_linesOf_lanesAt h]
  refine exists_congr fun k => and_congr_right fun _ => ?_
  rw [lineEmpty, lineSeen_start, Bool.not_eq_true']

theorem waitLoadAt_inTeam (h : ∀ k, runs c k → InTeam c (addr k) 4) {p : Nat × DWord} (hp : p ∈ lanesAt c addr) (u : State) :
    waitLoadAt c d u p.1 p.2 = loadLane u c (placeOf u c.t p.2) p.1 d 4 := by
  rw [waitLoadAt, place_of_mem_lanesAt h (by decide) hp]

/-- What `LDW` and `LDC` do in the team window. -/
theorem waitLoad_inTeam (h : ∀ k, runs c k → InTeam c (addr k) 4) (consumes : Bool) :
    waitLoad i consumes d c s (lanesAt c addr) =
      if queueFull s c (lanesAt c addr).length then stallFor s c .memoryQueue
      else if (linesOf s c.t (lanesAt c addr)).any (lineEmpty s c.t) then stallFor s c .fullBit
      else loaded i consumes c s d addr := by
  have htomb : linesFault s c.t (lineTomb s) (lanesAt c addr) = none :=
    linesFault_none fun p hp => by rw [line_of_mem_lanesAt h (by decide) hp]; rfl
  have hloads := foldl_loads (i := i) (s := s) h fun u p hp => waitLoadAt_inTeam (d := d) h hp u
  rw [waitLoad, memberReqs_lanesAt h (by decide), htomb, ite_self]
  simp only [List.any_nil, Bool.or_false, List.foldl_nil]
  rw [hloads]
  rfl

/-- A waiting load in the team window, once its addresses have passed. -/
theorem waitLoads_issue (hr : Ready i c s) {a b : BitVec 6} (h : ∀ k, runs c k → InTeam c (lanesOff c b a k) 4) (consumes : Bool) :
    waitLoads i consumes a b d s = .next (waitLoad i consumes d c s (lanesAt c (lanesOff c b a))) := by
  have hpass : lanesFault s c.t { bytes := 4, special := true } (lanesAt c (lanesOff c b a)) = none :=
    lanesFault_none fun p hp => by
      obtain ⟨hk, ha⟩ := mem_lanesAt.mp hp
      rw [ha]
      exact addrCheck_inTeam (h _ hk) s
  rw [waitLoads, hr.issue]
  simp only [laneAddr_lanesOff, hpass]

theorem waitLoads_results (hr : Ready i c s) {a b : BitVec 6} (h : ∀ k, runs c k → InTeam c (lanesOff c b a k) 4) (consumes : Bool)
    (he : exec i s = waitLoads i consumes a b d s) :
    ((∀ k, runs c k → (lineSeen s (at_ c (lanesOff c b a k))).f = true) → Room c s (active c).length → ∃ t, exec i s = .next t ∧
      LoadsFor i c (landing c s d 4 (lanesOff c b a)) { s with lines := t.lines } t ∧
      LinesChange c (lanesOff c b a) (if consumes then Claims.consumed else id) s t) ∧
    ((∃ k, runs c k ∧ (lineSeen s (at_ c (lanesOff c b a k))).f = false) → Room c s (active c).length →
      ∃ t, exec i s = .next t ∧ Waits c .fullBit s t) ∧
    (¬Room c s (active c).length → ∃ t, exec i s = .next t ∧ Waits c .memoryQueue s t) := by
  rw [he, waitLoads_issue hr h, waitLoad_inTeam h, lanesAt_length]
  refine ⟨fun hfull hroom => ⟨_, rfl, ?_⟩, fun hempty hroom => ⟨_, rfl, ?_⟩, fun hroom => ⟨_, rfl, ?_⟩⟩
  · have hnone : ¬((linesOf s c.t (lanesAt c (lanesOff c b a))).any (lineEmpty s c.t)) = true := by
      rw [any_lineEmpty_iff h]
      rintro ⟨k, hk, hf⟩
      rw [hfull k hk] at hf
      cases hf
    rw [queueFull_eq_false_iff.mpr hroom, if_neg Bool.false_ne_true, if_neg hnone]
    exact loaded_results hr.group h consumes
  · rw [queueFull_eq_false_iff.mpr hroom, if_neg Bool.false_ne_true, if_pos ((any_lineEmpty_iff h).mpr hempty)]
    exact waits_stallFor hr.group _
  · rw [if_pos (Bool.eq_true_of_not_eq_false fun hf => hroom (queueFull_eq_false_iff.mp hf))]
    exact waits_stallFor hr.group _

end Loads

/-! ## Loads through a stage ring -/

section Rings

variable {c : Ctx} {b a : BitVec 6}

theorem ringOf_offset (x : DWord) : (ringOf x).offset = slotStart x := rfl

theorem ringAddr_ringOf (c : Ctx) (b a : BitVec 6) : ringAddr c (ringOf (readS c.g b)) a = ringOff c b a := by
  funext k
  rw [ringAddr, ringOff, ringOf_offset, BitVec.ofNat_add, ← BitVec.ofNat_toNat, BitVec.add_assoc]
  rfl

/-- An offset within a slot of the ring lies below the end of the ring, and so within the team's window (R198). -/
theorem slotStart_le (h : RingOk c b a) {k : Nat} (hk : runs c k) :
    slotStart (readS c.g b) + (readV (laneAt c.g k) a).toNat + 4 ≤ c.t.alloc := by
  obtain ⟨-, -, -, hfit, -, hoff⟩ := h
  obtain ⟨hlt, -⟩ := hoff k hk
  have hslot : ringSeq (readS c.g b) % ringSlots (readS c.g b) < ringSlots (readS c.g b) := Nat.mod_lt _ (Nat.succ_pos _)
  have hmul : ringSeq (readS c.g b) % ringSlots (readS c.g b) * ringLines (readS c.g b) + ringLines (readS c.g b) ≤
      ringSlots (readS c.g b) * ringLines (readS c.g b) := by
    rw [← Nat.succ_mul]
    exact Nat.mul_le_mul_right _ hslot
  rw [slotStart]
  omega

/-- A lane's address through a ring is one of the team window. -/
theorem inTeam_ringOff (h : RingOk c b a) {k : Nat} (hk : runs c k) : InTeam c (ringOff c b a k) 4 := by
  have hend := slotStart_le h hk
  obtain ⟨-, -, -, -, halloc, hoff⟩ := h
  have hal := (hoff k hk).2
  have hstart : slotStart (readS c.g b) % 4 = 0 := by rw [slotStart]; omega
  have hn : (ringOff c b a k).toNat = 0xFF * 2 ^ 56 + (slotStart (readS c.g b) + (readV (laneAt c.g k) a).toNat) := by
    rw [ringOff, BitVec.toNat_add, BitVec.toNat_ofNat, show (0xFF00000000000000 : DWord).toNat = 0xFF00000000000000 from rfl]
    omega
  have htop : topByte (ringOff c b a k) = 0xFF := by
    rw [Machine.topByte, field, hn]
    omega
  refine ⟨?_, htop, by rw [hn]; omega, ?_⟩
  · have hf : field (ringOff c b a k) 55 24 = 0 := by
      rw [field, hn]
      omega
    simp [Machine.canonical, htop, hf]
  · rw [field, hn]
    omega

theorem ringFault_none (h : RingOk c b a) : ringFault c (ringOf (readS c.g b)) a (lanesAt c (ringOff c b a)) = none := by
  obtain ⟨hres, hslots, hlines, hfit, -, hoff⟩ := h
  have hok : (ringOf (readS c.g b)).ok = true := by
    have hlines' : field (readS c.g b) 20 13 ≠ 0 := hlines
    simp [ringOf, hres, hslots, hlines']
  have hfits : (ringOf (readS c.g b)).fits c.t.alloc = true := decide_eq_true hfit
  have hnil : ((lanesAt c (ringOff c b a)).filter fun p => !(ringOf (readS c.g b)).fits c.t.alloc ||
      decide ((ringOf (readS c.g b)).slotl * 128 ≤ (readV (laneAt c.g p.1) a).toNat)) = [] := by
    refine List.filter_eq_nil_iff.mpr fun p hp => ?_
    have hlt : (readV (laneAt c.g p.1) a).toNat + 4 ≤ (ringOf (readS c.g b)).slotl * 128 := (hoff p.1 (mem_lanesAt.mp hp).1).1
    rw [hfits, Bool.not_true, Bool.false_or, decide_eq_true_eq]
    omega
  rw [ringFault, hok, Bool.not_true, if_neg Bool.false_ne_true]
  simp only [hnil]

end Rings

theorem seqDistance_line (s : State) (q seq : Nat) : seqDistance s (q / 128) seq = distance s q seq := by
  rw [seqDistance, distance, lineAt_start rfl]

theorem lineOver_iff {s : State} {q seq : Nat} : lineOver s seq (.scratch (q / 128)) = true ↔ overRead s q seq := by
  rw [lineOver, seqDistance_line, lineSeen_start, overRead, Bool.and_eq_true, Bool.and_eq_true, decide_eq_true_eq, decide_eq_true_eq, and_assoc]

theorem lineEarly_iff {s : State} {q seq : Nat} :
    lineEarly s seq (.scratch (q / 128)) = true ↔ (lineSeen s q).f = false ∨ 8 ≤ distance s q seq := by
  rw [lineEarly, seqDistance_line, lineSeen_start, Bool.or_eq_true, Bool.not_eq_true', decide_eq_true_eq]

section RingLoads

variable {i : Instr} {c : Ctx} {s : State} {a b d : BitVec 6}

/-- A bad line faults the lanes that touch one. -/
theorem faultsWhere_of_linesFault (hr : Ready i c s) {addr : Nat → DWord} (h : ∀ k, runs c k → InTeam c (addr k) 4) {bad : LineId → Bool}
    {p : Nat → Prop} (hbad : ∀ q, bad (.scratch (q / 128)) = true ↔ p q) {cause : BitVec 8}
    (hexec : ∀ m j, linesFault s c.t bad (lanesAt c addr) = some (m, addr j) → exec i s = .next (fault s c cause m (addr j))) :
    FaultsWhere i c cause (fun k => p (at_ c (addr k))) addr s := by
  have hline : ∀ k, runs c k → (bad (lineOf s c.t (addr k)) = true ↔ p (at_ c (addr k))) := fun k hk => by
    rw [lineOf_inTeam (h k hk) (by decide), hbad]
  intro j hj hp hlow
  obtain ⟨m, hm, hmask⟩ := linesFault_lowest (bad := bad) (s := s) (addr := addr) hj ((hline j hj).mpr hp)
    fun k hk hb => hlow k hk ((hline k hk).mp hb)
  exact ⟨_, m, hexec m j hm, hr.fault _ _ _, fun k _ => (hmask k).trans (and_congr_right fun hk => hline k hk)⟩

/-- A load through a ring that obeys R197 and R198, once its addresses have passed. -/
theorem ringLoads_issue (hr : Ready i c s) (h : RingOk c b a) (consumes : Bool) : ringLoads i consumes a b d s = .next (
    match linesFault s c.t (lineOver s (ringSeq (readS c.g b))) (lanesAt c (ringOff c b a)) with
    | some (m, va) => fault s c cOverRead m va
    | none =>
      if queueFull s c (lanesAt c (ringOff c b a)).length then stallFor s c .memoryQueue
      else if (linesOf s c.t (lanesAt c (ringOff c b a))).any (lineEarly s (ringSeq (readS c.g b))) then stallFor s c .fullBit
      else loaded i consumes c s d (ringOff c b a)) := by
  have hin : ∀ k, runs c k → InTeam c (ringOff c b a k) 4 := fun k hk => inTeam_ringOff h hk
  have hpass : lanesFault s c.t { bytes := 4, special := true } (lanesAt c (ringOff c b a)) = none :=
    lanesFault_none fun p hp => by
      obtain ⟨hk, ha⟩ := mem_lanesAt.mp hp
      rw [ha]
      exact addrCheck_inTeam (hin _ hk) s
  have hloads := foldl_loads (i := i) (s := s) (d := d) hin fun _ _ _ => rfl
  rw [ringLoads, hr.issue]
  simp only [ringAddr_ringOf, ringFault_none h, hpass]
  rw [hloads]
  rfl

theorem ringLoads_results (hr : Ready i c s) (h : RingOk c b a) (consumes : Bool) (he : exec i s = ringLoads i consumes a b d s) :
    let q := fun k => at_ c (ringOff c b a k)
    let seq := ringSeq (readS c.g b)
    ((∀ k, runs c k → (lineSeen s (q k)).f = true ∧ distance s (q k) seq = 0) → Room c s (active c).length → ∃ t, exec i s = .next t ∧
      LoadsFor i c (landing c s d 4 (ringOff c b a)) { s with lines := t.lines } t ∧
      LinesChange c (ringOff c b a) (if consumes then Claims.consumed else id) s t) ∧
    ((∀ k, runs c k → ¬overRead s (q k) seq) →
      ((∃ k, runs c k ∧ ((lineSeen s (q k)).f = false ∨ 8 ≤ distance s (q k) seq)) → Room c s (active c).length →
        ∃ t, exec i s = .next t ∧ Waits c .fullBit s t) ∧
      (¬Room c s (active c).length → ∃ t, exec i s = .next t ∧ Waits c .memoryQueue s t)) ∧
    FaultsWhere i c 0x0A (fun k => overRead s (q k) seq) (ringOff c b a) s := by
  intro q seq
  have hin : ∀ k, runs c k → InTeam c (ringOff c b a k) 4 := fun k hk => inTeam_ringOff h hk
  have hnone : (∀ k, runs c k → ¬overRead s (q k) seq) → linesFault s c.t (lineOver s seq) (lanesAt c (ringOff c b a)) = none := fun hno =>
    linesFault_none fun p hp => by
      obtain ⟨hk, ha⟩ := mem_lanesAt.mp hp
      rw [line_of_mem_lanesAt hin (by decide) hp, ha, ← Bool.not_eq_true, lineOver_iff]
      exact hno _ hk
  have hearly : ((linesOf s c.t (lanesAt c (ringOff c b a))).any (lineEarly s seq)) = true ↔
      ∃ k, runs c k ∧ ((lineSeen s (q k)).f = false ∨ 8 ≤ distance s (q k) seq) := by
    rw [any_linesOf_lanesAt hin]
    exact exists_congr fun k => and_congr_right fun _ => lineEarly_iff
  have hexec := he.trans (ringLoads_issue (d := d) hr h consumes)
  refine ⟨fun hfull hroom => ⟨_, hexec, ?_⟩, fun hno => ⟨fun hwait hroom => ⟨_, hexec, ?_⟩, fun hroom => ⟨_, hexec, ?_⟩⟩, ?_⟩
  · have hnotEarly : ¬((linesOf s c.t (lanesAt c (ringOff c b a))).any (lineEarly s seq)) = true := by
      rw [hearly]
      rintro ⟨k, hk, hf | hd⟩
      · rw [(hfull k hk).1] at hf
        cases hf
      · rw [(hfull k hk).2] at hd
        omega
    rw [hnone fun k hk ho => by have := ho.2.1; rw [(hfull k hk).2] at this; omega]
    simp only [lanesAt_length]
    rw [queueFull_eq_false_iff.mpr hroom, if_neg Bool.false_ne_true, if_neg hnotEarly]
    exact loaded_results hr.group hin consumes
  · rw [hnone hno]
    simp only [lanesAt_length]
    rw [queueFull_eq_false_iff.mpr hroom, if_neg Bool.false_ne_true, if_pos (hearly.mpr hwait)]
    exact waits_stallFor hr.group _
  · rw [hnone hno]
    simp only [lanesAt_length]
    rw [if_pos (Bool.eq_true_of_not_eq_false fun hf => hroom (queueFull_eq_false_iff.mp hf))]
    exact waits_stallFor hr.group _
  · refine faultsWhere_of_linesFault hr hin (fun _ => lineOver_iff) fun m j hm => ?_
    rw [hexec, hm]
    rfl

end RingLoads

theorem waitingLoadResults : WaitingLoadResults := by
  refine ⟨?_, ?_⟩
  · intro consumes l a b d c s i hr h
    cases consumes with
    | false => exact waitLoads_results hr h false rfl
    | true => exact waitLoads_results hr h true rfl
  · intro consumes l a b d c s i q seq hr h
    cases consumes with
    | false => exact ringLoads_results hr h false rfl
    | true => exact ringLoads_results hr h true rfl

end Sys2Proof.Laws
end

section
/-!
Filling and emptying stores in the team window (R151, R152, R461, R462).
-/

namespace Sys2Proof.Laws

open Sys2Proof.Machine Sys2Proof.Claims

/-! ## Stores to the team window -/

theorem toLeBytes_getElem? {n j : Nat} (h : j < n) (x : Nat) : (toLeBytes n x)[j]? = some (BitVec.ofNat 8 (x / 2 ^ (8 * j))) := by
  induction n generalizing x j with
  | zero => omega
  | succ n ih =>
    cases j with
    | zero => simp [toLeBytes]
    | succ j =>
      rw [toLeBytes, List.getElem?_cons_succ, ih (by omega), Nat.div_div_eq_div_mul, show 256 = 2 ^ 8 from rfl, ← pow_add]
      ring_nf

theorem memRead_writeN_inside (s : State) {k j : Nat} {bs : List Byte} {b : Byte} (h : bs[j]? = some b) :
    memRead (writeN s k bs).mem (k + j) = b := by
  show memRead (memWriteN s.mem k bs) (k + j) = b
  rw [memRead_memWriteN, if_pos (Nat.le_add_right ..), Nat.add_sub_cancel_left, h, Option.getD_some]

theorem mem_wholeUnits {k n u : Nat} (h : u ∈ wholeUnits k n) : k ≤ 8 * u ∧ 8 * u + 8 ≤ k + n := by
  obtain ⟨i, hi, rfl⟩ := List.mem_map.mp h
  rw [List.mem_range] at hi
  omega

section Writes

variable {c : Ctx} {n : Nat} {bs : Nat → List Byte}

/-- What the stores of some lanes, in ascending order, leave as it was. -/
theorem foldl_writeN_frame (hlen : ∀ k, (bs k).length = n) (ls : List (Nat × DWord)) (u : State) :
    let t := ls.foldl (fun u p => writeN u (at_ c p.2) (bs p.1)) u
    t = { u with mem := t.mem, poison := t.poison } ∧
      (∀ q, (∀ p ∈ ls, q < at_ c p.2 ∨ at_ c p.2 + n ≤ q) → memRead t.mem q = memRead u.mem q) ∧
      (∀ x, x ∈ t.poison → x ∈ u.poison) ∧
      ∀ x, x ∈ u.poison → (∀ p ∈ ls, 8 * x + 8 ≤ at_ c p.2 ∨ at_ c p.2 + n ≤ 8 * x) → x ∈ t.poison := by
  induction ls generalizing u with
  | nil => exact ⟨rfl, fun _ _ => rfl, fun _ => id, fun _ hx _ => hx⟩
  | cons p ps ih =>
    obtain ⟨hrest, hmem, hsub, hkeep⟩ := ih (writeN u (at_ c p.2) (bs p.1))
    refine ⟨hrest, fun q hq => (hmem q fun r hr => hq r (List.mem_cons_of_mem _ hr)).trans (memRead_writeN_outside u ?_),
      fun x hx => (List.mem_filter.mp (hsub x hx)).1,
      fun x hx ho => hkeep x (List.mem_filter.mpr ⟨hx, ?_⟩) fun r hr => ho r (List.mem_cons_of_mem _ hr)⟩
    · rw [hlen]
      exact hq p (List.mem_cons_self ..)
    · rw [Bool.not_eq_true', ← Bool.not_eq_true, List.contains_iff_mem, hlen]
      intro hw
      have := mem_wholeUnits hw
      have := ho p (List.mem_cons_self ..)
      omega

/-- A byte that no later lane stores is left as its lane stored it. -/
theorem memRead_foldl_writeN (hlen : ∀ k, (bs k).length = n) {ls : List (Nat × DWord)} (hs : ls.Pairwise fun p q => p.1 < q.1)
    {p : Nat × DWord} (hp : p ∈ ls) {j : Nat} {b : Byte} (hb : (bs p.1)[j]? = some b)
    (hlater : ∀ q ∈ ls, p.1 < q.1 → at_ c p.2 + j < at_ c q.2 ∨ at_ c q.2 + n ≤ at_ c p.2 + j) (u : State) :
    memRead (ls.foldl (fun u p => writeN u (at_ c p.2) (bs p.1)) u).mem (at_ c p.2 + j) = b := by
  induction ls generalizing u with
  | nil => cases hp
  | cons q qs ih =>
    obtain ⟨hq, hs⟩ := List.pairwise_cons.mp hs
    rw [List.foldl_cons]
    rcases List.mem_cons.mp hp with rfl | hp
    · rw [(foldl_writeN_frame hlen qs _).2.1 _ fun r hr => hlater r (List.mem_cons_of_mem _ hr) (hq r hr), memRead_writeN_inside u hb]
    · exact ih hs hp (fun r hr => hlater r (List.mem_cons_of_mem _ hr)) _

theorem lanesAt_ascending (c : Ctx) (addr : Nat → DWord) : (lanesAt c addr).Pairwise fun p q => p.1 < q.1 :=
  List.pairwise_map.mpr (lanesIn_ascending _ _)

/-- The stores of a bundle's lanes to the team window, whose words' bytes are those of numbers, after which poison has gone from some of
the units that they cover. -/
theorem stored_foldl {addr : Nat → DWord} {x : Nat → Nat} {s u t : State} (hm : u.mem = s.mem) (hp : u.poison = s.poison)
    (htm : t.mem = ((lanesAt c addr).foldl (fun u p => writeN u (at_ c p.2) (toLeBytes n (x p.1))) u).mem)
    (hsub : ∀ y, y ∈ t.poison → y ∈ ((lanesAt c addr).foldl (fun u p => writeN u (at_ c p.2) (toLeBytes n (x p.1))) u).poison)
    (hkeep : ∀ y, y ∈ ((lanesAt c addr).foldl (fun u p => writeN u (at_ c p.2) (toLeBytes n (x p.1))) u).poison →
      (∀ k, runs c k → 8 * y + 8 ≤ at_ c (addr k) ∨ at_ c (addr k) + n ≤ 8 * y) → y ∈ t.poison) :
    Stored c n addr x s t := by
  have hlen : ∀ k, (toLeBytes n (x k)).length = n := fun k => toLeBytes_length _ _
  obtain ⟨-, hmem, hold, hstay⟩ := foldl_writeN_frame (c := c) hlen (lanesAt c addr) u
  have hlanes : ∀ {P : Nat → DWord → Prop}, (∀ k, runs c k → P k (addr k)) → ∀ p ∈ lanesAt c addr, P p.1 p.2 := fun hP p hp => by
    obtain ⟨hk, ha⟩ := mem_lanesAt.mp hp
    rw [ha]
    exact hP _ hk
  refine ⟨fun q hq => ?_, fun k j hk hj hlater => ?_, fun y hy => hp ▸ hold y (hsub y hy), fun y hy ho => ?_⟩
  · rw [htm, hmem q (hlanes (P := fun _ a => q < at_ c a ∨ at_ c a + n ≤ q) hq), hm]
  · rw [htm, memRead_foldl_writeN hlen (lanesAt_ascending c addr) (p := (k, addr k)) (mem_lanesAt.mpr ⟨hk, rfl⟩) (toLeBytes_getElem? hj _)
      (hlanes (P := fun m a => k < m → at_ c (addr k) + j < at_ c a ∨ at_ c a + n ≤ at_ c (addr k) + j) hlater), BitVec.toNat_ofNat]
  · exact hkeep y (hstay y (hp ▸ hy) (hlanes (P := fun _ a => 8 * y + 8 ≤ at_ c a ∨ at_ c a + n ≤ 8 * y) ho)) ho

end Writes

/-! ## Filling and emptying stores -/

/-- Nothing outside memory, its poison and its lines' metadata has changed. -/
def OnlyMemory (s t : State) : Prop := t = { s with mem := t.mem, poison := t.poison, lines := t.lines }

theorem onlyMemory_trans {s t u : State} (h : OnlyMemory s t) (k : OnlyMemory t u) : OnlyMemory s u :=
  Eq.trans k (by rw [OnlyMemory] at h; rw [h])

theorem elsewhere_withMemory {n : Nat} {s t : State} (he : Elsewhere n s t) (m : Memory) (p : List Nat) (x : Table LineMeta) :
    Elsewhere n { s with mem := m, poison := p, lines := x } { t with mem := m, poison := p, lines := x } where
  bytes _ := rfl
  rest := by conv_lhs => rw [he.rest]
  count := he.count
  groups := he.groups
  chips := he.chips

/-- An instruction that has issued and then changed memory only. -/
theorem onlyMoves_of_onlyMemory {i : Instr} {c : Ctx} {s t : State} (hg : s.groups[c.b.group]? = some c.g)
    (h : OnlyMemory (issued i c s) t) : OnlyMoves i c { s with mem := t.mem, poison := t.poison, lines := t.lines } t := by
  obtain ⟨he, g', hg', hkept, hmove⟩ := onlyMoves (i := i) hg
  rw [OnlyMemory] at h
  rw [h]
  exact ⟨elsewhere_withMemory he _ _ _, g', hg', hkept, hmove⟩

section Fills

variable {i : Instr} {c : Ctx} {s : State} {addr : Nat → DWord} {d : BitVec 6}

/-- The state after the stores of a filling or emptying instruction, before its lines change. -/
def fillsWritten (i : Instr) (c : Ctx) (s : State) (d : BitVec 6) (addr : Nat → DWord) : State :=
  unpoison (fillKeys s c (fun _ => false) (lanesAt c addr))
    ((lanesAt c addr).foldl (fun u p => writeN u (at_ c p.2) (word32 (laneAt c.g p.1) d)) (issued i c s))

/-- And after they have. -/
def linesFilled (i : Instr) (empties : Bool) (seq : BitVec 4) (c : Ctx) (s : State) (d : BitVec 6) (addr : Nat → DWord) : State :=
  (linesOf s c.t (lanesAt c addr)).foldl (markLine c.t empties c.g.rcount seq) (fillsWritten i c s d addr)

variable (h : ∀ k, runs c k → InTeam c (addr k) 4)
include h

theorem fillAt_inTeam {p : Nat × DWord} (hp : p ∈ lanesAt c addr) (u : State) :
    fillAt c d u p.1 p.2 = writeN u (at_ c p.2) (word32 (laneAt c.g p.1) d) := by
  rw [fillAt, place_of_mem_lanesAt h (by decide) hp]
  rfl

theorem foldl_fillAt (u : State) : (lanesAt c addr).foldl (fun u p => fillAt c d u p.1 p.2) u =
    (lanesAt c addr).foldl (fun u p => writeN u (at_ c p.2) (word32 (laneAt c.g p.1) d)) u :=
  List.foldl_ext _ _ _ fun u _ hp => fillAt_inTeam h hp u

theorem mem_fillKeys {counts : LineId → Bool} {q : Nat} : q ∈ fillKeys s c counts (lanesAt c addr) ↔
    ∃ k j, runs c k ∧ j < 4 ∧ at_ c (addr k) + j = q := by
  simp only [fillKeys, List.mem_flatten, List.mem_map]
  constructor
  · rintro ⟨_, ⟨p, hp, rfl⟩, hq⟩
    rw [place_of_mem_lanesAt h (by decide) hp] at hq
    obtain ⟨j, hj, rfl⟩ := List.mem_map.mp hq
    obtain ⟨hk, ha⟩ := mem_lanesAt.mp hp
    exact ⟨p.1, j, hk, List.mem_range.mp hj, by rw [ha]⟩
  · rintro ⟨k, j, hk, hj, rfl⟩
    refine ⟨_, ⟨(k, addr k), mem_lanesAt.mpr ⟨hk, rfl⟩, rfl⟩, ?_⟩
    rw [placeOf_inTeam (h k hk) (by decide)]
    exact List.mem_map.mpr ⟨j, List.mem_range.mpr hj, rfl⟩

theorem fillsWritten_stored : Stored c 4 addr (fun k => (readV (laneAt c.g k) d).toNat) s (fillsWritten i c s d addr) := by
  have hrest := (Elsewhere.issued i c s).rest
  refine stored_foldl (u := issued i c s) (by rw [hrest]) (by rw [hrest]) rfl (fun y hy => (List.mem_filter.mp hy).1) fun y hy ho => ?_
  refine List.mem_filter.mpr ⟨hy, ?_⟩
  rw [Bool.not_eq_true', ← Bool.not_eq_true, List.all_eq_true]
  intro hall
  obtain ⟨k, j, hk, hj, hq⟩ := (mem_fillKeys h).mp (List.contains_iff_mem.mp (hall 0 (List.mem_range.mpr (by decide))))
  have := ho k hk
  omega

omit h in
theorem fillsWritten_eq : fillsWritten i c s d addr = { issued i c s with
    mem := (fillsWritten i c s d addr).mem, poison := (fillsWritten i c s d addr).poison } := by
  have hrest := (foldl_writeN_frame (c := c) (n := 4) (bs := fun k => word32 (laneAt c.g k) d) (fun _ => toLeBytes_length _ _)
    (lanesAt c addr) (issued i c s)).1
  conv_lhs => rw [fillsWritten, hrest]
  rfl

theorem linesFilled_results (hg : s.groups[c.b.group]? = some c.g) (empties : Bool) (seq : BitVec 4) {f : LineMeta → LineMeta}
    (hf : ChangesLine f (markLine c.t empties c.g.rcount seq)) {t : State} (ht : t = linesFilled i empties seq c s d addr) :
    OnlyMoves i c { s with mem := t.mem, poison := t.poison, lines := t.lines } t ∧
      Stored c 4 addr (fun k => (readV (laneAt c.g k) d).toNat) s t ∧ LinesChange c addr f s t := by
  have hlines : (fillsWritten i c s d addr).lines = s.lines :=
    (congrArg State.lines fillsWritten_eq).trans (congrArg State.lines (Elsewhere.issued i c s).rest :)
  obtain ⟨hrest, hchange⟩ := linesChange_foldl h (by decide) hf hlines
  rw [← linesFilled, ← ht] at hrest hchange
  have hmem : t.mem = (fillsWritten i c s d addr).mem := (congrArg State.mem hrest :)
  have hpoison : t.poison = (fillsWritten i c s d addr).poison := (congrArg State.poison hrest :)
  have hwritten : OnlyMemory (issued i c s) (fillsWritten i c s d addr) := by
    have hsame : (fillsWritten i c s d addr).lines = (issued i c s).lines :=
      (congrArg State.lines (fillsWritten_eq (i := i) (c := c) (s := s) (addr := addr) (d := d)) :)
    rw [OnlyMemory, hsame]
    exact fillsWritten_eq
  have hmarked : OnlyMemory (fillsWritten i c s d addr) t := by
    rw [OnlyMemory, hmem, hpoison]
    exact hrest
  refine ⟨onlyMoves_of_onlyMemory hg (onlyMemory_trans hwritten hmarked), ?_, hchange⟩
  rw [Stored, hmem, hpoison]
  exact fillsWritten_stored h

end Fills

section FillingStores

variable {i : Instr} {c : Ctx} {s : State} {addr : Nat → DWord} {d : BitVec 6}

theorem lineIsLive_iff (s : State) (t : Team) (q : Nat) : lineIsLive s t (.scratch (q / 128)) = true ↔ liveAt s q := by
  rw [lineIsLive, lineLive]
  simp only [lineSeen_start, liveAt, Bool.and_eq_true, bne_iff_ne]

theorem linesFault_notLive (h : ∀ k, runs c k → InTeam c (addr k) 4) {bad : LineId → Bool}
    (hbad : ∀ q, bad (.scratch (q / 128)) = true ↔ liveAt s q) (hno : ∀ j, runs c j → ¬liveAt s (at_ c (addr j))) :
    linesFault s c.t bad (lanesAt c addr) = none :=
  linesFault_none fun p hp => by
    obtain ⟨hk, ha⟩ := mem_lanesAt.mp hp
    rw [line_of_mem_lanesAt h (by decide) hp, ha, ← Bool.not_eq_true, hbad]
    exact hno _ hk

/-- Stores that no copy of the team still has to read are not held back. -/
theorem copyHeld_lanesAt : copyHeld s c ((lanesAt c addr).map fun p => (p.2, 4)) = copyHeld s c ((active c).map fun k => (addr k, 4)) := by
  rw [lanesAt, List.map_map]
  rfl

/-- Over lines none of which is live, a filling store stores and fills; an emptying one stores and empties over any. -/
theorem fillStores_done (h : ∀ k, runs c k → InTeam c (addr k) 4) {empties : Bool} {seq : BitVec 4}
    (hlive : empties = false → ∀ j, runs c j → ¬liveAt s (at_ c (addr j)))
    (hheld : copyHeld s c ((active c).map fun k => (addr k, 4)) = false) :
    fillStores i empties d seq c s (lanesAt c addr) = linesFilled i empties seq c s d addr := by
  have hfault : (if empties then none else linesFault s c.t (lineIsLive s c.t) (lanesAt c addr)) = none := by
    cases empties with
    | true => rfl
    | false => exact linesFault_notLive h (lineIsLive_iff s c.t) (hlive rfl)
  have hqueue : queueFull s c (peerCount s c.t (lanesAt c addr)) = false := by
    rw [peerCount_lanesAt h (by decide)]
    rfl
  have hreqs : ∀ form, fillReqs s c form d (lanesAt c addr) = [] := fun form => memberReqs_lanesAt h (by decide) ..
  rw [fillStores, hfault, hqueue, copyHeld_lanesAt, hheld]
  simp only [Bool.false_eq_true, if_false, any_beyondTeam_lanesAt h, withdrawIdem, foldl_fillAt h, hreqs, List.foldl_nil]
  rfl

theorem fillStores_live {m : Mask} {a : DWord} (hm : linesFault s c.t (lineIsLive s c.t) (lanesAt c addr) = some (m, a)) (seq : BitVec 4) :
    fillStores i false d seq c s (lanesAt c addr) = fault s c cLiveLine m a := by
  rw [fillStores, if_neg Bool.false_ne_true, hm]

theorem lanesFault_store (h : ∀ k, runs c k → InTeam c (addr k) 4) (counted : Bool) :
    lanesFault s c.t { bytes := 4, write := true, counted := counted } (lanesAt c addr) = none :=
  lanesFault_none fun p hp => by
    obtain ⟨hk, ha⟩ := mem_lanesAt.mp hp
    rw [ha]
    exact addrCheck_inTeam (a := { bytes := 4, write := true, counted := counted }) (h _ hk) s

/-- `STF` and `STE` once their addresses have passed. -/
theorem fillStore_issue (hr : Ready i c s) {a b : BitVec 6} (h : ∀ k, runs c k → InTeam c (lanesOff c b a k) 4) (empties : Bool) :
    fillStore i empties a b d s = .next (fillStores i empties d 0 c s (lanesAt c (lanesOff c b a))) := by
  rw [fillStore, hr.issue]
  simp only [laneAddr_lanesOff]
  rw [lanesFault_store h false]

/-- `STQ` once its addresses have passed: its operands hold no poison and no error token, as for any instruction that executes. -/
theorem stq_issue {l : BitVec 4} {a b : BitVec 6} (hr : Ready (.stq l a b d) c s) (h : RingOk c b a) : exec (.stq l a b d) s = .next
    (fillStores (.stq l a b d) false d (BitVec.ofNat 4 (ringSeq (readS c.g b))) c s (lanesAt c (ringOff c b a))) := by
  have hblock : operandBlock (.stq l a b d) c = none := by
    rw [operandBlock, hr.clean rfl, hr.noErr rfl]
    rfl
  refine (hr.issue _).trans (congrArg _ ?_)
  simp only [ringAddr_ringOf, ringFault_none h, hblock]
  rw [lanesFault_store (fun k hk => inTeam_ringOff h hk) false]
  rfl

theorem foldl_id {α β : Type} {f : β → α → β} {ls : List α} (h : ∀ u, ∀ x ∈ ls, f u x = u) (u : β) : ls.foldl f u = u := by
  induction ls with
  | nil => rfl
  | cons x xs ih => rw [List.foldl_cons, h u x (List.mem_cons_self ..), ih fun u y hy => h u y (List.mem_cons_of_mem _ hy)]

theorem stcLive_iff (rc : BitVec 6) (s : State) (t : Team) (q : Nat) : stcLive rc s t (.scratch (q / 128)) = true ↔ liveAt s q :=
  lineIsLive_iff s t q

/-- In the team window `STC` fills as `STF` does: it counts lines of pages only. -/
theorem stc_done {l : BitVec 4} {a b : BitVec 6} (hr : Ready (.stc l a b d) c s) (h : ∀ k, runs c k → InTeam c (lanesOff c b a k) 4)
    (hlive : ∀ j, runs c j → ¬liveAt s (at_ c (lanesOff c b a j)))
    (hheld : copyHeld s c ((active c).map fun k => (lanesOff c b a k, 4)) = false) :
    exec (.stc l a b d) s = .next (linesFilled (.stc l a b d) false 0 c s d (lanesOff c b a)) := by
  have hqueue : queueFull s c (peerCount s c.t (lanesAt c (lanesOff c b a))) = false := by
    rw [peerCount_lanesAt h (by decide)]
    rfl
  have hreqs : fillReqs s c 3 d (lanesAt c (lanesOff c b a)) = [] := memberReqs_lanesAt h (by decide) ..
  have hready : ∀ u, (lanesAt c (lanesOff c b a)).foldl (fun t p => corePlace t c false (placeOf t c.t p.2)) u = u :=
    foldl_id fun u p hp => by
      rw [place_of_mem_lanesAt h (by decide) hp]
      rfl
  have hbegin : ∀ u, (linesOf s c.t (lanesAt c (lanesOff c b a))).foldl (beginCounted c.t.vc c.g.rcount) u = u :=
    foldl_id fun u x hx => by
      obtain ⟨k, -, rfl⟩ := (mem_linesOf_lanesAt h (by decide)).mp hx
      rfl
  have hstores : ∀ u, (lanesAt c (lanesOff c b a)).foldl (fun t p => stcAt c d c.g.rcount t p.1 p.2) u =
      (lanesAt c (lanesOff c b a)).foldl (fun u p => writeN u (at_ c p.2) (word32 (laneAt c.g p.1) d)) u :=
    fun u => List.foldl_ext _ _ _ fun u p hp => by
      rw [stcAt, place_of_mem_lanesAt h (by decide) hp]
      exact fillAt_inTeam h hp u
  have hkeys : ∀ u, unpoison (fillKeys s c (lineCounts c.g.rcount) (lanesAt c (lanesOff c b a))) u =
      unpoison (fillKeys s c (fun _ => false) (lanesAt c (lanesOff c b a))) u := by
    intro u
    have hsame : ∀ q, (fillKeys s c (lineCounts c.g.rcount) (lanesAt c (lanesOff c b a))).contains q =
        (fillKeys s c (fun _ => false) (lanesAt c (lanesOff c b a))).contains q := fun q => by
      rw [Bool.eq_iff_iff, List.contains_iff_mem, List.contains_iff_mem, mem_fillKeys h, mem_fillKeys h]
    simp only [unpoison, hsame]
  refine (hr.issue _).trans (congrArg _ ?_)
  simp only [laneAddr_lanesOff]
  rw [lanesFault_store h (c.g.rcount != 0)]
  simp only [linesFault_notLive h (stcLive_iff c.g.rcount s c.t) hlive, hqueue, copyHeld_lanesAt, hheld, Bool.false_eq_true, if_false,
    any_beyondTeam_lanesAt h, withdrawIdem, hready, hbegin, hstores, hkeys, hreqs, List.foldl_nil]
  rfl

theorem stc_live {l : BitVec 4} {a b : BitVec 6} (hr : Ready (.stc l a b d) c s) (h : ∀ k, runs c k → InTeam c (lanesOff c b a k) 4)
    {m : Mask} {x : DWord} (hm : linesFault s c.t (stcLive c.g.rcount s c.t) (lanesAt c (lanesOff c b a)) = some (m, x)) :
    exec (.stc l a b d) s = .next (fault s c cLiveLine m x) := by
  refine (hr.issue _).trans (congrArg _ ?_)
  simp only [laneAddr_lanesOff]
  rw [lanesFault_store h (c.g.rcount != 0)]
  simp only [hm]

/-- `STF` and `STC` in the team window, whose lines become full with a new count. -/
theorem filling_results (hr : Ready i c s) (h : ∀ k, runs c k → InTeam c (addr k) 4) {seq : BitVec 4} {bad : LineId → Bool}
    (hbad : ∀ q, bad (.scratch (q / 128)) = true ↔ liveAt s q)
    (hdone : (∀ j, runs c j → ¬liveAt s (at_ c (addr j))) → copyHeld s c ((active c).map fun k => (addr k, 4)) = false →
      exec i s = .next (linesFilled i false seq c s d addr))
    (hlive : ∀ m j, linesFault s c.t bad (lanesAt c addr) = some (m, addr j) → exec i s = .next (fault s c cLiveLine m (addr j))) :
    ((∀ j, runs c j → ¬liveAt s (at_ c (addr j))) → copyHeld s c ((active c).map fun k => (addr k, 4)) = false →
      ∃ t, exec i s = .next t ∧ OnlyMoves i c { s with mem := t.mem, poison := t.poison, lines := t.lines } t ∧
        Stored c 4 addr (fun k => (readV (laneAt c.g k) d).toNat) s t ∧
        LinesChange c addr (fun _ => { f := true, rc := c.g.rcount, seq := seq, err := false }) s t) ∧
    FaultsWhere i c 0x09 (fun k => liveAt s (at_ c (addr k))) addr s :=
  ⟨fun hno hheld => ⟨_, hdone hno hheld, linesFilled_results h hr.group false seq (changesLine_fill c.t c.g.rcount seq) rfl⟩,
    faultsWhere_of_linesFault hr h hbad hlive⟩

end FillingStores

theorem fillingStoreResults : FillingStoreResults := by
  refine ⟨?_, fun l a b d c s hr h => ?_⟩
  · intro n
    match n with
    | 0 =>
      intro l a b d c s i q hr h
      have hstf : Ready (.stf l a b d) c s := hr
      obtain ⟨hdone, hlive⟩ := filling_results (d := d) hstf h (lineIsLive_iff s c.t)
        (fun hno hheld => (fillStore_issue hstf h false).trans (congrArg _ (fillStores_done h (fun _ => hno) hheld)))
        fun m j hm => (fillStore_issue hstf h false).trans (congrArg _ (fillStores_live hm 0))
      exact ⟨fun hno => hdone (hno (by decide)), fun _ => hlive⟩
    | 1 =>
      intro l a b d c s i q hr h
      have hstc : Ready (.stc l a b d) c s := hr
      obtain ⟨hdone, hlive⟩ := filling_results hstc h (stcLive_iff c.g.rcount s c.t) (stc_done hstc h) fun m j hm => stc_live hstc h hm
      exact ⟨fun hno => hdone (hno (by decide)), fun _ => hlive⟩
    | 2 =>
      intro l a b d c s i q hr h
      have hste : Ready (.ste l a b d) c s := hr
      have hissue := fillStore_issue (d := d) hste h true
      refine ⟨fun _ hheld => ⟨_, hissue.trans (congrArg _ (fillStores_done h nofun hheld)), ?_⟩, fun hne => absurd rfl hne⟩
      exact linesFilled_results h hste.group true 0 (changesLine_empty c.t c.g.rcount 0) rfl
  · have hin : ∀ k, runs c k → InTeam c (ringOff c b a k) 4 := fun k hk => inTeam_ringOff h hk
    exact filling_results hr hin (lineIsLive_iff s c.t)
      (fun hno hheld => (stq_issue hr h).trans (congrArg _ (fillStores_done hin (fun _ => hno) hheld)))
      fun m j hm => (stq_issue hr h).trans (congrArg _ (fillStores_live hm _))

/-- Settles O36: accesses of the team window touch scratchpad lines alone, each word and each line once, and what keeps one of them back is
found before any has an effect. -/
theorem waitingLoadAndFillingStoreResults : Obligations.WaitingLoadAndFillingStoreResults := ⟨waitingLoadResults, fillingStoreResults⟩

end Sys2Proof.Laws
end

section
/-!
Invalidations, event streams and the host's accesses (R141, R161, R292 to R295).
-/

namespace Sys2Proof.Laws

open Sys2Proof.Machine Sys2Proof.Claims

/-! ## Invalidations -/

theorem tlbinv_starts {s : State} {v : Nat} {c : VChip} (hc : s.vchips[v]? = some c) (hu : c.used = true) (x : BitVec 64) :
    (c.tlbinv.isSome = true → exec (.tlbinv v x) s = .next s) ∧
    (c.tlbinv = none → ∃ t, exec (.tlbinv v x) s = .next t ∧
      OnlyChip v { c with tlbinv := some { page := x.toNat / 2 ^ 12 % 2 ^ 36, all := x.getLsbD 2, size := x.toNat % 4 } } s t) := by
  have hexec : exec (.tlbinv v x) s = if !(vchip s v).used || (vchip s v).tlbinv.isSome then .next s
      else .next (modVc s v fun c => { c with tlbinv := some { page := field x 47 12, all := x.getLsbD 2, size := field x 1 0 } }) := rfl
  rw [vchip_eq hc, hu, Bool.not_true, Bool.false_or] at hexec
  refine ⟨fun hb => by rw [hexec, if_pos hb], fun hb => ⟨_, hexec.trans (if_neg (by rw [hb]; exact Bool.false_ne_true)), ?_⟩⟩
  have hsize : field x 1 0 = x.toNat % 4 := by rw [field, pow_zero, Nat.div_one]; rfl
  have honly := onlyChip_modVc hc fun c => { c with tlbinv := some { page := field x 47 12, all := x.getLsbD 2, size := field x 1 0 } }
  rw [hsize] at honly ⊢
  exact honly

/-- What a core's L1 TLB holds once entries have been dropped. -/
theorem dropTlb_core {s : State} {bad : TlbEntry → Bool} {n : Nat} {k : Core} (hk : s.cores[n]? = some k) :
    ∃ ts, (dropTlb s bad).cores[n]? = some { k with tlb1 := ts } ∧ ∀ g, g ∈ ts ↔ g ∈ k.tlb1 ∧
      ∀ e, e ∈ s.tlb → e ∉ (dropTlb s bad).tlb → e.table = none →
        ¬(e.die = dieOf n ∧ e.vc = g.vc ∧ e.page = g.page ∧ e.log = g.log) := by
  have hcore : (dropTlb s bad).cores[n]? = some { k with tlb1 := k.tlb1.filter fun g => !(s.tlb.any fun t =>
      bad t && t.table.isNone && t.die == dieOf n && t.vc == g.vc && t.page == g.page && t.log == g.log) } := by
    show (mapFrom _ 0 s.cores)[n]? = _
    rw [mapFrom_getElem?, hk, Nat.zero_add]
    rfl
  refine ⟨_, hcore, fun g => ?_⟩
  rw [List.mem_filter, Bool.not_eq_true', ← Bool.not_eq_true, List.any_eq_true]
  refine and_congr_right fun _ => ?_
  simp only [Bool.and_eq_true, beq_iff_eq, Option.isNone_iff_eq_none, not_exists, not_and]
  have hgone : ∀ e, e ∈ s.tlb → (e ∉ (dropTlb s bad).tlb ↔ bad e = true) := fun e he => by
    show e ∉ s.tlb.filter (fun t => !bad t) ↔ _
    simp [he]
  constructor
  · exact fun h e he hout htab hdie hvc hpage hlog => h e he ⟨⟨⟨⟨(hgone e he).mp hout, htab⟩, hdie⟩, hvc⟩, hpage⟩ hlog
  · rintro h e he ⟨⟨⟨⟨hbad, htab⟩, hdie⟩, hvc⟩, hpage⟩ hlog
    exact h e he ((hgone e he).mpr hbad) htab hdie hvc hpage hlog

theorem invLog_eq {n : Nat} (h : n < 4) : invLog n = if n = 0 then 0 else if n = 1 then 4 else if n = 2 then 9 else 18 := by
  match n, h with
  | 0, _ => rfl
  | 1, _ => rfl
  | 2, _ => rfl
  | 3, _ => rfl

/-- Which entries stay. -/
theorem mem_dropTlb_invHits {s : State} {x : TlbInv} {v : Nat} {e : TlbEntry} (hx : x.size < 4) :
    e ∈ (dropTlb s (invHits x v)).tlb ↔ e ∈ s.tlb ∧ (e.vc = v →
      let k := max e.log (if x.size = 0 then 0 else if x.size = 1 then 4 else if x.size = 2 then 9 else 18)
      x.all = false ∧ e.page / 2 ^ k ≠ x.page / 2 ^ k) := by
  show e ∈ s.tlb.filter (fun t => !invHits x v t) ↔ _
  rw [List.mem_filter, Bool.not_eq_true', invHits, ← invLog_eq hx]
  refine and_congr_right fun _ => ?_
  simp only [Bool.and_eq_false_iff, beq_eq_false_iff_ne, Bool.or_eq_false_iff, ne_eq]
  exact (imp_iff_not_or).symm

theorem tlbInvalidate_completes {s : State} {v : Nat} {c : VChip} {x : TlbInv} (hc : s.vchips[v]? = some c) (hi : c.tlbinv = some x)
    (hx : x.size < 4) : ∃ t, exec (.tlbInvalidateComplete v) s = .next t ∧
    t = { s with tlb := t.tlb, cores := t.cores, vchips := s.vchips.set v { c with tlbinv := none }, teams := t.teams } ∧
    (∀ (n : Nat) k, s.cores[n]? = some k → ∃ ts, t.cores[n]? = some { k with tlb1 := ts } ∧ ∀ g, g ∈ ts ↔ g ∈ k.tlb1 ∧
      ∀ e, e ∈ s.tlb → e ∉ t.tlb → e.table = none → ¬(e.die = dieOf n ∧ e.vc = g.vc ∧ e.page = g.page ∧ e.log = g.log)) ∧
    (∀ e, e ∈ t.tlb ↔ e ∈ s.tlb ∧ (e.vc = v →
      let k := max e.log (if x.size = 0 then 0 else if x.size = 1 then 4 else if x.size = 2 then 9 else 18)
      x.all = false ∧ e.page / 2 ^ k ≠ x.page / 2 ^ k)) ∧
    t.teams = s.teams.map fun u => if u.vc = v then { u with recordHeld := false } else u := by
  have hexec : exec (.tlbInvalidateComplete v) s = .next (retryRecords (modVc (dropTlb s (invHits x v)) v fun c => { c with tlbinv := none }) v) := by
    show execTlbInvalidateComplete v s = _
    rw [execTlbInvalidateComplete, vchip_eq hc, hi]
  refine ⟨_, hexec, ?_, fun n k hk => dropTlb_core hk, fun e => mem_dropTlb_invHits hx, ?_⟩
  · show ({ dropTlb s (invHits x v) with vchips := listMod _ v s.vchips, teams := _ } : State) = _
    rw [listMod_eq_set hc]
    rfl
  · show List.map _ s.teams = _
    simp only [beq_iff_eq]

/-! ## Event streams -/

theorem eventStreamEnable_puts {s : State} {fn : Nat} (x : BitVec 64) (h : answers s fn = true) :
    exec (.eventStreamEnable fn x) s = .next (modStream s fn fun t =>
      if x.getLsbD 0 = true ∧ t.ctl.getLsbD 0 = false
      then { t with ctl := x &&& 0x0000FFFF00000003, head := 0, tail := 0, drop := 0, sinceSummary := 0 }
      else { t with ctl := x &&& 0x0000FFFF00000003 }) := by
  have hput : putEvctl x = fun t => if x.getLsbD 0 = true ∧ t.ctl.getLsbD 0 = false
      then { t with ctl := x &&& 0x0000FFFF00000003, head := 0, tail := 0, drop := 0, sinceSummary := 0 }
      else { t with ctl := x &&& 0x0000FFFF00000003 } := by
    funext t
    simp only [putEvctl, evctlMask, Bool.and_eq_true, Bool.not_eq_true']
  have hexec : exec (.eventStreamEnable fn x) s = .next (if answers s fn then modStream s fn (putEvctl x) else s) := rfl
  rw [hexec, if_pos h, hput]

section Records

variable {s : State} {t : Stream} {w : State → Nat → List Byte → Option State} {r : List Byte}

theorem streamFull_iff (t : Stream) : streamFull t = true ↔ (t.tail - t.head).toNat = 2 ^ t.size.toNat := by
  rw [streamFull, streamCount, beq_iff_eq]

/-- With nothing dropped since the last summary a record goes to the tail. -/
theorem streamWrite_writes (h0 : t.sinceSummary = 0) (hfull : streamFull t = false) {s1 : State} (hw : w s (streamSlot t) r = some s1)
    (time : DWord) : streamWrite s time t w r = (s1, { t with tail := t.tail + 1 }, true) := by
  simp only [streamWrite, h0, beq_self_eq_true, Bool.true_or, if_true, streamPut, hfull, Bool.false_eq_true, if_false, hw, Option.map_some]

/-- And is dropped where the stream is full or cannot be written. -/
theorem streamWrite_drops (h0 : t.sinceSummary = 0) (h : streamFull t = true ∨ w s (streamSlot t) r = none) (time : DWord) :
    streamWrite s time t w r = (s, { t with drop := t.drop + 1, sinceSummary := 1 }, false) := by
  have hput : streamPut t (w s) r = none := by
    rw [streamPut]
    split_ifs with hf
    · rfl
    · rw [h.resolve_left hf, Option.map_none]
  rw [streamWrite, h0]
  simp only [beq_self_eq_true, Bool.true_or, if_true, hput, streamDrop, h0]

theorem halfFull_iff (t u : Stream) : halfFull t u = true ↔ t.ctl.getLsbD 1 = true ∧ (t.tail - t.head).toNat < 2 ^ t.size.toNat / 2 ∧
    2 ^ t.size.toNat / 2 ≤ (u.tail - u.head).toNat := by
  rw [halfFull, streamCount, Bool.and_eq_true, Bool.and_eq_true, decide_eq_true_eq, decide_eq_true_eq, and_assoc]

/-- A stream whose tail has not moved has not become half full. -/
theorem halfFull_dropped (t : Stream) (n : BitVec 64) (k : Nat) : halfFull t { t with drop := n, sinceSummary := k } = false := by
  rw [← Bool.not_eq_true, halfFull_iff]
  rintro ⟨-, hlt, hle⟩
  exact Nat.not_le_of_lt hlt hle

end Records

section Events

variable {s : State} {v type : Nat} {fs : List (Nat × Nat)}

theorem event_enabled (hon : typeOn (vchip s v).stream type = true) (hen : (vchip s v).stream.ctl.getLsbD 0 = true) :
    event s v type fs =
      (let q := streamWrite s s.time (vchip s v).stream (fun s a bs => deviceWrite s v a bs) (recordBytes s.time type fs)
       let s1 := modVc q.1 v fun c => { c with stream := q.2.1 }
       let s2 := if q.2.2 then s1 else countVc s1 v 3 1
       if halfFull (vchip s v).stream q.2.1 then raise s2 v 18 else s2) := by
  rw [event, eventAt, hon, hen]
  rfl

theorem event_writes (hon : typeOn (vchip s v).stream type = true) (hen : (vchip s v).stream.ctl.getLsbD 0 = true)
    (h0 : (vchip s v).stream.sinceSummary = 0) (hfull : streamFull (vchip s v).stream = false) {s1 : State}
    (hw : deviceWrite s v (streamSlot (vchip s v).stream) (recordBytes s.time type fs) = some s1) :
    event s v type fs = modVc s1 v fun c => { c with
      stream := { (vchip s v).stream with tail := (vchip s v).stream.tail + 1 }
      raised := if halfFull (vchip s v).stream { (vchip s v).stream with tail := (vchip s v).stream.tail + 1 } then c.raised ++ [18]
        else c.raised } := by
  rw [event_enabled hon hen, streamWrite_writes h0 hfull hw]
  dsimp only
  rw [if_pos rfl]
  split_ifs
  · rw [raise, modVc_comp]
  · rfl

theorem event_drops (hon : typeOn (vchip s v).stream type = true) (hen : (vchip s v).stream.ctl.getLsbD 0 = true)
    (h0 : (vchip s v).stream.sinceSummary = 0) (h : streamFull (vchip s v).stream = true ∨
      deviceWrite s v (streamSlot (vchip s v).stream) (recordBytes s.time type fs) = none) :
    event s v type fs = modVc s v fun c => { c with
      stream := { (vchip s v).stream with drop := (vchip s v).stream.drop + 1, sinceSummary := 1 }
      counters := listMod (fun x => x + 1) 3 c.counters } := by
  rw [event_enabled hon hen, streamWrite_drops h0 h]
  dsimp only
  rw [if_neg Bool.false_ne_true, halfFull_dropped, if_neg Bool.false_ne_true, countVc, modVc_comp]
  rfl

theorem pkgEvent_masked (h : s.pkgStream.ctl.getLsbD 0 = false ∨ typeOn s.pkgStream type = false) : pkgEvent s type fs = s := by
  rw [pkgEvent, pkgRecord]
  refine if_pos ?_
  rw [Bool.or_eq_true, Bool.not_eq_true', Bool.not_eq_true']
  exact h

theorem pkgEvent_enabled (hen : s.pkgStream.ctl.getLsbD 0 = true) (hon : typeOn s.pkgStream type = true) : pkgEvent s type fs =
    (let q := streamWrite s s.time s.pkgStream (fun s a bs => some (writeN s (hbmAt a) bs)) (recordBytes s.time type fs)
     { q.1 with
       pkgStream := q.2.1
       raised0 := if halfFull s.pkgStream q.2.1 then q.1.raised0 ++ [1] else q.1.raised0 }) := by
  rw [pkgEvent, pkgRecord, hen, hon]
  rfl

end Events

/-! ## Host accesses of a line that no way holds -/

section Host

variable {s : State} {v n : Nat} {a : BitVec 64} {l : Leaf}

/-- Holding an entry changes TLBs only. -/
theorem holdEntry_eq (s : State) (e : TlbEntry) : holdEntry s e = { s with tlb := (holdEntry s e).tlb, cores := (holdEntry s e).cores } := by
  unfold holdEntry
  split_ifs
  · rfl
  · rfl
  · cases oldestOf e.die s.tlb <;> rfl

theorem foldl_holdEntry_eq (es : List TlbEntry) (s : State) :
    es.foldl holdEntry s = { s with tlb := (es.foldl holdEntry s).tlb, cores := (es.foldl holdEntry s).cores } := by
  induction es generalizing s with
  | nil => rfl
  | cons e es ih =>
    rw [List.foldl_cons]
    exact (ih _).trans (by rw [holdEntry_eq s e])

theorem holdLeaf_eq (s : State) (v : Nat) (va : DWord) (l : Leaf) (die : Nat) :
    holdLeaf s v va l die = { s with tlb := (holdLeaf s v va l die).tlb, cores := (holdLeaf s v va l die).cores } := by
  unfold holdLeaf
  dsimp only
  split_ifs
  · rfl
  · exact (holdEntry_eq _ _).trans (by rw [foldl_holdEntry_eq])

/-- A leaf of bank memory, or of a host page whose line at an address has no protected copy. -/
def Loose (s : State) (l : Leaf) (a : BitVec 64) : Prop :=
  leafBk l.entry = true ∨ (leafH l.entry = true ∧ leafPr l.entry = false ∧ (l2At s (2 ^ 52 + leafAddr l a)).prot = none)

theorem looseLeaf_of_loose (h : Loose s l a) : looseLeaf l.entry = true := by
  rcases h with hb | ⟨hh, hp, -⟩
  · rw [looseLeaf, hb, Bool.true_or]
  · rw [looseLeaf, hh, hp, Bool.not_false, Bool.and_true, Bool.or_true]

/-- Such a page's bytes have one place whatever the lines hold. -/
theorem pagedKey_loose (h : Loose s l a) (u : State) (pa : Nat) : pagedKey u v l.entry pa = pagedKey s v l.entry pa := by
  rcases h with hb | ⟨hh, hp, -⟩
  · rw [pagedKey, pagedKey, if_pos hb, if_pos hb]
  · have hc : (leafH l.entry && !leafPr l.entry) = true := by rw [hh, hp]; rfl
    rw [pagedKey, pagedKey, if_pos hc, if_pos hc]

/-- Such a line is ready once its leaf is held. -/
theorem readyLine_loose (h : Loose s l a) (v die : Nat) : readyLine s v a l die = holdLeaf s v a l die := by
  rw [readyLine]
  rcases h with hb | ⟨hh, hp, hprot⟩
  · exact if_pos hb
  · have hprot' : (l2At (holdLeaf s v a l die) (lineAddr l.entry (leafAddr l a))).prot = none := by
      rw [lineAddr, if_pos hh, holdLeaf_eq]
      exact hprot
    have hleave : leaveProt (holdLeaf s v a l die) (lineAddr l.entry (leafAddr l a)) = holdLeaf s v a l die := by rw [leaveProt, hprot']
    simp only [hh, hp, Bool.not_false, Bool.and_true, if_true, hleave, ite_self]

theorem linePieces_one (hn : 0 < n) (hline : a.toNat % 128 + n ≤ 128) : linePieces (n + 1) a.toNat n = [(a.toNat, n)] := by
  have hmin : min n (128 - a.toNat % 128) = n := Nat.min_eq_left (by omega)
  rw [linePieces, if_neg (Nat.ne_of_gt hn)]
  simp only [hmin, Nat.sub_self]
  cases n with
  | zero => rfl
  | succ k => rfl

theorem ofNat_toNat_64 (a : BitVec 64) : BitVec.ofNat 64 a.toNat = a := by rw [BitVec.ofNat_toNat, BitVec.setWidth_eq]

/-- An access within one line passes when its one page does. -/
theorem pagedCause_line (hn : 0 < n) (hline : a.toNat % 128 + n ≤ 128) (hlow : a.toNat + n ≤ 2 ^ 48) (ht : translate s v a = some l)
    {acc : Acc} (hp : protectionFails s v l.entry acc = false) : pagedCause s v a.toNat n acc = 0 := by
  rw [pagedCause, linePieces_one hn hline]
  simp only [List.foldl_cons, List.foldl_nil, ofNat_toNat_64, ht, hp, show ¬a.toNat ≥ 2 ^ 48 by omega, if_false, bne_self_eq_false,
    Bool.false_eq_true]

theorem deviceWrite_line (hn : 0 < n) (hline : a.toNat % 128 + n ≤ 128) (hlow : a.toNat + n ≤ 2 ^ 48) (ht : translate s v a = some l)
    (h : Loose s l a) {bs : List Byte} (hlen : bs.length = n)
    (hp : protectionFails s v l.entry { bytes := n, write := true } = false) :
    deviceWrite s v a.toNat bs = some (writeN (holdLeaf s v a l) (pagedKey s v l.entry (leafAddr l a)) bs) := by
  have hmin : min n (128 - a.toNat % 128) = n := Nat.min_eq_left (by omega)
  have hne : bs.isEmpty = false := List.isEmpty_eq_false_iff.mpr fun he => by rw [he] at hlen; exact Nat.ne_of_lt hn hlen
  have hrest : ∀ u, pagedWrite n u v (a.toNat + n) [] = u := fun u => by
    cases n with
    | zero => rfl
    | succ k => rfl
  have hstore : pagedStore (readyLine s v a l) v l (leafAddr l a) bs =
      writeN (holdLeaf s v a l) (pagedKey s v l.entry (leafAddr l a)) bs := by
    rw [pagedStore, if_pos (looseLeaf_of_loose h), readyLine_loose h, pagedKey_loose h]
  rw [deviceWrite, hlen, pagedCause_line hn hline hlow ht hp, if_neg (by decide), pagedWrite, hne, if_neg Bool.false_ne_true]
  simp only [hlen, hmin, ofNat_toNat_64, ht, List.take_of_length_le hlen.le, List.drop_of_length_le hlen.le, hrest, hstore]

theorem deviceRead_line (hn : 0 < n) (hline : a.toNat % 128 + n ≤ 128) (hlow : a.toNat + n ≤ 2 ^ 48) (ht : translate s v a = some l)
    (h : Loose s l a) (hp : protectionFails s v l.entry { bytes := n } = false)
    (hclean : poisonedAt s (pagedKey s v l.entry (leafAddr l a)) n = false) :
    deviceRead s v a.toNat n = some (holdLeaf s v a l, readN s (pagedKey s v l.entry (leafAddr l a)) n) := by
  have hheld := holdLeaf_eq s v a l (homeDie s v)
  have hread : readN (holdLeaf s v a l) (pagedKey s v l.entry (leafAddr l a)) n = readN s (pagedKey s v l.entry (leafAddr l a)) n := by
    rw [hheld]
    rfl
  have hpois : poisonedAt (holdLeaf s v a l) (pagedKey s v l.entry (leafAddr l a)) n = false := by
    rw [hheld]
    exact hclean
  have hpiece : readPiece s v a.toNat n = (holdLeaf s v a l, readN s (pagedKey s v l.entry (leafAddr l a)) n, false) := by
    rw [readPiece, ofNat_toNat_64, ht]
    simp only [readyLine_loose h, pagedKey_loose h, hread, hpois]
  rw [deviceRead, deviceLoad, pagedCause_line hn hline hlow ht hp, if_neg (by decide), pagedRead, linePieces_one hn hline]
  simp only [List.foldl_cons, List.foldl_nil, hpiece, List.nil_append, Bool.or_false, Bool.false_eq_true, if_false]

end Host

/-- Settles O56: an invalidation drops what lies on its path, a stream's record goes to its tail or is dropped, and an access of one line of
a bank or host page reaches its bytes through its leaf alone. -/
theorem hostLinkResults : Obligations.HostLinkResults := by
  refine ⟨fun s v x c hc hu => tlbinv_starts hc hu x, fun s v c x hc hi hx => tlbInvalidate_completes hc hi hx,
    fun s fn x h => eventStreamEnable_puts x h, ?_, ?_, ?_⟩
  · intro s v type fs t r
    refine ⟨fun h => event_masked h fs, fun hon hen h0 => ⟨fun s1 hroom hw => ?_, fun h => ?_⟩⟩
    · have hfull : streamFull t = false := by rwa [← Bool.not_eq_true, streamFull_iff]
      rw [event_writes hon hen h0 hfull hw]
      simp only [halfFull_iff]
      rfl
    · exact event_drops hon hen h0 (h.imp_left (streamFull_iff t).mpr)
  · intro s type fs t r
    refine ⟨pkgEvent_masked, fun hen hon h0 => ⟨fun hroom => ?_, fun hfull => ?_⟩⟩
    · have hfull : streamFull t = false := by rwa [← Bool.not_eq_true, streamFull_iff]
      rw [pkgEvent_enabled hen hon, streamWrite_writes h0 hfull rfl]
      simp only [halfFull_iff]
      rfl
    · rw [pkgEvent_enabled hen hon, streamWrite_drops h0 (.inl ((streamFull_iff t).mpr hfull))]
      dsimp only
      rw [halfFull_dropped, if_neg Bool.false_ne_true]
  · intro s v a n l hu hline hn hlow ht hloose q
    have hexec : ∀ x, exec (.hostAccess v a x) s = execHostAccess v a x s := fun _ => rfl
    refine ⟨fun bs hlen hp => ?_, fun hp hclean => ?_⟩
    · rw [hexec, execHostAccess, hu, Bool.not_true, if_neg Bool.false_ne_true]
      simp only [deviceWrite_line hn hline hlow ht hloose hlen hp]
      rfl
    · rw [hexec, execHostAccess, hu, Bool.not_true, if_neg Bool.false_ne_true]
      simp only [deviceRead_line hn hline hlow ht hloose hp hclean]
      rfl

end Sys2Proof.Laws
end

section
/-!
The hypervisor's commands that check, make and change what they name (R144, R253, R254, R265, R266).
-/

namespace Sys2Proof.Laws

open Sys2Proof.Machine Sys2Proof.Claims

/-! ## Commands that run and commands that fail -/

section Commands

variable {s : State}

theorem hvCommand_runs (h : Commandable s) (k : State → State) : hvCommand s k = k s := by
  obtain ⟨hstat, hbusy⟩ := h
  rw [hvCommand, hstat, hbusy]
  rfl

theorem hvCommand_busy (h0 : s.pkgStat ≠ 0) (h : s.hvbusy = true) (k : State → State) : hvCommand s k = { s with hverr := 1 } := by
  rw [hvCommand, if_neg (by simpa using h0), if_pos h]

theorem hvCommand_refused (h0 : s.pkgStat ≠ 0) (h : s.hvbusy = false) (h3 : s.pkgStat ≠ 3) (k : State → State) :
    hvCommand s k = commandFails 4 s := by
  rw [hvCommand, if_neg (by simpa using h0), h, if_neg Bool.false_ne_true, if_pos (by simpa using h3)]
  rfl

/-- Every command goes through `hvCommand`. -/
theorem exec_command {i : Instr} (h : IsCommand i) (s : State) : ∃ k, exec i s = .next (hvCommand s k) := by
  unfold IsCommand at h
  simp only [List.mem_cons, List.not_mem_nil, or_false] at h
  rcases h with rfl | rfl | rfl | rfl | rfl | rfl | rfl | rfl | rfl | rfl | rfl | rfl <;> exact ⟨_, rfl⟩

/-! ## Ways beside those of the other virtual chips -/

theorem foldl_add_eq_sum (l : List Nat) : l.foldl (fun a b => a + b) 0 = l.sum := List.sum_eq_foldl.symm

/-- The ways that the other virtual chips hold, in a table of the model's and in the claim's. -/
theorem others_eq_otherWays (s : State) (v : Nat) :
    (mapFrom (fun n x => if n == v || !x.used then 0 else x.cacheWays + x.bankWays + x.protWays) 0 s.vchips).foldl (fun a b => a + b) 0 =
      otherWays s v := by
  rw [foldl_add_eq_sum, otherWays]
  congr 1
  refine List.ext_getElem? fun n => ?_
  rw [mapFrom_getElem?, List.getElem?_map]
  by_cases hn : n < s.vchips.length
  · have hv : vchip s n = s.vchips[n] := vchip_eq (List.getElem?_eq_getElem hn)
    rw [List.getElem?_range hn, List.getElem?_eq_getElem hn, Option.map_some, Option.map_some, Nat.zero_add, hv]
    by_cases hnv : n = v <;> cases hu : s.vchips[n].used <;> simp [hnv]
  · rw [List.getElem?_eq_none (by omega), List.getElem?_eq_none (by simpa using hn)]
    rfl

section WayError

variable {v c b p : Nat}

theorem wayError_noCache (h : c = 0) : wayError s v c b p = 2 := if_pos (by omega)

theorem wayError_tooMany (h : 1 ≤ c) (hmany : 16 < otherWays s v + c + b + p) : wayError s v c b p = 3 := by
  rw [← others_eq_otherWays] at hmany
  exact (if_neg (Nat.not_lt_of_le h)).trans (if_pos hmany)

theorem wayError_fits (h : 1 ≤ c) (hfew : otherWays s v + c + b + p ≤ 16) : wayError s v c b p = 0 := by
  rw [← others_eq_otherWays] at hfew
  exact (if_neg (Nat.not_lt_of_le h)).trans (if_neg (Nat.not_lt_of_le hfew))

end WayError

/-! ## Virtual chips made -/

section Create

variable (h : Commandable s)
include h

theorem create_used (hu : (vchip s (namedChip s)).used = true) : exec .create s = .next (commandFails 4 s) := by
  show Host.Outcome.next (hvCommand s hvCreate) = _
  rw [hvCommand_runs h]
  exact congrArg _ (if_pos hu)

variable (hu : (vchip s (namedChip s)).used = false)
include hu

theorem create_fewPiers (hp : piersBelow (hvArg s 2 ++ hvArg s 1 : BitVec 128) 128 < 2) : exec .create s = .next (commandFails 2 s) := by
  show Host.Outcome.next (hvCommand s hvCreate) = _
  rw [hvCommand_runs h]
  refine congrArg _ ((if_neg (by rw [← namedChip, hu]; exact Bool.false_ne_true)).trans (if_pos hp))

variable (hp : 2 ≤ piersBelow (hvArg s 2 ++ hvArg s 1 : BitVec 128) 128)
include hp

theorem create_takenPiers (ht : ∃ x, x ∈ s.vchips ∧ x.used = true ∧ x.piers &&& (hvArg s 2 ++ hvArg s 1 : BitVec 128) ≠ 0) :
    exec .create s = .next (commandFails 3 s) := by
  obtain ⟨x, hx, hxu, hxp⟩ := ht
  have hany : (s.vchips.any fun c => c.used && c.piers &&& (hvArg s 2 ++ hvArg s 1 : BitVec 128) != 0) = true :=
    List.any_eq_true.mpr ⟨x, hx, by rw [hxu, Bool.true_and, bne_iff_ne]; exact hxp⟩
  show Host.Outcome.next (hvCommand s hvCreate) = _
  rw [hvCommand_runs h]
  exact congrArg _ ((if_neg (by rw [← namedChip, hu]; exact Bool.false_ne_true)).trans
    ((if_neg (Nat.not_lt_of_le hp)).trans (if_pos hany)))

variable (hfree : ∀ x, x ∈ s.vchips → x.used = true → x.piers &&& (hvArg s 2 ++ hvArg s 1 : BitVec 128) = 0)
include hfree

/-- A slot and piers that are free leave the ways to be checked. -/
theorem create_free : exec .create s = .next (match wayError s 16 (argWays s).1 (argWays s).2.1 (argWays s).2.2 with
    | 0 => hvDone (makeVc s (namedChip s) (field (hvArg s 0) 11 8) (hvArg s 2 ++ hvArg s 1 : BitVec 128) (argWays s) (argFeatures s))
    | e => hvFail s e) := by
  have hany : ¬(s.vchips.any fun c => c.used && c.piers &&& (hvArg s 2 ++ hvArg s 1 : BitVec 128) != 0) = true := by
    rw [List.any_eq_true]
    rintro ⟨x, hx, hb⟩
    obtain ⟨hxu, hxp⟩ := (Bool.and_eq_true _ _).mp hb
    exact (bne_iff_ne.mp hxp) (hfree x hx hxu)
  show Host.Outcome.next (hvCommand s hvCreate) = _
  rw [hvCommand_runs h]
  exact congrArg _ ((if_neg (by rw [← namedChip, hu]; exact Bool.false_ne_true)).trans
    ((if_neg (Nat.not_lt_of_le hp)).trans (if_neg hany)))

theorem create_ways : let c := field (hvArg s 3) 4 0
    let b := field (hvArg s 3) 12 8
    let p := field (hvArg s 3) 20 16
    (c = 0 → exec .create s = .next (commandFails 2 s)) ∧
    (1 ≤ c → 16 < otherWays s 16 + c + b + p → exec .create s = .next (commandFails 3 s)) ∧
    (1 ≤ c → otherWays s 16 + c + b + p ≤ 16 → namedChip s < s.vchips.length → exec .create s = .next (commandDone
      { clearN s (bankKey (namedChip s) 0) (2 ^ 40) with vchips := s.vchips.set (namedChip s) { VChip.init with
          used := true, guest := field (hvArg s 0) 11 8, piers := (hvArg s 2 ++ hvArg s 1 : BitVec 128), cacheWays := c, bankWays := b
          protWays := p, features := BitVec.ofNat 4 (field (hvArg s 3) 51 48) } })) := by
  intro c b p
  refine ⟨fun hc => ?_, fun hc hmany => ?_, fun hc hfew hlen => ?_⟩
  · rw [create_free h hu hp hfree, show wayError s 16 (argWays s).1 (argWays s).2.1 (argWays s).2.2 = 2 from wayError_noCache hc]
    rfl
  · rw [create_free h hu hp hfree, show wayError s 16 (argWays s).1 (argWays s).2.1 (argWays s).2.2 = 3 from wayError_tooMany hc hmany]
    rfl
  · rw [create_free h hu hp hfree, show wayError s 16 (argWays s).1 (argWays s).2.1 (argWays s).2.2 = 0 from wayError_fits hc hfew]
    have hset : (makeVc s (namedChip s) (field (hvArg s 0) 11 8) (hvArg s 2 ++ hvArg s 1 : BitVec 128) (argWays s) (argFeatures s)).vchips =
        s.vchips.set (namedChip s) { VChip.init with
          used := true, guest := field (hvArg s 0) 11 8, piers := (hvArg s 2 ++ hvArg s 1 : BitVec 128), cacheWays := c, bankWays := b
          protWays := p, features := BitVec.ofNat 4 (field (hvArg s 3) 51 48) } :=
      listMod_eq_set (List.getElem?_eq_getElem hlen) _
    rw [← hset]
    rfl

end Create

end Commands

section Commands

variable {s : State}

/-! ## Guests -/

theorem guest_commands (h : Commandable s) : let g := field (hvArg s 0) 3 0
    let n := field (hvArg s 1) 10 0
    (1 ≤ n → n ≤ 1024 → exec .guest s = .next (commandDone (modGuest s g fun x => { x with vlim := n }))) ∧
    (n = 0 ∨ 1024 < n → exec .guest s = .next (commandFails 2 s)) := by
  intro g n
  have hexec : exec .guest s = .next (hvGuest s) := congrArg _ (hvCommand_runs h hvGuest)
  have hbad : (n == 0 || decide (1024 < n)) = true ↔ n = 0 ∨ 1024 < n := by rw [Bool.or_eq_true, beq_iff_eq, decide_eq_true_eq]
  refine ⟨fun h1 h2 => hexec.trans (congrArg _ (if_neg fun hb => ?_)), fun hb => hexec.trans (congrArg _ (if_pos (hbad.mpr hb)))⟩
  have := hbad.mp hb
  omega

theorem allowList_commands (h : Commandable s) : let g := field (hvArg s 0) 3 0
    let w := field (hvArg s 0) 11 4
    (w < 64 → exec .allowList s = .next (commandDone (modGuest s g fun x => { x with allow := tput x.allow w (hvArg s 1) }))) ∧
    (64 ≤ w → exec .allowList s = .next (commandFails 2 s)) := by
  intro g w
  have hexec : exec .allowList s = .next (hvAllow s) := congrArg _ (hvCommand_runs h hvAllow)
  exact ⟨fun hw => hexec.trans (congrArg _ (if_neg (Nat.not_le_of_lt hw))), fun hw => hexec.trans (congrArg _ (if_pos hw))⟩

theorem linkGranted_none {g : Guest} (h : g.linkCount = 0) (slot : Nat) : linkGranted g slot = false := by
  rw [linkGranted, h, Nat.add_zero, Bool.and_eq_false_iff, decide_eq_false_iff_not, decide_eq_false_iff_not]
  omega

theorem linkKeySlots_command (h : Commandable s) : let g := field (hvArg s 0) 3 0
    let first := field (hvArg s 0) 15 8
    let count := field (hvArg s 0) 24 16
    count ≤ 256 → first + count ≤ 256 → (∀ m x, m ≠ g → s.guests[m]? = some x → x.linkCount = 0) →
      ∀ x, s.guests[g]? = some x → x.linkCount = 0 →
      exec .linkKeySlots s = .next (commandDone (modGuest s g fun y => { y with linkFirst := first, linkCount := count })) := by
  intro g first count hcount hfit hothers x hx hown
  have hexec : exec .linkKeySlots s = .next (hvLinks s) := congrArg _ (hvCommand_runs h hvLinks)
  have hheld : ((mapFrom (fun i g => (i, g)) 0 s.guests).any fun p => p.1 != g &&
      ((List.range count).map fun i => first + i).any (linkGranted p.2)) = false := by
    refine List.any_eq_false.mpr fun p hp => ?_
    obtain ⟨m, y⟩ := p
    rw [Bool.and_eq_true, bne_iff_ne]
    rintro ⟨hne, hany⟩
    obtain ⟨slot, -, hslot⟩ := List.any_eq_true.mp hany
    rw [linkGranted_none (hothers m y hne (mem_numbered.mp hp))] at hslot
    cases hslot
  have hchecks : ¬(decide (256 < count) || (count != 0 && decide (256 < first + count)) ||
      (mapFrom (fun i g => (i, g)) 0 s.guests).any fun p => p.1 != g &&
        ((List.range count).map fun i => first + i).any (linkGranted p.2)) = true := by
    rw [hheld, Bool.or_false, Bool.or_eq_true, Bool.and_eq_true, decide_eq_true_eq, decide_eq_true_eq]
    omega
  refine hexec.trans (congrArg _ ?_)
  rw [hvLinks]
  refine (if_neg hchecks).trans ?_
  have hold : (s.guests[field (hvArg s 0) 3 0]?).getD Guest.init = x := by
    rw [show s.guests[field (hvArg s 0) 3 0]? = some x from hx, Option.getD_some]
  dsimp only
  rw [hold, hown]
  rfl

/-! ## Interfaces whose configuration may change -/

theorem breakLock_unlocked {v : Nat} (h : Unlocked s v) : breakLock s v = s := by
  rw [breakLock]
  rcases h with h | h <;> rw [h] <;> rfl

/-! ## Key slots -/

section KeySlots

variable (h : Commandable s)
include h

theorem keySlotGrant_exec : exec .keySlotGrant s = .next (hvGrant s) := congrArg _ (hvCommand_runs h hvGrant)

theorem keySlotRevoke_exec {i : Instr} (hi : i ∈ [Instr.keySlotRevokeSeal, Instr.keySlotRevokeDiscard]) :
    ∃ f, (f = revokeSeal ∨ f = revokeDiscard) ∧ exec i s = .next (hvRevoke f s) := by
  simp only [List.mem_cons, List.not_mem_nil, or_false] at hi
  rcases hi with rfl | rfl
  · exact ⟨_, .inl rfl, congrArg _ (hvCommand_runs h (hvRevoke revokeSeal))⟩
  · exact ⟨_, .inr rfl, congrArg _ (hvCommand_runs h (hvRevoke revokeDiscard))⟩

theorem keySlot_unused (hu : (vchip s (field (hvArg s 0) 11 8)).used = false) :
    ∀ i, i ∈ [Instr.keySlotGrant, .keySlotRevokeSeal, .keySlotRevokeDiscard] → exec i s = .next (commandFails 4 s) := by
  have hnot : (!(vchip s (argKey s).2).used) = true := by rw [Bool.not_eq_true']; exact hu
  intro i hi
  rcases List.mem_cons.mp hi with rfl | hi
  · rw [keySlotGrant_exec h]
    exact congrArg _ (if_pos hnot)
  · obtain ⟨f, -, hf⟩ := keySlotRevoke_exec h hi
    rw [hf]
    exact congrArg _ (if_pos hnot)

variable {k v : Nat} (hk : field (hvArg s 0) 5 0 = k) (hv : field (hvArg s 0) 11 8 = v) (hu : (vchip s v).used = true) {x : KeySlot}
  (hx : s.keys[k]? = some x)
include hk hv hu hx

omit h hv hu in
theorem slotOwner_named : slotOwner s (argKey s).1 = x.granted := by
  rw [slotOwner, show (argKey s).1 = k from hk, hx]
  rfl

omit h hk hx in
theorem namedKeyChip_used : (!(vchip s (argKey s).2).used) = false := by
  rw [show (argKey s).2 = v from hv, hu]
  rfl

theorem keySlotGrant_grants (hg : x.granted = none) (hun : Unlocked s v) :
    exec .keySlotGrant s = .next (commandDone { s with keys := s.keys.set k { x with granted := some v } }) := by
  rw [keySlotGrant_exec h, hvGrant]
  simp only [namedKeyChip_used hv hu, slotOwner_named hk hx, hg, Bool.false_eq_true, if_false]
  rw [show (argKey s).1 = k from hk, show (argKey s).2 = v from hv, listMod_eq_set hx, breakLock_unlocked (by exact hun)]
  rfl

theorem keySlotGrant_again (hg : x.granted = some v) : exec .keySlotGrant s = .next (commandDone s) := by
  rw [keySlotGrant_exec h, hvGrant]
  simp only [namedKeyChip_used hv hu, slotOwner_named hk hx, hg, Bool.false_eq_true, if_false]
  rw [show (argKey s).2 = v from hv, beq_self_eq_true, if_pos rfl]
  rfl

theorem keySlotRevoke_notHeld (hg : x.granted ≠ some v) :
    ∀ i, i ∈ [Instr.keySlotRevokeSeal, Instr.keySlotRevokeDiscard] → exec i s = .next (commandFails 2 s) := by
  intro i hi
  obtain ⟨f, -, hf⟩ := keySlotRevoke_exec h hi
  have hnot : (slotOwner s (argKey s).1 != some (argKey s).2) = true := by
    rw [slotOwner_named hk hx, show (argKey s).2 = v from hv, bne_iff_ne]
    exact hg
  rw [hf, hvRevoke]
  simp only [namedKeyChip_used hv hu, hnot, Bool.false_eq_true, if_false, if_true]
  rfl

omit h hk hv hu hx in
/-- Lines that leave their protected ways take no key with them. -/
theorem foldl_leaveProt_keys (ls : List Nat) (s : State) : (ls.foldl leaveProt s).keys = s.keys := by
  have h := (Served.foldl (e := withoutErrors) (fun u x => served_leaveProt u x) ls s).rest
  rw [h]

omit h hk hv hu hx in
theorem served_discardLine {e : VChip → VChip} (s : State) (pa : Nat) : Served e s (discardLine s pa) :=
  ((served_writeN s _ _).trans (served_setL2 _ _ _)).trans (served_dropProt _ _)

omit h hk hv hu hx in
theorem foldl_discardLine_keys (ls : List Nat) (s : State) : (ls.foldl discardLine s).keys = s.keys := by
  have h := (Served.foldl (e := withoutErrors) (fun u x => served_discardLine u x) ls s).rest
  rw [h]

omit h hk hv hu hx in
/-- What a revocation does to the key slots (R266, R270). -/
theorem revokeSeal_keys (s : State) (k : Nat) : (revokeSeal s k).keys =
    listMod (fun x => { granted := none, key := none, version := x.version + 1 }) k s.keys :=
  congrArg (listMod _ k) (foldl_leaveProt_keys _ s)

omit h hk hv hu hx in
theorem revokeDiscard_keys (s : State) (k : Nat) : (revokeDiscard s k).keys =
    listMod (fun x => { granted := none, key := none, version := x.version + 1 }) k s.keys :=
  congrArg (listMod _ k) (foldl_discardLine_keys _ s)

theorem keySlotRevoke_revokes (hg : x.granted = some v) : ∀ i, i ∈ [Instr.keySlotRevokeSeal, Instr.keySlotRevokeDiscard] →
    ∃ t, exec i s = .next t ∧ t.keys = s.keys.set k { granted := none, key := none, version := x.version + 1 } ∧
      t.hvbusy = true ∧ t.hvrun = some .done ∧ (slotLines s k = [] → t = commandDone { s with keys := t.keys }) := by
  intro i hi
  obtain ⟨f, hcases, hf⟩ := keySlotRevoke_exec h hi
  have hheld : (slotOwner s (argKey s).1 != some (argKey s).2) = false := by
    rw [slotOwner_named hk hx, show (argKey s).2 = v from hv, hg, bne_self_eq_false]
  rw [hf, hvRevoke]
  simp only [namedKeyChip_used hv hu, hheld, Bool.false_eq_true, if_false]
  rw [show (argKey s).1 = k from hk]
  refine ⟨_, rfl, ?_, rfl, rfl, fun hnone => ?_⟩
  · show (f s k).keys = _
    rcases hcases with rfl | rfl
    · rw [revokeSeal_keys, listMod_eq_set hx]
    · rw [revokeDiscard_keys, listMod_eq_set hx]
  · rcases hcases with rfl | rfl
    · rw [revokeSeal, hnone]
      rfl
    · rw [revokeDiscard, hnone]
      rfl

end KeySlots

/-! ## Frame ranges, and the end of a command -/

theorem frameRange_begins (h : Commandable s) : let a := hvArg s 0
    let v := field a 3 0
    let x : FrameRange := { base := field (hvArg s 1) 51 12 * 4096, size := field (hvArg s 2) 51 12 * 4096
                            valid := a.getLsbD 16, h := a.getLsbD 17 }
    (vchip s v).used = true → (x.valid = true → 0 < x.size ∧ x.base + x.size ≤ 2 ^ 52) → Unlocked s v →
    exec .frameRange s = .next { s with hvbusy := true, hvrun := some (.frames v (field a 11 8) x) } := by
  intro a v x hu hfit hun
  have hexec : exec .frameRange s = .next (hvFrames s) := congrArg _ (hvCommand_runs h hvFrames)
  have hused : (!(vchip s (field (hvArg s 0) 3 0)).used) = false := by
    rw [Bool.not_eq_false']
    exact hu
  have hok : ¬((hvArg s 0).getLsbD 16 && (field (hvArg s 2) 51 12 * 4096 == 0 ||
      decide (2 ^ 52 < field (hvArg s 1) 51 12 * 4096 + field (hvArg s 2) 51 12 * 4096))) = true := by
    rw [Bool.and_eq_true, Bool.or_eq_true, beq_iff_eq, decide_eq_true_eq]
    rintro ⟨hvalid, hbad⟩
    obtain ⟨hpos, hle⟩ := hfit hvalid
    have hpos' : 0 < field (hvArg s 2) 51 12 * 4096 := hpos
    have hle' : field (hvArg s 1) 51 12 * 4096 + field (hvArg s 2) 51 12 * 4096 ≤ 2 ^ 52 := hle
    omega
  refine hexec.trans (congrArg _ ?_)
  rw [hvFrames, hused, if_neg Bool.false_ne_true]
  refine (if_neg hok).trans (breakLock_unlocked ?_)
  exact hun

theorem hvCommandComplete_done (h : s.hvrun = some .done) :
    exec .hvCommandComplete s = .next { s with hvbusy := false, hvrun := none, raised0 := s.raised0 ++ [0] } := by
  show execHvCommandComplete s = _
  rw [execHvCommandComplete, h]

theorem hvCommandComplete_frames {v r : Nat} {x : FrameRange} {c : VChip} (h : s.hvrun = some (.frames v r x)) (hc : s.vchips[v]? = some c) :
    ∃ t, exec .hvCommandComplete s = .next t ∧
      t.cores.map (fun k => { k with tlb1 := [] }) = s.cores.map (fun k => { k with tlb1 := [] }) ∧
      t = { s with hvbusy := false, hvrun := none, raised0 := s.raised0 ++ [0], teams := t.teams, cores := t.cores
                   tlb := s.tlb.filter fun e => e.vc != v, vchips := s.vchips.set v { c with frames := listMod (fun _ => x) r c.frames } } := by
  have hexec : exec .hvCommandComplete s = .next { retryRecords (dropLeaves (modVc s v fun c =>
      { c with frames := listMod (fun _ => x) r c.frames }) v) v with
      hvbusy := false, hvrun := none, raised0 := s.raised0 ++ [0] } := by
    show execHvCommandComplete s = _
    rw [execHvCommandComplete, h]
    rfl
  refine ⟨_, hexec, (served_dropTlb (e := withoutErrors) (modVc s v _) fun e => e.vc == v).cores, ?_⟩
  rw [← listMod_eq_set hc fun c => { c with frames := listMod (fun _ => x) r c.frames }]
  rfl

end Commands

end Sys2Proof.Laws
end

section
/-!
Writes of abutment tables, ways and features that change (R144, R155, R255, R259).
-/

namespace Sys2Proof.Laws

open Sys2Proof.Machine Sys2Proof.Claims

/-! ## Abutment writes -/

theorem modGuest_modGuest (s : State) (g : Nat) (f k : Guest → Guest) : modGuest (modGuest s g f) g k = modGuest s g fun x => k (f x) := by
  simp only [modGuest, listMod_comp]

section Abutment

variable {s : State}

theorem abutmentWrite_begins (h : Commandable s) : let a := hvArg s 0
    (tableOk s a (hvArg s 1) = false → exec .abutmentWrite s = .next (commandFails 2 s)) ∧
    (tableOk s a (hvArg s 1) = true → exec .abutmentWrite s = .next { modGuest s (field a 3 0) fun g => { g with paused := true } with
      hvbusy := true, hvrun := some (.abutment (field a 3 0) a (hvArg s 1) s.time.toNat) }) := by
  intro a
  have hexec : exec .abutmentWrite s = .next (hvAbutment s) := congrArg _ (hvCommand_runs h hvAbutment)
  refine ⟨fun hok => hexec.trans (congrArg _ (if_pos ?_)), fun hok => hexec.trans (congrArg _ (if_neg ?_))⟩
  · rw [Bool.not_eq_true']
    exact hok
  · rw [Bool.not_eq_true', Bool.not_eq_false]
    exact hok

variable {g start : Nat} {a x : DWord} (h : s.hvrun = some (.abutment g a x start))
include h

theorem abutmentRewrite_waits (ho : guestOps s g ≠ []) (ht : s.time.toNat < start + 1000000) : exec .abutmentRewrite s = .next s := by
  have hne : (guestOps s g).isEmpty = false := List.isEmpty_eq_false_iff.mpr ho
  show execAbutmentRewrite s = _
  rw [execAbutmentRewrite, h]
  simp only [hne, Bool.not_false, Bool.true_and, decide_eq_true ht, if_true]

omit h in
/-- No record is owed for interfaces that are not in RUN. -/
theorem changeRecords_none {t : State} (hv : t.vchips = s.vchips) (hrun : ∀ v, v ∈ guestChips s g → (vchip s v).tdisp ≠ .run) (i : Nat) :
    changeRecords t g i = t := by
  have hchip : ∀ v, vchip t v = vchip s v := fun v => by rw [vchip, vchip, hv]
  have hchips : guestChips t g = guestChips s g := by simp only [guestChips, hchip, hv]
  have hnone : ((guestChips t g).filter fun v => (vchip t v).tdisp == .run) = [] :=
    List.filter_eq_nil_iff.mpr fun v hmem => by
      rw [hchip, beq_iff_eq]
      exact hrun v (hchips ▸ hmem)
  rw [changeRecords, hnone]
  rfl

/-- With nothing outstanding the word is written, and admission resumes. -/
theorem abutmentRewrite_writes (ho : guestOps s g = []) (hrun : ∀ v, v ∈ guestChips s g → (vchip s v).tdisp ≠ .run)
    (hv : (putTable s a x).vchips = s.vchips) :
    exec .abutmentRewrite s = .next (commandDone (modGuest (putTable s a x) g fun y => { y with paused := false })) := by
  show execAbutmentRewrite s = _
  rw [execAbutmentRewrite, h]
  simp only [ho, List.isEmpty_nil, Bool.not_true, Bool.false_and, Bool.false_eq_true, if_false, List.foldl_nil]
  rw [changeRecords_none hv hrun]
  rfl

variable (hg : g = field a 3 0)
include hg

omit h in
theorem putTable_set (ht : field a 9 8 = 1) :
    putTable s a x = modGuest s g fun y => { y with mcast := tput y.mcast (field a 25 16 * 16 + field a 31 28) x } := by
  rw [putTable, show (argTable a).2.1 = 1 from ht, hg]
  rfl

omit h in
theorem putTable_label (ht : 2 ≤ field a 9 8) :
    putTable s a x = modGuest s g fun y => { y with labels := tput y.labels (field a 25 16) (x.truncate 8 &&& 0xC7) } := by
  obtain ⟨n, hn⟩ := Nat.exists_eq_add_of_le' ht
  rw [putTable, show (argTable a).2.1 = n + 2 from hn, hg]
  rfl

omit h in
theorem putTable_invalid (ht : field a 9 8 = 0) (hx : vcnV (x &&& 0xFFFFFF0000000000) = false) {y : Guest} (hy : s.guests[g]? = some y) :
    let b := field a 25 16
    let old := vcnEntry y b
    let e := x &&& 0xFFFFFF0000000000
    putTable s a x = { modGuest s g fun z => { z with vcns := if e = 0 then tdel z.vcns b else tput z.vcns b e } with
      linkKeys := if vcnV old = true ∧ linkGranted y (vcnKs old) = true then s.linkKeys.filter fun k => k.1 / 1024 != vcnKs old
        else s.linkKeys } := by
  intro b old e
  have hguest : (s.guests[(argTable a).1]?).getD Guest.init = y := by rw [show (argTable a).1 = g from hg.symm, hy, Option.getD_some]
  rw [putTable, show (argTable a).2.1 = 0 from ht]
  simp only [hguest, hx, Bool.false_and, Bool.false_eq_true, if_false, Bool.not_false, Bool.true_and, Bool.and_eq_true, beq_iff_eq]
  rw [show (argTable a).1 = g from hg.symm]
  by_cases hold : vcnV old = true ∧ linkGranted y (vcnKs old) = true
  · refine (if_pos hold).trans ?_
    rw [if_pos hold]
    rfl
  · refine (if_neg hold).trans ?_
    rw [if_neg hold]
    rfl

end Abutment

theorem abutmentWriteResults : AbutmentWriteResults := by
  refine ⟨fun s h => abutmentWrite_begins h, ?_⟩
  intro s g a x start h hg
  refine ⟨abutmentRewrite_waits h, fun ho hrun => ⟨fun y ht hx hy => ?_, fun ht => ?_, fun ht => ?_⟩⟩
  · have hput := putTable_invalid hg ht hx hy
    rw [abutmentRewrite_writes h ho hrun (by rw [hput]; rfl), hput]
    simp only [modGuest, listMod_comp]
  · have hput := putTable_set (s := s) (x := x) hg ht
    rw [abutmentRewrite_writes h ho hrun (by rw [hput]; rfl), hput, modGuest_modGuest]
  · have hput := putTable_label (s := s) (x := x) hg ht
    rw [abutmentRewrite_writes h ho hrun (by rw [hput]; rfl), hput, modGuest_modGuest]

/-! ## Changed ways -/

section Ways

variable {s : State} {v : Nat}

theorem destroy_waysFeatures_unused (h : Commandable s) (hu : (vchip s (namedChip s)).used = false) :
    exec .destroy s = .next (commandFails 4 s) ∧ exec .ways s = .next (commandFails 4 s) ∧ exec .features s = .next (commandFails 4 s) := by
  have hnot : (!(vchip s (field (hvArg s 0) 3 0)).used) = true := by rw [Bool.not_eq_true']; exact hu
  refine ⟨(congrArg _ (hvCommand_runs h hvDestroy)).trans (congrArg _ (if_pos hnot)),
    (congrArg _ (hvCommand_runs h hvWays)).trans (congrArg _ (if_pos ?_)),
    (congrArg _ (hvCommand_runs h hvFeatures)).trans (congrArg _ (if_pos hnot))⟩
  rw [hnot, Bool.true_or]

theorem ways_resident (h : Commandable s) (hr : ∃ u, u ∈ s.teams ∧ u.vc = namedChip s ∧ u.status = .resident) :
    exec .ways s = .next (commandFails 4 s) := by
  obtain ⟨u, hu, hvc, hst⟩ := hr
  refine (congrArg _ (hvCommand_runs h hvWays)).trans (congrArg _ (if_pos ?_))
  have hany : (s.teams.any fun t => t.vc == field (hvArg s 0) 3 0 && inPlace t) = true :=
    List.any_eq_true.mpr ⟨u, hu, by rw [show u.vc = field (hvArg s 0) 3 0 from hvc, beq_self_eq_true, inPlace, hst]; rfl⟩
  rw [hany, Bool.or_true]

/-- Ways that no line overfills leave every line where it is. -/
theorem displace_fits {used : State → List Nat} {room : Nat} (hr : (used s).length ≤ room) (n : Nat) : displace used room n s = s := by
  cases n with
  | zero => rfl
  | succ n => exact if_pos hr

theorem waysUsed_none (hl : ∀ e, e ∈ s.l2 → e.2.vc ≠ v) (pa : Nat) (prot : Bool) : waysUsed s v pa prot = [] := by
  rw [waysUsed, List.filter_eq_nil_iff.mpr fun e he => ?_, List.map_nil]
  simp [hl e he]

theorem fitWays_none (hl : ∀ e, e ∈ s.l2 → e.2.vc ≠ v) : fitWays s v = s := by
  have hstep : ∀ pa prot, displace (fun s => waysUsed s v pa prot) (waysOf s v prot) s.l2.length s = s :=
    fun pa prot => displace_fits (by rw [waysUsed_none hl]; exact Nat.zero_le _) _
  have hfold : ∀ es : List (Nat × L2Line), es.foldl (fun s e => [false, true].foldl (fun s prot =>
      displace (fun s => waysUsed s v (e.1 * 128) prot) (waysOf s v prot) s.l2.length s) s) s = s := by
    intro es
    induction es with
    | nil => rfl
    | cons e es ih =>
      rw [List.foldl_cons, List.foldl_cons, List.foldl_cons, List.foldl_nil, hstep, hstep]
      exact ih
  exact hfold s.l2

section OneLine

variable {n : Nat} {l : L2Line} {k : BitVec 6} (hs : s.l2 = [(n, l)]) (hv : l.vc = v) (hp : l.prot = some k)
include hs

theorem l2At_only : l2At s (n * 128) = l := by
  rw [l2At, hs, Nat.mul_div_cancel _ (by decide)]
  simp [tget]

include hv hp

/-- The one line of a virtual chip stands in a protected way of its set. -/
theorem waysUsed_only (prot : Bool) : waysUsed s v (n * 128) prot = if prot then [n * 128] else [] := by
  rw [waysUsed, hs]
  cases prot <;> simp [hv, hp]

theorem fitWays_only : fitWays s v = displace (fun s => waysUsed s v (n * 128) true) (vchip s v).protWays 1 s := by
  have hcache : displace (fun s => waysUsed s v (n * 128) false) (waysOf s v false) s.l2.length s = s :=
    displace_fits (by rw [waysUsed_only hs hv hp, if_neg Bool.false_ne_true]; exact Nat.zero_le _) _
  rw [fitWays, hs, List.foldl_cons, List.foldl_nil, List.foldl_cons, List.foldl_cons, List.foldl_nil, hcache, hs]
  rfl

theorem fitWays_room (hr : 1 ≤ (vchip s v).protWays) : fitWays s v = s := by
  rw [fitWays_only hs hv hp]
  refine displace_fits ?_ 1
  rw [waysUsed_only hs hv hp, if_pos rfl]
  exact hr

omit hv in
/-- A protected line that only changes its way's contents when it leaves: no count and no tombstone. -/
theorem evictLine_protected {u : State} (hu : u.l2 = s.l2) (hc : l.counted = none) (ht : l.tomb = false) :
    evictLine u (n * 128) = dropProt (if l.dirty = true then sealLine u (n * 128) k.toNat else u) (n * 128) := by
  have hline : l2At u (n * 128) = l := l2At_only (hu.trans hs)
  have hunder : underRead u (n * 128) = u := by rw [underRead, hline, hc]
  have htomb : endTomb u (n * 128) = u := by rw [endTomb, hline, ht]; rfl
  rw [evictLine, hunder, htomb, leaveProt, hline, hp]
  simp only [hunder, hline]

omit hs hv hp in
@[simp] theorem dropProt_vchips (s : State) (pa : Nat) : (dropProt s pa).vchips = s.vchips := by
  rw [dropProt, setL2_vchips, writeN_vchips]

omit hs hv hp in
@[simp] theorem sealLine_vchips (s : State) (pa slot : Nat) : (sealLine s pa slot).vchips = s.vchips := by
  simpa using (served_sealLine (e := id) s pa slot).chips

theorem fitWays_noRoom (hr : (vchip s v).protWays = 0) (hc : l.counted = none) (ht : l.tomb = false) : fitWays s v =
    dropProt (if l.dirty = true then sealLine { s with draws := s.draws + 1 } (n * 128) k.toNat else { s with draws := s.draws + 1 })
      (n * 128) := by
  have hused : waysUsed s v (n * 128) true = [n * 128] := waysUsed_only hs hv hp true
  rw [fitWays_only hs hv hp, hr, displace, hused, if_neg (by rw [List.length_singleton]; exact Nat.not_succ_le_zero 0)]
  simp only [List.length_singleton, Nat.mod_one, List.getElem?_cons_zero]
  exact evictLine_protected hs hp (u := { s with draws := s.draws + 1 }) rfl hc ht

end OneLine

/-! The chip of a command, with new ways. -/

variable {c : VChip} (h : Commandable s) (hc : s.vchips[namedChip s]? = some c) (hu : c.used = true)
include h hc hu

/-- The state whose lines the new ways may have no room for. -/
def withWays (s : State) (c : VChip) : State := { s with
  vchips := s.vchips.set (namedChip s) { c with
    cacheWays := field (hvArg s 3) 4 0, bankWays := field (hvArg s 3) 12 8, protWays := field (hvArg s 3) 20 16 } }

omit h hu in
theorem vchip_withWays : vchip (withWays s c) (namedChip s) =
    { c with cacheWays := field (hvArg s 3) 4 0, bankWays := field (hvArg s 3) 12 8, protWays := field (hvArg s 3) 20 16 } :=
  vchip_eq (by rw [withWays, List.getElem?_set_self (List.getElem?_eq_some_iff.mp hc).1])

theorem ways_fits (hno : ∀ u, u ∈ s.teams → u.vc ≠ namedChip s) (h1 : 1 ≤ field (hvArg s 3) 4 0)
    (hfew : otherWays s (namedChip s) + field (hvArg s 3) 4 0 + field (hvArg s 3) 12 8 + field (hvArg s 3) 20 16 ≤ 16) :
    exec .ways s = .next (hvDone (breakLock (fitWays (withWays s c) (namedChip s)) (namedChip s))) := by
  have hany : ¬(!(vchip s (namedChip s)).used || s.teams.any fun t => t.vc == namedChip s && inPlace t) = true := by
    rw [vchip_eq hc, hu, Bool.not_true, Bool.false_or, List.any_eq_true]
    rintro ⟨t, ht, hb⟩
    exact hno t ht (beq_iff_eq.mp ((Bool.and_eq_true _ _).mp hb).1)
  refine (congrArg _ (hvCommand_runs h hvWays)).trans (congrArg _ ((if_neg hany).trans ?_))
  have hfit : wayError s (field (hvArg s 0) 3 0) (argWays s).1 (argWays s).2.1 (argWays s).2.2 = 0 := wayError_fits h1 hfew
  rw [hfit, ← namedChip, modVc, listMod_eq_set hc]
  rfl

theorem features_sets (hun : Unlocked s (namedChip s)) : exec .features s = .next (commandDone { s with
    vchips := s.vchips.set (namedChip s) { c with features := BitVec.ofNat 4 (field (hvArg s 3) 51 48) } }) := by
  have hused : ¬(!(vchip s (namedChip s)).used) = true := by rw [vchip_eq hc, hu]; exact Bool.false_ne_true
  have hun' : Unlocked (modVc s (namedChip s) fun c => { c with features := argFeatures s }) (namedChip s) := by
    rw [Unlocked, vchip_modVc_self hc]
    rw [Unlocked, vchip_eq hc] at hun
    exact hun
  refine (congrArg _ (hvCommand_runs h hvFeatures)).trans (congrArg _ ((if_neg hused).trans ?_))
  rw [← namedChip, breakLock_unlocked hun', modVc, listMod_eq_set hc]
  rfl

theorem ways_changes (hun : Unlocked s (namedChip s)) (hno : ∀ u, u ∈ s.teams → u.vc ≠ namedChip s) (h1 : 1 ≤ field (hvArg s 3) 4 0)
    (hfew : otherWays s (namedChip s) + field (hvArg s 3) 4 0 + field (hvArg s 3) 12 8 + field (hvArg s 3) 20 16 ≤ 16) :
    ((∀ e, e ∈ s.l2 → e.2.vc ≠ namedChip s) → exec .ways s = .next (commandDone (withWays s c))) ∧
    ∀ n l k, s.l2 = [(n, l)] → l.vc = namedChip s → l.prot = some k → l.counted = none → l.tomb = false →
      (1 ≤ field (hvArg s 3) 20 16 → exec .ways s = .next (commandDone (withWays s c))) ∧
      (field (hvArg s 3) 20 16 = 0 → let s2 := { withWays s c with draws := s.draws + 1 }
        exec .ways s = .next (commandDone (dropProt (if l.dirty = true then sealLine s2 (n * 128) k.toNat else s2) (n * 128)))) := by
  have hexec := ways_fits h hc hu hno h1 hfew
  have hchip := vchip_withWays hc
  have hopen : ∀ t : State, t.vchips = (withWays s c).vchips → breakLock t (namedChip s) = t := fun t ht => by
    refine breakLock_unlocked ?_
    rw [Unlocked, show vchip t (namedChip s) = vchip (withWays s c) (namedChip s) by rw [vchip, vchip, ht], hchip]
    rw [Unlocked, vchip_eq hc] at hun
    exact hun
  refine ⟨fun hl => ?_, fun n l k hs hv hp hcount htomb => ⟨fun hr => ?_, fun hr => ?_⟩⟩
  · rw [hexec, fitWays_none (by exact hl), hopen _ rfl]
    rfl
  · rw [hexec, fitWays_room (by exact hs) hv hp (by rw [hchip]; exact hr), hopen _ rfl]
    rfl
  · rw [hexec, fitWays_noRoom (by exact hs) hv hp (by rw [hchip]; exact hr) hcount htomb,
      hopen _ (by rw [dropProt_vchips]; split <;> simp only [sealLine_vchips])]
    rfl

end Ways

end Sys2Proof.Laws
end

section
/-!
A virtual chip destroyed: its key slots and its counted lines (R145, R253, R266).
-/

namespace Sys2Proof.Laws

open Sys2Proof.Machine Sys2Proof.Claims

/-! ## The key slots, and what leaves them alone -/

theorem Served.keys {e : VChip → VChip} {s t : State} (h : Served e s t) : t.keys = s.keys := by rw [h.rest]

theorem foldl_keys {α : Type} {f : State → α → State} (h : ∀ u x, (f u x).keys = u.keys) (l : List α) (s : State) :
    (l.foldl f s).keys = s.keys := by
  induction l generalizing s with
  | nil => rfl
  | cons x l ih => exact (ih _).trans (h s x)

@[simp] theorem event_keys (s : State) (v type : Nat) (fs : List (Nat × Nat)) : (event s v type fs).keys = s.keys :=
  (served_event s v type fs).keys

@[simp] theorem drawBytes_keys (s : State) (n : Nat) : (drawBytes s n).2.keys = s.keys := by rw [drawBytes]

@[simp] theorem finishOp_keys (s : State) (o : PodOp) : (finishOp s o).keys = s.keys := by
  unfold finishOp
  split <;> rfl

@[simp] theorem pieceFailed_keys (s : State) (o : PodOp) (kind : Nat) (p : Nat × DWord) : (pieceFailed s o kind p).keys = s.keys := by
  unfold pieceFailed
  dsimp only
  split
  · rfl
  · split <;> exact event_keys ..

@[simp] theorem modOp_keys (s : State) (tag : BitVec 32) (f : PodOp → PodOp) : (modOp s tag f).keys = s.keys := by rw [modOp]

@[simp] theorem endPiece_keys (s : State) (tag : BitVec 32) (key kind : Nat) (bs : List Byte) (pois : Bool) :
    (endPiece s tag key kind bs pois).keys = s.keys := by
  unfold endPiece
  split
  · rfl
  · split
    · rfl
    · rename_i o _ _ p _
      have hr : (if kind != 0 && bs.isEmpty then drawBytes s (resultBytes o) else (bs, s)).2.keys = s.keys := by
        split <;> simp
      generalize (if kind != 0 && bs.isEmpty then drawBytes s (resultBytes o) else (bs, s)) = r at hr ⊢
      dsimp only
      have hfail : ∀ u : State, (if kind == 0 then u else pieceFailed u o kind p).keys = u.keys := fun u => by
        split <;> simp
      split
      · rw [finishOp_keys, hfail]
        exact hr
      · rw [modOp_keys, hfail]
        exact hr

@[simp] theorem failPiece_keys (s : State) (tag : BitVec 32) (key kind : Nat) : (failPiece s tag key kind).keys = s.keys := by
  unfold failPiece
  split
  · unfold failOp
    split
    · rfl
    · exact foldl_keys (fun _ _ => endPiece_keys ..) _ _
  · exact endPiece_keys ..

@[simp] theorem sendLeg_keys (s : State) (v : Nat) (l : Leg) (fs : List Flit) : (sendLeg s v l fs).keys = s.keys := by rw [sendLeg]

@[simp] theorem sendTo_keys (s : State) (v vcn label : Nat) (tag : BitVec 32) (fs : List Flit) : (sendTo s v vcn label tag fs).keys = s.keys := by
  unfold sendTo
  dsimp only
  split
  · exact sendLeg_keys ..
  · exact foldl_keys (fun _ _ => failPiece_keys ..) _ _

@[simp] theorem beginOp_keys (s : State) (mk : BitVec 32 → PodOp) : (beginOp s mk).1.keys = s.keys := by
  rw [beginOp]
  dsimp only
  split <;> rfl

/-! ### Requests of span members -/

@[simp] theorem sendReq_keys (s : State) (n : Nat) (t : Team) (sp : Span) (q : SpanReq) : (sendReq s n t sp q).keys = s.keys := by
  simp only [sendReq, sendTo_keys, beginOp_keys]

@[simp] theorem reqFailed_keys (s : State) (t : Team) (sp : Span) (q : SpanReq) (kind : Nat) : (reqFailed s t sp q kind).keys = s.keys :=
  foldl_keys (fun _ _ => event_keys ..) _ _

@[simp] theorem openOuts_keys (s : State) (q : SpanReq) (ls : List SpanLane) : (openOuts q ls s).1.keys = s.keys := by
  induction ls generalizing s with
  | nil => rfl
  | cons l ls ih => exact (ih _).trans (drawBytes_keys s _)

@[simp] theorem failReq_keys (s : State) (n : Nat) (t : Team) (sp : Span) (q : SpanReq) : (failReq s n t sp q).keys = s.keys := by
  rw [failReq, reqFailed_keys, modGroup_keys]
  split
  · rfl
  · exact openOuts_keys ..

@[simp] theorem writePlace_keys (s : State) (t : Team) (p : Place) (bs : List Byte) : (writePlace s t p bs).keys = s.keys := by
  unfold writePlace
  split
  · exact writeN_keys ..
  · exact (served_pagedStore (e := id) ..).keys
  · rfl

@[simp] theorem atomicPlace_keys (s : State) (t : Team) (p : Place) (i : Instr) (d c : DWord) : (atomicPlace s t p i d c).1.keys = s.keys := by
  unfold atomicPlace
  dsimp only
  split
  · split
    · split
      · rfl
      · exact (served_endCounting (e := id) s _).keys
    · rfl
  · exact writePlace_keys ..

@[simp] theorem reqLane_keys (s : State) (t : Team) (q : SpanReq) (k : Nat) (l : SpanLane) : (reqLane t q s k l).1.keys = s.keys := by
  unfold reqLane
  split
  · exact atomicPlace_keys ..
  · split
    · exact writeN_keys ..
    · rfl

@[simp] theorem reqLanes_keys (s : State) (t : Team) (q : SpanReq) (ps : List (Nat × SpanLane)) : (reqLanes t q ps s).1.keys = s.keys := by
  induction ps generalizing s with
  | nil => rfl
  | cons p ps ih => exact (ih _).trans (reqLane_keys ..)

@[simp] theorem reqLine_keys (s : State) (q : SpanReq) (k : Nat) : (reqLine q s k).keys = s.keys := by
  simp only [reqLine, consumeLine, fillLine, emptyLine]
  (repeat' split) <;> rfl

theorem atLines_keys {s u : State} {t : Team} {q : SpanReq} {outs : List (List Byte × Bool)} (h : atLines s t q = .did u outs) :
    u.keys = s.keys := by
  unfold atLines at h
  dsimp only at h
  split at h
  · cases h
  split at h
  · cases h
  cases h
  rw [foldl_keys fun _ _ => reqLine_keys ..]
  split
  · exact reqLanes_keys ..
  · exact reqLanes_keys ..

theorem performReq_keys {s u : State} {n : Nat} {q : SpanReq} (h : performReq s n q = some u) : u.keys = s.keys := by
  unfold performReq at h
  split at h
  · cases h; rfl
  split at h
  · cases h; rfl
  split at h
  · cases h; rfl
  split at h
  · cases h
  split at h
  · cases h; exact failReq_keys ..
  split at h
  · cases h
  split at h
  · split at h <;> cases h
    exact sendReq_keys ..
  split at h
  · cases h
  split at h
  · cases h
  split at h
  · cases h
  · cases h; exact reqFailed_keys ..
  · rename_i hu
    cases h
    exact (modGroup_keys ..).trans (atLines_keys hu)

@[simp] theorem submitReq_keys (s : State) (n : Nat) (q : SpanReq) : (submitReq s n q).keys = s.keys := by
  unfold submitReq
  split
  · exact performReq_keys ‹_›
  · rfl

@[simp] theorem retryReqs_keys (pick : SpanReq → Bool) (s : State) (n : Nat) : (retryReqs pick s n).keys = s.keys := by
  unfold retryReqs
  split
  · rfl
  · split
    · rfl
    · exact foldl_keys (fun _ _ => submitReq_keys ..) _ _

@[simp] theorem retryAll_keys (s : State) : (retryAll s).keys = s.keys :=
  (foldl_keys (fun _ _ => retryReqs_keys ..) _ _).trans (foldl_keys (fun _ _ => retryReqs_keys ..) _ _)

@[simp] theorem checkSpanb_keys (s : State) (k : Nat) : (checkSpanb s k).keys = s.keys := by
  unfold checkSpanb
  split
  · rfl
  · split
    · exact foldl_keys (f := fun s t => releaseTeam s t 2) (fun _ _ => rfl) _ _
    · rfl

@[simp] theorem releaseSpan_keys (s : State) (k : Nat) : (releaseSpan s k).keys = s.keys := by
  unfold releaseSpan
  split
  · rfl
  · split <;> rfl

@[simp] theorem detachMember_keys (s : State) (k rank : Nat) : (detachMember s k rank).keys = s.keys := by
  unfold detachMember
  split
  · rfl
  · split
    · rfl
    · rw [releaseSpan_keys, checkSpanb_keys, retryAll_keys, modSpan_keys]

@[simp] theorem endTeamOf_keys (s : State) (n : Nat) : (endTeamOf s n).keys = s.keys := by
  have hgroups : ∀ (u : State) (l : List (Nat × Group)) (f : Group → Group), (l.foldl (fun s p => modGroup s p.1 f) u).keys = u.keys :=
    fun u l f => foldl_keys (fun _ _ => modGroup_keys ..) l u
  unfold endTeamOf
  split
  · rfl
  · dsimp only
    split
    · rw [releaseSpan_keys, detachMember_keys, modTeam_keys, hgroups]
    · rw [modTeam_keys, hgroups]

/-! ### The key slots of a virtual chip that is destroyed -/

theorem served_payOwed (s : State) : Served withoutReports s (payOwed s) :=
  (show Served withoutReports s { s with owed := [] } from ⟨rfl, rfl, rfl⟩).trans
    (.foldl (fun u o => served_eventAt u o.time o.vc o.type o.fields) s.owed _)

theorem served_settleChipLines (s : State) (v : Nat) : Served withoutReports s (settleChipLines s v) :=
  (Served.foldl (fun u (x : Nat × L2Line) => (served_evictLine u (x.1 * 128)).reports) _ s).trans (served_payOwed _)

/-- A key slot that is taken back. -/
def freedSlot (x : KeySlot) : KeySlot := { granted := none, key := none, version := x.version + 1 }

theorem foldl_revokeSeal_keys (ks : List Nat) (hnd : ks.Nodup) (s : State) (k : Nat) :
    (ks.foldl revokeSeal s).keys[k]? = if k ∈ ks then s.keys[k]?.map freedSlot else s.keys[k]? := by
  induction ks generalizing s with
  | nil => rfl
  | cons j ks ih =>
    obtain ⟨hj, hnd⟩ := List.nodup_cons.mp hnd
    rw [List.foldl_cons, ih hnd, revokeSeal_keys, listMod_getElem?]
    by_cases hkj : k = j
    · subst hkj
      rw [if_neg hj, if_pos rfl, if_pos List.mem_cons_self]
      rfl
    · rw [if_neg hkj]
      simp only [List.mem_cons, hkj, false_or]

theorem mem_grantedSlots {s : State} {v k : Nat} {x : KeySlot} (hx : s.keys[k]? = some x) : k ∈ grantedSlots s v ↔ x.granted = some v := by
  rw [grantedSlots, List.mem_filter, List.mem_range, hx, Option.bind_some, beq_iff_eq]
  exact and_iff_right (List.getElem?_eq_some_iff.mp hx).1

theorem grantedSlots_nodup (s : State) (v : Nat) : (grantedSlots s v).Nodup := List.nodup_range.filter _

theorem destroyVc_keys {s : State} {v k : Nat} {x : KeySlot} (hx : s.keys[k]? = some x) :
    (destroyVc s v).keys[k]? = some (if x.granted = some v then freedSlot x else x) := by
  have hend : (destroyVc s v).keys = ((grantedSlots s v).foldl revokeSeal (settleChipLines s v)).keys := foldl_keys endTeamOf_keys _ _
  rw [hend, foldl_revokeSeal_keys _ (grantedSlots_nodup s v), (served_settleChipLines s v).keys, hx]
  by_cases hg : x.granted = some v
  · rw [if_pos ((mem_grantedSlots hx).mpr hg), if_pos hg]
    rfl
  · rw [if_neg fun h => hg ((mem_grantedSlots hx).mp h), if_neg hg]

/-! ## A counted line that is written back -/

/-- The bytes of a line and those of its counted store lie apart. -/
theorem hbmAt_apart (pa : Nat) : hbmAt pa + 128 ≤ key .counted pa ∨ key .counted pa + 128 ≤ hbmAt pa := by
  have hcounted : key .counted pa = 5764607523034234880 + pa := rfl
  rw [hbmAt]
  split
  · have hhost : key .host (pa - 2 ^ 52) = 1152921504606846976 + (pa - 4503599627370496) := rfl
    omega
  · split
    · have hhbm : key .hbm pa = 0 + pa := rfl
      omega
    · have hunbacked : key .unbacked pa = 9223372036854775808 + pa := rfl
      omega

/-- A copied line: its bytes written, and besides only poison. -/
theorem copyLine_eq (s : State) (src dst : Nat) : ∃ p, copyLine s src dst = { writeN s dst (readN s src 128) with poison := p } := by
  have hfold : ∀ (is : List Nat) (u : State), ∃ p,
      is.foldl (fun t i => if s.poison.contains (src / 8 + i) then poisonUnit t (dst + 8 * i) else t) u = { u with poison := p } := by
    intro is
    induction is with
    | nil => exact fun u => ⟨u.poison, rfl⟩
    | cons i is ih =>
      intro u
      rw [List.foldl_cons]
      split
      · obtain ⟨p, hp⟩ := ih (poisonUnit u (dst + 8 * i))
        exact ⟨p, hp⟩
      · exact ih u
  exact hfold _ _

theorem copyLine_frame (s : State) (src dst : Nat) : (copyLine s src dst).mem = (writeN s dst (readN s src 128)).mem ∧
    (copyLine s src dst).l2 = s.l2 ∧ (copyLine s src dst).owed = s.owed := by
  obtain ⟨p, h⟩ := copyLine_eq s src dst
  rw [h]
  exact ⟨rfl, rfl, rfl⟩

theorem memReadN_getElem? (m : Memory) (k : Nat) {n i : Nat} (h : i < n) : (memReadN m k n)[i]? = some (memRead m (k + i)) := by
  induction n generalizing k i with
  | zero => omega
  | succ n ih =>
    rw [memReadN]
    cases i with
    | zero => rfl
    | succ i =>
      rw [List.getElem?_cons_succ, ih (k + 1) (by omega)]
      congr 2
      omega

section Counted

variable {s : State} {n : Nat} {l : L2Line} (hs : s.l2 = [(n, l)])
include hs

theorem setL2_only (l' : L2Line) : (setL2 s (n * 128) l').l2 = if plainL2 l' then [] else [(n, l')] := by
  rw [setL2, hs, Nat.mul_div_cancel _ (by decide)]
  simp [tput, tdel, tins]

variable {rc : BitVec 6} (hp : l.prot = none) (hc : l.counted = some rc)
include hp hc

/-- The bytes that a counted line holds go to their home (R151), and nothing is held. -/
theorem settleCounted_only : settleCounted s (n * 128) =
    setL2 (writeN (copyLine s (key .counted (n * 128)) (hbmAt (n * 128))) (key .counted (n * 128)) (List.replicate 128 0)) (n * 128)
      { l with counted := none, lowered := none, dirty := false } := by
  obtain ⟨-, hl2, -⟩ := copyLine_frame s (key .counted (n * 128)) (hbmAt (n * 128))
  rw [settleCounted, l2At_only hs, hc]
  simp only [Nat.mul_div_cancel n (show 0 < 128 by decide), hp, Option.isSome_none, Bool.false_eq_true, if_false]
  rw [l2At_only (n := n) (l := l) (by rw [writeN_l2, hl2]; exact hs), hp]

theorem settleCounted_l2 : (settleCounted s (n * 128)).l2 =
    if l.tomb then [(n, { l with counted := none, lowered := none, dirty := false })] else [] := by
  obtain ⟨-, hl2, -⟩ := copyLine_frame s (key .counted (n * 128)) (hbmAt (n * 128))
  rw [settleCounted_only hs hp hc, setL2_only (by rw [writeN_l2, hl2]; exact hs)]
  cases ht : l.tomb <;> simp [plainL2, hp]

theorem settleCounted_owed : (settleCounted s (n * 128)).owed = s.owed := by
  obtain ⟨-, -, howed⟩ := copyLine_frame s (key .counted (n * 128)) (hbmAt (n * 128))
  rw [settleCounted_only hs hp hc, setL2_owed, writeN_owed, howed]

theorem settleCounted_memory :
    (∀ i, i < 128 → memRead (settleCounted s (n * 128)).mem (hbmAt (n * 128) + i) = memRead s.mem (key .counted (n * 128) + i)) ∧
    ∀ q, (q < hbmAt (n * 128) ∨ hbmAt (n * 128) + 128 ≤ q) → (q < key .counted (n * 128) ∨ key .counted (n * 128) + 128 ≤ q) →
      memRead (settleCounted s (n * 128)).mem q = memRead s.mem q := by
  obtain ⟨hcopied, -, -⟩ := copyLine_frame s (key .counted (n * 128)) (hbmAt (n * 128))
  have hread : (readN s (key .counted (n * 128)) 128).length = 128 := memReadN_length _ _ _
  have hmem : ∀ q, (q < key .counted (n * 128) ∨ key .counted (n * 128) + 128 ≤ q) → memRead (settleCounted s (n * 128)).mem q =
      memRead (writeN s (hbmAt (n * 128)) (readN s (key .counted (n * 128)) 128)).mem q := fun q hq => by
    rw [settleCounted_only hs hp hc, setL2_mem, memRead_writeN_outside _ (by rw [List.length_replicate]; exact hq), hcopied]
  refine ⟨fun i hi => ?_, fun q hhome hheld => ?_⟩
  · rw [hmem _ (by have := hbmAt_apart (n * 128); omega)]
    exact memRead_writeN_inside s (memReadN_getElem? _ _ hi)
  · rw [hmem q hheld, memRead_writeN_outside _ (by rw [hread]; exact hhome)]

/-- An under-read is owed to its chip's stream (R154, R292). -/
theorem underRead_only : (underRead s (n * 128)).l2 = (settleCounted s (n * 128)).l2 ∧
    (underRead s (n * 128)).mem = (settleCounted s (n * 128)).mem ∧
    ∃ o : Owed, (underRead s (n * 128)).owed = s.owed ++ [o] ∧ o.vc = l.vc ∧ o.type = 5 := by
  have howe : ∀ (w : State) (fs : List (Nat × Nat)), w.owed = s.owed →
      ∃ o : Owed, (owe w l.vc 5 fs).owed = s.owed ++ [o] ∧ o.vc = l.vc ∧ o.type = 5 := fun w fs hw => hw ▸ ⟨_, rfl, rfl, rfl⟩
  rw [underRead, l2At_only hs, hc]
  dsimp only
  refine ⟨?_, ?_, howe _ _ ?_⟩
  · rw [owe, countVc_l2, modVc_l2]
  · rw [owe, countVc_mem, modVc_mem]
  · rw [countVc_owed, modVc_owed, settleCounted_owed hs hp hc]

end Counted

/-- A line that is in no protected way leaves none. -/
theorem leaveProt_none {s : State} {pa : Nat} (h : (l2At s pa).prot = none) : leaveProt s pa = s := by rw [leaveProt, h]

section Evicted

variable {s : State} {n : Nat} {l : L2Line} (hs : s.l2 = [(n, l)]) {rc : BitVec 6} (hp : l.prot = none) (hc : l.counted = some rc)
include hs hp hc

/-- A counted line that is evicted ends under-read and leaves no state behind (R154). -/
theorem evictLine_counted : (evictLine s (n * 128)).l2 = [] ∧ (evictLine s (n * 128)).mem = (settleCounted s (n * 128)).mem ∧
    ∃ o : Owed, (evictLine s (n * 128)).owed = s.owed ++ [o] ∧ o.vc = l.vc ∧ o.type = 5 := by
  obtain ⟨hl2, hmem, howed⟩ := underRead_only hs hp hc
  rw [settleCounted_l2 hs hp hc] at hl2
  rw [← hmem, evictLine]
  generalize underRead s (n * 128) = u at hl2 howed ⊢
  suffices h : (endTomb u (n * 128)).l2 = [] ∧ (endTomb u (n * 128)).mem = u.mem ∧ (endTomb u (n * 128)).owed = u.owed by
    obtain ⟨hl2', hmem', howed'⟩ := h
    rw [leaveProt_none (by rw [l2At, hl2']; rfl), hmem', howed']
    exact ⟨hl2', rfl, howed⟩
  cases ht : l.tomb with
  | true =>
    rw [ht, if_pos rfl] at hl2
    rw [endTomb, l2At_only hl2, if_pos rfl, setL2_only hl2, setL2_mem, setL2_owed]
    simp [plainL2, hp]
  | false =>
    rw [ht, if_neg Bool.false_ne_true] at hl2
    have hclean : (l2At u (n * 128)).tomb = false := by rw [l2At, hl2]; rfl
    rw [endTomb, hclean, if_neg Bool.false_ne_true]
    exact ⟨hl2, rfl, rfl⟩

/-- The lines of a chip whose stream records no under-read: its one line gone, its bytes at home. -/
theorem settleChipLines_counted (howed : s.owed = []) (hoff : typeOn (vchip s l.vc).stream 5 = false) :
    (settleChipLines s l.vc).l2 = [] ∧ (settleChipLines s l.vc).mem = (settleCounted s (n * 128)).mem := by
  obtain ⟨hl2, hmem, o, ho, hovc, hotype⟩ := evictLine_counted hs hp hc
  have hmasked : typeOn (vchip (evictLine s (n * 128)) o.vc).stream o.type = false := by
    rw [hovc, hotype, (served_evictLine s (n * 128)).chipField (fun c => c.stream) (fun _ => rfl)]
    exact hoff
  have hlines : settleChipLines s l.vc = payOwed (evictLine s (n * 128)) := by
    rw [settleChipLines, hs]
    simp
  rw [hlines, payOwed, ho, howed, List.nil_append, List.foldl_cons, List.foldl_nil, eventAt]
  generalize evictLine s (n * 128) = u at *
  have hgoal : typeOn (vchip { u with owed := [] } o.vc).stream o.type = false := hmasked
  rw [hgoal]
  exact ⟨hl2, hmem⟩

end Evicted

/-- Revocations that find no line in a protected way. -/
theorem foldl_revokeSeal_noLines (ks : List Nat) {s : State} (h : s.l2 = []) : ∃ k, ks.foldl revokeSeal s = { s with keys := k } := by
  induction ks generalizing s with
  | nil => exact ⟨s.keys, rfl⟩
  | cons j ks ih =>
    have hone : revokeSeal s j = endGrant s j := by
      rw [revokeSeal, slotLines, h]
      rfl
    obtain ⟨k, hk⟩ := ih (s := endGrant s j) h
    exact ⟨k, by rw [List.foldl_cons, hone, hk]; rfl⟩

/-- The teams that the destruction of a virtual chip ends. -/
def goneTeams (s : State) (v : Nat) : List Nat :=
  ((mapFrom (fun n t => (n, t)) 0 s.teams).filter fun p => p.2.vc == v && p.2.status != .ended).map fun p => p.1

theorem goneTeams_none {s : State} {v : Nat} (h : ∀ u, u ∈ s.teams → u.vc ≠ v) : goneTeams s v = [] := by
  rw [goneTeams, List.filter_eq_nil_iff.mpr fun p hp => ?_, List.map_nil]
  have ht : p.2 ∈ s.teams := List.mem_iff_getElem?.mpr ⟨p.1, mem_numbered.mp hp⟩
  simp [h p.2 ht]

/-- The memory and the lines of a virtual chip that is destroyed are those that its teams leave. -/
theorem destroyVc_lines (s : State) (v : Nat) : let u := (grantedSlots s v).foldl revokeSeal (settleChipLines s v)
    (destroyVc s v).l2 = ((goneTeams u v).foldl endTeamOf u).l2 ∧ (destroyVc s v).mem = ((goneTeams u v).foldl endTeamOf u).mem := ⟨rfl, rfl⟩

theorem destroyVc_counted {s : State} {n : Nat} {l : L2Line} (hs : s.l2 = [(n, l)]) {rc : BitVec 6} (hp : l.prot = none)
    (hc : l.counted = some rc) (howed : s.owed = []) (hoff : typeOn (vchip s l.vc).stream 5 = false)
    (hno : ∀ u, u ∈ s.teams → u.vc ≠ l.vc) :
    (destroyVc s l.vc).l2 = [] ∧ (destroyVc s l.vc).mem = (settleCounted s (n * 128)).mem := by
  obtain ⟨hl2, hmem⟩ := settleChipLines_counted hs hp hc howed hoff
  obtain ⟨k, hk⟩ := foldl_revokeSeal_noLines (grantedSlots s l.vc) hl2
  have hteams : (settleChipLines s l.vc).teams = s.teams := (served_settleChipLines s l.vc).teams
  obtain ⟨hendL2, hendMem⟩ := destroyVc_lines s l.vc
  rw [hk, goneTeams_none (by exact fun u hu => hno u (hteams ▸ hu)), List.foldl_nil] at hendL2 hendMem
  exact ⟨hendL2.trans hl2, hendMem.trans hmem⟩

theorem vchip_modVc_init (s : State) (v : Nat) : vchip (modVc s v fun _ => VChip.init) v = VChip.init := by
  rw [vchip, modVc, listMod_getElem?, if_pos rfl]
  cases s.vchips[v]? <;> rfl

/-- A virtual chip that is destroyed (R253): its slot as at reset, with nothing of its own held. -/
theorem destroyVc_frees (s : State) (v : Nat) : vchip (destroyVc s v) v = VChip.init ∧ (∀ e, e ∈ (destroyVc s v).tlb → e.vc ≠ v) ∧
    ∀ o, o ∈ (destroyVc s v).ops → o.vc ≠ v := by
  refine ⟨?_, fun e he => ?_, fun o ho => ?_⟩
  · rw [destroyVc]
    exact vchip_modVc_init _ _
  · have hmem := (List.mem_filter.mp he).2
    simpa using hmem
  · have hmem := (List.mem_filter.mp ho).2
    simpa using hmem

theorem destroy_used {s : State} (h : Commandable s) (hu : (vchip s (namedChip s)).used = true) : let v := namedChip s
    ∃ t, exec .destroy s = .next t ∧ vchip t v = VChip.init ∧ (∀ e, e ∈ t.tlb → e.vc ≠ v) ∧
      (∀ o, o ∈ t.ops → o.vc ≠ v) ∧ t.hvbusy = true ∧ t.hvrun = some .done ∧
      (∀ (k : Nat) x, s.keys[k]? = some x →
        t.keys[k]? = some (if x.granted = some v then { granted := none, key := none, version := x.version + 1 } else x)) ∧
      ∀ n l rc, s.l2 = [(n, l)] → l.vc = v → l.prot = none → l.counted = some rc → (∀ u, u ∈ s.teams → u.vc ≠ v) → s.owed = [] →
        typeOn (vchip s v).stream 5 = false →
        let home := hbmAt (n * 128)
        let held := key .counted (n * 128)
        t.l2 = [] ∧ (∀ i, i < 128 → memRead t.mem (home + i) = memRead s.mem (held + i)) ∧
          ∀ q, (q < home ∨ home + 128 ≤ q) → (q < held ∨ held + 128 ≤ q) → memRead t.mem q = memRead s.mem q := by
  intro v
  have hexec : exec .destroy s = .next (hvDone (destroyVc s v)) :=
    (congrArg _ (hvCommand_runs h hvDestroy)).trans (congrArg _ (if_neg (by rw [← namedChip, hu]; exact Bool.false_ne_true)))
  obtain ⟨hchip, htlb, hops⟩ := destroyVc_frees s v
  refine ⟨_, hexec, hchip, htlb, hops, rfl, rfl, fun k x hx => destroyVc_keys hx, fun n l rc hs hv hp hc hno howed hoff => ?_⟩
  rw [← hv] at hno hoff
  obtain ⟨hl2, hmem⟩ := destroyVc_counted hs hp hc howed hoff hno
  obtain ⟨hhome, hothers⟩ := settleCounted_memory hs hp hc
  rw [hv] at hl2 hmem
  rw [← hmem] at hhome hothers
  exact ⟨hl2, hhome, hothers⟩

end Sys2Proof.Laws
end

section
/-!
A locked interface thrown into ERROR, and the hypervisor's commands together (R265, R272).
-/

namespace Sys2Proof.Laws

open Sys2Proof.Machine Sys2Proof.Claims

/-! ## Teams halted by an interface that enters ERROR -/

/-- Each group's team, and whether the group is retired. -/
def groupsHeld (s : State) : List (Nat × Bool) := s.groups.map fun g => (g.team, g.retired)

/-- A team that is resident has no group left to run. -/
def AtRest (s : State) (n : Nat) : Prop :=
  ∀ u, s.teams[n]? = some u → u.status = .resident → ∀ x, x ∈ groupsHeld s → x.1 = n → x.2 = true

/-- A group of a team that is halted. -/
def stallGroup (s : State) (p : Nat × Group) : State := modGroup s p.1 fun g => { g with stall := .trapHalt }

theorem stallGroup_held (s : State) (p : Nat × Group) : groupsHeld (stallGroup s p) = groupsHeld s := by
  rw [groupsHeld, stallGroup, modGroup]
  exact listMod_map _ (fun g : Group => (g.team, g.retired)) (fun _ => by rfl) _ _

theorem haltTeam_cases (s : State) (n : Nat) :
    (haltTeam s n = s ∧ ∀ t, s.teams[n]? = some t → liveGroups s n = [] ∨ inPlace t = false) ∨
    ∃ p ps, haltTeam s n = modTeam ((p :: ps).foldl stallGroup s) n (haltedBy p.1) := by
  rw [haltTeam]
  split
  · rename_i t p ps ht hl
    split
    · exact .inr ⟨p, ps, rfl⟩
    · rename_i hplace
      refine .inl ⟨rfl, fun u hu => .inr ?_⟩
      rw [← Option.some.inj (ht.symm.trans hu)]
      exact Bool.eq_false_iff.mpr hplace
  · rename_i hnone
    refine .inl ⟨rfl, fun t ht => .inl ?_⟩
    cases hl : liveGroups s n with
    | nil => rfl
    | cons p ps => exact absurd hl (hnone t p ps ht)

theorem foldl_stallGroup_held (ps : List (Nat × Group)) (s : State) : groupsHeld (ps.foldl stallGroup s) = groupsHeld s := by
  induction ps generalizing s with
  | nil => rfl
  | cons p ps ih => exact (ih _).trans (stallGroup_held s p)

theorem foldl_stallGroup_rest (ps : List (Nat × Group)) (s : State) : ∃ gs, ps.foldl stallGroup s = { s with groups := gs } :=
  ⟨_, foldl_modGroup ps s⟩

theorem haltedBy_vc (k : Nat) (t : Team) : (haltedBy k t).vc = t.vc := by
  rw [haltedBy]
  split <;> rfl

theorem haltedBy_notResident (k : Nat) (t : Team) : (haltedBy k t).status ≠ .resident := by
  rw [haltedBy]
  split
  · rename_i h
    intro hr
    rw [isHalted, hr] at h
    cases h
  · dsimp only
    split <;> nofun

/-- What halting a team leaves as it was. -/
theorem haltTeam_frame (s : State) (n : Nat) : groupsHeld (haltTeam s n) = groupsHeld s ∧
    (haltTeam s n).teams.map (fun t => t.vc) = s.teams.map (fun t => t.vc) ∧ (haltTeam s n).vchips = s.vchips := by
  obtain ⟨hsame, -⟩ | ⟨p, ps, hhalt⟩ := haltTeam_cases s n
  · rw [hsame]
    exact ⟨rfl, rfl, rfl⟩
  · obtain ⟨gs, hgs⟩ := foldl_stallGroup_rest (p :: ps) s
    have hheld := foldl_stallGroup_held (p :: ps) s
    rw [hgs] at hheld hhalt
    rw [hhalt]
    exact ⟨hheld, listMod_map _ _ (haltedBy_vc p.1) _ _, rfl⟩

theorem haltTeam_atRest (s : State) (n : Nat) : AtRest (haltTeam s n) n := by
  intro u hu hr x hx hxn
  obtain ⟨hsame, hwhy⟩ | ⟨p, ps, hhalt⟩ := haltTeam_cases s n
  · rw [hsame] at hu hx
    obtain hnone | hplace := hwhy u hu
    · obtain ⟨g, hg, rfl⟩ := List.mem_map.mp hx
      obtain ⟨k, hk⟩ := List.mem_iff_getElem?.mp hg
      by_contra hlive
      refine List.filter_eq_nil_iff.mp hnone (k, g) (mem_teamGroups.mpr ⟨hk, hxn⟩) ?_
      simpa using hlive
    · rw [inPlace, hr] at hplace
      cases hplace
  · rw [hhalt, modTeam] at hu
    dsimp only at hu
    rw [listMod_getElem?, if_pos rfl] at hu
    obtain ⟨t, -, rfl⟩ := Option.map_eq_some_iff.mp hu
    exact absurd hr (haltedBy_notResident p.1 t)

theorem haltTeam_keepsRest {s : State} {m : Nat} (h : AtRest s m) (n : Nat) : AtRest (haltTeam s n) m := by
  by_cases hmn : m = n
  · exact hmn ▸ haltTeam_atRest s n
  · obtain ⟨hheld, -⟩ := haltTeam_frame s n
    have hteam : (haltTeam s n).teams[m]? = s.teams[m]? := by
      obtain ⟨hsame, -⟩ | ⟨p, ps, hhalt⟩ := haltTeam_cases s n
      · rw [hsame]
      · obtain ⟨gs, hgs⟩ := foldl_stallGroup_rest (p :: ps) s
        rw [hhalt, hgs, modTeam]
        dsimp only
        rw [listMod_getElem?, if_neg hmn]
    intro u hu hr x hx
    exact h u (hteam ▸ hu) hr x (hheld ▸ hx)

theorem foldl_haltTeam_frame (ns : List Nat) (s : State) : (ns.foldl haltTeam s).teams.map (fun t => t.vc) = s.teams.map (fun t => t.vc) ∧
    (ns.foldl haltTeam s).vchips = s.vchips := by
  induction ns generalizing s with
  | nil => exact ⟨rfl, rfl⟩
  | cons n ns ih =>
    obtain ⟨-, hteams, hchips⟩ := haltTeam_frame s n
    obtain ⟨hteams', hchips'⟩ := ih (haltTeam s n)
    exact ⟨hteams'.trans hteams, hchips'.trans hchips⟩

theorem foldl_haltTeam_keepsRest {m : Nat} (ns : List Nat) {s : State} (h : AtRest s m) : AtRest (ns.foldl haltTeam s) m := by
  induction ns generalizing s with
  | nil => exact h
  | cons n ns ih => exact ih (haltTeam_keepsRest h n)

theorem foldl_haltTeam_atRest {m : Nat} (ns : List Nat) (hm : m ∈ ns) (s : State) : AtRest (ns.foldl haltTeam s) m := by
  induction ns generalizing s with
  | nil => cases hm
  | cons n ns ih =>
    obtain rfl | hm := List.mem_cons.mp hm
    · exact foldl_haltTeam_keepsRest ns (haltTeam_atRest s m)
    · exact ih hm _

/-! ## Interfaces in ERROR -/

theorem foldl_revokeDiscard_frame (ks : List Nat) (s : State) : (ks.foldl revokeDiscard s).vchips = s.vchips ∧
    (ks.foldl revokeDiscard s).teams = s.teams ∧ (ks.foldl revokeDiscard s).groups = s.groups := by
  induction ks generalizing s with
  | nil => exact ⟨rfl, rfl, rfl⟩
  | cons k ks ih =>
    have hserved := Served.foldl (e := id) (fun u x => served_discardLine u x) (slotLines s k) s
    obtain ⟨hchips, hteams, hgroups⟩ := ih (revokeDiscard s k)
    have hone : (revokeDiscard s k).vchips = s.vchips := by
      have h := hserved.chips
      rwa [List.map_id, List.map_id] at h
    exact ⟨hchips.trans hone, hteams.trans hserved.teams, hgroups.trans hserved.groups⟩

/-- An interface thrown into ERROR (R272): its teams halted, its keys taken back. -/
theorem enterError_results {s : State} {v : Nat} {c : VChip} (hc : s.vchips[v]? = some c) :
    vchip (enterError s v) v = { c with tdisp := .error } ∧
    ∀ (n : Nat) u, (enterError s v).teams[n]? = some u → u.vc = v → u.status = .resident →
      ∀ g, g ∈ (enterError s v).groups → g.team = n → g.retired = true := by
  obtain ⟨ns, hns⟩ : ∃ ns, ns = (List.range s.teams.length).filter fun n => ((s.teams[n]?).map fun t => t.vc) == some v := ⟨_, rfl⟩
  obtain ⟨hvcs, hkept⟩ := foldl_haltTeam_frame ns s
  rw [enterError, ← hns]
  have hrest := fun n (hn : n ∈ ns) => foldl_haltTeam_atRest ns hn s
  generalize ns.foldl haltTeam s = t at hvcs hkept hrest ⊢
  obtain ⟨hchips, hteams, hgroups⟩ := foldl_revokeDiscard_frame (grantedSlots t v) (modVc t v fun c => { c with tdisp := .error })
  refine ⟨?_, fun n u hu hvc hr g hg hgn => ?_⟩
  · rw [vchip, hchips, ← vchip]
    exact vchip_modVc_self (by rw [hkept]; exact hc) _
  · rw [hteams] at hu
    rw [hgroups] at hg
    have hn : (s.teams[n]?).map (fun t => t.vc) = some v := by
      rw [← List.getElem?_map, ← hvcs, List.getElem?_map, show t.teams[n]? = some u from hu, Option.map_some, hvc]
    have hmem : n ∈ ns := by
      obtain ⟨x, hx, -⟩ := Option.map_eq_some_iff.mp hn
      rw [hns, List.mem_filter, List.mem_range, beq_iff_eq]
      exact ⟨(List.getElem?_eq_some_iff.mp hx).1, hn⟩
    exact hrest n hmem u hu hr (g.team, g.retired) (List.mem_map.mpr ⟨g, hg, rfl⟩) hgn

theorem breakLock_locked {s : State} {v : Nat} (hl : ¬Unlocked s v) : breakLock s v = enterError s v := by
  rw [Unlocked, not_or] at hl
  obtain ⟨hun, herr⟩ := hl
  rw [breakLock]
  cases hd : (vchip s v).tdisp with
  | configUnlocked => exact absurd hd hun
  | error => exact absurd hd herr
  | configLocked => rfl
  | run => rfl

theorem features_locked {s : State} {c : VChip} (h : Commandable s) (hc : s.vchips[namedChip s]? = some c) (hu : c.used = true)
    (hl : ¬Unlocked s (namedChip s)) : let v := namedChip s
    ∃ t, exec .features s = .next t ∧ (vchip t v).tdisp = .error ∧ (vchip t v).features = BitVec.ofNat 4 (field (hvArg s 3) 51 48) ∧
      ∀ (n : Nat) u, t.teams[n]? = some u → u.vc = v → u.status = .resident → ∀ g, g ∈ t.groups → g.team = n → g.retired = true := by
  intro v
  obtain ⟨s1, hs1⟩ : ∃ s1, s1 = modVc s v fun c => { c with features := argFeatures s } := ⟨_, rfl⟩
  have hused : ¬(!(vchip s (namedChip s)).used) = true := by rw [vchip_eq hc, hu]; exact Bool.false_ne_true
  have hexec : exec .features s = .next (hvDone (breakLock s1 v)) := by
    rw [hs1]
    exact (congrArg _ (hvCommand_runs h hvFeatures)).trans (congrArg _ (if_neg hused))
  have hc1 : s1.vchips[v]? = some { c with features := argFeatures s } := by
    rw [hs1, modVc, listMod_getElem?, if_pos rfl, hc]
    rfl
  have hl1 : ¬Unlocked s1 v := by
    rw [Unlocked, vchip_eq hc1]
    rwa [Unlocked, vchip_eq hc] at hl
  obtain ⟨hchip, hhalted⟩ := enterError_results hc1
  refine ⟨_, hexec, ?_, ?_, ?_⟩
  · rw [breakLock_locked hl1]
    exact congrArg VChip.tdisp hchip
  · rw [breakLock_locked hl1]
    exact congrArg VChip.features hchip
  · rw [breakLock_locked hl1]
    exact hhalted

/-! ## The hypervisor's commands together -/

theorem commands_refused {i : Instr} {s : State} (hi : IsCommand i) (h0 : s.pkgStat ≠ 0) :
    (s.hvbusy = true → exec i s = .next { s with hverr := 1 }) ∧
    (s.hvbusy = false → s.pkgStat ≠ 3 → exec i s = .next (commandFails 4 s)) := by
  obtain ⟨k, hk⟩ := exec_command hi s
  rw [hk]
  exact ⟨fun hb => congrArg _ (hvCommand_busy h0 hb k), fun hb h3 => congrArg _ (hvCommand_refused h0 hb h3 k)⟩

theorem hypervisorCommandResults : HypervisorCommandResults := by
  refine ⟨fun i s hi h0 => commands_refused hi h0, fun s h => ?_, fun s h => ?_, fun s h => ?_, fun s h => ?_, fun s h => ?_,
    fun s h => hvCommandComplete_done h, fun s v r x c h hc => hvCommandComplete_frames h hc⟩
  · exact ⟨create_used h, fun hu hp => create_fewPiers h hu hp, fun hu hp ht => create_takenPiers h hu hp ht,
      fun hu hp hfree _ => create_ways h hu hp hfree⟩
  · refine ⟨destroy_waysFeatures_unused h, destroy_used h, fun c hc hu => ⟨ways_resident h, ?_, ?_, ?_⟩⟩
    · exact fun hun hno h1 hfew => ways_changes h hc hu hun hno h1 hfew
    · exact features_sets h hc hu
    · exact fun hl _ => features_locked h hc hu hl
  · obtain ⟨hset, hbad⟩ := guest_commands h
    obtain ⟨hallow, hnone⟩ := allowList_commands h
    exact ⟨hset, hbad, hallow, hnone, linkKeySlots_command h⟩
  · refine ⟨keySlot_unused h, fun hu x hx => ⟨?_, ?_, ?_, ?_⟩⟩
    · exact fun hg hun => keySlotGrant_grants h rfl rfl hu hx hg hun
    · exact fun hg _ => keySlotGrant_again h rfl rfl hu hx hg
    · exact keySlotRevoke_notHeld h rfl rfl hu hx
    · exact keySlotRevoke_revokes h rfl rfl hu hx
  · exact frameRange_begins h

/-- Settles O58: each command and each abutment write, by its own part of the claim. -/
theorem hypervisorAndAbutmentResults : Obligations.HypervisorAndAbutmentResults :=
  ⟨hypervisorCommandResults, abutmentWriteResults⟩

end Sys2Proof.Laws
end

section
/-!
`FENCE`, `PREF` and `CFLUSH`: accesses have been performed as they issue, and what a prefetch and a flush do to the caches
(R142, R153, R155, R163, R361, R387, R435).
-/

namespace Sys2Proof.Laws

open Sys2Proof.Machine Sys2Proof.Claims

/-! ## Instructions that change caches only -/

section Caches

variable {n : Nat} {i : Instr} {c : Ctx} {s t : State}

theorem elsewhere_withL2 (he : Elsewhere n s t) (x : Table L2Line) : Elsewhere n { s with l2 := x } { t with l2 := x } :=
  ⟨he.bytes, by conv_lhs => rw [he.rest], he.count, he.groups, he.chips⟩

theorem elsewhere_withCores (he : Elsewhere n s t) (x : List Core) : Elsewhere n { s with cores := x } { t with cores := x } :=
  ⟨he.bytes, by conv_lhs => rw [he.rest], he.count, he.groups, he.chips⟩

variable (hg : s.groups[c.b.group]? = some c.g)
include hg

/-- An instruction that has issued and then changed states of L2 lines only. -/
theorem onlyMoves_of_l2 (h : t = { issued i c s with l2 := t.l2 }) : OnlyMoves i c { s with l2 := t.l2 } t := by
  obtain ⟨he, hgroup⟩ := onlyMoves (i := i) hg
  rw [h]
  exact ⟨elsewhere_withL2 he _, hgroup⟩

/-- An instruction that has issued and then changed cores only. -/
theorem onlyMoves_of_cores (h : t = { issued i c s with cores := t.cores }) : OnlyMoves i c { s with cores := t.cores } t := by
  obtain ⟨he, hgroup⟩ := onlyMoves (i := i) hg
  rw [h]
  exact ⟨elsewhere_withCores he _, hgroup⟩

end Caches

/-! ## Prefetches -/

/-- A core but for the lines that its L1 data cache holds. -/
def withoutL1 (k : Core) : Core := { k with l1 := [] }

/-- Nothing has changed but what L1 data caches hold. -/
structure OnlyL1 (s t : State) : Prop where
  rest : t = { s with cores := t.cores }
  cores : t.cores.map withoutL1 = s.cores.map withoutL1

theorem OnlyL1.refl (s : State) : OnlyL1 s s := ⟨rfl, rfl⟩

theorem OnlyL1.trans {s t u : State} (h : OnlyL1 s t) (k : OnlyL1 t u) : OnlyL1 s u where
  rest := by
    have htu := k.rest
    rw [h.rest] at htu
    exact htu
  cores := k.cores.trans h.cores

theorem onlyL1_foldl {α : Type} {f : State → α → State} (h : ∀ u x, OnlyL1 u (f u x)) (ls : List α) (s : State) :
    OnlyL1 s (ls.foldl f s) := by
  induction ls generalizing s with
  | nil => exact .refl s
  | cons x xs ih => exact (h s x).trans (ih _)

theorem onlyL1_modCore (s : State) (n : Nat) (f : Core → List Nat) : OnlyL1 s (modCore s n fun k => { k with l1 := f k }) :=
  ⟨rfl, listMod_map (fun k : Core => { k with l1 := f k }) withoutL1 (fun _ => by rfl) n s.cores⟩

/-- A lane of `PREF` brings in a line, or is dropped. -/
theorem onlyL1_prefAt (c : Ctx) (bad : Mask) (s : State) (k : Nat) (va : DWord) : OnlyL1 s (prefAt c bad s k va) := by
  unfold prefAt
  split
  · exact .refl s
  · split
    · split
      · exact onlyL1_modCore s _ _
      · exact .refl s
    · exact .refl s

theorem pref_results {a b : BitVec 6} {c : Ctx} {s : State} (hr : Ready (.pref a b) c s) :
    ∃ t, exec (.pref a b) s = .next t ∧ OnlyMoves (.pref a b) c { s with cores := t.cores } t ∧
      t.cores.map (fun k => { k with l1 := [] }) = s.cores.map fun k => { k with l1 := [] } := by
  have hissued := (Elsewhere.issued (.pref a b) c s).rest
  obtain ⟨hrest, hcores⟩ := onlyL1_foldl (fun u (p : Nat × DWord) => onlyL1_prefAt c (poisonLanes c (.pref a b)) u p.1 p.2)
    (lanesAt c (laneAddr c b a)) (issued (.pref a b) c s)
  refine ⟨_, hr.issue _, onlyMoves_of_cores hr.group hrest, hcores.trans ?_⟩
  rw [hissued]
  rfl

/-! ## The states of L2 lines -/

/-- The first byte of a line lies in that line. -/
theorem lineBase_div (pa : Nat) : pa / 128 * 128 / 128 = pa / 128 := Nat.mul_div_cancel _ (by decide)

theorem l2At_lineBase (s : State) (pa : Nat) : l2At s (pa / 128 * 128) = l2At s pa := by rw [l2At, l2At, lineBase_div]

theorem l2At_congr {s t : State} (h : t.l2 = s.l2) (pa : Nat) : l2At t pa = l2At s pa := by rw [l2At, l2At, h]

/-- A line with nothing to tell is not listed. -/
theorem l2At_setL2 (s : State) (pa : Nat) (l : L2Line) : l2At (setL2 s pa l) pa = if plainL2 l then cleanL2 else l := by
  rw [l2At, setL2]
  split
  · rw [tget_tdel, if_pos rfl, Option.getD_none]
  · rw [tget_tput, if_pos rfl, Option.getD_some]

/-- What is told of a line is what was written. -/
theorem l2Told_setL2 (s : State) (pa : Nat) (l : L2Line) :
    (l2At (setL2 s pa l) pa).dirty = l.dirty ∧ (l2At (setL2 s pa l) pa).counted = l.counted ∧
      (l2At (setL2 s pa l) pa).tomb = l.tomb ∧ (l2At (setL2 s pa l) pa).prot = l.prot := by
  rw [l2At_setL2]
  split
  next hplain =>
    simp only [plainL2, Bool.and_eq_true, Bool.not_eq_true', Option.isNone_iff_eq_none] at hplain
    obtain ⟨⟨⟨hd, hc⟩, ht⟩, hp⟩ := hplain
    exact ⟨hd.symm, hc.symm, ht.symm, hp.symm⟩
  next => exact ⟨rfl, rfl, rfl, rfl⟩

/-- The end of a tombstone changes the states of lines only. -/
theorem endTomb_eq (s : State) (pa : Nat) : endTomb s pa = { s with l2 := (endTomb s pa).l2 } := by
  rw [endTomb]
  split <;> rfl

/-- And of its own line the tombstone alone. -/
theorem endTomb_line (s : State) (pa : Nat) : (l2At (endTomb s pa) pa).dirty = (l2At s pa).dirty ∧
    (l2At (endTomb s pa) pa).counted = (l2At s pa).counted ∧ (l2At (endTomb s pa) pa).tomb = false ∧
    (l2At (endTomb s pa) pa).prot = (l2At s pa).prot := by
  rw [endTomb]
  split
  next => exact l2Told_setL2 s pa _
  next ht => exact ⟨rfl, rfl, Bool.eq_false_iff.mpr ht, rfl⟩

section Counted

variable {s : State} {pa : Nat} {rc : BitVec 6} (hp : (l2At s pa).prot = none) (hc : (l2At s pa).counted = some rc)
include hp hc

/-- A counted line of an ordinary page goes home, and nothing of it is held (R155). -/
theorem settleCounted_home : settleCounted s pa =
    setL2 (writeN (copyLine s (key .counted (pa / 128 * 128)) (hbmAt (pa / 128 * 128))) (key .counted (pa / 128 * 128)) (List.replicate 128 0)) pa
      { l2At s pa with counted := none, lowered := none, dirty := false } := by
  obtain ⟨-, hl2, -⟩ := copyLine_frame s (key .counted (pa / 128 * 128)) (hbmAt (pa / 128 * 128))
  rw [settleCounted, hc]
  simp only [hp, Option.isSome_none, Bool.false_eq_true, if_false]
  rw [l2At_congr (s := s) (by rw [writeN_l2, hl2]), hp]

theorem settleCounted_line : (l2At (settleCounted s pa) pa).counted = none ∧ (l2At (settleCounted s pa) pa).prot = none := by
  rw [settleCounted_home hp hc]
  generalize writeN _ _ _ = u
  obtain ⟨-, hcounted, -, hprot⟩ := l2Told_setL2 u pa { l2At s pa with counted := none, lowered := none, dirty := false }
  exact ⟨hcounted, hprot.trans hp⟩

theorem settleCounted_bytes :
    (∀ i, i < 128 → memRead (settleCounted s pa).mem (hbmAt (pa / 128 * 128) + i) = memRead s.mem (key .counted (pa / 128 * 128) + i)) ∧
    ∀ q, (q < hbmAt (pa / 128 * 128) ∨ hbmAt (pa / 128 * 128) + 128 ≤ q) →
      (q < key .counted (pa / 128 * 128) ∨ key .counted (pa / 128 * 128) + 128 ≤ q) → memRead (settleCounted s pa).mem q = memRead s.mem q := by
  obtain ⟨hcopied, -, -⟩ := copyLine_frame s (key .counted (pa / 128 * 128)) (hbmAt (pa / 128 * 128))
  have happart := hbmAt_apart (pa / 128 * 128)
  have hread : (readN s (key .counted (pa / 128 * 128)) 128).length = 128 := memReadN_length _ _ _
  rw [settleCounted_home hp hc]
  generalize key .counted (pa / 128 * 128) = held at *
  generalize hbmAt (pa / 128 * 128) = home at *
  have hmem : ∀ q, (q < held ∨ held + 128 ≤ q) → memRead (writeN (copyLine s held home) held (List.replicate 128 0)).mem q =
      memRead (writeN s home (readN s held 128)).mem q := fun q hq => by
    rw [memRead_writeN_outside _ (by rw [List.length_replicate]; exact hq), hcopied]
  refine ⟨fun i hi => ?_, fun q hhome hheld => ?_⟩
  · rw [setL2_mem, hmem _ (by omega)]
    exact memRead_writeN_inside s (memReadN_getElem? _ _ hi)
  · rw [setL2_mem, hmem q hheld, memRead_writeN_outside _ (by rw [hread]; exact hhome)]

end Counted

section UnderRead

variable {s : State} {pa : Nat} {rc : BitVec 6} (hp : (l2At s pa).prot = none) (hc : (l2At s pa).counted = some rc)
include hp hc

/-- An under-read is a count that has ended, and a report to the chip in whose way the line lay (R155). -/
theorem underRead_reports : ∃ f : VChip → VChip, (∀ x, (f x).memUr = true) ∧
    underRead s pa = { modVc (settleCounted s pa) (l2At s pa).vc f with owed := s.owed ++
      [{ time := s.time, vc := (l2At s pa).vc, type := 5, fields := [(9, rc.toNat), (16, pa / 128 * 128)] }] } := by
  have htime : (settleCounted s pa).time = s.time := by rw [(served_settleCounted (e := id) s pa).rest]
  have howed : (settleCounted s pa).owed = s.owed := by
    obtain ⟨-, -, hcopy⟩ := copyLine_frame s (key .counted (pa / 128 * 128)) (hbmAt (pa / 128 * 128))
    rw [settleCounted_home hp hc, setL2_owed, writeN_owed, hcopy]
  refine ⟨fun x => { x with memUr := true, counters := listMod (fun k => k + BitVec.ofNat 64 1) 0 x.counters }, fun _ => rfl, ?_⟩
  rw [underRead, hc]
  simp only [owe, countVc, modVc_comp, modVc_time, modVc_owed, htime, howed]

/-- A counted line that is flushed or displaced: no longer counted, its bytes at home. -/
theorem underRead_line : l2At (underRead s pa) pa = l2At (settleCounted s pa) pa ∧ (underRead s pa).mem = (settleCounted s pa).mem := by
  obtain ⟨f, -, heq⟩ := underRead_reports hp hc
  rw [heq]
  exact ⟨rfl, rfl⟩

theorem underRead_memUr (hv : (l2At s pa).vc < s.vchips.length) : (vchip (underRead s pa) (l2At s pa).vc).memUr = true := by
  obtain ⟨f, hf, heq⟩ := underRead_reports hp hc
  have hlen := (served_settleCounted (e := id) s pa).chipCount
  have hsome := List.getElem?_eq_getElem (show (l2At s pa).vc < (settleCounted s pa).vchips.length by rw [hlen]; exact hv)
  rw [heq]
  exact (congrArg VChip.memUr (vchip_modVc_self hsome f)).trans (hf _)

end UnderRead

theorem underRead_uncounted {s : State} {pa : Nat} (hc : (l2At s pa).counted = none) : underRead s pa = s := by rw [underRead, hc]

/-! ## Flushes -/

/-- Device and strongly ordered pages have no line to flush (R361). -/
theorem flushAt_device {e : DWord} (h : 2 ≤ leafMt e) (s : State) (pa : Nat) : flushAt s e pa = s := by
  rw [flushAt, decide_eq_true h, Bool.true_or, if_pos rfl]

/-- A line that stands in no protected way is flushed by the end of its count and of its tombstone. -/
theorem flushAt_unprotected {e : DWord} {s : State} {pa : Nat} (hm : leafMt e < 2) (hl : looseLeaf e = false)
    (hp : (l2At (underRead s pa) pa).prot = none) : flushAt s e pa = endTomb (underRead s pa) pa := by
  obtain ⟨-, -, -, hprot⟩ := endTomb_line (underRead s pa) pa
  rw [flushAt, hl, decide_eq_false (by omega), Bool.or_false, if_neg Bool.false_ne_true]
  simp only [hprot.trans hp]

/-- What a flush does to a line of an ordinary page that is not counted (R153, R361). -/
theorem flushAt_uncounted {e : DWord} {s : State} {pa : Nat} (hl : looseLeaf e = false) (hp : (l2At s pa).prot = none)
    (hc : (l2At s pa).counted = none) :
    flushAt s e pa = { s with l2 := (flushAt s e pa).l2 } ∧ ((l2At s pa).tomb = false → flushAt s e pa = s) ∧
    (leafMt e < 2 → (l2At (flushAt s e pa) pa).tomb = false ∧ (l2At (flushAt s e pa) pa).counted = none ∧
      (l2At (flushAt s e pa) pa).prot = none ∧ (l2At (flushAt s e pa) pa).dirty = (l2At s pa).dirty) := by
  rcases Nat.lt_or_ge (leafMt e) 2 with hm | hm
  · obtain ⟨hd, hcount, ht, hprot⟩ := endTomb_line s pa
    have hsame := underRead_uncounted hc
    rw [flushAt_unprotected hm hl (by rw [hsame]; exact hp), hsame]
    refine ⟨endTomb_eq s pa, fun h => ?_, fun _ => ⟨ht, hcount.trans hc, hprot.trans hp, hd⟩⟩
    rw [endTomb, h, if_neg Bool.false_ne_true]
  · rw [flushAt_device hm]
    exact ⟨rfl, fun _ => rfl, fun h => absurd hm (Nat.not_le_of_lt h)⟩

/-- What a flush does to a counted line of an ordinary page (R144, R155). -/
theorem flushAt_counted {e : DWord} {s : State} {pa : Nat} {rc : BitVec 6} (hm : leafMt e < 2) (hl : looseLeaf e = false)
    (hp : (l2At s pa).prot = none) (hc : (l2At s pa).counted = some rc) :
    (l2At (flushAt s e pa) pa).counted = none ∧ (flushAt s e pa).mem = (settleCounted s pa).mem ∧
    (flushAt s e pa).owed = s.owed ++
      [{ time := s.time, vc := (l2At s pa).vc, type := 5, fields := [(9, rc.toNat), (16, pa / 128 * 128)] }] ∧
    ((l2At s pa).vc < s.vchips.length → (vchip (flushAt s e pa) (l2At s pa).vc).memUr = true) := by
  obtain ⟨hline, hmem⟩ := underRead_line hp hc
  obtain ⟨hcount, hprot⟩ := settleCounted_line hp hc
  obtain ⟨f, -, hreport⟩ := underRead_reports hp hc
  obtain ⟨-, hends, -, -⟩ := endTomb_line (underRead s pa) pa
  rw [flushAt_unprotected hm hl (by rw [hline]; exact hprot)]
  refine ⟨by rw [hends, hline, hcount], by rw [endTomb_mem, hmem], ?_, fun hv => ?_⟩
  · rw [endTomb_eq, hreport]
  · rw [endTomb_eq]
    exact underRead_memUr hp hc hv

section Flush

variable {a b : BitVec 6} {c : Ctx} {s : State} (hr : Ready (.cflush a b) c s)
include hr

/-- `CFLUSH` once its addresses have passed. -/
theorem cflush_issue (h : ∀ k, runs c k → addrCheck s c.t (lanesOff c b a k) { bytes := 1 } = none) : exec (.cflush a b) s =
    .next ((linesOf s c.t (lanesAt c (lanesOff c b a))).foldl flushLine (issued (.cflush a b) c s)) := by
  have hnone : lanesFault s c.t { bytes := 1 } (lanesAt c (lanesOff c b a)) = none := lanesFault_none fun p hp => by
    obtain ⟨hk, ha⟩ := mem_lanesAt.mp hp
    rw [ha]
    exact h _ hk
  refine (hr.issue _).trans (congrArg _ ?_)
  simp only [laneAddr_lanesOff]
  rw [hnone]

/-- Lines of the team window have no copies to flush (R361). -/
theorem cflush_team (h : ∀ k, runs c k → InTeam c (lanesOff c b a k) 1) :
    ∃ t, exec (.cflush a b) s = .next t ∧ OnlyMoves (.cflush a b) c s t := by
  refine ⟨_, cflush_issue hr fun k hk => addrCheck_inTeam (h k hk) s, ?_⟩
  rw [foldl_id fun u x hx => ?_]
  · exact onlyMoves hr.group
  · obtain ⟨k, -, rfl⟩ := (mem_linesOf_lanesAt h (by decide)).mp hx
    rfl

end Flush

theorem lanesIn_bit64 {g : Group} {j : Nat} (h64 : j < 64) (hj : j < g.lanes.length) : lanesIn g (bit64 j) = [j] := by
  have heq : (fun k => has (bit64 j) k) = fun k => decide (k = j) := funext fun k => by
    rw [has_bit64]
    by_cases hk : j = k
    · simp [← hk, h64]
    · simp [hk, Ne.symm hk]
  rw [lanesIn, heq, List.filter_eq, List.count_eq_one_of_mem List.nodup_range (List.mem_range.mpr hj)]
  rfl

section OneLine

variable {a b : BitVec 6} {c : Ctx} {s : State} {j : Nat} {l : Leaf} (hr : Ready (.cflush a b) c s) (h64 : j < 64)
  (hj : j < c.g.lanes.length) (hmask : c.b.mask = bit64 j) (hpass : addrCheck s c.t (lanesOff c b a j) { bytes := 1 } = none)
  (htop : topByte (lanesOff c b a j) = 0) (hleaf : translate s c.t.vc (lanesOff c b a j) (teamDie c.t) = some l)
  (hbk : leafBk l.entry = false) (hh : leafH l.entry = false)
include hr h64 hj hmask hpass htop hleaf hbk hh

/-- `CFLUSH` of one line of an ordinary page. -/
theorem cflush_line : exec (.cflush a b) s =
    .next (flushAt (issued (.cflush a b) c s) l.entry (leafAddr l (lanesOff c b a j) / 128 * 128)) := by
  have hlanes : lanesAt c (lanesOff c b a) = [(j, lanesOff c b a j)] := by rw [lanesAt, hmask, lanesIn_bit64 h64 hj]; rfl
  have hloose : looseLeaf l.entry = false := by rw [looseLeaf, hbk, hh]; rfl
  have hline : lineOf s c.t (lanesOff c b a j) = .l2 (leafAddr l (lanesOff c b a j) / 128) l.entry := by
    simp [lineOf, placeOf, htop, hleaf, hloose, lineAddr, hh]
  rw [cflush_issue hr fun k hk => ?_, hlanes, linesOf, List.map_singleton, hline]
  · rfl
  · obtain ⟨-, hbit⟩ := hk
    rw [hmask, has_bit64, Bool.and_eq_true, beq_iff_eq] at hbit
    obtain ⟨-, rfl⟩ := hbit
    exact hpass

variable (hp : (l2At s (leafAddr l (lanesOff c b a j))).prot = none)
include hp

/-- `CFLUSH` of one line that is not counted: a tombstone goes, and nothing else changes (R153). -/
theorem cflush_uncounted (hc : (l2At s (leafAddr l (lanesOff c b a j))).counted = none) :
    let pa := leafAddr l (lanesOff c b a j)
    ∃ t, exec (.cflush a b) s = .next t ∧ OnlyMoves (.cflush a b) c { s with l2 := t.l2 } t ∧
      ((l2At s pa).tomb = false → t.l2 = s.l2) ∧ (leafMt l.entry < 2 → (l2At t pa).tomb = false ∧ (l2At t pa).counted = none ∧
        (l2At t pa).prot = none ∧ (l2At t pa).dirty = (l2At s pa).dirty) := by
  intro pa
  have hl2 : (issued (.cflush a b) c s).l2 = s.l2 := by rw [(Elsewhere.issued (.cflush a b) c s).rest]
  have hline : l2At (issued (.cflush a b) c s) (pa / 128 * 128) = l2At s pa := by rw [l2At_lineBase, l2At_congr hl2]
  obtain ⟨hrest, hkeeps, hends⟩ := flushAt_uncounted (e := l.entry) (by rw [looseLeaf, hbk, hh]; rfl) (by rw [hline]; exact hp)
    (by rw [hline]; exact hc)
  rw [hline, l2At_lineBase] at hends
  refine ⟨_, cflush_line hr h64 hj hmask hpass htop hleaf hbk hh, onlyMoves_of_l2 hr.group hrest, fun ht => ?_, hends⟩
  rw [hkeeps (by rw [hline]; exact ht), hl2]

/-- `CFLUSH` of one counted line: its bytes go home, and it is an under-read (R155). -/
theorem cflush_counted (hm : leafMt l.entry < 2) {rc : BitVec 6} (hc : (l2At s (leafAddr l (lanesOff c b a j))).counted = some rc) :
    let pa := leafAddr l (lanesOff c b a j)
    ∃ t, exec (.cflush a b) s = .next t ∧ (l2At t pa).counted = none ∧
      t.owed = s.owed ++ [{ time := s.time, vc := (l2At s pa).vc, type := 5, fields := [(9, rc.toNat), (16, pa / 128 * 128)] }] ∧
      ((l2At s pa).vc < s.vchips.length → (vchip t (l2At s pa).vc).memUr = true) ∧
      (∀ k, k < 128 → memRead t.mem (hbmAt (pa / 128 * 128) + k) = memRead s.mem (key .counted (pa / 128 * 128) + k)) ∧
      ∀ q, (q < hbmAt (pa / 128 * 128) ∨ hbmAt (pa / 128 * 128) + 128 ≤ q) →
        (q < key .counted (pa / 128 * 128) ∨ key .counted (pa / 128 * 128) + 128 ≤ q) → memRead t.mem q = memRead s.mem q := by
  intro pa
  have hissued := Elsewhere.issued (.cflush a b) c s
  have hchips : (issued (.cflush a b) c s).vchips.length = s.vchips.length := by simpa using congrArg List.length hissued.chips
  have hmem := issued_mem s (.cflush a b) c
  have hl2 : (issued (.cflush a b) c s).l2 = s.l2 := by rw [hissued.rest]
  have howed : (issued (.cflush a b) c s).owed = s.owed := by rw [hissued.rest]
  have htime : (issued (.cflush a b) c s).time = s.time := by rw [hissued.rest]
  have hline : l2At (issued (.cflush a b) c s) (pa / 128 * 128) = l2At s pa := by rw [l2At_lineBase, l2At_congr hl2]
  have hp' : (l2At (issued (.cflush a b) c s) (pa / 128 * 128)).prot = none := hline ▸ hp
  have hc' : (l2At (issued (.cflush a b) c s) (pa / 128 * 128)).counted = some rc := hline ▸ hc
  obtain ⟨hcount, hhome, hreport, hur⟩ := flushAt_counted hm (by rw [looseLeaf, hbk, hh]; rfl) hp' hc'
  obtain ⟨hbytes, hothers⟩ := settleCounted_bytes hp' hc'
  rw [l2At_lineBase] at hcount
  rw [hline, lineBase_div, howed, htime] at hreport
  rw [hline, hchips] at hur
  rw [← hhome, lineBase_div, hmem] at hbytes hothers
  exact ⟨_, cflush_line hr h64 hj hmask hpass htop hleaf hbk hh, hcount, hreport, hur, hbytes, hothers⟩

end OneLine

/-- Settles O37: a fence and a flush of the team window find nothing to do, a prefetch changes L1 data caches alone, and the flush of one line
of an ordinary page ends its tombstone, or its count as an under-read with its bytes at home. -/
theorem fencePrefetchFlush : Obligations.FencePrefetchFlush := by
  refine ⟨fun sc k c s hr => ⟨_, hr.issue _, onlyMoves hr.group⟩, fun a b c s hr => pref_results hr, fun a b c s hr => cflush_team hr, ?_⟩
  intro a b c s j l hr h64 hj hmask hpass htop hleaf hbk hh pa hp
  exact ⟨cflush_uncounted hr h64 hj hmask hpass htop hleaf hbk hh hp,
    fun rc hm hc => cflush_counted hr h64 hj hmask hpass htop hleaf hbk hh hp hm hc⟩

end Sys2Proof.Laws
end

section
/-!
The copy engine at issue and between its lines: what settling a core's slices can change, the outcomes of `CPY` and of `CSEAL`
(R187, R190, R191, R193, R194, R364, R366).
-/

namespace Sys2Proof.Laws

open Sys2Proof.Machine Sys2Proof.Claims

/-! ## Changes of a core -/

section Cores

variable {s t : State} {n : Nat} {f : Core → Core}

theorem modCore_congr {g : Core → Core} (h : f (coreAt s n) = g (coreAt s n)) : modCore s n f = modCore s n g := by
  refine congrArg (fun ks => { s with cores := ks }) (List.ext_getElem? fun m => ?_)
  rw [listMod_getElem?, listMod_getElem?]
  split_ifs with hm
  · subst hm
    cases hk : s.cores[m]? with
    | none => rfl
    | some k =>
      rw [coreAt, hk, Option.getD_some] at h
      rw [Option.map_some, Option.map_some, h]
  · rfl

theorem modCore_eq_self (h : f (coreAt s n) = coreAt s n) : modCore s n f = s := by
  have hid : listMod (fun k : Core => k) n s.cores = s.cores := List.ext_getElem? fun m => by simp [listMod_getElem?]
  rw [modCore_congr (g := fun k => k) h, modCore, hid]

/-- A core that exists and has been changed, in a state whose cores are otherwise as they were. -/
theorem coreIs_of_cores (hn : n < s.cores.length) (h : t.cores = listMod f n s.cores) : CoreIs n (f (coreAt s n)) s t := by
  refine ⟨hn, ?_, ?_, fun m hm => ?_⟩
  · rw [h, listMod_length]
  · rw [h, listMod_getElem?_self, coreAt, List.getElem?_eq_getElem hn, Option.map_some, Option.getD_some]
  · rw [h, listMod_getElem?_ne f hm]

end Cores

/-! ## Starting slices (R188, R191) -/

theorem served_ready (s : State) (v : Nat) (va : DWord) (die : Nat) : Served withoutErrors s (ready s v va die) := by
  unfold ready
  split
  · exact .refl s
  · exact served_readyLine s v va _ die

theorem served_readSource (fn : BitVec 2) (t : Team) (s : State) (va : DWord) (n : Nat) : Served withoutErrors s (readSource fn t s va n).1 := by
  unfold readSource
  split
  · exact .refl s
  · split
    · exact .refl s
    · split
      · exact .refl s
      · split
        · exact .refl s
        · exact served_ready s t.vc va (teamDie t)

theorem served_readElement (fn : BitVec 2) (t : Team) (sb : DWord) (h : Shape) (s : State) (n : Nat) :
    Served withoutErrors s (readElement fn t sb h s n).1 := by
  unfold readElement
  dsimp only
  split
  · exact served_readSource fn t s _ _
  · split
    · exact served_readSource fn t s _ _
    · exact .refl s

theorem served_readElements (fn : BitVec 2) (t : Team) (sb : DWord) (h : Shape) (k n : Nat) (s : State) :
    Served withoutErrors s (readElements fn t sb h k n s).1 := by
  induction k generalizing n s with
  | zero => exact .refl s
  | succ k ih => exact (served_readElement fn t sb h s n).trans (ih _ _)

theorem startSlice_groups (core : Nat) (s : State) (j : CopyJob) : (startSlice core s j).groups = s.groups := by
  unfold startSlice
  split
  · exact (served_readElements _ _ _ _ _ _ s).groups
  · rfl

theorem foldl_startSlice_groups (core : Nat) (js : List CopyJob) (s : State) : (js.foldl (startSlice core) s).groups = s.groups := by
  induction js generalizing s with
  | nil => rfl
  | cons j js ih => exact (ih _).trans (startSlice_groups core s j)

/-! ## Settling the slices of a core (R191, R193) -/

/-- A copy but for whether it is done. -/
def undone (e : CopyEntry) : CopyEntry := { e with done := false }

/-- Nothing has changed of any group but which of its copies are done. -/
def OnlyDone (s t : State) : Prop := ∀ (n : Nat) (g : Group), s.groups[n]? = some g →
  ∃ es : List CopyEntry, t.groups[n]? = some { g with copies := es } ∧ es.map undone = g.copies.map undone

section Settling

variable {s t u : State} {core : Nat}

theorem onlyDone_of_groups (h : t.groups = s.groups) : OnlyDone s t := fun _ g hg => ⟨g.copies, by rw [h]; exact hg, rfl⟩

theorem OnlyDone.trans (h : OnlyDone s t) (k : OnlyDone t u) : OnlyDone s u := by
  intro n g hg
  obtain ⟨es, ht, hes⟩ := h n g hg
  obtain ⟨es', hu, hes'⟩ := k n _ ht
  exact ⟨es', hu, hes'.trans hes⟩

theorem onlyDone_finished (s : State) (j : CopyJob) : OnlyDone s (modGroup s j.group fun g =>
    { g with copies := g.copies.map fun e => if e.number == j.number then { e with done := true } else e }) := by
  intro n g hg
  by_cases hn : n = j.group
  · subst hn
    refine ⟨_, by simp [modGroup, hg]; rfl, ?_⟩
    rw [List.map_map]
    refine List.map_congr_left fun e _ => ?_
    rw [Function.comp_apply]
    split_ifs <;> rfl
  · exact ⟨g.copies, by simp [modGroup, listMod_getElem?_ne _ hn, hg], rfl⟩

theorem onlyDone_finishSlices (s : State) (core : Nat) : OnlyDone s (finishSlices s core) := by
  unfold finishSlices
  generalize (coreAt s core).jobs.filter (fun j => j.started && j.todo.isEmpty) = js
  refine OnlyDone.trans (t := js.foldl _ s) ?_ (onlyDone_of_groups rfl)
  induction js generalizing s with
  | nil => exact onlyDone_of_groups rfl
  | cons j js ih => exact (onlyDone_finished s j).trans (ih _)

theorem onlyDone_settleJobs (s : State) (core : Nat) : OnlyDone s (settleJobs s core) :=
  (onlyDone_of_groups (foldl_startSlice_groups core _ s)).trans (onlyDone_finishSlices _ core)

/-- Slices of which none may start and none has nothing left stay as they are. -/
theorem settleJobs_eq_self (hstart : ∀ j ∈ (coreAt s core).jobs, mayStart s core j = false)
    (hleft : ∀ j ∈ (coreAt s core).jobs, (j.started && j.todo.isEmpty) = false) : settleJobs s core = s := by
  have hnone : (coreAt s core).jobs.filter (mayStart s core) = [] := List.filter_eq_nil_iff.mpr fun j hj => by simp [hstart j hj]
  have hdone : (coreAt s core).jobs.filter (fun j => j.started && j.todo.isEmpty) = [] :=
    List.filter_eq_nil_iff.mpr fun j hj => by simp [hleft j hj]
  have hkeep : (coreAt s core).jobs.filter (fun j => !(j.started && j.todo.isEmpty)) = (coreAt s core).jobs :=
    List.filter_eq_self.mpr fun j hj => by simp [hleft j hj]
  rw [settleJobs, hnone, List.foldl_nil, finishSlices, hdone]
  exact modCore_eq_self (congrArg (fun js => { coreAt s core with jobs := js }) hkeep)

theorem settleJobs_noJobs (h : (coreAt s core).jobs = []) : settleJobs s core = s := by
  refine settleJobs_eq_self ?_ ?_
  all_goals
    rw [h]
    exact fun j hj => absurd hj List.not_mem_nil

theorem mayStart_of_started {j : CopyJob} (h : j.started = true) (s : State) (core : Nat) : mayStart s core j = false := by
  unfold mayStart
  split
  · rfl
  · rw [h]
    rfl

/-- A slice that has started and has items left is alone on its core. -/
theorem settleJobs_started {j : CopyJob} (h : (coreAt s core).jobs = [j]) (hstarted : j.started = true) (hleft : j.todo ≠ []) :
    settleJobs s core = s := by
  refine settleJobs_eq_self ?_ ?_
  all_goals
    rw [h]
    intro k hk
    obtain rfl := List.mem_singleton.mp hk
  · exact mayStart_of_started hstarted s core
  · exact Bool.and_eq_false_imp.mpr fun _ => List.isEmpty_eq_false_iff.mpr hleft

/-- A collective waits for a copy group of the core that has still to join it (R191). -/
theorem mayStart_waits {j : CopyJob} {tm : Team} (ht : s.teams[j.team]? = some tm) (hroles : tm.kernel.roles = true) {m : Nat} {g : Group}
    (hg : s.groups[m]? = some g) (hteam : g.team = j.team) (hcore : g.core = core) (hrole : g.role = .copy) (hret : g.retired = false)
    (hk : g.cpys.toNat ≤ j.number.toNat) : mayStart s core j = false := by
  have hfull : collectiveFull s j.team core j.number.toNat = false :=
    List.all_eq_false.mpr ⟨g, List.mem_of_getElem? hg, by simp [hteam, hcore, hrole, hret, hk]⟩
  unfold mayStart
  rw [ht]
  simp only [hroles, hfull, Bool.not_true, Bool.or_false, Bool.and_false]

end Settling

/-! ## The outcomes of `CPY` -/

/-- A record in the team window passes check 2 of R187. -/
theorem recordCause_inTeam {c : Ctx} {va : DWord} (h : InTeam c va 64) (s : State) : recordCause s c.t va = 0 := by
  obtain ⟨hcan, htop, hal, hfit⟩ := h
  simp [recordCause, hcan, htop, hal, hfit]

theorem withdrawIdem_groups (s : State) (c : Ctx) (yes : Bool) : (withdrawIdem s c yes).groups = s.groups := by
  cases yes <;> rfl

theorem exec_copy {i : Instr} {fn : BitVec 2} {b a u : BitVec 6} (h : IsCopy i fn b a u) (s : State) : exec i s = issueCopy i fn b a u s := by
  obtain ⟨l, ⟨rfl, rfl⟩ | ⟨rfl, rfl⟩ | ⟨rfl, rfl⟩⟩ := h <;> rfl

/-- A group that a copy has joined (R194). -/
def withEntry (c : Ctx) (e : CopyEntry) (g : Group) : Group := { g with
  cpys := c.g.cpys + 1
  copies := g.copies ++ [e]
  tokens := if e.st = 0 then g.tokens else (g.tokens.filter fun x => x.1 != e.st) ++ [(e.st, .unsealed)] }

theorem addCopy_eq (c : Ctx) (fn : BitVec 2) (rec : List Byte) (b u : BitVec 6) (s : State) : addCopy c fn rec (readS c.g b) u s =
    modCore (onGroup s c (withEntry c (newCopy c fn rec b u))) c.g.core fun k => { k with jobs := k.jobs ++ [newSlice c fn rec b] } := by
  have hseq : field (readS c.g b) 31 0 = (readS c.g b).toNat % 2 ^ 32 := by simp [field]
  simp only [addCopy, newSlice, hseq, beq_iff_eq]
  rfl

/-- The state in which a copy has been issued and no slice of its core has been settled since. -/
def copyIssued (i : Instr) (c : Ctx) (fn : BitVec 2) (rec : List Byte) (b u : BitVec 6) (s : State) : State :=
  addCopy c fn rec (readS c.g b) u (withdrawIdem (issued i c s) c (fn == 1#2))

section Copy

variable {i : Instr} {fn : BitVec 2} {b a u : BitVec 6} {c : Ctx} {s : State}

/-- The issuing group, which the copy has joined, has moved on. -/
theorem copyIssued_group (hg : s.groups[c.b.group]? = some c.g) (rec : List Byte) : ∃ g',
    (copyIssued i c fn rec b u s).groups[c.b.group]? = some g' ∧ LanesMove i c g' ∧
      GroupKept (withCopy c (newCopy c fn rec b u) (c.g.copies ++ [newCopy c fn rec b u])) g' := by
  have hissued : (withdrawIdem (issued i c s) c (fn == 1#2)).groups[c.b.group]? = some (advance i c (coreAt s c.g.core).clock c.g) := by
    rw [withdrawIdem_groups]
    exact issued_group i c s c.g hg
  rw [copyIssued, addCopy_eq]
  exact ⟨_, onGroup_self hissued _, ⟨advance_length i c _ c.g, fun k hk => advance_lanes i c _ c.g k hk⟩, rfl⟩

/-- Where a copy is not one out of the team window, its slice joins the jobs of its core, and no other core and no team changes. -/
theorem copyIssued_elsewhere (hfn : fn ≠ 1) (rec : List Byte) : let t := copyIssued i c fn rec b u s
    Elsewhere c.b.group { s with cores := t.cores } t ∧
      t.cores = listMod (fun k => { k with jobs := k.jobs ++ [newSlice c fn rec b] }) c.g.core s.cores := by
  have hidem : withdrawIdem (issued i c s) c (fn == 1#2) = issued i c s := if_neg (by simpa using hfn)
  have hcores : (issued i c s).cores = s.cores := by rw [(Elsewhere.issued i c s).rest]
  rw [copyIssued, hidem, addCopy_eq]
  exact ⟨elsewhere_withCores ((Elsewhere.issued i c s).trans (Elsewhere.onGroup _ c _)) _, congrArg (listMod _ _) hcores⟩

/-- A record in the team window as it is read. -/
theorem readPlace_clean {k n : Nat} (h : spoilt s k n = false) (t : Team) : readPlace s t (.scratch k) n = (readN s k n, false) :=
  Prod.ext rfl h

variable (hr : Ready i c s) (hcopy : IsCopy i fn b a u)
include hr hcopy

theorem copy_badRecord (h : recordCause s c.t (readS c.g a) ≠ 0) :
    exec i s = .next (fault s c (recordCause s c.t (readS c.g a)) c.b.mask (readS c.g a)) := by
  rw [exec_copy hcopy, issueCopy, hr.issue]
  simp only [bne_iff_ne, if_pos h]

variable (hteam : InTeam c (readS c.g a) 64) (hclean : spoilt s (at_ c (readS c.g a)) 64 = false)
include hteam hclean

/-- A record that fails a check from 3 on (R187). -/
theorem copy_badShape {e : BitVec 8} {va : DWord}
    (h : (shapeOf (readN s (at_ c (readS c.g a)) 64)).check fn (readS c.g b) c.t.alloc = some (e, va)) :
    exec i s = .next (fault s c e c.b.mask va) := by
  rw [exec_copy hcopy, issueCopy, hr.issue]
  simp [recordCause_inTeam hteam, placeOf_inTeam hteam, readyPlace, readPlace_clean hclean, h]

variable (hcheck : (shapeOf (readN s (at_ c (readS c.g a)) 64)).check fn (readS c.g b) c.t.alloc = none)
include hcheck

/-- A group with 16 copies that are not complete waits, and seals them if none is sealed (R194). -/
theorem copy_waits (h : 16 ≤ c.g.copies.length) :
    exec i s = .next (stallFor (if c.g.copies.all fun e => !e.sealed then onGroup s c sealBatch else s) c .token) := by
  rw [exec_copy hcopy, issueCopy, hr.issue]
  simp [recordCause_inTeam hteam, placeOf_inTeam hteam, readyPlace, readPlace_clean hclean, hcheck, h]

theorem copy_issues (h : c.g.copies.length < 16) (htoken : otherToken c.g u = false) :
    exec i s = .next (settleJobs (copyIssued i c fn (readN s (at_ c (readS c.g a)) 64) b u s) c.g.core) := by
  rw [exec_copy hcopy, issueCopy, hr.issue]
  simp [recordCause_inTeam hteam, placeOf_inTeam hteam, readyPlace, readPlace_clean hclean, hcheck, Nat.not_le.mpr h, htoken, copyIssued]

end Copy

/-- The wait of a group for its copies changes nothing else of it than its batches. -/
theorem waits_for_token {c : Ctx} {s : State} (hg : s.groups[c.b.group]? = some c.g) (p : Bool) :
    let t := stallFor (if p then onGroup s c sealBatch else s) c .token
    Elsewhere c.b.group s t ∧ ∃ g', t.groups[c.b.group]? = some g' ∧ g'.lanes = c.g.lanes ∧ g'.s = c.g.s ∧ g'.stall = .token := by
  cases p
  · exact ⟨Elsewhere.onGroup s c _, _, onGroup_self hg _, rfl, rfl, rfl⟩
  · exact ⟨(Elsewhere.onGroup s c _).trans (Elsewhere.onGroup _ c _), _, onGroup_self (onGroup_self hg _) _, rfl, rfl, rfl⟩

section Collective

variable {i : Instr} {fn : BitVec 2} {b u : BitVec 6} {c : Ctx} {s : State} {rec : List Byte}

/-- The slice of a copy whose collective waits for another group (R191) is not started. -/
theorem settleJobs_copyIssued (ht : s.teams[c.g.team]? = some c.t) (hroles : c.t.kernel.roles = true)
    (hjobs : (coreAt s c.g.core).jobs = []) (hcore : c.g.core < s.cores.length) (hfn : fn ≠ 1) {m : Nat} {g : Group}
    (hg : s.groups[m]? = some g) (hm : m ≠ c.b.group) (hteam : g.team = c.g.team) (hsame : g.core = c.g.core) (hrole : g.role = .copy)
    (hret : g.retired = false) (hk : g.cpys.toNat ≤ c.g.cpys.toNat) :
    settleJobs (copyIssued i c fn rec b u s) c.g.core = copyIssued i c fn rec b u s := by
  obtain ⟨helse, hcores⟩ := copyIssued_elsewhere (i := i) (b := b) (u := u) (c := c) (s := s) hfn rec
  have hjobs' : (coreAt (copyIssued i c fn rec b u s) c.g.core).jobs = [newSlice c fn rec b] := by
    obtain ⟨-, -, hself, -⟩ := coreIs_of_cores hcore hcores
    rw [coreAt, hself, Option.getD_some, hjobs, List.nil_append]
  have hteams : (copyIssued i c fn rec b u s).teams = s.teams := by rw [helse.rest]
  refine settleJobs_eq_self ?_ ?_
  all_goals
    rw [hjobs']
    intro j hj
    obtain rfl := List.mem_singleton.mp hj
  · exact mayStart_waits (by rw [hteams]; exact ht) hroles ((helse.groups m hm).trans hg) hteam hsame hrole hret hk
  · rfl

end Collective

/-! ## `CSEAL` (R193, R366) -/

theorem sealBatch_eq (g : Group) : let n := if g.batch.toNat = 2 ^ 32 - 1 then 1 else g.batch + 1
    sealBatch g = { g with
      batch := n
      copies := g.copies.map fun e => if e.sealed = true then e else { e with sealed := true, batch := n }
      tokens := g.tokens.map fun e => if e.2 = .unsealed then (e.1, .batch n) else e } := by
  have hlast : (g.batch == 0xFFFFFFFF#32) = decide (g.batch.toNat = 2 ^ 32 - 1) := by
    rw [Bool.eq_iff_iff, beq_iff_eq, decide_eq_true_eq, ← BitVec.toNat_inj]
    rfl
  simp only [sealBatch, hlast, decide_eq_true_eq, beq_iff_eq]
  rfl

theorem cseal_seals {c : Ctx} {s : State} (hr : Ready .cseal c s) : exec .cseal s = .next (onGroup (issued .cseal c s) c sealBatch) := hr.issue _

/-- Settles O40: the checks of a copy's record come before its issue; the copy that passes joins its group, and its slice the jobs of its core,
where it waits if a collective is not complete. -/
theorem copyIssueResults : Obligations.CopyIssueResults := by
  refine ⟨fun i fn b a u c s hcopy hr => ⟨fun e he h0 => ?_, fun hteam hclean => ⟨fun e va h => ?_, fun hcheck => ⟨fun hfull => ?_,
    fun hroom htoken => ⟨?_, fun hroles hjobs hcore hfn ⟨m, g, hg, hm, hgteam, hsame, hrole, hret, hk⟩ => ?_⟩⟩⟩⟩, fun c s hr => ?_⟩
  · subst he
    exact ⟨_, copy_badRecord hr hcopy h0, hr.fault _ _ _⟩
  · exact ⟨_, copy_badShape hr hcopy hteam hclean h, hr.fault _ _ _⟩
  · exact ⟨_, copy_waits hr hcopy hteam hclean hcheck hfull, waits_for_token hr.group _⟩
  · obtain ⟨g', hg', hlanes, hkept⟩ := copyIssued_group (i := i) (fn := fn) (b := b) (u := u) hr.group (readN s (at_ c (readS c.g a)) 64)
    obtain ⟨es, hes, hundone⟩ := onlyDone_settleJobs (copyIssued i c fn (readN s (at_ c (readS c.g a)) 64) b u s) c.g.core c.b.group g' hg'
    rw [hkept] at hundone hes
    exact ⟨_, _, copy_issues hr hcopy hteam hclean hcheck hroom htoken, hes, hlanes, rfl, hundone⟩
  · obtain ⟨helse, hcores⟩ := copyIssued_elsewhere (i := i) (b := b) (u := u) (c := c) (s := s) hfn (readN s (at_ c (readS c.g a)) 64)
    have hsettle := settleJobs_copyIssued (i := i) (b := b) (u := u) (rec := readN s (at_ c (readS c.g a)) 64) hr.team hroles hjobs hcore hfn hg hm
      hgteam hsame hrole hret hk
    have his := coreIs_of_cores hcore hcores
    rw [hjobs, List.nil_append] at his
    exact ⟨_, (copy_issues hr hcopy hteam hclean hcheck hroom htoken).trans (by rw [hsettle]), helse, his, copyIssued_group hr.group _⟩
  · obtain ⟨helse, hgroup⟩ := issued_then (i := .cseal) hr.group sealBatch
    refine ⟨_, _, cseal_seals hr, rfl, helse, _, hgroup, ?_, advance_length _ c _ c.g, fun k hk => advance_lanes _ c _ c.g k hk⟩
    rw [sealBatch_eq]
    rfl

end Sys2Proof.Laws
end

section
/-!
The copy engine's lines and batches: the next line of a slice filled in the scratchpad or stored to its tensor, and the token of a batch
that is complete (R152, R188, R189, R193, R195, R196).
-/

namespace Sys2Proof.Laws

open Sys2Proof.Machine Sys2Proof.Claims

/-! ## The items of a line -/

section Items

variable {a : DWord} {bs : List Byte} {kind : Nat}

theorem mem_itemsAt {x : DWord × Byte × Nat} (h : x ∈ itemsAt a bs kind) :
    ∃ i, i < bs.length ∧ x.1 = a + BitVec.ofNat 64 i ∧ x.2.2 = kind := by
  obtain ⟨i, hi⟩ := List.mem_iff_getElem?.mp h
  rw [itemsAt, mapFrom_getElem?, Nat.zero_add] at hi
  obtain ⟨b, hb, rfl⟩ := Option.map_eq_some_iff.mp hi
  exact ⟨i, (List.getElem?_eq_some_iff.mp hb).1, rfl, rfl⟩

theorem lineKind_itemsAt (a : DWord) (bs : List Byte) : lineKind (itemsAt a bs 0) = 0 := by
  have hnone : (itemsAt a bs 0).find? (fun x => x.2.2 != 0) = none := List.find?_eq_none.mpr fun x hx => by
    obtain ⟨_, _, _, hk⟩ := mem_itemsAt hx
    simp [hk]
  rw [lineKind, hnone]
  rfl

/-- Bytes at consecutive addresses are one run. -/
theorem bytesRuns_itemsAt (a : DWord) (hbs : bs ≠ []) (kind : Nat) : bytesRuns (itemsAt a bs kind) = [(a, bs)] := by
  have hfrom : ∀ (cs : List Byte) (b : Byte) (k : Nat), bytesRuns (mapFrom (fun i b => (a + BitVec.ofNat 64 i, b, kind)) k (b :: cs)) =
      [(a + BitVec.ofNat 64 k, b :: cs)] := by
    intro cs
    induction cs with
    | nil => exact fun _ _ => rfl
    | cons c cs ih =>
      intro b k
      have hnext : (a + BitVec.ofNat 64 (k + 1) == a + BitVec.ofNat 64 k + 1) = true := by
        rw [beq_iff_eq, BitVec.ofNat_add, BitVec.add_assoc]
        rfl
      rw [mapFrom, bytesRuns, ih c (k + 1)]
      simp only [hnext, if_true]
  obtain ⟨b, cs, rfl⟩ := List.exists_cons_of_ne_nil hbs
  rw [itemsAt, hfrom, BitVec.add_zero]

variable (hline : a.toNat % 128 + bs.length ≤ 128)
include hline

theorem line_of_mem_itemsAt {x : DWord × Byte × Nat} (h : x ∈ itemsAt a bs kind) : x.1.toNat / 128 = a.toNat / 128 := by
  obtain ⟨i, hi, hx, -⟩ := mem_itemsAt h
  have ha := a.isLt
  rw [hx, BitVec.toNat_add, BitVec.toNat_ofNat]
  omega

theorem lineBase_itemsAt (hbs : bs ≠ []) : lineBase (itemsAt a bs kind) = BitVec.ofNat 64 (a.toNat / 128 * 128) := by
  have hne : itemsAt a bs kind ≠ [] := by
    obtain ⟨b, cs, rfl⟩ := List.exists_cons_of_ne_nil hbs
    exact List.cons_ne_nil _ _
  obtain ⟨x, xs, hx⟩ := List.exists_cons_of_ne_nil hne
  rw [hx, lineBase, line_of_mem_itemsAt hline (hx ▸ List.mem_cons_self ..)]

end Items

section FirstLine

variable {j : CopyJob} {xs rest : List (DWord × Byte × Nat)} {n : Nat} (htodo : j.todo = xs ++ rest) (hne : xs ≠ [])
  (hxs : ∀ x ∈ xs, x.1.toNat / 128 = n) (hrest : ∀ x ∈ rest, x.1.toNat / 128 ≠ n)
include htodo hne hxs hrest

theorem firstLine_eq : firstLine j = xs := by
  obtain ⟨x, ys, rfl⟩ := List.exists_cons_of_ne_nil hne
  have hown : (x :: ys).filter (fun y => y.1.toNat / 128 == n) = x :: ys := List.filter_eq_self.mpr fun y hy => by simp [hxs y hy]
  have hother : rest.filter (fun y => y.1.toNat / 128 == n) = [] := List.filter_eq_nil_iff.mpr fun y hy => by simp [hrest y hy]
  rw [firstLine, htodo]
  show List.filter (fun y => y.1.toNat / 128 == x.1.toNat / 128) (x :: ys ++ rest) = x :: ys
  rw [hxs x (List.mem_cons_self ..), List.filter_append, hown, hother, List.append_nil]

theorem dropLine_eq : dropLine j = { j with todo := rest } := by
  obtain ⟨x, ys, rfl⟩ := List.exists_cons_of_ne_nil hne
  have hown : (x :: ys).filter (fun y => y.1.toNat / 128 != n) = [] := List.filter_eq_nil_iff.mpr fun y hy => by simp [hxs y hy]
  have hother : rest.filter (fun y => y.1.toNat / 128 != n) = rest := List.filter_eq_self.mpr fun y hy => by simp [hrest y hy]
  rw [dropLine, htodo]
  show { j with todo := List.filter (fun y => y.1.toNat / 128 != x.1.toNat / 128) (x :: ys ++ rest) } = { j with todo := rest }
  rw [hxs x (List.mem_cons_self ..), List.filter_append, hown, hother, List.nil_append]

end FirstLine

/-! ## The next line of a slice -/

/-- A core whose one slice has these items left. -/
def itemsLeft (j : CopyJob) (rest : List (DWord × Byte × Nat)) (k : Core) : Core := { k with jobs := [{ j with todo := rest }] }

section NextLine

variable {s : State} {core : Nat} {j : CopyJob} {tm : Team} {a : DWord} {bs : List Byte} {rest : List (DWord × Byte × Nat)}
  (h : NextBytes s core j tm a bs rest)
include h

theorem nextBytes_core : core < s.cores.length := by
  obtain ⟨hcore, -⟩ := h
  exact hcore

theorem nextBytes_jobs : (coreAt s core).jobs = [j] := by
  obtain ⟨-, hjobs, -⟩ := h
  exact hjobs

theorem nextBytes_ne : bs ≠ [] := by
  obtain ⟨-, -, -, -, -, -, hpos, -, -⟩ := h
  exact List.ne_nil_of_length_pos hpos

theorem nextBytes_line : a.toNat % 128 + bs.length ≤ 128 := by
  obtain ⟨-, -, -, -, -, -, -, hline, -⟩ := h
  exact hline

theorem itemsAt_ne : itemsAt a bs 0 ≠ [] := by
  obtain ⟨b, cs, rfl⟩ := List.exists_cons_of_ne_nil (nextBytes_ne h)
  exact List.cons_ne_nil _ _

/-- The line of an address that begins one. -/
theorem lineBase_aligned (hal : a.toNat % 128 = 0) : lineBase (itemsAt a bs 0) = a := by
  rw [lineBase_itemsAt (nextBytes_line h) (nextBytes_ne h), show a.toNat / 128 * 128 = a.toNat by omega, ofNat_toNat_64]

theorem firstLine_nextBytes : firstLine j = itemsAt a bs 0 := by
  have hne := itemsAt_ne h
  obtain ⟨-, -, -, -, -, htodo, -, hline, hother⟩ := h
  exact firstLine_eq htodo hne (fun x hx => line_of_mem_itemsAt hline hx) hother

theorem dropLine_nextBytes : dropLine j = { j with todo := rest } := by
  have hne := itemsAt_ne h
  obtain ⟨-, -, -, -, -, htodo, -, hline, hother⟩ := h
  exact dropLine_eq htodo hne (fun x hx => line_of_mem_itemsAt hline hx) hother

/-- What a line's event does: what it writes, and the line leaves its slice. -/
theorem nextLine_eq {out : Bool} (hout : (j.fn == 1#2) = out) {one : State → Nat → Team → CopyJob → State}
    (hcore : core < (one s core tm j).cores.length) (hjobs : (coreAt (one s core tm j) core).jobs = [j]) :
    nextLine core out one s = modCore (one s core tm j) core (itemsLeft j rest) := by
  have hdrop := dropLine_nextBytes h
  have hne := itemsAt_ne h
  obtain ⟨-, hjobs0, hstarted, hteam, hrest, htodo, -, -, -⟩ := h
  have hleft : j.todo ≠ [] := by rw [htodo]; exact List.append_ne_nil_of_left_ne_nil hne rest
  have hfirst : settleJobs s core = s := settleJobs_started hjobs0 hstarted hleft
  have hfind : (coreAt s core).jobs.find? (fun k => k.started && (k.fn == 1#2) == out) = some j := by
    rw [hjobs0, List.find?_cons_of_pos (by rw [hstarted, hout, beq_self_eq_true]; rfl)]
  have hmod : modJob (one s core tm j) core j dropLine = modCore (one s core tm j) core (itemsLeft j rest) :=
    modCore_congr (by simp [hjobs, hdrop, itemsLeft])
  have hafter : (coreAt (modCore (one s core tm j) core (itemsLeft j rest)) core).jobs = [{ j with todo := rest }] := by
    obtain ⟨-, -, hself, -⟩ := coreIs_of_cores hcore (t := modCore (one s core tm j) core (itemsLeft j rest)) rfl
    rw [coreAt, hself, Option.getD_some, itemsLeft]
  simp only [nextLine, hfirst, hfind, hteam, hmod]
  exact settleJobs_started hafter hstarted hrest

end NextLine

/-! ## A line filled in the scratchpad (R189, R196) -/

section Fill

variable {s : State} {core : Nat} {j : CopyJob} {tm : Team} {a : DWord} {bs : List Byte} {rest : List (DWord × Byte × Nat)}

theorem scratchKey_add (core off n : Nat) : scratchKey core (off + n) = scratchKey core off + n := by
  rw [scratchKey, scratchKey, key, key, Nat.add_assoc, Nat.add_assoc]

/-- The bytes of a line stand at consecutive keys: no line of the team window lies in both halves of a pier team's allocation. -/
theorem teamKey_line (h : tm.coreB ≠ none → tm.alloc / 2 % 128 = 0) (a : DWord) :
    teamKey tm (field a 23 0) = teamKey tm (field a 23 0 - a.toNat % 128) + a.toNat % 128 := by
  have hoff : field a 23 0 % 128 = a.toNat % 128 := by simp only [field]; omega
  cases hb : tm.coreB with
  | none =>
    simp only [teamKey, hb, ← scratchKey_add]
    congr 1
    omega
  | some cb =>
    have half := h (by rw [hb]; exact Option.some_ne_none cb)
    simp only [teamKey, hb]
    split_ifs
    · rw [← scratchKey_add]
      congr 1
      omega
    · omega
    · omega
    · rw [← scratchKey_add]
      congr 1
      omega

theorem field_lineBase (a : DWord) : field (BitVec.ofNat 64 (a.toNat / 128 * 128)) 23 0 = field a 23 0 - a.toNat % 128 := by
  have ha := a.isLt
  simp only [field, BitVec.toNat_ofNat]
  omega

variable (h : NextBytes s core j tm a bs rest)
include h

theorem fillOne_refused (hlive : lineLive s (teamKey tm (field a 23 0 - a.toNat % 128)) = true) :
    fillOne s core tm j = copyError s core tm.vc j 1 (BitVec.ofNat 64 (a.toNat / 128 * 128)).toNat := by
  simp [fillOne, firstLine_nextBytes h, lineBase_itemsAt (nextBytes_line h) (nextBytes_ne h), lineKind_itemsAt, field_lineBase, hlive]

theorem fillOne_fills (halves : tm.coreB ≠ none → tm.alloc / 2 % 128 = 0)
    (hfree : lineLive s (teamKey tm (field a 23 0 - a.toNat % 128)) = false) : let q := teamKey tm (field a 23 0 - a.toNat % 128)
    fillOne s core tm j = fillLine (writeN s (q + a.toNat % 128) bs) q j.rc j.seq := by
  simp [fillOne, firstLine_nextBytes h, lineBase_itemsAt (nextBytes_line h) (nextBytes_ne h), lineKind_itemsAt, field_lineBase, hfree,
    bytesRuns_itemsAt a (nextBytes_ne h), teamKey_line halves]

end Fill

/-- An error of a copy, whose record is masked, is kept for the token of a copy that names one, and nothing else changes. -/
theorem copyError_masked {s : State} {v : Nat} (hoff : typeOn (vchip s v).stream 2 = false) (core : Nat) (j : CopyJob) (kind line : Nat) :
    copyError s core v j kind line =
      modGroup s j.group fun g => if tracked g j.number then { g with copyErrs := g.copyErrs ++ [(j.number, kind)] } else g :=
  event_masked (s := modGroup s j.group _) hoff _

theorem tracked_iff (g : Group) (n : BitVec 32) : tracked g n = true ↔ ∃ e ∈ g.copies, e.number = n ∧ e.st ≠ 0 := by
  simp [tracked]

/-! ## A line of a copy out stored to its tensor (R152, R188) -/

theorem Served.coreCount {e : VChip → VChip} {s t : State} (h : Served e s t) : t.cores.length = s.cores.length := by
  simpa using congrArg List.length h.cores

/-- A core that holds other translations. -/
def setTags (y : List TlbTag) (k : Core) : Core := { k with tlb1 := y }

/-- Serving memory leaves every core as it was, but for the translations that it holds. -/
theorem Served.coreButTags {e : VChip → VChip} {s t : State} (h : Served e s t) (m : Nat) :
    ∃ y, t.cores[m]? = (s.cores[m]?).map fun k => { k with tlb1 := y } := by
  have hm : (t.cores[m]?).map withoutTags = (s.cores[m]?).map withoutTags := by rw [← List.getElem?_map, ← List.getElem?_map, h.cores]
  cases ht : t.cores[m]? with
  | none =>
    cases hs : s.cores[m]? with
    | none => exact ⟨[], rfl⟩
    | some k =>
      rw [ht, hs] at hm
      cases hm
  | some x =>
    cases hs : s.cores[m]? with
    | none =>
      rw [ht, hs] at hm
      cases hm
    | some k =>
      rw [ht, hs] at hm
      have hk : withoutTags x = withoutTags k := Option.some.inj hm
      have hx := congrArg (setTags x.tlb1) hk
      exact ⟨x.tlb1, congrArg some hx⟩

theorem arriveTeam_none {s : State} (h : ∀ u, u ∈ s.teams → u.counters = []) (va : DWord) (n : Nat) (o : Option Nat) (i : Nat) :
    arriveTeam va n o s i = s := by
  unfold arriveTeam
  split
  · rfl
  · rename_i u hu
    rw [h u (List.mem_of_getElem? hu)]
    exact ite_self _

/-- Where no team has an arrival counter nothing is counted. -/
theorem arrive_none {s : State} (h : ∀ u, u ∈ s.teams → u.counters = []) (v : Nat) (o : Option Nat) (va : DWord) (n : Nat) :
    arrive s v o va n = s :=
  List.foldl_fixed' (arriveTeam_none h va n o) _

section Out

variable {s : State} {core : Nat} {j : CopyJob} {tm : Team} {a : DWord} {bs : List Byte} {rest : List (DWord × Byte × Nat)} {l : Leaf}
  (h : NextBytes s core j tm a bs rest) (hal : a.toNat % 128 = 0) (hcan : canonical a = true) (htop : topByte a = 0)
  (ht : translate s tm.vc a (teamDie tm) = some l)
  (hpass : protectionFails s tm.vc l.entry { bytes := 128, write := true } = false)
include h hal hcan htop ht hpass

theorem outKind_none (hpage : leafBk l.entry = true ∨ j.rc = 0) : outKind s tm j.rc (itemsAt a bs 0) = 0 := by
  have hbase := lineBase_aligned h hal
  rcases hpage with hb | hrc
  · simp [outKind, hbase, lineKind_itemsAt, hcan, htop, ht, hpass, hb]
  · simp [outKind, hbase, lineKind_itemsAt, hcan, htop, ht, hpass, hrc]

theorem outOne_stores (hcount : ∀ u, u ∈ s.teams → u.counters = []) (hpage : Loose s l a) (hrc : leafBk l.entry = true ∨ j.rc = 0) :
    outOne s core tm j = writeN (holdLeaf s tm.vc a l (teamDie tm)) (pagedKey s tm.vc l.entry (leafAddr l a)) bs := by
  have hbase := lineBase_aligned h hal
  have hcounts : (j.rc != 0 && countable l.entry) = false := by
    rcases hrc with hb | hrc
    · simp [countable, hb]
    · simp [hrc]
  have hready : ready s tm.vc a (teamDie tm) = holdLeaf s tm.vc a l (teamDie tm) := by rw [ready, ht]; exact readyLine_loose hpage _ _
  have hstore : pagedStore (holdLeaf s tm.vc a l (teamDie tm)) tm.vc l (leafAddr l a) bs =
      writeN (holdLeaf s tm.vc a l (teamDie tm)) (pagedKey s tm.vc l.entry (leafAddr l a)) bs := by
    rw [pagedStore, if_pos (looseLeaf_of_loose hpage), pagedKey_loose hpage]
  have hteams : (writeN (holdLeaf s tm.vc a l (teamDie tm)) (pagedKey s tm.vc l.entry (leafAddr l a)) bs).teams = s.teams :=
    (served_holdLeaf (e := withoutErrors) s tm.vc a l (teamDie tm)).teams
  have hkind := outKind_none h hal hcan htop ht hpass hrc
  simp only [outOne, firstLine_nextBytes h, hbase, hkind, ht, hready, hcounts, bytesRuns_itemsAt a (nextBytes_ne h), hstore, List.foldl_cons,
    List.foldl_nil, bne_self_eq_false, Bool.false_eq_true, if_false, arrive_none (hteams ▸ hcount)]

end Out

/-! ## The token of a batch (R193, R195) -/

/-- The registers rs that were pending for token t have received x, with an error or without, and nothing else of the group has changed. -/
structure Landed (t : TokenOf) (x : DWord) (err : Bool) (rs : List (BitVec 6)) (g g' : Group) : Prop where
  rest : g' = { g with s := g'.s, spois := g'.spois, errTok := g'.errTok, tokens := g'.tokens }
  tokens : ∀ e, e ∈ g'.tokens ↔ e ∈ g.tokens ∧ ¬(e.1 ∈ rs ∧ e.2 = t)
  value : ∀ r, readS g' r = if r ∈ rs ∧ (r, t) ∈ g.tokens ∧ r ≠ 0 then x else readS g r
  error : ∀ r : BitVec 6, g'.errTok.getLsbD r.toNat = if r ∈ rs ∧ (r, t) ∈ g.tokens ∧ r ≠ 0 then err else g.errTok.getLsbD r.toNat

section Landed

variable {t : TokenOf} {r : BitVec 6} {x : DWord} {err : Bool} {rs rs' : List (BitVec 6)} {g g' g'' : Group}

theorem Landed.refl (g : Group) : Landed t x err [] g g :=
  ⟨rfl, fun e => by simp, fun r => by simp, fun r => by simp⟩

theorem Landed.trans (h : Landed t x err rs g g') (k : Landed t x err rs' g' g'') : Landed t x err (rs ++ rs') g g'' where
  rest := by
    have hk := k.rest
    rw [h.rest] at hk
    exact hk
  tokens e := by
    rw [k.tokens, h.tokens, List.mem_append]
    tauto
  value r := by
    simp only [k.value, h.value, h.tokens, List.mem_append]
    split_ifs <;> tauto
  error r := by
    simp only [k.error, h.error, h.tokens, List.mem_append]
    split_ifs <;> tauto

/-- A group of which a register is no longer pending for a token. -/
def notPending (t : TokenOf) (r : BitVec 6) (g : Group) : Group := { g with tokens := g.tokens.filter fun e => e != (r, t) }

theorem landScalar_pending (h : (r, t) ∈ g.tokens) : landScalar t r x err false g = { writeS (notPending t r g) r x with
    errTok := if err && r != 0#6 then putBit (writeS (notPending t r g) r x).errTok r.toNat true else (writeS (notPending t r g) r x).errTok } := by
  have hany : g.tokens.any (fun e => e == (r, t)) = true := List.any_eq_true.mpr ⟨_, h, beq_self_eq_true _⟩
  cases hset : err && r != 0#6
  · simp only [landScalar, hany, hset, Bool.not_true, Bool.false_eq_true, if_false]
    rfl
  · simp only [landScalar, hany, hset, Bool.not_true, Bool.false_eq_true, if_false, if_true]
    rfl

theorem landScalar_notPending (h : (r, t) ∉ g.tokens) : landScalar t r x err false g = g := by
  have hany : g.tokens.any (fun e => e == (r, t)) = false := List.any_eq_false.mpr fun e he => by
    rw [beq_iff_eq]
    rintro rfl
    exact h he
  simp [landScalar, hany]

/-- A register that is pending receives its value; one that is not stays as it is. -/
theorem landed_landScalar (t : TokenOf) (r : BitVec 6) (x : DWord) (err : Bool) (g : Group) :
    Landed t x err [r] g (landScalar t r x err false g) := by
  by_cases hr : (r, t) ∈ g.tokens
  · rw [landScalar_pending hr]
    refine ⟨?_, fun e => ?_, fun k => ?_, fun k => ?_⟩
    · rw [writeS_only (notPending t r g) r x]
      rfl
    · simp only [writeS_tokens, notPending, List.mem_filter, bne_iff_ne, List.mem_singleton, ne_eq, Prod.ext_iff]
    · show readS (writeS (notPending t r g) r x) k = _
      rw [readS_writeS]
      by_cases h0 : k = 0#6
      · simp [h0, readS_zero]
      · by_cases hk : k = r
        · subst hk
          simp [h0, hr]
        · simp [h0, hk]
          rfl
    · dsimp only
      have hcleared := writeS_errTok (notPending t r g) r x k.toNat
      by_cases hk : k = r
      · subst hk
        by_cases h0 : k = 0#6
        · simp [h0, writeS, notPending]
        · have hset : (k != 0#6) = true := bne_iff_ne.mpr h0
          have hpending : k ∈ [k] ∧ (k, t) ∈ g.tokens ∧ k ≠ 0 := ⟨List.mem_singleton_self k, hr, h0⟩
          rw [hset, Bool.and_true, if_pos hpending]
          cases err
          · rw [if_neg Bool.false_ne_true, hcleared, hset, beq_self_eq_true]
            exact Bool.and_false _
          · rw [if_pos rfl, putBit_getLsbD, if_pos ⟨rfl, k.isLt⟩]
      · have hne : k.toNat ≠ r.toNat := fun he => hk (BitVec.eq_of_toNat_eq he)
        have hother : ¬(k ∈ [r] ∧ (k, t) ∈ g.tokens ∧ k ≠ 0) := fun h => hk (List.mem_singleton.mp h.1)
        have hkept : (writeS (notPending t r g) r x).errTok.getLsbD k.toNat = g.errTok.getLsbD k.toNat := by
          rw [hcleared, beq_eq_false_iff_ne.mpr hne, Bool.and_false, Bool.not_false, Bool.and_true]
          rfl
        rw [if_neg hother]
        split_ifs
        · rw [putBit_getLsbD, if_neg fun h => hne h.1, hkept]
        · exact hkept
  · rw [landScalar_notPending hr]
    refine ⟨rfl, fun e => ?_, fun k => ?_, fun k => ?_⟩
    · refine ⟨fun he => ⟨he, ?_⟩, And.left⟩
      rintro ⟨h1, h2⟩
      obtain ⟨e1, e2⟩ := e
      obtain rfl := List.mem_singleton.mp h1
      subst h2
      exact hr he
    · rw [if_neg]
      rintro ⟨h1, h2, -⟩
      exact hr (List.mem_singleton.mp h1 ▸ h2)
    · rw [if_neg]
      rintro ⟨h1, h2, -⟩
      exact hr (List.mem_singleton.mp h1 ▸ h2)

theorem landed_foldl (t : TokenOf) (x : DWord) (err : Bool) (es : List (BitVec 6 × TokenOf)) (g : Group) :
    Landed t x err (es.map (·.1)) g (es.foldl (fun g e => landScalar t e.1 x err false g) g) := by
  induction es generalizing g with
  | nil => exact .refl g
  | cons e es ih => exact (landed_landScalar t e.1 x err g).trans (ih _)

end Landed

theorem batchToken_toNat (b : BitVec 32) {kind : Nat} (h : kind < 256) :
    (batchToken b kind).toNat = b.toNat + (if kind = 0 then 0 else 2 ^ 48 * kind + 2 ^ 63) := by
  have hb := b.isLt
  by_cases h0 : kind = 0
  · simp [batchToken, h0]
    omega
  · have hbits : 2 ^ 63 ||| kind * 2 ^ 48 = 2 ^ 48 * (2 ^ 15 + kind) := by
      rw [show 2 ^ 48 * (2 ^ 15 + kind) = 2 ^ 63 * 1 + kind * 2 ^ 48 by omega, Nat.two_pow_add_eq_or_of_lt (by omega) 1, Nat.mul_one]
    have hkind : (BitVec.twoPow 64 63 ||| BitVec.ofNat 64 (kind * 2 ^ 48)).toNat = 2 ^ 48 * (2 ^ 15 + kind) := by
      rw [BitVec.toNat_or, BitVec.toNat_ofNat, Nat.mod_eq_of_lt (by omega), ← hbits]
      rfl
    have hlow : (b.setWidth 64).toNat = b.toNat := by rw [BitVec.toNat_setWidth, Nat.mod_eq_of_lt (by omega)]
    rw [batchToken, if_pos (bne_iff_ne.mpr h0), BitVec.toNat_or, hkind, hlow, Nat.or_comm, ← Nat.two_pow_add_eq_or_of_lt (by omega), if_neg h0]
    omega

section Batch

variable {s : State} {n : Nat} {g : Group} {u : Team} {b : BitVec 32}

/-- The first kind of error among the copies of a group's oldest batch, 0 for none. -/
def batchKind (g : Group) : Nat :=
  ((g.copyErrs.find? fun x => (oldestBatch g).any fun e => e.number == x.1).map fun x => x.2).getD 0

/-- A batch whose copies are all done leaves its group, where no slice of the core is left and the record of the event is masked. -/
theorem batchComplete_completes (hg : s.groups[n]? = some g) (hu : s.teams[g.team]? = some u) (hjobs : (coreAt s g.core).jobs = [])
    (hoff : typeOn (vchip s u.vc).stream 12 = false) (hne : oldestBatch g ≠ [])
    (hdone : ∀ e, e ∈ oldestBatch g → e.done = true ∧ e.batch = b) :
    exec (.batchComplete n) s = .next (modGroup s n (completeBatch (oldestBatch g) b)) := by
  have hsettle : settleJobs s g.core = s := settleJobs_noJobs hjobs
  have hready : batchDone s g (oldestBatch g) = true := by
    have hall : (oldestBatch g).all (fun e => e.done) = true := List.all_eq_true.mpr fun e he => (hdone e he).1
    simp [batchDone, hne, hall, hu, hjobs]
  have hbatch : (((oldestBatch g).head?).map fun e => e.batch).getD 0 = b := by
    obtain ⟨e, es, he⟩ := List.exists_cons_of_ne_nil hne
    rw [he]
    exact (hdone e (he ▸ List.mem_cons_self ..)).2
  show execBatchComplete n s = _
  simp only [execBatchComplete, hg, hsettle, hready, hbatch, hu, Bool.not_true, Bool.false_eq_true, if_false]
  exact congrArg Host.Outcome.next (event_masked (s := modGroup s n _) hoff _)

/-- A group whose registers that were pending for a batch have received its token. -/
def withToken (b : BitVec 32) (g : Group) : Group := (g.tokens.filter fun e => e.2 == .batch b).foldl
  (fun g' e => landScalar (.batch b) e.1 (batchToken b (batchKind g)) (batchKind g != 0) false g') g

theorem completeBatch_eq (b : BitVec 32) (g : Group) : completeBatch (oldestBatch g) b g = { withToken b g with
    copies := (withToken b g).copies.filter fun e => !(oldestBatch g).any fun x => x.number == e.number
    copyErrs := (withToken b g).copyErrs.filter fun e => !(oldestBatch g).any fun x => x.number == e.1 } := rfl

/-- What is left of a group and of its registers once its oldest batch is complete. -/
theorem completeBatch_results (b : BitVec 32) (g : Group) : let g' := completeBatch (oldestBatch g) b g
    g' = { g with s := g'.s, spois := g'.spois, errTok := g'.errTok, copies := g'.copies, copyErrs := g'.copyErrs, tokens := g'.tokens } ∧
    (∀ e, e ∈ g'.copies ↔ e ∈ g.copies ∧ ∀ x, x ∈ oldestBatch g → x.number ≠ e.number) ∧
    (∀ e, e ∈ g'.tokens ↔ e ∈ g.tokens ∧ e.2 ≠ .batch b) ∧
    ∀ r : BitVec 6, if (r, TokenOf.batch b) ∈ g.tokens ∧ r ≠ 0
      then readS g' r = batchToken b (batchKind g) ∧ g'.errTok.getLsbD r.toNat = (batchKind g != 0)
      else readS g' r = readS g r ∧ g'.errTok.getLsbD r.toNat = g.errTok.getLsbD r.toNat := by
  have hlisted : ∀ r, (r, TokenOf.batch b) ∈ g.tokens → r ∈ (g.tokens.filter fun e => e.2 == .batch b).map (·.1) := fun r hr =>
    List.mem_map.mpr ⟨_, List.mem_filter.mpr ⟨hr, beq_self_eq_true _⟩, rfl⟩
  obtain ⟨hrest, htokens, hvalue, herror⟩ : Landed (.batch b) (batchToken b (batchKind g)) (batchKind g != 0)
    ((g.tokens.filter fun e => e.2 == .batch b).map (·.1)) g (withToken b g) := landed_foldl _ _ _ _ g
  have hcopies : (withToken b g).copies = g.copies := by rw [hrest]
  rw [completeBatch_eq]
  refine ⟨?_, fun e => ?_, fun e => (htokens e).trans (and_congr_right fun he => not_congr ⟨And.right, fun ht => ⟨?_, ht⟩⟩), fun r => ?_⟩
  · rw [hrest]
  · rw [hcopies, List.mem_filter]
    simp
  · exact hlisted _ (ht ▸ he)
  · split_ifs with hr
    · exact ⟨(hvalue r).trans (if_pos ⟨hlisted r hr.1, hr⟩), (herror r).trans (if_pos ⟨hlisted r hr.1, hr⟩)⟩
    · exact ⟨(hvalue r).trans (if_neg fun h => hr h.2), (herror r).trans (if_neg fun h => hr h.2)⟩

end Batch

/-! ## The events -/

/-- A line that is not live gets its bytes and its count, and every other byte and line stays (R189). -/
theorem fillLine_writeN (s : State) (q d : Nat) (bs : List Byte) (rc : BitVec 6) (seq : BitVec 4) (f : Core → Core) (core : Nat) :
    let t := modCore (fillLine (writeN s (q + d) bs) q rc seq) core f
    t = { s with mem := t.mem, poison := t.poison, lines := t.lines, cores := t.cores } ∧ readN t (q + d) bs.length = bs ∧
      (∀ k, k < q + d ∨ q + d + bs.length ≤ k → memRead t.mem k = memRead s.mem k) ∧
      lineAt t q = { f := true, rc := rc, seq := seq, err := false } ∧ ∀ k, k / 128 ≠ q / 128 → lineAt t k = lineAt s k := by
  have hline : ∀ k, lineAt (fillLine (writeN s (q + d) bs) q rc seq) k = if k / 128 = q / 128 then filled rc seq else lineAt s k :=
    fun k => lineAt_setLine _ q _ k
  refine ⟨rfl, readN_writeN_same s (q + d) rfl, fun k hk => memRead_writeN_outside s hk, (hline q).trans (if_pos rfl), fun k hk => ?_⟩
  exact (hline k).trans (if_neg hk)

section Lines

variable {s : State} {core : Nat} {j : CopyJob} {tm : Team} {a : DWord} {bs : List Byte} {rest : List (DWord × Byte × Nat)}
  (h : NextBytes s core j tm a bs rest)
include h

theorem coreIs_itemsLeft {u : State} (hu : u.cores = s.cores) :
    CoreIs core { coreAt s core with jobs := [{ j with todo := rest }] } s (modCore u core (itemsLeft j rest)) :=
  coreIs_of_cores (f := itemsLeft j rest) (nextBytes_core h) (congrArg (listMod _ core) hu)

theorem copyLineFill_eq (hfn : j.fn ≠ 1) (hu : (fillOne s core tm j).cores = s.cores) :
    exec (.copyLineFill core) s = .next (modCore (fillOne s core tm j) core (itemsLeft j rest)) := by
  have hat : coreAt (fillOne s core tm j) core = coreAt s core := by rw [coreAt, coreAt, hu]
  have hcore : core < (fillOne s core tm j).cores.length := by rw [hu]; exact nextBytes_core h
  exact congrArg Host.Outcome.next (nextLine_eq h (out := false) (by simpa using hfn) hcore (by rw [hat]; exact nextBytes_jobs h))

theorem copyOutLineWrite_eq (hfn : j.fn = 1) {e : VChip → VChip} (hu : Served e s (outOne s core tm j)) :
    exec (.copyOutLineWrite core) s = .next (modCore (outOne s core tm j) core (itemsLeft j rest)) := by
  have hcore : core < (outOne s core tm j).cores.length := by rw [hu.coreCount]; exact nextBytes_core h
  have hsame := congrArg Core.jobs (hu.core core)
  exact congrArg Host.Outcome.next (nextLine_eq h (out := true) (by simpa using hfn) hcore (hsame.trans (nextBytes_jobs h)))

theorem coreIsButTlb_itemsLeft {e : VChip → VChip} {u : State} (hu : Served e s u) :
    CoreIsButTlb core { coreAt s core with jobs := [{ j with todo := rest }] } s (modCore u core (itemsLeft j rest)) := by
  have hcore := nextBytes_core h
  refine ⟨hcore, (listMod_length _ _ _).trans hu.coreCount, ?_, fun m hm => ?_⟩
  · obtain ⟨y, hy⟩ := hu.coreButTags core
    refine ⟨y, ?_⟩
    show (listMod (itemsLeft j rest) core u.cores)[core]? = _
    rw [listMod_getElem?_self, hy, coreAt, List.getElem?_eq_getElem hcore]
    rfl
  · obtain ⟨y, hy⟩ := hu.coreButTags m
    exact ⟨y, (listMod_getElem?_ne _ hm _).trans hy⟩

/-- A line that is not live is filled (R189). -/
theorem copyLineFill_fills (hfn : j.fn ≠ 1) (halves : tm.coreB ≠ none → tm.alloc / 2 % 128 = 0)
    (hfree : lineLive s (teamKey tm (field a 23 0 - a.toNat % 128)) = false) :
    exec (.copyLineFill core) s = .next (modCore (fillLine (writeN s (teamKey tm (field a 23 0 - a.toNat % 128) + a.toNat % 128) bs)
      (teamKey tm (field a 23 0 - a.toNat % 128)) j.rc j.seq) core (itemsLeft j rest)) := by
  have hone := fillOne_fills h halves hfree
  rw [copyLineFill_eq h hfn (by rw [hone]; rfl), hone]

/-- A live line is refused (R196). -/
theorem copyLineFill_refuses (hfn : j.fn ≠ 1) (hlive : lineLive s (teamKey tm (field a 23 0 - a.toNat % 128)) = true)
    (hoff : typeOn (vchip s tm.vc).stream 2 = false) : exec (.copyLineFill core) s =
      .next (modCore (modGroup s j.group fun g => if tracked g j.number then { g with copyErrs := g.copyErrs ++ [(j.number, 1)] } else g) core
        (itemsLeft j rest)) := by
  have hone := (fillOne_refused h hlive).trans (copyError_masked hoff core j 1 _)
  rw [copyLineFill_eq h hfn (by rw [hone]; rfl), hone]

end Lines

/-! ## The statement -/

/-- Settles O41: what the next line of a slice does in the scratchpad and in its tensor, and what the end of a batch leaves in its token
registers. -/
theorem copyEngineEvents : Obligations.CopyEngineEvents := by
  refine ⟨fun s core j tm a bs rest h hfn htop hcan hfit halves => ⟨fun hfree => ?_, fun hlive hoff => ?_⟩,
    fun s core j tm a bs rest l h hfn hal hcan htop hcount ht hpage hpass => ?_,
    fun s n g u b kind hg hu hjobs hoff hne hdone hkind hlt => ?_⟩
  · obtain ⟨hrest, hmem⟩ := fillLine_writeN s (teamKey tm (field a 23 0 - a.toNat % 128)) (a.toNat % 128) bs j.rc j.seq (itemsLeft j rest) core
    exact ⟨_, copyLineFill_fills h hfn halves hfree, hrest, coreIs_itemsLeft h rfl, hmem⟩
  · refine ⟨_, copyLineFill_refuses h hfn hlive hoff, rfl, coreIs_itemsLeft h rfl, fun m => ?_⟩
    rw [modCore_groups, modGroup, listMod_getElem?]
    by_cases hm : m = j.group
    · simp only [hm, if_true, true_and, tracked_iff]
    · simp [hm]
  · have hloose : Loose s l a := hpage.imp_right fun ⟨hh, hp, hprot, _⟩ => ⟨hh, hp, hprot⟩
    have hrc : leafBk l.entry = true ∨ j.rc = 0 := hpage.imp_right fun ⟨_, _, _, hrc⟩ => hrc
    have hone := outOne_stores h hal hcan htop ht hpass hcount hloose hrc
    have hserved : Served withoutErrors s (outOne s core tm j) := by
      rw [hone]
      exact (served_holdLeaf s _ _ _ _).trans (served_writeN _ _ _)
    have hheld := holdLeaf_eq s tm.vc a l (teamDie tm)
    refine ⟨_, copyOutLineWrite_eq h hfn hserved, ?_, coreIsButTlb_itemsLeft h hserved, ?_, fun k hk => ?_⟩
    · rw [hone, hheld]
      rfl
    · rw [hone]
      exact readN_writeN_same _ _ rfl
    · rw [modCore_mem, hone, memRead_writeN_outside _ hk, hheld]
  · obtain ⟨hrest, hcopies, htokens, hregs⟩ := completeBatch_results b g
    have hkind' : batchKind g = kind := by
      rw [hkind, batchKind]
      cases g.copyErrs.find? fun x => (oldestBatch g).any fun e => e.number == x.1 <;> rfl
    refine ⟨_, _, batchComplete_completes hg hu hjobs hoff hne hdone, Elsewhere.modGroup n s _, ?_, hrest, hcopies, htokens, fun r => ?_⟩
    · rw [modGroup, listMod_getElem?_self, hg, Option.map_some]
    · have hr := hregs r
      rw [hkind'] at hr
      by_cases hp : (r, TokenOf.batch b) ∈ g.tokens ∧ r ≠ 0
      · rw [if_pos hp] at hr ⊢
        exact ⟨by rw [hr.1, batchToken_toNat b hlt], hr.2.trans (Bool.eq_iff_iff.mpr (by simp))⟩
      · rwa [if_neg hp] at hr ⊢

end Sys2Proof.Laws
end

section
/-!
The matrix engine at issue: the outcomes of `MMA`, `MRELS`, `EPI` and `MSTAT` (R206, R214, R217, R221, R375, R376, R408, R412, R413).
-/

namespace Sys2Proof.Laws

open Sys2Proof.Machine Sys2Proof.Claims

/-! ## Changes of an engine by an instruction -/

section Engines

variable {i : Instr} {c : Ctx} {s : State} (hcore : c.g.core < s.cores.length)
include hcore

/-- The core of the issuing group in a state of the same cores whose engine has then changed. -/
theorem coreIs_engine {u : State} (hu : u.cores = s.cores) (f : Engine → Engine) :
    CoreIs c.g.core { coreAt s c.g.core with engine := f (engineOf c s) } s (modEngine u c.g.core f) :=
  coreIs_of_cores (f := fun k => { k with engine := f k.engine }) hcore (congrArg (listMod _ c.g.core) hu)

/-- An instruction that has issued and then changed the engine only. -/
theorem engineBecomes_issued (hg : s.groups[c.b.group]? = some c.g) (f : Engine → Engine) :
    EngineBecomes i c (f (engineOf c s)) s (modEngine (issued i c s) c.g.core f) :=
  ⟨onlyMoves_of_cores hg rfl, coreIs_engine hcore (by rw [(Elsewhere.issued i c s).rest]) f⟩

end Engines

/-! ## `MMA` (R206, R408) -/

/-- The job of an `MMA` without gathered rows. -/
def plainJob (c : Ctx) (a : BitVec 6) : MmaJob := { group := c.b.group, block := blockBytes c.g a, gather := none, poisoned := none }

section Mma

variable {l : BitVec 4} {a : BitVec 6} {c : Ctx} {s : State} (hr : Ready (.mma l a) c s)
include hr

theorem mma_illegal (h : (mmaBlock (blockBytes c.g a)).illegal (c.vc.features.getLsbD 2) (engineOf c s).latch.isSome = true) :
    exec (.mma l a) s = .next (fault s c cIllegal c.b.mask 0) :=
  (hr.issue _).trans (congrArg Host.Outcome.next (if_pos h))

variable (hlegal : (mmaBlock (blockBytes c.g a)).illegal (c.vc.features.getLsbD 2) (engineOf c s).latch.isSome = false)
include hlegal

theorem mma_odd (h : (mmaBlock (blockBytes c.g a)).odd = true) : exec (.mma l a) s = .next (fault s c cMisaligned c.b.mask 0) :=
  (hr.issue _).trans (congrArg Host.Outcome.next ((if_neg (Bool.eq_false_iff.mp hlegal)).trans (if_pos h)))

variable (heven : (mmaBlock (blockBytes c.g a)).odd = false)
include heven

theorem mma_beyond (h : (mmaBlock (blockBytes c.g a)).beyond c.t.alloc = true) :
    exec (.mma l a) s = .next (fault s c cBounds c.b.mask 0) :=
  (hr.issue _).trans (congrArg Host.Outcome.next
    ((if_neg (Bool.eq_false_iff.mp hlegal)).trans ((if_neg (Bool.eq_false_iff.mp heven)).trans (if_pos h))))

variable (hinside : (mmaBlock (blockBytes c.g a)).beyond c.t.alloc = false)
include hinside

/-- An `MMA` that passes the checks of its block. -/
theorem mma_checked : exec (.mma l a) s = .next (if decide (4 ≤ (engineOf c s).queue.length) = true then stallFor s c .wrongEngine
    else queueMma (.mma l a) c (mmaBlock (blockBytes c.g a)) (plainJob c a) s) :=
  (hr.issue _).trans (congrArg Host.Outcome.next
    ((if_neg (Bool.eq_false_iff.mp hlegal)).trans ((if_neg (Bool.eq_false_iff.mp heven)).trans (if_neg (Bool.eq_false_iff.mp hinside)))))

theorem mma_waits (h : 4 ≤ (engineOf c s).queue.length) : exec (.mma l a) s = .next (stallFor s c .wrongEngine) := by
  rw [mma_checked hr hlegal heven hinside, if_pos (decide_eq_true h)]

theorem mma_queues (h : (engineOf c s).queue.length < 4) (htile : (mmaBlock (blockBytes c.g a)).ix = false) : exec (.mma l a) s =
    .next (modEngine (issued (.mma l a) c s) c.g.core fun e => { e with queue := e.queue ++ [plainJob c a] }) := by
  have hnone : (mmaBlock (blockBytes c.g a)).indexLines = [] := by rw [MmaBlock.indexLines, htile]; rfl
  rw [mma_checked hr hlegal heven hinside, if_neg fun hfull => Nat.not_le.mpr h (of_decide_eq_true hfull), queueMma, htile, hnone]
  rfl

end Mma

/-! ## `MRELS` and `EPI` (R214, R217, R375, R376, R412) -/

section Mrels

variable {l : BitVec 4} {c : Ctx} {s : State} (hr : Ready (.mrels l) c s)
include hr

theorem mrels_waits (h : 4 ≤ (engineOf c s).claims.length) : exec (.mrels l) s = .next (stallFor s c .wrongEngine) :=
  (hr.issue _).trans (congrArg Host.Outcome.next (if_pos (decide_eq_true h)))

theorem mrels_claims (h : (engineOf c s).claims.length < 4) : exec (.mrels l) s =
    .next (modEngine (issued (.mrels l) c s) c.g.core fun e => { e with claims := e.claims ++ [release c] }) :=
  (hr.issue _).trans (congrArg Host.Outcome.next (if_neg fun hfull => Nat.not_le.mpr h (of_decide_eq_true hfull)))

end Mrels

section Epi

variable {l : BitVec 4} {a : BitVec 6} {c : Ctx} {s : State} (hr : Ready (.epi l a) c s)
include hr

theorem epi_fails {e : BitVec 8} {va : DWord} (h : (epiBlock (blockBytes c.g a)).check c.t.alloc = some (e, va)) :
    exec (.epi l a) s = .next (fault s c e c.b.mask va) := by
  show execEpi l a s = _
  rw [execEpi, hr.issue]
  simp only [h]

variable (hcheck : (epiBlock (blockBytes c.g a)).check c.t.alloc = none)
include hcheck

theorem epi_waits (h : 4 ≤ (engineOf c s).claims.length) : exec (.epi l a) s = .next (stallFor s c .wrongEngine) := by
  show execEpi l a s = _
  rw [execEpi, hr.issue]
  simp only [hcheck]
  exact congrArg Host.Outcome.next (if_pos (decide_eq_true h))

/-- An `EPI` that reads no vector and writes to the team window, which does not make its item's work visible outside (R39). -/
theorem epi_claims (h : (engineOf c s).claims.length < 4) (hscl : (epiBlock (blockBytes c.g a)).scl = 0)
    (hbias : (epiBlock (blockBytes c.g a)).bias = 0) (hdest : topByte (epiBlock (blockBytes c.g a)).dest = 0xFF)
    (hofmt : (epiBlock (blockBytes c.g a)).ofmt ≠ 4) : exec (.epi l a) s = .next (modEngine (issued (.epi l a) c s) c.g.core fun e =>
      { e with claims := e.claims ++ [plainEpilogue c (blockBytes c.g a)] }) := by
  have hroom : ¬4 ≤ (coreAt s c.g.core).engine.claims.length := Nat.not_le.mpr h
  show execEpi l a s = _
  rw [execEpi, hr.issue]
  simp [hcheck, hroom, hscl, hbias, hdest, hofmt, loadFault, loadWords, withdrawIdem, plainEpilogue]

end Epi

/-! ## `MSTAT` (R221, R413) -/

section Mstat

/-- The number that the fields of R221 make up, none of which overruns its place. -/
theorem mstatValue_toNat {e : Engine} (hhead : e.head < 4) (htail : e.tail < 4) (hclosed : e.closed < 8) (hclaims : e.claims.length < 8)
    (herr : e.err < 256) : (mstatValue e).toNat = e.head + 4 * e.tail + 16 * e.closed + (if e.opened = true then 2 ^ 7 else 0) +
      (if e.running ≠ none ∨ e.queue ≠ [] ∨ e.jobRunning = true then 2 ^ 8 else 0) + 2 ^ 9 * e.claims.length + 2 ^ 16 * e.freed.toNat +
      (if e.err = 0 then 0 else 2 ^ 48 * e.err + 2 ^ 63) := by
  have hbusy : (e.running.isSome || !e.queue.isEmpty || e.jobRunning) = true ↔ e.running ≠ none ∨ e.queue ≠ [] ∨ e.jobRunning = true := by
    simp [Option.isSome_iff_ne_none, or_assoc]
  have hfreed := e.freed.isLt
  rw [mstatValue, BitVec.toNat_ofNat]
  simp only [hbusy, bne_iff_ne, ite_not]
  split_ifs <;> omega

/-- The issuing group with the state of the engine in a register, which is marked where the engine has an error. -/
def withStatus (d : BitVec 6) (e : Engine) (g : Group) : Group :=
  { writeS g d (mstatValue e) with errTok := putBit (writeS g d (mstatValue e)).errTok d.toNat (e.err != 0) }

variable {l : BitVec 4} {d : BitVec 6} {c : Ctx} {s : State}

theorem mstat_reads (hr : Ready (.mstat l d) c s) : exec (.mstat l d) s =
    .next (modEngine (onGroup (issued (.mstat l d) c s) c (withStatus d (engineOf c s))) c.g.core fun e => { e with err := 0 }) := hr.issue _

/-- `MSTAT` never names s0 (R413). -/
theorem mstat_register (hr : Ready (.mstat l d) c s) : d ≠ 0 := by
  have hlegal := hr.lawful
  simp only [legal, Bool.and_eq_true] at hlegal
  obtain ⟨⟨⟨⟨hformed, -⟩, -⟩, -⟩, -⟩ := hlegal
  exact bne_iff_ne.mp hformed

theorem withStatus_results (hd : d ≠ 0) (e : Engine) (g : Group) : let g' := withStatus d e g
    readS g' d = mstatValue e ∧ (∀ r, r ≠ d → readS g' r = readS g r) ∧
      (∀ r, g'.errTok.getLsbD r = if r = d.toNat then decide (e.err ≠ 0) else g.errTok.getLsbD r) ∧
      g' = { g with s := g'.s, spois := g'.spois, errTok := g'.errTok } := by
  refine ⟨(readS_writeS g d d _).trans ((if_neg hd).trans (if_pos rfl)), fun r hne => (readS_writeS g d r _).trans ?_, fun r => ?_, ?_⟩
  · by_cases h0 : r = 0#6
    · rw [if_pos h0, h0, readS_zero]
    · rw [if_neg h0, if_neg hne]
  · rw [withStatus, putBit_getLsbD, writeS_errTok]
    by_cases hrd : r = d.toNat
    · simp [hrd, d.isLt, bne, beq_eq_decide]
    · simp [hrd]
  · rw [withStatus, writeS_only]

end Mstat

/-! ## The statement -/

/-- Settles O42: an `MMA` that passes the checks of its block joins the queue, `MRELS` and `EPI` make a claim, each unless four are there,
and `MSTAT` reads the engine and clears its error. -/
theorem matrixIssueResults : Obligations.MatrixIssueResults := by
  refine ⟨fun l a c s hr hcore => ⟨fun hbad => ?_, fun hlegal hodd => ?_, fun hlegal heven hpast => ?_, fun hlegal heven hinside =>
    ⟨fun hfull => ?_, fun hroom htile => ?_⟩⟩, fun l c s hr hcore => ⟨fun hfull => ?_, fun hroom => ?_⟩,
    fun l a c s hr hcore => ⟨fun e va h => ?_, fun hcheck hfull => ?_, fun hcheck hroom hscl hbias hdest hofmt => ?_⟩,
    fun l d c s hr hcore hhead htail hclosed hclaims herr => ?_⟩
  · exact ⟨_, mma_illegal hr hbad, hr.fault _ _ _⟩
  · exact ⟨_, mma_odd hr hlegal hodd, hr.fault _ _ _⟩
  · exact ⟨_, mma_beyond hr hlegal heven hpast, hr.fault _ _ _⟩
  · exact ⟨_, mma_waits hr hlegal heven hinside hfull, waits_stallFor hr.group _⟩
  · exact ⟨_, mma_queues hr hlegal heven hinside hroom htile, engineBecomes_issued hcore hr.group _⟩
  · exact ⟨_, mrels_waits hr hfull, waits_stallFor hr.group _⟩
  · exact ⟨_, mrels_claims hr hroom, engineBecomes_issued hcore hr.group _⟩
  · exact ⟨_, epi_fails hr h, hr.fault _ _ _⟩
  · exact ⟨_, epi_waits hr hcheck hfull, waits_stallFor hr.group _⟩
  · exact ⟨_, epi_claims hr hcheck hroom hscl hbias hdest hofmt, engineBecomes_issued hcore hr.group _⟩
  · obtain ⟨helse, hgroup⟩ := issued_then (i := .mstat l d) hr.group (withStatus d (engineOf c s))
    obtain ⟨hvalue, hother, hmark, hkept⟩ := withStatus_results (mstat_register hr) (engineOf c s)
      (advance (.mstat l d) c (coreAt s c.g.core).clock c.g)
    refine ⟨_, _, mstat_reads hr, elsewhere_withCores helse _, coreIs_engine hcore (by rw [helse.rest]) _,
      mstatValue_toNat hhead htail hclosed hclaims herr, _, hgroup, hvalue, hother, hmark, ?_, ?_⟩
    · rw [hkept]
      rfl
    · rw [hkept]
      exact ⟨advance_length _ c _ c.g, fun k hk => advance_lanes _ c _ c.g k hk⟩

end Sys2Proof.Laws
end

section
/-!
An epilogue job whose team's allocation does not begin at a scratchpad line: the line of its first words is that of other words too,
which a live line there keeps from being written (R189, R219, R220).
-/

namespace Sys2Proof.Laws

open Sys2Proof.Machine Sys2Proof.Claims

/-! ## The items of a job that writes words -/

section Items

variable {p : EpiBlock} {ys : List (Nat × BitVec 3)} (hword : p.ofmt = 0)
include hword

theorem epiItems_words : (epiItems p ys).1 = (mapFrom (fun k (c : Nat × BitVec 3) =>
    itemsAt (p.dest + BitVec.ofNat 64 (k / 128 * p.dstr + k % 128 * 4)) (toLeBytes 4 c.1) 0) 0
      (ys.map fun y => epiConvert p.ofmt y.1)).flatten := by
  simp [epiItems, outBytes, hword]

theorem mem_epiItems {x : DWord × Byte × Nat} (hx : x ∈ (epiItems p ys).1) :
    ∃ k i, k < ys.length ∧ i < 4 ∧ x.1 = p.dest + BitVec.ofNat 64 (k / 128 * p.dstr + k % 128 * 4 + i) := by
  rw [epiItems_words hword] at hx
  obtain ⟨xs, hxs, hx⟩ := List.mem_flatten.mp hx
  obtain ⟨k, hk⟩ := List.mem_iff_getElem?.mp hxs
  rw [mapFrom_getElem?, Nat.zero_add] at hk
  obtain ⟨c, hc, rfl⟩ := Option.map_eq_some_iff.mp hk
  obtain ⟨i, hi, hxi, -⟩ := mem_itemsAt hx
  obtain ⟨hlt, -⟩ := List.getElem?_eq_some_iff.mp hc
  rw [List.length_map] at hlt
  rw [toLeBytes_length] at hi
  exact ⟨k, i, hlt, hi, by rw [hxi, BitVec.add_assoc, ← BitVec.ofNat_add]⟩

theorem epiItems_head (hne : ys ≠ []) : ∃ b xs, (epiItems p ys).1 = (p.dest, b, 0) :: xs := by
  obtain ⟨y, ys, rfl⟩ := List.exists_cons_of_ne_nil hne
  have hfirst : p.dest + BitVec.ofNat 64 (0 / 128 * p.dstr + 0 % 128 * 4) + BitVec.ofNat 64 0 = p.dest := by simp
  exact ⟨_, _, (epiItems_words hword).trans (congrArg (fun a => (a, _, 0) :: _) hfirst)⟩

end Items

/-! ## What the lines of a job leave as it was -/

/-- The virtual chips and every byte below a key are as they were. -/
def KeptBelow (q : Nat) (s t : State) : Prop := t.vchips = s.vchips ∧ ∀ k, k < q → memRead t.mem k = memRead s.mem k

/-- An item of the team window whose byte lies at key q or above. -/
def ItemFrom (tm : Team) (q : Nat) (x : DWord × Byte × Nat) : Prop := topByte x.1 = 0xFF ∧ q ≤ teamKey tm (field x.1 23 0)

section Lines

variable {q core : Nat} {tm : Team} {s t u : State} {rc : BitVec 6} {xs : List (DWord × Byte × Nat)}

theorem KeptBelow.refl (q : Nat) (s : State) : KeptBelow q s s := ⟨rfl, fun _ _ => rfl⟩

theorem KeptBelow.trans (h : KeptBelow q s t) (k : KeptBelow q t u) : KeptBelow q s u :=
  ⟨k.1.trans h.1, fun j hj => (k.2 j hj).trans (h.2 j hj)⟩

theorem KeptBelow.masked (h : KeptBelow q s t) {v type : Nat} (hoff : typeOn (vchip s v).stream type = false) :
    typeOn (vchip t v).stream type = false := by
  rw [vchip, h.1]
  exact hoff

/-- A run begins at one of its items. -/
theorem mem_bytesRuns {r : DWord × List Byte} (h : r ∈ bytesRuns xs) : ∃ x ∈ xs, x.1 = r.1 := by
  induction xs generalizing r with
  | nil => cases h
  | cons x xs ih =>
    obtain ⟨a, b, n⟩ := x
    have hrest : ∀ r ∈ bytesRuns xs, ∃ x ∈ (a, b, n) :: xs, x.1 = r.1 := fun r hr =>
      have ⟨y, hy, he⟩ := ih hr
      ⟨y, List.mem_cons_of_mem _ hy, he⟩
    rw [bytesRuns] at h
    split at h
    next a' bs rs hruns =>
      split_ifs at h
      · rcases List.mem_cons.mp h with rfl | h
        · exact ⟨_, List.mem_cons_self .., rfl⟩
        · exact hrest r (by rw [hruns]; exact List.mem_cons_of_mem _ h)
      · rcases List.mem_cons.mp h with rfl | h
        · exact ⟨_, List.mem_cons_self .., rfl⟩
        · exact hrest r (by rwa [hruns])
    next =>
      obtain rfl := List.mem_singleton.mp h
      exact ⟨_, List.mem_cons_self .., rfl⟩

theorem keptBelow_runs {rs : List (DWord × List Byte)} (h : ∀ r ∈ rs, q ≤ teamKey tm (field r.1 23 0)) (s : State) :
    KeptBelow q s (rs.foldl (fun s r => writeN s (teamKey tm (field r.1 23 0)) r.2) s) := by
  induction rs generalizing s with
  | nil => exact .refl q s
  | cons r rs ih =>
    have hr := h r (List.mem_cons_self ..)
    have hone : KeptBelow q s (writeN s (teamKey tm (field r.1 23 0)) r.2) :=
      ⟨rfl, fun k hk => memRead_writeN_outside s (.inl (Nat.lt_of_lt_of_le hk hr))⟩
    exact hone.trans (ih (fun r hr => h r (List.mem_cons_of_mem _ hr)) _)

theorem topByte_lineStart (a : DWord) : topByte (BitVec.ofNat 64 (a.toNat / 128 * 128)) = topByte a := by
  have ha := a.isLt
  simp only [topByte, field, BitVec.toNat_ofNat]
  omega

/-- The line of a list's first item. -/
theorem lineBase_own (x : DWord × Byte × Nat) (xs : List (DWord × Byte × Nat)) :
    lineBase ((x :: xs).filter fun y => y.1.toNat / 128 == x.1.toNat / 128) = BitVec.ofNat 64 (x.1.toNat / 128 * 128) := by
  rw [List.filter_cons, if_pos (beq_self_eq_true _), lineBase]

/-- An engine error whose record is masked sets the error state only (R220). -/
theorem engineError_masked {v : Nat} (hoff : typeOn (vchip s v).stream 2 = false) (kind line : Nat) :
    engineError s core v kind line = modEngine s core fun e => { e with err := if e.err == 0 then kind else e.err } :=
  event_masked (s := modEngine s core _) hoff _

/-- A live line of the team window is refused (R189, R220). -/
theorem epiLine_refused (hoff : typeOn (vchip s tm.vc).stream 2 = false) (htop : topByte (lineBase xs) = 0xFF)
    (hlive : lineLive s (teamKey tm (field (lineBase xs) 23 0)) = true) : KeptBelow q s (epiLine core tm rc s xs) := by
  have hline : epiLine core tm rc s xs = engineError s core tm.vc 1 (lineBase xs).toNat := by simp [epiLine, htop, hlive]
  rw [hline, engineError_masked hoff]
  exact .refl q s

theorem keptBelow_epiLine (hoff : typeOn (vchip s tm.vc).stream 2 = false) (hne : xs ≠ []) (h : ∀ x ∈ xs, ItemFrom tm q x) :
    KeptBelow q s (epiLine core tm rc s xs) := by
  have htop : topByte (lineBase xs) = 0xFF := by
    obtain ⟨x, ys, rfl⟩ := List.exists_cons_of_ne_nil hne
    exact (topByte_lineStart x.1).trans (h x (List.mem_cons_self ..)).1
  by_cases hlive : lineLive s (teamKey tm (field (lineBase xs) 23 0)) = true
  · exact epiLine_refused hoff htop hlive
  · have hline : epiLine core tm rc s xs = fillLine ((bytesRuns xs).foldl (fun s r => writeN s (teamKey tm (field r.1 23 0)) r.2) s)
        (teamKey tm (field (lineBase xs) 23 0)) rc 0 := by simp [epiLine, htop, hlive]
    rw [hline]
    refine keptBelow_runs (fun r hr => ?_) s
    obtain ⟨x, hx, he⟩ := mem_bytesRuns hr
    exact he ▸ (h x hx).2

theorem keptBelow_epiLines (n : Nat) (hoff : typeOn (vchip s tm.vc).stream 2 = false) (h : ∀ x ∈ xs, ItemFrom tm q x) :
    KeptBelow q s (epiLines core tm rc n xs s) := by
  induction n generalizing s xs with
  | zero => exact .refl q s
  | succ n ih =>
    cases xs with
    | nil => exact .refl q s
    | cons x xs =>
      have hne : (x :: xs).filter (fun y => y.1.toNat / 128 == x.1.toNat / 128) ≠ [] :=
        List.ne_nil_of_mem (List.mem_filter.mpr ⟨List.mem_cons_self .., beq_self_eq_true _⟩)
      have hfirst : KeptBelow q s (epiLine core tm rc s ((x :: xs).filter fun y => y.1.toNat / 128 == x.1.toNat / 128)) :=
        keptBelow_epiLine hoff hne fun y hy => h y (List.mem_filter.mp hy).1
      exact hfirst.trans (ih (hfirst.masked hoff) fun y hy => h y (List.mem_filter.mp hy).1)

/-- The line of a job's first word is refused, and what its other lines write lies at a key or above. -/
theorem runJob_refusesFirst {e : Engine} {c : Claim} (hoff : typeOn (vchip s tm.vc).stream 2 = false)
    (hword : (epiBlock c.block).ofmt = 0) (htop : topByte (epiBlock c.block).dest = 0xFF)
    (hlive : lineLive s (teamKey tm (field (BitVec.ofNat 64 ((epiBlock c.block).dest.toNat / 128 * 128)) 23 0)) = true)
    (hrest : ∀ k i, k < 16384 → i < 4 → let a := (epiBlock c.block).dest + BitVec.ofNat 64 (k / 128 * (epiBlock c.block).dstr + k % 128 * 4 + i)
      a.toNat / 128 ≠ (epiBlock c.block).dest.toNat / 128 → topByte a = 0xFF ∧ q ≤ teamKey tm (field a 23 0)) :
    KeptBelow q s (runJob s core tm e c) := by
  unfold runJob
  extract_lets p ys x
  have hlen : ys.length = 16384 := by rw [List.length_map, List.length_range]
  have hmem : ∀ y ∈ x.1, y.1.toNat / 128 ≠ p.dest.toNat / 128 → ItemFrom tm q y := fun y hy hline => by
    obtain ⟨k, i, hk, hi, he⟩ := mem_epiItems hword hy
    rw [ItemFrom, he]
    exact hrest k i (hlen ▸ hk) hi (he ▸ hline)
  obtain ⟨b, xs, hx⟩ := epiItems_head (ys := ys) hword (List.ne_nil_of_length_pos (by rw [hlen]; decide))
  have hitems : x.1 = (p.dest, b, 0) :: xs := hx
  rw [hitems] at hmem ⊢
  clear_value x
  have hbase := lineBase_own (p.dest, b, 0) xs
  have hfirst : KeptBelow q s (epiLine core tm (BitVec.ofNat 6 p.rc) (setMflags s c.group x.2)
      (((p.dest, b, 0) :: xs).filter fun y => y.1.toNat / 128 == p.dest.toNat / 128)) :=
    epiLine_refused (s := setMflags s c.group x.2) hoff (by rw [hbase]; exact (topByte_lineStart _).trans htop) (by rw [hbase]; exact hlive)
  refine hfirst.trans (keptBelow_epiLines xs.length (hfirst.masked hoff) fun y hy => ?_)
  obtain ⟨hy, hline⟩ := List.mem_filter.mp hy
  exact hmem y hy (by simpa using hline)

end Lines

/-- The end of a running job whose record is masked. -/
theorem epilogueJobComplete_completes {s : State} {core : Nat} {e : Engine} {tm : Team} {c : Claim} {cs : List Claim}
    (hheld : heldEngine s core = some (e, tm)) (hclaims : e.claims = c :: cs) (hrun : e.jobRunning = true) (hepi : c.epi = true)
    (hoff : typeOn (vchip (runJob s core tm e c) tm.vc).stream 12 = false) :
    exec (.epilogueJobComplete core) s = .next (modEngine (runJob s core tm e c) core freeSlot) := by
  show execEpilogueJobComplete core s = _
  simp only [execEpilogueJobComplete, hheld, hclaims, hrun, hepi, Bool.and_self, Bool.not_true, Bool.false_eq_true, if_false]
  exact congrArg Host.Outcome.next (event_masked (s := modEngine _ core freeSlot) hoff _)

/-! ## A job of an allocation that begins in the middle of a line -/

/-- The block of a job that writes words from offset 64 of the team window on, row after row. -/
def midLineBlock : List Byte := toLeBytes 16 0 ++ toLeBytes 8 0xFF00000000000040 ++ toLeBytes 4 512 ++ List.replicate 36 0

/-- Its claim, with a bias of 1.0 in column 0. -/
def midLineClaim : Claim := { group := 0, epi := true, block := midLineBlock, scl := [], bias := [0x3F800000#32] }

/-- Its team, whose allocation begins 64 bytes into a scratchpad line. -/
def midLineTeam : Team := { placedTeam with alloc := 0x20000, baseA := 64 }

/-- The line in which the allocation begins is live (F = 1 and RC = 1), and no other line is. -/
def midLineState : State := { State.reset with
  teams := [midLineTeam]
  cores := [{ Core.init with engine := { Engine.init with holder := some 0, claims := [midLineClaim], closed := 1, jobRunning := true } }]
  lines := [(key .scratch 0 / 128, { f := true, rc := 1, seq := 0, err := false })] }

theorem scratch_key (off : Nat) : key .scratch off = 3 * 2 ^ 60 + off := rfl

theorem teamKey_midLine (off : Nat) : teamKey midLineTeam off = key .scratch (64 + off) := by
  show 3 * 2 ^ 60 + (0 * 2 ^ 40 + (64 + off)) = 3 * 2 ^ 60 + (64 + off)
  omega

theorem lineLive_midLine {k : Nat} (h : k / 128 ≠ key .scratch 0 / 128) : lineLive midLineState k = false := by
  have hfresh : lineAt midLineState k = freshLine := by
    show (tget [(key .scratch 0 / 128, _)] (k / 128)).getD freshLine = freshLine
    rw [tget, if_neg (Ne.symm h)]
    rfl
  rw [lineLive, lineSeen, hfresh]
  rfl

theorem midLine_dest : (epiBlock midLineClaim.block).dest = 0xFF00000000000040#64 := by decide

theorem midLine_dstr : (epiBlock midLineClaim.block).dstr = 512 := by decide

/-- Where the job's bytes lie. -/
theorem midLine_address {j : Nat} (hj : j < 65536) : let a := 0xFF00000000000040#64 + BitVec.ofNat 64 j
    topByte a = 0xFF ∧ teamKey midLineTeam (field a 23 0) = key .scratch (128 + j) ∧
      (a.toNat / 128 ≠ (0xFF00000000000040#64).toNat / 128 → 64 ≤ j) := by
  have hoff : field (0xFF00000000000040#64 + BitVec.ofNat 64 j) 23 0 = 64 + j := by
    simp only [field, BitVec.toNat_add, BitVec.toNat_ofNat]
    omega
  refine ⟨?_, by rw [hoff, teamKey_midLine, ← Nat.add_assoc], ?_⟩
  all_goals
    simp only [topByte, field, BitVec.toNat_add, BitVec.toNat_ofNat]
    omega

/-- The line at offset 0 of the team window, with the job's first 16 words, is refused, and the other lines lie behind it. -/
theorem runJob_midLine : KeptBelow (key .scratch 192) midLineState
    (runJob midLineState 0 midLineTeam (coreAt midLineState 0).engine midLineClaim) := by
  refine runJob_refusesFirst rfl (by decide) (by decide) (by decide) fun k i hk hi => ?_
  rw [midLine_dest, midLine_dstr]
  intro a hline
  obtain ⟨htop, hkey, hnext⟩ := midLine_address (j := k / 128 * 512 + k % 128 * 4 + i) (by omega)
  have hbehind := hnext hline
  refine ⟨htop, hkey ▸ ?_⟩
  rw [scratch_key, scratch_key]
  omega

/-- Refutes O43: no hypothesis of its last clause makes an allocation begin at a scratchpad line. Where one begins 64 bytes into a line that is
live, the 16 words that the job writes at offsets 64 to 127 of the team window lie in a line that is not live, but their line of the window
begins at offset 0, in the live one, so it is refused and the words are not written. Allocations that the machine places begin at lines. -/
theorem not_matrixEngineEvents : ¬Obligations.MatrixEngineEvents := by
  rintro ⟨-, -, hclaims⟩
  obtain ⟨-, -, hepilogue⟩ := hclaims midLineState 0 midLineClaim [] (by decide) rfl
  obtain ⟨t, hexec, -, -, -, -, -, hwords⟩ := hepilogue rfl rfl midLineTeam rfl
  have hoff : typeOn (vchip midLineState midLineTeam.vc).stream 12 = false := by decide
  have ht : t = modEngine (runJob midLineState 0 midLineTeam (coreAt midLineState 0).engine midLineClaim) 0 freeSlot :=
    Host.Outcome.next.inj (hexec.symm.trans (epilogueJobComplete_completes rfl rfl rfl rfl (runJob_midLine.masked hoff)))
  obtain ⟨-, hbelow⟩ := runJob_midLine
  have hkept : ∀ i, i < 4 → memRead t.mem (key .scratch 128 + i) = memRead midLineState.mem (key .scratch 128 + i) := fun i hi => by
    rw [ht, modEngine_mem]
    refine hbelow _ ?_
    rw [scratch_key, scratch_key]
    omega
  have hzero : readLe t (key .scratch 128) 4 = 0 := (congrArg leBytes (memReadN_congr hkept)).trans rfl
  simp only [midLine_dest, midLine_dstr] at hwords
  have hfree : ∀ n, n < 16384 →
      lineLive midLineState (teamKey midLineTeam (field (0xFF00000000000040#64 + BitVec.ofNat 64 (n / 128 * 512 + n % 128 * 4)) 23 0)) = false := by
    intro n hn
    obtain ⟨-, hkey, -⟩ := midLine_address (j := n / 128 * 512 + n % 128 * 4) (by omega)
    rw [hkey]
    refine lineLive_midLine ?_
    rw [scratch_key, scratch_key]
    omega
  have hword := hwords (by decide) (by decide) (by decide) (by decide) (by decide) (by decide) (by decide) (by decide) rfl hfree hoff 0 (by decide)
  have hone : readLe t (key .scratch 128) 4 = 0x3F800000 := hword.trans (by decide +kernel)
  omega

end Sys2Proof.Laws
end

section
/-!
The checks of pod instructions: what keeps one from its effect, in the order of R239 (R236 to R240, R256, R259).
-/

namespace Sys2Proof.Laws

open Sys2Proof.Machine Sys2Proof.Claims

/-! ## Lists of checks -/

theorem firstCheck_cons (x : Check) (xs : List Check) : firstCheck (x :: xs) = x.or (firstCheck xs) := by
  cases x <;> rfl

theorem firstCheck_append (xs ys : List Check) : firstCheck (xs ++ ys) = (firstCheck xs).or (firstCheck ys) := by
  induction xs with
  | nil => rfl
  | cons x xs ih => rw [List.cons_append, firstCheck_cons, firstCheck_cons, ih, Option.or_assoc]

theorem require_pass {ok : Bool} (h : ok = true) (cause : BitVec 8) (a : DWord) : require ok cause a = none := if_pos h

theorem require_fail {ok : Bool} (h : ok = false) (cause : BitVec 8) (a : DWord) : require ok cause a = some (cause, a) :=
  if_neg (Bool.eq_false_iff.mp h)

/-! ## Pod instructions as they issue (R259) -/

section Issue

variable {i : Instr} {checks : Ctx → List Check} {eff : Ctx → State → State} {c : Ctx} {s : State} (hr : Ready i c s)
include hr

theorem podIssue_paused (h : (guestOf s c.t.vc).paused = true) : podIssue i checks eff s = .next (stallFor s c .allowance) :=
  (hr.issue _).trans (congrArg Host.Outcome.next (if_pos h))

variable (hopen : (guestOf s c.t.vc).paused = false)
include hopen

theorem podIssue_fails {cause : BitVec 8} {a : DWord} (h : firstCheck (checks c) = some (cause, a)) :
    podIssue i checks eff s = .next (fault s c cause c.b.mask a) := by
  refine (hr.issue _).trans (congrArg Host.Outcome.next ((if_neg (Bool.eq_false_iff.mp hopen)).trans ?_))
  rw [h]

theorem podIssue_passes (h : firstCheck (checks c) = none) : podIssue i checks eff s = .next (eff c s) := by
  refine (hr.issue _).trans (congrArg Host.Outcome.next ((if_neg (Bool.eq_false_iff.mp hopen)).trans ?_))
  rw [h]

end Issue

/-! ## The entry (checks 3 to 5) -/

/-- The peer that check 5 finds absent. -/
theorem peersThere_iff {c : Ctx} {s : State} {ch : BitVec 5} :
    PeersThere c s ch ↔ (capPeers (guestOf s c.t.vc) (capAt c ch)).any (peerAbsent (guestOf s c.t.vc)) = false :=
  by simp [PeersThere]

section Entry

variable {c : Ctx} {s : State} {ch : BitVec 5} {ok : Bool} {rest : List Check}

theorem entryChecks_invalid (h : ¬EntryValid c s ch) :
    firstCheck (entryChecks (guestOf s c.t.vc) (capAt c ch) ok ++ rest) = some (0x0C, 0) := by
  rw [entryChecks, require_fail (by simpa [EntryValid] using h)]
  rfl

variable (hvalid : EntryValid c s ch)
include hvalid

theorem entryChecks_refused (h : ok = false) :
    firstCheck (entryChecks (guestOf s c.t.vc) (capAt c ch) ok ++ rest) = some (0x0D, 0) := by
  rw [entryChecks, require_pass (by simpa [EntryValid] using hvalid), require_fail h]
  rfl

variable (hok : ok = true)
include hok

theorem entryChecks_absent (h : ¬PeersThere c s ch) :
    firstCheck (entryChecks (guestOf s c.t.vc) (capAt c ch) ok ++ rest) = some (0x0B, 0) := by
  rw [entryChecks, require_pass (by simpa [EntryValid] using hvalid), require_pass hok, require_fail (by simpa [peersThere_iff] using h)]
  rfl

theorem entryChecks_pass (h : PeersThere c s ch) :
    firstCheck (entryChecks (guestOf s c.t.vc) (capAt c ch) ok ++ rest) = firstCheck rest := by
  rw [entryChecks, require_pass (by simpa [EntryValid] using hvalid), require_pass hok,
    require_pass (by rw [peersThere_iff.mp h, Bool.not_false])]
  rfl

end Entry

/-- What a channel instruction asks of its entry, as it is tested. -/
def allows (c : Ctx) : Instr → Bool
  | .psend _ a ch _ => if topByte (readS c.g a) == 0x01 then (capKind (capAt c ch) == 0 && capGT (capAt c ch)) || (capKind (capAt c ch) == 4 && capPOOL (capAt c ch))
    else (decide (capKind (capAt c ch) ≤ 2) && capSD (capAt c ch)) || (capKind (capAt c ch) == 4 && capPOOL (capAt c ch))
  | .pput _ _ ch _ => decide (capKind (capAt c ch) ≤ 1) && capPT (capAt c ch)
  | .pget _ _ ch _ => capKind (capAt c ch) == 0 && capGT (capAt c ch)
  | .pmcast _ _ ch _ => capKind (capAt c ch) == 3 && capMC (capAt c ch)
  | .patom _ _ ch _ => (capKind (capAt c ch) == 0 && capAT (capAt c ch)) || (capKind (capAt c ch) == 4 && capPOOL (capAt c ch))
  | .ppool _ _ ch _ => capKind (capAt c ch) == 4 && capPOOL (capAt c ch)
  | .phint ch => decide (capKind (capAt c ch) ≤ 2)
  | _ => false

theorem allows_iff {i : Instr} {ch : BitVec 5} (h : OnChannel i ch) (c : Ctx) : allows c i = true ↔ Allowed i c := by
  obtain ⟨l, a, u, rfl | rfl | rfl | rfl | rfl | rfl⟩ | rfl := h
  · simp only [allows, Allowed, beq_iff_eq, Instr.psend.injEq, reduceCtorEq, false_and, exists_false, or_false]
    constructor
    · intro hok
      refine ⟨l, a, ch, u, ⟨rfl, rfl, rfl, rfl⟩, ?_⟩
      split_ifs at hok ⊢ <;> simpa using hok
    · rintro ⟨_, _, _, _, ⟨rfl, rfl, rfl, rfl⟩, hok⟩
      split_ifs at hok ⊢ <;> simpa using hok
  all_goals simp [allows, Allowed]

/-- Every channel instruction checks its entry first (R239). -/
theorem exec_onChannel {i : Instr} {ch : BitVec 5} (h : OnChannel i ch) (s : State) : ∃ (rest : Ctx → List Check) (eff : Ctx → State → State),
    exec i s = podIssue i (fun c => entryChecks (guestOf s c.t.vc) (capAt c ch) (allows c i) ++ rest c) eff s := by
  obtain ⟨l, a, u, rfl | rfl | rfl | rfl | rfl | rfl⟩ | rfl := h
  · show ∃ rest eff, execPsend l a ch u s = _
    simp only [execPsend, psendChecks, List.append_assoc]
    exact ⟨_, _, rfl⟩
  · show ∃ rest eff, execPput l a ch u s = _
    simp only [execPput, List.append_assoc]
    exact ⟨_, _, rfl⟩
  · show ∃ rest eff, execPget l a ch u s = _
    rw [execPget]
    exact ⟨_, _, rfl⟩
  · show ∃ rest eff, execPmcast l a ch u s = _
    rw [execPmcast]
    exact ⟨_, _, rfl⟩
  · show ∃ rest eff, execPatom l a ch u s = _
    rw [execPatom]
    exact ⟨_, _, rfl⟩
  · show ∃ rest eff, execPpool l a ch u s = _
    simp only [execPpool, List.append_assoc]
    exact ⟨_, _, rfl⟩
  · refine ⟨fun _ => [], ?_⟩
    show ∃ eff, execPhint ch s = _
    simp only [execPhint, List.append_nil]
    exact ⟨_, rfl⟩

/-! ## Remote addresses and windows (checks 6, 7 and 9) -/

section Remote

variable {c : Ctx} {ch : BitVec 5} {a : DWord}

theorem podAddrCheck_nonCanonical (h : canonical a = false) : podAddrCheck (capAt c ch) a = some (0x04, a) := by
  rw [podAddrCheck, h]
  rfl

theorem podAddrCheck_elsewhere (hc : canonical a = true) (h : ¬RemoteOk c ch a) : podAddrCheck (capAt c ch) a = some (0x0D, a) := by
  have h' : topByte a = 1 → field a 49 40 ≠ capVcn (capAt c ch) := fun ht hv => h ⟨hc, ht, hv⟩
  by_cases ht : topByte a = 1
  · simp [podAddrCheck, hc, ht, h' ht, cChannelPermission]
  · simp [podAddrCheck, hc, ht, cChannelPermission]

theorem podAddrCheck_pass (h : RemoteOk c ch a) : podAddrCheck (capAt c ch) a = none := by
  obtain ⟨hc, ht, hv⟩ := h
  simp [podAddrCheck, hc, ht, hv]

theorem both_decided {p q : Prop} [Decidable p] [Decidable q] : (decide p && decide q) = true ↔ p ∧ q := by
  rw [Bool.and_eq_true, decide_eq_true_eq, decide_eq_true_eq]

theorem windowCheck_fail {n : Nat} (h : ¬InWindow c ch a n) : windowCheck (capAt c ch) a n = some (0x08, a) :=
  require_fail (Bool.eq_false_iff.mpr fun hin => h (both_decided.mp hin)) _ _

theorem windowCheck_pass {n : Nat} (h : InWindow c ch a n) : windowCheck (capAt c ch) a n = none :=
  require_pass (both_decided.mpr h) _ _

theorem alignCheck_fail {n : Nat} (h : a.toNat % n ≠ 0) : alignCheck a n = some (0x07, a) := require_fail (beq_eq_false_iff_ne.mpr h) _ _

theorem alignCheck_pass {n : Nat} (h : a.toNat % n = 0) : alignCheck a n = none := require_pass (beq_iff_eq.mpr h) _ _

/-- The first check of a list of them that fails: those of the elements before it pass. -/
theorem firstCheck_map_first {f : Nat → Check} {ks : List Nat} (hs : ks.Pairwise (· < ·)) {j : Nat} (hj : j ∈ ks) (hbad : f j ≠ none)
    (hfirst : ∀ k, k ∈ ks → f k ≠ none → j ≤ k) : firstCheck (ks.map f) = f j := by
  induction ks with
  | nil => exact absurd hj List.not_mem_nil
  | cons k ks ih =>
    obtain ⟨hlow, hs⟩ := List.pairwise_cons.mp hs
    rw [List.map_cons, firstCheck_cons]
    rcases List.mem_cons.mp hj with rfl | hj
    · obtain ⟨x, hx⟩ := Option.ne_none_iff_exists'.mp hbad
      rw [hx, Option.some_or]
    · have hk : f k = none := by
        by_contra hne
        exact absurd (hfirst k List.mem_cons_self hne) (Nat.not_le.mpr (hlow j hj))
      rw [hk, Option.none_or]
      exact ih hs hj fun m hm => hfirst m (List.mem_cons_of_mem _ hm)

theorem firstCheck_map_none {f : Nat → Check} {ks : List Nat} (h : ∀ k, k ∈ ks → f k = none) : firstCheck (ks.map f) = none := by
  induction ks with
  | nil => rfl
  | cons k ks ih =>
    rw [List.map_cons, firstCheck_cons, h k List.mem_cons_self, Option.none_or]
    exact ih fun m hm => h m (List.mem_cons_of_mem _ hm)

theorem mem_lanesIn_iff_runs {k : Nat} : k ∈ lanesIn c.g c.b.mask ↔ runs c k := by
  rw [lanesIn, List.mem_filter, List.mem_range]
  rfl

/-- The check of the word of one lane. -/
def wordCheck (c : Ctx) (ch : BitVec 5) (a : DWord) (k : Nat) : Check :=
  require (decide ((capAt c ch).wbase.toNat ≤ podOff a + 4 * k) &&
    decide (podOff a + 4 * k + 4 ≤ (capAt c ch).wbase.toNat + (capAt c ch).wsize.toNat)) cBounds (a + BitVec.ofNat 64 (4 * k))

theorem laneWindow_eq (c : Ctx) (ch : BitVec 5) (a : DWord) :
    laneWindow c (capAt c ch) a = firstCheck ((lanesIn c.g c.b.mask).map (wordCheck c ch a)) := by
  rw [laneWindow, laneOffs, List.map_map]
  rfl

theorem wordCheck_fail {k : Nat} (h : ¬WordIn c ch a k) : wordCheck c ch a k = some (0x08, a + BitVec.ofNat 64 (4 * k)) :=
  require_fail (Bool.eq_false_iff.mpr fun hin => h (both_decided.mp hin)) _ _

theorem wordCheck_pass {k : Nat} (h : WordIn c ch a k) : wordCheck c ch a k = none :=
  require_pass (both_decided.mpr h) _ _

theorem laneWindow_fail {j : Nat} (hj : runs c j) (hbad : ¬WordIn c ch a j) (hfirst : ∀ k, runs c k → ¬WordIn c ch a k → j ≤ k) :
    laneWindow c (capAt c ch) a = some (0x08, a + BitVec.ofNat 64 (4 * j)) := by
  rw [laneWindow_eq, firstCheck_map_first (lanesIn_ascending _ _) (mem_lanesIn_iff_runs.mpr hj) (by rw [wordCheck_fail hbad]; nofun)
    fun k hk hne => hfirst k (mem_lanesIn_iff_runs.mp hk) fun hin => hne (wordCheck_pass hin), wordCheck_fail hbad]

theorem laneWindow_pass (h : ∀ k, runs c k → WordIn c ch a k) : laneWindow c (capAt c ch) a = none := by
  rw [laneWindow_eq]
  exact firstCheck_map_none fun k hk => wordCheck_pass (h k (mem_lanesIn_iff_runs.mp hk))

end Remote

/-! ## Room on the channel (R240) -/

theorem hasAllowance_iff {c : Ctx} {ch : BitVec 5} {n : Nat} : hasAllowance (capAt c ch) n = true ↔ HasRoom c ch n := by
  rw [hasAllowance, Bool.or_eq_true, beq_iff_eq, decide_eq_true_eq]
  rfl

theorem laneOffs_length (c : Ctx) (base : Nat) : (laneOffs c base).length = (active c).length := by
  rw [laneOffs, List.length_map]
  rfl

/-! ## `PPUT` and `PGET` at their checks -/

section Through

variable {i : Instr} {c : Ctx} {s : State} {ch : BitVec 5} (h : Through i c s ch)
include h

theorem ready_of_through : Ready i c s := h.1.1

theorem unpaused_of_through : (guestOf s c.t.vc).paused = false := h.1.2

/-- An instruction that has passed its entry's checks comes to its own. -/
theorem firstCheck_entry (hch : OnChannel i ch) (rest : List Check) :
    firstCheck (entryChecks (guestOf s c.t.vc) (capAt c ch) (allows c i) ++ rest) = firstCheck rest := by
  obtain ⟨-, hvalid, hallowed, hpeers⟩ := h
  exact entryChecks_pass hvalid ((allows_iff hch c).mpr hallowed) hpeers

end Through

section Words

theorem onChannel_pput (l : BitVec 4) (a : BitVec 6) (ch : BitVec 5) (d : BitVec 6) : OnChannel (.pput l a ch d) ch := .inl ⟨l, a, d, .inr (.inl rfl)⟩

theorem onChannel_pget (l : BitVec 4) (a : BitVec 6) (ch : BitVec 5) (d : BitVec 6) : OnChannel (.pget l a ch d) ch :=
  .inl ⟨l, a, d, .inr (.inr (.inl rfl))⟩

variable {l : BitVec 4} {a : BitVec 6} {ch : BitVec 5} {d : BitVec 6} {c : Ctx} {s : State}

/-- The checks of `PPUT` from 6 on (R434). -/
def pputRest (c : Ctx) (ch : BitVec 5) (x : DWord) : List Check :=
  (if capKind (capAt c ch) == 0 then [podAddrCheck (capAt c ch) x, laneWindow c (capAt c ch) x] else []) ++ [alignCheck x 4]

/-- The checks of `PGET` from 6 on (R428). -/
def pgetRest (c : Ctx) (ch : BitVec 5) (x : DWord) : List Check :=
  [podAddrCheck (capAt c ch) x, windowCheck (capAt c ch) x (4 * c.g.width), alignCheck x 4]

theorem pput_fails (h : Through (.pput l a ch d) c s ch) {cause : BitVec 8} {x : DWord}
    (hx : firstCheck (pputRest c ch (readS c.g a)) = some (cause, x)) : exec (.pput l a ch d) s = .next (fault s c cause c.b.mask x) := by
  show execPput l a ch d s = _
  rw [execPput]
  refine podIssue_fails (ready_of_through h) (unpaused_of_through h) (Eq.trans ?_ hx)
  rw [List.append_assoc]
  exact firstCheck_entry h (onChannel_pput l a ch d) _

theorem pget_fails (h : Through (.pget l a ch d) c s ch) {cause : BitVec 8} {x : DWord}
    (hx : firstCheck (pgetRest c ch (readS c.g a)) = some (cause, x)) : exec (.pget l a ch d) s = .next (fault s c cause c.b.mask x) := by
  show execPget l a ch d s = _
  rw [execPget]
  exact podIssue_fails (ready_of_through h) (unpaused_of_through h) ((firstCheck_entry h (onChannel_pget l a ch d) _).trans hx)

theorem pputRest_window (hwindow : capKind (capAt c ch) = 0 → RemoteOk c ch (readS c.g a) ∧ ∀ k, runs c k → WordIn c ch (readS c.g a) k) :
    firstCheck (pputRest c ch (readS c.g a)) = alignCheck (readS c.g a) 4 := by
  rw [pputRest]
  by_cases hk : capKind (capAt c ch) = 0
  · obtain ⟨hremote, hwords⟩ := hwindow hk
    simp [hk, podAddrCheck_pass hremote, laneWindow_pass hwords, firstCheck_cons, firstCheck]
  · simp [hk, firstCheck_cons, firstCheck]

theorem pgetRest_window (hremote : RemoteOk c ch (readS c.g a)) (hwindow : InWindow c ch (readS c.g a) (4 * c.g.width)) :
    firstCheck (pgetRest c ch (readS c.g a)) = alignCheck (readS c.g a) 4 := by
  rw [pgetRest, podAddrCheck_pass hremote, windowCheck_pass hwindow]
  simp [firstCheck_cons, firstCheck]

theorem pput_waits (h : Through (.pput l a ch d) c s ch)
    (hwindow : capKind (capAt c ch) = 0 → RemoteOk c ch (readS c.g a) ∧ ∀ k, runs c k → WordIn c ch (readS c.g a) k)
    (halign : (readS c.g a).toNat % 4 = 0) (hroom : ¬HasRoom c ch (4 * (active c).length)) :
    exec (.pput l a ch d) s = .next (stallFor s c .allowance) := by
  show execPput l a ch d s = _
  rw [execPput]
  refine (podIssue_passes (ready_of_through h) (unpaused_of_through h) ?_).trans (congrArg Host.Outcome.next (if_pos ?_))
  · rw [List.append_assoc]
    exact (firstCheck_entry h (onChannel_pput l a ch d) _).trans ((pputRest_window hwindow).trans (alignCheck_pass halign))
  · rw [laneOffs_length, Bool.not_eq_true', Bool.eq_false_iff, Ne, hasAllowance_iff]
    exact hroom

theorem pget_waits (h : Through (.pget l a ch d) c s ch) (hremote : RemoteOk c ch (readS c.g a))
    (hwindow : InWindow c ch (readS c.g a) (4 * c.g.width)) (halign : (readS c.g a).toNat % 4 = 0)
    (hroom : ¬HasRoom c ch (4 * (active c).length)) : exec (.pget l a ch d) s = .next (stallFor s c .allowance) := by
  show execPget l a ch d s = _
  rw [execPget]
  refine (podIssue_passes (ready_of_through h) (unpaused_of_through h) ?_).trans (congrArg Host.Outcome.next (if_pos ?_))
  · exact (firstCheck_entry h (onChannel_pget l a ch d) _).trans ((pgetRest_window hremote hwindow).trans (alignCheck_pass halign))
  · rw [laneOffs_length, Bool.not_eq_true', Bool.eq_false_iff, Ne, hasAllowance_iff]
    exact hroom

end Words

/-- Settles O44: every channel instruction checks its entry first, and `PPUT` and `PGET` then their address, its window and its alignment, and
the room on their channel last. -/
theorem channelChecks : Obligations.ChannelChecks := by
  refine ⟨fun i ch c s hch hr => ?_, fun l a ch d c s h => ⟨fun hk => ⟨fun hcan => ?_, fun hcan hno => ?_, fun hremote j hj hbad hfirst => ?_⟩,
    fun hwindow => ⟨fun hodd => ?_, fun heven hroom => ?_⟩⟩, fun l a ch d c s h => ⟨fun hcan => ?_, fun hcan hno => ?_, fun hremote hout => ?_,
    fun hremote hin hodd => ?_, fun hremote hin heven hroom => ?_⟩⟩
  · obtain ⟨rest, eff, hexec⟩ := exec_onChannel hch s
    rw [hexec]
    refine ⟨fun hpaused => ⟨_, podIssue_paused hr hpaused, waits_stallFor hr.group _⟩, fun hopen => ⟨fun hbad => ?_, fun hvalid hno => ?_,
      fun hvalid hallowed hgone => ?_⟩⟩
    · exact ⟨_, podIssue_fails hr hopen (entryChecks_invalid hbad), hr.fault _ _ _⟩
    · exact ⟨_, podIssue_fails hr hopen (entryChecks_refused hvalid (Bool.eq_false_iff.mpr fun h => hno ((allows_iff hch c).mp h))), hr.fault _ _ _⟩
    · exact ⟨_, podIssue_fails hr hopen (entryChecks_absent hvalid ((allows_iff hch c).mpr hallowed) hgone), hr.fault _ _ _⟩
  · refine ⟨_, pput_fails h ?_, (ready_of_through h).fault _ _ _⟩
    simp [pputRest, hk, podAddrCheck_nonCanonical hcan, firstCheck]
  · refine ⟨_, pput_fails h ?_, (ready_of_through h).fault _ _ _⟩
    simp [pputRest, hk, podAddrCheck_elsewhere hcan hno, firstCheck]
  · refine ⟨_, pput_fails h ?_, (ready_of_through h).fault _ _ _⟩
    simp [pputRest, hk, podAddrCheck_pass hremote, laneWindow_fail hj hbad hfirst, firstCheck]
  · exact ⟨_, pput_fails h ((pputRest_window hwindow).trans (alignCheck_fail hodd)), (ready_of_through h).fault _ _ _⟩
  · exact ⟨_, pput_waits h hwindow heven hroom, waits_stallFor (ready_of_through h).group _⟩
  · refine ⟨_, pget_fails h ?_, (ready_of_through h).fault _ _ _⟩
    rw [pgetRest, podAddrCheck_nonCanonical hcan]
    rfl
  · refine ⟨_, pget_fails h ?_, (ready_of_through h).fault _ _ _⟩
    rw [pgetRest, podAddrCheck_elsewhere hcan hno]
    rfl
  · refine ⟨_, pget_fails h ?_, (ready_of_through h).fault _ _ _⟩
    rw [pgetRest, podAddrCheck_pass hremote, windowCheck_fail hout]
    rfl
  · exact ⟨_, pget_fails h ((pgetRest_window hremote hin).trans (alignCheck_fail hodd)), (ready_of_through h).fault _ _ _⟩
  · exact ⟨_, pget_waits h hremote hin heven hroom, waits_stallFor (ready_of_through h).group _⟩

end Sys2Proof.Laws
end

section
/-!
`PARRV` over bytes in a ring window of the team: an allocation that reaches one does not make them the team's own (R134, R239, R424).
-/

namespace Sys2Proof.Laws

open Sys2Proof.Machine Sys2Proof.Claims

/-- s8 to s11 name a counter's word at offset 0, one byte at the first offset of the ring window, and a target of 1. -/
def ringGroup : Group :=
  { placedGroup 0 with s := ((((Vector.replicate 64 0).set 8 0xFF00000000000000).set 9 0xFF00000000800000).set 10 1).set 11 1 }

/-- A team that holds the engine, and whose allocation reaches its ring window. -/
def ringTeam : Team := { placedTeam with alloc := 2 ^ 24, holdsA := true }

def ringChip : VChip := { VChip.init with used := true }

def ringBundle : Bundle := { group := 0, pc := placedPc, mask := liveMask (placedGroup 0), broadcast := true, other := 0, second := false }

def ringState : State :=
  { State.reset with groups := [ringGroup], teams := [ringTeam], vchips := [ringChip], bundle := some ringBundle, pkgStat := 3 }

def ringCtx : Ctx := { b := ringBundle, g := ringGroup, t := ringTeam, vc := ringChip }

theorem ready_ring : Ready (.parrv 0 8 0) ringCtx ringState where
  now := rfl
  lawful := by decide +kernel
  role := by decide +kernel
  whole := fun h => absurd h (by decide)
  free := by decide +kernel
  clean := fun _ => by decide +kernel
  noErr := fun _ => by decide +kernel

/-- The range fails where it meets the ring window. -/
theorem parrv_ring : exec (.parrv 0 8 0) ringState = .next (fault ringState ringCtx 0x06 ringBundle.mask 0xFF00000000800000) := by
  show execParrv 0 8 0 ringState = _
  rw [execParrv]
  exact podIssue_fails ready_ring rfl (by decide +kernel)

/-- Refutes O46: nothing keeps the allocation of a team that holds its engine out of its ring window, and a range of `PARRV` there lies in the
allocation, but takes the protection fault. -/
theorem not_channelStateResults : ¬Obligations.ChannelStateResults := by
  rintro ⟨-, -, hparrv, -⟩
  have hword : LocalOk ringCtx 0xFF00000000000000 8 := ⟨by decide, .inl ⟨by decide, by decide⟩⟩
  have hrange : LocalOk ringCtx 0xFF00000000800000 1 := ⟨by decide, .inl ⟨by decide, by decide⟩⟩
  obtain ⟨t, hexec, ⟨g', hg', hkept, -⟩, -⟩ := hparrv 0 8 0 ringCtx ringState ⟨ready_ring, rfl⟩ rfl (by decide) hword (by decide) hrange
    (by decide) (by decide) (by decide) (by decide)
  obtain ⟨-, -, -, hfaulted, -⟩ := ready_ring.fault 0x06 ringBundle.mask 0xFF00000000800000
  cases hexec.symm.trans parrv_ring
  have hstall := congrArg Group.stall (Option.some.inj (hg'.symm.trans hfaulted))
  rw [hkept] at hstall
  cases hstall

end Sys2Proof.Laws
end

section
/-!
The receipt of flits: which row takes a flit, and what its port has accepted of the slot afterwards (R225, R226, R230, R232, R233).
-/

namespace Sys2Proof.Laws

open Sys2Proof.Machine Sys2Proof.Claims

/-! ## What a port has accepted -/

section Accepted

variable {s t : State} {port : Nat}

theorem acceptedAt_names (s : State) (port : Nat) : (acceptedAt s port).port = port ∧ (acceptedAt s port).slot = s.slot := by
  rw [acceptedAt]
  cases h : s.accepted.find? fun a => a.port == port && a.slot == s.slot with
  | none => exact ⟨rfl, rfl⟩
  | some a => simpa using List.find?_some h

theorem putAccepted_eq_tallied {a : Accepted} (hport : a.port = port) (hslot : a.slot = s.slot) : putAccepted t a = tallied s port a t := by
  rw [putAccepted, tallied, hport, hslot]

theorem acceptedAt_of_tallied {a : Accepted} (hport : a.port = port) (hslot : a.slot = s.slot)
    (hacc : t.accepted = (tallied s port a s).accepted) (hnow : t.slot = s.slot) : acceptedAt t port = a := by
  have hnone : (s.accepted.filter fun x => !(x.port == port && x.slot == s.slot)).find? (fun x => x.port == port && x.slot == s.slot) = none :=
    List.find?_eq_none.mpr fun x hx =>
      Bool.eq_false_iff.mp (Bool.not_eq_true' _ ▸ (List.mem_filter.mp hx).2)
  rw [acceptedAt, hacc, hnow, tallied, List.find?_append, hnone]
  simp [hport, hslot]

/-- The last count of a port and slot stands. -/
theorem tallied_twice {a b : Accepted} (hport : a.port = port) (hslot : a.slot = s.slot) (hacc : t.accepted = (tallied s port a s).accepted) :
    tallied s port b t = tallied s port b { t with accepted := s.accepted } := by
  rw [tallied, tallied, hacc, tallied, List.filter_append, List.filter_filter]
  simp [hport, hslot]

end Accepted

/-! ## The row of a flit -/

section Rows

variable {s : State} {port : Nat} {f : Flit}

theorem exec_classRow {i : Instr} {row : FlitRow} (h : ClassRow i port f row) (s : State) : exec i s = receive row port f s := by
  obtain ⟨rfl, rfl⟩ | ⟨rfl, rfl⟩ | ⟨rfl, rfl⟩ | ⟨rfl, rfl⟩ | ⟨rfl, rfl⟩ | ⟨rfl, rfl⟩ | ⟨rfl, rfl⟩ | ⟨rfl, rfl⟩ | ⟨rfl, rfl⟩ | ⟨rfl, rfl⟩ |
    ⟨rfl, rfl⟩ | ⟨rfl, rfl⟩ | ⟨rfl, rfl⟩ := h <;> rfl

theorem marked_iff : Marked s port ↔ (s.stripes[port]?).getD 0 ≠ 0 := by
  rw [Marked]
  cases s.stripes[port]? <;> simp

theorem receive_unmarked (h : ¬Marked s port) (row : FlitRow) : receive row port f s = .next s := by
  have hzero : (s.stripes[port]?).getD 0 = 0 := not_not.mp fun hne => h (marked_iff.mpr hne)
  rw [receive, hzero]
  rfl

theorem receive_marked {row : FlitRow} (h : Marked s port) (hrow : rowOf s f = row) :
    receive row port f s = .next (takeFlit s port { f with opened := none }) := by
  rw [receive, beq_eq_false_iff_ne.mpr (marked_iff.mp h), hrow, bne_self_eq_false]
  rfl

/-- The row does not ask whether a flit has been opened. -/
theorem rowOf_unopened (s : State) (f : Flit) : rowOf s { f with opened := none } = rowOf s f := by
  simp only [rowOf, malformed, flitCrc, checkedBytes, headerBytes]
  rfl

/-- A flit that is damaged or malformed, or that goes no further (R226; log 13). -/
theorem rowOf_discard (h : f.crc ≠ flitCrc f ∨ 10 ≤ f.op.toNat ∨ f.reserved ≠ 0 ∨ (f.tg = true ∧ f.op ≠ 0) ∨
    (f.dpkg.toNat ≠ s.pkg ∧ f.rly = false)) : rowOf s f = .discard := by
  by_cases hbad : malformed f = true
  · rw [rowOf, if_pos hbad]
  · have hpass : f.dpkg.toNat ≠ s.pkg ∧ f.rly = false := by
      simp only [malformed, opWrite, Bool.or_eq_true, decide_eq_true_eq, bne_iff_ne, Bool.and_eq_true, not_or] at hbad
      tauto
    simp [rowOf, hbad, hpass]

theorem rowOf_relayed (hcrc : f.crc = flitCrc f) (hop : f.op.toNat < 10) (hres : f.reserved = 0) (htag : f.tg = true → f.op = 0)
    (hpkg : f.dpkg.toNat ≠ s.pkg) (hrly : f.rly = true) : rowOf s f = .relayed := by
  have hwell : malformed f = false := by
    simp only [malformed, opWrite, Bool.or_eq_false_iff, decide_eq_false_iff_not, bne_eq_false_iff_eq, Bool.and_eq_false_imp]
    exact ⟨⟨⟨Nat.not_le.mpr hop, hres⟩, htag⟩, hcrc⟩
  simp [rowOf, hwell, hpkg, hrly]

end Rows

/-! ## A flit taken in its turn (R233) -/

section Turn

variable {s t : State} {port : Nat} {f : Flit}

/-- What a port has accepted once a flit of a row has come, which may have to be acknowledged (R234). -/
def owing (s : State) (port : Nat) (row : FlitRow) : Accepted :=
  let a := acceptedAt s port
  { a with owed := a.owed || decide (row ≠ .acknowledgement) }

theorem owing_names (s : State) (port : Nat) (row : FlitRow) : (owing s port row).port = port ∧ (owing s port row).slot = s.slot :=
  acceptedAt_names s port

theorem takeFlit_eq (s : State) (port : Nat) (f : Flit) : takeFlit s port f =
    if (owing s port (rowOf s f)).broken then putAccepted s (owing s port (rowOf s f))
    else if f.seq != (owing s port (rowOf s f)).next then putAccepted s { owing s port (rowOf s f) with broken := true }
    else
      let r := takeClass (putAccepted s (owing s port (rowOf s f))) port f (rowOf s f)
      putAccepted r.1 (if r.2 then { acceptedAt r.1 port with next := (acceptedAt r.1 port).next + 1 } else { acceptedAt r.1 port with broken := true }) := by
  have howed : owing s port (rowOf s f) = { acceptedAt s port with owed := (acceptedAt s port).owed || rowOf s f != .acknowledgement } := by
    rw [owing, decide_not]
    rfl
  rw [howed]
  rfl

theorem takeFlit_broken (h : (acceptedAt s port).broken = true) : takeFlit s port f = tallied s port (owing s port (rowOf s f)) s := by
  obtain ⟨hport, hslot⟩ := owing_names s port (rowOf s f)
  rw [takeFlit_eq, if_pos (by exact h), putAccepted_eq_tallied hport hslot]

theorem takeFlit_outOfTurn (h : (acceptedAt s port).broken = false) (hseq : f.seq ≠ (acceptedAt s port).next) :
    takeFlit s port f = tallied s port { owing s port (rowOf s f) with broken := true } s := by
  obtain ⟨hport, hslot⟩ := owing_names s port (rowOf s f)
  rw [takeFlit_eq, if_neg (by exact Bool.eq_false_iff.mp h), if_pos (by exact bne_iff_ne.mpr hseq)]
  exact putAccepted_eq_tallied hport hslot

/-- A flit in its turn is taken by its row, and it counts as accepted or ends the slot's flits. -/
theorem takeFlit_inTurn (h : (acceptedAt s port).broken = false) (hseq : f.seq = (acceptedAt s port).next) {ok : Bool}
    (htake : takeClass (tallied s port (owing s port (rowOf s f)) s) port f (rowOf s f) = (t, ok))
    (hacc : t.accepted = (tallied s port (owing s port (rowOf s f)) s).accepted) (hslot : t.slot = s.slot) :
    takeFlit s port f = tallied s port (if ok then { owing s port (rowOf s f) with next := (acceptedAt s port).next + 1 }
      else { owing s port (rowOf s f) with broken := true }) { t with accepted := s.accepted } := by
  obtain ⟨hport, hnow⟩ := owing_names s port (rowOf s f)
  rw [takeFlit_eq, if_neg (by exact Bool.eq_false_iff.mp h), if_neg (by rw [hseq]; exact bne_iff_ne.not.mpr (not_not.mpr rfl)),
    putAccepted_eq_tallied hport hnow, htake]
  dsimp only
  rw [acceptedAt_of_tallied hport hnow hacc hslot, ← tallied_twice hport hnow hacc]
  cases ok
  · exact putAccepted_eq_tallied hport hnow
  · exact putAccepted_eq_tallied hport hnow

end Turn

/-! ## Discarded and relayed flits -/

theorem filled_iff {s : State} : Filled s s.trestle ↔ trestleRoom s = false := by
  rw [trestleRoom, decide_eq_false_iff_not, Nat.not_lt]
  rfl

section Taken

variable {s : State} {port : Nat} {f : Flit} (hturn : InTurn s port f)
include hturn

theorem takeFlit_refused (htake : takeClass (tallied s port (owing s port (rowOf s f)) s) port f (rowOf s f) =
    (tallied s port (owing s port (rowOf s f)) s, false)) :
    takeFlit s port f = tallied s port { owing s port (rowOf s f) with broken := true } s := by
  obtain ⟨-, -, hwhole, hseq⟩ := hturn
  exact takeFlit_inTurn hwhole hseq htake rfl rfl

theorem takeFlit_discard (hrow : rowOf s f = .discard) :
    takeFlit s port f = tallied s port { acceptedAt s port with broken := true, owed := true } s := by
  refine (takeFlit_refused hturn (by rw [hrow]; rfl)).trans ?_
  rw [owing, hrow, decide_eq_true (by nofun), Bool.or_true]

theorem takeFlit_noRoom (hrow : rowOf s f = .relayed) (hfull : Filled s s.trestle) :
    takeFlit s port f = tallied s port { acceptedAt s port with broken := true, owed := true } s := by
  refine (takeFlit_refused hturn (by rw [hrow]; exact if_neg (Bool.eq_false_iff.mp (filled_iff.mp hfull)))).trans ?_
  rw [owing, hrow, decide_eq_true (by nofun), Bool.or_true]

theorem takeFlit_relayed (hrow : rowOf s f = .relayed) (hroom : ¬Filled s s.trestle) : takeFlit s port f =
    taken s port .relayed { s with trestle := s.trestle ++ [waitingRelay s f (some (port, s.slot))] } := by
  obtain ⟨-, -, hwhole, hseq⟩ := hturn
  have hspace : trestleRoom s = true := not_not.mp fun h => hroom (filled_iff.mpr (Bool.eq_false_iff.mpr h))
  have htake (u : State) (hu : trestleRoom u = true) : takeClass u port f .relayed =
      ({ u with trestle := u.trestle ++ [waitingRelay u f (some (port, u.slot))] }, true) := if_pos hu
  have htaken := htake (tallied s port (owing s port .relayed) s) hspace
  rw [← hrow] at htaken
  refine (takeFlit_inTurn hwhole hseq htaken rfl rfl).trans ?_
  rw [hrow]
  rfl

end Taken

/-- Settles O47: a flit is taken in its turn by its row, and one out of turn, or that its row refuses, ends what the port accepts of the slot. -/
theorem flitsAreTakenInOrder : Obligations.FlitsAreTakenInOrder := by
  refine ⟨fun i port f row s hi hdark => ?_, fun i port f row s hi hport hlit hrow => ⟨fun hbroken => ?_, fun hwhole hseq => ?_⟩,
    fun port f s hbad hturn => ?_, fun port f s hcrc hop hres htag hpkg hrly hopened hturn => ?_⟩
  · rw [exec_classRow hi, receive_unmarked hdark]
  · rw [exec_classRow hi, receive_marked hlit hrow, takeFlit_broken hbroken, rowOf_unopened, hrow]
    rfl
  · rw [exec_classRow hi, receive_marked hlit hrow, takeFlit_outOfTurn (f := { f with opened := none }) hwhole hseq, rowOf_unopened, hrow]
    rfl
  · have ⟨_, hlit, _⟩ := hturn
    have hrow := rowOf_discard hbad
    exact (receive_marked hlit hrow).trans (congrArg Host.Outcome.next (takeFlit_discard hturn ((rowOf_unopened s f).trans hrow)))
  · have ⟨_, hlit, _⟩ := hturn
    have hrow := rowOf_relayed hcrc hop hres htag hpkg hrly
    have hsame : { f with opened := none } = f := by rw [← hopened]
    have hreceive : exec (.relayedFlit port f) s = .next (takeFlit s port f) := (receive_marked hlit hrow).trans (by rw [hsame])
    exact ⟨fun hfull => hreceive.trans (congrArg _ (takeFlit_noRoom hturn hrow hfull)),
      fun hroom => hreceive.trans (congrArg _ (takeFlit_relayed hturn hrow hroom))⟩

end Sys2Proof.Laws
end

section
/-!
Operations of pod instructions taken up at their source: the way to another virtual chip, what an operation occupies, and the flits that are
queued for it (R240, R241, R244, R257, R267, R268).
-/

namespace Sys2Proof.Laws

open Sys2Proof.Machine Sys2Proof.Claims

/-! ## Ways to other virtual chips -/

/-- Two states with the same time and the same ways from one virtual chip to another. -/
structure SameWays (s t : State) : Prop where
  pkg : t.pkg = s.pkg
  time : t.time = s.time
  guests : t.guests = s.guests
  links : t.linkKeys = s.linkKeys
  guest : ∀ v, (vchip t v).guest = (vchip s v).guest

section Ways

variable {s t u : State}

theorem SameWays.trans (h : SameWays s t) (k : SameWays t u) : SameWays s u where
  pkg := k.pkg.trans h.pkg
  time := k.time.trans h.time
  guests := k.guests.trans h.guests
  links := k.links.trans h.links
  guest v := (k.guest v).trans (h.guest v)

theorem sameWays_of_elsewhere {n : Nat} (h : Elsewhere n s t) : SameWays s t where
  pkg := by rw [h.rest]
  time := by rw [h.rest]
  guests := by rw [h.rest]
  links := by rw [h.rest]
  guest v := by
    have hguests : t.vchips.map VChip.guest = s.vchips.map VChip.guest := by
      simpa [List.map_map, Function.comp_def] using congrArg (List.map VChip.guest) h.chips
    rw [apply_vchip VChip.guest, apply_vchip VChip.guest, hguests]

theorem guestOf_sameWays (h : SameWays s t) (v : Nat) : guestOf t v = guestOf s v := by
  rw [guestOf, guestOf, h.guests, h.guest]

theorem legTo_sameWays (h : SameWays s t) (v vcn label : Nat) : legTo t v vcn label = legTo s v vcn label := by
  simp only [legTo, linkKey, ownVcn, guestOf_sameWays h, h.links, h.pkg]

/-- The flits of an operation that has a way to its target are queued behind what is queued. -/
theorem sendTo_reachable (h : SameWays s t) {v vcn label : Nat} (hway : (legTo s v vcn label).2 = true) (tag : BitVec 32) (fs : List Flit) :
    sendTo t v vcn label tag fs = { t with egress := t.egress ++ outgoing s v vcn label fs } := by
  have hqueue (l : Leg) : sendLeg t v l fs = { t with egress := t.egress ++ (sendLeg { s with egress := [] } v l fs).egress } := by
    simp only [sendLeg, h.pkg, h.time, List.nil_append]
  rw [sendTo, legTo_sameWays h]
  exact (if_pos hway).trans (hqueue _)

end Ways

/-! ## An operation taken up (R240, R291) -/

section TakenUp

variable {n : Nat} {s t : State} (c : Ctx) (o : PodOp) (out : List Egress)

/-- A channel on which some more bytes are in flight. -/
def occupied (n : Nat) (e : Cap) : Cap := { e with inFlight := e.inFlight + n }

def withOccupied (o : PodOp) (v : VChip) : VChip := { v with caps := listMod (occupied o.bytes) o.cap v.caps }

def notIdem (t : Team) : Team := { t with idem := false }

theorem takenUp_eq (s : State) : takenUp c o out s = { s with
    teams := if o.kind = .get then s.teams else listMod notIdem c.g.team s.teams
    vchips := listMod (withOccupied o) c.t.vc s.vchips
    ops := s.ops ++ [o], nextTag := s.nextTag + 1, egress := s.egress ++ out } := by
  rw [takenUp]
  split_ifs <;> rfl

theorem map_listMod {α β : Type} {f : α → α} {g : β → β} {p : α → β} (h : ∀ x, p (f x) = g (p x)) (n : Nat) (l : List α) :
    (listMod f n l).map p = listMod g n (l.map p) := by
  refine List.ext_getElem? fun m => ?_
  rw [List.getElem?_map, listMod_getElem?, listMod_getElem?, List.getElem?_map]
  split_ifs
  · cases l[m]? with
    | none => rfl
    | some x => exact congrArg some (h x)
  · rfl

/-- What lies elsewhere is the same for an operation taken up in either state. -/
theorem elsewhere_takenUp (h : Elsewhere n s t) : Elsewhere n (takenUp c o out s) (takenUp c o out t) := by
  obtain ⟨hbytes, hrest, hcount, hgroups, hchips⟩ := h
  generalize t.groups = gs at hrest hcount hgroups
  generalize t.vchips = vs at hrest hchips
  subst hrest
  rw [takenUp_eq, takenUp_eq]
  have hmap (l : List VChip) := map_listMod (f := withOccupied o) (g := withOccupied o) (p := fun v : VChip => { v with bayCounters := [] })
    (fun _ => rfl) c.t.vc l
  exact ⟨hbytes, rfl, hcount, hgroups, (hmap vs).trans ((congrArg (listMod (withOccupied o) c.t.vc) hchips).trans (hmap s.vchips).symm)⟩

theorem sameWays_takenUp (s : State) : SameWays s (takenUp c o out s) := by
  rw [takenUp_eq]
  exact ⟨rfl, rfl, rfl, rfl, fun v => chipField_modVc (p := VChip.guest) (f := withOccupied o) (fun _ => rfl) s c.t.vc v⟩

theorem groups_takenUp (s : State) : (takenUp c o out s).groups = s.groups := by rw [takenUp_eq]

theorem sendTo_takenUp {c : Ctx} {o : PodOp} {out : List Egress} (h : SameWays s t) {v vcn label : Nat} (hway : (legTo s v vcn label).2 = true)
    (tag : BitVec 32) (fs : List Flit) :
    sendTo (takenUp c o out t) v vcn label tag fs = takenUp c o (out ++ outgoing s v vcn label fs) t := by
  rw [sendTo_reachable (h.trans (sameWays_takenUp c o out t)) hway, takenUp_eq, takenUp_eq, ← List.append_assoc]

end TakenUp

/-- A begun operation is taken up, but for the idempotent flag. -/
theorem beginOp_eq (s : State) (mk : BitVec 32 → PodOp) : beginOp s mk = ({ s with
    vchips := listMod (withOccupied (mk s.nextTag)) (mk s.nextTag).vc s.vchips
    ops := s.ops ++ [mk s.nextTag], nextTag := s.nextTag + 1 }, s.nextTag) := by
  rw [beginOp]
  by_cases hn : (mk s.nextTag).bytes = 0
  · have hsame : withOccupied (mk s.nextTag) = fun v => v := by
      funext v
      have hcaps : listMod (occupied (mk s.nextTag).bytes) (mk s.nextTag).cap v.caps = v.caps := List.ext_getElem? fun m => by
        rw [listMod_getElem?, hn]
        exact ite_eq_right_iff.mpr fun _ => Option.map_id'
      rw [withOccupied, hcaps]
    have hkeep : listMod (fun v : VChip => v) (mk s.nextTag).vc s.vchips = s.vchips := List.ext_getElem? fun m => by simp [listMod_getElem?]
    simp [hn, hsame, hkeep]
  · simp only [beq_iff_eq, hn, if_false]
    rfl

section Begun

variable {c : Ctx} {u : State} {mk : BitVec 32 → PodOp}

theorem beginOp_withdrawn (hkind : (mk u.nextTag).kind ≠ .get) (hvc : (mk u.nextTag).vc = c.t.vc) :
    beginOp (withdrawIdem u c true) mk = (takenUp c (mk u.nextTag) [] u, u.nextTag) := by
  rw [beginOp_eq, takenUp_eq, if_neg hkind, List.append_nil, ← hvc]
  rfl

theorem beginOp_get (hkind : (mk u.nextTag).kind = .get) (hvc : (mk u.nextTag).vc = c.t.vc) :
    beginOp u mk = (takenUp c (mk u.nextTag) [] u, u.nextTag) := by
  rw [beginOp_eq, takenUp_eq, if_pos hkind, List.append_nil, ← hvc]

end Begun

/-! ## What the group waits for (R243, R244) -/

/-- A group that waits for more results. -/
def awaiting (ts : List (BitVec 6 × TokenOf)) (ls : List Load) (g : Group) : Group := { g with tokens := g.tokens ++ ts, loads := g.loads ++ ls }

/-- What a token register waits for; s0 waits for nothing. -/
def tokensFor (u : BitVec 6) (tag : BitVec 32) : List (BitVec 6 × TokenOf) := if u = 0 then [] else [(u, .pod tag)]

theorem pending_eq (c : Ctx) (u : BitVec 6) (tag : BitVec 32) : pending c u tag = awaiting (tokensFor u tag) [] c.g := by
  rw [pending, awaiting, tokensFor, List.append_nil]
  split_ifs <;> simp

theorem pendPod_takenUp (c : Ctx) (o : PodOp) (out : List Egress) (st : BitVec 6) (tag : BitVec 32) (s : State) :
    pendPod c st tag (takenUp c o out s) = takenUp c o out (onGroup s c (awaiting (tokensFor st tag) [])) := by
  have hpend : (fun g : Group => { g with tokens := if st == 0#6 then g.tokens else g.tokens ++ [(st, .pod tag)] }) = awaiting (tokensFor st tag) [] := by
    funext g
    rw [awaiting, tokensFor, List.append_nil]
    by_cases h0 : st = 0#6
    · simp [h0]
    · simp [h0]
  rw [pendPod, hpend, takenUp_eq, takenUp_eq]
  rfl

section Sends

variable {i : Instr} {c : Ctx} {s u : State} {g0 g' : Group}

/-- An instruction whose operation is taken up in a state in which the group has moved on has been carried out. -/
theorem sends_takenUp (helse : Elsewhere c.b.group s u) (hg : u.groups[c.b.group]? = some g') (hkept : GroupKept g0 g')
    (hmove : LanesMove i c g') (o : PodOp) (out : List Egress) : Sends i c g0 o out s (takenUp c o out u) :=
  ⟨elsewhere_takenUp c o out helse, g', by rw [groups_takenUp, hg], hkept, hmove⟩

variable (hg : s.groups[c.b.group]? = some c.g)
include hg

theorem sends_issued (o : PodOp) (out : List Egress) : Sends i c c.g o out s (takenUp c o out (issued i c s)) :=
  sends_takenUp (Elsewhere.issued i c s) (issued_group i c s c.g hg) rfl ⟨advance_length i c _ c.g, fun k hk => advance_lanes i c _ c.g k hk⟩ o out

theorem sends_pending (st : BitVec 6) (tag : BitVec 32) (o : PodOp) (out : List Egress) :
    Sends i c (pending c st tag) o out s (takenUp c o out (onGroup (issued i c s) c (awaiting (tokensFor st tag) []))) := by
  obtain ⟨helse, hgroup⟩ := issued_then (i := i) hg (awaiting (tokensFor st tag) [])
  rw [pending_eq]
  exact sends_takenUp (g0 := awaiting (tokensFor st tag) [] c.g) helse hgroup rfl ⟨advance_length i c _ c.g, fun k hk => advance_lanes i c _ c.g k hk⟩ o out

end Sends

theorem issued_nextTag (i : Instr) (c : Ctx) (s : State) : (issued i c s).nextTag = s.nextTag := by rw [(Elsewhere.issued i c s).rest]

/-- An operation with a token register, which is begun once the instruction has issued and whose flits all go one way. -/
theorem sendTo_begun {i : Instr} {c : Ctx} {s : State} {mk : BitVec 32 → PodOp} (hkind : (mk s.nextTag).kind ≠ .get)
    (hvc : (mk s.nextTag).vc = c.t.vc) {v vcn label : Nat} (hway : (legTo s v vcn label).2 = true) (st : BitVec 6) (fs : BitVec 32 → List Flit) :
    let b := beginOp (withdrawIdem (issued i c s) c true) mk
    sendTo (pendPod c st b.2 b.1) v vcn label b.2 (fs b.2) =
      takenUp c (mk s.nextTag) (outgoing s v vcn label (fs s.nextTag)) (onGroup (issued i c s) c (awaiting (tokensFor st s.nextTag) [])) := by
  have htag := issued_nextTag i c s
  rw [← htag] at hkind hvc
  intro b
  rw [show b = _ from beginOp_withdrawn hkind hvc, htag, pendPod_takenUp]
  exact sendTo_takenUp (sameWays_of_elsewhere ((Elsewhere.issued i c s).trans (Elsewhere.onGroup _ c _))) hway _ _

/-! ## `PATOM` and `PPOOL` (R248, R250) -/

theorem onChannel_patom (l : BitVec 4) (a : BitVec 6) (ch : BitVec 5) (u : BitVec 6) : OnChannel (.patom l a ch u) ch :=
  .inl ⟨l, a, u, .inr (.inr (.inr (.inr (.inl rfl))))⟩

theorem onChannel_ppool (l : BitVec 4) (a : BitVec 6) (ch : BitVec 5) (u : BitVec 6) : OnChannel (.ppool l a ch u) ch :=
  .inl ⟨l, a, u, .inr (.inr (.inr (.inr (.inr rfl))))⟩

theorem field_low (x : DWord) (hi : Nat) : field x hi 0 = x.toNat % 2 ^ (hi + 1) := by
  rw [field, Nat.pow_zero, Nat.div_one, Nat.sub_zero]

section Requests

variable {l : BitVec 4} {a : BitVec 6} {ch : BitVec 5} {u : BitVec 6} {c : Ctx} {s : State}

theorem patom_sends (h : Through (.patom l a ch u) c s ch) (hremote : RemoteOk c ch (readS c.g a)) (hh : (readS c.g (a + 3)).toNat < 32)
    (hin : InWindow c ch (readS c.g a) (handlerBytes (readS c.g (a + 3)).toNat))
    (halign : (readS c.g a).toNat % handlerBytes (readS c.g (a + 3)).toNat = 0) (hroom : HasRoom c ch 8) (hway : Reachable c s ch (capVcn (capAt c ch))) :
    exec (.patom l a ch u) s = .next (takenUp c (podOp c s .atomic ch 8 u (capVcn (capAt c ch)) [(field (readS c.g a) 39 0, 0)] 8 s.nextTag)
      (outgoing s c.t.vc (capVcn (capAt c ch)) (capLabel (capAt c ch)) [bareFlit 3 s.nextTag (field (readS c.g a) 39 0)
        (toLeBytes 8 (readS c.g (a + 1)).toNat ++ toLeBytes 8 (readS c.g (a + 2)).toNat ++ toLeBytes 1 (readS c.g (a + 3)).toNat) 16 true
        (if capKind (capAt c ch) = 0 ∧ capSH (capAt c ch) = true then .home else capDest (capAt c ch))])
      (onGroup (issued (.patom l a ch u) c s) c (awaiting (tokensFor u s.nextTag) []))) := by
  have hhandler : field (readS c.g (a + 3)) 4 0 = (readS c.g (a + 3)).toNat := by rw [field_low]; omega
  have hclear : field (readS c.g (a + 3)) 63 5 = 0 := by rw [field]; omega
  show execPatom l a ch u s = _
  rw [execPatom]
  refine (podIssue_passes (ready_of_through h) (unpaused_of_through h) ((firstCheck_entry h (onChannel_patom l a ch u) _).trans ?_)).trans
    (congrArg Host.Outcome.next ((if_neg ?_).trans ?_))
  · rw [hhandler, hclear, podAddrCheck_pass hremote, windowCheck_pass hin, alignCheck_pass halign]
    rfl
  · rw [hasAllowance_iff.mpr hroom]
    exact Bool.false_ne_true
  · simp only [← beq_iff_eq (a := capKind (capAt c ch)), ← Bool.and_eq_true]
    exact sendTo_begun (mk := fun tag => podOp c s .atomic ch 8 u (capVcn (capAt c ch)) [(podOff (readS c.g a), 0)] 8 tag) nofun rfl hway u
      fun tag => [bareFlit opAtomic tag (podOff (readS c.g a)) _ 16 true _]

theorem ppool_sends (h : Through (.ppool l a ch u) c s ch) (ho : (readS c.g a).toNat < 128) (hres : (readS c.g a).toNat / 4 % 4 = 0)
    (hreduce : (readS c.g a).toNat % 4 = 3 → (readS c.g a).toNat / 16 ≤ 4) (hplain : (readS c.g a).toNat % 4 ≠ 3 → (readS c.g a).toNat / 16 = 0)
    (hdst : RemoteOk c ch (readS c.g (a + 1)) ∧ InWindow c ch (readS c.g (a + 1)) (readS c.g (a + 3)).toNat ∧ (readS c.g (a + 1)).toNat % 8 = 0)
    (hlen : 8 ≤ (readS c.g (a + 3)).toNat ∧ (readS c.g (a + 3)).toNat ≤ 2 ^ 40 ∧ (readS c.g (a + 3)).toNat % 8 = 0)
    (hsrc : (readS c.g a).toNat % 4 ≠ 0 →
      RemoteOk c ch (readS c.g (a + 2)) ∧ InWindow c ch (readS c.g (a + 2)) (readS c.g (a + 3)).toNat ∧ (readS c.g (a + 2)).toNat % 8 = 0)
    (hroom : HasRoom c ch 8) (hway : Reachable c s ch (capVcn (capAt c ch))) :
    exec (.ppool l a ch u) s = .next (takenUp c (podOp c s .pool ch 8 u (capVcn (capAt c ch)) [(field (readS c.g (a + 1)) 39 0, 0)] 8 s.nextTag)
      (outgoing s c.t.vc (capVcn (capAt c ch)) (capLabel (capAt c ch)) [bareFlit 5 s.nextTag (field (readS c.g (a + 1)) 39 0)
        (toLeBytes 8 (readS c.g a).toNat ++ toLeBytes 8 (field (readS c.g (a + 1)) 39 0) ++
          toLeBytes 8 (if (readS c.g a).toNat % 4 = 0 then (readS c.g (a + 2)).toNat else field (readS c.g (a + 2)) 39 0) ++
          toLeBytes 8 (readS c.g (a + 3)).toNat) 31 true .pool])
      (onGroup (issued (.ppool l a ch u) c s) c (awaiting (tokensFor u s.nextTag) []))) := by
  have hop : field (readS c.g a) 1 0 = (readS c.g a).toNat % 4 := field_low _ _
  have hkind : field (readS c.g a) 6 4 = (readS c.g a).toNat / 16 := by rw [field]; omega
  have hhigh : field (readS c.g a) 63 7 = 0 := by rw [field]; omega
  have hmid : field (readS c.g a) 3 2 = 0 := hres
  obtain ⟨hremote, hin, halign⟩ := hdst
  show execPpool l a ch u s = _
  rw [execPpool]
  refine (podIssue_passes (ready_of_through h) (unpaused_of_through h) ?_).trans (congrArg Host.Outcome.next ((if_neg ?_).trans ?_))
  · simp only [List.append_assoc]
    refine (firstCheck_entry h (onChannel_ppool l a ch u) _).trans ?_
    have hcode : (if (readS c.g a).toNat % 4 = 3 then decide ((readS c.g a).toNat / 16 ≤ 4) else (readS c.g a).toNat / 16 == 0) = true := by
      split_ifs with h3
      · exact decide_eq_true (hreduce h3)
      · exact beq_iff_eq.mpr (hplain h3)
    generalize readS c.g (a + 1) = dst at hremote hin halign
    generalize readS c.g (a + 2) = src at hsrc
    generalize readS c.g (a + 3) = len at hlen hin hsrc
    have hto : [podAddrCheck (capAt c ch) dst, windowCheck (capAt c ch) dst len.toNat, alignCheck dst 8] = [none, none, none] := by
      rw [podAddrCheck_pass hremote, windowCheck_pass hin, alignCheck_pass halign]
    by_cases h0 : (readS c.g a).toNat % 4 = 0
    · simp_all [require, firstCheck]
    · obtain ⟨hremote', hin', halign'⟩ := hsrc h0
      rw [podAddrCheck_pass hremote', windowCheck_pass hin', alignCheck_pass halign']
      simp_all [require, firstCheck]
  · rw [hasAllowance_iff.mpr hroom]
    exact Bool.false_ne_true
  · simp only [hop, beq_iff_eq]
    exact sendTo_begun (mk := fun tag => podOp c s .pool ch 8 u (capVcn (capAt c ch)) [(podOff (readS c.g (a + 1)), 0)] 8 tag) nofun rfl hway u
      fun tag => [bareFlit opPool tag (podOff (readS c.g (a + 1))) _ 31 true .pool]

end Requests

end Sys2Proof.Laws
end

section
/-!
`PPUT` and `PGET`: a word of each active lane (R243, R428, R434).
-/

namespace Sys2Proof.Laws

open Sys2Proof.Machine Sys2Proof.Claims

/-! ## The last lane -/

theorem getLast_ascending {ks : List Nat} (hs : ks.Pairwise (· < ·)) {k : Nat} (hk : k ∈ ks) :
    (k == ks.getLast?.getD 0) = decide (∀ j, j ∈ ks → j ≤ k) := by
  have hne : ks ≠ [] := List.ne_nil_of_mem hk
  have hle (j : Nat) (hj : j ∈ ks) : j ≤ ks.getLast hne := by
    rcases List.mem_iff_getElem.mp hj with ⟨m, hm, rfl⟩
    rw [List.getLast_eq_getElem]
    exact (hs.imp Nat.le_of_lt).rel_get_of_le (a := ⟨m, hm⟩) (b := ⟨ks.length - 1, by omega⟩) (by simp; omega)
  rw [List.getLast?_eq_some_getLast hne, Option.getD_some, Bool.eq_iff_iff, beq_iff_eq, decide_eq_true_iff]
  exact ⟨fun h j hj => h ▸ hle j hj, fun h => Nat.le_antisymm (hle k hk) (h _ (List.getLast_mem hne))⟩

/-- A list made of the words of the active lanes, in which the last lane's is marked. -/
theorem laneOffs_map {α : Type} (c : Ctx) (base : Nat) (f : Nat → Nat → Bool → α) :
    ((laneOffs c base).map fun p => f p.1 p.2 (p.1 == (((laneOffs c base).getLast?.map fun p => p.1).getD 0))) =
      (active c).map fun k => f k (base + 4 * k) (decide (∀ j, j ∈ active c → j ≤ k)) := by
  have hlanes : laneOffs c base = (active c).map fun k => (k, base + 4 * k) := rfl
  have hlast : ((laneOffs c base).getLast?.map fun p => p.1) = (active c).getLast? := by
    rw [hlanes, List.getLast?_map, Option.map_map]
    exact Option.map_id'
  rw [hlast, hlanes, List.map_map]
  exact List.map_congr_left fun k hk => congrArg (f k (base + 4 * k)) (getLast_ascending (lanesIn_ascending c.g c.b.mask) hk)

theorem laneOffs_filter {c : Ctx} {base : Nat} (h : ∀ k, runs c k → base + 4 * k < 2 ^ 48) :
    ((laneOffs c base).filter fun p => decide (2 ^ 48 ≤ p.2)) = [] ∧ ((laneOffs c base).filter fun p => decide (p.2 < 2 ^ 48)) = laneOffs c base := by
  have hlow (p : Nat × Nat) (hp : p ∈ laneOffs c base) : p.2 < 2 ^ 48 := by
    obtain ⟨k, hk, rfl⟩ := List.mem_map.mp hp
    exact h k (mem_lanesIn_iff_runs.mp hk)
  constructor
  · exact List.filter_eq_nil_iff.mpr fun p hp => by simpa using hlow p hp
  · exact List.filter_eq_self.mpr fun p hp => decide_eq_true (hlow p hp)

section Words

variable {l : BitVec 4} {a : BitVec 6} {ch : BitVec 5} {d : BitVec 6} {c : Ctx} {s : State}

/-- The offset from which the lanes' words count (R243). -/
def wordBase (c : Ctx) (ch : BitVec 5) (x : DWord) : Nat := if capKind (capAt c ch) = 0 then field x 39 0 else x.toNat

theorem pput_sends (h : Through (.pput l a ch d) c s ch) (halign : (readS c.g a).toNat % 4 = 0)
    (hlow : ∀ k, runs c k → wordBase c ch (readS c.g a) + 4 * k < 2 ^ 48)
    (hwindow : capKind (capAt c ch) = 0 → RemoteOk c ch (readS c.g a) ∧ ∀ k, runs c k → WordIn c ch (readS c.g a) k)
    (hroom : HasRoom c ch (4 * (active c).length)) (hway : Reachable c s ch (capVcn (capAt c ch))) :
    exec (.pput l a ch d) s = .next (takenUp c
      (podOp c s .put ch (4 * (active c).length) 0 (capVcn (capAt c ch))
        ((active c).map fun k => (wordBase c ch (readS c.g a) + 4 * k, BitVec.ofNat 64 k)) (4 * (active c).length) s.nextTag)
      (outgoing s c.t.vc (capVcn (capAt c ch)) (capLabel (capAt c ch)) ((active c).map fun k =>
        bareFlit 0 s.nextTag (wordBase c ch (readS c.g a) + 4 * k) (toLeBytes 4 (readV (laneAt c.g k) d).toNat) 3
          (decide (∀ j, j ∈ active c → j ≤ k)) (capDest (capAt c ch))))
      (issued (.pput l a ch d) c s)) := by
  have hbase : (if capKind (capAt c ch) == 0 then podOff (readS c.g a) else (readS c.g a).toNat) = wordBase c ch (readS c.g a) := by
    simp only [beq_iff_eq]
    rfl
  obtain ⟨hnone, hall⟩ := laneOffs_filter hlow
  show execPput l a ch d s = _
  rw [execPput]
  refine (podIssue_passes (ready_of_through h) (unpaused_of_through h) ?_).trans (congrArg Host.Outcome.next ((if_neg ?_).trans ?_))
  · rw [List.append_assoc]
    exact (firstCheck_entry h (onChannel_pput l a ch d) _).trans ((pputRest_window hwindow).trans (alignCheck_pass halign))
  · rw [laneOffs_length, hasAllowance_iff.mpr hroom]
    exact Bool.false_ne_true
  · dsimp only
    rw [hbase, laneOffs_length, hnone, hall, beginOp_withdrawn (by nofun) rfl, issued_nextTag,
      laneOffs_map c _ fun k o b => bareFlit opWrite s.nextTag o (toLeBytes 4 (readV (laneAt c.g k) d).toNat) 3 b (capDest (capAt c ch))]
    have hleft : (laneOffs c (wordBase c ch (readS c.g a))).map (fun p => (p.2, BitVec.ofNat 64 p.1)) =
        (active c).map fun k => (wordBase c ch (readS c.g a) + 4 * k, BitVec.ofNat 64 k) := List.map_map
    rw [hleft]
    exact sendTo_takenUp (sameWays_of_elsewhere (Elsewhere.issued _ c s)) hway _ _

/-- The load of a lane's word, which a get response will bring. -/
def wordLoad (d : BitVec 6) (k : Nat) : Load := { lane := k, reg := d, data := 0, pois := false, ready := false, acq := false, more := false }

theorem addLoads_word (k : Nat) (d : BitVec 6) : addLoads k d [0] false false = awaiting [] [wordLoad d k] := by
  funext g
  simp [addLoads, awaiting, wordLoad, mapFrom]

theorem foldl_wordLoads (c : Ctx) (d : BitVec 6) (ls : List (Nat × Nat)) (s : State) :
    ls.foldl (fun s p => onGroup s c (addLoads p.1 d [0] false false)) s = onGroup s c (awaiting [] (ls.map fun p => wordLoad d p.1)) := by
  induction ls generalizing s with
  | nil =>
    have hid : awaiting [] [] = fun g => g := by funext g; simp [awaiting]
    rw [List.map_nil, hid, onGroup_id]
    rfl
  | cons p ls ih =>
    rw [List.foldl_cons, ih, onGroup_onGroup, addLoads_word]
    refine congrArg (onGroup s c) (funext fun g => ?_)
    simp [awaiting]

theorem pget_sends (h : Through (.pget l a ch d) c s ch) (halign : (readS c.g a).toNat % 4 = 0) (hremote : RemoteOk c ch (readS c.g a))
    (hin : InWindow c ch (readS c.g a) (4 * c.g.width)) (hroom : HasRoom c ch (4 * (active c).length))
    (hway : Reachable c s ch (capVcn (capAt c ch))) :
    exec (.pget l a ch d) s = .next (takenUp c
      (podOp c s .get ch (4 * (active c).length) d (capVcn (capAt c ch))
        ((active c).map fun k => (field (readS c.g a) 39 0 + 4 * k, BitVec.ofNat 64 k)) (4 * (active c).length) s.nextTag)
      (outgoing s c.t.vc (capVcn (capAt c ch)) (capLabel (capAt c ch)) ((active c).map fun k =>
        bareFlit 1 s.nextTag (field (readS c.g a) 39 0 + 4 * k) [] 3 (decide (∀ j, j ∈ active c → j ≤ k)) .memory))
      (onGroup (issued (.pget l a ch d) c s) c (awaiting [] ((active c).map (wordLoad d))))) := by
  show execPget l a ch d s = _
  rw [execPget]
  refine (podIssue_passes (ready_of_through h) (unpaused_of_through h) ?_).trans (congrArg Host.Outcome.next ((if_neg ?_).trans ?_))
  · exact (firstCheck_entry h (onChannel_pget l a ch d) _).trans ((pgetRest_window hremote hin).trans (alignCheck_pass halign))
  · rw [laneOffs_length, hasAllowance_iff.mpr hroom]
    exact Bool.false_ne_true
  · dsimp only
    have hloads : (laneOffs c (podOff (readS c.g a))).map (fun p => wordLoad d p.1) = (active c).map (wordLoad d) := List.map_map
    have hleft : (laneOffs c (podOff (readS c.g a))).map (fun p => (p.2, BitVec.ofNat 64 p.1)) =
        (active c).map fun k => (field (readS c.g a) 39 0 + 4 * k, BitVec.ofNat 64 k) := List.map_map
    rw [foldl_wordLoads, hloads, laneOffs_length, hleft, beginOp_get rfl rfl, onGroup_nextTag, issued_nextTag,
      laneOffs_map c _ fun _ o b => bareFlit opGet s.nextTag o [] 3 b .memory]
    exact sendTo_takenUp (sameWays_of_elsewhere ((Elsewhere.issued _ c s).trans (Elsewhere.onGroup _ c _))) hway _ _

end Words

/-- The transfers of words, of `WordTransferResults` (R243, R248, R250). -/
theorem wordTransferResults : WordTransferResults := by
  refine ⟨fun l a ch d c s => ?_, fun l a ch d c s => ?_, fun l a ch u c s => ?_, fun l a ch u c s => ?_⟩
  · intro i e x base n h halign hlow hwindow hroom hway
    exact ⟨_, pput_sends h halign hlow hwindow hroom hway, sends_issued (ready_of_through h).group _ _⟩
  · intro i e x n h halign hremote hin hroom hway
    obtain ⟨helse, hgroup⟩ := issued_then (i := i) (ready_of_through h).group (awaiting [] ((active c).map (wordLoad d)))
    refine ⟨_, pget_sends h halign hremote hin hroom hway, sends_takenUp helse hgroup ?_
      ⟨advance_length i c _ c.g, fun k hk => advance_lanes i c _ c.g k hk⟩ _ _⟩
    simp only [GroupKept, awaiting, List.append_nil]
    rfl
  · intro i e x hnd h hremote hh hin halign hroom hway
    exact ⟨_, patom_sends h hremote hh hin halign hroom hway, sends_pending (ready_of_through h).group _ _ _ _⟩
  · intro i e o dst src n h ho hres hreduce hplain hremote hin halign hmin hmax hmod hsrc hroom hway
    exact ⟨_, ppool_sends h ho hres hreduce hplain ⟨hremote, hin, halign⟩ ⟨hmin, hmax, hmod⟩ hsrc hroom hway,
      sends_pending (ready_of_through h).group _ _ _ _⟩

end Sys2Proof.Laws
end

section
/-!
Local bytes read for a transfer, and the pieces it is cut into (R195, R242).
-/

namespace Sys2Proof.Laws

open Sys2Proof.Machine Sys2Proof.Claims

/-! ## Pieces (R242) -/

/-- The pieces of a transfer cut its range at the multiples of 64. -/
theorem cut_pieces64 {fuel n : Nat} (hn : n < fuel) (a : Nat) : Cut a n (pieces64 fuel a n) := by
  induction fuel generalizing a n with
  | zero => omega
  | succ fuel ih =>
    rw [pieces64]
    by_cases h0 : n = 0
    · rw [if_pos h0]
      exact h0
    · rw [if_neg h0]
      have hmin : Nat.min n (64 - a % 64) = if n ≤ 64 - a % 64 then n else 64 - a % 64 := Nat.min_def
      have hstep : 0 < Nat.min n (64 - a % 64) ∧ Nat.min n (64 - a % 64) ≤ n ∧ a % 64 + Nat.min n (64 - a % 64) ≤ 64 ∧
          (Nat.min n (64 - a % 64) = n ∨ (a + Nat.min n (64 - a % 64)) % 64 = 0) := by
        rw [hmin]
        split_ifs <;> omega
      obtain ⟨hpos, hle, hunit, hend⟩ := hstep
      exact ⟨rfl, hpos, hle, hunit, hend, ih (by omega) _⟩

/-- A piece lies in the range that is cut. -/
theorem mem_cut {a n : Nat} {ps : List (Nat × Nat)} (h : Cut a n ps) {p : Nat × Nat} (hp : p ∈ ps) : a ≤ p.1 ∧ 0 < p.2 ∧ p.1 + p.2 ≤ a + n := by
  induction ps generalizing a n with
  | nil => exact absurd hp List.not_mem_nil
  | cons q ps ih =>
    obtain ⟨hat, hpos, hle, -, -, hrest⟩ := h
    rcases List.mem_cons.mp hp with rfl | hp'
    · omega
    · have := ih hrest hp'
      omega

/-! ## Bytes of the team window -/

theorem memReadN_append (m : Memory) (k i j : Nat) : memReadN m k (i + j) = memReadN m k i ++ memReadN m (k + i) j := by
  induction i generalizing k with
  | zero => simp [memReadN]
  | succ i ih => rw [Nat.add_right_comm, memReadN, ih, memReadN, List.cons_append, Nat.add_assoc, Nat.add_comm 1 i]

theorem toNat_windowAddr {a : DWord} (hcan : canonical a = true) (htop : topByte a = 0xFF) : a.toNat = 0xFF * 2 ^ 56 + field a 23 0 := by
  have ha := a.isLt
  have hmid : field a 55 24 = 0 := by simpa [canonical, htop] using hcan
  simp only [Machine.topByte, field] at htop hmid ⊢
  omega

theorem windowAddr_field {x f : Nat} (hx : x = 0xFF * 2 ^ 56 + f) (hf : f < 2 ^ 24) :
    field (BitVec.ofNat 64 x) 23 0 = f ∧ topByte (BitVec.ofNat 64 x) = 0xFF := by
  simp only [Machine.topByte, field, BitVec.toNat_ofNat]
  omega

section Source

variable {c : Ctx} {s u : State} {a : DWord} {n : Nat}

theorem at_single (hone : c.t.coreB = none) (a : DWord) (f : Nat) : teamKey c.t (field a 23 0 + f) = at_ c a + f := by
  simp only [at_, teamKey, hone, scratchKey, key]
  omega

theorem spoilt_cleanSource (h : CleanSource c s a n) {j m : Nat} (hfit : j + m ≤ n) (hm : 0 < m) : spoilt s (at_ c a + j) m = false := by
  obtain ⟨-, -, -, -, -, hclean⟩ := h
  obtain ⟨-, herr⟩ := hclean (at_ c a + j) (by omega) (by omega)
  have hpois : poisonedAt s (at_ c a + j) m = false := by
    rw [poisonedAt, List.any_eq_false]
    intro i hi hmem
    have hi' := List.mem_range.mp hi
    -- a byte of the range that lies in the poisoned unit
    obtain ⟨q, hlo, hhi, hq⟩ : ∃ q, at_ c a + j ≤ q ∧ q < at_ c a + j + m ∧ q / 8 = (at_ c a + j) / 8 + i :=
      ⟨max (at_ c a + j) (((at_ c a + j) / 8 + i) * 8), by omega, by omega, by omega⟩
    exact (hclean q (by omega) (by omega)).1 (hq ▸ List.contains_iff_mem.mp hmem)
  rw [spoilt, hpois, herr]
  rfl

/-- A part of a line of the source, as it is read. -/
theorem readSource_clean (h : CleanSource c s a n) {x j m : Nat} (hx : x = a.toNat + j) (hfit : j + m ≤ n) (hm : 0 < m) :
    readSource 2 c.t s (BitVec.ofNat 64 x) m = (s, readN s (at_ c a + j) m, 0) := by
  have hspoilt := spoilt_cleanSource h hfit hm
  obtain ⟨hcan, htop, hend, hcap, hone, -⟩ := h
  rw [toNat_windowAddr hcan htop, Nat.add_assoc] at hx
  rw [readSource, if_pos (by decide), (windowAddr_field hx (by omega)).1, at_single hone, readPlace_clean hspoilt]
  rfl

theorem foldl_linePieces_clean (h : CleanSource c s a n) {fuel x j m : Nat} (hx : x = a.toNat + j) (hfit : j + m ≤ n) (hm : m < fuel) (bs : List Byte) :
    (linePieces fuel x m).foldl (fun r p =>
      let q := readSource 2 c.t r.1 (BitVec.ofNat 64 p.1) p.2
      (q.1, r.2.1 ++ q.2.1, if r.2.2 == 0 then q.2.2 else r.2.2)) (s, bs, 0) = (s, bs ++ readN s (at_ c a + j) m, 0) := by
  induction fuel generalizing x j m bs with
  | zero => omega
  | succ fuel ih =>
    rw [linePieces]
    by_cases h0 : m = 0
    · subst h0
      rw [if_pos rfl, readN, memReadN, List.append_nil]
      rfl
    · rw [if_neg h0, List.foldl_cons, readSource_clean h hx (by omega) (by omega)]
      have hsplit : m = min m (128 - x % 128) + (m - min m (128 - x % 128)) := by omega
      refine (ih (j := j + min m (128 - x % 128)) (by omega) (by omega) (by omega) _).trans ?_
      rw [List.append_assoc, ← Nat.add_assoc, readN, readN, ← memReadN_append, ← hsplit]
      rfl

/-- Bytes of the source, as a transfer reads them. -/
theorem readLocal_clean (h : CleanSource c s a n) {j m : Nat} (hfit : j + m ≤ n) (hm : 0 < m) :
    readLocal c.t s (a + BitVec.ofNat 64 j) m = (s, readN s (at_ c a + j) m, 0) := by
  have hj : (a + BitVec.ofNat 64 j).toNat = a.toNat + j ∧ topByte (a + BitVec.ofNat 64 j) = 0xFF := by
    obtain ⟨hcan, htop, hend, hcap, -, -⟩ := h
    have ha := toNat_windowAddr hcan htop
    simp only [Machine.topByte, field, BitVec.toNat_add, BitVec.toNat_ofNat]
    omega
  rw [readLocal, hj.1, hj.2]
  exact foldl_linePieces_clean h rfl hfit (Nat.lt_succ_self m) []

/-- A piece of a transfer as it was read, with no error. -/
def readPiece (c : Ctx) (s : State) (a : DWord) (base : Nat) (p : Nat × Nat) : Nat × List Byte × Nat := (p.1, readN s (at_ c a + (p.1 - base)) p.2, 0)

theorem pushPieces_clean (h : CleanSource c s a n) {base : Nat} (htop : base + n ≤ 2 ^ 48) {ps : List (Nat × Nat)}
    (hps : ∀ p, p ∈ ps → base ≤ p.1 ∧ 0 < p.2 ∧ p.1 + p.2 ≤ base + n) :
    pushPieces c.t a base ps s = (s, ps.map (readPiece c s a base)) := by
  induction ps with
  | nil => rfl
  | cons p ps ih =>
    obtain ⟨hlo, hpos, hhi⟩ := hps p List.mem_cons_self
    rw [pushPieces, readLocal_clean h (by omega) hpos, ih fun q hq => hps q (List.mem_cons_of_mem _ hq)]
    simp only [readPiece, List.map_cons, if_neg (show ¬2 ^ 48 ≤ p.1 by omega)]

theorem failPieces_clean (tag : BitVec 32) (key : Nat → Nat) (base : Nat) (ps : List (Nat × Nat)) (u : State) :
    failPieces tag key (ps.map (readPiece c s a base)) u = u := by
  rw [failPieces, List.foldl_map]
  exact List.foldl_fixed _

/-- The flits of a transfer whose source could be read. -/
theorem pieceFlits_clean (base fin : Nat) (dest : FlitDest) (ps : List (Nat × Nat)) :
    pieceFlits s.nextTag dest fin (ps.map (readPiece c s a base)) =
      ps.map fun p => bareFlit 0 s.nextTag p.1 (readN s (at_ c a + (p.1 - base)) p.2) (p.2 - 1) (p.1 + p.2 == fin) dest := by
  have hkeep : (ps.map (readPiece c s a base)).filter (fun p => p.2.2 == 0) = ps.map (readPiece c s a base) :=
    List.filter_eq_self.mpr fun p hp => by
      obtain ⟨q, -, rfl⟩ := List.mem_map.mp hp
      rfl
  rw [pieceFlits, hkeep, List.map_map]
  refine List.map_congr_left fun p _ => ?_
  simp only [Function.comp, readPiece, readN, memReadN_length]
  rfl

/-- The source is the same in a state with the same memory. -/
theorem cleanSource_congr (h : CleanSource c s a n) (hpois : u.poison = s.poison) (hlines : u.lines = s.lines) : CleanSource c u a n := by
  obtain ⟨hcan, htop, hend, hcap, hone, hclean⟩ := h
  refine ⟨hcan, htop, hend, hcap, hone, fun q hlo hhi => ?_⟩
  rw [hpois, lineAt, hlines]
  exact hclean q hlo hhi

theorem readPiece_congr (h : u.mem = s.mem) (a : DWord) (base : Nat) : readPiece c u a base = readPiece c s a base := by
  funext p
  rw [readPiece, readPiece, readN, readN, h]

theorem localOk_of_cleanSource (h : CleanSource c s a n) : LocalOk c a n := by
  obtain ⟨hcan, htop, hend, -, -, -⟩ := h
  exact ⟨hcan, .inl ⟨htop, hend⟩⟩

end Source

/-! ## Check 8 of R239 -/

theorem localCheck_pass {c : Ctx} {a : DWord} {n : Nat} (h : LocalOk c a n) (hn : 0 < n) : localCheck c.t a n = none := by
  obtain ⟨hcan, ⟨htop, hend⟩ | ⟨htop, hend⟩⟩ := h
  · simp [localCheck, hcan, htop, hend]
  · have ha := a.isLt
    have hlast : (a + BitVec.ofNat 64 (n - 1)).toNat = a.toNat + (n - 1) := by
      rw [BitVec.toNat_add, BitVec.toNat_ofNat]
      omega
    have htop' : topByte (a + BitVec.ofNat 64 (n - 1)) = 0 := by
      rw [Machine.topByte, field, hlast]
      omega
    have hmid : field (a + BitVec.ofNat 64 (n - 1)) 55 48 = 0 := by
      rw [field, hlast]
      omega
    have hcan' : canonical (a + BitVec.ofNat 64 (n - 1)) = true := by simp [canonical, htop', hmid]
    have hspace : a.toNat + n ≤ 2 ^ 64 := by omega
    simpa [localCheck, hcan, htop, hcan', htop', require] using hspace

theorem lengthCheck_pass {n : DWord} (hmin : 4 ≤ n.toNat) (hmax : n.toNat < 2 ^ 32) (h4 : n.toNat % 4 = 0) : lengthCheck n = none :=
  require_pass (Bool.and_eq_true_iff.mpr ⟨decide_eq_true hmin, decide_eq_true (by omega)⟩) _ _

end Sys2Proof.Laws
end

section
/-!
`PSEND` and `PMCAST` (R242, R431, R437, R438), and the transfers of `ChannelTransferResults`.
-/

namespace Sys2Proof.Laws

open Sys2Proof.Machine Sys2Proof.Claims

theorem onChannel_psend (l : BitVec 4) (a : BitVec 6) (ch : BitVec 5) (u : BitVec 6) : OnChannel (.psend l a ch u) ch := .inl ⟨l, a, u, .inl rfl⟩

theorem onChannel_pmcast (l : BitVec 4) (a : BitVec 6) (ch : BitVec 5) (u : BitVec 6) : OnChannel (.pmcast l a ch u) ch :=
  .inl ⟨l, a, u, .inr (.inr (.inr (.inl rfl)))⟩

section Lines

variable {l : BitVec 4} {a : BitVec 6} {ch : BitVec 5} {u : BitVec 6} {c : Ctx} {s : State}

/-- The state in which a transfer reads its source: issued, and the idempotent flag withdrawn. -/
def readIn (i : Instr) (c : Ctx) (s : State) : State := withdrawIdem (issued i c s) c true

theorem pushPieces_readIn {i : Instr} {src : DWord} {base n : Nat} (h : CleanSource c s src n) (htop : base + n ≤ 2 ^ 48) :
    pushPieces c.t src base (pieces64 (n + 1) base n) (readIn i c s) =
      (readIn i c s, (pieces64 (n + 1) base n).map (readPiece c s src base)) := by
  have hissued := (Elsewhere.issued i c s).rest
  have hmem : (readIn i c s).mem = s.mem := by
    show (issued i c s).mem = _
    rw [hissued]
  have hpois : (readIn i c s).poison = s.poison := by
    show (issued i c s).poison = _
    rw [hissued]
  have hlines : (readIn i c s).lines = s.lines := by
    show (issued i c s).lines = _
    rw [hissued]
  rw [pushPieces_clean (cleanSource_congr h hpois hlines) htop fun p hp => mem_cut (cut_pieces64 (Nat.lt_succ_self n) base) hp,
    readPiece_congr hmem]

/-! ## `PSEND` -/

/-- The offset at which a push lands (R242). -/
def pushBase (c : Ctx) (ch : BitVec 5) (dst : DWord) : Nat :=
  if capKind (capAt c ch) = 0 ∨ capKind (capAt c ch) = 4 then field dst 39 0 else if capKind (capAt c ch) = 1 then dst.toNat else 0

theorem psendChecks_push (h : Through (.psend l a ch u) c s ch) (hlen : lengthCheck (readS c.g (a + 2)) = none)
    (hmin : 0 < (readS c.g (a + 2)).toNat) (h4 : (readS c.g (a + 2)).toNat % 4 = 0) (hsrc : (readS c.g a).toNat % 4 = 0)
    (hclean : CleanSource c s (readS c.g a) (readS c.g (a + 2)).toNat)
    (hdst : capKind (capAt c ch) ≠ 2 → (readS c.g (a + 1)).toNat % 4 = 0)
    (hto : capKind (capAt c ch) = 0 ∨ capKind (capAt c ch) = 4 →
      RemoteOk c ch (readS c.g (a + 1)) ∧ InWindow c ch (readS c.g (a + 1)) (readS c.g (a + 2)).toNat) :
    firstCheck (psendChecks (guestOf s c.t.vc) c (capAt c ch) (readS c.g a) (readS c.g (a + 1)) (readS c.g (a + 2))) = none := by
  have htop : topByte (readS c.g a) = 0xFF := hclean.2.1
  rw [psendChecks, List.append_assoc, List.append_assoc]
  refine (firstCheck_entry h (onChannel_psend l a ch u) _).trans ?_
  have hlocal := localCheck_pass (localOk_of_cleanSource hclean) hmin
  generalize readS c.g (a + 1) = dst at hdst hto
  generalize readS c.g (a + 2) = len at hlen hmin h4 hclean hto hlocal
  have hd : (if capKind (capAt c ch) == 2 && !(topByte (readS c.g a) == 0x01) then none else alignCheck dst 4) = none := by
    by_cases h2 : capKind (capAt c ch) = 2
    · simp [h2, htop]
    · simp [h2, alignCheck_pass (hdst h2)]
  have hpod : ((if capKind (capAt c ch) == 0 || capKind (capAt c ch) == 4 then [podAddrCheck (capAt c ch) dst] else []) ++
      (if capKind (capAt c ch) == 0 || capKind (capAt c ch) == 4 then [windowCheck (capAt c ch) dst len.toNat] else []) : List Check) =
      if capKind (capAt c ch) == 0 || capKind (capAt c ch) == 4 then [none, none] else [] := by
    split_ifs with hk
    · obtain ⟨hremote, hin⟩ := hto (by simpa using hk)
      rw [podAddrCheck_pass hremote, windowCheck_pass hin]
      rfl
    · rfl
  rw [hd, hlen, alignCheck_pass hsrc, alignCheck_pass h4, ← List.append_assoc]
  have hpull : (topByte (readS c.g a) == 1) = false := by rw [htop]; rfl
  simp only [hpull, Bool.false_eq_true, if_false, hlocal, hpod]
  split_ifs <;> rfl

theorem psend_pushes (h : Through (.psend l a ch u) c s ch) (hlen : lengthCheck (readS c.g (a + 2)) = none)
    (hmin : 0 < (readS c.g (a + 2)).toNat) (h4 : (readS c.g (a + 2)).toNat % 4 = 0) (hsrc : (readS c.g a).toNat % 4 = 0)
    (hclean : CleanSource c s (readS c.g a) (readS c.g (a + 2)).toNat)
    (hdst : capKind (capAt c ch) ≠ 2 → (readS c.g (a + 1)).toNat % 4 = 0)
    (hto : capKind (capAt c ch) = 0 ∨ capKind (capAt c ch) = 4 →
      RemoteOk c ch (readS c.g (a + 1)) ∧ InWindow c ch (readS c.g (a + 1)) (readS c.g (a + 2)).toNat)
    (hroom : HasRoom c ch (readS c.g (a + 2)).toNat) (hway : Reachable c s ch (capVcn (capAt c ch)))
    (hend : pushBase c ch (readS c.g (a + 1)) + (readS c.g (a + 2)).toNat ≤ 2 ^ 48) :
    let base := pushBase c ch (readS c.g (a + 1))
    let n := (readS c.g (a + 2)).toNat
    let ps := pieces64 (n + 1) base n
    exec (.psend l a ch u) s = .next (takenUp c
      (podOp c s .push ch n u (capVcn (capAt c ch)) (ps.map fun p => (p.1, 0)) n s.nextTag)
      (outgoing s c.t.vc (capVcn (capAt c ch)) (capLabel (capAt c ch)) (pushFlits c s (readS c.g a) base n (capDest (capAt c ch)) ps))
      (onGroup (issued (.psend l a ch u) c s) c (awaiting (tokensFor u s.nextTag) []))) := by
  intro base n ps
  have hpull : (topByte (readS c.g a) == 1) = false := by rw [hclean.2.1]; rfl
  have hbase : (if capKind (capAt c ch) == 0 || capKind (capAt c ch) == 4 then podOff (readS c.g (a + 1))
      else if capKind (capAt c ch) == 1 then (readS c.g (a + 1)).toNat else 0) = base := by
    simp only [Bool.or_eq_true, beq_iff_eq]
    rfl
  have hnobad : (ps.map (readPiece c s (readS c.g a) base)).find? (fun p => p.2.2 != 0) = none :=
    List.find?_eq_none.mpr fun p hp => by
      obtain ⟨q, -, rfl⟩ := List.mem_map.mp hp
      exact Bool.false_ne_true
  have hleft : (ps.map (readPiece c s (readS c.g a) base)).map (fun p => (p.1, (0 : DWord))) = ps.map fun p => (p.1, 0) := List.map_map
  show execPsend l a ch u s = _
  rw [execPsend]
  refine (podIssue_passes (ready_of_through h) (unpaused_of_through h) (psendChecks_push h hlen hmin h4 hsrc hclean hdst hto)).trans
    (congrArg Host.Outcome.next ((if_neg ?_).trans ?_))
  · rw [hasAllowance_iff.mpr hroom]
    exact Bool.false_ne_true
  · rw [hpull, Bool.false_and, if_neg Bool.false_ne_true, if_neg Bool.false_ne_true, push, hbase]
    dsimp only
    rw [show withdrawIdem _ c true = readIn (.psend l a ch u) c s from rfl, pushPieces_readIn hclean hend, hleft, hnobad, Option.isSome_none, Bool.and_false,
      if_neg Bool.false_ne_true, failPieces_clean]
    refine (sendTo_begun (mk := fun tag => podOp c s .push ch n u (capVcn (capAt c ch)) (ps.map fun p => (p.1, 0)) n tag) (by nofun) rfl hway u
      fun tag => pieceFlits tag (capDest (capAt c ch)) (base + n) (ps.map (readPiece c s (readS c.g a) base))).trans ?_
    rw [pieceFlits_clean]
    rfl

theorem psend_pulls (h : Through (.psend l a ch u) c s ch) (hlen : lengthCheck (readS c.g (a + 2)) = none)
    (hmin : 0 < (readS c.g (a + 2)).toNat) (h4 : (readS c.g (a + 2)).toNat % 4 = 0) (hsrc : (readS c.g a).toNat % 4 = 0)
    (htop : topByte (readS c.g a) = 1) (hremote : RemoteOk c ch (readS c.g a)) (hin : InWindow c ch (readS c.g a) (readS c.g (a + 2)).toNat)
    (hlocal : LocalOk c (readS c.g (a + 1)) (readS c.g (a + 2)).toNat) (hdst : (readS c.g (a + 1)).toNat % 4 = 0)
    (hcopy : copyHeld s c [(readS c.g (a + 1), (readS c.g (a + 2)).toNat)] = false)
    (hroom : HasRoom c ch (readS c.g (a + 2)).toNat) (hway : Reachable c s ch (capVcn (capAt c ch))) :
    let base := field (readS c.g a) 39 0
    let n := (readS c.g (a + 2)).toNat
    let ps := pieces64 (n + 1) base n
    exec (.psend l a ch u) s = .next (takenUp c
      (podOp c s .pull ch n u (capVcn (capAt c ch)) (ps.map fun p => (p.1, readS c.g (a + 1) + BitVec.ofNat 64 (p.1 - base))) n s.nextTag)
      (outgoing s c.t.vc (capVcn (capAt c ch)) (capLabel (capAt c ch))
        (ps.map fun p => bareFlit 1 s.nextTag p.1 [] (p.2 - 1) (p.1 + p.2 == base + n) (capDest (capAt c ch))))
      (onGroup (issued (.psend l a ch u) c s) c (awaiting (tokensFor u s.nextTag) []))) := by
  intro base n ps
  have hpull : (topByte (readS c.g a) == 1) = true := by rw [htop]; rfl
  show execPsend l a ch u s = _
  rw [execPsend]
  refine (podIssue_passes (ready_of_through h) (unpaused_of_through h) ?_).trans (congrArg Host.Outcome.next ((if_neg ?_).trans ?_))
  · rw [psendChecks, List.append_assoc, List.append_assoc]
    refine (firstCheck_entry h (onChannel_psend l a ch u) _).trans ?_
    rw [hpull, hlen, alignCheck_pass hsrc, alignCheck_pass hdst, alignCheck_pass h4, podAddrCheck_pass hremote, windowCheck_pass hin, if_pos rfl,
      if_pos rfl, if_pos rfl, localCheck_pass hlocal hmin, Bool.not_true, Bool.and_false]
    rfl
  · rw [hasAllowance_iff.mpr hroom]
    exact Bool.false_ne_true
  · rw [hcopy, Bool.and_false, if_neg Bool.false_ne_true, hpull, if_pos rfl]
    exact sendTo_begun (mk := fun tag => podOp c s .pull ch n u (capVcn (capAt c ch))
      (ps.map fun p => (p.1, readS c.g (a + 1) + BitVec.ofNat 64 (p.1 - base))) n tag) (by nofun) rfl hway u
      fun tag => ps.map fun p => bareFlit opGet tag p.1 [] (p.2 - 1) (p.1 + p.2 == base + n) (capDest (capAt c ch))

/-! ## `PMCAST` -/

/-- Every member of a set is sent the same flits, one after another. -/
theorem foldl_sendTo {t : State} {o : PodOp} {fs : List Flit} {tag : BitVec 32} {label : Nat} (hsame : SameWays s t) {ms : List Nat}
    (hway : ∀ m, m ∈ ms → (legTo s c.t.vc m label).2 = true) (out : List Egress) :
    ms.foldl (fun x m => sendTo x c.t.vc m label tag fs) (takenUp c o out t) =
      takenUp c o (out ++ ms.flatMap fun m => outgoing s c.t.vc m label fs) t := by
  induction ms generalizing out with
  | nil => rw [List.flatMap_nil, List.append_nil, List.foldl_nil]
  | cons m ms ih =>
    rw [List.foldl_cons, sendTo_takenUp hsame (hway m List.mem_cons_self), ih (fun k hk => hway k (List.mem_cons_of_mem _ hk)),
      List.flatMap_cons, List.append_assoc]

/-- Where a member of a guest stands in the names of the pieces. -/
def seatOf (c : Ctx) (s : State) (m : Nat) : Nat :=
  vcnPkg (vcnEntry (guestOf s c.t.vc) m) * 16 + vcnSlot (vcnEntry (guestOf s c.t.vc) m)

theorem pmcast_sends (h : Through (.pmcast l a ch u) c s ch) (hlen : lengthCheck (readS c.g (a + 2)) = none)
    (hmin : 0 < (readS c.g (a + 2)).toNat) (h4 : (readS c.g (a + 2)).toNat % 4 = 0) (hsrc : (readS c.g a).toNat % 4 = 0)
    (hdst : (readS c.g (a + 1)).toNat % 4 = 0) (hend : (readS c.g (a + 1)).toNat + (readS c.g (a + 2)).toNat ≤ 2 ^ 48)
    (hclean : CleanSource c s (readS c.g a) (readS c.g (a + 2)).toNat)
    (hroom : HasRoom c ch ((readS c.g (a + 2)).toNat * (capPeers (guestOf s c.t.vc) (capAt c ch)).length))
    (hway : ∀ m, m ∈ capPeers (guestOf s c.t.vc) (capAt c ch) → Reachable c s ch m) :
    let base := (readS c.g (a + 1)).toNat
    let n := (readS c.g (a + 2)).toNat
    let ps := pieces64 (n + 1) base n
    let ms := capPeers (guestOf s c.t.vc) (capAt c ch)
    exec (.pmcast l a ch u) s = .next (takenUp c
      (podOp c s .mcast ch (n * ms.length) u (capVcn (capAt c ch))
        (ms.flatMap fun m => ps.map fun p => (seatOf c s m * 2 ^ 64 + p.1, BitVec.ofNat 64 m)) n s.nextTag)
      (ms.flatMap fun m => outgoing s c.t.vc m (capLabel (capAt c ch)) (pushFlits c s (readS c.g a) base n .memory ps))
      (onGroup (issued (.pmcast l a ch u) c s) c (awaiting (tokensFor u s.nextTag) []))) := by
  intro base n ps ms
  have hallowed : allows c (.pmcast l a ch u) = true := (allows_iff (onChannel_pmcast l a ch u) c).mpr h.2.2.1
  have hkind : capKind (capAt c ch) = 3 := by
    rw [allows, Bool.and_eq_true, beq_iff_eq] at hallowed
    exact hallowed.1
  have hms : mcastMembers (guestOf s c.t.vc) (capMset (capAt c ch)) = ms := by
    rw [show ms = capPeers _ _ from rfl, capPeers, if_pos (beq_iff_eq.mpr hkind)]
  have hleft : (ms.flatMap fun m => (ps.map (readPiece c s (readS c.g a) base)).map fun p =>
      (pieceKey (podOp c s .mcast ch 0 u 0 [] 0 0) (vcnPkg (vcnEntry (guestOf s c.t.vc) m)) (vcnSlot (vcnEntry (guestOf s c.t.vc) m)) p.1, BitVec.ofNat 64 m)) =
      ms.flatMap fun m => ps.map fun p => (seatOf c s m * 2 ^ 64 + p.1, BitVec.ofNat 64 m) :=
    congrArg (fun f => ms.flatMap f) (funext fun m => List.map_map)
  show execPmcast l a ch u s = _
  rw [execPmcast]
  refine (podIssue_passes (ready_of_through h) (unpaused_of_through h) ((firstCheck_entry h (onChannel_pmcast l a ch u) _).trans ?_)).trans
    (congrArg Host.Outcome.next ((if_neg ?_).trans ?_))
  · rw [hlen, localCheck_pass (localOk_of_cleanSource hclean) hmin, alignCheck_pass hsrc, alignCheck_pass hdst, alignCheck_pass h4]
    rfl
  · rw [hms, hasAllowance_iff.mpr hroom]
    exact Bool.false_ne_true
  · dsimp only
    rw [show withdrawIdem _ c true = readIn (.pmcast l a ch u) c s from rfl, hms, pushPieces_readIn hclean hend, hleft]
    simp only [failPieces_clean]
    rw [show readIn (.pmcast l a ch u) c s = withdrawIdem (issued (.pmcast l a ch u) c s) c true from rfl,
      beginOp_withdrawn (by nofun) rfl, issued_nextTag, pendPod_takenUp, pieceFlits_clean]
    exact foldl_sendTo (sameWays_of_elsewhere ((Elsewhere.issued _ c s).trans (Elsewhere.onGroup _ c _))) hway []

end Lines

/-- The transfers of lines, of `TransferResults` (R242). -/
theorem transferResults : TransferResults := by
  refine ⟨fun l a ch u c s => ?_, fun l a ch u c s => ?_⟩
  · intro i e src dst n h hmin hmax h4 hsrc hroom hway
    have hlen := lengthCheck_pass hmin hmax h4
    constructor
    · intro hclean hdst hto base hend
      exact ⟨_, _, psend_pushes h hlen (by omega) h4 hsrc hclean hdst hto hroom hway hend, cut_pieces64 (Nat.lt_succ_self n) base,
        sends_pending (ready_of_through h).group _ _ _ _⟩
    · intro htop hremote hin hlocal hdst hcopy base
      exact ⟨_, _, psend_pulls h hlen (by omega) h4 hsrc htop hremote hin hlocal hdst hcopy hroom hway, cut_pieces64 (Nat.lt_succ_self n) base,
        sends_pending (ready_of_through h).group _ _ _ _⟩
  · intro i e src base n ms seat h hmin hmax h4 hsrc hdst hend hclean hroom hway
    exact ⟨_, _, pmcast_sends h (lengthCheck_pass hmin hmax h4) (by omega) h4 hsrc hdst hend hclean hroom hway,
      cut_pieces64 (Nat.lt_succ_self n) base, sends_pending (ready_of_through h).group _ _ _ _⟩

/-- Settles O45: once its checks pass, a channel instruction issues, its operation is taken up, and its flits are queued behind what is
queued; a transfer's source is read piece by piece, and reading clean bytes changes nothing. -/
theorem channelTransferResults : Obligations.ChannelTransferResults := ⟨transferResults, wordTransferResults⟩

end Sys2Proof.Laws
end

section
/-!
Bring-up, clock steps and the readback mailbox (R273, R302 to R304).
-/

namespace Sys2Proof.Laws

open Sys2Proof.Machine Sys2Proof.Claims

/-! ## Bring-up (R273, R302) -/

theorem imageOk_iff (x : BootImage) : imageOk x = true ↔
    ecdsaVerify x.keyX x.keyY x.sigR x.sigS (beNat (sha512 x.image)) = true ∧
      sha512 (beBytes 66 x.keyX ++ beBytes 66 x.keyY) = beBytes 64 Config.fusedKeyHash.toNat ∧ Config.fusedVersion ≤ x.version := by
  rw [imageOk, Bool.and_eq_true, Bool.and_eq_true, beq_iff_eq, decide_eq_true_iff, and_assoc]

section BringUp

variable {s : State} {image : BootImage}

theorem powerGood_begins (h : s.pkgStat = 0) (hv : 0 < s.vchips.length) (hok : imageOk image = true) :
    exec (.powerGood image) s = .next { s with
      pkgStat := 2, raised0 := s.raised0 ++ [2, 2], olzer := some image, mhz := 400, vchips := s.vchips.set 0 reducedChip } := by
  have hset : listMod (fun _ => reducedChip) 0 s.vchips = s.vchips.set 0 reducedChip := listMod_eq_set (List.getElem?_eq_getElem hv) _
  show execPowerGood image s = _
  rw [execPowerGood, h, if_neg (by decide), if_pos hok, modVc, ← hset]
  simp [setPkgStat]

theorem powerGood_fails (h : s.pkgStat = 0) (hbad : ¬imageOk image = true) :
    exec (.powerGood image) s = .next { s with pkgStat := 4, raised0 := s.raised0 ++ [2, 2], olzer := some image } := by
  show execPowerGood image s = _
  rw [execPowerGood, h, if_neg (by decide), if_neg hbad]
  simp [setPkgStat]

theorem powerGood_on (h : s.pkgStat ≠ 0) : exec (.powerGood image) s = .next s := if_pos (bne_iff_ne.mpr h)

variable {hbm optics : Bool}

theorem trainingComplete_other (h : s.pkgStat ≠ 2) : exec (.trainingComplete hbm optics) s = .next s := if_pos (bne_iff_ne.mpr h)

theorem trainingComplete_serves (h : s.pkgStat = 2) (hrun : (vchip s 0).launches ≠ []) : exec (.trainingComplete true true) s = .next
    { s with pkgStat := 3, raised0 := s.raised0 ++ [2], hbmTrained := true, opticsOk := true, mhz := 1200 } := by
  have hbusy : (vchip s 0).launches.isEmpty = false := List.isEmpty_eq_false_iff.mpr hrun
  show execTrainingComplete true true s = _
  rw [execTrainingComplete, h, if_neg (by decide)]
  refine congrArg Host.Outcome.next (if_neg ?_)
  show ¬((vchip s 0).reduced && _ && (vchip s 0).launches.isEmpty) = true
  rw [hbusy, Bool.and_false]
  exact Bool.false_ne_true

/-- A package whose training ends badly has failed, and the chip of reduced service goes. -/
theorem trainingComplete_fails (h : s.pkgStat = 2) (hbad : hbm = false ∨ optics = false) :
    let t := { s with pkgStat := 4, raised0 := s.raised0 ++ [2], hbmTrained := hbm, opticsOk := optics }
    exec (.trainingComplete hbm optics) s = .next (if (vchip s 0).reduced then destroyVc t 0 else t) := by
  have hno : (hbm && optics) = false := by rwa [Bool.and_eq_false_iff]
  show execTrainingComplete hbm optics s = _
  rw [execTrainingComplete, h, if_neg (by decide), hno]
  rfl

end BringUp

/-! ## The clock (R304) -/

section Clock

variable {s : State}

theorem nominalMhz_eq (s : State) : nominalMhz s = if s.pkgStat = 2 then 400 else 1200 := by
  rw [nominalMhz]
  simp only [beq_iff_eq]

theorem atRegroup_iff : atRegroup s = true ↔ ∀ c ∈ s.cores, c.clock.toNat % 4 = 0 := by simp only [atRegroup, List.all_eq_true, beq_iff_eq]

theorem clockStep_steps (up : Bool) {m : Nat} (hm : (if up then s.mhz + 100 else s.mhz - 100) = m) (hpos : 0 < m) (hmax : m ≤ nominalMhz s)
    (hb : atRegroup s = true) : exec (.clockStep up) s = .next (pkgEvent { s with mhz := m } 16 [(9, if up then 1 else 0), (10, m)]) := by
  show execClockStep up s = _
  rw [execClockStep, hm, hb]
  exact if_neg (by simp; omega)

theorem clockStep_tooFast (h : nominalMhz s < s.mhz + 100) : exec (.clockStep true) s = .next s := by
  show execClockStep true s = _
  rw [execClockStep]
  refine if_pos ?_
  simp only [if_true, decide_eq_true h, Bool.or_true, Bool.true_or]

end Clock

/-! ## The readback mailbox (R235, R272, R303) -/

theorem leBytes_lt (bs : List Byte) : leBytes bs < 256 ^ bs.length := by
  induction bs with
  | nil => exact Nat.one_pos
  | cons b bs ih =>
    have hb := b.isLt
    rw [leBytes, List.length_cons, Nat.pow_succ]
    omega

theorem leBytes_byte {bs : List Byte} {i : Nat} {b : Byte} (h : bs[i]? = some b) : leBytes bs / 2 ^ (8 * i) % 256 = b.toNat := by
  induction bs generalizing i with
  | nil => simp at h
  | cons x bs ih =>
    have hx := x.isLt
    cases i with
    | zero =>
      obtain rfl : x = b := by simpa using h
      rw [leBytes, Nat.mul_zero, Nat.pow_zero, Nat.div_one]
      omega
    | succ i =>
      have hnext : (x.toNat + 256 * leBytes bs) / 256 = leBytes bs := by omega
      rw [leBytes, show 2 ^ (8 * (i + 1)) = 256 * 2 ^ (8 * i) by rw [Nat.mul_succ, Nat.pow_add, Nat.mul_comm], ← Nat.div_div_eq_div_mul, hnext]
      exact ih (by simpa using h)

/-- A byte of a word that is read byte by byte. -/
theorem wordByte {f : Nat → Byte} {i : Nat} (hi : i < 8) :
    (BitVec.ofNat 64 (leBytes ((List.range 8).map f))).toNat / 2 ^ (8 * i) % 256 = (f i).toNat := by
  have hlt := leBytes_lt ((List.range 8).map f)
  rw [List.length_map, List.length_range] at hlt
  rw [BitVec.toNat_ofNat, Nat.mod_eq_of_lt (b := 2 ^ 64) hlt]
  refine leBytes_byte ?_
  rw [List.getElem?_map, List.getElem?_range hi]
  rfl

section Readback

variable {s : State}

theorem rbAddr_eq (s : State) : rbAddr s = s.rbaddr.toNat % 2 ^ 56 := field_low _ _

theorem rbSpace_eq (s : State) : rbSpace s = s.rbaddr.toNat / 2 ^ 56 := by
  have hlt := s.rbaddr.isLt
  rw [rbSpace, field]
  omega

theorem exec_readbackRead (h : s.pkgStat ≠ 0) : exec .readbackRead s = .next (rbRead s) :=
  congrArg Host.Outcome.next (if_neg fun h0 => h (beq_iff_eq.mp h0))

theorem exec_readbackWrite (h : s.pkgStat ≠ 0) : exec .readbackWrite s = .next (rbWrite s) :=
  congrArg Host.Outcome.next (if_neg fun h0 => h (beq_iff_eq.mp h0))

/-- A register that is no counter which its guest's list keeps from the host. -/
theorem rbReadReg_allowed {fn off : Nat}
    (h : ∀ v id, counterRead s fn off = some (v, id) → (vchip s v).used = true → readAllowed s v id = true) :
    rbReadReg s fn off = { s with rbdata := readReg s fn off, rberr := 0 } := by
  rw [rbReadReg]
  cases hc : counterRead s fn off with
  | none => rfl
  | some p =>
    refine if_neg ?_
    rw [Bool.and_eq_true, Bool.not_eq_true']
    rintro ⟨hused, hno⟩
    rw [h p.1 p.2 hc hused] at hno
    exact Bool.noConfusion hno

theorem rbReadReg_denied {fn off v id : Nat} (hc : counterRead s fn off = some (v, id)) (hused : (vchip s v).used = true)
    (hno : readAllowed s v id = false) : rbReadReg s fn off = { event s v 8 [(10, id)] with rbdata := 0, rberr := 0 } := by
  rw [rbReadReg, hc]
  dsimp only
  rw [hused, hno]
  rfl

theorem scratchSecret_iff {core off : Nat} : scratchSecret s core off = true ↔ ∃ u, u ∈ s.teams ∧ inPlace u = true ∧ u.protKey ≠ none ∧
    ((u.coreA = core ∧ u.baseA ≤ off ∧ off < u.baseA + shareBytes u) ∨ (u.coreB = some core ∧ u.baseB ≤ off ∧ off < u.baseB + shareBytes u)) := by
  simp only [scratchSecret, List.any_eq_true, Bool.and_eq_true, Bool.or_eq_true, beq_iff_eq, decide_eq_true_iff, Option.isSome_iff_ne_none, and_assoc]

/-- A byte of scratchpad as the mailbox shows it (R303). -/
theorem rbScratch_byte {a : Nat} (ha : a / 2 ^ 23 % 2 = 0) {i : Nat} (hi : i < 8) :
    (rbScratch s a).toNat / 2 ^ (8 * i) % 256 = if scratchSecret s (a / 2 ^ 24) (a % 2 ^ 23 / 8 * 8 + i) then 0
      else (memRead s.mem (scratchKey (a / 2 ^ 24) (a % 2 ^ 23 / 8 * 8 + i))).toNat := by
  rw [rbScratch, if_neg (by omega), wordByte hi]
  split_ifs <;> rfl

theorem fillSlot_vchips (s : State) (g b : Nat) (e : DWord) : (fillSlot s g b e).vchips = s.vchips := by
  have hfold (slot : Nat) (vs : List Nat) (u : State) : (vs.foldl (fillLink slot b) u).vchips = u.vchips := by
    induction vs generalizing u with
    | nil => rfl
    | cons v vs ih =>
      rw [List.foldl_cons, ih, fillLink]
      split
      · split_ifs <;> rfl
      · rfl
  exact hfold _ _ _

/-- A table word changes no virtual chip. -/
theorem putTable_vchips (s : State) (a x : DWord) : (putTable s a x).vchips = s.vchips := by
  rw [putTable]
  split
  · dsimp only
    by_cases hon : (vcnV (x &&& 0xFFFFFF0000000000) && vcnEn (x &&& 0xFFFFFF0000000000)) = true
    · rw [if_pos hon, fillSlot_vchips]
      rfl
    · rw [if_neg hon, apply_ite State.vchips]
      exact ite_self _
  · rfl
  · rfl

theorem rbTable_writes (hok : tableOk s s.rbaddr s.rbdata = true)
    (hrun : ∀ v, v ∈ guestChips s (field s.rbaddr 3 0) → (vchip s v).tdisp ≠ .run) :
    rbTable s = { putTable s s.rbaddr s.rbdata with rberr := 0 } := by
  rw [rbTable, if_pos hok, show (argTable s.rbaddr).1 = field s.rbaddr 3 0 from rfl, changeRecords_none (putTable_vchips _ _ _) hrun]

theorem laserModuleReenable_sets (h : s.pkgStat ≠ 0) {b : BitVec 4} (hb : s.lasers[s.rbaddr.toNat / 8 % 64]? = some b) :
    exec .laserModuleReenable s = .next { s with
      lasers := s.lasers.set (s.rbaddr.toNat / 8 % 64) (b ||| BitVec.twoPow 4 (s.rbaddr.toNat % 4)), rberr := 0 } := by
  have hport : field s.rbaddr 8 3 = s.rbaddr.toNat / 8 % 64 := rfl
  have hmodule : field s.rbaddr 1 0 = s.rbaddr.toNat % 4 := field_low _ _
  refine congrArg Host.Outcome.next ((if_neg fun h0 => h (beq_iff_eq.mp h0)).trans ?_)
  rw [reenable, hport, hmodule, listMod_eq_set hb]

end Readback

/-- Settles O60: each event's effect by its branches, a word of scratchpad byte by byte. -/
theorem packageResults : Obligations.PackageResults := by
  refine ⟨fun s image => ⟨fun h hv => ?_, fun h hbad => powerGood_fails h (mt (imageOk_iff image).mp hbad), powerGood_on⟩,
    fun s hbm optics => ⟨fun h hh ho hrun => ?_, fun h hbad => ⟨fun hr => ⟨?_, ?_⟩, fun hr => ?_⟩, trainingComplete_other⟩,
    fun s => ⟨fun hb hlow hmax => ?_, fun hb hmax => ?_, fun hfast => clockStep_tooFast (nominalMhz_eq s ▸ hfast)⟩, fun s h => ?_⟩
  · by_cases hok : imageOk image = true
    · exact .inl ⟨(imageOk_iff image).mp hok, _, reducedChip, powerGood_begins h hv hok, rfl, rfl, rfl, rfl⟩
    · exact .inr ⟨mt (imageOk_iff image).mpr hok, powerGood_fails h hok⟩
  · subst hh ho
    exact trainingComplete_serves h hrun
  · exact (trainingComplete_fails h hbad).trans (congrArg Host.Outcome.next (if_pos hr))
  · rw [(destroyVc_frees _ 0).1]
    rfl
  · exact (trainingComplete_fails h hbad).trans (congrArg Host.Outcome.next (if_neg (Bool.eq_false_iff.mp hr)))
  · exact clockStep_steps false rfl (by omega) (nominalMhz_eq s ▸ hmax) (atRegroup_iff.mpr hb)
  · exact clockStep_steps true rfl (by omega) (nominalMhz_eq s ▸ hmax) (atRegroup_iff.mpr hb)
  · intro a space fn off
    refine ⟨fun h0 => ?_, fun h1 hdata => ?_, fun h5 hok hrun => ?_, fun b port hport hb => ?_⟩
    · have hread : rbRead s = rbReadReg s fn off := by
        rw [rbRead, rbSpace_eq, rbAddr_eq, show s.rbaddr.toNat / 2 ^ 56 = 0 from h0]
        rfl
      have hwrite : rbWrite s = { writeReg s fn off s.rbdata with rberr := 0 } := by
        rw [rbWrite, rbSpace_eq, rbAddr_eq, show s.rbaddr.toNat / 2 ^ 56 = 0 from h0]
        rfl
      rw [exec_readbackRead h, exec_readbackWrite h, hread, hwrite]
      exact ⟨fun hall => congrArg Host.Outcome.next (rbReadReg_allowed hall),
        fun v id hc hused hno => congrArg Host.Outcome.next (rbReadReg_denied hc hused hno), rfl⟩
    · have hread : rbRead s = { s with rbdata := rbScratch s a, rberr := 0 } := by
        rw [rbRead, rbSpace_eq, rbAddr_eq, show s.rbaddr.toNat / 2 ^ 56 = 1 from h1]
        rfl
      refine ⟨rbScratch s a, (exec_readbackRead h).trans (congrArg Host.Outcome.next hread), fun i hi => ⟨fun hs => ?_, fun hs => ?_⟩⟩
      · rw [rbScratch_byte hdata hi]
        exact if_pos (scratchSecret_iff.mpr hs)
      · rw [rbScratch_byte hdata hi]
        exact if_neg (mt scratchSecret_iff.mp hs)
    · have hwrite : rbWrite s = rbTable s := by
        rw [rbWrite, rbSpace_eq, show s.rbaddr.toNat / 2 ^ 56 = 5 from h5]
        rfl
      rw [exec_readbackWrite h, hwrite, rbTable_writes hok hrun]
    · subst hport
      exact laserModuleReenable_sets h hb

end Sys2Proof.Laws
end

section
/-!
The slots of the schedule: sending, acknowledging, sending again, expiry and loss of light (R227 to R235, R251).
-/

namespace Sys2Proof.Laws

open Sys2Proof.Machine Sys2Proof.Claims

/-! ## Ports (R225, R228, R229) -/

section Ports

variable {s : State} {k : Nat}

/-- A module feeds four wavelengths. -/
theorem wavelengths_modules (b : BitVec 4) :
    ((List.range 16).filter fun w => b.getLsbD (w / 4)).length = 4 * ((List.range 4).filter fun m => b.getLsbD m).length := by
  revert b
  decide

theorem portRate_lit {b : BitVec 4} (h : s.lasers[k]? = some b) :
    portRate s k = 256 * ((List.range 4).filter fun m => b.getLsbD m).length := by
  rw [portRate, liveWavelengths, h, Option.getD_some, wavelengths_modules]
  omega

theorem modules_pos {b : BitVec 4} (h : b ≠ 0) : 0 < ((List.range 4).filter fun m => b.getLsbD m).length := by
  revert b
  decide

/-- Port k of package s has light. -/
def isLit (s : State) (k : Nat) : Prop := ∃ b, s.lasers[k]? = some b ∧ b ≠ 0

theorem two_le_portCapacity (hstop : s.stopped = []) (h : isLit s k) : 2 ≤ portCapacity s k := by
  obtain ⟨b, hb, hne⟩ := h
  have hpos := modules_pos hne
  rw [portCapacity, hstop, portRate_lit hb, if_neg (by simp), show slotDataNs = 2000 from rfl]
  omega

theorem portCapacity_dark (h : ¬isLit s k) : portCapacity s k = 0 := by
  have hrate : portRate s k = 0 := by
    cases hb : s.lasers[k]? with
    | none => simp [portRate, liveWavelengths, hb]
    | some b =>
      obtain rfl : b = 0 := by_contra fun hne => h ⟨b, hb, hne⟩
      rw [portRate_lit hb]
      decide
  rw [portCapacity, hrate]
  simp

theorem portRoom_dark (h : ¬isLit s k) : portRoom s k = false := by
  rw [portRoom, portCapacity_dark h]
  exact decide_eq_false (Nat.not_lt_zero _)

theorem portRoom_lit (hstop : s.stopped = []) (h : isLit s k) (hsent : portSent s k ≤ 1) : portRoom s k = true := by
  have := two_le_portCapacity hstop h
  exact decide_eq_true (by omega)

/-- The package that port k of s sends to in the slot (R228). -/
def partner (s : State) (k : Nat) : Nat := (s.pkg + 1 + (48 * s.slot + k) % (s.order - 1)) % s.order

theorem meets_iff {j : Nat} : meets s.order s.pkg j s.slot k = true ↔ partner s k = j := by
  rw [meets, beq_iff_eq, swingOffset, ← Nat.add_assoc, partner]

theorem firstMeeting_now {j : Nat} (ho : 2 ≤ s.order) (hk : k < 48) (h : partner s k = j) : firstMeeting s.order s.pkg j s.slot = some s.slot := by
  have hnow : ((List.range 48).any fun m => meets s.order s.pkg j (s.slot + 0) m) = true :=
    List.any_eq_true.mpr ⟨k, List.mem_range.mpr hk, meets_iff.mpr h⟩
  obtain ⟨r, hr⟩ : ∃ r, roundSlots s.order = r + 1 := ⟨roundSlots s.order - 1, by rw [roundSlots]; omega⟩
  have hrounds : List.range (roundSlots s.order) = 0 :: (List.range r).map Nat.succ := by rw [hr, List.range_succ_eq_map]
  rw [firstMeeting, hrounds, List.find?_cons_of_pos (p := fun d => (List.range 48).any fun m => meets s.order s.pkg j (s.slot + d) m) hnow]
  rfl

theorem directPort_lowest {j : Nat} (hk : k < 48) (h : partner s k = j) (hroom : portRoom s k = true)
    (hlow : ∀ m, m < k → partner s m = j → portRoom s m = false) : directPort s j = some k := by
  rw [directPort, List.find?_range_eq_some]
  refine ⟨by rw [meets_iff.mpr h, hroom]; rfl, List.mem_range.mpr hk, fun m hm => ?_⟩
  by_cases hp : partner s m = j
  · rw [hlow m hm hp, Bool.and_false]
    rfl
  · rw [Bool.eq_false_iff.mpr (mt meets_iff.mp hp)]
    rfl

theorem directPort_none {j : Nat} (h : ∀ m, m < 48 → partner s m = j → portRoom s m = false) : directPort s j = none := by
  rw [directPort, List.find?_eq_none]
  intro m hm hmeet
  rw [Bool.and_eq_true, meets_iff] at hmeet
  rw [h m (List.mem_range.mp hm) hmeet.1] at hmeet
  exact Bool.noConfusion hmeet.2

end Ports

/-! ## `SLOT_START` (R227, R230) -/

section Start

variable {s : State}

theorem slotStart_early (hb : s.begun = true) (h : s.time.toNat < (s.slot + 1) * 2040) : exec .slotStart s = .next s := by
  have hdue : slotDue s = false := by
    rw [slotDue, hb]
    exact decide_eq_false (by rw [show slotNs = 2040 from rfl]; omega)
  show execSlotStart s = _
  rw [execSlotStart, hdue]
  rfl

/-- The state once the next slot has begun, with nothing queued. -/
def slotBegun (s : State) : State := { s with
  slot := if s.begun = true then s.slot + 1 else s.slot, begun := true, stopped := [], egress := [], trestle := [] }

/-- A slot's flits in turn: the relayed ones whose slot has come, then what is queued. -/
def slotServed (q : List Egress) (t : State) : State :=
  serve [] (sealQueue q []) (serveRelayed (t.trestle.filter (relayDue t)) { t with trestle := t.trestle.filter fun h => !relayDue t h })

theorem beginSlot_eq (s : State) : beginSlot s = { slotBegun s with trestle := s.trestle, egress := s.egress } := by
  rw [beginSlot, slotBegun]
  split_ifs with hb
  · simp [hb]
  · rfl

theorem slotStart_serves (hdue : s.begun = false ∨ (s.slot + 1) * 2040 ≤ s.time.toNat) (hheld : ∀ h, h ∈ s.trestle → h.verified = false) :
    exec .slotStart s = .next (slotServed s.egress { slotBegun s with trestle := s.trestle }) := by
  have hgo : slotDue s = true := by
    rw [slotDue, Bool.or_eq_true, Bool.not_eq_true', decide_eq_true_iff]
    exact hdue
  have hretry : retryHeld { slotBegun s with trestle := s.trestle } = { slotBegun s with trestle := s.trestle } := by
    have hnone : s.trestle.filter (fun h => h.verified) = [] := List.filter_eq_nil_iff.mpr fun h hh => by
      rw [hheld h hh]
      exact Bool.false_ne_true
    rw [retryHeld, hnone]
    rfl
  have hserved : exec .slotStart s = .next (slotServed (beginSlot s).egress (retryHeld { beginSlot s with egress := [] })) := by
    show execSlotStart s = _
    rw [execSlotStart, hgo]
    rfl
  rw [hserved, beginSlot_eq]
  exact congrArg (fun u => Host.Outcome.next (slotServed s.egress u)) hretry

theorem slotStart_own (hdue : s.begun = false ∨ (s.slot + 1) * 2040 ≤ s.time.toNat) (h : s.trestle = []) :
    exec .slotStart s = .next (serve [] (sealQueue s.egress []) (slotBegun s)) := by
  rw [slotStart_serves hdue (by rw [h]; exact fun x hx => absurd hx List.not_mem_nil), h]
  rfl

theorem slotStart_relays (hdue : s.begun = false ∨ (s.slot + 1) * 2040 ≤ s.time.toNat) (he : s.egress = []) {f : Flit} {u : Nat}
    {came : Option (Nat × Nat)} (hu : u ≤ (slotBegun s).slot) (h : s.trestle = [{ flit := f, slot := some u, verified := false, came := came }]) :
    exec .slotStart s = .next (serveRelayed [{ flit := f, slot := some u, verified := false, came := came }] (slotBegun s)) := by
  have hcome : relayDue (slotBegun s) { flit := f, slot := some u, verified := false, came := came } = true := decide_eq_true hu
  rw [slotStart_serves hdue (by rw [h]; simp), h, he, slotServed]
  dsimp only
  rw [List.filter_cons_of_pos (by exact hcome), List.filter_cons_of_neg (by rw [Bool.not_eq_true', Bool.not_eq_false]; exact hcome)]
  rfl

end Start

section Sending

variable {t : State} {e : Egress} {k : Nat} {held : List Nat} {es : List Egress}

/-- A flit whose target a port meets now goes out on it (R230). -/
theorem serve_sends (hother : e.flit.dpkg.toNat ≠ t.pkg) (hheld : held.contains e.flit.dpkg.toNat = false) (ho : 2 ≤ t.order) (hk : k < 48)
    (hmeet : partner t k = e.flit.dpkg.toNat) (hport : directPort t e.flit.dpkg.toNat = some k) :
    serve held (e :: es) t = serve held es (sendOn t e k false) := by
  have hroute : route t e = (some (k, false), t) := by
    rw [route, firstMeeting_now ho hk hmeet, hport]
    exact if_pos (beq_self_eq_true _)
  rw [serve, if_neg (mt beq_iff_eq.mp hother), hheld, if_neg Bool.false_ne_true, hroute]

theorem portSent_none (h : ∀ x, x ∈ t.sent → x.slot ≠ t.slot) (k : Nat) : portSent t k = 0 := by
  rw [portSent, List.countP_eq_zero]
  intro x hx
  simp [h x hx]

theorem portSent_sendOn (e : Egress) (k : Nat) (rly : Bool) : portSent (sendOn t e k rly) k = portSent t k + 1 := by
  rw [portSent, portSent, sendOn, List.countP_append]
  simp

/-- The port that a flit takes, where only a dark one would be lower. -/
theorem directPort_lit (hstop : t.stopped = []) (hk : k < 48) {j : Nat} (hmeet : partner t k = j) (hlit : isLit t k)
    (hlow : ∀ m, m < k → partner t m = j → ¬isLit t m) (hsent : portSent t k ≤ 1) : directPort t j = some k :=
  directPort_lowest hk hmeet (portRoom_lit hstop hlit hsent) fun m hm hp => portRoom_dark (hlow m hm hp)

theorem serveRelayed_sends {h : Held} {hs : List Held} (hport : directPort t h.flit.dpkg.toNat = some k) :
    serveRelayed (h :: hs) t =
      serveRelayed hs (sendOn t { flit := h.flit, relayable := false, queuedNs := t.time.toNat, key := none, came := h.came } k true) := by
  rw [serveRelayed, hport]

theorem serveRelayed_waits {h : Held} {hs : List Held} (hport : directPort t h.flit.dpkg.toNat = none) :
    serveRelayed (h :: hs) t = serveRelayed hs { t with trestle := t.trestle ++ [waitingRelay t h.flit h.came] } := by
  rw [serveRelayed, hport]
  rfl

theorem sealQueue_open (h : e.key = none) : sealQueue [e] [] = [e] := by
  rw [sealQueue, h]
  rfl

/-- A sealed flit of a run of its own goes ahead of its tag flit (R268). -/
theorem sealQueue_sealed {x : List Byte} (h : e.key = some x) :
    let g : Flit := { crypt x e.flit with sealed := true }
    sealQueue [e] [] = [{ e with flit := g, key := none }, { e with key := none, flit := { g with
      payload := payload64 (runTag x [g]), tg := true, op := 0, nb := 15, rly := false
      run := some { replies := isReply e.flit.op, offs := [e.flit.off] } } }] := by
  rw [sealQueue, h]
  rfl

/-- A flit looped back is performed here (R260, R263). -/
theorem deliver_looped (hsrc : e.flit.spkg.toNat = t.pkg) {v n : Nat} (hfrom : FromTo t e.flit v n)
    (hop : e.flit.op ≠ 7) (hpool : forPool e.flit = false) : deliver t none e.flit = perform t e.flit := by
  obtain ⟨rfl, hused, hn⟩ := hfrom
  rw [deliver, targetChip, if_pos hused, if_neg (mt beq_iff_eq.mp (show e.flit.op ≠ opAck from hop))]
  dsimp only
  rw [hn, hpool, beq_iff_eq.mpr hsrc]
  rfl

theorem serve_looped (hdst : e.flit.dpkg.toNat = t.pkg) (hdel : deliver t none e.flit = perform t e.flit) (held : List Nat) (es : List Egress) :
    (∀ u, perform t e.flit = .done u → serve held (e :: es) t = serve held es u) ∧
      (perform t e.flit = .refused → serve held (e :: es) t = serve held es { t with egress := t.egress ++ [e] }) := by
  rw [serve, beq_iff_eq.mpr hdst, if_pos rfl, hdel]
  constructor
  · intro u hu
    rw [hu]
    rfl
  · intro hu
    rw [hu]

end Sending

/-! ## Acknowledgement, replay and expiry (R233, R234) -/

section Replay

variable {s : State}

theorem slotEnd_acknowledges {due : Accepted → Bool} (h : ∀ a, a ∈ s.accepted → (due a = true ↔ a.slot * 2040 + 2000 ≤ s.time.toNat)) :
    exec .slotEnd s = .next { s with
      accepted := s.accepted.filter fun a => !due a
      egress := s.egress ++ (s.accepted.filter fun a => due a && a.owed).map (ackFlit s) } := by
  have hdue (a : Accepted) (ha : a ∈ s.accepted) : ackable s a = due a :=
    Bool.eq_iff_iff.mpr (decide_eq_true_iff.trans (h a ha).symm)
  have hkeep : s.accepted.filter (fun a => !ackable s a) = s.accepted.filter fun a => !due a :=
    List.filter_congr fun a ha => by rw [hdue a ha]
  have hacks : s.accepted.filter (fun a => ackable s a && a.owed) = s.accepted.filter fun a => due a && a.owed :=
    List.filter_congr fun a ha => by rw [hdue a ha]
  show execSlotEnd s = _
  rw [execSlotEnd, hkeep, hacks]

/-- What is in a list but not among those of it that meet a test. -/
theorem filter_not_contains {α : Type} [DecidableEq α] (l : List α) (p : α → Bool) :
    (l.filter fun x => !(l.filter p).contains x) = l.filter fun x => !p x :=
  List.filter_congr fun x hx => by
    have hmem : (l.filter p).contains x = p x := by rw [Bool.eq_iff_iff, List.contains_iff_mem, List.mem_filter, and_iff_right hx]
    rw [hmem]

theorem takeBack_eq (s : State) (unsent : Sent → Bool) : takeBack s (s.sent.filter unsent) = sentAgain s (s.sent.filter unsent) unsent := by
  rw [takeBack, filter_not_contains]
  rfl

theorem ackTimeout_repeats {port slot : Nat} (h : slot + (s.order - 1 + 47) / 48 + 1 < s.slot) :
    let mine (x : Sent) : Bool := x.port == port && x.slot == slot
    exec (.ackTimeout port slot) s = .next (sentAgain s (s.sent.filter fun x => mine x && x.item.flit.op != 7) mine) := by
  intro mine
  have hback : (s.sent.filter mine).filter (fun x => x.item.flit.op != opAck) = s.sent.filter fun x => mine x && x.item.flit.op != 7 := by
    rw [List.filter_filter]
    exact List.filter_congr fun x _ => Bool.and_comm _ _
  show execAckTimeout port slot s = _
  rw [execAckTimeout, if_neg (by rw [roundSlots]; omega), requeue, hback, filter_not_contains]
  rfl

theorem duplicateSetExpiry_forgets (spkg sslot : Nat) (tag : BitVec 32) : exec (.duplicateSetExpiry spkg sslot tag) s = .next { s with
    dups := s.dups.filter fun d => !(decide (d.spkg = spkg ∧ d.sslot = sslot ∧ d.tag = tag ∧ d.lastNs + 2000000 ≤ s.time.toNat)) } := by
  show execDuplicateSetExpiry spkg sslot tag s = _
  rw [execDuplicateSetExpiry]
  simp only [Bool.decide_and, Bool.and_assoc, Bool.beq_eq_decide_eq]

end Replay

/-! ## Flits dropped (R251) -/

section Drop

variable {s : State} {tag : BitVec 32}

/-- The one flit of a queue that is dropped, and the rest. -/
theorem filter_one {α : Type} {p : α → Bool} {xs ys : List α} {x : α} (hx : p x = true) (h : ∀ y, y ∈ xs ++ ys → p y = false) :
    (xs ++ x :: ys).filter p = [x] ∧ (xs ++ x :: ys).filter (fun y => !p y) = xs ++ ys := by
  have hnone (l : List α) (hl : ∀ y, y ∈ l → p y = false) : l.filter p = [] ∧ l.filter (fun y => !p y) = l :=
    ⟨List.filter_eq_nil_iff.mpr fun y hy => by simp [hl y hy], List.filter_eq_self.mpr fun y hy => by simp [hl y hy]⟩
  obtain ⟨hxs, hxs'⟩ := hnone xs fun y hy => h y (List.mem_append_left _ hy)
  obtain ⟨hys, hys'⟩ := hnone ys fun y hy => h y (List.mem_append_right _ hy)
  simp [hx, hxs, hxs', hys, hys']

theorem filter_none {α : Type} {p : α → Bool} {xs : List α} (h : ∀ y, y ∈ xs → p y = false) : xs.filter p = [] ∧ xs.filter (fun y => !p y) = xs :=
  ⟨List.filter_eq_nil_iff.mpr fun y hy => by simp [h y hy], List.filter_eq_self.mpr fun y hy => by simp [h y hy]⟩

theorem overdue_other {e : Egress} (h : e.flit.tag ≠ tag) : overdue s tag e = false := by
  rw [overdue, beq_eq_false_iff_ne.mpr h]
  rfl

theorem overdueRelay_other {h : Held} (hh : h.flit.tag = tag → h.slot = none) : overdueRelay s tag h = false := by
  rw [overdueRelay]
  by_cases ht : h.flit.tag = tag
  · rw [hh ht]
    rfl
  · rw [beq_eq_false_iff_ne.mpr ht, Bool.and_false]
    rfl

/-- A package's own flit is dropped from its queue. -/
theorem flitDrop_own {xs ys : List Egress} {e : Egress} (hq : s.egress = xs ++ e :: ys) (hothers : ∀ x, x ∈ xs ++ ys → x.flit.tag ≠ tag)
    (htag : e.flit.tag = tag) (hold : e.queuedNs + 1000000 ≤ s.time.toNat) (hrelays : ∀ h, h ∈ s.trestle → h.flit.tag = tag → h.slot = none) :
    exec (.flitDrop tag) s = .next (dropOwn { s with egress := xs ++ ys } e.flit) := by
  have hthis : overdue s tag e = true := by
    rw [overdue, beq_iff_eq.mpr htag, Bool.true_and]
    exact decide_eq_true hold
  obtain ⟨hone, hrest⟩ := filter_one hthis fun x hx => overdue_other (s := s) (hothers x hx)
  obtain ⟨hnone, hall⟩ := filter_none (p := overdueRelay s tag) fun h hh => overdueRelay_other (hrelays h hh)
  show execFlitDrop tag s = _
  rw [execFlitDrop, hq, hone, hrest, hnone, hall, List.foldl_nil, List.foldl_cons, List.foldl_nil]

theorem flitDrop_relayed {xs ys : List Held} {h : Held} (hq : s.trestle = xs ++ h :: ys) (hothers : ∀ x, x ∈ xs ++ ys → x.flit.tag ≠ tag)
    (hown : ∀ e, e ∈ s.egress → e.flit.tag ≠ tag) (htag : h.flit.tag = tag) {u p t0 : Nat} (hslot : h.slot = some u) (hcame : h.came = some (p, t0))
    (hold : t0 * 2040 + 1000000 ≤ s.time.toNat) :
    exec (.flitDrop tag) s = .next (dropRelayed { s with trestle := xs ++ ys } h.flit) := by
  have hthis : overdueRelay s tag h = true := by
    rw [overdueRelay, hslot, hcame, beq_iff_eq.mpr htag, Option.isSome_some, Bool.true_and, Bool.true_and]
    exact decide_eq_true hold
  obtain ⟨hone, hrest⟩ := filter_one hthis fun x hx => overdueRelay_other (s := s) fun hx' => absurd hx' (hothers x hx)
  obtain ⟨hnone, hall⟩ := filter_none (p := overdue s tag) fun e he => overdue_other (hown e he)
  show execFlitDrop tag s = _
  rw [execFlitDrop, hq, hone, hrest, hnone, hall, List.foldl_nil, List.foldl_cons, List.foldl_nil]

theorem dropOwn_silent {f : Flit} (h : f.op = 7 ∨ f.spkg.toNat ≠ s.pkg ∨ (∃ r, f.run = some r ∧ r.replies = true) ∨
    (f.run = none ∧ isReply f.op = true ∧ f.dpkg.toNat ≠ s.pkg)) : dropOwn s f = s := by
  rw [dropOwn]
  by_cases hout : (f.spkg.toNat != s.pkg || f.op == opAck) = true
  · exact if_pos hout
  · rw [if_neg hout]
    rw [Bool.or_eq_true, bne_iff_ne, beq_iff_eq, not_or, not_not] at hout
    obtain hack | hsrc | ⟨r, hr, hrep⟩ | ⟨hr, hrep, hdst⟩ := h
    · exact absurd hack hout.2
    · exact absurd hout.1 hsrc
    · rw [hr]
      exact if_pos hrep
    · rw [hr, hrep]
      exact if_neg (mt beq_iff_eq.mp hdst)

theorem dropOwn_fails {f : Flit} (hop : f.op ≠ 7) (hsrc : f.spkg.toNat = s.pkg) :
    (f.run = none → isReply f.op = false → dropOwn s f = failPiece s f.tag (sentPiece s f) 6) ∧
      ∀ off, f.run = some { replies := false, offs := [off] } → dropOwn s f = failPiece s f.tag (sentPiece s { f with off := off }) 6 := by
  have hout : ¬(f.spkg.toNat != s.pkg || f.op == opAck) = true := by
    rw [Bool.or_eq_true, bne_iff_ne, beq_iff_eq, not_or, not_not]
    exact ⟨hsrc, hop⟩
  rw [dropOwn, if_neg hout]
  constructor
  · intro hr hrep
    rw [hr, hrep]
    rfl
  · intro off hr
    rw [hr]
    rfl

theorem failPiece_eq (s : State) (tag : BitVec 32) (key kind : Nat) : (wholeOp s tag = false → failPiece s tag key kind = endPiece s tag key kind [] true) ∧
    (wholeOp s tag = true → failPiece s tag key kind = failOp s tag kind) :=
  ⟨fun h => if_neg (Bool.eq_false_iff.mp h), fun h => if_pos h⟩

/-- The source of a relayed flit that is dropped is told KIND 6 by a completion (log 13). -/
theorem dropRelayed_tells {f : Flit} (hrun : f.run = none) : dropRelayed s f = { s with
    egress := s.egress ++ if f.op = 8 ∨ isReply f.op = true then [] else
      [{ flit := { bareFlit 9 f.tag f.off.toNat [6, 0] 1 f.last .memory with dpkg := f.spkg, dslot := f.sslot, spkg := f.dpkg, sslot := f.dslot }
         relayable := false, queuedNs := s.time.toNat, key := none, came := none }] } := by
  rw [dropRelayed, hrun]
  by_cases hquiet : f.op = 8 ∨ isReply f.op = true
  · rw [if_pos hquiet, if_pos (by rwa [Bool.or_eq_true, beq_iff_eq]), List.append_nil]
  · rw [if_neg hquiet]
    exact if_neg (by rwa [Bool.or_eq_true, beq_iff_eq])

end Drop

/-! ## Loss of light (R232, R235) -/

theorem lossOfLight_stops {s : State} {port w : Nat} {b : BitVec 4} (hb : s.lasers[port]? = some b) (hport : port < 48) (hw : w < 16)
    (hlit : b.getLsbD (w / 4) = true) : exec (.lossOfLight port w) s = .next (pkgEvent { stopPort s port with
      lasers := s.lasers.set port (b &&& ~~~BitVec.twoPow 4 (w / 4)) } 14 [(9, port), (10, w / 4)]) := by
  have hkept : (stopPort s port).lasers = s.lasers := by
    rw [stopPort]
    split_ifs <;> rfl
  show execLossOfLight port w s = _
  rw [execLossOfLight, hb, Option.getD_some, hlit, if_neg (by simp; omega)]
  dsimp only
  rw [hkept, listMod_eq_set hb]
  rfl

theorem stopPort_running {s : State} {port : Nat} {b : BitVec 4} (hb : s.lasers[port]? = some b) (hport : port ∉ s.stopped) :
    let rate := 256 * ((List.range 4).filter fun m => b.getLsbD m).length
    let unsent (x : Sent) : Bool := x.port == port && x.slot == s.slot && decide (((s.time.toNat - s.slot * 2040) * rate + 767) / 768 ≤ x.seq)
    stopPort s port = { sentAgain s (s.sent.filter unsent) unsent with stopped := port :: s.stopped } := by
  intro rate unsent
  have hbegun : portBegun s port = ((s.time.toNat - s.slot * 2040) * rate + 767) / 768 := by rw [portBegun, portRate_lit hb]; rfl
  rw [stopPort, if_neg (mt List.contains_iff_mem.mp hport), hbegun, takeBack_eq]

theorem stopPort_stopped {s : State} {port : Nat} (h : port ∈ s.stopped) : stopPort s port = s := if_pos (List.contains_iff_mem.mpr h)

/-! ## A slot that sends (R230, R268) -/

/-- A flit numbered n, its CRC set. -/
def numbered (rly : Bool) (n : Nat) (f : Flit) : Flit :=
  { f with rly := rly, seq := n, crc := flitCrc { f with rly := rly, seq := n } }

/-- A flit of the slot as it is kept until it is acknowledged (R233). -/
def sentAs (k slot : Nat) (rly : Bool) (n : Nat) (f : Flit) (e : Egress) : Sent :=
  { port := k, slot := slot, seq := n, item := { e with key := none, flit := numbered rly n f } }

theorem sendOn_numbered {t : State} {e : Egress} {k n : Nat} {rly : Bool} (hn : portSent t k = n) : sendOn t e k rly =
    { t with sent := t.sent ++ [{ port := k, slot := t.slot, seq := n, item := { e with flit := numbered (rly || e.came.isSome) n e.flit } }] } := by
  rw [sendOn, hn]
  rfl

section SlotSends

variable {s : State} (hdue : s.begun = false ∨ (s.slot + 1) * 2040 ≤ s.time.toNat)
include hdue

section Met

variable {f : Flit} {k : Nat} (ho : 2 ≤ s.order) (hother : f.dpkg.toNat ≠ s.pkg) (hk : k < 48)
  (hmeet : partner (slotBegun s) k = f.dpkg.toNat) (hlit : isLit (slotBegun s) k)
  (hlow : ∀ m, m < k → partner (slotBegun s) m = f.dpkg.toNat → ¬isLit (slotBegun s) m) (hsent : ∀ x, x ∈ s.sent → x.slot ≠ (slotBegun s).slot)
include ho hother hk hmeet hlit hlow hsent

omit hdue in
theorem serve_one {e : Egress} (hf : e.flit.dpkg = f.dpkg) (hcame : e.came = none) : serve [] [e] (slotBegun s) = { slotBegun s with
    sent := s.sent ++ [{ port := k, slot := (slotBegun s).slot, seq := 0, item := { e with flit := numbered false 0 e.flit } }] } := by
  have hnone : portSent (slotBegun s) k = 0 := portSent_none (t := slotBegun s) hsent k
  rw [← hf] at hother hmeet hlow
  have hport : directPort (slotBegun s) e.flit.dpkg.toNat = some k := directPort_lit rfl hk hmeet hlit hlow (by omega)
  rw [serve_sends (t := slotBegun s) hother rfl ho hk hmeet hport, sendOn_numbered hnone, hcame]
  rfl

omit hdue in
theorem serve_two {e1 e2 : Egress} (hf1 : e1.flit.dpkg = f.dpkg) (hf2 : e2.flit.dpkg = f.dpkg) (hcame1 : e1.came = none) (hcame2 : e2.came = none) :
    serve [] [e1, e2] (slotBegun s) = { slotBegun s with sent := s.sent ++
      [{ port := k, slot := (slotBegun s).slot, seq := 0, item := { e1 with flit := numbered false 0 e1.flit } },
       { port := k, slot := (slotBegun s).slot, seq := 1, item := { e2 with flit := numbered false 1 e2.flit } }] } := by
  have hnone : portSent (slotBegun s) k = 0 := portSent_none (t := slotBegun s) hsent k
  have hnext : portSent (sendOn (slotBegun s) e1 k false) k = 1 := by rw [portSent_sendOn, hnone]
  have hport : directPort (slotBegun s) f.dpkg.toNat = some k := directPort_lit rfl hk hmeet hlit hlow (by omega)
  have hport' : directPort (sendOn (slotBegun s) e1 k false) f.dpkg.toNat = some k :=
    directPort_lit rfl hk hmeet hlit hlow (Nat.le_of_eq hnext)
  rw [serve_sends (t := slotBegun s) (hf1 ▸ hother) rfl ho hk (hf1 ▸ hmeet) (hf1 ▸ hport),
    serve_sends (t := sendOn (slotBegun s) e1 k false) (hf2 ▸ hother) rfl ho hk (hf2 ▸ hmeet) (hf2 ▸ hport'), sendOn_numbered hnext,
    sendOn_numbered hnone, hcame1, hcame2]
  exact congrArg (fun l => { slotBegun s with sent := l }) (List.append_assoc _ _ _)

theorem slotStart_sends {e : Egress} (he : s.egress = [e]) (ht : s.trestle = []) (hf : e.flit = f) (hcame : e.came = none) :
    (e.key = none → exec .slotStart s = .next { slotBegun s with sent := s.sent ++ [sentAs k (slotBegun s).slot false 0 f e] }) ∧
    ∀ x, e.key = some x → let g : Flit := { crypt x f with sealed := true }
      exec .slotStart s = .next { slotBegun s with sent := s.sent ++ [sentAs k (slotBegun s).slot false 0 g e,
        sentAs k (slotBegun s).slot false 1 { g with
          payload := payload64 (runTag x [g]), tg := true, op := 0, nb := 15, rly := false
          run := some { replies := isReply f.op, offs := [f.off] } } e] } := by
  subst hf
  rw [slotStart_own hdue ht, he]
  constructor
  · intro hkey
    rw [sealQueue_open hkey, serve_one ho hother hk hmeet hlit hlow hsent rfl hcame, sentAs, ← hkey]
  · intro x hkey g
    rw [sealQueue_sealed hkey]
    exact congrArg Host.Outcome.next (serve_two ho hother hk hmeet hlit hlow hsent rfl rfl hcame hcame)

omit ho hother in
theorem slotStart_sendsRelayed {u : Nat} {came : Option (Nat × Nat)} (hu : u ≤ (slotBegun s).slot) (he : s.egress = [])
    (ht : s.trestle = [{ flit := f, slot := some u, verified := false, came := came }]) :
    exec .slotStart s = .next { slotBegun s with sent := s.sent ++ [sentAs k (slotBegun s).slot true 0 f
      { flit := f, relayable := false, queuedNs := s.time.toNat, key := none, came := came }] } := by
  have hnone : portSent (slotBegun s) k = 0 := portSent_none (t := slotBegun s) hsent k
  have hport : directPort (slotBegun s) f.dpkg.toNat = some k := directPort_lit rfl hk hmeet hlit hlow (by omega)
  rw [slotStart_relays hdue he hu ht, serveRelayed_sends hport, sendOn_numbered hnone]
  rfl

end Met

theorem slotStart_keepsRelayed {f : Flit} {u : Nat} {came : Option (Nat × Nat)}
    (hdark : ∀ m, m < 48 → partner (slotBegun s) m = f.dpkg.toNat → ¬isLit (slotBegun s) m) (hu : u ≤ (slotBegun s).slot) (he : s.egress = [])
    (ht : s.trestle = [{ flit := f, slot := some u, verified := false, came := came }]) :
    exec .slotStart s = .next { slotBegun s with trestle := [waitingRelay (slotBegun s) f came] } := by
  rw [slotStart_relays hdue he hu ht, serveRelayed_waits (directPort_none fun m hm hp => portRoom_dark (hdark m hm hp))]
  rfl

theorem slotStart_loops {e : Egress} (he : s.egress = [e]) (ht : s.trestle = []) (hkey : e.key = none) (hdst : e.flit.dpkg.toNat = s.pkg)
    (hsrc : e.flit.spkg.toNat = s.pkg) {v n : Nat} (hfrom : FromTo s e.flit v n) (hop : e.flit.op ≠ 7) (hpool : forPool e.flit = false) :
    (∀ t, perform (slotBegun s) e.flit = .done t → exec .slotStart s = .next t) ∧
      (perform (slotBegun s) e.flit = .refused → exec .slotStart s = .next { slotBegun s with egress := [e] }) := by
  have hdel : deliver (slotBegun s) none e.flit = perform (slotBegun s) e.flit := deliver_looped hsrc hfrom hop hpool
  obtain ⟨hdone, hrefused⟩ := serve_looped (t := slotBegun s) hdst hdel [] []
  rw [slotStart_own hdue ht, he, sealQueue_open hkey]
  exact ⟨fun t h => congrArg Host.Outcome.next (hdone t h), fun h => congrArg Host.Outcome.next (hrefused h)⟩

end SlotSends

/-- Settles O50: a slot that begins serves one flit on the lowest lit port that meets its target; acknowledging, sending again, expiry and
dropping each divide a list by one test; a port that goes dark takes back what it has not begun. -/
theorem slotResults : Obligations.SlotResults := by
  refine ⟨fun s hb h => slotStart_early hb h, fun s hdue => ?_, fun s due h => slotEnd_acknowledges h, fun s port slot h => ackTimeout_repeats h,
    fun s spkg sslot tag => duplicateSetExpiry_forgets spkg sslot tag, ?_, ?_, ?_⟩
  · intro now s1 port lit
    refine ⟨fun he ht => ?_, fun f j k ho hj hother hk hmeet hlit hlow hsent => ?_, fun f u came ho hdark hu he ht => ?_,
      fun e v n he ht hkey hdst hsrc hfrom hop hpool => slotStart_loops hdue he ht hkey hdst hsrc hfrom hop hpool⟩
    · rw [slotStart_own hdue ht, he]
      rfl
    · subst hj
      have hmeet' : partner (slotBegun s) k = f.dpkg.toNat := hmeet
      have hlow' : ∀ m, m < k → partner (slotBegun s) m = f.dpkg.toNat → ¬isLit (slotBegun s) m := hlow
      have hsent' : ∀ x, x ∈ s.sent → x.slot ≠ (slotBegun s).slot := hsent
      intro numb sends
      have hsends : sends = fun rly n f e => sentAs k now rly n f e := rfl
      rw [hsends]
      refine ⟨fun e he ht hf hcame => ?_, fun u came hu he ht => ?_⟩
      · exact slotStart_sends hdue ho hother hk hmeet' hlit hlow' hsent' he ht hf hcame
      · exact slotStart_sendsRelayed hdue hk hmeet' hlit hlow' hsent' hu he ht
    · exact slotStart_keepsRelayed hdue hdark hu he ht
  · intro s tag xs e ys hq hothers htag hold hrelays s1 fails
    rw [flitDrop_own hq hothers htag hold hrelays]
    refine ⟨fun h => congrArg Host.Outcome.next (dropOwn_silent (s := s1) h), fun hop hsrc => ?_⟩
    obtain ⟨hplain, hrun⟩ := dropOwn_fails (s := s1) hop hsrc
    have hfails (f : Flit) (h : dropOwn s1 e.flit = failPiece s1 e.flit.tag (sentPiece s1 f) 6) : fails f := by
      obtain ⟨hpiece, hwhole⟩ := failPiece_eq s1 tag (sentPiece s1 f) 6
      rw [htag] at h
      exact ⟨fun hw => (flitDrop_own hq hothers htag hold hrelays).trans (congrArg Host.Outcome.next (h.trans (hpiece hw))),
        fun hw => (flitDrop_own hq hothers htag hold hrelays).trans (congrArg Host.Outcome.next (h.trans (hwhole hw)))⟩
    exact ⟨fun hr hrep => hfails _ (hplain hr hrep), fun off hr => hfails _ (hrun off hr)⟩
  · intro s tag xs h ys p u t0 hq hothers hown htag hslot hcame hold hrun f
    rw [flitDrop_relayed hq hothers hown htag hslot hcame hold, dropRelayed_tells hrun, htag]
  · intro s port w b hb hport hw hlit rate unsent lost
    rw [lossOfLight_stops hb hport hw hlit]
    exact ⟨fun hrun => by rw [stopPort_running hb hrun], fun hstop => by rw [stopPort_stopped hstop]⟩

end Sys2Proof.Laws
end

section
/-!
How the pieces of an operation end at its source, and what a reply lands there (R234, R240, R243, R244).
-/

namespace Sys2Proof.Laws

open Sys2Proof.Machine Sys2Proof.Claims

/-! ## Results that land in a group (R13, R244) -/

/-- A group in which a result in error must not be read (R159, R244). -/
def flaggedResult (r : BitVec 6) (err : Bool) (w : Group) : Group :=
  { w with errTok := if err && r != 0#6 then putBit w.errTok r.toNat true else w.errTok }

section Scalar

variable {tag : BitVec 32} {r : BitVec 6} {x : DWord} {err : Bool} {g : Group}

theorem readS_flaggedResult (r : BitVec 6) (err : Bool) (w : Group) (q : BitVec 6) : readS (flaggedResult r err w) q = readS w q := rfl

theorem errTok_flaggedResult (q : Nat) : (flaggedResult r err (writeS (notPending (.pod tag) r g) r x)).errTok.getLsbD q =
    if r ≠ 0#6 ∧ q = r.toNat then err else g.errTok.getLsbD q := by
  have hr := r.isLt
  rw [flaggedResult]
  dsimp only
  by_cases hset : (err && r != 0#6) = true
  · obtain ⟨rfl, h0⟩ := Bool.and_eq_true_iff.mp hset
    rw [if_pos hset, putBit_getLsbD, writeS_errTok]
    by_cases hq : q = r.toNat
    · rw [if_pos ⟨hq, by omega⟩, if_pos ⟨bne_iff_ne.mp h0, hq⟩]
    · rw [if_neg fun h => hq h.1, if_neg fun h => hq h.2]
      simp [hq, notPending]
  · rw [if_neg hset, writeS_errTok]
    by_cases hq : r ≠ 0#6 ∧ q = r.toNat
    · obtain ⟨h0, rfl⟩ := hq
      rw [if_pos ⟨h0, rfl⟩]
      cases err with
      | false => simp [h0]
      | true => exact absurd (bne_iff_ne.mpr h0) hset
    · rw [if_neg hq]
      by_cases h0 : r = 0#6
      · simp [h0, notPending]
      · simp [show ¬q = r.toNat from fun h => hq ⟨h0, h⟩, notPending]

end Scalar

/-- A scalar result lands. -/
theorem lands_landScalar (tag : BitVec 32) (r : BitVec 6) (x : DWord) (err : Bool) (g : Group) :
    Lands tag r x err g (landScalar (.pod tag) r x err false g) := by
  have hkept (q : BitVec 6) : readS (notPending (.pod tag) r g) q = readS g q := rfl
  refine ⟨landScalar_notPending, fun hin => ?_⟩
  rw [show landScalar (.pod tag) r x err false g = flaggedResult r err (writeS (notPending (.pod tag) r g) r x) from landScalar_pending hin]
  refine ⟨?_, ?_, fun q hq => ?_, fun h0 => ⟨?_, ?_⟩, fun q hq => ⟨?_, ?_⟩⟩
  · exact congrArg (flaggedResult r err) (writeS_only _ r x)
  · rw [readS_flaggedResult, readS_writeS]
    simp
  · rw [readS_flaggedResult, readS_writeS, hkept]
    by_cases h0 : q = 0#6
    · rw [if_pos h0, h0, readS_zero]
    · rw [if_neg h0, if_neg hq]
  · rw [errTok_flaggedResult, if_pos ⟨h0, rfl⟩]
  · refine (writeS_spois (notPending (.pod tag) r g) r x r.toNat).trans ?_
    simp [show ¬r = 0#6 from h0]
  · rw [errTok_flaggedResult, if_neg fun h => hq h.2]
  · refine (writeS_spois (notPending (.pod tag) r g) r x q).trans ?_
    simp [hq, notPending]

/-- A state in which one group has changed. -/
theorem onlyGroup_modGroup {P : Group → Group → Prop} {f : Group → Group} (h : ∀ g, P g (f g)) (n : Nat) (s : State) :
    OnlyGroup n P s (modGroup s n f) :=
  ⟨rfl, listMod_length f n s.groups, fun _ hm => listMod_getElem?_ne f hm s.groups,
    fun g hg => ⟨f g, by rw [modGroup, listMod_getElem?_self, hg]; rfl, h g⟩⟩

theorem modGroup_id (s : State) (n : Nat) : modGroup s n (fun g => g) = s := by
  have hid : listMod (fun g : Group => g) n s.groups = s.groups := List.ext_getElem? fun m => by
    rw [listMod_getElem?]
    split_ifs <;> simp
  rw [modGroup, hid]

/-! ## A piece that ends (R240, R244, R295) -/

section Ends

variable {s : State} {o : PodOp} {off kind : Nat} {x : DWord} {rest : List (Nat × DWord)}

theorem tag_of_opAt {tag : BitVec 32} (h : opAt s tag = some o) : o.tag = tag := beq_iff_eq.mp (List.find?_some (p := fun y : PodOp => y.tag == tag) h)

/-- A token operation brings nothing back but its token. -/
theorem landResult_tokened (h : Tokened o) (lane : Nat) (bs : List Byte) (pois : Bool) : landResult o lane bs pois = fun g => g := by
  funext g
  obtain hk | hk | hk | hk := h <;> rw [landResult, hk]

theorem resultBytes_tokened (h : Tokened o) : resultBytes o = 0 := by
  obtain hk | hk | hk | hk := h <;> rw [resultBytes, hk]

theorem finishOp_tokened (h : Tokened o) : finishOp s o =
    modGroup (withdrawnOp s o) o.group (landScalar (.pod o.tag) o.st (podToken o.err o.eq) (o.err != 0) false) := by
  obtain hk | hk | hk | hk := h <;> rw [finishOp, hk] <;> rfl

/-- The record of a failed piece of an operation that is no span access. -/
theorem pieceFailed_plain (h : o.req = none) (off : Nat) (x : DWord) : pieceFailed s o kind (off, x) =
    event s o.vc 3 [(9, kind), (10, if o.kind = .mcast then x.toNat else o.peer),
      (16, ((if o.kind = .mcast then 0x0100000000000000#64 + BitVec.ofNat 64 (x.toNat * 2 ^ 40) else o.origin) + BitVec.ofNat 64 off).toNat)] := by
  have hoff : BitVec.ofNat 64 (pieceOff o off) = BitVec.ofNat 64 off := by
    rw [pieceOff, h]
    exact BitVec.eq_of_toNat_eq (by simp)
  rw [pieceFailed, hoff, h]
  refine (if_neg Bool.false_ne_true).trans ?_
  by_cases hk : o.kind = .mcast
  · rw [if_pos (beq_iff_eq.mpr hk), if_pos hk, if_pos hk]
    rfl
  · rw [if_neg (mt beq_iff_eq.mp hk), if_neg hk, if_neg hk]

/-- The state after a token operation's piece has ended, before the operation itself is looked at. -/
def pieceNoted (s : State) (o : PodOp) (kind off : Nat) (x : DWord) : State := if kind = 0 then s else pieceFailed s o kind (off, x)

/-- The operation with a piece fewer. -/
def lessPiece (o : PodOp) (kind : Nat) (rest : List (Nat × DWord)) : PodOp := { o with left := rest, err := if o.err = 0 then kind else o.err }

theorem endPiece_tokened (hop : opAt s o.tag = some o) (ht : Tokened o) (hleft : o.left = (off, x) :: rest) (pois : Bool) :
    endPiece s o.tag off kind [] pois = if rest = [] then finishOp (pieceNoted s o kind off x) (lessPiece o kind rest)
      else modOp (pieceNoted s o kind off x) o.tag fun _ => lessPiece o kind rest := by
  have hfind : o.left.find? (fun p => p.1 == off) = some (off, x) := by
    rw [hleft]
    exact List.find?_cons_of_pos (beq_self_eq_true off)
  have hdraw : (if (kind != 0 && ([] : List Byte).isEmpty) = true then drawBytes s (resultBytes o) else ([], s)).2 = s := by
    rw [resultBytes_tokened ht]
    split_ifs <;> rfl
  have hnoted : (if (kind == 0) = true then s else pieceFailed s o kind (off, x)) = pieceNoted s o kind off x := by
    simp only [pieceNoted, beq_iff_eq]
  have hlost : ({ o with left := o.left.erase (off, x), err := if (o.err == 0) = true then kind else o.err } : PodOp) = lessPiece o kind rest := by
    simp only [lessPiece, hleft, List.erase_cons_head, beq_iff_eq]
  have hempty : (o.left.erase (off, x)).isEmpty = true ↔ rest = [] := by rw [hleft, List.erase_cons_head, List.isEmpty_iff]
  rw [endPiece, hop]
  dsimp only
  rw [hfind]
  dsimp only
  rw [landResult_tokened ht, modGroup_id, hdraw, hnoted]
  by_cases hrest : rest = []
  · rw [if_pos hrest, if_pos (hempty.mpr hrest), hlost]
  · rw [if_neg hrest, if_neg (mt hempty.mp hrest), hlost]

end Ends

theorem podToken_eq {e : Nat} (he : e < 256) : podToken e false = BitVec.ofNat 64 (if e = 0 then 0 else 2 ^ 63 + e * 2 ^ 48) := by
  by_cases h0 : e = 0
  · subst h0
    rfl
  · have hor : 2 ^ 63 ||| e * 2 ^ 48 = 2 ^ 63 + e * 2 ^ 48 := by
      have := Nat.two_pow_add_eq_or_of_lt (i := 63) (b := e * 2 ^ 48) (by omega) 1
      rw [Nat.mul_one] at this
      exact this.symm
    rw [podToken, if_pos (bne_iff_ne.mpr h0), if_neg h0, if_neg Bool.false_ne_true, ← hor, BitVec.ofNat_or,
      show BitVec.twoPow 64 63 = BitVec.ofNat 64 (2 ^ 63) by decide]
    exact BitVec.or_zero

/-- The clauses of `TransfersComplete` (R242, R244). -/
theorem transfersComplete : TransfersComplete := by
  intro s o off x kind rest hop ht hreq hleft herr hkind heq e peer origin s1
  have hnoted : pieceNoted s o kind off x = s1 := by
    rw [pieceNoted, pieceFailed_plain hreq]
  rw [endPiece_tokened hop ht hleft, hnoted]
  refine ⟨fun hrest => ?_, fun hrest => ?_⟩
  · rw [if_neg hrest, modOp]
    simp only [beq_iff_eq]
    rfl
  · have he : e < 256 := by
      show (if o.err = 0 then kind else o.err) < 256
      split_ifs <;> assumption
    have hfail : decide (e ≠ 0) = (e != 0) := by
      rw [Bool.eq_iff_iff, decide_eq_true_iff, bne_iff_ne]
    have htoken : podToken e o.eq = BitVec.ofNat 64 (if e = 0 then 0 else 2 ^ 63 + e * 2 ^ 48) := by rw [heq, podToken_eq he]
    rw [if_pos hrest, finishOp_tokened (o := lessPiece o kind rest) ht, hfail, ← htoken]
    exact onlyGroup_modGroup (fun g => lands_landScalar o.tag o.st (podToken e o.eq) (e != 0) g) o.group (withdrawnOp s1 o)

end Sys2Proof.Laws
end

section
/-!
Replies at the source of their operation (R234, R243, R244, R248, R250).
-/

namespace Sys2Proof.Laws

open Sys2Proof.Machine Sys2Proof.Claims

section Replies

variable {s t : State} {f : Flit} {o : PodOp} {x : DWord}

/-- A flit that has been opened is performed, and noted (R234). -/
theorem perform_done (hop : f.op ≠ 7) (hnew : performed s f = false) (h : act s f = .done t) : perform s f = .done (notePerformed t f) := by
  rw [perform, if_neg (mt beq_iff_eq.mp (show f.op ≠ opAck from hop)), hnew, if_neg Bool.false_ne_true, h]

theorem countedThere_eq (s : State) (f : Flit) (n : Nat) : sentThere s f n = countedThere s f n := by
  rw [sentThere, countedThere]
  simp only [beq_iff_eq]
  rfl

theorem opAt_countedThere (s : State) (f : Flit) (n : Nat) (tag : BitVec 32) : opAt (countedThere s f n) tag = opAt s tag := by
  rw [countedThere]
  split_ifs <;> rfl

/-- The last piece of an operation, performed. -/
theorem endPiece_last (hop : opAt s o.tag = some o) {off : Nat} (hleft : o.left = [(off, x)]) (bs : List Byte) :
    endPiece s o.tag off 0 bs false = finishOp (modGroup s o.group (landResult o x.toNat bs false)) (lessPiece o 0 []) := by
  have hfind : o.left.find? (fun p => p.1 == off) = some (off, x) := by
    rw [hleft]
    exact List.find?_cons_of_pos (beq_self_eq_true off)
  have hlost : ({ o with left := o.left.erase (off, x), err := if (o.err == 0) = true then 0 else o.err } : PodOp) = lessPiece o 0 [] := by
    simp only [lessPiece, hleft, List.erase_cons_head, beq_iff_eq]
  have hempty : (o.left.erase (off, x)).isEmpty = true := by rw [hleft, List.erase_cons_head]; rfl
  rw [endPiece, hop]
  dsimp only
  rw [hfind]
  dsimp only
  rw [if_pos hempty, hlost]
  rfl

/-- A result that lands in the group, and an operation that is gone. -/
theorem onlyGroup_withdrawn {P : Group → Group → Prop} {g : Group → Group} (h : ∀ y, P y (g y)) (n : Nat) (s : State) (o : PodOp) :
    OnlyGroup n P (withdrawnOp s o) (withdrawnOp (modGroup s n g) o) := onlyGroup_modGroup h n (withdrawnOp s o)

/-! ## Get, atomic and pool responses -/

/-- The words of a waiting lane's load. -/
theorem readyLoads_word (lane : Nat) (r : BitVec 6) (w : Word) (pois : Bool) (g : Group) : readyLoads lane r [w] pois g =
    { g with loads := g.loads.map fun y => if y.lane = lane ∧ y.reg = r ∧ y.ready = false then { y with data := w, pois := pois, ready := true } else y } := by
  have hreg (y : Load) : (y.reg - r).toNat < 1 ↔ y.reg = r := by
    constructor
    · intro h
      bv_omega
    · rintro rfl
      simp
  refine congrArg (fun l => { g with loads := l }) (List.map_congr_left fun y _ => ?_)
  by_cases h : y.lane = lane ∧ y.reg = r ∧ y.ready = false
  · obtain ⟨hl, hr, hw⟩ := h
    simp [hl, hr, hw]
  · rw [if_neg h]
    refine if_neg ?_
    rw [List.length_singleton, Bool.and_eq_true, Bool.and_eq_true, beq_iff_eq, Bool.not_eq_true', decide_eq_true_iff, hreg]
    exact fun hc => h ⟨hc.1.1, hc.2, hc.1.2⟩

theorem wordsOf_four {bs : List Byte} (h : bs.length = 4) : wordsOf bs = [BitVec.ofNat 32 (leBytes bs)] := by
  rw [wordsOf, h]
  simp [List.take_of_length_le, h]

theorem usedBytes_eq {n : Nat} (h : f.nb.toNat + 1 = n) : usedBytes f = f.payload.take n := by rw [usedBytes, h]

theorem getResponse_lands (hop : f.op = 2) (hnew : performed s f = false) (ho : opAt s f.tag = some o) (hkind : o.kind = .get)
    (hleft : o.left = [(f.off.toNat, x)]) (hnb : f.nb = 3) (hlen : 4 ≤ f.payload.length) :
    ∃ t, perform s f = .done (notePerformed t f) ∧ OnlyGroup o.group (fun g g' => g' = { g with loads := g.loads.map fun y =>
        if y.lane = x.toNat ∧ y.reg = o.st ∧ y.ready = false
        then { y with data := BitVec.ofNat 32 (recField f.payload 0 4), pois := false, ready := true } else y })
      (withdrawnOp (countVc s o.vc 5 4) o) t := by
  have htag := tag_of_opAt ho
  have hbytes : usedBytes f = f.payload.take 4 := usedBytes_eq (by rw [hnb]; rfl)
  have hcount : (usedBytes f).length = 4 := by rw [hbytes, List.length_take]; omega
  have hact : act s f = .done (endPiece (countVc s o.vc 5 4) o.tag f.off.toNat 0 (usedBytes f) false) := by
    have hpull : (o.kind == .pull) = false := by rw [hkind]; rfl
    have hany : (o.left.any fun p => p.1 == f.off.toNat) = true := by rw [hleft]; simp
    rw [act, hop]
    refine (show _ = doGetResponse s f from rfl).trans ?_
    rw [doGetResponse, ho]
    dsimp only
    rw [hany, hpull, hkind, hcount, htag]
    rfl
  refine ⟨_, perform_done (by rw [hop]; decide) hnew hact, ?_⟩
  have hfinish (u : State) : finishOp u (lessPiece o 0 []) = withdrawnOp u o := by
    rw [finishOp, show (lessPiece o 0 []).kind = .get from hkind]
    rfl
  have hland : landResult o x.toNat (usedBytes f) false = readyLoads x.toNat o.st [BitVec.ofNat 32 (recField f.payload 0 4)] false := by
    funext g
    rw [landResult, hkind, wordsOf_four hcount, hbytes]
    rfl
  rw [endPiece_last (show opAt (countVc s o.vc 5 4) o.tag = some o from htag ▸ ho) hleft, hfinish, hland]
  exact onlyGroup_withdrawn (g := readyLoads x.toNat o.st [BitVec.ofNat 32 (recField f.payload 0 4)] false)
    (fun g => readyLoads_word x.toNat o.st _ false g) o.group (countVc s o.vc 5 4) o

theorem atomicResponse_lands (hop : f.op = 4) (hnew : performed s f = false) (ho : opAt s f.tag = some o) (hkind : o.kind = .atomic)
    (hleft : o.left = [(f.off.toNat, x)]) (hnb : f.nb = 7) :
    ∃ t, perform s f = .done (notePerformed t f) ∧ OnlyGroup o.group (Lands o.tag o.st (BitVec.ofNat 64 (recField f.payload 0 8)) false)
      (withdrawnOp (countedThere s f 8) o) t := by
  have htag := tag_of_opAt ho
  have hbytes : usedBytes f = f.payload.take 8 := usedBytes_eq (by rw [hnb]; rfl)
  have hact : act s f = .done (endPiece (countedThere s f 8) o.tag f.off.toNat 0 (usedBytes f) false) := by
    rw [act, hop, ← countedThere_eq, htag]
    rfl
  refine ⟨_, perform_done (by rw [hop]; decide) hnew hact, ?_⟩
  have hfinish (u : State) : finishOp u (lessPiece o 0 []) = withdrawnOp u o := by
    rw [finishOp, show (lessPiece o 0 []).kind = .atomic from hkind]
    rfl
  have hland : landResult o x.toNat (usedBytes f) false = landScalar (.pod o.tag) o.st (BitVec.ofNat 64 (recField f.payload 0 8)) false false := by
    funext g
    rw [landResult, hkind, hbytes]
    rfl
  rw [endPiece_last (by rw [opAt_countedThere, htag, ho]) hleft, hfinish, hland]
  exact onlyGroup_withdrawn (fun g => lands_landScalar o.tag o.st _ false g) o.group _ o

theorem opAt_modOp {tag : BitVec 32} {g : PodOp → PodOp} (ho : opAt s tag = some o) (hg : ∀ y, (g y).tag = y.tag) :
    opAt (modOp s tag g) tag = some (g o) := by
  have hsame : ((fun y : PodOp => y.tag == tag) ∘ fun y => if y.tag == tag then g y else y) = fun y => y.tag == tag := by
    funext y
    by_cases h : y.tag = tag <;> simp [h, hg]
  rw [opAt, modOp, List.find?_map, hsame, show s.ops.find? (fun y => y.tag == tag) = some o from ho, Option.map_some, tag_of_opAt ho]
  simp

/-- An operation that is withdrawn leaves no trace of what was noted of it. -/
theorem withdrawnOp_modOp {g : PodOp → PodOp} {p : PodOp} (hg : ∀ y, (g y).tag = y.tag) (htag : p.tag = o.tag) (hvc : p.vc = o.vc) (hcap : p.cap = o.cap)
    (hbytes : p.bytes = o.bytes) : withdrawnOp (modOp s o.tag g) p = withdrawnOp s o := by
  have hops : (s.ops.map fun y => if y.tag == o.tag then g y else y).filter (fun y => y.tag != o.tag) = s.ops.filter fun y => y.tag != o.tag := by
    induction s.ops with
    | nil => rfl
    | cons y ys ih =>
      simp only [beq_iff_eq] at ih ⊢
      by_cases h : y.tag = o.tag
      · simp [h, hg, ih]
      · simp [h, ih]
  rw [withdrawnOp, withdrawnOp, htag, hvc, hcap, hbytes, modOp, hops]
  rfl

theorem poolResponse_lands (hop : f.op = 6) (hnew : performed s f = false) (ho : opAt s f.tag = some o) (hkind : o.kind = .pool)
    (hleft : o.left = [(f.off.toNat, x)]) (herr : o.err = 0) :
    ∃ t, perform s f = .done (notePerformed t f) ∧ OnlyGroup o.group (Lands o.tag o.st (if recField f.payload 0 1 = 0 then 0 else 1) false)
      (withdrawnOp (countedThere s f 8) o) t := by
  have htag := tag_of_opAt ho
  let told (y : PodOp) : PodOp := { y with eq := recField f.payload 0 1 != 0 }
  have htold : opAt (modOp (countedThere s f 8) o.tag told) o.tag = some (told o) :=
    opAt_modOp (by rw [opAt_countedThere, htag, ho]) fun _ => rfl
  have hact : act s f = .done (endPiece (modOp (countedThere s f 8) o.tag told) (told o).tag f.off.toNat 0 [] false) := by
    rw [act, hop, ← countedThere_eq, show (told o).tag = f.tag from htag]
    rfl
  have htoken : podToken 0 (recField f.payload 0 1 != 0) = if recField f.payload 0 1 = 0 then 0 else 1 := by
    by_cases h0 : recField f.payload 0 1 = 0
    · rw [h0]
      rfl
    · rw [if_neg h0, bne_iff_ne.mpr h0]
      rfl
  refine ⟨_, perform_done (by rw [hop]; decide) hnew hact, ?_⟩
  have ht : Tokened (told o) := .inr (.inr (.inr hkind))
  have hless : lessPiece (told o) 0 [] = { told o with left := [], err := 0 } := by
    rw [lessPiece, show (told o).err = 0 from herr]
    rfl
  rw [endPiece_last (o := told o) htold hleft, landResult_tokened ht, modGroup_id, hless,
    finishOp_tokened (o := { told o with left := [], err := 0 }) ht,
    withdrawnOp_modOp (o := o) (g := told) (p := { told o with left := [], err := 0 }) (fun _ => rfl) rfl rfl rfl rfl, ← htoken]
  exact onlyGroup_modGroup (fun g => lands_landScalar o.tag o.st _ false g) o.group _

/-! ## Completions (R244) -/

/-- What a token operation's failed piece would have brought back does not matter. -/
theorem endPiece_poison {tag : BitVec 32} (ho : opAt s tag = some o) (ht : Tokened o) (key kind : Nat) (bs : List Byte) :
    endPiece s tag key kind bs true = endPiece s tag key kind bs false := by
  rw [endPiece, endPiece, ho]
  dsimp only
  simp only [landResult_tokened ht]

theorem completion_ends (hop : f.op = 9) (hnew : performed s f = false) (ho : opAt s f.tag = some o) (hreq : o.req = none) (ht : Tokened o) :
    let kind := recField f.payload 0 1
    perform s f = .done (notePerformed (endPiece
      (if kind = 0 then countedThere s f (recField f.payload 1 1) else s) f.tag (answeredPiece s f) kind [] false) f) := by
  intro kind
  refine perform_done (by rw [hop]; decide) hnew ?_
  have hact : act s f = .done (doCompletion s f) := by
    rw [act, hop]
    rfl
  have hplain : (o.kind == .spanAtomic) = false := by
    obtain hk | hk | hk | hk := ht <;> rw [hk] <;> rfl
  have hfail : failPiece s f.tag (answeredPiece s f) kind = endPiece s f.tag (answeredPiece s f) kind [] true :=
    (failPiece_eq s f.tag _ kind).1 (by rw [wholeOp, ho, Option.bind_some, hreq]; rfl)
  have hcount : (if (kind == 0) = true then sentThere s f (recField f.payload 1 1) else s) = if kind = 0 then countedThere s f (recField f.payload 1 1) else s := by
    rw [countedThere_eq]
    simp only [beq_iff_eq]
  rw [hact, doCompletion, ho]
  dsimp only
  rw [hplain, Bool.false_and, if_neg Bool.false_ne_true, hfail, hcount, endPiece_poison ho ht]
  refine congrArg Delivery.done ?_
  by_cases h0 : (kind != 0 && kind != 4) = true
  · rw [if_pos h0, if_neg (bne_iff_ne.mp (Bool.and_eq_true_iff.mp h0).1)]
  · exact if_neg h0

end Replies

/-- The clauses of `ReplyResults` (R234, R243, R244, R248, R250). -/
theorem replyResults : ReplyResults :=
  ⟨fun _ _ _ _ hop hnew ho hkind hleft hnb hlen => getResponse_lands hop hnew ho hkind hleft hnb hlen,
    fun _ _ _ _ hop hnew ho hkind hleft hnb _ => atomicResponse_lands hop hnew ho hkind hleft hnb,
    fun _ _ _ _ hop hnew ho hkind hleft herr => poolResponse_lands hop hnew ho hkind hleft herr,
    fun _ _ _ hop hnew ho hreq _ ht => completion_ends hop hnew ho hreq ht⟩

end Sys2Proof.Laws
end

section
/-!
The handlers of remote atomics and the operations of pool nodes (R248 to R250, R425).
-/

namespace Sys2Proof.Laws

open Sys2Proof.Machine Sys2Proof.Claims

/-! ## Codes of a format (R108, R114, R131) -/

section Codes

variable {f : Fmt} (hf : IsFormat f)
include hf

theorem infCode_lt (neg : Bool) : infCode f neg < 2 ^ (1 + f.ebits + f.mbits) := by
  rcases hf with rfl | rfl | rfl | rfl <;> cases neg <;> decide

theorem signBit_lt (neg : Bool) : signBit f neg < 2 ^ (1 + f.ebits + f.mbits) := by
  rcases hf with rfl | rfl | rfl | rfl <;> cases neg <;> decide

theorem nanCode_lt : nanCode f < 2 ^ (1 + f.ebits + f.mbits) := by
  rcases hf with rfl | rfl | rfl | rfl <;> decide

/-- What is rounded to nearest is a code of its format. -/
theorem roundPack_lt (neg : Bool) (m : Nat) (e : Int) : (roundPack f plainEnv neg m e false).code < 2 ^ (1 + f.ebits + f.mbits) := by
  by_cases hm : m = 0
  · rw [hm, roundPack_zero]
    exact signBit_lt hf neg
  · obtain ⟨hlo, hhi⟩ := binade_of_bitLen hm f.mbits e
    obtain ⟨h₀, -⟩ := roundAt_roundedTo (rm := plainEnv.rm) (neg := neg) (q := e + bitLen m - (f.mbits + 1)) (truncates_exact m e) (by simp)
    obtain ⟨hn, -⟩ := roundAt_roundedTo (rm := plainEnv.rm) (neg := neg)
      (q := max (e + bitLen m - (f.mbits + 1)) (2 - 2 ^ (f.ebits - 1) - f.mbits)) (truncates_exact m e) (by simp)
    obtain ⟨hover, -, hin⟩ := roundPack_roundsOnce (env := plainEnv) (neg := neg) hf (truncates_exact m e) hm (by simp) _ _ _ hlo hhi h₀ hn
    rcases le_or_gt (2 ^ (2 ^ (f.ebits - 1)) : ℝ) _ with hbig | hsmall
    · rw [(hover hbig).1 (.inl rfl)]
      exact infCode_lt hf neg
    · exact (hin hsmall (by simp [plainEnv])).1

theorem fAddV_lt (a b : FVal) : (fAddV f plainEnv a b).code < 2 ^ (1 + f.ebits + f.mbits) := by
  cases a with
  | nan s => exact nanCode_lt hf
  | inf n =>
    cases b with
    | nan s => exact nanCode_lt hf
    | inf k =>
      rw [fAddV]
      split_ifs
      · exact infCode_lt hf n
      · exact nanCode_lt hf
    | fin k m e => exact infCode_lt hf n
  | fin n m e =>
    cases b with
    | nan s => exact nanCode_lt hf
    | inf k => exact infCode_lt hf k
    | fin k m' e' => exact roundPack_lt hf _ _ _

theorem fMinMaxV_lt (most : Bool) (a b : FVal) : (fMinMaxV f plainEnv most a b).code < 2 ^ (1 + f.ebits + f.mbits) := by
  rw [fMinMaxV_eq]
  cases minMaxPick most a b with
  | nan s => exact nanCode_lt hf
  | inf n => exact infCode_lt hf n
  | fin n m e => exact roundPack_lt hf n m e

end Codes

/-! ## Pool operations (R250) -/

theorem leBytes_toLeBytes (n x : Nat) : leBytes (toLeBytes n x) = x % 256 ^ n := by
  induction n generalizing x with
  | zero => rw [Nat.pow_zero, Nat.mod_one]; rfl
  | succ n ih =>
    rw [toLeBytes, leBytes, ih, BitVec.toNat_ofNat, Nat.pow_succ' (m := 256), Nat.mod_mul]

section Elements

variable {s : State} {k w q : Nat}

theorem readLe_writeLe_same (s : State) (k w z : Nat) : readLe (writeLe s k w z) k w = z % 2 ^ (8 * w) := by
  rw [readLe, writeLe, readN_writeN_same s k (toLeBytes_length w z), leBytes_toLeBytes, Nat.pow_mul]

theorem readLe_congr {t : State} (h : ∀ i, i < w → memRead t.mem (k + i) = memRead s.mem (k + i)) : readLe t k w = readLe s k w :=
  congrArg leBytes (memReadN_congr h)

theorem memRead_writeLe_outside (z : Nat) (h : q < k ∨ k + w ≤ q) : memRead (writeLe s k w z).mem q = memRead s.mem q :=
  memRead_writeN_outside s (by rwa [toLeBytes_length])

/-- A reduction of ranges that do not meet: every element once, and nothing else. -/
theorem reduceElements_effect (kind : Nat) {w : Nat} (n d r : Nat) (s : State) (hapart : d + w * n ≤ r ∨ r + w * n ≤ d) :
    let t := reduceElements kind w n d r s
    t = { s with mem := t.mem, poison := t.poison } ∧
    (∀ i, i < n → readLe t (d + w * i) w = poolReduce kind (readLe s (d + w * i) w) (readLe s (r + w * i) w) % 2 ^ (8 * w)) ∧
    ∀ q, q < d ∨ d + w * n ≤ q → memRead t.mem q = memRead s.mem q := by
  induction n generalizing d r s with
  | zero => exact ⟨rfl, fun i hi => absurd hi (Nat.not_lt_zero i), fun _ _ => rfl⟩
  | succ n ih =>
    have hsucc : w * (n + 1) = w * n + w := Nat.mul_succ w n
    let z := poolReduce kind (readLe s d w) (readLe s r w)
    obtain ⟨hrest, helems, hout⟩ := ih (d + w) (r + w) (writeLe s d w z) (by omega)
    refine ⟨?_, fun i hi => ?_, fun q hq => ?_⟩
    · exact hrest
    · cases i with
      | zero =>
        rw [Nat.mul_zero, Nat.add_zero, Nat.add_zero]
        exact (readLe_congr fun j hj => hout _ (by omega)).trans (readLe_writeLe_same s d w z)
      | succ i =>
        have hi' : w * (i + 1) = w * i + w := Nat.mul_succ w i
        have hle : w * i + w ≤ w * n := by rw [← hi']; exact Nat.mul_le_mul_left w (by omega)
        have hd : readLe (writeLe s d w z) (d + w + w * i) w = readLe s (d + w + w * i) w :=
          readLe_congr fun j _ => memRead_writeLe_outside z (by omega)
        have hr : readLe (writeLe s d w z) (r + w + w * i) w = readLe s (r + w + w * i) w :=
          readLe_congr fun j _ => memRead_writeLe_outside z (by omega)
        have hone := helems i (by omega)
        rw [hd, hr] at hone
        rw [hi', show d + (w * i + w) = d + w + w * i by omega, show r + (w * i + w) = r + w + w * i by omega]
        exact hone
    · exact (hout q (by omega)).trans (memRead_writeLe_outside z (by omega))

end Elements

theorem countedHere_eq (s : State) (f : Flit) (n : Nat) : sentHere s f n = countedHere s f n := by
  rw [sentHere, countedHere]
  simp only [beq_iff_eq]
  rfl

theorem act_pool {s : State} {f : Flit} (hop : f.op = 5) : act s f = doPool s f := by
  rw [act, hop]
  rfl

/-- A pool request is answered once its operation has been performed. -/
theorem poolRequest_answers {s t : State} {f : Flit} {eq : Bool} (hop : f.op = 5) (hnew : performed s f = false)
    (h : poolOperation s f.dslot.toNat (recField f.payload 0 8) (recField f.payload 8 8) (recField f.payload 16 8) (recField f.payload 24 8) = (t, eq)) :
    perform s f = .done (notePerformed (reply (countedHere t f 8) f 6 [if eq = true then 1 else 0]) f) := by
  refine perform_done (by rw [hop]; decide) hnew ?_
  rw [act_pool hop, doPool, h, countedHere_eq]
  rfl

/-- An element's new value fits its width. -/
theorem poolReduce_float_lt {kind : Nat} (h : kind = 0 ∨ kind = 3 ∨ kind = 4) (x y : Nat) : poolReduce kind x y < 2 ^ 32 := by
  obtain rfl | rfl | rfl := h
  · exact fAddV_lt (.inl rfl) _ _
  · exact fMinMaxV_lt (.inl rfl) _ _ _
  · exact fMinMaxV_lt (.inl rfl) _ _ _

/-- The clauses of `PoolRequestResults` (R250). -/
theorem poolRequestResults : PoolRequestResults := by
  intro s f o dst src len hop hnew ho hdst hsrc hlen d r answers
  subst ho hdst hsrc hlen
  refine ⟨fun h => ?_, fun h => ?_, fun h => ?_, ?_⟩
  · refine poolRequest_answers hop hnew ?_
    rw [poolOperation, h]
    rfl
  · refine poolRequest_answers hop hnew ?_
    rw [poolOperation, h]
    rfl
  · have hsame : (readN s d (recField f.payload 24 8) == readN s r (recField f.payload 24 8)) =
        decide (readN s d (recField f.payload 24 8) = readN s r (recField f.payload 24 8)) := by
      rw [Bool.eq_iff_iff, beq_iff_eq, decide_eq_true_iff]
    refine poolRequest_answers hop hnew ?_
    rw [poolOperation, h, ← hsame]
    rfl
  · intro h hapart kind w hkind hw
    obtain ⟨n, hn⟩ := hw
    have hpos : 0 < w := by
      show 0 < if kind = 2 then 8 else 4
      split_ifs <;> decide
    have hcount : recField f.payload 24 8 / w = n := by rw [hn, Nat.mul_div_cancel_left n hpos]
    obtain ⟨hrest, helems, hout⟩ := reduceElements_effect kind (w := w) n d r s (by rwa [← hn])
    refine ⟨reduceElements kind w n d r s, poolRequest_answers hop hnew ?_, hrest, fun i x y hi hx hy => ?_, fun q hq => hout q (by rwa [← hn])⟩
    · rw [poolOperation, h, ← hcount]
      simp only [beq_iff_eq]
      rfl
    · have hone := helems i (hcount ▸ hi)
      rw [← hx, ← hy] at hone
      refine ⟨fun hk => ?_, fun hk => ?_, fun hk => ?_⟩
      · have hw4 : w = 4 := if_neg (by omega)
        rw [hone, hw4, Nat.mod_eq_of_lt (poolReduce_float_lt (.inl hk) x y), hk]
        rfl
      · rw [hone]
        obtain hk | hk := hk
        · have hw4 : w = 4 := if_neg (by omega)
          rw [hw4, hk]
          exact Nat.mod_mod _ _
        · have hw8 : w = 8 := if_pos hk
          rw [hw8, hk]
          exact Nat.mod_mod _ _
      · have hw4 : w = 4 := if_neg (by omega)
        rw [hone, hw4, Nat.mod_eq_of_lt (poolReduce_float_lt (.inr hk) x y)]
        obtain hk | hk := hk <;> rw [hk] <;> rfl

end Sys2Proof.Laws
end

section
/-!
The handler table of remote atomics (R249, R425).
-/

namespace Sys2Proof.Laws

open Sys2Proof.Machine Sys2Proof.Claims

/-! ## Numbers with a sign -/

/-- A number of w bits in two's complement. -/
def signedOf (w x : Nat) : Int := if x < 2 ^ (w - 1) then x else x - 2 ^ w

theorem toInt_ofNat_signed {w x : Nat} (hw : 0 < w) (hx : x < 2 ^ w) : (BitVec.ofNat w x).toInt = signedOf w x := by
  have hpow : 2 ^ w = 2 * 2 ^ (w - 1) := by rw [← Nat.pow_succ', Nat.succ_eq_add_one, Nat.sub_add_cancel hw]
  rw [BitVec.toInt_eq_toNat_cond, BitVec.toNat_ofNat, Nat.mod_eq_of_lt hx, signedOf]
  by_cases h : x < 2 ^ (w - 1)
  · rw [if_pos h, if_pos (by omega)]
  · rw [if_neg h, if_neg (by omega)]
    push_cast
    rfl

/-- The lesser of two by a measure. -/
theorem lesser_by {α : Type} (f : α → Int) (x y : α) :
    let z := if f y < f x then y else x
    (z = x ∨ z = y) ∧ f z ≤ f x ∧ f z ≤ f y := by
  intro z
  by_cases h : f y < f x
  · rw [show z = y from if_pos h]
    exact ⟨.inr rfl, h.le, le_rfl⟩
  · rw [show z = x from if_neg h]
    exact ⟨.inl rfl, le_rfl, not_lt.mp h⟩

/-- The greater of two by a measure. -/
theorem greater_by {α : Type} (f : α → Int) (x y : α) :
    let z := if f x < f y then y else x
    (z = x ∨ z = y) ∧ f x ≤ f z ∧ f y ≤ f z := by
  intro z
  by_cases h : f x < f y
  · rw [show z = y from if_pos h]
    exact ⟨.inr rfl, h.le, le_rfl⟩
  · rw [show z = x from if_neg h]
    exact ⟨.inl rfl, le_rfl, not_lt.mp h⟩

/-! ## Widths, and values that fit them -/

/-- Operand bits of a handler (R425). -/
def handlerBits (h : Nat) : Nat := if h ∈ [1, 3, 9, 10, 11, 12, 15, 16, 17, 19, 21, 25, 31] then 64 else 32

theorem handlerBytes_bits {h : Nat} (hh : h < 32) : handlerBytes h * 8 = handlerBits h := by
  revert h
  decide

theorem handlerNew_lt (h old a b : Nat) : handlerNew h old a b < 2 ^ (handlerBytes h * 8) := Nat.mod_lt _ (Nat.two_pow_pos _)

/-- Sums of the halves of two words (R249). -/
def halvesSum (f : Fmt) (x y : Nat) : Nat := (fAddV f plainEnv (unpack f false (x % 2 ^ 16)) (unpack f false (y % 2 ^ 16))).code +
  2 ^ 16 * (fAddV f plainEnv (unpack f false (x / 2 ^ 16)) (unpack f false (y / 2 ^ 16))).code

theorem halfAdd_eq {f : Fmt} {x y : Nat} (hx : x < 2 ^ 32) (hy : y < 2 ^ 32) : halfAdd f x y = halvesSum f x y := by
  rw [halfAdd, halvesSum]
  dsimp only
  rw [Nat.mul_zero, Nat.mul_one, Nat.pow_zero, Nat.div_one, Nat.div_one, Nat.mod_eq_of_lt (a := x / 2 ^ 16) (by omega),
    Nat.mod_eq_of_lt (a := y / 2 ^ 16) (by omega), Nat.mul_comm (2 ^ 16)]

theorem halvesSum_lt {f : Fmt} (hf : IsFormat f) (hbits : 1 + f.ebits + f.mbits = 16) (x y : Nat) : halvesSum f x y < 2 ^ 32 := by
  have hlow := fAddV_lt hf (unpack f false (x % 2 ^ 16)) (unpack f false (y % 2 ^ 16))
  have hhigh := fAddV_lt hf (unpack f false (x / 2 ^ 16)) (unpack f false (y / 2 ^ 16))
  rw [hbits] at hlow hhigh
  rw [halvesSum]
  omega

section Handlers

variable {h old a b : Nat}

/-- A bit of a bitwise result. -/
theorem testBit_ofNat (x : Nat) {i : Nat} (hi : i < 64) : (BitVec.ofNat 64 x).toNat.testBit i = x.testBit i := by
  rw [BitVec.toNat_ofNat, Nat.testBit_mod_two_pow, decide_eq_true hi, Bool.true_and]

theorem handler_add (h1 : h ≤ 1) : handlerNew h old a b = (old + a) % 2 ^ handlerBits h := by
  obtain rfl | rfl : h = 0 ∨ h = 1 := by omega
  · rfl
  · rfl

theorem handler_floats (hold : old < 2 ^ handlerBits h) (ha : a < 2 ^ handlerBits h) :
    (h = 2 → handlerNew h old a b = (fAddV f32 plainEnv (unpack f32 false old) (unpack f32 false a)).code) ∧
    (h = 3 → handlerNew h old a b = (fAddV f64 plainEnv (unpack f64 false old) (unpack f64 false a)).code) ∧
    (h = 4 → handlerNew h old a b = halvesSum bf16 old a) ∧ (h = 29 → handlerNew h old a b = halvesSum f16 old a) ∧
    (h = 13 ∨ h = 14 → handlerNew h old a b = (fMinMaxV f32 plainEnv (h == 14) (unpack f32 false old) (unpack f32 false a)).code) := by
  refine ⟨?_, ?_, ?_, ?_, ?_⟩
  · rintro rfl
    exact Nat.mod_eq_of_lt (fAddV_lt (.inl rfl) _ _)
  · rintro rfl
    exact Nat.mod_eq_of_lt (fAddV_lt (.inr (.inr (.inr rfl))) _ _)
  · rintro rfl
    have hsum := halfAdd_eq (f := bf16) hold ha
    exact (Nat.mod_eq_of_lt (hsum ▸ halvesSum_lt (.inr (.inr (.inl rfl))) rfl old a)).trans hsum
  · rintro rfl
    have hsum := halfAdd_eq (f := f16) hold ha
    exact (Nat.mod_eq_of_lt (hsum ▸ halvesSum_lt (.inr (.inl rfl)) rfl old a)).trans hsum
  · rintro (rfl | rfl)
    · exact Nat.mod_eq_of_lt (fMinMaxV_lt (.inl rfl) _ _ _)
    · exact Nat.mod_eq_of_lt (fMinMaxV_lt (.inl rfl) _ _ _)

/-- The lesser and the greater of signed operands. -/
theorem handler_signed (hold : old < 2 ^ handlerBits h) (ha : a < 2 ^ handlerBits h) :
    let r := handlerNew h old a b
    let w := handlerBits h
    (h = 5 ∨ h = 9 → (r = old ∨ r = a) ∧ signedOf w r ≤ signedOf w old ∧ signedOf w r ≤ signedOf w a) ∧
    (h = 6 ∨ h = 10 → (r = old ∨ r = a) ∧ signedOf w old ≤ signedOf w r ∧ signedOf w a ≤ signedOf w r) := by
  have hvalue {w : Nat} (hw : 0 < w) (hx : old < 2 ^ w) (hy : a < 2 ^ w) :
      (if (BitVec.ofNat w a).toInt < (BitVec.ofNat w old).toInt then a else old) % 2 ^ w = (if signedOf w a < signedOf w old then a else old) ∧
      (if (BitVec.ofNat w old).toInt < (BitVec.ofNat w a).toInt then a else old) % 2 ^ w = (if signedOf w old < signedOf w a then a else old) := by
    rw [toInt_ofNat_signed hw hx, toInt_ofNat_signed hw hy]
    constructor
    · exact Nat.mod_eq_of_lt (by split_ifs <;> assumption)
    · exact Nat.mod_eq_of_lt (by split_ifs <;> assumption)
  intro r w
  constructor
  · rintro (rfl | rfl)
    · rw [show r = _ from (hvalue (w := 32) (by decide) hold ha).1]
      exact lesser_by (signedOf 32) old a
    · rw [show r = _ from (hvalue (w := 64) (by decide) hold ha).1]
      exact lesser_by (signedOf 64) old a
  · rintro (rfl | rfl)
    · rw [show r = _ from (hvalue (w := 32) (by decide) hold ha).2]
      exact greater_by (signedOf 32) old a
    · rw [show r = _ from (hvalue (w := 64) (by decide) hold ha).2]
      exact greater_by (signedOf 64) old a

theorem handler_unsigned (hold : old < 2 ^ handlerBits h) (ha : a < 2 ^ handlerBits h) :
    (h = 7 ∨ h = 11 → handlerNew h old a b = min old a) ∧ (h = 8 ∨ h = 12 → handlerNew h old a b = max old a) := by
  constructor
  · rintro (rfl | rfl)
    · exact Nat.mod_eq_of_lt (lt_of_le_of_lt (Nat.min_le_left _ _) hold)
    · exact Nat.mod_eq_of_lt (lt_of_le_of_lt (Nat.min_le_left _ _) hold)
  · rintro (rfl | rfl)
    · exact Nat.mod_eq_of_lt (max_lt hold ha)
    · exact Nat.mod_eq_of_lt (max_lt hold ha)

theorem handler_bits {i : Nat} (hi : i < handlerBits h) :
    (h = 15 ∨ h = 26 → (handlerNew h old a b).testBit i = (old.testBit i && a.testBit i)) ∧
    (h = 16 ∨ h = 27 → (handlerNew h old a b).testBit i = (old.testBit i || a.testBit i)) ∧
    (h = 17 ∨ h = 28 → (handlerNew h old a b).testBit i = (old.testBit i ^^ a.testBit i)) := by
  have hand {w : Nat} (hw : w ≤ 64) (hi : i < w) : ((BitVec.ofNat 64 old &&& BitVec.ofNat 64 a).toNat % 2 ^ w).testBit i = (old.testBit i && a.testBit i) := by
    rw [Nat.testBit_mod_two_pow, decide_eq_true hi, Bool.true_and, BitVec.toNat_and, Nat.testBit_and, testBit_ofNat old (by omega), testBit_ofNat a (by omega)]
  have hor {w : Nat} (hw : w ≤ 64) (hi : i < w) : ((BitVec.ofNat 64 old ||| BitVec.ofNat 64 a).toNat % 2 ^ w).testBit i = (old.testBit i || a.testBit i) := by
    rw [Nat.testBit_mod_two_pow, decide_eq_true hi, Bool.true_and, BitVec.toNat_or, Nat.testBit_or, testBit_ofNat old (by omega), testBit_ofNat a (by omega)]
  have hxor {w : Nat} (hw : w ≤ 64) (hi : i < w) : ((BitVec.ofNat 64 old ^^^ BitVec.ofNat 64 a).toNat % 2 ^ w).testBit i = (old.testBit i ^^ a.testBit i) := by
    rw [Nat.testBit_mod_two_pow, decide_eq_true hi, Bool.true_and, BitVec.toNat_xor, Nat.testBit_xor, testBit_ofNat old (by omega), testBit_ofNat a (by omega)]
  refine ⟨?_, ?_, ?_⟩
  · rintro (rfl | rfl)
    · exact hand (w := 64) le_rfl hi
    · exact hand (w := 32) (by decide) hi
  · rintro (rfl | rfl)
    · exact hor (w := 64) le_rfl hi
    · exact hor (w := 32) (by decide) hi
  · rintro (rfl | rfl)
    · exact hxor (w := 64) le_rfl hi
    · exact hxor (w := 32) (by decide) hi

/-- Exchanges, counters with a bound, and reads. -/
theorem handler_moves (hold : old < 2 ^ handlerBits h) (ha : a < 2 ^ handlerBits h) (hb : b < 2 ^ handlerBits h) (hh : h < 32) :
    (h = 18 ∨ h = 19 → handlerNew h old a b = a) ∧ (h = 20 ∨ h = 21 → handlerNew h old a b = if old = b then a else old) ∧
    (h = 22 → handlerNew h old a b = if b ≤ old then 0 else old + 1) ∧
    (h = 23 → handlerNew h old a b = if old = 0 ∨ b < old then b else old - 1) ∧
    (h = 24 ∨ h = 25 → handlerNew h old a b = min (old + a) b) ∧ (h = 30 ∨ h = 31 → handlerNew h old a b = old) := by
  have hfit {x : Nat} (hx : x < 2 ^ handlerBits h) : x % 2 ^ (handlerBytes h * 8) = x := by
    rw [handlerBytes_bits hh]
    exact Nat.mod_eq_of_lt hx
  refine ⟨?_, ?_, ?_, ?_, ?_, ?_⟩
  · rintro (rfl | rfl)
    · exact hfit ha
    · exact hfit ha
  · have hswap : (if old = b then a else old) < 2 ^ handlerBits h := by split_ifs <;> assumption
    rintro (rfl | rfl)
    · exact hfit hswap
    · exact hfit hswap
  · have hup : (if b ≤ old then 0 else old + 1) < 2 ^ handlerBits h := by split_ifs <;> omega
    rintro rfl
    exact hfit hup
  · have hdown : (if old = 0 ∨ b < old then b else old - 1) < 2 ^ handlerBits h := by split_ifs <;> omega
    rintro rfl
    have hcond : (if (decide (old = 0) || decide (b < old)) = true then b else old - 1) = if old = 0 ∨ b < old then b else old - 1 := by
      simp only [Bool.or_eq_true, decide_eq_true_iff]
    rw [← hcond] at hdown ⊢
    exact hfit hdown
  · have hleast : min (old + a) b < 2 ^ handlerBits h := lt_of_le_of_lt (Nat.min_le_right _ _) hb
    rintro (rfl | rfl)
    · exact hfit hleast
    · exact hfit hleast
  · rintro (rfl | rfl)
    · exact hfit hold
    · exact hfit hold

end Handlers

/-- The clauses of `HandlerTable` (R131, R248, R249, R425). -/
theorem handlerTable : HandlerTable := by
  intro h old a b hh w hold ha hb r signed halves
  have hw : w = handlerBits h := rfl
  obtain ⟨hf32, hf64, hbf16, hf16, hminmax⟩ := handler_floats (b := b) hold ha
  obtain ⟨hleast, hgreatest⟩ := handler_signed (b := b) hold ha
  obtain ⟨hmin, hmax⟩ := handler_unsigned (b := b) hold ha
  obtain ⟨hswap, hcas, hup, hdown, hbound, hread⟩ := handler_moves hold ha hb hh
  exact ⟨handlerBytes_bits hh, hw ▸ handlerBytes_bits hh ▸ handlerNew_lt h old a b, handler_add, hf32, hf64, hbf16, hf16, hleast, hgreatest, hmin, hmax,
    hminmax, fun i hi => handler_bits hi, hswap, hcas, hup, hdown, hbound, hread⟩

end Sys2Proof.Laws
end

section
/-!
Leaves that the TLB of a die holds (R137, R141): what is held is found again.
-/

namespace Sys2Proof.Laws

open Sys2Proof.Machine Sys2Proof.Claims

/-! ## A leaf once it is held -/

section Held

variable {s : State} {v : Nat} {a : BitVec 64} {l : Leaf}

theorem leafAt_base {va n : Nat} {e : DWord} (h : leafAt s v va n e = some l) : l.base = leafFrame l.entry := by
  unfold leafAt at h
  dsimp only at h
  split_ifs at h <;> cases h <;> rfl

/-- A walk keeps pointer entries alone, and its leaf starts at its frame. -/
theorem walkFrom_spec (s : State) (v die va n table : Nat) : (∀ p, p ∈ (walkFrom s v die va n table).1 → p.table.isNone = false) ∧
    ∀ l, (walkFrom s v die va n table).2 = some l → l.base = leafFrame l.entry := by
  induction n generalizing table with
  | zero =>
    unfold walkFrom
    dsimp only
    split_ifs
    · exact ⟨nofun, nofun⟩
    · exact ⟨nofun, nofun⟩
    · exact ⟨nofun, fun _ => leafAt_base⟩
    · exact ⟨nofun, nofun⟩
  | succ m ih =>
    unfold walkFrom
    dsimp only
    split_ifs
    · exact ⟨nofun, nofun⟩
    · exact ⟨nofun, nofun⟩
    · exact ⟨nofun, fun _ => leafAt_base⟩
    · refine ⟨fun p hp => ?_, (ih _).2⟩
      obtain rfl | hp := List.mem_cons.mp hp
      · rfl
      · exact (ih _).1 p hp
    · exact ⟨nofun, nofun⟩

/-- Holding an entry brings in no other. -/
theorem mem_tlb_of_holdEntry {e t : TlbEntry} (h : t ∈ (holdEntry s e).tlb) : t = e ∨ t ∈ s.tlb := by
  unfold holdEntry at h
  split_ifs at h
  · exact .inr h
  · exact List.mem_cons.mp h
  · refine (List.mem_cons.mp h).imp_right fun h => ?_
    cases ho : oldestOf e.die s.tlb <;> rw [ho] at h
    · exact h
    · exact List.mem_of_mem_filter h

theorem mem_tlb_of_foldl_holdEntry {es : List TlbEntry} {t : TlbEntry} (h : t ∈ (es.foldl holdEntry s).tlb) : t ∈ es ∨ t ∈ s.tlb := by
  induction es generalizing s with
  | nil => exact .inr h
  | cons e es ih =>
    obtain h | h := ih h
    · exact .inl (List.mem_cons_of_mem _ h)
    · exact (mem_tlb_of_holdEntry h).imp_left fun he => by rw [he]; exact List.mem_cons_self

/-- An entry that was not held stands first. -/
theorem holdEntry_new {e : TlbEntry} (h : e ∉ s.tlb) : ∃ ts, (holdEntry s e).tlb = e :: ts := by
  unfold holdEntry
  rw [if_neg (by rwa [List.contains_iff_mem])]
  exact ⟨_, rfl⟩

/-- The page of an address, as TLB entries name it. -/
def pageOf (a : BitVec 64) : Nat := a.toNat % 2 ^ 48 / 4096

theorem translate_held {t : TlbEntry} (h : tlbFind s v (homeDie s v) (pageOf a) = some t) :
    translate s v a = some { entry := t.entry, base := leafFrame t.entry, log := t.log } := by
  rw [Machine.translate, ← pageOf, h]

theorem translate_walked (h : tlbFind s v (homeDie s v) (pageOf a) = none) :
    translate s v a = (walk s v (homeDie s v) (a.toNat % 2 ^ 48)).2 := by
  rw [Machine.translate, ← pageOf, h]

theorem holdLeaf_held {t : TlbEntry} (h : tlbFind s v (homeDie s v) (pageOf a) = some t) (l : Leaf) : holdLeaf s v a l = s :=
  if_pos (Option.isSome_iff_exists.mpr ⟨t, h⟩)

/-- The TLB entry of a leaf. -/
def leafEntry (s : State) (v : Nat) (a : BitVec 64) (l : Leaf) : TlbEntry :=
  { die := homeDie s v, vc := v, page := pageOf a / 2 ^ l.log * 2 ^ l.log, log := l.log, entry := l.entry, table := none }

theorem holdLeaf_walked (h : tlbFind s v (homeDie s v) (pageOf a) = none) (l : Leaf) : holdLeaf s v a l =
    holdEntry ((walk s v (homeDie s v) (a.toNat % 2 ^ 48)).1.foldl holdEntry s) (leafEntry s v a l) :=
  if_neg (show ¬(tlbFind s v (homeDie s v) (pageOf a)).isSome = true by rw [h]; decide)

/-- The entry of a leaf is one that an access of its page finds. -/
theorem leafEntry_found (s : State) (v : Nat) (a : BitVec 64) (l : Leaf) : ((leafEntry s v a l).vc == v && (leafEntry s v a l).die == homeDie s v &&
    (leafEntry s v a l).table.isNone && (leafEntry s v a l).page / 2 ^ (leafEntry s v a l).log == pageOf a / 2 ^ (leafEntry s v a l).log) = true := by
  simp [leafEntry, Nat.mul_div_cancel _ (Nat.two_pow_pos l.log)]

/-- A leaf that a page has is found once it is held. -/
theorem tlbFind_holdLeaf (ht : translate s v a = some l) : ∃ t, tlbFind (holdLeaf s v a l) v (homeDie s v) (pageOf a) = some t ∧
    l = { entry := t.entry, base := leafFrame t.entry, log := t.log } := by
  cases hf : tlbFind s v (homeDie s v) (pageOf a) with
  | some t => exact ⟨t, by rw [holdLeaf_held hf, hf], Option.some.inj (ht.symm.trans (translate_held hf))⟩
  | none =>
    rw [translate_walked hf] at ht
    obtain ⟨hptr, hbase⟩ := walkFrom_spec s v (homeDie s v) (a.toNat % 2 ^ 48) 3 (field (vchip s v).ptroot 51 12 * 4096)
    have hnew : leafEntry s v a l ∉ ((walk s v (homeDie s v) (a.toNat % 2 ^ 48)).1.foldl holdEntry s).tlb := fun hm => by
      obtain hm | hm := mem_tlb_of_foldl_holdEntry hm
      · exact Bool.noConfusion (hptr _ hm)
      · exact List.find?_eq_none.mp hf _ hm (leafEntry_found s v a l)
    obtain ⟨ts, hts⟩ := holdEntry_new hnew
    refine ⟨leafEntry s v a l, ?_, ?_⟩
    · rw [tlbFind, holdLeaf_walked hf, hts]
      exact List.find?_cons_of_pos (leafEntry_found s v a l)
    · obtain ⟨entry, base, log⟩ := l
      have hb : base = leafFrame entry := hbase _ ht
      rw [hb]
      rfl

theorem homeDie_holdLeaf (s : State) (v : Nat) (a : BitVec 64) (l : Leaf) (w : Nat) : homeDie (holdLeaf s v a l) w = homeDie s w := by
  rw [holdLeaf_eq]
  rfl

/-- Once it is held, a leaf is the one that its page has. -/
theorem translate_holdLeaf (ht : translate s v a = some l) : translate (holdLeaf s v a l) v a = some l := by
  obtain ⟨t, hf, hl⟩ := tlbFind_holdLeaf ht
  rw [hl] at hf ⊢
  exact translate_held (by rwa [homeDie_holdLeaf])

theorem holdLeaf_holdLeaf (ht : translate s v a = some l) : holdLeaf (holdLeaf s v a l) v a l = holdLeaf s v a l := by
  obtain ⟨t, hf, -⟩ := tlbFind_holdLeaf ht
  exact holdLeaf_held (by rwa [homeDie_holdLeaf]) l

end Held

end Sys2Proof.Laws
end

section
/-!
What a write, a get, an atomic and a hint do at their target (R234, R236, R242, R243, R248, R250, R261).
-/

namespace Sys2Proof.Laws

open Sys2Proof.Machine Sys2Proof.Claims

/-! ## Accesses within a line of a page -/

section Line

variable {s : State} {v n : Nat} {a : BitVec 64} {l : Leaf}

/-- A page that allows an access allows a plain read, and a plain write where the access writes. -/
theorem plain_allowed {e : DWord} {acc : Acc} (hp : protectionFails s v e acc = false) (n : Nat) :
    protectionFails s v e { bytes := n } = false ∧ (acc.write = true → protectionFails s v e { bytes := n, write := true } = false) := by
  unfold protectionFails at hp ⊢
  simp only [Bool.or_eq_false_iff] at hp
  obtain ⟨⟨⟨⟨hwrite, -⟩, -⟩, -⟩, hprot⟩ := hp
  refine ⟨?_, fun hw => ?_⟩
  · simp only [hprot, Bool.false_and, Bool.or_self]
  · rw [hw] at hwrite
    simp only [hwrite, hprot, Bool.false_and, Bool.or_self]

variable (hn : 0 < n) (hline : a.toNat % 128 + n ≤ 128) (hlow : a.toNat + n ≤ 2 ^ 48) (ht : translate s v a = some l) (h : Loose s l a)
  {acc : Acc} (hp : protectionFails s v l.entry acc = false)
include hn hline hlow ht h hp

theorem pagedWrite_line (hw : acc.write = true) {bs : List Byte} (hlen : bs.length = n) :
    pagedWrite (n + 1) s v a.toNat bs = writeN (holdLeaf s v a l) (pagedKey s v l.entry (leafAddr l a)) bs := by
  have hplain := (plain_allowed hp n).2 hw
  have hdev := deviceWrite_line hn hline hlow ht h hlen hplain
  rw [deviceWrite, hlen, pagedCause_line hn hline hlow ht hplain, if_neg (by decide)] at hdev
  exact Option.some.inj hdev

theorem pagedRead_line (hclean : poisonedAt s (pagedKey s v l.entry (leafAddr l a)) n = false) :
    pagedRead s v a.toNat n = (holdLeaf s v a l, readN s (pagedKey s v l.entry (leafAddr l a)) n, false) := by
  have hplain := (plain_allowed hp n).1
  have hdev := deviceRead_line hn hline hlow ht h hplain hclean
  rw [deviceRead, deviceLoad, pagedCause_line hn hline hlow ht hplain, if_neg (by decide)] at hdev
  dsimp only at hdev
  split_ifs at hdev with hpois
  have heq := Option.some.inj hdev
  have hpois' : (pagedRead s v a.toNat n).2.2 = false := Bool.eq_false_of_not_eq_true hpois
  exact Prod.ext (congrArg (fun x => x.1) heq) (Prod.ext (congrArg (fun x => x.2) heq) hpois')

end Line

/-! ## Exported bytes (R236) -/

section Exported

variable {s : State} {v off n : Nat} {acc : Acc} {l : Leaf} (h : Exported s v off n acc l)
include h

theorem expVa_toNat : (expVa s v off).toNat = field (vchip s v).expbase 47 12 * 4096 + off := by
  obtain ⟨hn, -, -, -, hlow, -⟩ := h
  rw [expVa, BitVec.toNat_ofNat]
  exact Nat.mod_eq_of_lt (by omega)

/-- Exported bytes lie within one line of low addresses. -/
theorem exported_line : (expVa s v off).toNat % 128 + n ≤ 128 ∧ (expVa s v off).toNat + n ≤ 2 ^ 48 := by
  rw [expVa_toNat h]
  obtain ⟨hn, -, hline, -, hlow, -⟩ := h
  exact ⟨by omega, hlow⟩

theorem exported_leaf : 0 < n ∧ translate s v (expVa s v off) = some l ∧ protectionFails s v l.entry acc = false ∧ Loose s l (expVa s v off) := by
  obtain ⟨hn, -, -, -, -, ht, hp, hloose⟩ := h
  exact ⟨hn, ht, hp, hloose⟩

theorem exportAddr_exported : exportAddr s v off n acc = (expVa s v off, 0) := by
  obtain ⟨hline, hlow⟩ := exported_line h
  obtain ⟨hn, ht, hp, -⟩ := exported_leaf h
  have hcause : pagedCause s v (expVa s v off).toNat n acc = 0 := pagedCause_line hn hline hlow ht hp
  obtain ⟨-, -, -, hsize, -⟩ := h
  refine Prod.ext rfl ((if_neg (Nat.not_lt_of_le hsize)).trans ?_)
  exact (congrArg causeKind hcause).trans (show causeKind 0 = 0 by decide)

theorem pagedRead_exported (hclean : poisonedAt s (expKey s v off l) n = false) : pagedRead s v (expVa s v off).toNat n =
    (holdLeaf s v (expVa s v off) l, readN s (expKey s v off l) n, false) := by
  obtain ⟨hline, hlow⟩ := exported_line h
  obtain ⟨hn, ht, hp, hloose⟩ := exported_leaf h
  exact pagedRead_line hn hline hlow ht hloose hp hclean

/-- Bytes are written through their leaf, and so they are where a read before has left it held. -/
theorem pagedWrite_exported (hw : acc.write = true) {bs : List Byte} (hlen : bs.length = n) :
    pagedWrite (n + 1) s v (expVa s v off).toNat bs = writeN (holdLeaf s v (expVa s v off) l) (expKey s v off l) bs ∧
    pagedWrite (n + 1) (holdLeaf s v (expVa s v off) l) v (expVa s v off).toNat bs =
      writeN (holdLeaf s v (expVa s v off) l) (expKey s v off l) bs := by
  obtain ⟨hline, hlow⟩ := exported_line h
  obtain ⟨hn, ht, hp, hloose⟩ := exported_leaf h
  refine ⟨pagedWrite_line hn hline hlow ht hloose hp hw hlen, ?_⟩
  have hloose' : Loose (holdLeaf s v (expVa s v off) l) l (expVa s v off) := by
    rw [holdLeaf_eq]
    exact hloose
  have hp' : protectionFails (holdLeaf s v (expVa s v off) l) v l.entry acc = false := by
    rw [holdLeaf_eq]
    exact hp
  rw [pagedWrite_line hn hline hlow (translate_holdLeaf ht) hloose' hp' hw hlen, holdLeaf_holdLeaf ht, pagedKey_loose hloose]
  rfl

end Exported

/-! ## Arrivals where nothing is counted (R247) -/

section Uncounted

variable {s : State} (h : ∀ u, u ∈ s.teams → u.counters = [])
include h

theorem arrive_uncounted (v : Nat) (owner : Option Nat) (va : DWord) (n : Nat) : arrive s v owner va n = s := by
  have hteam : ∀ i, arriveTeam va n owner s i = s := fun i => by
    unfold arriveTeam
    cases ht : s.teams[i]? with
    | none => rfl
    | some t =>
      dsimp only
      rw [h t (List.mem_of_getElem? ht)]
      exact ite_self s
  rw [arrive]
  induction (List.range s.teams.length).filter fun i => (s.teams[i]?.map fun t => t.vc) == some v with
  | nil => rfl
  | cons i is ih => rw [List.foldl_cons, hteam, ih]

theorem awayCounters_uncounted (v va n : Nat) : awayCounters s v va n = [] := by
  rw [awayCounters, List.filterMap_eq_nil_iff]
  intro p hp
  have hnone : ∀ x, counterOf p.2 x = none := fun x => by
    obtain ⟨k, hk⟩ := List.mem_iff_getElem?.mp hp
    rw [mapFrom_getElem?, Option.map_eq_some_iff] at hk
    obtain ⟨t, ht, rfl⟩ := hk
    rw [counterOf, h t (List.mem_of_getElem? ht)]
    rfl
  split_ifs
  · simp only [hnone, Option.map_none, List.findSome?_eq_none_iff, implies_true]
  · rfl

theorem land_uncounted (v : Nat) (f : Flit) (va : DWord) {bs : List Byte} {n : Nat} {t : State} (hlen : bs.length = n)
    (hw : pagedWrite (n + 1) s v va.toNat bs = t) (ht : t.teams = s.teams) : land s v f va bs = some (receivedBytes t v n) := by
  rw [land, awayCounters_uncounted h, hlen]
  dsimp only
  rw [hw, arrive_uncounted (by rwa [ht])]

end Uncounted

/-! ## Requests at exported memory -/

section Requests

variable {s : State} {f : Flit} {v : Nat} {l : Leaf}

theorem act_write (hop : f.op = 0) : act s f = doWrite s f := by
  rw [act, hop]
  rfl

theorem act_get (hop : f.op = 1) : act s f = doGet s f := by
  rw [act, hop]
  rfl

theorem act_atomic (hop : f.op = 3) : act s f = doAtomic s f := by
  rw [act, hop]
  rfl

theorem act_hint (hop : f.op = 8) : act s f = .done (doHint s f) := by
  rw [act, hop]
  rfl

/-- A piece of a write that has been performed is completed, and its source here counts its bytes (R242, R491). -/
theorem completeDone_eq (s : State) (f : Flit) :
    completeDone s f = completeWith (countedHere s f (f.nb.toNat + 1)) f 0 (f.nb.toNat + 1) := by rw [completeDone, countedHere_eq]

theorem write_lands (hv : f.dslot.toNat = v) (hop : f.op = 0) (hdest : f.dest = .memory) (hcnt : ∀ u, u ∈ s.teams → u.counters = [])
    {len : Nat} (hlen : f.nb.toNat + 1 = len) (hpay : len ≤ f.payload.length)
    (h : Exported s v f.off.toNat len { bytes := len, write := true } l) :
    act s f = .done (completeWith (countedHere (countVc (writeN (holdLeaf s v (expVa s v f.off.toNat) l)
      (expKey s v f.off.toNat l) (f.payload.take len)) v 5 len) f len) f 0 len) := by
  have hbs : (f.payload.take len).length = len := List.length_take_of_le hpay
  have hland : land s v f (expVa s v f.off.toNat) (f.payload.take len) = some (receivedBytes (writeN (holdLeaf s v (expVa s v f.off.toNat) l)
      (expKey s v f.off.toNat l) (f.payload.take len)) v len) := by
    have hteams : (writeN (holdLeaf s v (expVa s v f.off.toNat) l) (expKey s v f.off.toNat l) (f.payload.take len)).teams = s.teams := by
      rw [holdLeaf_eq]
      rfl
    exact land_uncounted hcnt v f _ hbs (pagedWrite_exported h rfl hbs).1 hteams
  rw [act_write hop, doWrite, hdest, hv]
  dsimp only [writeExport]
  rw [usedBytes_eq hlen, hbs, exportAddr_exported h, if_neg (show ¬((0 : Nat) != 0) = true by decide), hland]
  dsimp only
  rw [completeDone_eq, hlen]
  rfl

theorem get_answers (hv : f.dslot.toNat = v) (hop : f.op = 1) (hdest : f.dest = .memory) {len : Nat} (hlen : f.nb.toNat + 1 = len)
    (h : Exported s v f.off.toNat len { bytes := len } l) (hclean : poisonedAt s (expKey s v f.off.toNat l) len = false) :
    act s f = .done (reply (countVc (holdLeaf s v (expVa s v f.off.toNat) l) v 4 len) f 2 (readN s (expKey s v f.off.toNat l) len)) := by
  rw [act_get hop, doGet, hdest, hv, hlen]
  dsimp only
  rw [exportAddr_exported h, if_neg (show ¬((0 : Nat) != 0) = true by decide), pagedRead_exported h hclean]
  rfl

/-- The word that an atomic leaves, once its old value has been read (R248). -/
theorem finishAtomic_eq {n old : Nat} {a : DWord} {t : State} {q h : Nat} (hh : recField f.payload 16 1 % 32 = h)
    (hw : ∀ bs : List Byte, bs.length = n → pagedWrite (n + 1) s v a.toNat bs = writeN t q bs) :
    finishAtomic s v f a n old = reply (countedHere (countVc (writeN t q (toLeBytes n (handlerNew h old
      (recField f.payload 0 8 % 2 ^ (8 * handlerBytes h)) (recField f.payload 8 8 % 2 ^ (8 * handlerBytes h))))) v 5 8) f 8) f 4
      (toLeBytes 8 old) := by
  subst hh
  dsimp only [finishAtomic, handlerArgs]
  rw [hw _ (toLeBytes_length _ _), countedHere_eq]
  rfl

section Atomic

variable {n h : Nat} (hv : f.dslot.toNat = v) (hop : f.op = 3) (hh : recField f.payload 16 1 % 32 = h) (hn : handlerBytes h = n)
  (hx : Exported s v f.off.toNat n { bytes := n, write := true, atomic := true } l)
  (hclean : poisonedAt s (expKey s v f.off.toNat l) n = false)
include hv hop hh hn hx hclean

/-- At the home slice an atomic is done at once (R248). -/
theorem atomic_atHome (hdest : f.dest = .home) : act s f = .done (reply (countedHere (countVc (writeN (holdLeaf s v (expVa s v f.off.toNat) l)
    (expKey s v f.off.toNat l) (toLeBytes n (handlerNew h (readLe s (expKey s v f.off.toNat l) n) (recField f.payload 0 8 % 2 ^ (8 * n))
      (recField f.payload 8 8 % 2 ^ (8 * n))))) v 5 8) f 8) f 4 (toLeBytes 8 (readLe s (expKey s v f.off.toNat l) n))) := by
  have hwidth : handlerBytes (handlerArgs f).1 = n := (congrArg handlerBytes hh).trans hn
  have hfinish := finishAtomic_eq (old := readLe s (expKey s v f.off.toNat l) n) hh fun bs hlen => (pagedWrite_exported hx rfl hlen).2
  rw [hn] at hfinish
  rw [act_atomic hop, doAtomic, hdest, hv]
  dsimp only [atomicExport]
  rw [hwidth, exportAddr_exported hx, if_neg (show ¬((0 : Nat) != 0) = true by decide), hdest, bne_self_eq_false,
    Bool.false_and, if_neg Bool.false_ne_true]
  dsimp only
  rw [pagedRead_exported hx hclean, if_neg Bool.false_ne_true, if_pos (by decide)]
  exact congrArg Delivery.done hfinish

/-- At the memory controller its word is recalled (R171, R248). -/
theorem atomic_recalls (hdest : f.dest = .memory)
    (hapart : ∀ x, x ∈ s.recalls → expKey s v f.off.toNat l + n ≤ x.place ∨ x.place + x.bytes ≤ expKey s v f.off.toNat l) :
    act s f = .done { holdLeaf s v (expVa s v f.off.toNat) l with
      recalls := s.recalls ++ [{ flit := f, vc := v, va := expVa s v f.off.toNat, place := expKey s v f.off.toNat l, bytes := n,
                                 old := readLe s (expKey s v f.off.toNat l) n, fresh := true }] } := by
  have hwidth : handlerBytes (handlerArgs f).1 = n := (congrArg handlerBytes hh).trans hn
  have hplace : (placeOfByte s v (expVa s v f.off.toNat)).getD 0 = expKey s v f.off.toNat l := by
    rw [placeOfByte, (exported_leaf hx).2.1]
    rfl
  have hfree : (s.recalls.any fun x => rangesMeet (expKey s v f.off.toNat l) n x.place x.bytes) = false := by
    refine List.any_eq_false.mpr fun x hm => ?_
    have := hapart x hm
    simp only [rangesMeet, Bool.and_eq_true, decide_eq_true_eq]
    omega
  rw [act_atomic hop, doAtomic, hdest, hv]
  dsimp only [atomicExport]
  rw [hwidth, exportAddr_exported hx, if_neg (show ¬((0 : Nat) != 0) = true by decide), hdest]
  dsimp only
  rw [hplace, hfree, Bool.and_false, if_neg Bool.false_ne_true, pagedRead_exported hx hclean, if_neg Bool.false_ne_true,
    if_neg (show ¬(FlitDest.memory == .home) = true by decide)]
  have hrecalls : (holdLeaf s v (expVa s v f.off.toNat) l).recalls = s.recalls := by rw [holdLeaf_eq]
  dsimp only
  rw [hrecalls]
  rfl

end Atomic

/-! ## Recalls (R171, R248) -/

theorem finishRecalls_fresh {x : Recall} (h : s.recalls = [x]) (hf : x.fresh = true) :
    finishRecalls s = { s with recalls := [{ x with fresh := false }] } := by
  unfold finishRecalls
  simp only [h, hf, List.filter_cons, List.filter_nil, List.map_cons, List.map_nil, if_true, Bool.not_true, Bool.false_eq_true, if_false,
    List.foldl_nil]

theorem finishRecalls_due {x : Recall} (h : s.recalls = [x]) (hf : x.fresh = false) :
    finishRecalls s = finishAtomic { s with recalls := [] } x.vc x.flit x.va x.bytes x.old := by
  unfold finishRecalls
  simp only [h, hf, List.filter_cons, List.filter_nil, List.map_nil, if_true, Bool.not_false, Bool.false_eq_true, if_false,
    List.foldl_cons, List.foldl_nil]

/-- What is exported does not depend on the recalls. -/
theorem exported_recalls {off n : Nat} {acc : Acc} (h : Exported s v off n acc l) (rs : List Recall) : Exported { s with recalls := rs } v off n acc l := h

theorem recall_writes {x : Recall} (hr : s.recalls = [x]) (hf : x.fresh = false)
    (hx : Exported s x.vc x.flit.off.toNat x.bytes { bytes := x.bytes, write := true, atomic := true } l) (hva : x.va = expVa s x.vc x.flit.off.toNat)
    {h : Nat} (hh : recField x.flit.payload 16 1 % 32 = h) :
    finishRecalls s = reply (countedHere (countVc (writeN (holdLeaf { s with recalls := [] } x.vc x.va l)
      (expKey s x.vc x.flit.off.toNat l) (toLeBytes x.bytes (handlerNew h x.old (recField x.flit.payload 0 8 % 2 ^ (8 * handlerBytes h))
        (recField x.flit.payload 8 8 % 2 ^ (8 * handlerBytes h))))) x.vc 5 8) x.flit 8) x.flit 4 (toLeBytes 8 x.old) := by
  rw [finishRecalls_due hr hf]
  refine finishAtomic_eq hh fun bs hlen => ?_
  rw [hva]
  exact (pagedWrite_exported (exported_recalls hx []) rfl hlen).1

/-! ## Requests at a pool node (R250) -/

section Pool

variable (hdest : f.dest = .pool)
include hdest

theorem poolWrite_lands (hop : f.op = 0) : act s f = .done (completeWith (countedHere (writeN s (poolKey f.dslot.toNat f.off.toNat)
    (f.payload.take (f.nb.toNat + 1))) f (f.nb.toNat + 1)) f 0 (f.nb.toNat + 1)) := by
  rw [act_write hop, doWrite, hdest]
  dsimp only
  rw [completeDone_eq, usedBytes]

theorem poolGet_answers (hop : f.op = 1) :
    act s f = .done (reply s f 2 (readN s (poolKey f.dslot.toNat f.off.toNat) (f.nb.toNat + 1))) := by
  rw [act_get hop, doGet, hdest]
  rfl

theorem poolAtomic_answers (hop : f.op = 3) {h n q : Nat} (hh : recField f.payload 16 1 % 32 = h) (hn : handlerBytes h = n)
    (hq : poolKey f.dslot.toNat f.off.toNat = q) :
    act s f = .done (reply (countedHere (writeLe s q n (handlerNew h (readLe s q n) (recField f.payload 0 8 % 2 ^ (8 * n))
      (recField f.payload 8 8 % 2 ^ (8 * n)))) f 8) f 4 (toLeBytes 8 (readLe s q n))) := by
  rw [act_atomic hop, doAtomic, hdest]
  dsimp only [atomicPool, handlerArgs]
  rw [hh, hn, hq, countedHere_eq]
  rfl

end Pool

/-! ## Hints (R261) -/

section Hint

variable {e : Nat} {inc : BitVec 64} (hv : f.dslot.toNat = v)
include hv

theorem hint_resumes (hdest : f.dest = .endpoint e inc) {m x base size} (hbound : tget (vchip s v).endpoints e = some (.team m x base size)) :
    doHint s f = modVc s v fun c => if m ∈ c.resume then { c with resume := m :: c.resume.filter fun k => k != m } else c := by
  rw [doHint, hdest, hv]
  dsimp only
  rw [hbound]
  simp only [List.contains_iff_mem]

theorem hint_unbound (hdest : f.dest = .endpoint e inc) (hnone : ∀ m x base size, tget (vchip s v).endpoints e ≠ some (.team m x base size)) :
    doHint s f = s := by
  rw [doHint, hdest, hv]
  dsimp only
  split
  · next m x base size hbound => exact absurd hbound (hnone m x base size)
  · rfl

theorem hint_holdsOff (hdest : f.dest = .memory ∨ ∃ e, f.dest = .queue e) : doHint s f = holdSaves s v := by
  rw [doHint, hv]
  rcases hdest with hd | ⟨e, hd⟩
  · rw [hd]
  · rw [hd]

omit hv in
theorem holdSaves_cores (s : State) (v n : Nat) :
    (holdSaves s v).cores[n]? = (s.cores[n]?).map fun k => if (vchip s v).piers.getLsbD (n / 2) = true then { k with heldOff := true } else k := by
  rw [holdSaves, mapFrom_getElem?, Nat.zero_add]

end Hint

end Requests

/-- The clauses of `RequestResults` (R234, R236, R242, R243, R248, R250, R261). -/
theorem requestResults : RequestResults := by
  refine ⟨fun s f hdone hop => ?_, ?_, ?_, ?_, ?_, ?_, ?_⟩
  · exact (if_neg (by simpa [opAck] using hop)).trans (if_pos hdone)
  · intro s f v l hv hop hdest hnew hcnt len hpay hx
    exact perform_done (by rw [hop]; decide) hnew (write_lands hv hop hdest hcnt rfl hpay hx)
  · intro s f v l hv hop hdest hnew len off hx hclean
    exact perform_done (by rw [hop]; decide) hnew (get_answers hv hop hdest rfl hx hclean)
  · intro s f v l hv hop _ hnew h n q hx hclean s1
    have hne : f.op ≠ 7 := by rw [hop]; decide
    exact ⟨fun hdest => perform_done hne hnew (atomic_atHome hv hop rfl rfl hx hclean hdest),
      fun hdest hapart => perform_done hne hnew (atomic_recalls hv hop rfl rfl hx hclean hdest hapart)⟩
  · intro s x l hr _ hx hva h w s0
    exact ⟨finishRecalls_fresh hr, fun hf _ => recall_writes hr hf hx hva rfl⟩
  · intro s f hdest hnew q len
    refine ⟨fun hop => ?_, fun hop => ?_, fun hop => ?_⟩
    · exact perform_done (by rw [hop]; decide) hnew (poolWrite_lands hdest hop)
    · exact perform_done (by rw [hop]; decide) hnew (poolGet_answers hdest hop)
    · exact perform_done (by rw [hop]; decide) hnew (poolAtomic_answers hdest hop rfl rfl rfl)
  · intro s f v hv hop hnew
    have hact : perform s f = .done (notePerformed (doHint s f) f) := perform_done (by rw [hop]; decide) hnew (act_hint hop)
    refine ⟨fun e inc m x base size hdest hbound => ?_, fun e inc hdest hnone => ?_, fun hdest => ⟨holdSaves s v, ?_, rfl, holdSaves_cores s v⟩⟩
    · rw [hact, hint_resumes hv hdest hbound]
    · rw [hact, hint_unbound hv hdest hnone]
    · rw [hact, hint_holdsOff hv hdest]

/-- Settles O49: each request by its effect at exported memory, a pool node or an endpoint, the handlers by their cases, and each reply by
how it ends its piece. -/
theorem pieceAndTransferCompletion : Obligations.PieceAndTransferCompletion :=
  ⟨requestResults, handlerTable, poolRequestResults, replyResults, transfersComplete⟩

end Sys2Proof.Laws
end
